-- ==== Sys2Proof/Word.lean ====
section
/-! DEFINITION. The word types of the VA-3 and their plainest arithmetic (R4, R7, R79). -/

namespace Sys2Proof

/-- One byte of memory (R4). -/
abbrev Byte := BitVec 8

/-- A 64-bit register, instruction word or doubleword (R98, R290). -/
abbrev Word := BitVec 64

/-- The payload of a token: 64 bits of a scalar in the low end, or a 512-bit vector (R79). -/
abbrev Payload := BitVec 512

/-- Bits [lo+n-1 : lo] of `w`, bit 0 the least significant (R4). -/
def bits (w lo n : Nat) : Nat := w / 2 ^ lo % 2 ^ n

/-- Bit `i` of `w`. -/
def bit (w i : Nat) : Bool := bits w i 1 == 1

/-- The signed value of the low `n` bits of `w` (R7, sext). -/
def sint (w n : Nat) : Int :=
  let x := w % 2 ^ n
  if x < 2 ^ (n - 1) then (x : Int) else (x : Int) - (2 ^ n : Nat)

/-- The integer `x` modulo 2^n, as its two's-complement pattern (R7, wrap). -/
def wrapN (x : Int) (n : Nat) : Nat := (x % ((2 ^ n : Nat) : Int)).toNat

/-- The low `n` bits of `w`, sign-extended to 64 bits (R7, sext). -/
def sextN (w n : Nat) : Nat := wrapN (sint w n) 64

/-- The value of a Bool as a number. -/
def bnat (b : Bool) : Nat := if b then 1 else 0

end Sys2Proof
end

