-- ==== Sys2Proof/Config.lean ====
section
/-! DEFINITION. What a build or the world fixes: the free values, with no body (R1, R2), and the facts the
manual leaves to the device (log entries 1 and 6). -/

namespace Sys2Proof.Config

/-- The free values: each freedom of the manual takes one, reduced into its bound (R2). Log entry 1. -/
opaque freeNat : Nat → Nat

/-- The bytes of the key that an image carries, whose hash the fuses hold; how an image holds it no rule says (R386 step 4).
Log entry 7. -/
opaque imageKey : (image : List Byte) → List Byte

/-- Modulus and exponent of a key as its bytes give them, which no rule lays out (R386). Log entry 7. -/
opaque keyNumbers : (key : List Byte) → Nat × Nat

/-- What an image's signature signs, and the signature; how an image holds them no rule says (R386 step 4). Log entry 7. -/
opaque imageSigned : (image : List Byte) → List Byte × List Byte

/-- An identity key pair made from the security root's entropy source: modulus, public exponent, private exponent (R390).
Log entry 7. -/
opaque identityKey : Nat → Nat × Nat × Nat

/-- How many acts may go before one that stays enabled (R29, R39, R44, R51); finite, no rule gives the number. Log entry 80. -/
opaque patience : Nat

/-- Whether two stations of a core share an output path, which no rule gives (R39). Log entry 80. -/
opaque samePath : (k l : Nat) → Bool

/-- The image in the boot flash at the first reset, which no rule gives (R386). Log entry 6. -/
opaque bootFlash : List Byte

/-- The hash held in fuses of the key that verifies images (R386). Log entry 6. -/
opaque fuseKeyHash : List Byte

/-- Whether a package of the pod or system exists beside this one (R345). Log entry 8. -/
opaque packageExists : (pod pkg : Nat) → Bool

/-- The pod and package numbers that the service configures at bring-up (R301, R386 step 6). Log entry 8. -/
opaque packageId : Nat

/-- The ways of a set of an LLC slice beyond the first two, which no rule gives (R310). Log entry 76. -/
opaque llcMoreWays : Nat

/-- The ways of a set of an LLC slice: with fewer than two, half of them would hold no line (R310). -/
def llcWays : Nat := llcMoreWays + 2

/-- The set of its slice that holds an LLC line, which no rule gives (R310). Log entry 76. -/
opaque llcSet : (line : Nat) → Nat

/-- The memory port of a core that serves the accesses of a slot, which no rule gives (R197, R324). Log entry 29. -/
opaque memoryPort : (k : Nat) → Nat

/-- Whether another package's second stage holds a valid entry for a 2 MiB page of a chair (R384). Log entry 9. -/
opaque remoteEntry : (pkg chair page : Nat) → Bool

end Sys2Proof.Config
end

