-- ==== Sys2Proof/Syntax.lean ====
section
/-! DEFINITION. The abstract syntax: operand types, one structure per word layout (R98 to R115), and the one
inductive `Instr`, a constructor per row of the opcode table. NOP and WRITE words are declarations that never fire
(R111) and have no row; `SlotWord` holds them. -/

namespace Sys2Proof

/-- Format tags, codes 0 to 7 (R79); codes 6 and 7 are reserved. -/
inductive Fmt | int | fp32 | bf16 | fp16 | kt8 | kt6 | rsv6 | rsv7
  deriving DecidableEq, Repr

/-- Integer and access widths, codes 000 to 011 (R106, R115). -/
inductive IW | w8 | w16 | w32 | w64
  deriving DecidableEq, Repr

/-- PR: no predicate, fires on true, fires on false (R99). -/
inductive Pred | always | onTrue | onFalse
  deriving DecidableEq, Repr

/-- The ports of a slot (R100). -/
inductive Port | a | b | p
  deriving DecidableEq, Repr

/-- A target: empty, a port of a slot of the block, or a write slot (R100). -/
inductive Target
  | none
  | port (p : Port) (slot : BitVec 7)
  | wslot (n : BitVec 5)
  deriving DecidableEq, Repr

/-- SC: who an acquire or release reaches (R106, R193). -/
inductive Scope | strand | core | pkg | pod
  deriving DecidableEq, Repr

/-- Rounding modes (R84). -/
inductive Rm | rne | rz | rd | ru
  deriving DecidableEq, Repr

/-- AOP of AMO, AMOL and SCATA (R108). -/
inductive AmoOp | add | and | or | xor | min | max | minu | maxu | swp | cas | fadd32
  deriving DecidableEq, Repr

/-- ORD of AMO and AMOL (R108). -/
inductive AmoOrd | rlx | acq | rel | acqrel
  deriving DecidableEq, Repr

/-- KIND of FENCE (R114). -/
inductive FenceKind | acq | rel | full | codeK
  deriving DecidableEq, Repr

/-- LINK of a chain access (R107). -/
inductive Link | both | predL | succL | wild
  deriving DecidableEq, Repr

/-- ORD and displacement of a global load or store: plain, acquire or release, or chain (R106, R107). -/
inductive MemMode
  | plain (disp : BitVec 21)
  | sync (disp : BitVec 21)
  | chain (link : Link) (disp : BitVec 19)
  deriving DecidableEq, Repr

/-- Registers that READ and WRITE name (R110). -/
inductive RegName
  | g (n : BitVec 5)
  | v (n : BitVec 3)
  | ba | tag | iter | lnk
  deriving DecidableEq, Repr

/-- CSRs (R292). -/
inductive Csr
  | ctxpri | cabq | chest | lmpart | chain | tagq | trapv | traps | trapba | flt
  | tap (n : BitVec 3)
  deriving DecidableEq, Repr

/-- Integer reductions of REDT (R173). -/
inductive IntRed | add | min | max | minu | maxu | and | or | xor
  deriving DecidableEq, Repr

/-- OPR with the W and RM that suit it (R173). -/
inductive RedOp
  | int (op : IntRed) (w : IW)
  | fadd (rm : Rm)
  | fmin | fmax
  deriving DecidableEq, Repr

/-- OPR of VRED and VSCAN (R229). -/
inductive VRedOp | add | min | max
  deriving DecidableEq, Repr

/-- Relations of VCMP and ECMP (R227). -/
inductive Rel | eq | ne | lt | le | gt | ge | unord | ord
  deriving DecidableEq, Repr

/-- COND of VMASK (R228). -/
inductive MaskCond | nonzero | sign | zero
  deriving DecidableEq, Repr

/-- Forms of VCVT (R231). -/
inductive CvtForm | value | fromInt | toInt | bitCast
  deriving DecidableEq, Repr

/-- Permutation of VSHUF (R230). -/
inductive ShufForm
  | rotate (k : BitVec 4)
  | reverse
  deriving DecidableEq, Repr

/-- PR, T0 and T1 alone (R103, R114). -/
structure FP where
  pr : Pred
  t0 : Target
  t1 : Target
  deriving DecidableEq, Repr

/-- SEL: PR is 00 (R102). -/
structure FSel where
  t0 : Target
  t1 : Target
  deriving DecidableEq, Repr

/-- Format A4 (R103). -/
structure FMov4 where
  pr : Pred
  t0 : Target
  t1 : Target
  t2 : Target
  t3 : Target
  deriving DecidableEq, Repr

/-- Format L (R105). -/
structure FLimm where
  pr : Pred
  t0 : Target
  imm : BitVec 44
  deriving DecidableEq, Repr

/-- ORHI (R104). -/
structure FOrhi where
  pr : Pred
  t0 : Target
  t1 : Target
  imm : BitVec 20
  deriving DecidableEq, Repr

/-- READ (R157). -/
structure FRead where
  pr : Pred
  t0 : Target
  t1 : Target
  reg : RegName
  deriving DecidableEq, Repr

/-- BR and CALL (R109). -/
structure FBr where
  pr : Pred
  exit : BitVec 3
  offs : BitVec 31
  deriving DecidableEq, Repr

/-- BRI, RET, RETT and END (R109). -/
structure FExit where
  pr : Pred
  exit : BitVec 3
  deriving DecidableEq, Repr

/-- TRAP (R110). -/
structure FTrap where
  pr : Pred
  val : BitVec 24
  deriving DecidableEq, Repr

/-- BRK (R165). -/
structure FPr where
  pr : Pred
  deriving DecidableEq, Repr

/-- CSRR, CSRW and CSRX (R110). -/
structure FCsr where
  pr : Pred
  t0 : Target
  t1 : Target
  csr : Csr
  deriving DecidableEq, Repr

/-- FORK and SPAWN (R109). -/
structure FFork where
  pr : Pred
  t0 : Target
  t1 : Target
  offs : BitVec 31
  deriving DecidableEq, Repr

/-- REDT (R173). -/
structure FRedt where
  pr : Pred
  t0 : Target
  t1 : Target
  collect : Bool
  op : RedOp
  deriving DecidableEq, Repr

/-- WAITC (R176). -/
structure FWaitc where
  pr : Pred
  t0 : Target
  t1 : Target
  report : Bool
  deriving DecidableEq, Repr

/-- Format A with a width (R103). -/
structure FA where
  pr : Pred
  t0 : Target
  t1 : Target
  w : IW
  deriving DecidableEq, Repr

/-- Format I (R104). -/
structure FI where
  pr : Pred
  t0 : Target
  t1 : Target
  w : IW
  imm : BitVec 31
  deriving DecidableEq, Repr

/-- FTEST (R104, R179). -/
structure FFtest where
  pr : Pred
  t0 : Target
  t1 : Target
  fmt : Fmt
  cls : BitVec 10
  deriving DecidableEq, Repr

/-- AGEN (R182). -/
structure FAgen where
  pr : Pred
  t0 : Target
  t1 : Target
  w : IW
  sh : BitVec 3
  offs : BitVec 28
  deriving DecidableEq, Repr

/-- CVTIF (R112, R184). -/
structure FCvtif where
  pr : Pred
  t0 : Target
  t1 : Target
  fmt : Fmt
  rm : Rm
  uns : Bool
  sw : IW
  deriving DecidableEq, Repr

/-- CVTFI (R112, R185). -/
structure FCvtfi where
  pr : Pred
  t0 : Target
  t1 : Target
  w : IW
  rm : Rm
  uns : Bool
  deriving DecidableEq, Repr

/-- Format A with a result format (R115). -/
structure FF where
  pr : Pred
  t0 : Target
  t1 : Target
  fmt : Fmt
  deriving DecidableEq, Repr

/-- LD and LDS (R106). -/
structure FLd where
  pr : Pred
  t0 : Target
  t1 : Target
  w : IW
  lsid : BitVec 5
  sc : Scope
  mode : MemMode
  deriving DecidableEq, Repr

/-- LDV (R106). -/
structure FLdv where
  pr : Pred
  t0 : Target
  t1 : Target
  lsid : BitVec 5
  sc : Scope
  mode : MemMode
  deriving DecidableEq, Repr

/-- ST (R106). -/
structure FSt where
  pr : Pred
  w : IW
  lsid : BitVec 5
  sc : Scope
  mode : MemMode
  deriving DecidableEq, Repr

/-- STV (R106). -/
structure FStv where
  pr : Pred
  lsid : BitVec 5
  sc : Scope
  mode : MemMode
  deriving DecidableEq, Repr

/-- LDL (R106): SC is 0 or 1. -/
structure FLdl where
  pr : Pred
  t0 : Target
  t1 : Target
  w : IW
  lsid : BitVec 5
  core : Bool
  disp : BitVec 21
  deriving DecidableEq, Repr

/-- LDVL (R106). -/
structure FLdvl where
  pr : Pred
  t0 : Target
  t1 : Target
  lsid : BitVec 5
  core : Bool
  disp : BitVec 21
  deriving DecidableEq, Repr

/-- STL (R106). -/
structure FStl where
  pr : Pred
  w : IW
  lsid : BitVec 5
  core : Bool
  disp : BitVec 21
  deriving DecidableEq, Repr

/-- STVL (R106). -/
structure FStvl where
  pr : Pred
  lsid : BitVec 5
  core : Bool
  disp : BitVec 21
  deriving DecidableEq, Repr

/-- CHNOP (R107). -/
structure FChnop where
  pr : Pred
  lsid : BitVec 5
  link : Link
  deriving DecidableEq, Repr

/-- PREF (R214). -/
structure FPref where
  pr : Pred
  t0 : Target
  t1 : Target
  lsid : BitVec 5
  disp : BitVec 21
  deriving DecidableEq, Repr

/-- WAITG (R213). -/
structure FWaitg where
  pr : Pred
  t0 : Target
  t1 : Target
  lsid : BitVec 5
  sc : Scope
  disp : BitVec 21
  deriving DecidableEq, Repr

/-- AMO (R108). -/
structure FAmo where
  pr : Pred
  t0 : Target
  t1 : Target
  w : IW
  lsid : BitVec 5
  sc : Scope
  ord : AmoOrd
  op : AmoOp
  deriving DecidableEq, Repr

/-- AMOL (R108): SC is 0 or 1. -/
structure FAmol where
  pr : Pred
  t0 : Target
  t1 : Target
  w : IW
  lsid : BitVec 5
  core : Bool
  ord : AmoOrd
  op : AmoOp
  deriving DecidableEq, Repr

/-- FENCE (R114). -/
structure FFence where
  pr : Pred
  t0 : Target
  t1 : Target
  lsid : BitVec 5
  sc : Scope
  kind : FenceKind
  deriving DecidableEq, Repr

/-- GATH (R207). -/
structure FGath where
  pr : Pred
  t0 : Target
  t1 : Target
  w : IW
  lsid : BitVec 5
  sc : Scope
  lanes : BitVec 8
  deriving DecidableEq, Repr

/-- SCAT (R208). -/
structure FScat where
  pr : Pred
  t0 : Target
  t1 : Target
  w : IW
  lsid : BitVec 5
  sc : Scope
  rel : Bool
  lanes : BitVec 8
  deriving DecidableEq, Repr

/-- SCATA (R208). -/
structure FScata where
  pr : Pred
  t0 : Target
  t1 : Target
  w : IW
  lsid : BitVec 5
  sc : Scope
  rel : Bool
  op : AmoOp
  lanes : BitVec 8
  deriving DecidableEq, Repr

/-- Format E with REL alone (R114). -/
structure FE where
  pr : Pred
  t0 : Target
  t1 : Target
  lsid : BitVec 5
  sc : Scope
  rel : Bool
  deriving DecidableEq, Repr

/-- SYNCI (R213): SC is 0 or 1. -/
structure FSynci where
  pr : Pred
  t0 : Target
  t1 : Target
  lsid : BitVec 5
  core : Bool
  deriving DecidableEq, Repr

/-- INVR and INVA (R114): SC is 2 or 3. -/
structure FInv where
  pr : Pred
  t0 : Target
  t1 : Target
  lsid : BitVec 5
  pod : Bool
  asid : BitVec 16
  deriving DecidableEq, Repr

/-- TFETCH (R215). -/
structure FTfetch where
  pr : Pred
  t0 : Target
  t1 : Target
  fmt : Fmt
  lsid : BitVec 5
  sc : Scope
  stride : BitVec 12
  deriving DecidableEq, Repr

/-- LAUNCH and KVAPP: SC is 2 or 3 (R177, R219). -/
structure FFar where
  pr : Pred
  t0 : Target
  t1 : Target
  lsid : BitVec 5
  pod : Bool
  rel : Bool
  deriving DecidableEq, Repr

/-- BIND, UNBIND and ATTN (R247). -/
structure FBnd where
  pr : Pred
  t0 : Target
  t1 : Target
  lsid : BitVec 5
  sc : Scope
  rel : Bool
  bnum : BitVec 8
  deriving DecidableEq, Repr

/-- PDOM, PSTEP, PSAVE and PREST (R247). -/
structure FDom where
  pr : Pred
  t0 : Target
  t1 : Target
  lsid : BitVec 5
  sc : Scope
  rel : Bool
  dom : BitVec 3
  deriving DecidableEq, Repr

/-- PWR (R247): WHAT is 0 or 1. -/
structure FPwr where
  pr : Pred
  t0 : Target
  t1 : Target
  lsid : BitVec 5
  sc : Scope
  rel : Bool
  res : Bool
  deriving DecidableEq, Repr

/-- PFEED (R247). -/
structure FFeed where
  pr : Pred
  t0 : Target
  t1 : Target
  lsid : BitVec 5
  sc : Scope
  rel : Bool
  dom : BitVec 3
  cnt : BitVec 6
  ch : BitVec 4
  deriving DecidableEq, Repr

/-- PRD, SEL, and PRDV, FMT (R247). -/
structure FPrd where
  pr : Pred
  t0 : Target
  t1 : Target
  lsid : BitVec 5
  alt : Bool
  deriving DecidableEq, Repr

/-- TAPCFG and TAPST (R269). -/
structure FTap where
  pr : Pred
  t0 : Target
  t1 : Target
  tap : BitVec 3
  deriving DecidableEq, Repr

/-- STAP (R247, R271). -/
structure FStap where
  pr : Pred
  t0 : Target
  t1 : Target
  lsid : BitVec 5
  sc : Scope
  rel : Bool
  tap : BitVec 3
  bf16 : Bool
  deriving DecidableEq, Repr

/-- SMPL (R247). -/
structure FSmpl where
  pr : Pred
  t0 : Target
  t1 : Target
  lsid : BitVec 5
  sc : Scope
  rel : Bool
  ver : Bool
  deriving DecidableEq, Repr

/-- SEQRD (R247). -/
structure FSeqrd where
  pr : Pred
  t0 : Target
  t1 : Target
  lsid : BitVec 5
  sc : Scope
  dw : BitVec 3
  deriving DecidableEq, Repr

/-- Format V with RM (R112, R224). -/
structure FV where
  pr : Pred
  t0 : Target
  t1 : Target
  fmt : Fmt
  rm : Rm
  deriving DecidableEq, Repr

/-- VFMA and VFMS: PR is 00 (R102). -/
structure FV3 where
  t0 : Target
  t1 : Target
  fmt : Fmt
  rm : Rm
  deriving DecidableEq, Repr

/-- VCMP (R227). -/
structure FVcmp where
  pr : Pred
  t0 : Target
  t1 : Target
  fmt : Fmt
  cc : Rel
  deriving DecidableEq, Repr

/-- VRED and VSCAN (R229). -/
structure FVred where
  pr : Pred
  t0 : Target
  t1 : Target
  fmt : Fmt
  rm : Rm
  op : VRedOp
  deriving DecidableEq, Repr

/-- VCVT (R231). -/
structure FVcvt where
  pr : Pred
  t0 : Target
  t1 : Target
  fmt : Fmt
  rm : Rm
  form : CvtForm
  deriving DecidableEq, Repr

/-- VPACK (R232). -/
structure FVpack where
  pr : Pred
  t0 : Target
  t1 : Target
  fmt : Fmt
  rm : Rm
  q : BitVec 2
  deriving DecidableEq, Repr

/-- VUNPK (R232). -/
structure FVunpk where
  pr : Pred
  t0 : Target
  t1 : Target
  fmt : Fmt
  rm : Rm
  sf : Fmt
  q : BitVec 2
  deriving DecidableEq, Repr

/-- VIMIN and VIMAX (R234). -/
structure FVmm where
  pr : Pred
  t0 : Target
  t1 : Target
  w : IW
  uns : Bool
  deriving DecidableEq, Repr

/-- VSEL: PR is 00 (R102). -/
structure FVsel where
  t0 : Target
  t1 : Target
  w : IW
  deriving DecidableEq, Repr

/-- VMASK (R228). -/
structure FVmask where
  pr : Pred
  t0 : Target
  t1 : Target
  w : IW
  cond : MaskCond
  deriving DecidableEq, Repr

/-- VBCAST, VEXT and VINS (R230). -/
structure FVx where
  pr : Pred
  t0 : Target
  t1 : Target
  w : IW
  x : BitVec 5
  deriving DecidableEq, Repr

/-- VSHUF (R230). -/
structure FVshuf where
  pr : Pred
  t0 : Target
  t1 : Target
  w : IW
  form : ShufForm
  deriving DecidableEq, Repr

/-- Format T (R113). -/
structure FT where
  pr : Pred
  t0 : Target
  t1 : Target
  fmt : Fmt
  row0 : BitVec 4
  col0 : BitVec 3
  nrow : BitVec 4
  ncol : BitVec 3
  deriving DecidableEq, Repr

/-- WLOAD: one station (R238). -/
structure FWload where
  pr : Pred
  t0 : Target
  t1 : Target
  fmt : Fmt
  row0 : BitVec 4
  col0 : BitVec 3
  deriving DecidableEq, Repr

/-- TMUL (R245). -/
structure FTmul where
  pr : Pred
  t0 : Target
  t1 : Target
  fmt : Fmt
  row0 : BitVec 4
  deriving DecidableEq, Repr

/-- Where an uncorrectable word is found: HBM, the carve-out among it, by address; local memory; a held token; a decoded
block or a mapped window word; a save image; Bureau state (R316, R393). -/
inductive PoisonSite
  | hbm (addr : Nat)
  | localMem (core addr : Nat)
  | cabinet (core n : Nat)
  | chest (core n : Nat)
  | decoded (core n k : Nat)
  | window (core slot age k : Nat)
  | image (n off : Nat)
  | bureau
  deriving DecidableEq, Repr

/-- The next act of an issued engine command: apply its unit `k`, or complete (R211, R220). -/
inductive EngAct
  | unit (k : Nat)
  | finish
  deriving DecidableEq, Repr

/-- Which grant a service write changes (R340). -/
inductive GrantKind
  | probe (n : Nat)
  | steer
  | policy (n : Nat)
  deriving DecidableEq, Repr

/-- The unit of an error record (R350). -/
inductive ErrUnit
  | coreLocal (core : Nat)
  | coreCabinet (core : Nat)
  | coreCode (core : Nat)
  | slice (k : Nat)
  | stack (m : Nat)
  deriving DecidableEq, Repr

/-- The field of an error record that a service write names (R350). -/
inductive ErrField | ce | ue | de | cethr | alert
  deriving DecidableEq, Repr

/-- A command queue: number `n` of a chair, or the service's own (R322, R342). -/
inductive QueueId
  | chair (chair n : Nat)
  | service
  deriving DecidableEq, Repr

/-- Life-cycle states, codes 0 to 5 (R301, R389). -/
inductive LifeCycle | blank | manufacture | provisioned | deployed | rma | scrapped
  deriving DecidableEq, Repr

/-- The instructions and operations of the VA-3: one constructor per row of the opcode table. -/
inductive Instr
  /-- READ, opcode 0x02 (R158). -/
  | read (f : FRead)
  /-- MOV, opcode 0x04 (R160). -/
  | mov (f : FP)
  /-- MOV4, opcode 0x05 (R160). -/
  | mov4 (f : FMov4)
  /-- LIMM, opcode 0x06 (R160). -/
  | limm (f : FLimm)
  /-- ORHI, opcode 0x07 (R160). -/
  | orhi (f : FOrhi)
  /-- NULL, opcode 0x08 (R160). -/
  | nullI (f : FP)
  /-- SEL, opcode 0x09 (R161). -/
  | sel (f : FSel)
  /-- BR, opcode 0x0A (R162). -/
  | br (f : FBr)
  /-- BRI, opcode 0x0B (R162). -/
  | bri (f : FExit)
  /-- CALL, opcode 0x0C (R162). -/
  | call (f : FBr)
  /-- RET, opcode 0x0D (R162). -/
  | ret (f : FExit)
  /-- TRAP, opcode 0x0E (R165). -/
  | trap (f : FTrap)
  /-- RETT, opcode 0x0F (R164). -/
  | rett (f : FExit)
  /-- CSRR, opcode 0x10 (R166). -/
  | csrr (f : FCsr)
  /-- CSRW, opcode 0x11 (R166). -/
  | csrw (f : FCsr)
  /-- CSRX, opcode 0x12 (R166). -/
  | csrx (f : FCsr)
  /-- BRK, opcode 0x13 (R165). -/
  | brk (f : FPr)
  /-- FORK, opcode 0x20 (R168). -/
  | fork (f : FFork)
  /-- SPAWN, opcode 0x21 (R168). -/
  | spawn (f : FFork)
  /-- END, opcode 0x22 (R169). -/
  | endI (f : FExit)
  /-- JOIN, opcode 0x23 (R172). -/
  | join (f : FP)
  /-- REDT, opcode 0x24 (R173). -/
  | redt (f : FRedt)
  /-- LAUNCH, opcode 0x25 (R177). -/
  | launch (f : FFar)
  /-- WAITC, opcode 0x26 (R176). -/
  | waitc (f : FWaitc)
  /-- TEQ, opcode 0x30 (R178). -/
  | teq (f : FA)
  /-- TNE, opcode 0x31 (R178). -/
  | tne (f : FA)
  /-- TLT, opcode 0x32 (R178). -/
  | tlt (f : FA)
  /-- TLE, opcode 0x33 (R178). -/
  | tle (f : FA)
  /-- TLTU, opcode 0x34 (R178). -/
  | tltu (f : FA)
  /-- TLEU, opcode 0x35 (R178). -/
  | tleu (f : FA)
  /-- TEQI, opcode 0x36 (R178). -/
  | teqi (f : FI)
  /-- TNEI, opcode 0x37 (R178). -/
  | tnei (f : FI)
  /-- TLTI, opcode 0x38 (R178). -/
  | tlti (f : FI)
  /-- TLEI, opcode 0x39 (R178). -/
  | tlei (f : FI)
  /-- TGTI, opcode 0x3A (R178). -/
  | tgti (f : FI)
  /-- TGEI, opcode 0x3B (R178). -/
  | tgei (f : FI)
  /-- TLTUI, opcode 0x3C (R178). -/
  | tltui (f : FI)
  /-- TGTUI, opcode 0x3D (R178). -/
  | tgtui (f : FI)
  /-- FTEST, opcode 0x3E (R179). -/
  | ftest (f : FFtest)
  /-- ADD, opcode 0x40 (R180). -/
  | add (f : FA)
  /-- SUB, opcode 0x41 (R180). -/
  | sub (f : FA)
  /-- MUL, opcode 0x42 (R180). -/
  | mul (f : FA)
  /-- MULH, opcode 0x43 (R180). -/
  | mulh (f : FA)
  /-- MULHU, opcode 0x44 (R180). -/
  | mulhu (f : FA)
  /-- DIV, opcode 0x45 (R180). -/
  | div (f : FA)
  /-- DIVU, opcode 0x46 (R180). -/
  | divu (f : FA)
  /-- REM, opcode 0x47 (R180). -/
  | rem (f : FA)
  /-- REMU, opcode 0x48 (R180). -/
  | remu (f : FA)
  /-- AND, opcode 0x49 (R180). -/
  | andI (f : FA)
  /-- OR, opcode 0x4A (R180). -/
  | orI (f : FA)
  /-- XOR, opcode 0x4B (R180). -/
  | xorI (f : FA)
  /-- ANDN, opcode 0x4C (R180). -/
  | andn (f : FA)
  /-- SHL, opcode 0x4D (R180). -/
  | shl (f : FA)
  /-- SHR, opcode 0x4E (R180). -/
  | shr (f : FA)
  /-- SRA, opcode 0x4F (R180). -/
  | sra (f : FA)
  /-- ROTL, opcode 0x50 (R180). -/
  | rotl (f : FA)
  /-- MIN, opcode 0x51 (R180). -/
  | min (f : FA)
  /-- MAX, opcode 0x52 (R180). -/
  | max (f : FA)
  /-- MINU, opcode 0x53 (R180). -/
  | minu (f : FA)
  /-- MAXU, opcode 0x54 (R180). -/
  | maxu (f : FA)
  /-- CLZ, opcode 0x55 (R180). -/
  | clz (f : FA)
  /-- CTZ, opcode 0x56 (R180). -/
  | ctz (f : FA)
  /-- POPC, opcode 0x57 (R180). -/
  | popc (f : FA)
  /-- ABS, opcode 0x58 (R181). -/
  | abs (f : FA)
  /-- NEG, opcode 0x59 (R181). -/
  | neg (f : FA)
  /-- SEXT, opcode 0x5A (R180). -/
  | sext (f : FA)
  /-- ZEXT, opcode 0x5B (R180). -/
  | zext (f : FA)
  /-- ADDI, opcode 0x5C (R180). -/
  | addi (f : FI)
  /-- MULI, opcode 0x5D (R180). -/
  | muli (f : FI)
  /-- ANDI, opcode 0x5E (R180). -/
  | andimm (f : FI)
  /-- ORI, opcode 0x5F (R180). -/
  | orimm (f : FI)
  /-- XORI, opcode 0x60 (R180). -/
  | xorimm (f : FI)
  /-- SHLI, opcode 0x61 (R180). -/
  | shli (f : FI)
  /-- SHRI, opcode 0x62 (R180). -/
  | shri (f : FI)
  /-- SRAI, opcode 0x63 (R180). -/
  | srai (f : FI)
  /-- AGEN, opcode 0x64 (R182). -/
  | agen (f : FAgen)
  /-- CVTIF, opcode 0x65 (R184). -/
  | cvtif (f : FCvtif)
  /-- CVTFI, opcode 0x66 (R185). -/
  | cvtfi (f : FCvtfi)
  /-- FADD, opcode 0x67 (R183). -/
  | fadd (f : FF)
  /-- FSUB, opcode 0x68 (R183). -/
  | fsub (f : FF)
  /-- FMUL, opcode 0x69 (R183). -/
  | fmul (f : FF)
  /-- FDIV, opcode 0x6A (R183). -/
  | fdiv (f : FF)
  /-- FMIN, opcode 0x6B (R183). -/
  | fmin (f : FF)
  /-- FMAX, opcode 0x6C (R183). -/
  | fmax (f : FF)
  /-- LD, opcode 0x70 (R189). -/
  | ld (f : FLd)
  /-- LDS, opcode 0x71 (R189). -/
  | lds (f : FLd)
  /-- ST, opcode 0x72 (R189). -/
  | st (f : FSt)
  /-- LDV, opcode 0x73 (R189). -/
  | ldv (f : FLdv)
  /-- STV, opcode 0x74 (R189). -/
  | stv (f : FStv)
  /-- LDL, opcode 0x75 (R189). -/
  | ldl (f : FLdl)
  /-- STL, opcode 0x76 (R189). -/
  | stl (f : FStl)
  /-- LDVL, opcode 0x77 (R189). -/
  | ldvl (f : FLdvl)
  /-- STVL, opcode 0x78 (R189). -/
  | stvl (f : FStvl)
  /-- CHNOP, opcode 0x79 (R200). -/
  | chnop (f : FChnop)
  /-- AMO, opcode 0x7A (R204). -/
  | amo (f : FAmo)
  /-- AMOL, opcode 0x7B (R204). -/
  | amol (f : FAmol)
  /-- FENCE, opcode 0x7C (R206). -/
  | fence (f : FFence)
  /-- GATH, opcode 0x7D (R207). -/
  | gath (f : FGath)
  /-- SCAT, opcode 0x7E (R208). -/
  | scat (f : FScat)
  /-- SCATA, opcode 0x7F (R208). -/
  | scata (f : FScata)
  /-- XCOPY, opcode 0x80 (R211). -/
  | xcopy (f : FE)
  /-- XFILL, opcode 0x81 (R211). -/
  | xfill (f : FE)
  /-- XCOMP, opcode 0x82 (R211). -/
  | xcomp (f : FE)
  /-- PREF, opcode 0x83 (R214). -/
  | pref (f : FPref)
  /-- SYNCI, opcode 0x84 (R213). -/
  | synci (f : FSynci)
  /-- WAITG, opcode 0x85 (R213). -/
  | waitg (f : FWaitg)
  /-- INVR, opcode 0x86 (R217). -/
  | invr (f : FInv)
  /-- INVA, opcode 0x87 (R217). -/
  | inva (f : FInv)
  /-- TFETCH, opcode 0x88 (R215). -/
  | tfetch (f : FTfetch)
  /-- KVAPP, opcode 0x89 (R219). -/
  | kvapp (f : FFar)
  /-- VADD, opcode 0x90 (R225). -/
  | vadd (f : FV)
  /-- VSUB, opcode 0x91 (R225). -/
  | vsub (f : FV)
  /-- VMUL, opcode 0x92 (R225). -/
  | vmul (f : FV)
  /-- VFMA, opcode 0x93 (R225). -/
  | vfma (f : FV3)
  /-- VFMS, opcode 0x94 (R225). -/
  | vfms (f : FV3)
  /-- VDIV, opcode 0x95 (R225). -/
  | vdiv (f : FV)
  /-- VSQRT, opcode 0x96 (R225). -/
  | vsqrt (f : FV)
  /-- VRSQ, opcode 0x97 (R225). -/
  | vrsq (f : FV)
  /-- VMIN, opcode 0x98 (R225). -/
  | vmin (f : FV)
  /-- VMAX, opcode 0x99 (R225). -/
  | vmax (f : FV)
  /-- VABS, opcode 0x9A (R226). -/
  | vabs (f : FF)
  /-- VNEG, opcode 0x9B (R226). -/
  | vneg (f : FF)
  /-- VEXP2, opcode 0x9C (R225). -/
  | vexp2 (f : FV)
  /-- VLOG2, opcode 0x9D (R225). -/
  | vlog2 (f : FV)
  /-- VCMP, opcode 0x9E (R227). -/
  | vcmp (f : FVcmp)
  /-- VSEL, opcode 0x9F (R228). -/
  | vsel (f : FVsel)
  /-- VRED, opcode 0xA0 (R229). -/
  | vred (f : FVred)
  /-- VSCAN, opcode 0xA1 (R229). -/
  | vscan (f : FVred)
  /-- VDOT, opcode 0xA2 (R229). -/
  | vdot (f : FV)
  /-- VBCAST, opcode 0xA3 (R230). -/
  | vbcast (f : FVx)
  /-- VEXT, opcode 0xA4 (R230). -/
  | vext (f : FVx)
  /-- VINS, opcode 0xA5 (R230). -/
  | vins (f : FVx)
  /-- VPERM, opcode 0xA6 (R230). -/
  | vperm (f : FA)
  /-- VSHUF, opcode 0xA7 (R230). -/
  | vshuf (f : FVshuf)
  /-- VCVT, opcode 0xA8 (R231). -/
  | vcvt (f : FVcvt)
  /-- VSCALE, opcode 0xA9 (R233). -/
  | vscale (f : FF)
  /-- VIADD, opcode 0xAA (R234). -/
  | viadd (f : FA)
  /-- VISUB, opcode 0xAB (R234). -/
  | visub (f : FA)
  /-- VIMUL, opcode 0xAC (R234). -/
  | vimul (f : FA)
  /-- VIAND, opcode 0xAD (R234). -/
  | viand (f : FA)
  /-- VIOR, opcode 0xAE (R234). -/
  | vior (f : FA)
  /-- VIXOR, opcode 0xAF (R234). -/
  | vixor (f : FA)
  /-- VISHL, opcode 0xB0 (R234). -/
  | vishl (f : FA)
  /-- VISHR, opcode 0xB1 (R234). -/
  | vishr (f : FA)
  /-- VISRA, opcode 0xB2 (R234). -/
  | visra (f : FA)
  /-- VIMIN, opcode 0xB3 (R234). -/
  | vimin (f : FVmm)
  /-- VIMAX, opcode 0xB4 (R234). -/
  | vimax (f : FVmm)
  /-- VPACK, opcode 0xB5 (R232). -/
  | vpack (f : FVpack)
  /-- VUNPK, opcode 0xB6 (R232). -/
  | vunpk (f : FVunpk)
  /-- VMASK, opcode 0xB7 (R228). -/
  | vmask (f : FVmask)
  /-- SYSCFG, opcode 0xC0 (R237). -/
  | syscfg (f : FT)
  /-- WLOAD, opcode 0xC1 (R238). -/
  | wload (f : FWload)
  /-- MMA, opcode 0xC2 (R240). -/
  | mma (f : FT)
  /-- DRAIN, opcode 0xC3 (R242). -/
  | drain (f : FT)
  /-- SYSREL, opcode 0xC4 (R243). -/
  | sysrel (f : FT)
  /-- ROUTE, opcode 0xC5 (R239). -/
  | route (f : FT)
  /-- TMUL, opcode 0xC6 (R245). -/
  | tmul (f : FTmul)
  /-- BIND, opcode 0xD0 (R251). -/
  | bind (f : FBnd)
  /-- UNBIND, opcode 0xD1 (R252). -/
  | unbind (f : FBnd)
  /-- ATTN, opcode 0xD2 (R259). -/
  | attn (f : FBnd)
  /-- PATCH, opcode 0xD8 (R263). -/
  | patch (f : FE)
  /-- PDOM, opcode 0xD9 (R262). -/
  | pdom (f : FDom)
  /-- PWR, opcode 0xDA (R264). -/
  | pwr (f : FPwr)
  /-- PRD, opcode 0xDB (R267). -/
  | prd (f : FPrd)
  /-- PRDV, opcode 0xDC (R267). -/
  | prdv (f : FPrd)
  /-- PSTEP, opcode 0xDD (R265). -/
  | pstep (f : FDom)
  /-- PSAVE, opcode 0xDE (R268). -/
  | psave (f : FDom)
  /-- PREST, opcode 0xDF (R268). -/
  | prest (f : FDom)
  /-- PFEED, opcode 0xE0 (R264). -/
  | pfeed (f : FFeed)
  /-- TAPCFG, opcode 0xE4 (R270). -/
  | tapcfg (f : FTap)
  /-- STAP, opcode 0xE5 (R272). -/
  | stap (f : FStap)
  /-- TAPST, opcode 0xE6 (R270). -/
  | tapst (f : FTap)
  /-- SMPL, opcode 0xE8 (R275). -/
  | smpl (f : FSmpl)
  /-- SEQC, opcode 0xE9 (R276). -/
  | seqc (f : FE)
  /-- SEQRD, opcode 0xEA (R277). -/
  | seqrd (f : FSeqrd)
  /-- LAUNCH_ACCEPTANCE (R19). -/
  | launchAcceptance (chair : Nat)
  /-- LAUNCH_DISPATCH (R22). -/
  | launchDispatch (canvas : Nat)
  /-- ROOT_ADMISSION (R22). -/
  | rootAdmission (core idx : Nat)
  /-- CONTEXT_SLOT_TAKE (R23). -/
  | contextSlotTake (core : Nat)
  /-- SLOT_RELEASE (R23). -/
  | slotRelease (core slot : Nat)
  /-- ITERATION_START (R28). -/
  | iterationStart (core slot rec idx : Nat)
  /-- ITERATION_END (R171). -/
  | iterationEnd (core slot uid : Nat)
  /-- WINDOW_GRANT (R29). -/
  | windowGrant (core slot uid ba : Nat)
  /-- BLOCK_FETCH (R357). -/
  | blockFetch (core slot : Nat)
  /-- BLOCK_MAPPING (R121). -/
  | blockMapping (core slot : Nat)
  /-- TOKEN_ARRIVAL (R40). -/
  | tokenArrival (core n : Nat)
  /-- CHEST_INJECTION (R41). -/
  | chestInjection (core n : Nat)
  /-- SWAP (R42). -/
  | swap (core row set : Nat)
  /-- QUOTA_SWAP (R400). -/
  | quotaSwap (core slot row n : Nat)
  /-- BLOCK_COMMIT (R46). -/
  | blockCommit (core slot age : Nat)
  /-- INCOMPLETE_BLOCK (R48). -/
  | incompleteBlock (core slot age : Nat)
  /-- FAULT_TAKEN (R35). -/
  | faultTaken (core slot age n : Nat)
  /-- CONTEXT_ABORT (R360). -/
  | contextAbort (launch : Nat)
  /-- FAULT_QUEUE_RECORD (R324). -/
  | faultQueueRecord (core n : Nat)
  /-- FAULT_ANSWER (R325). -/
  | faultAnswer (core slot fid : Nat) (wake : Bool)
  /-- LOAD_PERFORMED (R191). -/
  | loadPerformed (core n : Nat)
  /-- STORE_APPLIED (R280). -/
  | storeApplied (core slot n : Nat)
  /-- POISON_DETECTED (R349). -/
  | poisonDetected (site : PoisonSite)
  /-- CHAIN_ARRIVAL (R201). -/
  | chainArrival (core n : Nat)
  /-- DRESSER_APPLICATION (R199). -/
  | dresserApplication (n : Nat)
  /-- JOIN_SATISFIED (R172). -/
  | joinSatisfied (core slot age k : Nat)
  /-- REDT_COLLECT_SATISFIED (R175). -/
  | redtCollectSatisfied (core slot age k : Nat)
  /-- WAITC_SATISFIED (R320). -/
  | waitcSatisfied (core slot age k : Nat)
  /-- WAITG_SATISFIED (R213). -/
  | waitgSatisfied (core slot age k : Nat)
  /-- FENCE_EMISSION (R206). -/
  | fenceEmission (core slot age k : Nat)
  /-- SEQC_RETIRE (R74). -/
  | seqcRetire (core uid : Nat)
  /-- ENGINE_COMPLETION (R220). -/
  | engineCompletion (core uid : Nat) (act : EngAct)
  /-- HELD_COMMAND_ISSUE (R318). -/
  | heldCommandIssue (core : Nat)
  /-- EVICTION (R362). -/
  | eviction (launch : Nat)
  /-- CONTEXT_RESUME (R370). -/
  | contextResume (launch : Nat)
  /-- TIME_SLICE_EXPIRY (R361). -/
  | timeSliceExpiry (launch waiter : Nat)
  /-- CHAIR_RESET (R374). -/
  | chairReset (chair : Nat)
  /-- CHAIR_ENABLE_WRITE (R300). -/
  | chairEnableWrite (chair : Nat) (en : Bool)
  /-- PRIMAX_WRITE (R293). -/
  | primaxWrite (chair : Nat) (primax : BitVec 3)
  /-- GRANT_WRITE (R300). -/
  | grantWrite (chair : Nat) (kind : GrantKind) (on : Bool)
  /-- CHCQ_WRITE (R322). -/
  | chcqWrite (chair n : Nat) (v : BitVec 64)
  /-- SERVICE_REGISTER_WRITE (R299). -/
  | serviceRegisterWrite (chair off : Nat) (v : BitVec 64)
  /-- ERROR_COUNTER_WRITE (R350). -/
  | errorCounterWrite (unit : ErrUnit) (field : ErrField) (v : BitVec 16)
  /-- PERF_COUNTER_WRITE (R352). -/
  | perfCounterWrite (core i : Nat) (cnt : Bool) (v : BitVec 64)
  /-- CMD_LAUNCH (R377). -/
  | cmdLaunch (q : QueueId)
  /-- LAUNCH_INDIRECT (R377). -/
  | launchIndirect (q : QueueId)
  /-- CMD_WAIT (R377). -/
  | cmdWait (q : QueueId)
  /-- SIGNAL (R377). -/
  | signal (q : QueueId)
  /-- LOOP (R378). -/
  | loopE (q : QueueId)
  /-- IF (R377). -/
  | ifE (q : QueueId)
  /-- BARRIER (R377). -/
  | barrier (q : QueueId)
  /-- TABLE_UPDATE (R342). -/
  | tableUpdate (q : QueueId)
  /-- REQ_WRITE (R381). -/
  | reqWrite (chair n : Nat)
  /-- REQ_READ (R381). -/
  | reqRead (chair n : Nat)
  /-- DOORBELL (R381). -/
  | doorbell (chair n : Nat)
  /-- LOAD_REQUEST (R148). -/
  | loadRequest (chair n : Nat)
  /-- RESUME_REQUEST (R379). -/
  | resumeRequest (chair n : Nat)
  /-- NOTICE_SEND (R382). -/
  | noticeSend (chair : Nat)
  /-- NOTICE_ACK (R326). -/
  | noticeAck (chair : Nat)
  /-- NETWORK_RECOVERY (R387). -/
  | networkRecovery (image : List (BitVec 8))
  /-- FIRMWARE_UPDATE (R388). -/
  | firmwareUpdate (image : List (BitVec 8)) (whole : Bool)
  /-- LIFE_CYCLE_CHANGE_REQUEST (R389). -/
  | lifeCycleChangeRequest (target : LifeCycle)
  /-- PACKAGE_UNREACHABLE (R385). -/
  | packageUnreachable (pkg : Nat)
  /-- HOLD_CLEAR (R70). -/
  | holdClear (chair seq : Nat)
  /-- SECOND_STAGE_TABLE_WRITE (R332). -/
  | secondStageTableWrite (chair hpa : Nat) (v : BitVec 64)
  /-- COMMAND_QUEUE_OVERFLOW (R322). -/
  | commandQueueOverflow (q : QueueId)
  /-- BAD_ENTRY (R323). -/
  | badEntry (q : QueueId)
  /-- REQUEST_REFUSED (R381). -/
  | requestRefused (chair n : Nat)
  /-- L1_TLB_ENTRY_DROP (R334). -/
  | l1TlbEntryDrop (core n : Nat)
  /-- DECODED_BLOCK_EVICTION (R308). -/
  | decodedBlockEviction (core n : Nat)
  /-- LINK_FAILOVER (R383). -/
  | linkFailover (link : Nat)
  /-- CLOCK_THROTTLE (R16). -/
  | clockThrottle (khz : Nat)
  /-- ATTESTATION_REPORT (R391). -/
  | attestationReport (chair : Nat) (nonce : List (BitVec 8))
  /-- BOOT (R386). -/
  | boot
  /-- THERMAL_SHUTDOWN (R394). -/
  | thermalShutdown
  /-- SERVICE_TRAP_QUEUE_CONSUME (R326). -/
  | serviceTrapQueueConsume
  deriving DecidableEq, Repr

/-- One slot of a block: an instruction, or a NOP or WRITE declaration (R111, R118). -/
inductive SlotWord
  | instr (i : Instr)
  | nop
  | write (reg : RegName) (ws : BitVec 5)
  deriving DecidableEq, Repr

end Sys2Proof
end

