-- ==== Sys2Proof/WellFormed.lean ====
section
/-! DEFINITION. The values that an entry restricts beyond its layout (R406): a word that breaks one of these is
RESERVED_FIELD at mapping. Every check has a refused term in Tests/Slice0. -/

namespace Sys2Proof

/-- The lanes of a 512-bit vector of an integer width (R221). -/
def IW.lanes : IW → Nat
  | .w8 => 64 | .w16 => 32 | .w32 => 16 | .w64 => 8

/-- The bits of a width (R115). -/
def IW.bits : IW → Nat
  | .w8 => 8 | .w16 => 16 | .w32 => 32 | .w64 => 64

/-- The bytes of a width. -/
def IW.bytes : IW → Nat
  | .w8 => 1 | .w16 => 2 | .w32 => 4 | .w64 => 8

/-- W = 000 is no floating-point format (R115). -/
def Fmt.isFormat (f : Fmt) : Bool := f ≠ .int

/-- The groups of 16 lanes in a layout (R232); a reserved code has no layout and refuses no group (R79). -/
def Fmt.groups : Fmt → Nat
  | .fp32 | .int => 1
  | .bf16 | .fp16 => 2
  | _ => 4

/-- CSRs that CSRW and CSRX may name (R167, R292). -/
def Csr.writable : Csr → Bool
  | .ctxpri | .cabq | .trapv | .traps | .trapba => true
  | _ => false

/-- Registers that a WRITE word may name (R110). -/
def RegName.writable : RegName → Bool
  | .ba | .tag | .iter => false
  | _ => true

/-- A chain access reads its chain token on P, so its PR is 00 (R102). -/
def MemMode.suits : MemMode → Pred → Bool
  | .chain _ _, p => p = .always
  | _, _ => true

/-- FADD32 requires W = 010 (R108). -/
def AmoOp.suits (o : AmoOp) (w : IW) : Bool := o ≠ .fadd32 || w = .w32

/-- SWP and CAS are no scatter operation (R208). -/
def AmoOp.scatters (o : AmoOp) : Bool := o ≠ .swp && o ≠ .cas

/-- Requirements of the VCVT forms (R231). -/
def FVcvt.suits (f : FVcvt) : Bool :=
  match f.form with
  | .toInt => f.fmt = .fp32
  | .bitCast => f.fmt.isFormat && f.rm = .rne
  | _ => f.fmt.isFormat

/-- The rectangle lies in the grid (R113). -/
def FT.inGrid (f : FT) : Bool := f.row0.toNat + f.nrow.toNat ≤ 15 && f.col0.toNat + f.ncol.toNat ≤ 7

/-- The restrictions of R406 on a decoded instruction. -/
def Instr.wellFormed : Instr → Bool
  | .read _ => true
  | .mov _ => true
  | .mov4 _ => true
  | .limm _ => true
  | .orhi _ => true
  | .nullI _ => true
  | .sel _ => true
  | .br _ => true
  | .bri _ => true
  | .call _ => true
  | .ret _ => true
  | .trap _ => true
  | .rett _ => true
  | .csrr _ => true
  | .csrw f => f.csr.writable
  | .csrx f => f.csr.writable
  | .brk _ => true
  | .fork _ => true
  | .spawn _ => true
  | .endI _ => true
  | .join _ => true
  | .redt _ => true
  | .launch _ => true
  | .waitc _ => true
  | .teq _ => true
  | .tne _ => true
  | .tlt _ => true
  | .tle _ => true
  | .tltu _ => true
  | .tleu _ => true
  | .teqi _ => true
  | .tnei _ => true
  | .tlti _ => true
  | .tlei _ => true
  | .tgti _ => true
  | .tgei _ => true
  | .tltui _ => true
  | .tgtui _ => true
  | .ftest f => f.fmt.isFormat
  | .add _ => true
  | .sub _ => true
  | .mul _ => true
  | .mulh _ => true
  | .mulhu _ => true
  | .div _ => true
  | .divu _ => true
  | .rem _ => true
  | .remu _ => true
  | .andI _ => true
  | .orI _ => true
  | .xorI _ => true
  | .andn _ => true
  | .shl _ => true
  | .shr _ => true
  | .sra _ => true
  | .rotl _ => true
  | .min _ => true
  | .max _ => true
  | .minu _ => true
  | .maxu _ => true
  | .clz _ => true
  | .ctz _ => true
  | .popc _ => true
  | .abs _ => true
  | .neg _ => true
  | .sext _ => true
  | .zext _ => true
  | .addi _ => true
  | .muli _ => true
  | .andimm _ => true
  | .orimm _ => true
  | .xorimm _ => true
  | .shli _ => true
  | .shri _ => true
  | .srai _ => true
  | .agen _ => true
  | .cvtif f => f.fmt.isFormat
  | .cvtfi _ => true
  | .fadd f => f.fmt.isFormat
  | .fsub f => f.fmt.isFormat
  | .fmul f => f.fmt.isFormat
  | .fdiv f => f.fmt.isFormat
  | .fmin f => f.fmt.isFormat
  | .fmax f => f.fmt.isFormat
  | .ld f => f.mode.suits f.pr
  | .lds f => f.mode.suits f.pr
  | .st f => f.mode.suits f.pr
  | .ldv f => f.mode.suits f.pr
  | .stv f => f.mode.suits f.pr
  | .ldl _ => true
  | .stl _ => true
  | .ldvl _ => true
  | .stvl _ => true
  | .chnop _ => true
  | .amo f => f.op.suits f.w
  | .amol f => f.op.suits f.w
  | .fence _ => true
  | .gath _ => true
  | .scat _ => true
  | .scata f => f.op.suits f.w && f.op.scatters
  | .xcopy _ => true
  | .xfill _ => true
  | .xcomp _ => true
  | .pref _ => true
  | .synci _ => true
  | .waitg _ => true
  | .invr _ => true
  | .inva _ => true
  | .tfetch f => f.fmt.isFormat && f.stride ≠ 0
  | .kvapp _ => true
  | .vadd f => f.fmt.isFormat
  | .vsub f => f.fmt.isFormat
  | .vmul f => f.fmt.isFormat
  | .vfma f => f.fmt.isFormat
  | .vfms f => f.fmt.isFormat
  | .vdiv f => f.fmt.isFormat
  | .vsqrt f => f.fmt.isFormat
  | .vrsq f => f.fmt.isFormat
  | .vmin f => f.fmt.isFormat
  | .vmax f => f.fmt.isFormat
  | .vabs f => f.fmt.isFormat
  | .vneg f => f.fmt.isFormat
  | .vexp2 f => f.fmt.isFormat
  | .vlog2 f => f.fmt.isFormat
  | .vcmp f => f.fmt.isFormat
  | .vsel _ => true
  | .vred f => f.fmt.isFormat
  | .vscan f => f.fmt.isFormat
  | .vdot f => f.fmt.isFormat
  | .vbcast f => f.x.toNat < f.w.lanes
  | .vext f => f.x.toNat < f.w.lanes
  | .vins f => f.x.toNat < f.w.lanes
  | .vperm _ => true
  | .vshuf _ => true
  | .vcvt f => f.suits
  | .vscale f => f.fmt.isFormat
  | .viadd _ => true
  | .visub _ => true
  | .vimul _ => true
  | .viand _ => true
  | .vior _ => true
  | .vixor _ => true
  | .vishl _ => true
  | .vishr _ => true
  | .visra _ => true
  | .vimin _ => true
  | .vimax _ => true
  | .vpack f => f.fmt.isFormat && f.q.toNat < f.fmt.groups
  | .vunpk f => f.fmt.isFormat && f.sf.isFormat && f.q.toNat < f.sf.groups
  | .vmask _ => true
  | .syscfg f => f.fmt.isFormat && f.inGrid
  | .wload f => f.fmt.isFormat
  | .mma f => f.fmt.isFormat && f.inGrid
  | .drain f => f.fmt.isFormat && f.inGrid
  | .sysrel f => f.fmt.isFormat && f.inGrid
  | .route f => f.fmt.isFormat && f.inGrid
  | .tmul f => f.fmt.isFormat
  | .bind _ => true
  | .unbind _ => true
  | .attn _ => true
  | .patch _ => true
  | .pdom _ => true
  | .pwr _ => true
  | .prd _ => true
  | .prdv _ => true
  | .pstep _ => true
  | .psave _ => true
  | .prest _ => true
  | .pfeed f => f.cnt.toNat ≠ 0 && f.cnt.toNat ≤ 32
  | .tapcfg _ => true
  | .stap _ => true
  | .tapst _ => true
  | .smpl _ => true
  | .seqc _ => true
  | .seqrd f => f.dw.toNat ≤ 4
  | .launchAcceptance _ => true
  | .launchDispatch _ => true
  | .rootAdmission _ _ => true
  | .contextSlotTake _ => true
  | .slotRelease _ _ => true
  | .iterationStart _ _ _ _ => true
  | .iterationEnd _ _ _ => true
  | .windowGrant _ _ _ _ => true
  | .blockFetch _ _ => true
  | .blockMapping _ _ => true
  | .tokenArrival _ _ => true
  | .chestInjection _ _ => true
  | .swap _ _ _ => true
  | .quotaSwap _ _ _ _ => true
  | .blockCommit _ _ _ => true
  | .incompleteBlock _ _ _ => true
  | .faultTaken _ _ _ _ => true
  | .contextAbort _ => true
  | .faultQueueRecord _ _ => true
  | .faultAnswer _ _ _ _ => true
  | .loadPerformed _ _ => true
  | .storeApplied _ _ _ => true
  | .poisonDetected _ => true
  | .chainArrival _ _ => true
  | .dresserApplication _ => true
  | .joinSatisfied _ _ _ _ => true
  | .redtCollectSatisfied _ _ _ _ => true
  | .waitcSatisfied _ _ _ _ => true
  | .waitgSatisfied _ _ _ _ => true
  | .fenceEmission _ _ _ _ => true
  | .seqcRetire _ _ => true
  | .engineCompletion _ _ _ => true
  | .heldCommandIssue _ => true
  | .eviction _ => true
  | .contextResume _ => true
  | .timeSliceExpiry _ _ => true
  | .chairReset _ => true
  | .chairEnableWrite _ _ => true
  | .primaxWrite _ _ => true
  | .grantWrite _ _ _ => true
  | .chcqWrite _ _ _ => true
  | .serviceRegisterWrite _ _ _ => true
  | .errorCounterWrite _ _ _ => true
  | .perfCounterWrite _ _ _ _ => true
  | .cmdLaunch _ => true
  | .launchIndirect _ => true
  | .cmdWait _ => true
  | .signal _ => true
  | .loopE _ => true
  | .ifE _ => true
  | .barrier _ => true
  | .tableUpdate _ => true
  | .reqWrite _ _ => true
  | .reqRead _ _ => true
  | .doorbell _ _ => true
  | .loadRequest _ _ => true
  | .resumeRequest _ _ => true
  | .noticeSend _ => true
  | .noticeAck _ => true
  | .boot => true
  | .networkRecovery _ => true
  | .firmwareUpdate _ _ => true
  | .lifeCycleChangeRequest _ => true
  | .attestationReport _ _ => true
  | .thermalShutdown => true
  | .clockThrottle _ => true
  | .packageUnreachable _ => true
  | .linkFailover _ => true
  | .holdClear _ _ => true
  | .secondStageTableWrite _ _ _ => true
  | .commandQueueOverflow _ => true
  | .badEntry _ => true
  | .requestRefused _ _ => true
  | .serviceTrapQueueConsume => true
  | .l1TlbEntryDrop _ _ => true
  | .decodedBlockEviction _ _ => true

/-- The restrictions of R406 and R110 on a slot. -/
def SlotWord.wellFormed : SlotWord → Bool
  | .instr i => i.wellFormed
  | .nop => true
  | .write r _ => r.writable

end Sys2Proof
end

