-- ==== Sys2Proof/Decode.lean ====
section
/-! DEFINITION. Decoding of instruction words, total on any bits, and the encoder (R98 to R115, R120 to R122).
A layout lists its fields from the high bits to the low, as the manual does; OP stands above them. -/

namespace Sys2Proof

/-- Why a word is refused: checks 3 and 4 of R121. -/
inductive DecodeError
  | illegalOpcode
  | reservedField
  deriving DecidableEq, Repr

/-- The values of consecutive fields of the given widths, high field first (R4). -/
def fields : List Nat → Nat → List Nat
  | [], _ => []
  | n :: ns, w => w / 2 ^ ns.sum % 2 ^ n :: fields ns w

/-- The word that holds consecutive fields (width, value), high field first (R4). -/
def pack : List (Nat × Nat) → Nat
  | [] => 0
  | (n, v) :: r => v % 2 ^ n * 2 ^ (r.map Prod.fst).sum + pack r

/-- PR (R99). -/
def Pred.code : Pred → Nat
  | .always => 0
  | .onTrue => 1
  | .onFalse => 2

/-- The Pred of a code, where it has one. -/
def Pred.ofCode : Nat → Option Pred
  | 0 => some .always
  | 1 => some .onTrue
  | 2 => some .onFalse
  | _ => none

/-- Format-tag codes (R79). -/
def Fmt.code : Fmt → Nat
  | .int => 0
  | .fp32 => 1
  | .bf16 => 2
  | .fp16 => 3
  | .kt8 => 4
  | .kt6 => 5
  | .rsv6 => 6
  | .rsv7 => 7

/-- The Fmt of a code, where it has one. -/
def Fmt.ofCode : Nat → Option Fmt
  | 0 => some .int
  | 1 => some .fp32
  | 2 => some .bf16
  | 3 => some .fp16
  | 4 => some .kt8
  | 5 => some .kt6
  | 6 => some .rsv6
  | 7 => some .rsv7
  | _ => none

/-- Width codes (R106, R115). -/
def IW.code : IW → Nat
  | .w8 => 0
  | .w16 => 1
  | .w32 => 2
  | .w64 => 3

/-- The IW of a code, where it has one. -/
def IW.ofCode : Nat → Option IW
  | 0 => some .w8
  | 1 => some .w16
  | 2 => some .w32
  | 3 => some .w64
  | _ => none

/-- RM (R84). -/
def Rm.code : Rm → Nat
  | .rne => 0
  | .rz => 1
  | .rd => 2
  | .ru => 3

/-- The Rm of a code, where it has one. -/
def Rm.ofCode : Nat → Option Rm
  | 0 => some .rne
  | 1 => some .rz
  | 2 => some .rd
  | 3 => some .ru
  | _ => none

/-- SC (R106). -/
def Scope.code : Scope → Nat
  | .strand => 0
  | .core => 1
  | .pkg => 2
  | .pod => 3

/-- The Scope of a code, where it has one. -/
def Scope.ofCode : Nat → Option Scope
  | 0 => some .strand
  | 1 => some .core
  | 2 => some .pkg
  | 3 => some .pod
  | _ => none

/-- AOP (R108). -/
def AmoOp.code : AmoOp → Nat
  | .add => 0
  | .and => 1
  | .or => 2
  | .xor => 3
  | .min => 4
  | .max => 5
  | .minu => 6
  | .maxu => 7
  | .swp => 8
  | .cas => 9
  | .fadd32 => 10

/-- The AmoOp of a code, where it has one. -/
def AmoOp.ofCode : Nat → Option AmoOp
  | 0 => some .add
  | 1 => some .and
  | 2 => some .or
  | 3 => some .xor
  | 4 => some .min
  | 5 => some .max
  | 6 => some .minu
  | 7 => some .maxu
  | 8 => some .swp
  | 9 => some .cas
  | 10 => some .fadd32
  | _ => none

/-- ORD of format X (R108). -/
def AmoOrd.code : AmoOrd → Nat
  | .rlx => 0
  | .acq => 1
  | .rel => 2
  | .acqrel => 3

/-- The AmoOrd of a code, where it has one. -/
def AmoOrd.ofCode : Nat → Option AmoOrd
  | 0 => some .rlx
  | 1 => some .acq
  | 2 => some .rel
  | 3 => some .acqrel
  | _ => none

/-- KIND of FENCE (R114). -/
def FenceKind.code : FenceKind → Nat
  | .acq => 0
  | .rel => 1
  | .full => 2
  | .codeK => 3

/-- The FenceKind of a code, where it has one. -/
def FenceKind.ofCode : Nat → Option FenceKind
  | 0 => some .acq
  | 1 => some .rel
  | 2 => some .full
  | 3 => some .codeK
  | _ => none

/-- LINK (R107). -/
def Link.code : Link → Nat
  | .both => 0
  | .predL => 1
  | .succL => 2
  | .wild => 3

/-- The Link of a code, where it has one. -/
def Link.ofCode : Nat → Option Link
  | 0 => some .both
  | 1 => some .predL
  | 2 => some .succL
  | 3 => some .wild
  | _ => none

/-- OPR of VRED and VSCAN (R229). -/
def VRedOp.code : VRedOp → Nat
  | .add => 0
  | .min => 1
  | .max => 2

/-- The VRedOp of a code, where it has one. -/
def VRedOp.ofCode : Nat → Option VRedOp
  | 0 => some .add
  | 1 => some .min
  | 2 => some .max
  | _ => none

/-- CC (R227). -/
def Rel.code : Rel → Nat
  | .eq => 0
  | .ne => 1
  | .lt => 2
  | .le => 3
  | .gt => 4
  | .ge => 5
  | .unord => 6
  | .ord => 7

/-- The Rel of a code, where it has one. -/
def Rel.ofCode : Nat → Option Rel
  | 0 => some .eq
  | 1 => some .ne
  | 2 => some .lt
  | 3 => some .le
  | 4 => some .gt
  | 5 => some .ge
  | 6 => some .unord
  | 7 => some .ord
  | _ => none

/-- COND (R228). -/
def MaskCond.code : MaskCond → Nat
  | .nonzero => 0
  | .sign => 1
  | .zero => 2

/-- The MaskCond of a code, where it has one. -/
def MaskCond.ofCode : Nat → Option MaskCond
  | 0 => some .nonzero
  | 1 => some .sign
  | 2 => some .zero
  | _ => none

/-- BC, SI and TI of VCVT in IMM5 (R231). -/
def CvtForm.code : CvtForm → Nat
  | .value => 0
  | .fromInt => 8
  | .toInt => 4
  | .bitCast => 16

/-- The CvtForm of a code, where it has one. -/
def CvtForm.ofCode : Nat → Option CvtForm
  | 0 => some .value
  | 8 => some .fromInt
  | 4 => some .toInt
  | 16 => some .bitCast
  | _ => none

/-- A target of 10 bits: PORT, KIND, INDEX (R100). -/
def Target.code : Target → Nat
  | .none => 0
  | .port .a s => 0x100 + s.toNat
  | .port .b s => 0x200 + s.toNat
  | .port .p s => 0x300 + s.toNat
  | .wslot n => 0x180 + n.toNat

/-- The target of 10 bits, or none where a row of R101 raises RESERVED_FIELD. -/
def Target.ofCode (c : Nat) : Option Target :=
  match fields [2, 1, 7] c with
  | [0, 0, 0] => some .none
  | [1, 0, i] => some (.port .a (BitVec.ofNat 7 i))
  | [2, 0, i] => some (.port .b (BitVec.ofNat 7 i))
  | [3, 0, i] => some (.port .p (BitVec.ofNat 7 i))
  | [1, 1, i] => if i < 32 then some (.wslot (BitVec.ofNat 5 i)) else Option.none
  | _ => Option.none

/-- ORD and DISP21, or LINK and DISP19 (R106, R107), as 23 bits. -/
def MemMode.code : MemMode → Nat
  | .plain d => d.toNat
  | .sync d => 2 ^ 21 + d.toNat
  | .chain l d => 2 * 2 ^ 21 + l.code * 2 ^ 19 + d.toNat

/-- The reading of ORD and the displacement (R106, R107). -/
def MemMode.ofCode (c : Nat) : Option MemMode :=
  match fields [2, 21] c with
  | [0, d] => some (.plain (BitVec.ofNat 21 d))
  | [1, d] => some (.sync (BitVec.ofNat 21 d))
  | [2, d] => (Link.ofCode (d / 2 ^ 19)).map fun l => .chain l (BitVec.ofNat 19 d)
  | _ => none

/-- NUM of READ and WRITE (R110). -/
def RegName.code : RegName → Nat
  | .g n => n.toNat
  | .v n => 32 + n.toNat
  | .ba => 48
  | .tag => 49
  | .iter => 50
  | .lnk => 51

/-- The register of a NUM (R110). -/
def RegName.ofCode (c : Nat) : Option RegName :=
  if c < 32 then some (.g (BitVec.ofNat 5 c))
  else if c < 40 then some (.v (BitVec.ofNat 3 (c - 32)))
  else match c with
    | 48 => some .ba
    | 49 => some .tag
    | 50 => some .iter
    | 51 => some .lnk
    | _ => none

/-- NUM of CSRR, CSRW and CSRX (R292). -/
def Csr.code : Csr → Nat
  | .ctxpri => 0 | .cabq => 1 | .chest => 2 | .lmpart => 3 | .chain => 4 | .tagq => 5
  | .trapv => 0x10 | .traps => 0x11 | .trapba => 0x12 | .flt => 0x13
  | .tap n => 0x20 + n.toNat

/-- The CSR of a NUM (R292). -/
def Csr.ofCode : Nat → Option Csr
  | 0 => some .ctxpri | 1 => some .cabq | 2 => some .chest | 3 => some .lmpart | 4 => some .chain | 5 => some .tagq
  | 0x10 => some .trapv | 0x11 => some .traps | 0x12 => some .trapba | 0x13 => some .flt
  | c => if 0x20 ≤ c ∧ c < 0x28 then some (.tap (BitVec.ofNat 3 (c - 0x20))) else none

/-- IMM5 of VSHUF (R230). -/
def ShufForm.code : ShufForm → Nat
  | .rotate k => k.toNat
  | .reverse => 16

/-- The permutation of an IMM5 (R230). -/
def ShufForm.ofCode (c : Nat) : Option ShufForm :=
  if c < 16 then some (.rotate (BitVec.ofNat 4 c)) else if c = 16 then some .reverse else none

/-- A one-bit field. -/
def boolOfCode : Nat → Option Bool
  | 0 => some false
  | 1 => some true
  | _ => none

/-- SC of an entry that allows 2 and 3 alone: whether it is POD. -/
def farOfCode : Nat → Option Bool
  | 2 => some false
  | 3 => some true
  | _ => none

/-- W of WAITC: 000 trapping, 011 reporting (R176). -/
def repOfCode : Nat → Option Bool
  | 0 => some false
  | 3 => some true
  | _ => none

/-- W of STAP: 001 FP32, 010 BF16 (R271). -/
def stwOfCode : Nat → Option Bool
  | 1 => some false
  | 2 => some true
  | _ => none

/-- OPR 0 to 7 of REDT (R173). -/
def IntRed.code : IntRed → Nat
  | .add => 0
  | .min => 1
  | .max => 2
  | .minu => 3
  | .maxu => 4
  | .and => 5
  | .or => 6
  | .xor => 7

/-- The IntRed of a code, where it has one. -/
def IntRed.ofCode : Nat → Option IntRed
  | 0 => some .add
  | 1 => some .min
  | 2 => some .max
  | 3 => some .minu
  | 4 => some .maxu
  | 5 => some .and
  | 6 => some .or
  | 7 => some .xor
  | _ => none

/-- W of REDT (R173). -/
def RedOp.w : RedOp → Nat
  | .int _ w => w.code
  | _ => 1

/-- RM of REDT (R173). -/
def RedOp.rm : RedOp → Nat
  | .fadd r => r.code
  | _ => 0

/-- OPR of REDT (R173). -/
def RedOp.opr : RedOp → Nat
  | .int o _ => o.code
  | .fadd _ => 8
  | .fmin => 9
  | .fmax => 10

/-- The operation of W, RM and OPR (R173). -/
def RedOp.ofCode (w rm opr : Nat) : Option RedOp :=
  match opr with
  | 8 => if w = 1 then (Rm.ofCode rm).map .fadd else none
  | 9 => if w = 1 ∧ rm = 0 then some .fmin else none
  | 10 => if w = 1 ∧ rm = 0 then some .fmax else none
  | _ => if rm = 0 then (IntRed.ofCode opr).bind fun o => (IW.ofCode w).map fun i => .int o i else none

/-- The fields below OP of FP: PR, T0 and T1 alone (R103, R114). -/
def FP.enc (f : FP) : Nat :=
  pack [(2, f.pr.code), (10, f.t0.code), (10, f.t1.code), (34, 0)]

/-- The FP of the bits below OP. -/
def FP.dec (w : Nat) : Option FP :=
  match fields [2, 10, 10, 34] w with
  | [pr, t0, t1, 0] =>
    (Pred.ofCode pr).bind fun pr =>
    (Target.ofCode t0).bind fun t0 =>
    (Target.ofCode t1).bind fun t1 =>
    some ⟨pr, t0, t1⟩
  | _ => none

/-- The fields below OP of FSel: SEL: PR is 00 (R102). -/
def FSel.enc (f : FSel) : Nat :=
  pack [(2, 0), (10, f.t0.code), (10, f.t1.code), (34, 0)]

/-- The FSel of the bits below OP. -/
def FSel.dec (w : Nat) : Option FSel :=
  match fields [2, 10, 10, 34] w with
  | [0, t0, t1, 0] =>
    (Target.ofCode t0).bind fun t0 =>
    (Target.ofCode t1).bind fun t1 =>
    some ⟨t0, t1⟩
  | _ => none

/-- The fields below OP of FMov4: Format A4 (R103). -/
def FMov4.enc (f : FMov4) : Nat :=
  pack [(2, f.pr.code), (10, f.t0.code), (10, f.t1.code), (10, f.t2.code), (10, f.t3.code), (14, 0)]

/-- The FMov4 of the bits below OP. -/
def FMov4.dec (w : Nat) : Option FMov4 :=
  match fields [2, 10, 10, 10, 10, 14] w with
  | [pr, t0, t1, t2, t3, 0] =>
    (Pred.ofCode pr).bind fun pr =>
    (Target.ofCode t0).bind fun t0 =>
    (Target.ofCode t1).bind fun t1 =>
    (Target.ofCode t2).bind fun t2 =>
    (Target.ofCode t3).bind fun t3 =>
    some ⟨pr, t0, t1, t2, t3⟩
  | _ => none

/-- The fields below OP of FLimm: Format L (R105). -/
def FLimm.enc (f : FLimm) : Nat :=
  pack [(2, f.pr.code), (10, f.t0.code), (44, f.imm.toNat)]

/-- The FLimm of the bits below OP. -/
def FLimm.dec (w : Nat) : Option FLimm :=
  match fields [2, 10, 44] w with
  | [pr, t0, imm] =>
    (Pred.ofCode pr).bind fun pr =>
    (Target.ofCode t0).bind fun t0 =>
    some ⟨pr, t0, BitVec.ofNat 44 imm⟩
  | _ => none

/-- The fields below OP of FOrhi: ORHI (R104). -/
def FOrhi.enc (f : FOrhi) : Nat :=
  pack [(2, f.pr.code), (10, f.t0.code), (10, f.t1.code), (3, 3), (11, 0), (20, f.imm.toNat)]

/-- The FOrhi of the bits below OP. -/
def FOrhi.dec (w : Nat) : Option FOrhi :=
  match fields [2, 10, 10, 3, 11, 20] w with
  | [pr, t0, t1, 3, 0, imm] =>
    (Pred.ofCode pr).bind fun pr =>
    (Target.ofCode t0).bind fun t0 =>
    (Target.ofCode t1).bind fun t1 =>
    some ⟨pr, t0, t1, BitVec.ofNat 20 imm⟩
  | _ => none

/-- The fields below OP of FRead: READ (R157). -/
def FRead.enc (f : FRead) : Nat :=
  pack [(2, f.pr.code), (10, f.t0.code), (10, f.t1.code), (10, f.reg.code), (24, 0)]

/-- The FRead of the bits below OP. -/
def FRead.dec (w : Nat) : Option FRead :=
  match fields [2, 10, 10, 10, 24] w with
  | [pr, t0, t1, reg, 0] =>
    (Pred.ofCode pr).bind fun pr =>
    (Target.ofCode t0).bind fun t0 =>
    (Target.ofCode t1).bind fun t1 =>
    (RegName.ofCode reg).bind fun reg =>
    some ⟨pr, t0, t1, reg⟩
  | _ => none

/-- The fields below OP of FBr: BR and CALL (R109). -/
def FBr.enc (f : FBr) : Nat :=
  pack [(2, f.pr.code), (20, 0), (3, f.exit.toNat), (31, f.offs.toNat)]

/-- The FBr of the bits below OP. -/
def FBr.dec (w : Nat) : Option FBr :=
  match fields [2, 20, 3, 31] w with
  | [pr, 0, exit, offs] =>
    (Pred.ofCode pr).bind fun pr =>
    some ⟨pr, BitVec.ofNat 3 exit, BitVec.ofNat 31 offs⟩
  | _ => none

/-- The fields below OP of FExit: BRI, RET, RETT and END (R109). -/
def FExit.enc (f : FExit) : Nat :=
  pack [(2, f.pr.code), (20, 0), (3, f.exit.toNat), (31, 0)]

/-- The FExit of the bits below OP. -/
def FExit.dec (w : Nat) : Option FExit :=
  match fields [2, 20, 3, 31] w with
  | [pr, 0, exit, 0] =>
    (Pred.ofCode pr).bind fun pr =>
    some ⟨pr, BitVec.ofNat 3 exit⟩
  | _ => none

/-- The fields below OP of FTrap: TRAP (R110). -/
def FTrap.enc (f : FTrap) : Nat :=
  pack [(2, f.pr.code), (30, 0), (24, f.val.toNat)]

/-- The FTrap of the bits below OP. -/
def FTrap.dec (w : Nat) : Option FTrap :=
  match fields [2, 30, 24] w with
  | [pr, 0, val] =>
    (Pred.ofCode pr).bind fun pr =>
    some ⟨pr, BitVec.ofNat 24 val⟩
  | _ => none

/-- The fields below OP of FPr: BRK (R165). -/
def FPr.enc (f : FPr) : Nat :=
  pack [(2, f.pr.code), (54, 0)]

/-- The FPr of the bits below OP. -/
def FPr.dec (w : Nat) : Option FPr :=
  match fields [2, 54] w with
  | [pr, 0] =>
    (Pred.ofCode pr).bind fun pr =>
    some ⟨pr⟩
  | _ => none

/-- The fields below OP of FCsr: CSRR, CSRW and CSRX (R110). -/
def FCsr.enc (f : FCsr) : Nat :=
  pack [(2, f.pr.code), (10, f.t0.code), (10, f.t1.code), (10, f.csr.code), (24, 0)]

/-- The FCsr of the bits below OP. -/
def FCsr.dec (w : Nat) : Option FCsr :=
  match fields [2, 10, 10, 10, 24] w with
  | [pr, t0, t1, csr, 0] =>
    (Pred.ofCode pr).bind fun pr =>
    (Target.ofCode t0).bind fun t0 =>
    (Target.ofCode t1).bind fun t1 =>
    (Csr.ofCode csr).bind fun csr =>
    some ⟨pr, t0, t1, csr⟩
  | _ => none

/-- The fields below OP of FFork: FORK and SPAWN (R109). -/
def FFork.enc (f : FFork) : Nat :=
  pack [(2, f.pr.code), (10, f.t0.code), (10, f.t1.code), (3, 0), (31, f.offs.toNat)]

/-- The FFork of the bits below OP. -/
def FFork.dec (w : Nat) : Option FFork :=
  match fields [2, 10, 10, 3, 31] w with
  | [pr, t0, t1, 0, offs] =>
    (Pred.ofCode pr).bind fun pr =>
    (Target.ofCode t0).bind fun t0 =>
    (Target.ofCode t1).bind fun t1 =>
    some ⟨pr, t0, t1, BitVec.ofNat 31 offs⟩
  | _ => none

/-- The fields below OP of FRedt: REDT (R173). -/
def FRedt.enc (f : FRedt) : Nat :=
  pack [(2, f.pr.code), (10, f.t0.code), (10, f.t1.code), (3, f.op.w), (2, f.op.rm), (1, bnat f.collect), (4, f.op.opr), (24, 0)]

/-- The FRedt of the bits below OP. -/
def FRedt.dec (w : Nat) : Option FRedt :=
  match fields [2, 10, 10, 3, 2, 1, 4, 24] w with
  | [pr, t0, t1, op_w, op_rm, collect, op_opr, 0] =>
    (Pred.ofCode pr).bind fun pr =>
    (Target.ofCode t0).bind fun t0 =>
    (Target.ofCode t1).bind fun t1 =>
    (boolOfCode collect).bind fun collect =>
    (RedOp.ofCode op_w op_rm op_opr).bind fun op =>
    some ⟨pr, t0, t1, collect, op⟩
  | _ => none

/-- The fields below OP of FWaitc: WAITC (R176). -/
def FWaitc.enc (f : FWaitc) : Nat :=
  pack [(2, f.pr.code), (10, f.t0.code), (10, f.t1.code), (3, 3 * bnat f.report), (31, 0)]

/-- The FWaitc of the bits below OP. -/
def FWaitc.dec (w : Nat) : Option FWaitc :=
  match fields [2, 10, 10, 3, 31] w with
  | [pr, t0, t1, report, 0] =>
    (Pred.ofCode pr).bind fun pr =>
    (Target.ofCode t0).bind fun t0 =>
    (Target.ofCode t1).bind fun t1 =>
    (repOfCode report).bind fun report =>
    some ⟨pr, t0, t1, report⟩
  | _ => none

/-- The fields below OP of FA: Format A with a width (R103). -/
def FA.enc (f : FA) : Nat :=
  pack [(2, f.pr.code), (10, f.t0.code), (10, f.t1.code), (3, f.w.code), (31, 0)]

/-- The FA of the bits below OP. -/
def FA.dec (w : Nat) : Option FA :=
  match fields [2, 10, 10, 3, 31] w with
  | [pr, t0, t1, w, 0] =>
    (Pred.ofCode pr).bind fun pr =>
    (Target.ofCode t0).bind fun t0 =>
    (Target.ofCode t1).bind fun t1 =>
    (IW.ofCode w).bind fun w =>
    some ⟨pr, t0, t1, w⟩
  | _ => none

/-- The fields below OP of FI: Format I (R104). -/
def FI.enc (f : FI) : Nat :=
  pack [(2, f.pr.code), (10, f.t0.code), (10, f.t1.code), (3, f.w.code), (31, f.imm.toNat)]

/-- The FI of the bits below OP. -/
def FI.dec (w : Nat) : Option FI :=
  match fields [2, 10, 10, 3, 31] w with
  | [pr, t0, t1, w, imm] =>
    (Pred.ofCode pr).bind fun pr =>
    (Target.ofCode t0).bind fun t0 =>
    (Target.ofCode t1).bind fun t1 =>
    (IW.ofCode w).bind fun w =>
    some ⟨pr, t0, t1, w, BitVec.ofNat 31 imm⟩
  | _ => none

/-- The fields below OP of FFtest: FTEST (R104, R179). -/
def FFtest.enc (f : FFtest) : Nat :=
  pack [(2, f.pr.code), (10, f.t0.code), (10, f.t1.code), (3, f.fmt.code), (21, 0), (10, f.cls.toNat)]

/-- The FFtest of the bits below OP. -/
def FFtest.dec (w : Nat) : Option FFtest :=
  match fields [2, 10, 10, 3, 21, 10] w with
  | [pr, t0, t1, fmt, 0, cls] =>
    (Pred.ofCode pr).bind fun pr =>
    (Target.ofCode t0).bind fun t0 =>
    (Target.ofCode t1).bind fun t1 =>
    (Fmt.ofCode fmt).bind fun fmt =>
    some ⟨pr, t0, t1, fmt, BitVec.ofNat 10 cls⟩
  | _ => none

/-- The fields below OP of FAgen: AGEN (R182). -/
def FAgen.enc (f : FAgen) : Nat :=
  pack [(2, f.pr.code), (10, f.t0.code), (10, f.t1.code), (3, f.w.code), (3, f.sh.toNat), (28, f.offs.toNat)]

/-- The FAgen of the bits below OP. -/
def FAgen.dec (w : Nat) : Option FAgen :=
  match fields [2, 10, 10, 3, 3, 28] w with
  | [pr, t0, t1, w, sh, offs] =>
    (Pred.ofCode pr).bind fun pr =>
    (Target.ofCode t0).bind fun t0 =>
    (Target.ofCode t1).bind fun t1 =>
    (IW.ofCode w).bind fun w =>
    some ⟨pr, t0, t1, w, BitVec.ofNat 3 sh, BitVec.ofNat 28 offs⟩
  | _ => none

/-- The fields below OP of FCvtif: CVTIF (R112, R184). -/
def FCvtif.enc (f : FCvtif) : Nat :=
  pack [(2, f.pr.code), (10, f.t0.code), (10, f.t1.code), (3, f.fmt.code), (2, f.rm.code), (2, 0), (1, bnat f.uns), (2, f.sw.code), (24, 0)]

/-- The FCvtif of the bits below OP. -/
def FCvtif.dec (w : Nat) : Option FCvtif :=
  match fields [2, 10, 10, 3, 2, 2, 1, 2, 24] w with
  | [pr, t0, t1, fmt, rm, 0, uns, sw, 0] =>
    (Pred.ofCode pr).bind fun pr =>
    (Target.ofCode t0).bind fun t0 =>
    (Target.ofCode t1).bind fun t1 =>
    (Fmt.ofCode fmt).bind fun fmt =>
    (Rm.ofCode rm).bind fun rm =>
    (boolOfCode uns).bind fun uns =>
    (IW.ofCode sw).bind fun sw =>
    some ⟨pr, t0, t1, fmt, rm, uns, sw⟩
  | _ => none

/-- The fields below OP of FCvtfi: CVTFI (R112, R185). -/
def FCvtfi.enc (f : FCvtfi) : Nat :=
  pack [(2, f.pr.code), (10, f.t0.code), (10, f.t1.code), (3, f.w.code), (2, f.rm.code), (2, 0), (1, bnat f.uns), (26, 0)]

/-- The FCvtfi of the bits below OP. -/
def FCvtfi.dec (w : Nat) : Option FCvtfi :=
  match fields [2, 10, 10, 3, 2, 2, 1, 26] w with
  | [pr, t0, t1, w, rm, 0, uns, 0] =>
    (Pred.ofCode pr).bind fun pr =>
    (Target.ofCode t0).bind fun t0 =>
    (Target.ofCode t1).bind fun t1 =>
    (IW.ofCode w).bind fun w =>
    (Rm.ofCode rm).bind fun rm =>
    (boolOfCode uns).bind fun uns =>
    some ⟨pr, t0, t1, w, rm, uns⟩
  | _ => none

/-- The fields below OP of FF: Format A with a result format (R115). -/
def FF.enc (f : FF) : Nat :=
  pack [(2, f.pr.code), (10, f.t0.code), (10, f.t1.code), (3, f.fmt.code), (31, 0)]

/-- The FF of the bits below OP. -/
def FF.dec (w : Nat) : Option FF :=
  match fields [2, 10, 10, 3, 31] w with
  | [pr, t0, t1, fmt, 0] =>
    (Pred.ofCode pr).bind fun pr =>
    (Target.ofCode t0).bind fun t0 =>
    (Target.ofCode t1).bind fun t1 =>
    (Fmt.ofCode fmt).bind fun fmt =>
    some ⟨pr, t0, t1, fmt⟩
  | _ => none

/-- The fields below OP of FLd: LD and LDS (R106). -/
def FLd.enc (f : FLd) : Nat :=
  pack [(2, f.pr.code), (10, f.t0.code), (10, f.t1.code), (3, f.w.code), (5, f.lsid.toNat), (3, f.sc.code), (23, f.mode.code)]

/-- The FLd of the bits below OP. -/
def FLd.dec (w : Nat) : Option FLd :=
  match fields [2, 10, 10, 3, 5, 3, 23] w with
  | [pr, t0, t1, w, lsid, sc, mode] =>
    (Pred.ofCode pr).bind fun pr =>
    (Target.ofCode t0).bind fun t0 =>
    (Target.ofCode t1).bind fun t1 =>
    (IW.ofCode w).bind fun w =>
    (Scope.ofCode sc).bind fun sc =>
    (MemMode.ofCode mode).bind fun mode =>
    some ⟨pr, t0, t1, w, BitVec.ofNat 5 lsid, sc, mode⟩
  | _ => none

/-- The fields below OP of FLdv: LDV (R106). -/
def FLdv.enc (f : FLdv) : Nat :=
  pack [(2, f.pr.code), (10, f.t0.code), (10, f.t1.code), (3, 4), (5, f.lsid.toNat), (3, f.sc.code), (23, f.mode.code)]

/-- The FLdv of the bits below OP. -/
def FLdv.dec (w : Nat) : Option FLdv :=
  match fields [2, 10, 10, 3, 5, 3, 23] w with
  | [pr, t0, t1, 4, lsid, sc, mode] =>
    (Pred.ofCode pr).bind fun pr =>
    (Target.ofCode t0).bind fun t0 =>
    (Target.ofCode t1).bind fun t1 =>
    (Scope.ofCode sc).bind fun sc =>
    (MemMode.ofCode mode).bind fun mode =>
    some ⟨pr, t0, t1, BitVec.ofNat 5 lsid, sc, mode⟩
  | _ => none

/-- The fields below OP of FSt: ST (R106). -/
def FSt.enc (f : FSt) : Nat :=
  pack [(2, f.pr.code), (20, 0), (3, f.w.code), (5, f.lsid.toNat), (3, f.sc.code), (23, f.mode.code)]

/-- The FSt of the bits below OP. -/
def FSt.dec (w : Nat) : Option FSt :=
  match fields [2, 20, 3, 5, 3, 23] w with
  | [pr, 0, w, lsid, sc, mode] =>
    (Pred.ofCode pr).bind fun pr =>
    (IW.ofCode w).bind fun w =>
    (Scope.ofCode sc).bind fun sc =>
    (MemMode.ofCode mode).bind fun mode =>
    some ⟨pr, w, BitVec.ofNat 5 lsid, sc, mode⟩
  | _ => none

/-- The fields below OP of FStv: STV (R106). -/
def FStv.enc (f : FStv) : Nat :=
  pack [(2, f.pr.code), (20, 0), (3, 4), (5, f.lsid.toNat), (3, f.sc.code), (23, f.mode.code)]

/-- The FStv of the bits below OP. -/
def FStv.dec (w : Nat) : Option FStv :=
  match fields [2, 20, 3, 5, 3, 23] w with
  | [pr, 0, 4, lsid, sc, mode] =>
    (Pred.ofCode pr).bind fun pr =>
    (Scope.ofCode sc).bind fun sc =>
    (MemMode.ofCode mode).bind fun mode =>
    some ⟨pr, BitVec.ofNat 5 lsid, sc, mode⟩
  | _ => none

/-- The fields below OP of FLdl: LDL (R106): SC is 0 or 1. -/
def FLdl.enc (f : FLdl) : Nat :=
  pack [(2, f.pr.code), (10, f.t0.code), (10, f.t1.code), (3, f.w.code), (5, f.lsid.toNat), (3, bnat f.core), (2, 0), (21, f.disp.toNat)]

/-- The FLdl of the bits below OP. -/
def FLdl.dec (w : Nat) : Option FLdl :=
  match fields [2, 10, 10, 3, 5, 3, 2, 21] w with
  | [pr, t0, t1, w, lsid, core, 0, disp] =>
    (Pred.ofCode pr).bind fun pr =>
    (Target.ofCode t0).bind fun t0 =>
    (Target.ofCode t1).bind fun t1 =>
    (IW.ofCode w).bind fun w =>
    (boolOfCode core).bind fun core =>
    some ⟨pr, t0, t1, w, BitVec.ofNat 5 lsid, core, BitVec.ofNat 21 disp⟩
  | _ => none

/-- The fields below OP of FLdvl: LDVL (R106). -/
def FLdvl.enc (f : FLdvl) : Nat :=
  pack [(2, f.pr.code), (10, f.t0.code), (10, f.t1.code), (3, 4), (5, f.lsid.toNat), (3, bnat f.core), (2, 0), (21, f.disp.toNat)]

/-- The FLdvl of the bits below OP. -/
def FLdvl.dec (w : Nat) : Option FLdvl :=
  match fields [2, 10, 10, 3, 5, 3, 2, 21] w with
  | [pr, t0, t1, 4, lsid, core, 0, disp] =>
    (Pred.ofCode pr).bind fun pr =>
    (Target.ofCode t0).bind fun t0 =>
    (Target.ofCode t1).bind fun t1 =>
    (boolOfCode core).bind fun core =>
    some ⟨pr, t0, t1, BitVec.ofNat 5 lsid, core, BitVec.ofNat 21 disp⟩
  | _ => none

/-- The fields below OP of FStl: STL (R106). -/
def FStl.enc (f : FStl) : Nat :=
  pack [(2, f.pr.code), (20, 0), (3, f.w.code), (5, f.lsid.toNat), (3, bnat f.core), (2, 0), (21, f.disp.toNat)]

/-- The FStl of the bits below OP. -/
def FStl.dec (w : Nat) : Option FStl :=
  match fields [2, 20, 3, 5, 3, 2, 21] w with
  | [pr, 0, w, lsid, core, 0, disp] =>
    (Pred.ofCode pr).bind fun pr =>
    (IW.ofCode w).bind fun w =>
    (boolOfCode core).bind fun core =>
    some ⟨pr, w, BitVec.ofNat 5 lsid, core, BitVec.ofNat 21 disp⟩
  | _ => none

/-- The fields below OP of FStvl: STVL (R106). -/
def FStvl.enc (f : FStvl) : Nat :=
  pack [(2, f.pr.code), (20, 0), (3, 4), (5, f.lsid.toNat), (3, bnat f.core), (2, 0), (21, f.disp.toNat)]

/-- The FStvl of the bits below OP. -/
def FStvl.dec (w : Nat) : Option FStvl :=
  match fields [2, 20, 3, 5, 3, 2, 21] w with
  | [pr, 0, 4, lsid, core, 0, disp] =>
    (Pred.ofCode pr).bind fun pr =>
    (boolOfCode core).bind fun core =>
    some ⟨pr, BitVec.ofNat 5 lsid, core, BitVec.ofNat 21 disp⟩
  | _ => none

/-- The fields below OP of FChnop: CHNOP (R107). -/
def FChnop.enc (f : FChnop) : Nat :=
  pack [(2, f.pr.code), (20, 0), (3, 0), (5, f.lsid.toNat), (3, 0), (2, 2), (2, f.link.code), (19, 0)]

/-- The FChnop of the bits below OP. -/
def FChnop.dec (w : Nat) : Option FChnop :=
  match fields [2, 20, 3, 5, 3, 2, 2, 19] w with
  | [pr, 0, 0, lsid, 0, 2, link, 0] =>
    (Pred.ofCode pr).bind fun pr =>
    (Link.ofCode link).bind fun link =>
    some ⟨pr, BitVec.ofNat 5 lsid, link⟩
  | _ => none

/-- The fields below OP of FPref: PREF (R214). -/
def FPref.enc (f : FPref) : Nat :=
  pack [(2, f.pr.code), (10, f.t0.code), (10, f.t1.code), (3, 0), (5, f.lsid.toNat), (5, 0), (21, f.disp.toNat)]

/-- The FPref of the bits below OP. -/
def FPref.dec (w : Nat) : Option FPref :=
  match fields [2, 10, 10, 3, 5, 5, 21] w with
  | [pr, t0, t1, 0, lsid, 0, disp] =>
    (Pred.ofCode pr).bind fun pr =>
    (Target.ofCode t0).bind fun t0 =>
    (Target.ofCode t1).bind fun t1 =>
    some ⟨pr, t0, t1, BitVec.ofNat 5 lsid, BitVec.ofNat 21 disp⟩
  | _ => none

/-- The fields below OP of FWaitg: WAITG (R213). -/
def FWaitg.enc (f : FWaitg) : Nat :=
  pack [(2, f.pr.code), (10, f.t0.code), (10, f.t1.code), (3, 0), (5, f.lsid.toNat), (3, f.sc.code), (2, 0), (21, f.disp.toNat)]

/-- The FWaitg of the bits below OP. -/
def FWaitg.dec (w : Nat) : Option FWaitg :=
  match fields [2, 10, 10, 3, 5, 3, 2, 21] w with
  | [pr, t0, t1, 0, lsid, sc, 0, disp] =>
    (Pred.ofCode pr).bind fun pr =>
    (Target.ofCode t0).bind fun t0 =>
    (Target.ofCode t1).bind fun t1 =>
    (Scope.ofCode sc).bind fun sc =>
    some ⟨pr, t0, t1, BitVec.ofNat 5 lsid, sc, BitVec.ofNat 21 disp⟩
  | _ => none

/-- The fields below OP of FAmo: AMO (R108). -/
def FAmo.enc (f : FAmo) : Nat :=
  pack [(2, f.pr.code), (10, f.t0.code), (10, f.t1.code), (3, f.w.code), (5, f.lsid.toNat), (3, f.sc.code), (2, f.ord.code), (4, f.op.code), (17, 0)]

/-- The FAmo of the bits below OP. -/
def FAmo.dec (w : Nat) : Option FAmo :=
  match fields [2, 10, 10, 3, 5, 3, 2, 4, 17] w with
  | [pr, t0, t1, w, lsid, sc, ord, op, 0] =>
    (Pred.ofCode pr).bind fun pr =>
    (Target.ofCode t0).bind fun t0 =>
    (Target.ofCode t1).bind fun t1 =>
    (IW.ofCode w).bind fun w =>
    (Scope.ofCode sc).bind fun sc =>
    (AmoOrd.ofCode ord).bind fun ord =>
    (AmoOp.ofCode op).bind fun op =>
    some ⟨pr, t0, t1, w, BitVec.ofNat 5 lsid, sc, ord, op⟩
  | _ => none

/-- The fields below OP of FAmol: AMOL (R108): SC is 0 or 1. -/
def FAmol.enc (f : FAmol) : Nat :=
  pack [(2, f.pr.code), (10, f.t0.code), (10, f.t1.code), (3, f.w.code), (5, f.lsid.toNat), (3, bnat f.core), (2, f.ord.code), (4, f.op.code), (17, 0)]

/-- The FAmol of the bits below OP. -/
def FAmol.dec (w : Nat) : Option FAmol :=
  match fields [2, 10, 10, 3, 5, 3, 2, 4, 17] w with
  | [pr, t0, t1, w, lsid, core, ord, op, 0] =>
    (Pred.ofCode pr).bind fun pr =>
    (Target.ofCode t0).bind fun t0 =>
    (Target.ofCode t1).bind fun t1 =>
    (IW.ofCode w).bind fun w =>
    (boolOfCode core).bind fun core =>
    (AmoOrd.ofCode ord).bind fun ord =>
    (AmoOp.ofCode op).bind fun op =>
    some ⟨pr, t0, t1, w, BitVec.ofNat 5 lsid, core, ord, op⟩
  | _ => none

/-- The fields below OP of FFence: FENCE (R114). -/
def FFence.enc (f : FFence) : Nat :=
  pack [(2, f.pr.code), (10, f.t0.code), (10, f.t1.code), (3, 0), (5, f.lsid.toNat), (3, f.sc.code), (2, f.kind.code), (21, 0)]

/-- The FFence of the bits below OP. -/
def FFence.dec (w : Nat) : Option FFence :=
  match fields [2, 10, 10, 3, 5, 3, 2, 21] w with
  | [pr, t0, t1, 0, lsid, sc, kind, 0] =>
    (Pred.ofCode pr).bind fun pr =>
    (Target.ofCode t0).bind fun t0 =>
    (Target.ofCode t1).bind fun t1 =>
    (Scope.ofCode sc).bind fun sc =>
    (FenceKind.ofCode kind).bind fun kind =>
    some ⟨pr, t0, t1, BitVec.ofNat 5 lsid, sc, kind⟩
  | _ => none

/-- The fields below OP of FGath: GATH (R207). -/
def FGath.enc (f : FGath) : Nat :=
  pack [(2, f.pr.code), (10, f.t0.code), (10, f.t1.code), (3, f.w.code), (5, f.lsid.toNat), (3, f.sc.code), (15, 0), (8, f.lanes.toNat)]

/-- The FGath of the bits below OP. -/
def FGath.dec (w : Nat) : Option FGath :=
  match fields [2, 10, 10, 3, 5, 3, 15, 8] w with
  | [pr, t0, t1, w, lsid, sc, 0, lanes] =>
    (Pred.ofCode pr).bind fun pr =>
    (Target.ofCode t0).bind fun t0 =>
    (Target.ofCode t1).bind fun t1 =>
    (IW.ofCode w).bind fun w =>
    (Scope.ofCode sc).bind fun sc =>
    some ⟨pr, t0, t1, w, BitVec.ofNat 5 lsid, sc, BitVec.ofNat 8 lanes⟩
  | _ => none

/-- The fields below OP of FScat: SCAT (R208). -/
def FScat.enc (f : FScat) : Nat :=
  pack [(2, f.pr.code), (10, f.t0.code), (10, f.t1.code), (3, f.w.code), (5, f.lsid.toNat), (3, f.sc.code), (1, bnat f.rel), (14, 0), (8, f.lanes.toNat)]

/-- The FScat of the bits below OP. -/
def FScat.dec (w : Nat) : Option FScat :=
  match fields [2, 10, 10, 3, 5, 3, 1, 14, 8] w with
  | [pr, t0, t1, w, lsid, sc, rel, 0, lanes] =>
    (Pred.ofCode pr).bind fun pr =>
    (Target.ofCode t0).bind fun t0 =>
    (Target.ofCode t1).bind fun t1 =>
    (IW.ofCode w).bind fun w =>
    (Scope.ofCode sc).bind fun sc =>
    (boolOfCode rel).bind fun rel =>
    some ⟨pr, t0, t1, w, BitVec.ofNat 5 lsid, sc, rel, BitVec.ofNat 8 lanes⟩
  | _ => none

/-- The fields below OP of FScata: SCATA (R208). -/
def FScata.enc (f : FScata) : Nat :=
  pack [(2, f.pr.code), (10, f.t0.code), (10, f.t1.code), (3, f.w.code), (5, f.lsid.toNat), (3, f.sc.code), (1, bnat f.rel), (10, 0), (4, f.op.code), (8, f.lanes.toNat)]

/-- The FScata of the bits below OP. -/
def FScata.dec (w : Nat) : Option FScata :=
  match fields [2, 10, 10, 3, 5, 3, 1, 10, 4, 8] w with
  | [pr, t0, t1, w, lsid, sc, rel, 0, op, lanes] =>
    (Pred.ofCode pr).bind fun pr =>
    (Target.ofCode t0).bind fun t0 =>
    (Target.ofCode t1).bind fun t1 =>
    (IW.ofCode w).bind fun w =>
    (Scope.ofCode sc).bind fun sc =>
    (boolOfCode rel).bind fun rel =>
    (AmoOp.ofCode op).bind fun op =>
    some ⟨pr, t0, t1, w, BitVec.ofNat 5 lsid, sc, rel, op, BitVec.ofNat 8 lanes⟩
  | _ => none

/-- The fields below OP of FE: Format E with REL alone (R114). -/
def FE.enc (f : FE) : Nat :=
  pack [(2, f.pr.code), (10, f.t0.code), (10, f.t1.code), (3, 0), (5, f.lsid.toNat), (3, f.sc.code), (1, bnat f.rel), (22, 0)]

/-- The FE of the bits below OP. -/
def FE.dec (w : Nat) : Option FE :=
  match fields [2, 10, 10, 3, 5, 3, 1, 22] w with
  | [pr, t0, t1, 0, lsid, sc, rel, 0] =>
    (Pred.ofCode pr).bind fun pr =>
    (Target.ofCode t0).bind fun t0 =>
    (Target.ofCode t1).bind fun t1 =>
    (Scope.ofCode sc).bind fun sc =>
    (boolOfCode rel).bind fun rel =>
    some ⟨pr, t0, t1, BitVec.ofNat 5 lsid, sc, rel⟩
  | _ => none

/-- The fields below OP of FSynci: SYNCI (R213): SC is 0 or 1. -/
def FSynci.enc (f : FSynci) : Nat :=
  pack [(2, f.pr.code), (10, f.t0.code), (10, f.t1.code), (3, 0), (5, f.lsid.toNat), (3, bnat f.core), (23, 0)]

/-- The FSynci of the bits below OP. -/
def FSynci.dec (w : Nat) : Option FSynci :=
  match fields [2, 10, 10, 3, 5, 3, 23] w with
  | [pr, t0, t1, 0, lsid, core, 0] =>
    (Pred.ofCode pr).bind fun pr =>
    (Target.ofCode t0).bind fun t0 =>
    (Target.ofCode t1).bind fun t1 =>
    (boolOfCode core).bind fun core =>
    some ⟨pr, t0, t1, BitVec.ofNat 5 lsid, core⟩
  | _ => none

/-- The fields below OP of FInv: INVR and INVA (R114): SC is 2 or 3. -/
def FInv.enc (f : FInv) : Nat :=
  pack [(2, f.pr.code), (10, f.t0.code), (10, f.t1.code), (3, 0), (5, f.lsid.toNat), (3, 2 + bnat f.pod), (7, 0), (16, f.asid.toNat)]

/-- The FInv of the bits below OP. -/
def FInv.dec (w : Nat) : Option FInv :=
  match fields [2, 10, 10, 3, 5, 3, 7, 16] w with
  | [pr, t0, t1, 0, lsid, pod, 0, asid] =>
    (Pred.ofCode pr).bind fun pr =>
    (Target.ofCode t0).bind fun t0 =>
    (Target.ofCode t1).bind fun t1 =>
    (farOfCode pod).bind fun pod =>
    some ⟨pr, t0, t1, BitVec.ofNat 5 lsid, pod, BitVec.ofNat 16 asid⟩
  | _ => none

/-- The fields below OP of FTfetch: TFETCH (R215). -/
def FTfetch.enc (f : FTfetch) : Nat :=
  pack [(2, f.pr.code), (10, f.t0.code), (10, f.t1.code), (3, f.fmt.code), (5, f.lsid.toNat), (3, f.sc.code), (11, 0), (12, f.stride.toNat)]

/-- The FTfetch of the bits below OP. -/
def FTfetch.dec (w : Nat) : Option FTfetch :=
  match fields [2, 10, 10, 3, 5, 3, 11, 12] w with
  | [pr, t0, t1, fmt, lsid, sc, 0, stride] =>
    (Pred.ofCode pr).bind fun pr =>
    (Target.ofCode t0).bind fun t0 =>
    (Target.ofCode t1).bind fun t1 =>
    (Fmt.ofCode fmt).bind fun fmt =>
    (Scope.ofCode sc).bind fun sc =>
    some ⟨pr, t0, t1, fmt, BitVec.ofNat 5 lsid, sc, BitVec.ofNat 12 stride⟩
  | _ => none

/-- The fields below OP of FFar: LAUNCH and KVAPP: SC is 2 or 3 (R177, R219). -/
def FFar.enc (f : FFar) : Nat :=
  pack [(2, f.pr.code), (10, f.t0.code), (10, f.t1.code), (3, 0), (5, f.lsid.toNat), (3, 2 + bnat f.pod), (1, bnat f.rel), (22, 0)]

/-- The FFar of the bits below OP. -/
def FFar.dec (w : Nat) : Option FFar :=
  match fields [2, 10, 10, 3, 5, 3, 1, 22] w with
  | [pr, t0, t1, 0, lsid, pod, rel, 0] =>
    (Pred.ofCode pr).bind fun pr =>
    (Target.ofCode t0).bind fun t0 =>
    (Target.ofCode t1).bind fun t1 =>
    (farOfCode pod).bind fun pod =>
    (boolOfCode rel).bind fun rel =>
    some ⟨pr, t0, t1, BitVec.ofNat 5 lsid, pod, rel⟩
  | _ => none

/-- The fields below OP of FBnd: BIND, UNBIND and ATTN (R247). -/
def FBnd.enc (f : FBnd) : Nat :=
  pack [(2, f.pr.code), (10, f.t0.code), (10, f.t1.code), (3, 0), (5, f.lsid.toNat), (3, f.sc.code), (1, bnat f.rel), (8, f.bnum.toNat), (14, 0)]

/-- The FBnd of the bits below OP. -/
def FBnd.dec (w : Nat) : Option FBnd :=
  match fields [2, 10, 10, 3, 5, 3, 1, 8, 14] w with
  | [pr, t0, t1, 0, lsid, sc, rel, bnum, 0] =>
    (Pred.ofCode pr).bind fun pr =>
    (Target.ofCode t0).bind fun t0 =>
    (Target.ofCode t1).bind fun t1 =>
    (Scope.ofCode sc).bind fun sc =>
    (boolOfCode rel).bind fun rel =>
    some ⟨pr, t0, t1, BitVec.ofNat 5 lsid, sc, rel, BitVec.ofNat 8 bnum⟩
  | _ => none

/-- The fields below OP of FDom: PDOM, PSTEP, PSAVE and PREST (R247). -/
def FDom.enc (f : FDom) : Nat :=
  pack [(2, f.pr.code), (10, f.t0.code), (10, f.t1.code), (3, 0), (5, f.lsid.toNat), (3, f.sc.code), (1, bnat f.rel), (3, f.dom.toNat), (19, 0)]

/-- The FDom of the bits below OP. -/
def FDom.dec (w : Nat) : Option FDom :=
  match fields [2, 10, 10, 3, 5, 3, 1, 3, 19] w with
  | [pr, t0, t1, 0, lsid, sc, rel, dom, 0] =>
    (Pred.ofCode pr).bind fun pr =>
    (Target.ofCode t0).bind fun t0 =>
    (Target.ofCode t1).bind fun t1 =>
    (Scope.ofCode sc).bind fun sc =>
    (boolOfCode rel).bind fun rel =>
    some ⟨pr, t0, t1, BitVec.ofNat 5 lsid, sc, rel, BitVec.ofNat 3 dom⟩
  | _ => none

/-- The fields below OP of FPwr: PWR (R247): WHAT is 0 or 1. -/
def FPwr.enc (f : FPwr) : Nat :=
  pack [(2, f.pr.code), (10, f.t0.code), (10, f.t1.code), (3, 0), (5, f.lsid.toNat), (3, f.sc.code), (1, bnat f.rel), (20, 0), (2, bnat f.res)]

/-- The FPwr of the bits below OP. -/
def FPwr.dec (w : Nat) : Option FPwr :=
  match fields [2, 10, 10, 3, 5, 3, 1, 20, 2] w with
  | [pr, t0, t1, 0, lsid, sc, rel, 0, res] =>
    (Pred.ofCode pr).bind fun pr =>
    (Target.ofCode t0).bind fun t0 =>
    (Target.ofCode t1).bind fun t1 =>
    (Scope.ofCode sc).bind fun sc =>
    (boolOfCode rel).bind fun rel =>
    (boolOfCode res).bind fun res =>
    some ⟨pr, t0, t1, BitVec.ofNat 5 lsid, sc, rel, res⟩
  | _ => none

/-- The fields below OP of FFeed: PFEED (R247). -/
def FFeed.enc (f : FFeed) : Nat :=
  pack [(2, f.pr.code), (10, f.t0.code), (10, f.t1.code), (3, 0), (5, f.lsid.toNat), (3, f.sc.code), (1, bnat f.rel), (3, f.dom.toNat), (9, 0), (6, f.cnt.toNat), (4, f.ch.toNat)]

/-- The FFeed of the bits below OP. -/
def FFeed.dec (w : Nat) : Option FFeed :=
  match fields [2, 10, 10, 3, 5, 3, 1, 3, 9, 6, 4] w with
  | [pr, t0, t1, 0, lsid, sc, rel, dom, 0, cnt, ch] =>
    (Pred.ofCode pr).bind fun pr =>
    (Target.ofCode t0).bind fun t0 =>
    (Target.ofCode t1).bind fun t1 =>
    (Scope.ofCode sc).bind fun sc =>
    (boolOfCode rel).bind fun rel =>
    some ⟨pr, t0, t1, BitVec.ofNat 5 lsid, sc, rel, BitVec.ofNat 3 dom, BitVec.ofNat 6 cnt, BitVec.ofNat 4 ch⟩
  | _ => none

/-- The fields below OP of FPrd: PRD, SEL, and PRDV, FMT (R247). -/
def FPrd.enc (f : FPrd) : Nat :=
  pack [(2, f.pr.code), (10, f.t0.code), (10, f.t1.code), (3, 0), (5, f.lsid.toNat), (25, 0), (1, bnat f.alt)]

/-- The FPrd of the bits below OP. -/
def FPrd.dec (w : Nat) : Option FPrd :=
  match fields [2, 10, 10, 3, 5, 25, 1] w with
  | [pr, t0, t1, 0, lsid, 0, alt] =>
    (Pred.ofCode pr).bind fun pr =>
    (Target.ofCode t0).bind fun t0 =>
    (Target.ofCode t1).bind fun t1 =>
    (boolOfCode alt).bind fun alt =>
    some ⟨pr, t0, t1, BitVec.ofNat 5 lsid, alt⟩
  | _ => none

/-- The fields below OP of FTap: TAPCFG and TAPST (R269). -/
def FTap.enc (f : FTap) : Nat :=
  pack [(2, f.pr.code), (10, f.t0.code), (10, f.t1.code), (7, 0), (3, f.tap.toNat), (24, 0)]

/-- The FTap of the bits below OP. -/
def FTap.dec (w : Nat) : Option FTap :=
  match fields [2, 10, 10, 7, 3, 24] w with
  | [pr, t0, t1, 0, tap, 0] =>
    (Pred.ofCode pr).bind fun pr =>
    (Target.ofCode t0).bind fun t0 =>
    (Target.ofCode t1).bind fun t1 =>
    some ⟨pr, t0, t1, BitVec.ofNat 3 tap⟩
  | _ => none

/-- The fields below OP of FStap: STAP (R247, R271). -/
def FStap.enc (f : FStap) : Nat :=
  pack [(2, f.pr.code), (10, f.t0.code), (10, f.t1.code), (3, 1 + bnat f.bf16), (5, f.lsid.toNat), (3, f.sc.code), (1, bnat f.rel), (3, f.tap.toNat), (19, 0)]

/-- The FStap of the bits below OP. -/
def FStap.dec (w : Nat) : Option FStap :=
  match fields [2, 10, 10, 3, 5, 3, 1, 3, 19] w with
  | [pr, t0, t1, bf16, lsid, sc, rel, tap, 0] =>
    (Pred.ofCode pr).bind fun pr =>
    (Target.ofCode t0).bind fun t0 =>
    (Target.ofCode t1).bind fun t1 =>
    (stwOfCode bf16).bind fun bf16 =>
    (Scope.ofCode sc).bind fun sc =>
    (boolOfCode rel).bind fun rel =>
    some ⟨pr, t0, t1, BitVec.ofNat 5 lsid, sc, rel, BitVec.ofNat 3 tap, bf16⟩
  | _ => none

/-- The fields below OP of FSmpl: SMPL (R247). -/
def FSmpl.enc (f : FSmpl) : Nat :=
  pack [(2, f.pr.code), (10, f.t0.code), (10, f.t1.code), (3, 0), (5, f.lsid.toNat), (3, f.sc.code), (1, bnat f.rel), (1, bnat f.ver), (21, 0)]

/-- The FSmpl of the bits below OP. -/
def FSmpl.dec (w : Nat) : Option FSmpl :=
  match fields [2, 10, 10, 3, 5, 3, 1, 1, 21] w with
  | [pr, t0, t1, 0, lsid, sc, rel, ver, 0] =>
    (Pred.ofCode pr).bind fun pr =>
    (Target.ofCode t0).bind fun t0 =>
    (Target.ofCode t1).bind fun t1 =>
    (Scope.ofCode sc).bind fun sc =>
    (boolOfCode rel).bind fun rel =>
    (boolOfCode ver).bind fun ver =>
    some ⟨pr, t0, t1, BitVec.ofNat 5 lsid, sc, rel, ver⟩
  | _ => none

/-- The fields below OP of FSeqrd: SEQRD (R247). -/
def FSeqrd.enc (f : FSeqrd) : Nat :=
  pack [(2, f.pr.code), (10, f.t0.code), (10, f.t1.code), (3, 0), (5, f.lsid.toNat), (3, f.sc.code), (20, 0), (3, f.dw.toNat)]

/-- The FSeqrd of the bits below OP. -/
def FSeqrd.dec (w : Nat) : Option FSeqrd :=
  match fields [2, 10, 10, 3, 5, 3, 20, 3] w with
  | [pr, t0, t1, 0, lsid, sc, 0, dw] =>
    (Pred.ofCode pr).bind fun pr =>
    (Target.ofCode t0).bind fun t0 =>
    (Target.ofCode t1).bind fun t1 =>
    (Scope.ofCode sc).bind fun sc =>
    some ⟨pr, t0, t1, BitVec.ofNat 5 lsid, sc, BitVec.ofNat 3 dw⟩
  | _ => none

/-- The fields below OP of FV: Format V with RM (R112, R224). -/
def FV.enc (f : FV) : Nat :=
  pack [(2, f.pr.code), (10, f.t0.code), (10, f.t1.code), (3, f.fmt.code), (2, f.rm.code), (29, 0)]

/-- The FV of the bits below OP. -/
def FV.dec (w : Nat) : Option FV :=
  match fields [2, 10, 10, 3, 2, 29] w with
  | [pr, t0, t1, fmt, rm, 0] =>
    (Pred.ofCode pr).bind fun pr =>
    (Target.ofCode t0).bind fun t0 =>
    (Target.ofCode t1).bind fun t1 =>
    (Fmt.ofCode fmt).bind fun fmt =>
    (Rm.ofCode rm).bind fun rm =>
    some ⟨pr, t0, t1, fmt, rm⟩
  | _ => none

/-- The fields below OP of FV3: VFMA and VFMS: PR is 00 (R102). -/
def FV3.enc (f : FV3) : Nat :=
  pack [(2, 0), (10, f.t0.code), (10, f.t1.code), (3, f.fmt.code), (2, f.rm.code), (29, 0)]

/-- The FV3 of the bits below OP. -/
def FV3.dec (w : Nat) : Option FV3 :=
  match fields [2, 10, 10, 3, 2, 29] w with
  | [0, t0, t1, fmt, rm, 0] =>
    (Target.ofCode t0).bind fun t0 =>
    (Target.ofCode t1).bind fun t1 =>
    (Fmt.ofCode fmt).bind fun fmt =>
    (Rm.ofCode rm).bind fun rm =>
    some ⟨t0, t1, fmt, rm⟩
  | _ => none

/-- The fields below OP of FVcmp: VCMP (R227). -/
def FVcmp.enc (f : FVcmp) : Nat :=
  pack [(2, f.pr.code), (10, f.t0.code), (10, f.t1.code), (3, f.fmt.code), (2, 0), (5, f.cc.code), (24, 0)]

/-- The FVcmp of the bits below OP. -/
def FVcmp.dec (w : Nat) : Option FVcmp :=
  match fields [2, 10, 10, 3, 2, 5, 24] w with
  | [pr, t0, t1, fmt, 0, cc, 0] =>
    (Pred.ofCode pr).bind fun pr =>
    (Target.ofCode t0).bind fun t0 =>
    (Target.ofCode t1).bind fun t1 =>
    (Fmt.ofCode fmt).bind fun fmt =>
    (Rel.ofCode cc).bind fun cc =>
    some ⟨pr, t0, t1, fmt, cc⟩
  | _ => none

/-- The fields below OP of FVred: VRED and VSCAN (R229). -/
def FVred.enc (f : FVred) : Nat :=
  pack [(2, f.pr.code), (10, f.t0.code), (10, f.t1.code), (3, f.fmt.code), (2, f.rm.code), (5, f.op.code), (24, 0)]

/-- The FVred of the bits below OP. -/
def FVred.dec (w : Nat) : Option FVred :=
  match fields [2, 10, 10, 3, 2, 5, 24] w with
  | [pr, t0, t1, fmt, rm, op, 0] =>
    (Pred.ofCode pr).bind fun pr =>
    (Target.ofCode t0).bind fun t0 =>
    (Target.ofCode t1).bind fun t1 =>
    (Fmt.ofCode fmt).bind fun fmt =>
    (Rm.ofCode rm).bind fun rm =>
    (VRedOp.ofCode op).bind fun op =>
    some ⟨pr, t0, t1, fmt, rm, op⟩
  | _ => none

/-- The fields below OP of FVcvt: VCVT (R231). -/
def FVcvt.enc (f : FVcvt) : Nat :=
  pack [(2, f.pr.code), (10, f.t0.code), (10, f.t1.code), (3, f.fmt.code), (2, f.rm.code), (5, f.form.code), (24, 0)]

/-- The FVcvt of the bits below OP. -/
def FVcvt.dec (w : Nat) : Option FVcvt :=
  match fields [2, 10, 10, 3, 2, 5, 24] w with
  | [pr, t0, t1, fmt, rm, form, 0] =>
    (Pred.ofCode pr).bind fun pr =>
    (Target.ofCode t0).bind fun t0 =>
    (Target.ofCode t1).bind fun t1 =>
    (Fmt.ofCode fmt).bind fun fmt =>
    (Rm.ofCode rm).bind fun rm =>
    (CvtForm.ofCode form).bind fun form =>
    some ⟨pr, t0, t1, fmt, rm, form⟩
  | _ => none

/-- The fields below OP of FVpack: VPACK (R232). -/
def FVpack.enc (f : FVpack) : Nat :=
  pack [(2, f.pr.code), (10, f.t0.code), (10, f.t1.code), (3, f.fmt.code), (2, f.rm.code), (3, 0), (2, f.q.toNat), (24, 0)]

/-- The FVpack of the bits below OP. -/
def FVpack.dec (w : Nat) : Option FVpack :=
  match fields [2, 10, 10, 3, 2, 3, 2, 24] w with
  | [pr, t0, t1, fmt, rm, 0, q, 0] =>
    (Pred.ofCode pr).bind fun pr =>
    (Target.ofCode t0).bind fun t0 =>
    (Target.ofCode t1).bind fun t1 =>
    (Fmt.ofCode fmt).bind fun fmt =>
    (Rm.ofCode rm).bind fun rm =>
    some ⟨pr, t0, t1, fmt, rm, BitVec.ofNat 2 q⟩
  | _ => none

/-- The fields below OP of FVunpk: VUNPK (R232). -/
def FVunpk.enc (f : FVunpk) : Nat :=
  pack [(2, f.pr.code), (10, f.t0.code), (10, f.t1.code), (3, f.fmt.code), (2, f.rm.code), (3, f.sf.code), (2, f.q.toNat), (24, 0)]

/-- The FVunpk of the bits below OP. -/
def FVunpk.dec (w : Nat) : Option FVunpk :=
  match fields [2, 10, 10, 3, 2, 3, 2, 24] w with
  | [pr, t0, t1, fmt, rm, sf, q, 0] =>
    (Pred.ofCode pr).bind fun pr =>
    (Target.ofCode t0).bind fun t0 =>
    (Target.ofCode t1).bind fun t1 =>
    (Fmt.ofCode fmt).bind fun fmt =>
    (Rm.ofCode rm).bind fun rm =>
    (Fmt.ofCode sf).bind fun sf =>
    some ⟨pr, t0, t1, fmt, rm, sf, BitVec.ofNat 2 q⟩
  | _ => none

/-- The fields below OP of FVmm: VIMIN and VIMAX (R234). -/
def FVmm.enc (f : FVmm) : Nat :=
  pack [(2, f.pr.code), (10, f.t0.code), (10, f.t1.code), (3, f.w.code), (2, 0), (5, bnat f.uns), (24, 0)]

/-- The FVmm of the bits below OP. -/
def FVmm.dec (w : Nat) : Option FVmm :=
  match fields [2, 10, 10, 3, 2, 5, 24] w with
  | [pr, t0, t1, w, 0, uns, 0] =>
    (Pred.ofCode pr).bind fun pr =>
    (Target.ofCode t0).bind fun t0 =>
    (Target.ofCode t1).bind fun t1 =>
    (IW.ofCode w).bind fun w =>
    (boolOfCode uns).bind fun uns =>
    some ⟨pr, t0, t1, w, uns⟩
  | _ => none

/-- The fields below OP of FVsel: VSEL: PR is 00 (R102). -/
def FVsel.enc (f : FVsel) : Nat :=
  pack [(2, 0), (10, f.t0.code), (10, f.t1.code), (3, f.w.code), (31, 0)]

/-- The FVsel of the bits below OP. -/
def FVsel.dec (w : Nat) : Option FVsel :=
  match fields [2, 10, 10, 3, 31] w with
  | [0, t0, t1, w, 0] =>
    (Target.ofCode t0).bind fun t0 =>
    (Target.ofCode t1).bind fun t1 =>
    (IW.ofCode w).bind fun w =>
    some ⟨t0, t1, w⟩
  | _ => none

/-- The fields below OP of FVmask: VMASK (R228). -/
def FVmask.enc (f : FVmask) : Nat :=
  pack [(2, f.pr.code), (10, f.t0.code), (10, f.t1.code), (3, f.w.code), (2, 0), (5, f.cond.code), (24, 0)]

/-- The FVmask of the bits below OP. -/
def FVmask.dec (w : Nat) : Option FVmask :=
  match fields [2, 10, 10, 3, 2, 5, 24] w with
  | [pr, t0, t1, w, 0, cond, 0] =>
    (Pred.ofCode pr).bind fun pr =>
    (Target.ofCode t0).bind fun t0 =>
    (Target.ofCode t1).bind fun t1 =>
    (IW.ofCode w).bind fun w =>
    (MaskCond.ofCode cond).bind fun cond =>
    some ⟨pr, t0, t1, w, cond⟩
  | _ => none

/-- The fields below OP of FVx: VBCAST, VEXT and VINS (R230). -/
def FVx.enc (f : FVx) : Nat :=
  pack [(2, f.pr.code), (10, f.t0.code), (10, f.t1.code), (3, f.w.code), (2, 0), (5, f.x.toNat), (24, 0)]

/-- The FVx of the bits below OP. -/
def FVx.dec (w : Nat) : Option FVx :=
  match fields [2, 10, 10, 3, 2, 5, 24] w with
  | [pr, t0, t1, w, 0, x, 0] =>
    (Pred.ofCode pr).bind fun pr =>
    (Target.ofCode t0).bind fun t0 =>
    (Target.ofCode t1).bind fun t1 =>
    (IW.ofCode w).bind fun w =>
    some ⟨pr, t0, t1, w, BitVec.ofNat 5 x⟩
  | _ => none

/-- The fields below OP of FVshuf: VSHUF (R230). -/
def FVshuf.enc (f : FVshuf) : Nat :=
  pack [(2, f.pr.code), (10, f.t0.code), (10, f.t1.code), (3, f.w.code), (2, 0), (5, f.form.code), (24, 0)]

/-- The FVshuf of the bits below OP. -/
def FVshuf.dec (w : Nat) : Option FVshuf :=
  match fields [2, 10, 10, 3, 2, 5, 24] w with
  | [pr, t0, t1, w, 0, form, 0] =>
    (Pred.ofCode pr).bind fun pr =>
    (Target.ofCode t0).bind fun t0 =>
    (Target.ofCode t1).bind fun t1 =>
    (IW.ofCode w).bind fun w =>
    (ShufForm.ofCode form).bind fun form =>
    some ⟨pr, t0, t1, w, form⟩
  | _ => none

/-- The fields below OP of FT: Format T (R113). -/
def FT.enc (f : FT) : Nat :=
  pack [(2, f.pr.code), (10, f.t0.code), (10, f.t1.code), (3, f.fmt.code), (4, f.row0.toNat), (3, f.col0.toNat), (4, f.nrow.toNat), (3, f.ncol.toNat), (17, 0)]

/-- The FT of the bits below OP. -/
def FT.dec (w : Nat) : Option FT :=
  match fields [2, 10, 10, 3, 4, 3, 4, 3, 17] w with
  | [pr, t0, t1, fmt, row0, col0, nrow, ncol, 0] =>
    (Pred.ofCode pr).bind fun pr =>
    (Target.ofCode t0).bind fun t0 =>
    (Target.ofCode t1).bind fun t1 =>
    (Fmt.ofCode fmt).bind fun fmt =>
    some ⟨pr, t0, t1, fmt, BitVec.ofNat 4 row0, BitVec.ofNat 3 col0, BitVec.ofNat 4 nrow, BitVec.ofNat 3 ncol⟩
  | _ => none

/-- The fields below OP of FWload: WLOAD: one station (R238). -/
def FWload.enc (f : FWload) : Nat :=
  pack [(2, f.pr.code), (10, f.t0.code), (10, f.t1.code), (3, f.fmt.code), (4, f.row0.toNat), (3, f.col0.toNat), (24, 0)]

/-- The FWload of the bits below OP. -/
def FWload.dec (w : Nat) : Option FWload :=
  match fields [2, 10, 10, 3, 4, 3, 24] w with
  | [pr, t0, t1, fmt, row0, col0, 0] =>
    (Pred.ofCode pr).bind fun pr =>
    (Target.ofCode t0).bind fun t0 =>
    (Target.ofCode t1).bind fun t1 =>
    (Fmt.ofCode fmt).bind fun fmt =>
    some ⟨pr, t0, t1, fmt, BitVec.ofNat 4 row0, BitVec.ofNat 3 col0⟩
  | _ => none

/-- The fields below OP of FTmul: TMUL (R245). -/
def FTmul.enc (f : FTmul) : Nat :=
  pack [(2, f.pr.code), (10, f.t0.code), (10, f.t1.code), (3, f.fmt.code), (4, f.row0.toNat), (27, 0)]

/-- The FTmul of the bits below OP. -/
def FTmul.dec (w : Nat) : Option FTmul :=
  match fields [2, 10, 10, 3, 4, 27] w with
  | [pr, t0, t1, fmt, row0, 0] =>
    (Pred.ofCode pr).bind fun pr =>
    (Target.ofCode t0).bind fun t0 =>
    (Target.ofCode t1).bind fun t1 =>
    (Fmt.ofCode fmt).bind fun fmt =>
    some ⟨pr, t0, t1, fmt, BitVec.ofNat 4 row0⟩
  | _ => none

/-- OP of an instruction, and the bits below it (R98, R120); an operation of the device has no word. -/
def Instr.code : Instr → Option (Nat × Nat)
  | .read f => some (0x02, f.enc)
  | .mov f => some (0x04, f.enc)
  | .mov4 f => some (0x05, f.enc)
  | .limm f => some (0x06, f.enc)
  | .orhi f => some (0x07, f.enc)
  | .nullI f => some (0x08, f.enc)
  | .sel f => some (0x09, f.enc)
  | .br f => some (0x0A, f.enc)
  | .bri f => some (0x0B, f.enc)
  | .call f => some (0x0C, f.enc)
  | .ret f => some (0x0D, f.enc)
  | .trap f => some (0x0E, f.enc)
  | .rett f => some (0x0F, f.enc)
  | .csrr f => some (0x10, f.enc)
  | .csrw f => some (0x11, f.enc)
  | .csrx f => some (0x12, f.enc)
  | .brk f => some (0x13, f.enc)
  | .fork f => some (0x20, f.enc)
  | .spawn f => some (0x21, f.enc)
  | .endI f => some (0x22, f.enc)
  | .join f => some (0x23, f.enc)
  | .redt f => some (0x24, f.enc)
  | .launch f => some (0x25, f.enc)
  | .waitc f => some (0x26, f.enc)
  | .teq f => some (0x30, f.enc)
  | .tne f => some (0x31, f.enc)
  | .tlt f => some (0x32, f.enc)
  | .tle f => some (0x33, f.enc)
  | .tltu f => some (0x34, f.enc)
  | .tleu f => some (0x35, f.enc)
  | .teqi f => some (0x36, f.enc)
  | .tnei f => some (0x37, f.enc)
  | .tlti f => some (0x38, f.enc)
  | .tlei f => some (0x39, f.enc)
  | .tgti f => some (0x3A, f.enc)
  | .tgei f => some (0x3B, f.enc)
  | .tltui f => some (0x3C, f.enc)
  | .tgtui f => some (0x3D, f.enc)
  | .ftest f => some (0x3E, f.enc)
  | .add f => some (0x40, f.enc)
  | .sub f => some (0x41, f.enc)
  | .mul f => some (0x42, f.enc)
  | .mulh f => some (0x43, f.enc)
  | .mulhu f => some (0x44, f.enc)
  | .div f => some (0x45, f.enc)
  | .divu f => some (0x46, f.enc)
  | .rem f => some (0x47, f.enc)
  | .remu f => some (0x48, f.enc)
  | .andI f => some (0x49, f.enc)
  | .orI f => some (0x4A, f.enc)
  | .xorI f => some (0x4B, f.enc)
  | .andn f => some (0x4C, f.enc)
  | .shl f => some (0x4D, f.enc)
  | .shr f => some (0x4E, f.enc)
  | .sra f => some (0x4F, f.enc)
  | .rotl f => some (0x50, f.enc)
  | .min f => some (0x51, f.enc)
  | .max f => some (0x52, f.enc)
  | .minu f => some (0x53, f.enc)
  | .maxu f => some (0x54, f.enc)
  | .clz f => some (0x55, f.enc)
  | .ctz f => some (0x56, f.enc)
  | .popc f => some (0x57, f.enc)
  | .abs f => some (0x58, f.enc)
  | .neg f => some (0x59, f.enc)
  | .sext f => some (0x5A, f.enc)
  | .zext f => some (0x5B, f.enc)
  | .addi f => some (0x5C, f.enc)
  | .muli f => some (0x5D, f.enc)
  | .andimm f => some (0x5E, f.enc)
  | .orimm f => some (0x5F, f.enc)
  | .xorimm f => some (0x60, f.enc)
  | .shli f => some (0x61, f.enc)
  | .shri f => some (0x62, f.enc)
  | .srai f => some (0x63, f.enc)
  | .agen f => some (0x64, f.enc)
  | .cvtif f => some (0x65, f.enc)
  | .cvtfi f => some (0x66, f.enc)
  | .fadd f => some (0x67, f.enc)
  | .fsub f => some (0x68, f.enc)
  | .fmul f => some (0x69, f.enc)
  | .fdiv f => some (0x6A, f.enc)
  | .fmin f => some (0x6B, f.enc)
  | .fmax f => some (0x6C, f.enc)
  | .ld f => some (0x70, f.enc)
  | .lds f => some (0x71, f.enc)
  | .st f => some (0x72, f.enc)
  | .ldv f => some (0x73, f.enc)
  | .stv f => some (0x74, f.enc)
  | .ldl f => some (0x75, f.enc)
  | .stl f => some (0x76, f.enc)
  | .ldvl f => some (0x77, f.enc)
  | .stvl f => some (0x78, f.enc)
  | .chnop f => some (0x79, f.enc)
  | .amo f => some (0x7A, f.enc)
  | .amol f => some (0x7B, f.enc)
  | .fence f => some (0x7C, f.enc)
  | .gath f => some (0x7D, f.enc)
  | .scat f => some (0x7E, f.enc)
  | .scata f => some (0x7F, f.enc)
  | .xcopy f => some (0x80, f.enc)
  | .xfill f => some (0x81, f.enc)
  | .xcomp f => some (0x82, f.enc)
  | .pref f => some (0x83, f.enc)
  | .synci f => some (0x84, f.enc)
  | .waitg f => some (0x85, f.enc)
  | .invr f => some (0x86, f.enc)
  | .inva f => some (0x87, f.enc)
  | .tfetch f => some (0x88, f.enc)
  | .kvapp f => some (0x89, f.enc)
  | .vadd f => some (0x90, f.enc)
  | .vsub f => some (0x91, f.enc)
  | .vmul f => some (0x92, f.enc)
  | .vfma f => some (0x93, f.enc)
  | .vfms f => some (0x94, f.enc)
  | .vdiv f => some (0x95, f.enc)
  | .vsqrt f => some (0x96, f.enc)
  | .vrsq f => some (0x97, f.enc)
  | .vmin f => some (0x98, f.enc)
  | .vmax f => some (0x99, f.enc)
  | .vabs f => some (0x9A, f.enc)
  | .vneg f => some (0x9B, f.enc)
  | .vexp2 f => some (0x9C, f.enc)
  | .vlog2 f => some (0x9D, f.enc)
  | .vcmp f => some (0x9E, f.enc)
  | .vsel f => some (0x9F, f.enc)
  | .vred f => some (0xA0, f.enc)
  | .vscan f => some (0xA1, f.enc)
  | .vdot f => some (0xA2, f.enc)
  | .vbcast f => some (0xA3, f.enc)
  | .vext f => some (0xA4, f.enc)
  | .vins f => some (0xA5, f.enc)
  | .vperm f => some (0xA6, f.enc)
  | .vshuf f => some (0xA7, f.enc)
  | .vcvt f => some (0xA8, f.enc)
  | .vscale f => some (0xA9, f.enc)
  | .viadd f => some (0xAA, f.enc)
  | .visub f => some (0xAB, f.enc)
  | .vimul f => some (0xAC, f.enc)
  | .viand f => some (0xAD, f.enc)
  | .vior f => some (0xAE, f.enc)
  | .vixor f => some (0xAF, f.enc)
  | .vishl f => some (0xB0, f.enc)
  | .vishr f => some (0xB1, f.enc)
  | .visra f => some (0xB2, f.enc)
  | .vimin f => some (0xB3, f.enc)
  | .vimax f => some (0xB4, f.enc)
  | .vpack f => some (0xB5, f.enc)
  | .vunpk f => some (0xB6, f.enc)
  | .vmask f => some (0xB7, f.enc)
  | .syscfg f => some (0xC0, f.enc)
  | .wload f => some (0xC1, f.enc)
  | .mma f => some (0xC2, f.enc)
  | .drain f => some (0xC3, f.enc)
  | .sysrel f => some (0xC4, f.enc)
  | .route f => some (0xC5, f.enc)
  | .tmul f => some (0xC6, f.enc)
  | .bind f => some (0xD0, f.enc)
  | .unbind f => some (0xD1, f.enc)
  | .attn f => some (0xD2, f.enc)
  | .patch f => some (0xD8, f.enc)
  | .pdom f => some (0xD9, f.enc)
  | .pwr f => some (0xDA, f.enc)
  | .prd f => some (0xDB, f.enc)
  | .prdv f => some (0xDC, f.enc)
  | .pstep f => some (0xDD, f.enc)
  | .psave f => some (0xDE, f.enc)
  | .prest f => some (0xDF, f.enc)
  | .pfeed f => some (0xE0, f.enc)
  | .tapcfg f => some (0xE4, f.enc)
  | .stap f => some (0xE5, f.enc)
  | .tapst f => some (0xE6, f.enc)
  | .smpl f => some (0xE8, f.enc)
  | .seqc f => some (0xE9, f.enc)
  | .seqrd f => some (0xEA, f.enc)
  | .launchAcceptance _ => none
  | .launchDispatch _ => none
  | .rootAdmission _ _ => none
  | .contextSlotTake _ => none
  | .slotRelease _ _ => none
  | .iterationStart _ _ _ _ => none
  | .iterationEnd _ _ _ => none
  | .windowGrant _ _ _ _ => none
  | .blockFetch _ _ => none
  | .blockMapping _ _ => none
  | .tokenArrival _ _ => none
  | .chestInjection _ _ => none
  | .swap _ _ _ => none
  | .quotaSwap _ _ _ _ => none
  | .blockCommit _ _ _ => none
  | .incompleteBlock _ _ _ => none
  | .faultTaken _ _ _ _ => none
  | .contextAbort _ => none
  | .faultQueueRecord _ _ => none
  | .faultAnswer _ _ _ _ => none
  | .loadPerformed _ _ => none
  | .storeApplied _ _ _ => none
  | .poisonDetected _ => none
  | .chainArrival _ _ => none
  | .dresserApplication _ => none
  | .joinSatisfied _ _ _ _ => none
  | .redtCollectSatisfied _ _ _ _ => none
  | .waitcSatisfied _ _ _ _ => none
  | .waitgSatisfied _ _ _ _ => none
  | .fenceEmission _ _ _ _ => none
  | .seqcRetire _ _ => none
  | .engineCompletion _ _ _ => none
  | .heldCommandIssue _ => none
  | .eviction _ => none
  | .contextResume _ => none
  | .timeSliceExpiry _ _ => none
  | .chairReset _ => none
  | .chairEnableWrite _ _ => none
  | .primaxWrite _ _ => none
  | .grantWrite _ _ _ => none
  | .chcqWrite _ _ _ => none
  | .serviceRegisterWrite _ _ _ => none
  | .errorCounterWrite _ _ _ => none
  | .perfCounterWrite _ _ _ _ => none
  | .cmdLaunch _ => none
  | .launchIndirect _ => none
  | .cmdWait _ => none
  | .signal _ => none
  | .loopE _ => none
  | .ifE _ => none
  | .barrier _ => none
  | .tableUpdate _ => none
  | .reqWrite _ _ => none
  | .reqRead _ _ => none
  | .doorbell _ _ => none
  | .loadRequest _ _ => none
  | .resumeRequest _ _ => none
  | .noticeSend _ => none
  | .noticeAck _ => none
  | .boot => none
  | .networkRecovery _ => none
  | .firmwareUpdate _ _ => none
  | .lifeCycleChangeRequest _ => none
  | .attestationReport _ _ => none
  | .thermalShutdown => none
  | .clockThrottle _ => none
  | .packageUnreachable _ => none
  | .linkFailover _ => none
  | .holdClear _ _ => none
  | .secondStageTableWrite _ _ _ => none
  | .commandQueueOverflow _ => none
  | .badEntry _ => none
  | .requestRefused _ _ => none
  | .serviceTrapQueueConsume => none
  | .l1TlbEntryDrop _ _ => none
  | .decodedBlockEviction _ _ => none

/-- The word of an instruction (R98); none for an operation of the device, which has no word. -/
def encode (i : Instr) : Option Word := i.code.map fun c => BitVec.ofNat 64 (c.1 * 2 ^ 56 + c.2)

/-- The instruction an assigned OP and the bits below it spell, before the restrictions of R406;
the outer option says whether the OP is assigned (R120, R122). -/
def parse (op w : Nat) : Option (Option SlotWord) :=
  match op with
  | 0x01 => some (if w = 0 then some .nop else none)
  | 0x03 => some (match fields [22, 10, 19, 5] w with
      | [0, num, 0, ws] => (RegName.ofCode num).bind fun r => some (.write r (BitVec.ofNat 5 ws))
      | _ => none)
  | 0x02 => some ((FRead.dec w).map fun f => .instr (.read f))
  | 0x04 => some ((FP.dec w).map fun f => .instr (.mov f))
  | 0x05 => some ((FMov4.dec w).map fun f => .instr (.mov4 f))
  | 0x06 => some ((FLimm.dec w).map fun f => .instr (.limm f))
  | 0x07 => some ((FOrhi.dec w).map fun f => .instr (.orhi f))
  | 0x08 => some ((FP.dec w).map fun f => .instr (.nullI f))
  | 0x09 => some ((FSel.dec w).map fun f => .instr (.sel f))
  | 0x0A => some ((FBr.dec w).map fun f => .instr (.br f))
  | 0x0B => some ((FExit.dec w).map fun f => .instr (.bri f))
  | 0x0C => some ((FBr.dec w).map fun f => .instr (.call f))
  | 0x0D => some ((FExit.dec w).map fun f => .instr (.ret f))
  | 0x0E => some ((FTrap.dec w).map fun f => .instr (.trap f))
  | 0x0F => some ((FExit.dec w).map fun f => .instr (.rett f))
  | 0x10 => some ((FCsr.dec w).map fun f => .instr (.csrr f))
  | 0x11 => some ((FCsr.dec w).map fun f => .instr (.csrw f))
  | 0x12 => some ((FCsr.dec w).map fun f => .instr (.csrx f))
  | 0x13 => some ((FPr.dec w).map fun f => .instr (.brk f))
  | 0x20 => some ((FFork.dec w).map fun f => .instr (.fork f))
  | 0x21 => some ((FFork.dec w).map fun f => .instr (.spawn f))
  | 0x22 => some ((FExit.dec w).map fun f => .instr (.endI f))
  | 0x23 => some ((FP.dec w).map fun f => .instr (.join f))
  | 0x24 => some ((FRedt.dec w).map fun f => .instr (.redt f))
  | 0x25 => some ((FFar.dec w).map fun f => .instr (.launch f))
  | 0x26 => some ((FWaitc.dec w).map fun f => .instr (.waitc f))
  | 0x30 => some ((FA.dec w).map fun f => .instr (.teq f))
  | 0x31 => some ((FA.dec w).map fun f => .instr (.tne f))
  | 0x32 => some ((FA.dec w).map fun f => .instr (.tlt f))
  | 0x33 => some ((FA.dec w).map fun f => .instr (.tle f))
  | 0x34 => some ((FA.dec w).map fun f => .instr (.tltu f))
  | 0x35 => some ((FA.dec w).map fun f => .instr (.tleu f))
  | 0x36 => some ((FI.dec w).map fun f => .instr (.teqi f))
  | 0x37 => some ((FI.dec w).map fun f => .instr (.tnei f))
  | 0x38 => some ((FI.dec w).map fun f => .instr (.tlti f))
  | 0x39 => some ((FI.dec w).map fun f => .instr (.tlei f))
  | 0x3A => some ((FI.dec w).map fun f => .instr (.tgti f))
  | 0x3B => some ((FI.dec w).map fun f => .instr (.tgei f))
  | 0x3C => some ((FI.dec w).map fun f => .instr (.tltui f))
  | 0x3D => some ((FI.dec w).map fun f => .instr (.tgtui f))
  | 0x3E => some ((FFtest.dec w).map fun f => .instr (.ftest f))
  | 0x40 => some ((FA.dec w).map fun f => .instr (.add f))
  | 0x41 => some ((FA.dec w).map fun f => .instr (.sub f))
  | 0x42 => some ((FA.dec w).map fun f => .instr (.mul f))
  | 0x43 => some ((FA.dec w).map fun f => .instr (.mulh f))
  | 0x44 => some ((FA.dec w).map fun f => .instr (.mulhu f))
  | 0x45 => some ((FA.dec w).map fun f => .instr (.div f))
  | 0x46 => some ((FA.dec w).map fun f => .instr (.divu f))
  | 0x47 => some ((FA.dec w).map fun f => .instr (.rem f))
  | 0x48 => some ((FA.dec w).map fun f => .instr (.remu f))
  | 0x49 => some ((FA.dec w).map fun f => .instr (.andI f))
  | 0x4A => some ((FA.dec w).map fun f => .instr (.orI f))
  | 0x4B => some ((FA.dec w).map fun f => .instr (.xorI f))
  | 0x4C => some ((FA.dec w).map fun f => .instr (.andn f))
  | 0x4D => some ((FA.dec w).map fun f => .instr (.shl f))
  | 0x4E => some ((FA.dec w).map fun f => .instr (.shr f))
  | 0x4F => some ((FA.dec w).map fun f => .instr (.sra f))
  | 0x50 => some ((FA.dec w).map fun f => .instr (.rotl f))
  | 0x51 => some ((FA.dec w).map fun f => .instr (.min f))
  | 0x52 => some ((FA.dec w).map fun f => .instr (.max f))
  | 0x53 => some ((FA.dec w).map fun f => .instr (.minu f))
  | 0x54 => some ((FA.dec w).map fun f => .instr (.maxu f))
  | 0x55 => some ((FA.dec w).map fun f => .instr (.clz f))
  | 0x56 => some ((FA.dec w).map fun f => .instr (.ctz f))
  | 0x57 => some ((FA.dec w).map fun f => .instr (.popc f))
  | 0x58 => some ((FA.dec w).map fun f => .instr (.abs f))
  | 0x59 => some ((FA.dec w).map fun f => .instr (.neg f))
  | 0x5A => some ((FA.dec w).map fun f => .instr (.sext f))
  | 0x5B => some ((FA.dec w).map fun f => .instr (.zext f))
  | 0x5C => some ((FI.dec w).map fun f => .instr (.addi f))
  | 0x5D => some ((FI.dec w).map fun f => .instr (.muli f))
  | 0x5E => some ((FI.dec w).map fun f => .instr (.andimm f))
  | 0x5F => some ((FI.dec w).map fun f => .instr (.orimm f))
  | 0x60 => some ((FI.dec w).map fun f => .instr (.xorimm f))
  | 0x61 => some ((FI.dec w).map fun f => .instr (.shli f))
  | 0x62 => some ((FI.dec w).map fun f => .instr (.shri f))
  | 0x63 => some ((FI.dec w).map fun f => .instr (.srai f))
  | 0x64 => some ((FAgen.dec w).map fun f => .instr (.agen f))
  | 0x65 => some ((FCvtif.dec w).map fun f => .instr (.cvtif f))
  | 0x66 => some ((FCvtfi.dec w).map fun f => .instr (.cvtfi f))
  | 0x67 => some ((FF.dec w).map fun f => .instr (.fadd f))
  | 0x68 => some ((FF.dec w).map fun f => .instr (.fsub f))
  | 0x69 => some ((FF.dec w).map fun f => .instr (.fmul f))
  | 0x6A => some ((FF.dec w).map fun f => .instr (.fdiv f))
  | 0x6B => some ((FF.dec w).map fun f => .instr (.fmin f))
  | 0x6C => some ((FF.dec w).map fun f => .instr (.fmax f))
  | 0x70 => some ((FLd.dec w).map fun f => .instr (.ld f))
  | 0x71 => some ((FLd.dec w).map fun f => .instr (.lds f))
  | 0x72 => some ((FSt.dec w).map fun f => .instr (.st f))
  | 0x73 => some ((FLdv.dec w).map fun f => .instr (.ldv f))
  | 0x74 => some ((FStv.dec w).map fun f => .instr (.stv f))
  | 0x75 => some ((FLdl.dec w).map fun f => .instr (.ldl f))
  | 0x76 => some ((FStl.dec w).map fun f => .instr (.stl f))
  | 0x77 => some ((FLdvl.dec w).map fun f => .instr (.ldvl f))
  | 0x78 => some ((FStvl.dec w).map fun f => .instr (.stvl f))
  | 0x79 => some ((FChnop.dec w).map fun f => .instr (.chnop f))
  | 0x7A => some ((FAmo.dec w).map fun f => .instr (.amo f))
  | 0x7B => some ((FAmol.dec w).map fun f => .instr (.amol f))
  | 0x7C => some ((FFence.dec w).map fun f => .instr (.fence f))
  | 0x7D => some ((FGath.dec w).map fun f => .instr (.gath f))
  | 0x7E => some ((FScat.dec w).map fun f => .instr (.scat f))
  | 0x7F => some ((FScata.dec w).map fun f => .instr (.scata f))
  | 0x80 => some ((FE.dec w).map fun f => .instr (.xcopy f))
  | 0x81 => some ((FE.dec w).map fun f => .instr (.xfill f))
  | 0x82 => some ((FE.dec w).map fun f => .instr (.xcomp f))
  | 0x83 => some ((FPref.dec w).map fun f => .instr (.pref f))
  | 0x84 => some ((FSynci.dec w).map fun f => .instr (.synci f))
  | 0x85 => some ((FWaitg.dec w).map fun f => .instr (.waitg f))
  | 0x86 => some ((FInv.dec w).map fun f => .instr (.invr f))
  | 0x87 => some ((FInv.dec w).map fun f => .instr (.inva f))
  | 0x88 => some ((FTfetch.dec w).map fun f => .instr (.tfetch f))
  | 0x89 => some ((FFar.dec w).map fun f => .instr (.kvapp f))
  | 0x90 => some ((FV.dec w).map fun f => .instr (.vadd f))
  | 0x91 => some ((FV.dec w).map fun f => .instr (.vsub f))
  | 0x92 => some ((FV.dec w).map fun f => .instr (.vmul f))
  | 0x93 => some ((FV3.dec w).map fun f => .instr (.vfma f))
  | 0x94 => some ((FV3.dec w).map fun f => .instr (.vfms f))
  | 0x95 => some ((FV.dec w).map fun f => .instr (.vdiv f))
  | 0x96 => some ((FV.dec w).map fun f => .instr (.vsqrt f))
  | 0x97 => some ((FV.dec w).map fun f => .instr (.vrsq f))
  | 0x98 => some ((FV.dec w).map fun f => .instr (.vmin f))
  | 0x99 => some ((FV.dec w).map fun f => .instr (.vmax f))
  | 0x9A => some ((FF.dec w).map fun f => .instr (.vabs f))
  | 0x9B => some ((FF.dec w).map fun f => .instr (.vneg f))
  | 0x9C => some ((FV.dec w).map fun f => .instr (.vexp2 f))
  | 0x9D => some ((FV.dec w).map fun f => .instr (.vlog2 f))
  | 0x9E => some ((FVcmp.dec w).map fun f => .instr (.vcmp f))
  | 0x9F => some ((FVsel.dec w).map fun f => .instr (.vsel f))
  | 0xA0 => some ((FVred.dec w).map fun f => .instr (.vred f))
  | 0xA1 => some ((FVred.dec w).map fun f => .instr (.vscan f))
  | 0xA2 => some ((FV.dec w).map fun f => .instr (.vdot f))
  | 0xA3 => some ((FVx.dec w).map fun f => .instr (.vbcast f))
  | 0xA4 => some ((FVx.dec w).map fun f => .instr (.vext f))
  | 0xA5 => some ((FVx.dec w).map fun f => .instr (.vins f))
  | 0xA6 => some ((FA.dec w).map fun f => .instr (.vperm f))
  | 0xA7 => some ((FVshuf.dec w).map fun f => .instr (.vshuf f))
  | 0xA8 => some ((FVcvt.dec w).map fun f => .instr (.vcvt f))
  | 0xA9 => some ((FF.dec w).map fun f => .instr (.vscale f))
  | 0xAA => some ((FA.dec w).map fun f => .instr (.viadd f))
  | 0xAB => some ((FA.dec w).map fun f => .instr (.visub f))
  | 0xAC => some ((FA.dec w).map fun f => .instr (.vimul f))
  | 0xAD => some ((FA.dec w).map fun f => .instr (.viand f))
  | 0xAE => some ((FA.dec w).map fun f => .instr (.vior f))
  | 0xAF => some ((FA.dec w).map fun f => .instr (.vixor f))
  | 0xB0 => some ((FA.dec w).map fun f => .instr (.vishl f))
  | 0xB1 => some ((FA.dec w).map fun f => .instr (.vishr f))
  | 0xB2 => some ((FA.dec w).map fun f => .instr (.visra f))
  | 0xB3 => some ((FVmm.dec w).map fun f => .instr (.vimin f))
  | 0xB4 => some ((FVmm.dec w).map fun f => .instr (.vimax f))
  | 0xB5 => some ((FVpack.dec w).map fun f => .instr (.vpack f))
  | 0xB6 => some ((FVunpk.dec w).map fun f => .instr (.vunpk f))
  | 0xB7 => some ((FVmask.dec w).map fun f => .instr (.vmask f))
  | 0xC0 => some ((FT.dec w).map fun f => .instr (.syscfg f))
  | 0xC1 => some ((FWload.dec w).map fun f => .instr (.wload f))
  | 0xC2 => some ((FT.dec w).map fun f => .instr (.mma f))
  | 0xC3 => some ((FT.dec w).map fun f => .instr (.drain f))
  | 0xC4 => some ((FT.dec w).map fun f => .instr (.sysrel f))
  | 0xC5 => some ((FT.dec w).map fun f => .instr (.route f))
  | 0xC6 => some ((FTmul.dec w).map fun f => .instr (.tmul f))
  | 0xD0 => some ((FBnd.dec w).map fun f => .instr (.bind f))
  | 0xD1 => some ((FBnd.dec w).map fun f => .instr (.unbind f))
  | 0xD2 => some ((FBnd.dec w).map fun f => .instr (.attn f))
  | 0xD8 => some ((FE.dec w).map fun f => .instr (.patch f))
  | 0xD9 => some ((FDom.dec w).map fun f => .instr (.pdom f))
  | 0xDA => some ((FPwr.dec w).map fun f => .instr (.pwr f))
  | 0xDB => some ((FPrd.dec w).map fun f => .instr (.prd f))
  | 0xDC => some ((FPrd.dec w).map fun f => .instr (.prdv f))
  | 0xDD => some ((FDom.dec w).map fun f => .instr (.pstep f))
  | 0xDE => some ((FDom.dec w).map fun f => .instr (.psave f))
  | 0xDF => some ((FDom.dec w).map fun f => .instr (.prest f))
  | 0xE0 => some ((FFeed.dec w).map fun f => .instr (.pfeed f))
  | 0xE4 => some ((FTap.dec w).map fun f => .instr (.tapcfg f))
  | 0xE5 => some ((FStap.dec w).map fun f => .instr (.stap f))
  | 0xE6 => some ((FTap.dec w).map fun f => .instr (.tapst f))
  | 0xE8 => some ((FSmpl.dec w).map fun f => .instr (.smpl f))
  | 0xE9 => some ((FE.dec w).map fun f => .instr (.seqc f))
  | 0xEA => some ((FSeqrd.dec w).map fun f => .instr (.seqrd f))
  | _ => none

/-- Decoding of one word: check 3, then check 4 of R121. -/
def decode (w : Word) : Except DecodeError SlotWord :=
  match parse (w.toNat / 2 ^ 56) (w.toNat % 2 ^ 56) with
  | none => .error .illegalOpcode
  | some none => .error .reservedField
  | some (some s) => if s.wellFormed then .ok s else .error .reservedField

/-- The instruction of a table row's bits: one word of 64 bits. -/
def decodeTableWord (nbits w : Nat) : Option Instr :=
  if nbits ≤ 64 then
    match decode (BitVec.ofNat 64 w) with
    | .ok (.instr i) => some i
    | _ => none
  else none

end Sys2Proof
end

