-- ==== Sys2Proof/Machine/State.lean ====
section
/-! DEFINITION. The state of one VA-3 package as plain data, and the machine right after reset (Parts chapters,
R289 to R353). Fields that are the model's own and not the spec's say so. -/

namespace Sys2Proof.Machine

/-- Memory: cells at strictly rising addresses, none holding what an unlisted address reads as. -/
abbrev Memory := List Host.Cell

/-- What a byte of memory that nothing has written reads as: every reset writes zero (R302, R312). -/
def Memory.blank : Byte := 0

/-- A non-null token: tag, shape, payload, and the live tile it names (R79, R215). -/
structure Datum where
  fmt : Fmt
  vec : Bool
  bits : Payload
  tile : Option Nat
  deriving DecidableEq, Repr

/-- A token's content; `none` is the null token (R37). -/
abbrev Tok := Option Datum

/-- INT zero, what a register holds at creation (R290). -/
def Datum.zero : Datum := ⟨.int, false, 0, none⟩

/-- A token bound for port `port` of slot `k` of one block in flight (R36). -/
structure NetTok where
  slot : Nat
  age : Nat
  k : Nat
  port : Port
  tok : Tok
  poison : Bool
  deriving DecidableEq, Repr

/-- A complete match: the tokens of the ports its instruction needs (R36), and the CTXPRI of its context when it became
complete (R49). -/
structure Match where
  slot : Nat
  age : Nat
  k : Nat
  a : Option Tok
  b : Option Tok
  p : Option Tok
  pri : Nat
  deriving DecidableEq, Repr

/-- A recorded fault: code, place and address (R296, R355). -/
structure FaultRec where
  code : Nat
  locs : Bool
  loc : Nat
  va : Nat
  val : Nat
  deriving DecidableEq, Repr

/-- The chain triple of an access (R107); `none` is the wildcard. -/
structure Triple where
  own : Nat
  pred : Nat
  succ : Nat
  deriving DecidableEq, Repr

/-- A store, AMO or AMOL that has fired and waits for commit or application (R192, R204). -/
structure PStore where
  k : Nat
  lsid : Nat
  loc : Bool
  va : Nat
  bytes : Nat
  data : Payload
  amo : Option (AmoOp × IW)
  targets : List Nat
  sc : Scope
  rel : Bool
  acq : Bool
  phys : Option (Nat × Nat)
  deriving DecidableEq, Repr

/-- How a performed load builds its token (R189, R207, R215). -/
inductive LoadForm
  | zext | sext | vector
  | gath (lanes : List Nat)
  | tile (fmt : Fmt) (va stride : Nat)
  | seqrd (dw : Nat)
  deriving DecidableEq, Repr

/-- One range of bytes of a pending load, its translation, the value read, and the fault of a lane of GATH that has one
(R191, R198, R207). -/
structure LoadPart where
  va : Nat
  bytes : Nat
  phys : Option (Nat × Nat)
  got : Option Nat
  bad : Option Nat
  deriving DecidableEq, Repr

/-- A load that has fired and is not performed (R191). `pre` are the bytes that an earlier performing would have read,
where only an acquire of CORE scope holds the load back (R282, log entry 17). -/
structure PLoad where
  slot : Nat
  age : Nat
  k : Nat
  lsid : Nat
  loc : Bool
  parts : List LoadPart
  form : LoadForm
  acq : Bool
  sc : Scope
  chain : Option Triple
  pre : List LoadPart
  deriving DecidableEq, Repr

/-- An engine command that has fired and waits for commit (R118, R220). -/
structure PEng where
  k : Nat
  lsid : Nat
  instr : Instr
  a : Payload
  b : Payload
  nul : Bool
  cq : Nat
  seq : Nat
  deriving DecidableEq, Repr

/-- An operation that acts at commit, with its slot (R154, R236). -/
inductive KAct
  | csr (c : Csr) (v : Word)
  | fork (n bound : Nat) (ba handle : Nat)
  | tapcfg (tap : Nat) (v : Word)
  | contribute (v : Datum)
  | syscfg (f : FT) (sigw : Nat)
  | wload (f : FWload) (tile : Nat)
  | route (f : FT) (entry : Nat)
  | sysrel (f : FT)
  | release (handle : Nat)
  deriving DecidableEq, Repr

/-- What an instruction that has fired waits for (R50, R158, R166, R206). -/
inductive Wait
  | join (handle : Nat)
  | collect (op : RedOp) (handle : Nat)
  | waitc (handle : Nat) (report : Bool)
  | waitg (off g : Nat) (sc : Scope)
  | fence (kind : FenceKind) (sc : Scope)
  deriving DecidableEq, Repr

/-- A wait with the slot and LSID that hold it. -/
structure WaitRec where
  k : Nat
  lsid : Nat
  what : Wait
  deriving DecidableEq, Repr

/-- An exit that has fired (R162). -/
inductive ExitRec
  | to (ba : Nat)
  | call (ba : Nat)
  | ret | rett | endE
  deriving DecidableEq, Repr

/-- A chain reservation or a position in program order that an instruction took (R200, R279). -/
structure OrderMark where
  lsid : Nat
  kind : FenceKind
  sc : Scope
  deriving DecidableEq, Repr

/-- Bytes that a performed load took from their home or bank, each with its address, under the load's LSID (R191). -/
structure HomeRead where
  lsid : Nat
  loc : Bool
  bytes : List (Nat × Nat)
  deriving DecidableEq, Repr

/-- A block in flight for one strand (R17, R31): its words, and what has happened to it. `acted` are the LSIDs under which
a load or a chain access has acted (R119); `committing`: step 1 of its commit has begun (R46); `bad` are the slots whose
window word is poisoned (R316). -/
structure Inst where
  age : Nat
  uid : Nat
  ba : Nat
  win : Nat
  next : Option Nat
  h0 : Word
  h1 : Word
  words : List Word
  fired : List Nat
  ws : List (Nat × Tok)
  sat : List Nat
  stores : List PStore
  engs : List PEng
  kacts : List (Nat × KAct)
  waits : List WaitRec
  fences : List OrderMark
  acted : List Nat
  reads : List HomeRead
  exits : List ExitRec
  faults : List FaultRec
  dead : Bool
  pinned : Bool
  committing : Bool
  bad : List Nat
  deriving DecidableEq, Repr

/-- A window granted for a strand's next block, and the block once fetched (R29, R357). -/
structure Grant where
  uid : Nat
  ba : Nat
  win : Nat
  fetched : Bool
  deriving DecidableEq, Repr

/-- A committed store, atomic or fence not yet applied or passed, in program order of its strand (R281); `early` is a
release of CORE scope applied before what precedes it, which other cores may see (R282). -/
inductive PostAct
  | store (s : PStore)
  | early (s : PStore)
  | fence (kind : FenceKind) (sc : Scope)
  deriving DecidableEq, Repr

/-- A member of the committed program order of a strand. -/
structure Post where
  uid : Nat
  age : Nat
  lsid : Nat
  act : PostAct
  deriving DecidableEq, Repr

/-- A strand: its registers (R290, R296) and the fork that created it (R170). -/
structure Strand where
  uid : Nat
  g : List Datum
  v : List Datum
  ba : Word
  tag : Word
  iter : Word
  lnk : Word
  traps : Word
  trapba : Word
  flt : Word
  fork : Option Nat
  deriving DecidableEq, Repr

/-- A fork record: what FORK or SPAWN committed, and the progress of its iterations (R170, R174). `joined` are the ages of
the blocks whose JOIN or collect has completed on it, in that order (R399). -/
structure ForkRec where
  idx : Nat
  handle : Nat
  n : Nat
  bound : Nat
  ba : Nat
  tag : Word
  priv : Bool
  g : List Datum
  v : List Datum
  creator : Nat
  ended : List Nat
  next : Nat
  spawn : Bool
  contrib : List (Nat × Datum)
  op : Option RedOp
  joined : List Nat
  deriving DecidableEq, Repr

/-- An iteration whose END has committed and whose stores are not all applied (R171, R398). -/
structure Ending where
  uid : Nat
  fork : Option Nat
  ord : Nat
  deriving DecidableEq, Repr

/-- A context slot of a core and all its state (R23, R289 to R296). -/
structure Slot where
  launch : Nat
  chair : Nat
  ctx : Nat
  asid : Nat
  ctxpri : Word
  cabq : Word
  chest : Word
  lmpart : Word
  chain : Word
  trapv : Word
  taps : List Word
  xcnt : List Nat
  units : List Nat
  chestOk : Nat
  strands : List Strand
  pool : List (Bool × Nat)
  forks : List ForkRec
  insts : List Inst
  grants : List Grant
  post : List Post
  ending : List Ending
  chestHigh : Nat
  nextAge : Nat
  nextUid : Nat
  stopped : Bool
  deriving DecidableEq, Repr

/-- The state of a completion entry (R319). `read` is a completed entry whose word a WAITC has emitted while another still
waits for it (R320). -/
inductive CqSt | free | pending | done | read
  deriving DecidableEq, Repr

/-- A completion-queue or launch-table entry that has been allocated since reset (R319, R320). -/
structure CqEntry where
  slot : Nat
  idx : Nat
  seq : Nat
  st : CqSt
  word : Word
  quiet : Bool
  deriving DecidableEq, Repr

/-- A binding of an Easel (R57, R249). -/
structure Binding where
  score : List Word
  mask : List Word
  maskb : List Word
  blend : List Word
  decl : List Nat
  table : List Nat
  k : List Nat
  kbs : Nat
  plain : Bool
  free : Bool
  div : Bool
  lse : Bool
  deriving DecidableEq, Repr

/-- A completed node of a row's merge tree, as FP32 patterns; `live` is false of the identity (R62 to R64, R369). -/
structure AttnNode where
  level : Nat
  live : Bool
  m : Nat
  l : Nat
  o : List Nat
  deriving DecidableEq, Repr

/-- A query row of a call: its next key block, its completed nodes from the left, and the bounds of its query positions
(R59, R69, R369). -/
structure AttnRow where
  next : Nat
  nodes : List AttnNode
  qlo : Nat
  qhi : Nat
  deriving DecidableEq, Repr

/-- Why an engine command or a read of the Bureau fails: its code, and what it consumed: poisoned words of memory, of the
carve-out, and how many of a core's local memory (R212, R316, R349). -/
structure Fail where
  code : Nat
  words : List Nat
  carve : List Nat
  local_ : List (Nat × Nat)
  deriving DecidableEq, Repr

/-- Who waits for a launch: a launch-table entry, a LAUNCH on a core of the context `owner` (R19, R177), or the package that
forwarded it (R21, R384). -/
inductive LaunchFrom
  | table (q : Nat) (idx seq : Nat) (store : Nat)
  | device (core slot idx seq owner : Nat) (priv : Bool)
  | remote (priv : Bool)
  deriving DecidableEq, Repr

/-- A packet at the arbiter, with what was read with it: this package's roots of its placement map and the handles of its
after list, each with the fault met (R19, R345). -/
structure ArbEntry where
  chair : Nat
  packet : List Word
  src : LaunchFrom
  runs : List (Nat × Nat)
  mapFail : Option Fail
  after : List Nat
  afterFail : Option Fail
  deriving DecidableEq, Repr

/-- An issued or held engine command and its progress (R211, R220, R318). -/
structure Eng where
  id : Nat
  slot : Nat
  uid : Nat
  age : Nat
  lsid : Nat
  tag : Word
  priv : Bool
  instr : Instr
  a : Payload
  b : Payload
  cq : Nat
  seq : Nat
  held : Bool
  todo : List Nat
  done : List Nat
  desc : List Word
  data : List Nat
  status : Nat
  count : Nat
  binding : Option Binding
  rows : List AttnRow
  deriving DecidableEq, Repr

/-- What a wake retries (R197, R198, R357). -/
inductive HeldRet
  | fire (m : Match)
  | again
  deriving DecidableEq, Repr

/-- A replayable fault held at a memory port (R197, R324). -/
structure Held where
  slot : Nat
  age : Nat
  k : Nat
  fid : Option Nat
  va : Nat
  wr : Bool
  lsid : Nat
  stage : Nat
  ret : HeldRet
  deriving DecidableEq, Repr

/-- Stage-1 permissions (R330). -/
structure Perm where
  x : Bool
  u : Bool
  w : Bool
  rd : Bool
  deriving DecidableEq, Repr

/-- An L1 TLB entry (R334). -/
structure TlbEntry where
  chair : Nat
  asid : Nat
  va : Nat
  size : Nat
  gpa : Nat
  perm : Perm
  deriving DecidableEq, Repr

/-- A range entry: of the chest share of a slot, or loaded by the service (R335). -/
structure RangeEntry where
  slot : Option Nat
  chair : Nat
  asid : Nat
  va : Nat
  len : Nat
  gpa : Nat
  perm : Perm
  deriving DecidableEq, Repr

/-- A decoded block held by a core, with the address of its first poisoned bytes (R308, R357). -/
structure Decoded where
  chair : Nat
  asid : Nat
  ba : Nat
  h0 : Word
  h1 : Word
  words : List Word
  poison : Option Nat
  deriving DecidableEq, Repr

/-- A tile: 256 element codes, row by row, where it came from, and the LLC lines it pins while it lives (R215, R216,
R238, R310). -/
structure Tile where
  id : Nat
  slot : Nat
  age : Nat
  fmt : Fmt
  elems : List Nat
  src : Option (Nat × Nat)
  lines : List Nat
  deriving DecidableEq, Repr

/-- The weight tile of a station (R235, R238). -/
structure WTile where
  wf : Fmt
  elems : List Nat
  src : Option (Nat × Nat × Fmt)
  drain : Bool
  deriving DecidableEq, Repr

/-- The rows one MMA fed to a column (R240). -/
structure Feed where
  col : Nat
  tile : Bool
  rows : List (List Nat)
  siga : Nat
  deriving DecidableEq, Repr

/-- Where the rows of one block stand: not yet taken in, in an accumulator entry, or in the chest (R241). -/
inductive AccPlace where
  | rows
  | entry
  | chest
  deriving DecidableEq, Repr

/-- The rows of one block in flight, and the weights they met once an entry took them in (R240, R241). -/
structure Acc where
  age : Nat
  feeds : List Feed
  drained : List Nat
  place : AccPlace
  tiles : List WTile
  deriving DecidableEq, Repr

/-- A systolic array (R235). -/
structure SysArray where
  slot : Nat
  row0 : Nat
  col0 : Nat
  nrow : Nat
  ncol : Nat
  af : Fmt
  sigw : Nat
  tiles : List WTile
  routes : List (Nat × Nat)
  accs : List Acc
  deriving DecidableEq, Repr

/-- A well of the Palette (R260); a source is 16 bits as R147. -/
structure Well where
  y : Int
  res : Nat
  mw : Nat
  dz : Int
  dx : Nat
  dys : List Nat
  deriving DecidableEq, Repr

/-- A Palette domain (R260); `fifos` lists the crossing FIFOs into it by source domain (R266). -/
structure Domain where
  owner : Option Nat
  steps : Nat
  halt : Bool
  wells : List Well
  feeds : List (List Int)
  fifos : List (Nat × List (List Int))
  deriving DecidableEq, Repr

/-- An error record (R350). -/
structure ErrRec where
  ce : Nat
  ue : Nat
  de : Nat
  cethr : Nat
  alert : Bool
  lastloc : Nat
  deriving DecidableEq, Repr

/-- A performance counter (R352). -/
structure Perf where
  ctl : Word
  cnt : Word
  deriving DecidableEq, Repr

/-- A launch in a core's launch queue, with the next local root number (R22). -/
structure LqEntry where
  launch : Nat
  next : Nat
  deriving DecidableEq, Repr

/-- A memory-port message to a Dresser that has not arrived (R200). -/
structure ChainMsg where
  slot : Nat
  age : Nat
  k : Nat
  lsid : Nat
  triple : Triple
  store : Option PStore
  load : Bool
  deriving DecidableEq, Repr

/-- One core (R10, R302); `roots` are the anchor doublewords it walks from, by chair and ASID (R329). -/
structure Core where
  lq : List LqEntry
  slots : List (Option Slot)
  cq : List CqEntry
  mem : Memory
  poison : List Nat
  net : List NetTok
  cab : List NetTok
  chest : List NetTok
  ready : List Match
  loads : List PLoad
  chainOut : List ChainMsg
  held : List Held
  engs : List Eng
  tlb : List TlbEntry
  ranges : List RangeEntry
  roots : List (Nat × Nat × Nat)
  code : List Decoded
  palette : List Domain
  arrays : List SysArray
  tiles : List Tile
  swapAge : List (Nat × Nat × Nat)
  swapClock : Nat
  errs : List ErrRec
  perf : List Perf
  deriving DecidableEq, Repr

/-- The Bureau's interpreter of one command queue (R322, R376 to R378). -/
structure CmdQ where
  pos : Nat
  copies : List (Nat × List Word)
  loops : List (Nat × Nat)
  skip : Nat
  launched : List Nat
  offered : Bool
  deriving DecidableEq, Repr

/-- A request message: header and payload (R381), whether it came over RUD, where order is free (R380, R382), and, once the
loader has its image in place, the answer it will give (R150). -/
structure ReqMsg where
  hdr : List Word
  payload : List Byte
  rud : Bool
  reply : Option (List Byte)
  deriving DecidableEq, Repr

/-- A response: REQID, status and data (R381). -/
structure Response where
  chair : Nat
  reqid : Nat
  status : Nat
  data : List Byte
  deriving DecidableEq, Repr

/-- What a NOTICE carries to the chair's peer (R382); a fault of class X names its context by a tag of depth 0 (R25, R355). -/
inductive Notice
  | trap (words : List Word)
  | classX (tag : Word) (code : Nat)
  | abort (ctx : Nat) (code : Nat)
  deriving DecidableEq, Repr

/-- A chair: the control block (R299, R322) and what the service and the Bureau keep for it (R372). `loadWords` are the
words, by memory key over 8, that a load in progress has written, as they were before it (R150); `area` is where the service has reserved memory of
the chair for save images (R315). -/
structure Chair where
  chctl : Word
  chs2 : Word
  chseqb : Word
  chseqn : Word
  chgrant : Word
  chprb : Word
  chpol : Word
  chtq : Word
  chfq : Word
  chstop : Word
  chasid : List Word
  chcq : List Word
  binds : List (Nat × Binding)
  lt : List CqEntry
  qs : List CmdQ
  reqs : List ReqMsg
  loadWords : List (Nat × Word)
  area : Option Nat
  trapSent : Bool
  pendingX : List Notice
  deriving DecidableEq, Repr

/-- A launch accepted and not completed (R19 to R23). `runs` are this package's root indices (R21); `evict`: a time
slice has expired against it (R361); `back`: its places in launch queues while it is evicted (R362 step 1);
`chestGpa`: where the service mapped its default chest area (R306). -/
structure Launch where
  id : Nat
  s : Nat
  chair : Nat
  ctx : Nat
  packet : List Word
  priv : Bool
  src : LaunchFrom
  runs : List (Nat × Nat)
  canvases : List Nat
  status : Nat
  aborted : Bool
  out : Bool
  evict : Bool
  back : List (Nat × Nat)
  chestGpa : Nat
  deriving DecidableEq, Repr

/-- A chain access waiting in its Dresser (R201, R327). -/
structure DEntry where
  chair : Nat
  chain : Nat
  triple : Triple
  core : Nat
  slot : Nat
  age : Nat
  uid : Nat
  k : Nat
  lsid : Nat
  load : Bool
  store : Option PStore
  committed : Bool
  deriving DecidableEq, Repr

/-- The frontier of a chain (R199). -/
structure Frontier where
  chair : Nat
  chain : Nat
  lastOwn : Nat
  lastSucc : Nat
  deriving DecidableEq, Repr

/-- What the service keeps of the save image of one slot, which lies in memory from guest-physical address `area` (R365 to
R370). -/
structure SaveImage where
  launch : Nat
  core : Nat
  slot : Nat
  body : Slot
  cq : List CqEntry
  domains : List (Nat × Domain)
  arrays : List SysArray
  engs : List Eng
  area : Nat
  deriving DecidableEq, Repr

/-- A table entry with the copied weights, vector or nothing (R338 to R341). -/
structure TabEntry where
  idx : Nat
  dws : List Word
  data : List Nat
  deriving DecidableEq, Repr

/-- Where bring-up stands (R386, R387, R389). -/
inductive BootPhase | cold | recovery | running | stopped
  deriving DecidableEq, Repr

/-- Where a firing is: the core, context slot, age and slot of the word being executed; the model's own cursor. -/
structure Site where
  core : Nat
  slot : Nat
  age : Nat
  k : Nat
  deriving DecidableEq, Repr

/-- An act queued for the machine: fire a complete match, take an operation, or take in what comes from outside: a request
message, an entry of a service queue, a corrected error (R316), a launch that another package forwards (R21, R384), and what
the service does beside the operations of the table: it loads a range entry (R335), reserves memory of a chair for save
images (R315), and wipes a frame of 2 MiB (R312); a reading over the management port (R386, R390), and a defect of the security
root or of a step of bring-up (R14, R386). The model's own (log entry 2). -/
inductive Agendum
  | fire (site : Site)
  | ev (i : Instr)
  | request (chair : Nat) (msg : ReqMsg)
  | serviceEntry (entry : List Word)
  | corrected (unit : ErrUnit) (loc : Nat)
  | forwarded (chair : Nat) (packet : List Word) (runs : List (Nat × Nat)) (priv : Bool)
  | rangeLoad (core : Nat) (r : RangeEntry)
  | reserve (chair gpa : Nat)
  | wipe (frame : Nat)
  | management (key : Bool)
  | defect (rootUsable : Bool) (step : Option Nat)
  deriving DecidableEq, Repr

/-- Why the machine stops. -/
inductive Fault
  /-- Raised by every meaning whose act is not enabled at this moment: nothing in the spec gives it an effect then.
  Safe: the model stops where the hardware would not act. -/
  | notEnabled
  deriving DecidableEq, Repr

/-- Why an instruction has no meaning. -/
inductive Refusal
  /-- Raised by the arms of `exec` that are not modelled, under the table's mnemonic. Safe: nothing is proved. -/
  | notModelled (mnemonic : String)
  deriving DecidableEq, Repr

/-- The state of one VA-3 package. `freeCtr`, `agenda`, `site`, `nextId` and `waiting` are the model's own (log entries 1, 2
and 80). -/
structure State where
  freeCtr : Nat
  agenda : List Agendum
  site : Site
  nextId : Nat
  boot : BootPhase
  lcs : LifeCycle
  pendingLcs : Option LifeCycle
  pkgid : Word
  fwhash : List Byte
  flash : Option (List Byte)
  idKey : Option Nat
  clockKhz : Nat
  downLinks : List Nat
  downPorts : List Nat
  rootUsable : Bool
  failing : Option Nat
  unreachable : List Nat
  seqNo : Nat
  arb : List ArbEntry
  launches : List Launch
  saves : List SaveImage
  hbm : Memory
  poison : List Nat
  chairs : List Chair
  cores : List Core
  dressers : List DEntry
  frontiers : List Frontier
  svcTrap : List (List Word)
  svcPi : Nat
  svcCi : Nat
  svcQueue : List (List Word)
  svcStatus : Nat
  svcBadk : Nat
  svcCheck : Bool
  probes : List TabEntry
  steers : List TabEntry
  policies : List TabEntry
  sliceErrs : List ErrRec
  stackErrs : List ErrRec
  responses : List Response
  notices : List (Nat × Notice)
  mgmtOut : List (List Byte)
  waiting : List (Agendum × Nat)
  deriving DecidableEq, Repr

/-- A well at its reset value (R260). -/
def Well.reset : Well := ⟨0, 0, 32, 0, 0, [0, 0, 0, 0]⟩

/-- A domain at its reset value (R260). -/
def Domain.reset : Domain := ⟨none, 0, false, List.replicate 64 .reset, List.replicate 16 [], []⟩

/-- An error record at its reset value (R350). -/
def ErrRec.reset : ErrRec := ⟨0, 0, 0, 0, false, 0⟩

/-- A core at reset (R302, R350, R352). -/
def Core.reset : Core :=
  { lq := [], slots := List.replicate 4 none, cq := [], mem := [], poison := [], net := [], cab := [], chest := [],
    ready := [], loads := [], chainOut := [], held := [], engs := [], tlb := [], ranges := [], roots := [], code := [],
    palette := List.replicate 8 .reset, arrays := [], tiles := [], swapAge := [], swapClock := 0,
    errs := List.replicate 3 .reset, perf := List.replicate 4 ⟨0, 0⟩ }

/-- A command queue with nothing read (R322). -/
def CmdQ.reset : CmdQ := ⟨0, [], [], 0, [], false⟩

/-- A chair at reset: CHCTL holds NCTX = 16 in [8:4] and zero elsewhere (R299). -/
def Chair.reset : Chair :=
  { chctl := 0x100, chs2 := 0, chseqb := 0, chseqn := 0, chgrant := 0, chprb := 0, chpol := 0, chtq := 0, chfq := 0,
    chstop := 0, chasid := List.replicate 16 0, chcq := List.replicate 4 0, binds := [], lt := [],
    qs := List.replicate 4 .reset, reqs := [], loadWords := [], area := none, trapSent := false, pendingX := [] }

/-- The machine right after reset: before step 1 of R386, every register at its reset value. Log entries 5 and 6 name
the values that no rule gives. -/
def State.reset : State :=
  { freeCtr := 0, agenda := [], site := ⟨0, 0, 0, 0⟩, nextId := 0, boot := .cold, lcs := .deployed,
    pendingLcs := none, pkgid := 0, fwhash := List.replicate 32 0, flash := none, idKey := some 0, clockKhz := 3300000,
    downLinks := [], downPorts := [], rootUsable := true, failing := none, unreachable := [], seqNo := 0,
    arb := [], launches := [], saves := [], hbm := [], poison := [], chairs := List.replicate 64 .reset,
    cores := List.replicate 192 .reset, dressers := [], frontiers := [], svcTrap := [], svcPi := 0, svcCi := 0,
    svcQueue := [], svcStatus := 0, svcBadk := 0, svcCheck := false, probes := [], steers := [], policies := [],
    sliceErrs := List.replicate 128 .reset, stackErrs := List.replicate 8 .reset, responses := [], notices := [],
    mgmtOut := [], waiting := [] }

end Sys2Proof.Machine
end

