-- ==== Sys2Proof/Machine/Float.lean ====
section
/-! DEFINITION. Numbers: exact values, the formats of R82 to R89, rounding under R84 and R88, the comparisons of R85,
and the correctly rounded functions of R92. -/

namespace Sys2Proof

/-- An exact value: a NaN, an infinity, or a signed ratio, whose numerator 0 is a signed zero. -/
inductive EV
  | nan
  | inf (neg : Bool)
  | rat (neg : Bool) (num den : Nat)
  deriving DecidableEq, Repr

/-- Plus zero. -/
def EV.zero : EV := .rat false 0 1

/-- One. -/
def EV.one : EV := .rat false 1 1

/-- The ratio m · 2^e. -/
def EV.scaled (neg : Bool) (m : Nat) (e : Int) : EV :=
  if 0 ≤ e then .rat neg (m * 2 ^ e.toNat) 1 else .rat neg m (2 ^ (-e).toNat)

/-- An integer; zero is +0. -/
def EV.ofInt (i : Int) : EV := .rat (decide (i < 0)) i.natAbs 1

/-- Exponent width, fraction width and bias of an IEEE format (R82). -/
structure Ieee where
  eb : Nat
  fb : Nat
  bias : Nat
  deriving DecidableEq, Repr

/-- The IEEE formats of R82; KT and INT have none. -/
def Fmt.ieee : Fmt → Option Ieee
  | .fp32 => some ⟨8, 23, 127⟩
  | .bf16 => some ⟨8, 7, 127⟩
  | .fp16 => some ⟨5, 10, 15⟩
  | _ => none

/-- Bits of one element of a format (R79); a KT6 lane is one byte (R80). -/
def Fmt.lane : Fmt → Nat
  | .fp32 => 32 | .bf16 | .fp16 => 16 | .kt8 | .kt6 => 8 | _ => 64

/-- Magnitude bits of a KT format (R86). -/
def Fmt.ktBits : Fmt → Nat
  | .kt6 => 5 | _ => 7

/-- Whether a format is KT8 or KT6. -/
def Fmt.isKt (f : Fmt) : Bool := f = .kt8 || f = .kt6

/-- Whether a code is 110 or 111 (R79). -/
def Fmt.isReserved (f : Fmt) : Bool := f = .rsv6 || f = .rsv7

/-- The sign bit of an IEEE format. -/
def Ieee.signBit (i : Ieee) : Nat := i.eb + i.fb

/-- Decoding an IEEE pattern exactly (R82). -/
def Ieee.decode (i : Ieee) (c : Nat) : EV :=
  let neg := bit c i.signBit
  let e := bits c i.fb i.eb
  let f := bits c 0 i.fb
  if e = 2 ^ i.eb - 1 then (if f = 0 then .inf neg else .nan)
  else if e = 0 then EV.scaled neg f (1 - i.bias - i.fb : Int)
  else EV.scaled neg (2 ^ i.fb + f) (e - i.bias - i.fb : Int)

/-- The canonical quiet NaN (R83). -/
def Ieee.quietNan (i : Ieee) : Nat := (2 ^ i.eb - 1) * 2 ^ i.fb + 2 ^ (i.fb - 1)

/-- ⌊log2 (num / den)⌋ of a positive ratio. -/
def ratLog2 (num den : Nat) : Int :=
  let e : Int := (Nat.log2 num : Int) - Nat.log2 den
  let below := if 0 ≤ e then decide (num < den * 2 ^ e.toNat) else decide (num * 2 ^ (-e).toNat < den)
  if below then e - 1 else e

/-- Whether a quotient with remainder rounds away from zero (R84); `odd` is the parity of the quotient. -/
def roundsUp (rm : Rm) (neg odd : Bool) (rem den : Nat) : Bool :=
  match rm with
  | .rne => decide (den < 2 * rem) || (decide (2 * rem = den) && odd)
  | .rz => false
  | .rd => neg && decide (rem ≠ 0)
  | .ru => !neg && decide (rem ≠ 0)

/-- Rounding a ratio to an integer magnitude (R84). -/
def roundNat (rm : Rm) (neg : Bool) (num den : Nat) : Nat :=
  let q := num / den
  if roundsUp rm neg (q % 2 == 1) (num % den) den then q + 1 else q

/-- Rounding a positive ratio into an IEEE format: the magnitude code, overflow under R84. -/
def Ieee.roundMag (i : Ieee) (rm : Rm) (neg : Bool) (num den : Nat) : Nat :=
  if num = 0 then 0
  else
    let emin : Int := 1 - i.bias
    let e := max (ratLog2 num den) emin
    let q := e - i.fb
    let k := if 0 ≤ q then roundNat rm neg num (den * 2 ^ q.toNat) else roundNat rm neg (num * 2 ^ (-q).toNat) den
    let c := (e - emin).toNat * 2 ^ i.fb + k
    let infC := (2 ^ i.eb - 1) * 2 ^ i.fb
    if c < infC then c
    else match rm with
      | .rne => infC
      | .rz => infC - 1
      | .rd => if neg then infC else infC - 1
      | .ru => if neg then infC - 1 else infC

/-- Rounding an exact value into an IEEE format (R7 rnd, R83, R84). -/
def Ieee.round (i : Ieee) (rm : Rm) : EV → Nat
  | .nan => i.quietNan
  | .inf neg => bnat neg * 2 ^ i.signBit + (2 ^ i.eb - 1) * 2 ^ i.fb
  | .rat neg n d => bnat neg * 2 ^ i.signBit + i.roundMag rm neg n d

/-- The regime run of a KT magnitude of `n` bits: how many further bits equal the top bit (R87). -/
def ktRun (n m : Nat) : Nat → Nat
  | 0 => 0
  | fuel + 1 =>
    let r := n - 1 - fuel
    if bits m (n - 1 - r) 1 = bits m (n - 1) 1 then 1 + ktRun n m fuel else 0

/-- A positive KT magnitude decoded exactly (R87). -/
def ktMag (n m : Nat) : EV :=
  let r := 1 + ktRun n m (n - 1)
  let k : Int := if bits m (n - 1) 1 = 1 then r - 1 else -(r : Int)
  let rest := if r < n then n - r - 1 else 0
  let e := if 1 ≤ rest then bits m (rest - 1) 1 else 0
  let fw := rest - 1
  EV.scaled false (2 ^ fw + bits m 0 fw) (2 * k + e - fw)

/-- Decoding a KT code (R86, R87); NaR decodes to a NaN. -/
def ktDecode (n c : Nat) : EV :=
  let m := bits c 0 n
  if m = 0 then (if bit c n then .nan else .zero)
  else match ktMag n m with
    | .rat _ a d => .rat (bit c n) a d
    | v => v

/-- Comparing positive ratios: a/b ≤ c/d. -/
def ratLe (a b c d : Nat) : Bool := decide (a * d ≤ c * b)

/-- The numerator and denominator of a KT magnitude. -/
def ktRat (n m : Nat) : Nat × Nat :=
  match ktMag n m with | .rat _ a d => (a, d) | _ => (0, 1)

/-- Rounding a positive ratio to a KT magnitude code (R88). -/
def ktRoundMag (n a d : Nat) : Nat :=
  let (vx, vd) := ktRat n (2 ^ n - 1)
  let (wx, wd) := ktRat n 1
  if ratLe vx vd a d then 2 ^ n - 1
  else if ratLe a d wx wd then 1
  else
    let m := (List.range (2 ^ n - 1)).foldl (fun best m =>
      if 1 ≤ m ∧ (let (x, y) := ktRat n m; ratLe x y a d) then max best m else best) 1
    let (x, y) := ktRat n m
    let (x', y') := ktRat n (m + 1)
    -- lo = a/d − x/y and hi = x'/y' − a/d, over the common denominator d·y·y'
    let lo := (a * y - x * d) * y'
    let hi := (x' * d - a * y') * y
    if hi < lo ∨ (hi = lo ∧ m % 2 = 1) then m + 1 else m

/-- Rounding an exact value into KT (R88); the code has `n + 1` bits. -/
def ktRound (n : Nat) : EV → Nat
  | .nan | .inf _ => 2 ^ n
  | .rat neg a d => if a = 0 then 0 else bnat neg * 2 ^ n + ktRoundMag n a d

/-- Rounding into a format: kt_round whatever the mode for KT (R88), rnd for IEEE (R84). -/
def EV.round (f : Fmt) (rm : Rm) (v : EV) : Nat :=
  match f.ieee with
  | some i => i.round rm v
  | none => ktRound f.ktBits v

/-- Decoding one element of a format exactly (R82, R87); INT elements decode as signed 64-bit integers. -/
def Fmt.decode (f : Fmt) (c : Nat) : EV :=
  match f with
  | .kt8 => ktDecode 7 c
  | .kt6 => ktDecode 5 c
  | .fp32 => (Ieee.mk 8 23 127).decode c
  | .bf16 => (Ieee.mk 8 7 127).decode c
  | .fp16 => (Ieee.mk 5 10 15).decode c
  | _ => EV.ofInt (sint c 64)

/-- An FP32 pattern decoded. -/
def fp32 (c : Nat) : EV := Fmt.decode .fp32 c

/-- Rounding to FP32 by RNE, as a value: rne(x, FP32). -/
def EV.rne32 (v : EV) : EV := fp32 (v.round .fp32 .rne)

/-- Rounding to FP32 under a mode, as a value. -/
def EV.rnd32 (rm : Rm) (v : EV) : EV := fp32 (v.round .fp32 rm)

/-- The sign of a value (a NaN has none). -/
def EV.neg? : EV → Bool
  | .nan => false
  | .inf n => n
  | .rat n _ _ => n

/-- Negation of a value; a NaN stays (R83 delivers the canonical NaN when rounded). -/
def EV.negate : EV → EV
  | .nan => .nan
  | .inf n => .inf (!n)
  | .rat n a d => .rat (!n) a d

/-- The signed numerator. -/
def signedNum (neg : Bool) (n : Nat) : Int := if neg then -(n : Int) else n

/-- The exact sum of addends, its zero signed by R93. -/
def EV.sum (rm : Rm) (l : List EV) : EV :=
  let infs := l.filterMap fun | .inf n => some n | _ => none
  if l.any (· = .nan) then .nan
  else if infs.any id && infs.any (! ·) then .nan
  else match infs with
    | n :: _ => .inf n
    | [] =>
      let (n, d) := l.foldl (fun (acc : Int × Nat) v =>
        match v with
        | .rat s a b => if a = 0 then acc else if acc.2 = b then (acc.1 + signedNum s a, b)
            else (acc.1 * b + signedNum s a * acc.2, acc.2 * b)
        | _ => acc) (0, 1)
      if n = 0 then
        let negZero : EV → Bool := fun | .rat true 0 _ => true | _ => false
        let posZero : EV → Bool := fun | .rat false 0 _ => true | _ => false
        .rat (l.all negZero || (decide (rm = .rd) && !l.all posZero)) 0 1
      else .rat (decide (n < 0)) n.natAbs d

/-- The exact sum of two values. -/
def EV.add (rm : Rm) (a b : EV) : EV := EV.sum rm [a, b]

/-- The exact product (R92 for its special cases: 0 · ∞ is a NaN). -/
def EV.mul : EV → EV → EV
  | .nan, _ | _, .nan => .nan
  | .inf s, .inf t => .inf (s != t)
  | .inf s, .rat t a _ => if a = 0 then .nan else .inf (s != t)
  | .rat s a _, .inf t => if a = 0 then .nan else .inf (s != t)
  | .rat s a b, .rat t c d => .rat (s != t) (a * c) (b * d)

/-- The exact quotient (R92). -/
def EV.div : EV → EV → EV
  | .nan, _ | _, .nan => .nan
  | .inf _, .inf _ => .nan
  | .inf s, .rat t _ _ => .inf (s != t)
  | .rat s _ _, .inf t => .rat (s != t) 0 1
  | .rat s a b, .rat t c d =>
    if c = 0 then (if a = 0 then .nan else .inf (s != t)) else .rat (s != t) (a * d) (b * c)

/-- The order of two values, −0 equal to +0; none when either is a NaN (R227). -/
def EV.cmp : EV → EV → Option Ordering
  | .nan, _ | _, .nan => none
  | .inf s, .inf t => some (if s = t then .eq else if s then .lt else .gt)
  | .inf s, .rat _ _ _ => some (if s then .lt else .gt)
  | .rat _ _ _, .inf t => some (if t then .gt else .lt)
  | .rat s a b, .rat t c d => some (compare (signedNum s a * d) (signedNum t c * b))

/-- a < b, false for a NaN. -/
def EV.lt (a b : EV) : Bool := a.cmp b == some .lt

/-- The operand that minimumNumber or maximumNumber chooses, −0 below +0 (R85). -/
def EV.choose (wantMax : Bool) (a b : EV) : EV :=
  match a.cmp b with
  | none => if a = .nan then b else a
  | some .lt => if wantMax then b else a
  | some .gt => if wantMax then a else b
  | some .eq => if a.neg? then (if wantMax then b else a) else (if wantMax then a else b)

/-- Rounding to an integer, saturating to a range; NaN gives 0, infinities the ends (R91, R185). -/
def EV.toInt (rm : Rm) (lo hi : Int) : EV → Int
  | .nan => 0
  | .inf neg => if neg then lo else hi
  | .rat neg n d => max lo (min hi (signedNum neg (roundNat rm neg n d)))

/-! ### Correctly rounded functions (R92): an approximation of `prec` fraction bits, made odd below its last bit
when it is inexact, so that one rounding into any format of the device is the rounding of the exact value
(log entry 10). -/

/-- Fraction bits of the approximations. -/
def prec : Nat := 320

/-- An inexact value of the given floor at `prec` fraction bits. -/
def EV.inexact (neg : Bool) (k : Nat) : EV := .rat neg (2 * k + 1) (2 ^ (prec + 1))

/-- ⌊√n⌋ by bits from `i` down. -/
def isqrtFrom (n : Nat) : Nat → Nat → Nat
  | 0, r => r
  | i + 1, r => isqrtFrom n i (if (r + 2 ^ i) * (r + 2 ^ i) ≤ n then r + 2 ^ i else r)

/-- ⌊√n⌋. -/
def isqrt (n : Nat) : Nat := isqrtFrom n (Nat.log2 n / 2 + 1) 0

/-- √(n/d) of a positive ratio. -/
def sqrtRat (n d : Nat) : EV :=
  let k := isqrt (n * 2 ^ (2 * prec) / d)
  if k * k * d = n * 2 ^ (2 * prec) then .rat false k (2 ^ prec) else EV.inexact false k

/-- Square root (R92). -/
def EV.sqrt : EV → EV
  | .nan => .nan
  | .inf neg => if neg then .nan else .inf false
  | .rat neg n d => if n = 0 then .rat neg 0 1 else if neg then .nan else sqrtRat n d

/-- Reciprocal square root (R92). -/
def EV.rsqrt : EV → EV
  | .nan => .nan
  | .inf neg => if neg then .nan else .zero
  | .rat neg n d => if n = 0 then .inf neg else if neg then .nan else sqrtRat d n

/-- Σ z^(2k+1)/(2k+1) at `prec` fraction bits, for z below 1/2 given at `prec` bits. -/
def atanhSeries (z2 : Nat) : Nat → Nat → Nat → Nat
  | 0, _, _ => 0
  | fuel + 1, t, k => t / (2 * k + 1) + atanhSeries z2 fuel (t * z2 / 2 ^ prec) (k + 1)

/-- 2·atanh(a/b) at `prec` fraction bits: ln((b + a)/(b − a)). -/
def atanh2 (a b : Nat) : Nat :=
  let z := a * 2 ^ prec / b
  2 * atanhSeries (z * z / 2 ^ prec) 110 z 0

/-- ln 2 at `prec` fraction bits. -/
def ln2 : Nat := atanh2 1 3

/-- Σ y^k/k! at `prec` fraction bits, for y below 1 given at `prec` bits. -/
def expSeries (y : Nat) : Nat → Nat → Nat → Nat
  | 0, _, _ => 0
  | fuel + 1, t, k => t + expSeries y fuel (t * y / 2 ^ prec / (k + 1)) (k + 1)

/-- 2^x of a finite x with whole part `n` and fraction `f` of `prec` bits. -/
def exp2Fix (n : Int) (f : Nat) : EV :=
  let k := expSeries (f * ln2 / 2 ^ prec) 80 (2 ^ prec) 0
  if 0 ≤ n then .rat false ((2 * k + 1) * 2 ^ n.toNat) (2 ^ (prec + 1))
  else .rat false (2 * k + 1) (2 ^ (prec + 1 + (-n).toNat))

/-- 2^x (R92); beyond ±400 any value of that size rounds alike. -/
def EV.exp2 : EV → EV
  | .nan => .nan
  | .inf neg => if neg then .zero else .inf false
  | .rat neg n d =>
    let x := signedNum neg n
    let w := x / (d : Int)
    if w < -400 then .rat false 1 (2 ^ 400)
    else if 400 ≤ w then .rat false (2 ^ 400) 1
    else
      let r := (x - w * d).toNat
      if r = 0 then EV.scaled false 1 w else exp2Fix w (r * 2 ^ prec / d)

/-- log2 x (R92). -/
def EV.log2 : EV → EV
  | .nan => .nan
  | .inf neg => if neg then .nan else .inf false
  | .rat neg n d =>
    if n = 0 then .inf true
    else if neg then .nan
    else
      let e := ratLog2 n d
      let (a, b) := if 0 ≤ e then (n, d * 2 ^ e.toNat) else (n * 2 ^ (-e).toNat, d)
      if a = b then EV.ofInt e
      else
        let frac := atanh2 (a - b) (a + b) * 2 ^ prec / ln2
        let v : Int := e * (2 ^ prec : Nat) + frac
        if v < 0 then .rat true (2 * (-v).toNat - 1) (2 ^ (prec + 1)) else EV.inexact false v.toNat

/-- tanh x rounded RNE into FP32 (R92): below 2^−30 it rounds to x, from 20 up to ±1. -/
def EV.tanh : EV → EV
  | .nan => .nan
  | .inf neg => .rat neg 1 1
  | .rat neg n d =>
    if n * 2 ^ 30 < d then .rat neg n d
    else if 20 * d ≤ n then .rat neg 1 1
    else
      let y := 2 * n * 2 ^ prec / d
      let w := y / ln2
      let k := expSeries (y - w * ln2) 80 (2 ^ prec) 0 * 2 ^ w
      EV.inexact neg ((k - 2 ^ prec) * 2 ^ prec / (k + 2 ^ prec))

/-- A pairwise tree over the values from `lo`, 2^`lv` positions, absent positions the identity, left first (R94). -/
def pairwise {α : Type} (x : Nat → α) (op : α → α → α) : Nat → Nat → α
  | 0, lo => x lo
  | lv + 1, lo => op (pairwise x op lv lo) (pairwise x op lv (lo + 2 ^ lv))

/-- ⌈log2 n⌉. -/
def clog2 (n : Nat) : Nat := if n ≤ 1 then 0 else Nat.log2 (n - 1) + 1

/-- The aligned power-of-two runs of [0, n), largest first: (first, log2 of the length) (R94). -/
def alignedRuns (n : Nat) : List (Nat × Nat) :=
  ((List.range 32).reverse.foldl (fun (acc : Nat × List (Nat × Nat)) b =>
    if bit n b then (acc.1 + 2 ^ b, acc.2 ++ [(acc.1, b)]) else acc) (0, [])).2

/-- The aligned-run prefix over positions 0 to i (R94). -/
def alignedPrefix {α : Type} (x : Nat → α) (op : α → α → α) (i : Nat) : α :=
  match (alignedRuns (i + 1)).map fun r => pairwise x op r.2 r.1 with
  | [] => x 0
  | h :: t => t.foldl op h

end Sys2Proof
end

