-- ==== Sys2Proof/Machine/Ops.lean ====
section
/-! DEFINITION. The named operations over the state: memory, translation, registers, tokens, recorded faults, taking
a trap and returning from it, completion entries, and the counters. -/

namespace Sys2Proof.Machine

/-- What one act answers. -/
abbrev Out := Host.Outcome State Fault Refusal

/-- The act continues when its condition holds, and is not enabled otherwise. -/
def need (c : Bool) (k : Out) : Out := if c then k else .fault .notEnabled

/-- The act continues with a value when there is one, and is not enabled otherwise. -/
def needSome {α : Type} (o : Option α) (k : α → Out) : Out :=
  match o with
  | some x => k x
  | none => .fault .notEnabled

/-- A free value below `n` (0 when `n` is 0), and the state that has used it (R2, log entry 1). -/
def State.draw (s : State) (n : Nat) : Nat × State := (Config.freeNat s.freeCtr % n, { s with freeCtr := s.freeCtr + 1 })

/-! ### Memory cells -/

/-- The byte at an address. -/
def Memory.get : Memory → Nat → Byte
  | [], _ => Memory.blank
  | (x, b) :: r, a => if x = a then b else Memory.get r a

/-- Writing one byte, keeping the canonical form. -/
def Memory.set : Memory → Nat → Byte → Memory
  | [], a, b => if b = Memory.blank then [] else [(a, b)]
  | (x, c) :: r, a, b =>
    if a < x then (if b = Memory.blank then (x, c) :: r else (a, b) :: (x, c) :: r)
    else if a = x then (if b = Memory.blank then r else (a, b) :: r)
    else (x, c) :: Memory.set r a b

/-- Addresses strictly rise from above `lo`, and no entry is blank. -/
def Memory.wfFrom : Nat → Memory → Bool
  | _, [] => true
  | lo, (x, b) :: r => decide (lo ≤ x) && decide (b ≠ Memory.blank) && Memory.wfFrom (x + 1) r

/-- The canonical form of memory. -/
def Memory.wf (m : Memory) : Bool := Memory.wfFrom 0 m

/-- `n` bytes from `a`, little-endian (R4). -/
def Memory.read (m : Memory) (a : Nat) : Nat → Nat
  | 0 => 0
  | n + 1 => (m.get a).toNat + 256 * Memory.read m (a + 1) n

/-- `n` bytes of `v` stored from `a`, little-endian (R4). -/
def Memory.write (m : Memory) (a : Nat) : Nat → Nat → Memory
  | 0, _ => m
  | n + 1, v => Memory.write (m.set a (BitVec.ofNat 8 v)) (a + 1) n (v / 256)

/-- The 8-byte words that `n` bytes from `a` touch. -/
def wordsOf (a n : Nat) : List Nat := if n = 0 then [] else (List.range ((a + n - 1) / 8 - a / 8 + 1)).map (· + a / 8)

/-- The 8-byte words that `n` bytes from `a` cover whole. -/
def wholeWords (a n : Nat) : List Nat := (wordsOf a n).filter fun w => decide (a ≤ 8 * w) && decide (8 * w + 8 ≤ a + n)

/-! ### Parts of the state -/

/-- A core, or a reset core where the number names none (R9). -/
def State.core (s : State) (c : Nat) : Core := s.cores.getD c .reset

/-- Changing one core. -/
def State.modCore (s : State) (c : Nat) (f : Core → Core) : State := { s with cores := s.cores.modify c f }

/-- The context in a slot of a core. -/
def Core.slot? (c : Core) (i : Nat) : Option Slot := (c.slots.getD i none)

/-- The context in a slot of a core. -/
def State.slot? (s : State) (c i : Nat) : Option Slot := (s.core c).slot? i

/-- Changing the context in a slot. -/
def State.modSlot (s : State) (c i : Nat) (f : Slot → Slot) : State :=
  s.modCore c fun k => { k with slots := k.slots.modify i (Option.map f) }

/-- A block in flight by its age (R31). -/
def Slot.inst? (sl : Slot) (age : Nat) : Option Inst := sl.insts.find? (·.age = age)

/-- A strand by its number. -/
def Slot.strand? (sl : Slot) (uid : Nat) : Option Strand := sl.strands.find? (·.uid = uid)

/-- Changing one block in flight. -/
def State.modInst (s : State) (c i age : Nat) (f : Inst → Inst) : State :=
  s.modSlot c i fun sl => { sl with insts := sl.insts.map fun x => if x.age = age then f x else x }

/-- Changing one strand. -/
def State.modStrand (s : State) (c i uid : Nat) (f : Strand → Strand) : State :=
  s.modSlot c i fun sl => { sl with strands := sl.strands.map fun x => if x.uid = uid then f x else x }

/-- A chair, or a reset chair where the number names none. -/
def State.chair (s : State) (c : Nat) : Chair := s.chairs.getD c .reset

/-- Changing one chair. -/
def State.modChair (s : State) (c : Nat) (f : Chair → Chair) : State := { s with chairs := s.chairs.modify c f }

/-- The launch of a number. -/
def State.launch? (s : State) (id : Nat) : Option Launch := s.launches.find? (·.id = id)

/-- Changing one launch. -/
def State.modLaunch (s : State) (id : Nat) (f : Launch → Launch) : State :=
  { s with launches := s.launches.map fun l => if l.id = id then f l else l }

/-- The current privilege of a strand, TRAPS.PRIV: true is CHAIR (R291, R296). -/
def Strand.priv (t : Strand) : Bool := t.traps.getLsbD 11

/-- The uncommitted blocks of a strand, oldest first (R31). -/
def Slot.instsOf (sl : Slot) (uid : Nat) : List Inst := sl.insts.filter (·.uid = uid)

/-- Whether the block of this age is the oldest uncommitted block of its strand (R35). -/
def Slot.isOldest (sl : Slot) (i : Inst) : Bool := (sl.instsOf i.uid).all fun j => decide (i.age ≤ j.age)

/-- The older uncommitted blocks of the strand of `i`, oldest first. -/
def Slot.olderOf (sl : Slot) (i : Inst) : List Inst := (sl.instsOf i.uid).filter fun j => decide (j.age < i.age)

/-- CTXPRI.PRI (R293). -/
def Slot.pri (sl : Slot) : Nat := bits sl.ctxpri.toNat 0 3

/-- CABQ.QUOTA (R294). -/
def Slot.quota (sl : Slot) : Nat := bits sl.cabq.toNat 0 8

/-- Partition bytes: LMP in 16 KiB units (R188). -/
def Slot.partSize (sl : Slot) : Nat := bits sl.lmpart.toNat 0 5 * 0x4000

/-- Whether an ASID stands in a valid CHASIDn entry of the chair, and at which n (R299). -/
def Chair.asidIndex (c : Chair) (asid : Nat) : Option Nat :=
  (List.range 16).find? fun n =>
    let e := (c.chasid.getD n 0).toNat
    bit e 16 && bits e 0 16 == asid

/-! ### Errors and performance -/

/-- A saturating 32-bit count (R347). -/
def satAdd32 (a n : Nat) : Nat := min (a + n) (2 ^ 32 - 1)

/-- A deferred error in a record: ALERT is set, LASTLOC names the word (R349, R350). -/
def ErrRec.defer (e : ErrRec) (loc : Nat) : ErrRec := { e with de := satAdd32 e.de 1, alert := true, lastloc := loc }

/-- Consumed poisoned words in a record (R349, R350). -/
def ErrRec.consume (e : ErrRec) (n : Nat) : ErrRec := { e with ue := satAdd32 e.ue n, alert := e.alert || decide (n ≠ 0) }

/-- A corrected single-bit error in a record: CE steps, ALERT is set where it reaches a threshold, LASTLOC names the word
(R316, R349, R350). -/
def ErrRec.correct (e : ErrRec) (loc : Nat) : ErrRec :=
  { e with ce := satAdd32 e.ce 1, alert := e.alert || (decide (e.cethr ≠ 0) && decide (satAdd32 e.ce 1 = e.cethr)), lastloc := loc }

/-- The home slice of a guest-physical address (R309). -/
def homeSlice (gpa : Nat) : Nat :=
  let lx := bits gpa 7 14
  bits lx 0 7 ^^^ bits lx 7 7

/-- Changing error record `n` of a core: 0 local memory, 1 Cabinets and chest, 2 window store and code (R350). -/
def State.modErr (s : State) (c n : Nat) (f : ErrRec → ErrRec) : State :=
  s.modCore c fun k => { k with errs := k.errs.modify n f }

/-- The package of a memory key, none for this one. -/
def keyPackage (key : Nat) : Option Nat := if key < 2 ^ 64 then none else some (key / 2 ^ 64 - 1)

/-- Whether a memory key belongs to a package that is unreachable (R385). -/
def State.lost (s : State) (key : Nat) : Bool :=
  match keyPackage key with | some p => s.unreachable.contains p | none => false

/-- The poisoned words among those that `n` bytes at a key touch (R316). -/
def State.poisonWords (s : State) (key n : Nat) : List Nat := (wordsOf key n).filter (s.poison.contains ·)

/-- Counting consumed poisoned words at their home slices; those of another package count there (R349, R351). -/
def State.ueGlobal (s : State) (ws : List Nat) : State :=
  { s with sliceErrs := ws.foldl (fun l w =>
      if (keyPackage (8 * w)).isNone then l.modify (homeSlice (8 * w)) (·.consume 1) else l) s.sliceErrs }

/-- Counting a deferred error of a global word at its home slice (R349, R351). -/
def State.deGlobal (s : State) (gpa key : Nat) : State :=
  if (keyPackage key).isSome then s else { s with sliceErrs := s.sliceErrs.modify (homeSlice gpa) fun e => e.defer gpa }

/-- A poisoned carve-out word consumed: UE steps at its stack, a machine check to the service (R316, R350). -/
def State.noteCarve (s : State) (ws : List Nat) : State :=
  { s with stackErrs := ws.foldl (fun l w => l.modify (homeSlice (8 * w) / 16) (·.consume 1)) s.stackErrs }

/-- One counter after `n` events: COUNT wraps at 2^48 and sets OVF (R352). -/
def Perf.count (p : Perf) (n : Nat) : Perf :=
  let c := bits p.cnt.toNat 0 48 + n
  { p with cnt := BitVec.ofNat 64 ((if bit p.cnt.toNat 48 || decide (2 ^ 48 ≤ c) then 2 ^ 48 else 0) + c % 2 ^ 48) }

/-- Whether a counter counts event `ev` of a chair (R352). -/
def Perf.counts (p : Perf) (ev chair : Nat) : Bool :=
  bit p.ctl.toNat 15 && bits p.ctl.toNat 0 8 == ev && decide (ev ≠ 0) && decide (ev ≤ 0x0C)
    && (!bit p.ctl.toNat 14 || bits p.ctl.toNat 8 6 == chair)

/-- Counting `n` events on a core (R353). -/
def State.perfEvent (s : State) (c chair ev n : Nat) : State :=
  s.modCore c fun k => { k with perf := k.perf.map fun p => if p.counts ev chair then p.count n else p }

/-! ### Translation -/

/-! Fault codes (R354). -/

/-- ILLEGAL_OPCODE (R354). -/
abbrev FC.illegalOpcode : Nat := 0x01

/-- RESERVED_FIELD (R354). -/
abbrev FC.reservedField : Nat := 0x02

/-- BAD_HEADER (R354). -/
abbrev FC.badHeader : Nat := 0x03

/-- MULTI_EXIT (R354). -/
abbrev FC.multiExit : Nat := 0x04

/-- INCOMPLETE_BLOCK (R354). -/
abbrev FC.incompleteBlock : Nat := 0x05

/-- TARGET_RANGE (R354). -/
abbrev FC.targetRange : Nat := 0x06

/-- PRIVILEGE (R354). -/
abbrev FC.privilege : Nat := 0x07

/-- TAG_DEPTH (R354). -/
abbrev FC.tagDepth : Nat := 0x08

/-- SOFTWARE_TRAP (R354). -/
abbrev FC.softwareTrap : Nat := 0x09

/-- BREAKPOINT (R354). -/
abbrev FC.breakpoint : Nat := 0x0A

/-- TRANSLATION (R354). -/
abbrev FC.translation : Nat := 0x10

/-- PROTECTION (R354). -/
abbrev FC.protection : Nat := 0x11

/-- ALIGNMENT (R354). -/
abbrev FC.alignment : Nat := 0x12

/-- CHAIN_OVERFLOW (R354). -/
abbrev FC.chainOverflow : Nat := 0x13

/-- CHAIN_DUPLICATE (R354). -/
abbrev FC.chainDuplicate : Nat := 0x14

/-- SCATTER_ABANDONED (R354). -/
abbrev FC.scatterAbandoned : Nat := 0x15

/-- CHEST_FULL (R354). -/
abbrev FC.chestFull : Nat := 0x20

/-- FORMAT_RESERVED (R354). -/
abbrev FC.formatReserved : Nat := 0x30

/-- OVERRUN (R354). -/
abbrev FC.overrun : Nat := 0x40

/-- PATCH_INVALID (R354). -/
abbrev FC.patchInvalid : Nat := 0x41

/-- BIND_UNDECLARED (R354). -/
abbrev FC.bindUndeclared : Nat := 0x50

/-- BIND_INVALID (R354). -/
abbrev FC.bindInvalid : Nat := 0x51

/-- ATTN_PARAM (R354). -/
abbrev FC.attnParam : Nat := 0x52

/-- PROBE_HOLD (R354). -/
abbrev FC.probeHold : Nat := 0x60

/-- TAP_GRANT (R354). -/
abbrev FC.tapGrant : Nat := 0x61

/-- UNCORRECTABLE (R354). -/
abbrev FC.uncorrectable : Nat := 0x70

/-- SERVICE_ABORT (R354). -/
abbrev FC.serviceAbort : Nat := 0x7F

/-- Why a translation fails: a missing entry of a stage, replayable, or a fault that is not (R196); a malformed second-stage
entry, whose fault the service rejects (R332); a poisoned word of a first-stage table, or of a second-stage table in the
carve-out (R316). -/
inductive TransErr
  | missing (stage : Nat)
  | malformed
  | fault (code : Nat)
  | poison (word : Nat)
  | carve (word : Nat)
  deriving DecidableEq, Repr

/-- The stage of a failure that replays; a poisoned second-stage entry is no valid entry (R196, log entry 77). -/
def TransErr.stage : TransErr → Option Nat
  | .missing n => some n
  | .malformed | .carve _ => some 2
  | _ => none

/-- The fault of an access that never replays: a missing entry is TRANSLATION (R196, R212). -/
def TransErr.code : TransErr → Nat
  | .missing _ | .malformed | .carve _ => FC.translation
  | .fault c => c
  | .poison _ => FC.uncorrectable

/-- What a failed translation consumed is counted (R316, R349). -/
def State.noteTrans (s : State) : TransErr → State
  | .poison w => s.ueGlobal [w]
  | .carve w => s.noteCarve [w]
  | _ => s

/-- What an access does at its page (R331). -/
inductive Need | load | store | fetch
  deriving DecidableEq, Repr

/-- A result or a translation error. -/
abbrev Trans (α : Type) := Except TransErr α

/-- VA [63:56] all equal bit 55 (R186). -/
def canonical (va : Nat) : Bool := bits va 55 9 == 0 || bits va 55 9 == 2 ^ 9 - 1

/-- The memory that a second-stage leaf names: HPA of this package, or the space of another package, kept apart by
package and chair (R311, R384, log entry 9). -/
def remoteKey (pkg chair gpa : Nat) : Nat := (pkg + 1) * 2 ^ 64 + chair * 2 ^ 52 + gpa

/-- A level of a walk: the low bit of its index, its index width, and whether a leaf is allowed. -/
structure Level where
  lo : Nat
  n : Nat
  leaf : Bool
  deriving DecidableEq, Repr

/-- Walking second-stage tables from a table (R332). -/
def walk2 (s : State) (chair gpa : Nat) : List Level → Nat → Trans (Nat × Perm)
  | [], _ => .error (.missing 2)
  | lv :: rest, table =>
    let a := table + 8 * bits gpa lv.lo lv.n
    let e := s.hbm.read a 8
    let leaf := bit e 4
    let rmt := bit e 63
    let addr := bits e 12 28 * 0x1000
    let bad := bits e 40 9 ≠ 0 || bits e 5 7 ≠ 0 || (leaf && !lv.leaf) || (!leaf && rest.isEmpty)
      || (leaf && addr % 2 ^ lv.lo ≠ 0) || (!leaf && (bits e 1 3 ≠ 0 || rmt))
      || (rmt && bits e 58 5 ≠ bits s.pkgid.toNat 16 5)
    if !(s.poisonWords a 8).isEmpty then .error (.carve (a / 8))
    else if !bit e 0 then .error (.missing 2)
    else if bad then .error .malformed
    else if !leaf then walk2 s chair gpa rest addr
    else
      let perm : Perm := ⟨bit e 3, true, bit e 2, bit e 1⟩
      let pkg := bits e 49 9
      if rmt && pkg ≠ bits s.pkgid.toNat 0 9 then
        -- the remote package's second stage of the same chair decides (R384, log entry 9)
        if Config.remoteEntry pkg chair (gpa / 2 ^ 21) then .ok (remoteKey pkg chair gpa, perm)
        else .error (.fault FC.translation)
      else
        let hpa := addr + gpa % 2 ^ lv.lo
        if 0x9E00000000 ≤ hpa then .error (.fault (FC.translation)) else .ok (hpa, perm)

/-- The four levels of the second stage (R332). -/
def levels2 : List Level := [⟨48, 4, false⟩, ⟨39, 9, false⟩, ⟨30, 9, true⟩, ⟨21, 9, true⟩]

/-- The second stage of a chair (R299, R332). -/
def stage2 (s : State) (chair gpa : Nat) : Trans (Nat × Perm) :=
  let r := (s.chair chair).chs2.toNat
  if bit r 0 then walk2 s chair gpa levels2 (bits r 12 40 * 0x1000) else .error (.fault (FC.translation))

/-- Whether any of `n` bytes at a key is poisoned, or belongs to an unreachable package (R316, R385). -/
def State.poisoned (s : State) (key n : Nat) : Bool := (wordsOf key n).any (s.poison.contains ·) || s.lost key

/-- A doubleword at a guest-physical address, read as a plain load (R333). -/
def readGpa (s : State) (chair gpa : Nat) : Trans Nat := do
  let (key, p) ← stage2 s chair gpa
  if !p.rd then .error (.fault (FC.protection))
  else if s.lost key then .error (.fault FC.uncorrectable)
  else match s.poisonWords key 8 with
    | w :: _ => .error (.poison w)
    | [] => .ok (s.hbm.read key 8)

/-- The five levels of the first stage (R330). -/
def levels1 : List Level := [⟨48, 8, false⟩, ⟨39, 9, false⟩, ⟨30, 9, true⟩, ⟨21, 9, true⟩, ⟨12, 9, true⟩]

/-- Walking stage-1 tables from a table: the page's GPA, the page size and its permissions (R330). -/
def walk1 (s : State) (chair va : Nat) : List Level → Nat → Trans (Nat × Nat × Perm)
  | [], _ => .error (.missing 1)
  | lv :: rest, table => do
    let e ← readGpa s chair (table + 8 * bits va lv.lo lv.n)
    let leaf := bit e 7
    let addr := bits e 12 40 * 0x1000
    let bad := bits e 52 12 ≠ 0 || bits e 8 4 ≠ 0 || bits e 1 2 ≠ 0 || (leaf && !lv.leaf) || (!leaf && rest.isEmpty)
      || (leaf && addr % 2 ^ lv.lo ≠ 0) || (!leaf && bits e 3 4 ≠ 0)
    if !bit e 0 || bad then .error (.missing 1)
    else if !leaf then walk1 s chair va rest addr
    else .ok (addr, 2 ^ lv.lo, ⟨bit e 6, bit e 5, bit e 4, bit e 3⟩)

/-- The anchor doubleword that a core keeps for an ASID; one that changes reaches the core only once an INVA of the ASID
has completed (R329). -/
def Core.root? (c : Core) (chair asid : Nat) : Option Nat :=
  (c.roots.find? fun r => decide (r.1 = chair) && decide (r.2.1 = asid)).map (·.2.2)

/-- The anchor doubleword of an ASID as a core walks from it: the one it keeps, else the one in memory (R329). -/
def anchorOf (s : State) (core chair asid n : Nat) : Trans Nat :=
  match (s.core core).root? chair asid with
  | some e => .ok e
  | none => readGpa s chair (8 * n)

/-- The first stage of an ASID, from the chair's anchor (R329). -/
def stage1 (s : State) (core chair asid va : Nat) : Trans TlbEntry := do
  match (s.chair chair).asidIndex asid with
  | none => .error (.missing 1)
  | some n =>
    let e ← anchorOf s core chair asid n
    if !bit e 0 || bits e 1 11 ≠ 0 || bits e 52 12 ≠ 0 then .error (.missing 1)
    else
      let (page, size, perm) ← walk1 s chair va levels1 (bits e 12 40 * 0x1000)
      .ok ⟨chair, asid, va / size * size, size, page, perm⟩

/-- Stage-1 permission of an access (R331); `user` is a strand at USER. -/
def Perm.grants (p : Perm) (n : Need) (user : Bool) : Bool :=
  (match n with | .load => p.rd | .store => p.w | .fetch => p.x) && (p.u || !user)

/-- The TLB entry of a page, where the core holds one (R334). -/
def Core.tlbFind (c : Core) (chair asid va : Nat) : Option TlbEntry :=
  c.tlb.find? fun e => decide (e.chair = chair) && decide (e.asid = asid) && decide (e.va = va / e.size * e.size)

/-- A service range that holds an address, as an entry of its own (R335). -/
def Core.rangeFind (c : Core) (chair asid va : Nat) : Option TlbEntry :=
  (c.ranges.find? fun r => r.slot.isNone && decide (r.chair = chair) && decide (r.asid = asid) && decide (r.va ≤ va)
    && decide (va < r.va + r.len)).map fun r => ⟨chair, asid, r.va, r.len, r.gpa, r.perm⟩

/-- Translating a canonical address: the guest-physical address, the memory key and the entry used; range entries match
before the L1 TLB (R331, R333, R335). -/
def translate (s : State) (core chair asid : Nat) (user : Bool) (n : Need) (va : Nat) :
    Trans (Nat × Nat × TlbEntry) := do
  let e ← match ((s.core core).rangeFind chair asid va).orElse fun _ => (s.core core).tlbFind chair asid va with
    | some e => pure e
    | none => stage1 s core chair asid va
  let gpa := e.gpa + (va - e.va)
  let (key, p2) ← stage2 s chair gpa
  if e.perm.grants n user && p2.grants n false then .ok (gpa, key, e) else .error (.fault (FC.protection))

/-- Keeping a walked entry, 512 at most, and the anchor it was walked from (R329, R334). -/
def State.fillTlb (s : State) (core : Nat) (e : TlbEntry) : State :=
  let k := s.core core
  if (k.rangeFind e.chair e.asid e.va == some e) || k.tlb.contains e then s
  else
    let root := match ((s.chair e.chair).asidIndex e.asid).map (anchorOf s core e.chair e.asid) with
      | some (.ok x) => if (k.root? e.chair e.asid).isSome then [] else [(e.chair, e.asid, x)]
      | _ => []
    s.modCore core fun k => { k with tlb := (e :: k.tlb).take 512, roots := root ++ k.roots }

/-- The bytes of a slot's chest share on each core (R306). -/
def Slot.chestSize (sl : Slot) : Nat := bits sl.chest.toNat 0 16 * 0x10000

/-- The first byte of a core's chest share (R306). -/
def Slot.chestShare (sl : Slot) (core : Nat) : Nat := bits sl.chest.toNat 16 48 * 0x10000 + core * sl.chestSize

/-- The default chest area of a context number (R306): its pages are mapped by the service. -/
def defaultChest (ctx : Nat) : Nat := 0x007FC00000000000 + ctx * 0x10000000000

/-- Whether a slot's chest share lies in its default area (R306). -/
def Slot.chestDefault (sl : Slot) : Bool := decide (bits sl.chest.toNat 16 48 * 0x10000 = defaultChest sl.ctx)

/-- Whether `n` bytes at a virtual address lie in a chest share of a slot that is held and passes a test (R307). -/
def State.inChest (s : State) (p : Slot → Bool) (chair asid va n : Nat) : Bool :=
  (List.range s.cores.length).any fun ci => (s.core ci).slots.any fun o => match o with
    | some sl => p sl && decide (sl.chair = chair) && decide (sl.asid = asid)
        && decide (va < sl.chestShare ci + sl.chestSize) && decide (sl.chestShare ci < va + n)
    | none => false

/-- The bytes reserved for one core image (R365). -/
def imageSize : Nat := 0x60000

/-- Whether guest-physical bytes lie in a save area that holds an image (R315). -/
def State.inSave (s : State) (chair gpa n : Nat) : Bool :=
  s.saves.any fun x => decide (x.body.chair = chair) && decide (gpa < x.area + imageSize) && decide (x.area < gpa + n)

/-- Whether `n` bytes are device-owned: of a held chest share or a save area (R307, R315). -/
def State.deviceOwned (s : State) (chair asid va gpa n : Nat) : Bool :=
  s.inChest (fun _ => true) chair asid va n || s.inSave chair gpa n

/-- A global access checked and translated in the order of R407, the alignment being checked by the caller's
size `n`, a power of two; chest shares and save areas are device-owned, and a default share is mapped by the service
(R306, R307, R315). -/
def checkGlobal (s : State) (core chair asid : Nat) (user : Bool) (nd : Need) (va n : Nat) :
    Trans (Nat × Nat × TlbEntry) :=
  if !canonical va then .error (.fault (FC.translation))
  else if va % n ≠ 0 then .error (.fault (FC.alignment))
  else if s.inChest Slot.chestDefault chair asid va n then .error (.fault (FC.protection))
  else do
    let r ← translate s core chair asid user nd va
    if s.deviceOwned chair asid va r.1 n then .error (.fault (FC.protection)) else .ok r

/-! ### Global and local bytes -/

/-- Whether a guest-physical byte holds HOLD of a sequence record: bit 1 of byte 8 (R70). -/
def Chair.isHoldByte (c : Chair) (gpa : Nat) : Bool :=
  let base := bits c.chseqb.toNat 12 40 * 0x1000
  decide (base ≤ gpa) && (gpa - base) % 64 == 8 && decide ((gpa - base) / 64 < bits c.chseqn.toNat 0 21)

/-- A byte that the chair's side writes, HOLD kept (R70). -/
def Chair.keepHold (c : Chair) (gpa : Nat) (old new : Byte) : Byte :=
  if c.isHoldByte gpa then (new &&& 0xFD) ||| (old &&& 0x02) else new

/-- `n` bytes of `v` written from the chair's side at a guest-physical address and its key. -/
def chairBytes (c : Chair) (m : Memory) (gpa key : Nat) : Nat → Nat → Memory
  | 0, _ => m
  | n + 1, v => chairBytes c (m.set key (c.keepHold gpa (m.get key) (BitVec.ofNat 8 v))) (gpa + 1) (key + 1) n (v / 256)

/-- A store of the chair's side: bytes, HOLD kept, whole words cleared of poison (R70, R316). -/
def State.storeGlobal (s : State) (chair gpa key n v : Nat) : State :=
  { s with hbm := chairBytes (s.chair chair) s.hbm gpa key n v,
           poison := s.poison.filter fun w => !(wholeWords key n).contains w }

/-- Poisoning the words that a copy of poisoned data covers (R316). -/
def State.poisonGlobal (s : State) (gpa key n : Nat) : State :=
  ({ s with poison := ((wordsOf key n).filter fun w => !s.poison.contains w) ++ s.poison }).deGlobal gpa key

/-- The byte of a core's 256 KiB at a partition offset (R303). -/
def Slot.localAddr (sl : Slot) (off : Nat) : Nat := sl.units.getD (off / 0x4000) 0 * 0x4000 + off % 0x4000

/-- `n` bytes at a partition offset, read one unit at a time (R303). -/
def State.readLocal (s : State) (core : Nat) (sl : Slot) (off : Nat) : Nat → Nat
  | 0 => 0
  | n + 1 => ((s.core core).mem.get (sl.localAddr off)).toNat + 256 * State.readLocal s core sl (off + 1) n

/-- `n` bytes written at a partition offset. -/
def writeLocalMem (m : Memory) (sl : Slot) (off : Nat) : Nat → Nat → Memory
  | 0, _ => m
  | n + 1, v => writeLocalMem (m.set (sl.localAddr off) (BitVec.ofNat 8 v)) sl (off + 1) n (v / 256)

/-- The 8-byte words of a core's memory that a partition range touches. -/
def Slot.localWords (sl : Slot) (off n : Nat) : List Nat :=
  ((wordsOf off n).map fun w => sl.localAddr (8 * w) / 8)

/-- A local store: bytes, and whole words cleared of poison. -/
def State.storeLocal (s : State) (core : Nat) (sl : Slot) (off n v : Nat) : State :=
  s.modCore core fun k =>
    { k with mem := writeLocalMem k.mem sl off n v,
             poison := k.poison.filter fun w => !((wholeWords off n).map fun x => sl.localAddr (8 * x) / 8).contains w }

/-- Whether a partition range holds a poisoned word. -/
def State.poisonedLocal (s : State) (core : Nat) (sl : Slot) (off n : Nat) : Bool :=
  (sl.localWords off n).any ((s.core core).poison.contains ·)

/-- Counting the poisoned words of a partition range that were consumed (R349). -/
def State.ueLocal (s : State) (core : Nat) (sl : Slot) (off n : Nat) : State :=
  s.modErr core 0 (·.consume ((sl.localWords off n).filter ((s.core core).poison.contains ·)).length)

/-- Poisoning the words of a partition range, counted once (R349). -/
def State.poisonLocal (s : State) (core : Nat) (sl : Slot) (off n : Nat) : State :=
  (s.modCore core fun k => { k with poison := (sl.localWords off n) ++ k.poison }).modErr core 0
    fun e => e.defer (sl.localAddr off)

/-! ### Recorded faults, traps -/

/-- A fault with no access: LOC and LOCS are 0 (R296). -/
def FaultRec.plain (c : Nat) : FaultRec := ⟨c, false, 0, 0, 0⟩

/-- A fault of an access, at its LSID (R296). -/
def FaultRec.access (c lsid va : Nat) : FaultRec := ⟨c, false, lsid, va, 0⟩

/-- A fault at a slot (R408). -/
def FaultRec.atSlot (c k : Nat) : FaultRec := ⟨c, true, k, 0, 0⟩

/-- Recording a fault against a block in flight (R35, R155). -/
def State.record (s : State) (core slot age : Nat) (f : FaultRec) : State :=
  s.modInst core slot age fun i => { i with faults := i.faults ++ [f] }

/-- TRAPS as trap entry leaves it: VAL, LOCS, LOC, CODE of the fault, PPRIV := PRIV, PRIV := CHAIR, IP := 1 (R297). -/
def trapsOf (f : FaultRec) (priv : Bool) : Word :=
  BitVec.ofNat 64 (f.val % 2 ^ 24 * 2 ^ 40 + bnat f.locs * 2 ^ 23 + f.loc % 2 ^ 7 * 2 ^ 16 + bnat priv * 2 ^ 12
    + 2 ^ 11 + 2 ^ 10 + f.code % 2 ^ 8)

/-- Taking an exception: trap entry of a strand under a handler (R297). -/
def Strand.trapEntry (t : Strand) (trapv : Word) (f : FaultRec) : Strand :=
  { t with trapba := t.ba, flt := BitVec.ofNat 64 f.va, traps := trapsOf f t.priv,
           ba := BitVec.ofNat 64 (trapv.toNat / 16 * 16) }

/-- Returning from an exception: BA := TRAPBA, PRIV := PPRIV, IP := 0 (R297). -/
def Strand.trapReturn (t : Strand) : Strand :=
  { t with ba := t.trapba,
           traps := BitVec.ofNat 64 (bits t.traps.toNat 12 52 * 2 ^ 12 + bits t.traps.toNat 12 1 * 2 ^ 11
             + bits t.traps.toNat 0 10) }

/-- Whether a fault of the strand enters a trap: IP is 0 and the slot has a handler (R297, R358). -/
def Strand.canTrap (t : Strand) (trapv : Word) : Bool := !t.traps.getLsbD 10 && decide (trapv.toNat / 16 ≠ 0)

/-! ### Registers (R157, R290) -/

/-- What a G register keeps of a token (R157): 64 bits, tag kept; a stored tile is an ordinary value (R215). -/
def Datum.toG (d : Datum) : Datum := ⟨d.fmt, false, d.bits % (2 ^ 64 : Payload), none⟩

/-- What a V register keeps of a token (R157). -/
def Datum.toV (d : Datum) : Datum := ⟨d.fmt, true, if d.vec then d.bits else d.bits % (2 ^ 64 : Payload), none⟩

/-- An INT scalar of a 64-bit value. -/
def Datum.int (n : Nat) : Datum := ⟨.int, false, BitVec.ofNat 512 (n % 2 ^ 64), none⟩

/-- The payload's low 64 bits. -/
def Datum.lo (d : Datum) : Nat := d.bits.toNat % 2 ^ 64

/-- Reading a register: BA, TAG, ITER and LNK read as INT (R157). -/
def Strand.read (t : Strand) : RegName → Datum
  | .g n => t.g.getD n.toNat .zero
  | .v n => t.v.getD n.toNat { Datum.zero with vec := true }
  | .ba => .int t.ba.toNat
  | .tag => .int t.tag.toNat
  | .iter => .int t.iter.toNat
  | .lnk => .int t.lnk.toNat

/-- Writing a register with a token (R157, R290); LNK holds bits [63:4]; BA, TAG and ITER take none (R110). -/
def Strand.write (t : Strand) (r : RegName) (d : Datum) : Strand :=
  match r with
  | .g n => { t with g := t.g.set n.toNat d.toG }
  | .v n => { t with v := t.v.set n.toNat d.toV }
  | .lnk => { t with lnk := BitVec.ofNat 64 d.lo }
  | _ => t

/-! ### Words and ports -/

/-- The decoded word at a slot of a block in flight. -/
def Inst.word (i : Inst) (k : Nat) : Option SlotWord :=
  match i.words[k]? with
  | some w => match decode w with | .ok x => some x | .error _ => none
  | none => none

/-- The instruction of a block's window and the match key's set (R305). -/
def setOf (tag : Word) (k win slot : Nat) (p : Port) : Nat :=
  let t := tag.toNat
  let x := bits t 32 16 ^^^ bits t 16 16 ^^^ bits t 0 16
  let pn := match p with | .a => 1 | .b => 2 | .p => 3
  (bits x 0 4 ^^^ bits x 4 4 ^^^ bits x 8 4 ^^^ bits x 12 4 ^^^ (k % 8) ^^^ (win * 2 % 16) ^^^ slot ^^^ pn) % 16

/-! ### Completion entries (R319, R320) -/

/-- The 64-bit handle of an entry of a core's completion queue (R319). -/
def engHandle (chair core slot idx seq : Nat) : Nat :=
  chair * 2 ^ 58 + core * 2 ^ 48 + slot * 2 ^ 46 + idx * 2 ^ 32 + seq % 2 ^ 32

/-- The 64-bit handle of a launch-table entry (R319). -/
def launchHandle (chair idx seq : Nat) : Nat := chair * 2 ^ 58 + 2 ^ 56 + idx * 2 ^ 32 + seq % 2 ^ 32

/-- The next allocation number, skipping 0 on wrap (R319). -/
def nextSeq (n : Nat) : Nat := if (n + 1) % 2 ^ 32 = 0 then 1 else (n + 1) % 2 ^ 32

/-- The indices of a queue of `n` entries that no allocated entry holds. -/
def freeIdx (l : List CqEntry) (slot n : Nat) : List Nat :=
  (List.range n).filter fun i => !l.any fun e => decide (e.slot = slot) && decide (e.idx = i) && decide (e.st ≠ .free)

/-- Allocating entry `idx`: its SEQ steps, and it is pending (R319). -/
def allocEntry (l : List CqEntry) (slot idx : Nat) (quiet : Bool) : Nat × List CqEntry :=
  let old := l.find? fun e => decide (e.slot = slot) && decide (e.idx = idx)
  let seq := nextSeq (match old with | some e => e.seq | none => 0)
  (seq, ⟨slot, idx, seq, .pending, 0, quiet⟩ :: l.filter fun e => !(decide (e.slot = slot) && decide (e.idx = idx)))

/-- Changing the entry of an index. -/
def modEntry (l : List CqEntry) (slot idx seq : Nat) (f : CqEntry → CqEntry) : List CqEntry :=
  l.map fun e => if e.slot = slot ∧ e.idx = idx ∧ e.seq = seq then f e else e

/-- The completion word: COUNT and STATUS (R176). -/
def complWord (count status : Nat) : Word := BitVec.ofNat 64 (count * 256 + status % 256)

/-- An entry that completes with a word; a quiet one, whose targets are empty, is freed (R320). -/
def CqEntry.complete (e : CqEntry) (w : Word) : CqEntry :=
  if e.quiet then { e with st := .free, word := w } else { e with st := .done, word := w }

/-- What an entry shows of its completion: none while it is free, its word once it has completed. -/
def CqEntry.shown (e : CqEntry) : Option (Option Word) :=
  match e.st with
  | .free => none
  | .pending => some none
  | .done | .read => some (some e.word)

/-- The entry of an index and sequence number. -/
def findEntry (l : List CqEntry) (slot idx seq : Nat) : Option CqEntry :=
  l.find? fun e => decide (e.slot = slot) && decide (e.idx = idx) && decide (e.seq = seq)

/-- The entry that a handle names for a chair (R319). -/
def State.entry? (s : State) (chair h : Nat) : Option CqEntry :=
  if bits h 58 6 ≠ chair ∨ bits h 44 2 ≠ 0 then none
  else match bits h 56 2 with
  | 0 => (s.slot? (bits h 48 8) (bits h 46 2)).bind fun sl =>
      if sl.chair = chair ∧ bits h 32 12 < 256 then
        findEntry (s.core (bits h 48 8)).cq (bits h 46 2) (bits h 32 12) (bits h 0 32)
      else none
  | 1 => if bits h 46 10 = 0 then findEntry (s.chair chair).lt 0 (bits h 32 12) (bits h 0 32) else none
  | _ => none

/-- What a handle names for a chair (R319): a completion that has completed, with its word, or one that has not. -/
def State.handleState (s : State) (chair h : Nat) : Option (Option Word) := (s.entry? chair h).bind (·.shown)

/-- Changing the entry a handle names (R319). -/
def State.modHandle (s : State) (chair h : Nat) (f : CqEntry → CqEntry) : State :=
  let g (l : List CqEntry) (slot : Nat) := modEntry l slot (bits h 32 12) (bits h 0 32) f
  if bits h 56 2 = 0 then s.modCore (bits h 48 8) fun k => { k with cq := g k.cq (bits h 46 2) }
  else s.modChair chair fun c => { c with lt := g c.lt 0 }

/-- Whether a WAITC of the chair waits on a handle (R320). -/
def State.waitsOn (s : State) (chair h : Nat) : Bool :=
  s.cores.any fun c => c.slots.any fun o => match o with
    | some sl => decide (sl.chair = chair) && sl.insts.any fun i => i.waits.any fun w =>
        match w.what with | .waitc h' _ => decide (h' = h) | _ => false
    | none => false

/-- An entry whose word has been emitted is freed once no WAITC waits for it (R320). -/
def State.settleHandle (s : State) (chair h : Nat) : State :=
  if s.waitsOn chair h then s
  else s.modHandle chair h fun e => if e.st = .read then { e with st := .free } else e

/-- The word of a completed entry has been emitted, or a WAIT entry has gone past it (R320). -/
def State.readHandle (s : State) (chair h : Nat) : State :=
  (s.modHandle chair h fun e => if e.st = .done then { e with st := .read } else e).settleHandle chair h

/-- Completing an entry of a core's completion queue. -/
def State.completeCq (s : State) (core slot idx seq : Nat) (w : Word) : State :=
  s.modCore core fun k => { k with cq := modEntry k.cq slot idx seq fun e => if e.st = .pending then e.complete w else e }

end Sys2Proof.Machine
end

