-- ==== Sys2Proof/Machine/Operands.lean ====
section
/-! DEFINITION. Every operand form: the conversions at operand fetch (R91, R222, R223, R152), and the tokens that
results are made of (R79, R80). -/

namespace Sys2Proof.Machine

/-- A tile token read by any instruction that does not read its contents is an INT handle (R215). -/
def Datum.tag (d : Datum) : Fmt := if d.tile.isSome then .int else d.fmt

/-- Lane `i` of width `w` of a payload (R80). -/
def Datum.lane (d : Datum) (w i : Nat) : Nat := Sys2Proof.bits d.bits.toNat (w * i) w

/-- The element a scalar port reads: the scalar, or lane 0 of a vector (R91, R152); an INT vector gives its low
64 bits (log entry 11). -/
def Datum.elem (d : Datum) : Nat := d.lane d.tag.lane 0

/-- An INT operand of width `w`, as its low `w` bits (R81, R91). -/
def Datum.uintOf (d : Datum) (w : Nat) : Nat :=
  if d.tag = .int then d.lo % 2 ^ w
  else wrapN ((d.tag.decode d.elem).toInt .rz (-(2 ^ (w - 1) : Nat)) ((2 ^ (w - 1) : Nat) - 1)) w

/-- An INT operand of width `w`, signed (R81). -/
def Datum.sintOf (d : Datum) (w : Nat) : Int := sint (d.uintOf w) w

/-- A 64-bit operand: an address, a count, a handle (R186). -/
def Datum.u64 (d : Datum) : Nat := d.uintOf 64

/-- A scalar floating-point operand (R91). -/
def Datum.evOf (d : Datum) : EV :=
  if d.tag = .int then (EV.ofInt (sint d.lo 64)).rne32 else d.tag.decode d.elem

/-- Lane `i` of a floating-point vector operand (R91, R222). -/
def Datum.evLane (d : Datum) (i : Nat) : EV :=
  if d.vec then
    (if d.tag = .int then (EV.ofInt (sint (d.lane 32 i) 32)).rne32 else d.tag.decode (d.lane d.tag.lane i))
  else d.evOf

/-- Lane `i` of width `w` of an operand read as bits; a scalar is replicated (R223). -/
def Datum.bitLane (d : Datum) (w i : Nat) : Nat := if d.vec then d.lane w i else d.lo % 2 ^ w

/-- The payload of lanes of width `w`, lane 0 lowest (R80). -/
def packLanes (w : Nat) : List Nat → Nat
  | [] => 0
  | x :: r => x % 2 ^ w + 2 ^ w * packLanes w r

/-- A vector token. -/
def Datum.vector (f : Fmt) (w : Nat) (l : List Nat) : Datum := ⟨f, true, BitVec.ofNat 512 (packLanes w l), none⟩

/-- A scalar token of a format (R79). -/
def Datum.scalar (f : Fmt) (c : Nat) : Datum := ⟨f, false, BitVec.ofNat 512 c, none⟩

/-- A floating-point vector result: 16 values rounded once into W's layout (R222). -/
def Datum.fpVector (f : Fmt) (rm : Rm) (v : Nat → EV) : Datum :=
  .vector f f.lane ((List.range 16).map fun i => (v i).round f rm)

/-- An integer result of width `w`: sext(wrap(v, w), w) (R81). -/
def Datum.intResult (v : Int) (w : Nat) : Datum := .int (sextN (wrapN v w) w)

/-- Bits [7:6] of every byte that holds a KT6 code: each lane of a vector, the element of a scalar (R79, R80). -/
def kt6Spare (vec : Bool) : Payload := BitVec.ofNat 512 (packLanes 8 (List.replicate (if vec then 64 else 1) 0xC0))

/-- The 64-byte payload of a store's data port: bits as they stand (R190), but that bits [7:6] of a KT6 code are written as
zero (R80, log entry 87). -/
def Datum.storeBits (d : Datum) : Payload :=
  let x := if d.tag = .kt6 then d.bits &&& ~~~kt6Spare d.vec else d.bits
  if d.vec then x else x % (2 ^ 64 : Payload)

end Sys2Proof.Machine
end

