-- ==== Sys2Proof/Machine/Flags.lean ====
section
/-! DEFINITION. Truth, relations and classes: predicates (R37), compares (R178, R227), floating-point classes (R179).
The VA-3 holds no condition flags; these values travel as tokens. -/

namespace Sys2Proof.Machine

/-- P is true when the low bit of its payload is 1 (R37). -/
def Datum.truth (d : Datum) : Bool := d.bits.getLsbD 0

/-- Whether a predicate lets its instruction execute; a null P does not (R37, R99). -/
def predHolds (pr : Pred) (p : Option Tok) : Bool :=
  match pr, p with
  | .always, _ => true
  | .onTrue, some (some d) => d.truth
  | .onFalse, some (some d) => !d.truth
  | _, _ => false

/-- A relation of R227 on exact values; a NaN makes all but ≠ and unordered false. -/
def relHolds (r : Rel) (a b : EV) : Bool :=
  match r, a.cmp b with
  | .eq, some o => o == .eq
  | .ne, some o => o != .eq
  | .lt, some o => o == .lt
  | .le, some o => o != .gt
  | .gt, some o => o == .gt
  | .ge, some o => o != .lt
  | .unord, some _ => false
  | .ord, some _ => true
  | .ne, none => true
  | .unord, none => true
  | _, none => false

/-- The class bit of an element of a format (R179). -/
def classOf (f : Fmt) (c : Nat) : Nat :=
  match f.ieee with
  | some i =>
    let neg := bit c i.signBit
    let e := bits c i.fb i.eb
    let m := bits c 0 i.fb
    if e = 2 ^ i.eb - 1 then
      (if m = 0 then (if neg then 0 else 7) else if bit m (i.fb - 1) then 9 else 8)
    else if e = 0 then
      (if m = 0 then (if neg then 3 else 4) else if neg then 2 else 5)
    else if neg then 1 else 6
  | none =>
    let n := f.ktBits
    if bits c 0 n = 0 then (if bit c n then 9 else 4) else if bit c n then 1 else 6

/-- truth(x) of the stage forms: neither ±0 nor NaN (R255). -/
def evTruth : EV → Bool
  | .nan => false
  | .inf _ => true
  | .rat _ n _ => decide (n ≠ 0)

/-- The sign of an element changed, every other bit kept: NEG and ABS forms (R83, R181, R226); KT zero and NaR stay as they
are. -/
def signOp (f : Fmt) (abs : Bool) (c : Nat) : Nat :=
  match f.ieee with
  | some i =>
    let m := c % 2 ^ i.signBit
    if abs || bit c i.signBit then m else m + 2 ^ i.signBit
  | none =>
    let n := f.ktBits
    if c % 2 ^ n = 0 then c else if bit c n then c - 2 ^ n else if abs then c else c + 2 ^ n

end Sys2Proof.Machine
end

