-- ==== Sys2Proof/Machine/Fire.lean ====
section
/-! DEFINITION. Firing: the complete match at the site is consumed, predicates and nulls act once for every
instruction (R36, R37), and results go to targets (R7, R100). -/

namespace Sys2Proof.Machine

/-- What a firing instruction sees: the state with its match consumed, and its block. -/
structure Ctx where
  s : State
  core : Nat
  slot : Nat
  age : Nat
  k : Nat
  sl : Slot
  inst : Inst
  strand : Strand
  m : Match
  deriving Repr

/-- The complete match at the site, consumed: the slot has fired (R36). -/
def State.fireCtx (s : State) : Option Ctx :=
  let x := s.site
  match s.slot? x.core x.slot with
  | none => none
  | some sl =>
    match sl.inst? x.age with
    | none => none
    | some i =>
      match sl.strand? i.uid, (s.core x.core).ready.find? (fun m =>
          decide (m.slot = x.slot) && decide (m.age = x.age) && decide (m.k = x.k)) with
      | some t, some m =>
        let s := s.modCore x.core fun c => { c with ready := c.ready.erase m }
        let s := s.modInst x.core x.slot x.age fun i => { i with fired := x.k :: i.fired }
        some ⟨s.perfEvent x.core sl.chair 0x04 1, x.core, x.slot, x.age, x.k, sl, i, t, m⟩
      | _, _ => none

/-- Delivering a token to a write slot: when it holds one already, either stays, freely (R38). -/
def State.toWslot (s : State) (core slot age n : Nat) (tok : Tok) : State :=
  match (s.slot? core slot).bind (·.inst? age) with
  | none => s
  | some i =>
    if i.ws.any (·.1 = n) then
      let (x, s) := s.draw 2
      if x = 0 then s
      else s.modInst core slot age fun i => { i with ws := i.ws.map fun w => if w.1 = n then (n, tok) else w }
    else s.modInst core slot age fun i => { i with ws := i.ws ++ [(n, tok)] }

/-- Sending a token to one target (R7 emit, R100). -/
def State.emit1 (s : State) (core slot age : Nat) (t : Target) (tok : Tok) : State :=
  match t with
  | .none => s
  | .port p n => s.modCore core fun c => { c with net := c.net ++ [⟨slot, age, n.toNat, p, tok, false⟩] }
  | .wslot n => s.toWslot core slot age n.toNat tok

/-- Sending a token to every target. -/
def State.emit (s : State) (core slot age : Nat) (ts : List Target) (tok : Tok) : State :=
  ts.foldl (fun s t => s.emit1 core slot age t tok) s

/-- The firing emits a token to its targets. -/
def Ctx.out (c : Ctx) (ts : List Target) (tok : Tok) : Out := .next (c.s.emit c.core c.slot c.age ts tok)

/-- The firing records a fault against its block (R155). -/
def Ctx.fault (c : Ctx) (f : FaultRec) : Out := .next (c.s.record c.core c.slot c.age f)

/-- The firing records a fault that has no access. -/
def Ctx.raise (c : Ctx) (code : Nat) : Out := c.fault (.plain code)

/-- The firing changes its block in flight. -/
def Ctx.mod (c : Ctx) (f : Inst → Inst) : Ctx := { c with s := c.s.modInst c.core c.slot c.age f }

/-- The firing's window word is poisoned: it is consumed (R316, R349). -/
def Ctx.badWord (c : Ctx) : Out :=
  .next ((c.s.modErr c.core 2 (·.consume 1)).record c.core c.slot c.age (.atSlot FC.uncorrectable c.k))

/-- Whether the firing's block is the oldest uncommitted block of its strand (R35). -/
def Ctx.oldest (c : Ctx) : Bool := c.sl.isOldest c.inst

/-- Whether a match holds a token that bears a reserved tag (R79). -/
def Match.reserved (m : Match) : Bool :=
  [m.a, m.b, m.p].any fun t => match t with | some (some d) => d.fmt.isReserved | _ => false

/-- The firing's predicate: unless it holds, all tokens are consumed and nothing is emitted (R37). -/
def fireAny (s : State) (pr : Pred) (body : Ctx → Out) : Out :=
  needSome s.fireCtx fun c =>
    if c.inst.bad.contains c.k then c.badWord else if predHolds pr c.m.p then body c else .next c.s

/-- A firing: a reserved tag on any port it consumes is FORMAT_RESERVED, then the predicate (R37, R79, log entry 75). -/
def fire (s : State) (pr : Pred) (body : Ctx → Out) : Out :=
  needSome s.fireCtx fun c =>
    if c.inst.bad.contains c.k then c.badWord
    else if c.m.reserved then c.raise FC.formatReserved else if predHolds pr c.m.p then body c else .next c.s

/-- A port read as data: a null makes the instruction answer `onNull` (R37). -/
def port (tok : Option Tok) (onNull : Out) (body : Datum → Out) : Out :=
  match tok with
  | some (some d) => body d
  | _ => onNull

/-- A format field of code 110 or 111 raises FORMAT_RESERVED at firing, and nothing is emitted, whatever the operands
(R79, R121, log entry 75). -/
def withFmt (c : Ctx) (fs : List Fmt) (k : Out) : Out := if fs.any (·.isReserved) then c.raise FC.formatReserved else k

/-- An instruction that reads no port. -/
def station0 (s : State) (pr : Pred) (body : Ctx → Out) : Out := fire s pr body

/-- An instruction that reads A and emits nulls for a null; `fs` are its format fields. -/
def station1 (s : State) (pr : Pred) (fs : List Fmt) (ts : List Target) (body : Ctx → Datum → Out) : Out :=
  fire s pr fun c => withFmt c fs <| port c.m.a (c.out ts none) fun a => body c a

/-- An instruction that reads A and B and emits nulls for a null; `fs` are its format fields. -/
def station2 (s : State) (pr : Pred) (fs : List Fmt) (ts : List Target) (body : Ctx → Datum → Datum → Out) : Out :=
  fire s pr fun c => withFmt c fs <| port c.m.a (c.out ts none) fun a => port c.m.b (c.out ts none) fun b => body c a b

/-- An instruction that reads A, B and P as data (R102); `fs` are its format fields. -/
def station3 (s : State) (fs : List Fmt) (ts : List Target) (body : Ctx → Datum → Datum → Datum → Out) : Out :=
  fire s .always fun c => withFmt c fs <| port c.m.a (c.out ts none) fun a => port c.m.b (c.out ts none) fun b =>
    port c.m.p (c.out ts none) fun p => body c a b p

/-- A number not in `used`, counting up from `x` (R168, R215). -/
def freshFrom (used : List Nat) (x : Nat) : Nat :=
  match (List.range (used.length + 1)).find? fun i => !used.contains (x + i) with
  | some i => x + i
  | none => x

end Sys2Proof.Machine
end

