-- ==== Sys2Proof/Machine/Scalar.lean ====
section
/-! DEFINITION. Control, strands, compares, integers, scalar floating point: one meaning for each instruction of
07_instr_scalar_flow.md, over the shared firings of Fire. -/

namespace Sys2Proof.Machine

/-! ### Shared operations -/

/-- Adding an exit that has fired; a second one raises MULTI_EXIT (R47). -/
def Ctx.exit (c : Ctx) (e : ExitRec) : Out :=
  let d := c.mod fun i => { i with exits := i.exits ++ [e] }
  if c.inst.exits.isEmpty then .next d.s else d.raise FC.multiExit

/-- The block address of an OFFS31 (R109). -/
def Inst.offsAddr (i : Inst) (o : BitVec 31) : Nat := wrapN ((i.ba : Int) + sint o.toNat 31 * 16) 64

/-- The same for the firing's block. -/
def Ctx.offs (c : Ctx) (o : BitVec 31) : Nat := c.inst.offsAddr o

/-- The address after a block of `n` words: the first 16-byte boundary (R162). -/
def afterBlock (ba n : Nat) : Nat := (ba + 16 + 16 * ((n + 1) / 2)) % 2 ^ 64

/-- The block address CALL leaves in LNK (R162). -/
def Inst.linkAddr (i : Inst) : Nat := afterBlock i.ba i.words.length

/-- TAGQ: FORKS, LIVE and FREE sampled together (R295). -/
def Slot.tagq (sl : Slot) : Nat :=
  sl.forks.length * 2 ^ 32 + sl.strands.length * 2 ^ 16 + (256 - (sl.pool.filter (·.1)).length)

/-- The value of a CSR, the strand-level ones those of the strand that reads (R292, R298). -/
def csrValue (sl : Slot) (t : Strand) : Csr → Nat
  | .ctxpri => sl.ctxpri.toNat
  | .cabq => sl.cabq.toNat
  | .chest => sl.chest.toNat
  | .lmpart => sl.lmpart.toNat
  | .chain => sl.chain.toNat
  | .tagq => sl.tagq
  | .trapv => sl.trapv.toNat
  | .traps => t.traps.toNat
  | .trapba => t.trapba.toNat
  | .flt => t.flt.toNat
  | .tap n => (sl.taps.getD n.toNat 0).toNat

/-- Whether an older uncommitted block fixes a register only at commit, or has not yet fixed it (R158). -/
def Inst.blocksRead (o : Inst) (r : RegName) : Bool :=
  (List.range o.words.length).any fun k =>
    match o.word k with
    | some (.write r' ws) => decide (r' = r) &&
        (!(o.ws.any (·.1 = ws.toNat)) || (List.range o.words.length).any fun j =>
          match o.word j with
          | some (.instr (.amo f)) => f.t0 = .wslot ws || f.t1 = .wslot ws
          | some (.instr (.amol f)) => f.t0 = .wslot ws || f.t1 = .wslot ws
          | _ => false)
    | some (.instr (.call _)) => r = .lnk
    | _ => false

/-- The strand's registers after the write slots that an older block has filled (R158). -/
def applyWs (t : Strand) (o : Inst) : Strand :=
  o.ws.foldl (fun t w =>
    match w.2, (List.range o.words.length).findSome? (fun k =>
        match o.word k with | some (.write r ws) => if ws.toNat = w.1 then some r else none | _ => none) with
    | some d, some r => t.write r d
    | _, _ => t) t

/-- An integer operation of width W on signed and unsigned views (R180). -/
def intOp2 (f : FA) (s : State) (v : (w : Nat) → (sa sb : Int) → (ua ub : Nat) → Int) : Out :=
  station2 s f.pr [] [f.t0, f.t1] fun c a b =>
    let w := f.w.bits
    c.out [f.t0, f.t1] (some (.intResult (v w (a.sintOf w) (b.sintOf w) (a.uintOf w) (b.uintOf w)) w))

/-- An integer operation on A alone (R180). -/
def intOp1 (f : FA) (s : State) (v : (w : Nat) → Int → Nat → Int) : Out :=
  station1 s f.pr [] [f.t0, f.t1] fun c a =>
    let w := f.w.bits
    c.out [f.t0, f.t1] (some (.intResult (v w (a.sintOf w) (a.uintOf w)) w))

/-- An integer operation on A and the immediate (R180). -/
def intOpI (f : FI) (s : State) (v : (w : Nat) → (sa i : Int) → (ua : Nat) → Int) : Out :=
  station1 s f.pr [] [f.t0, f.t1] fun c a =>
    let w := f.w.bits
    c.out [f.t0, f.t1] (some (.intResult (v w (a.sintOf w) (sint f.imm.toNat 31) (a.uintOf w)) w))

/-- A compare of A and B (R178). -/
def cmp2 (f : FA) (s : State) (p : (w : Nat) → (sa sb : Int) → (ua ub : Nat) → Bool) : Out :=
  station2 s f.pr [] [f.t0, f.t1] fun c a b =>
    let w := f.w.bits
    c.out [f.t0, f.t1] (some (.int (bnat (p w (a.sintOf w) (b.sintOf w) (a.uintOf w) (b.uintOf w)))))

/-- A compare of A with the immediate (R178). -/
def cmpI (f : FI) (s : State) (p : (w : Nat) → (sa i : Int) → (ua ui : Nat) → Bool) : Out :=
  station1 s f.pr [] [f.t0, f.t1] fun c a =>
    let w := f.w.bits
    let i := sint f.imm.toNat 31
    c.out [f.t0, f.t1] (some (.int (bnat (p w (a.sintOf w) i (a.uintOf w) (wrapN i w)))))

/-- A bitwise operation on the patterns of two integers at width `w`. -/
def bitOp (op : Nat → Nat → Nat) (w : Nat) (a b : Int) : Int := op (wrapN a w) (wrapN b w)

/-- A rotated left by `n` within `w` bits (R180). -/
def rotl (w a n : Nat) : Nat := (a * 2 ^ n + a / 2 ^ (w - n)) % 2 ^ w

/-- Leading zeros of `a` in `w` bits (R180). -/
def clz (w a : Nat) : Nat := if a = 0 then w else w - 1 - Nat.log2 a

/-- Trailing zeros of `a` in `w` bits (R180). -/
def ctz (w a : Nat) : Nat := ((List.range w).find? fun i => bit a i).getD w

/-- Set bits of `a` in `w` bits (R180). -/
def popc (w a : Nat) : Nat := ((List.range w).filter fun i => bit a i).length

/-- Division truncated toward zero with the corner cases of R180. -/
def divS (sa sb : Int) : Int := if sb = 0 then -1 else Int.tdiv sa sb

/-- Unsigned division (R180). -/
def divU (w ua ub : Nat) : Nat := if ub = 0 then 2 ^ w - 1 else ua / ub

/-- ABS and NEG: the sign bit of a floating-point tag, or an integer (R180, R181). -/
def absNeg (f : FA) (s : State) (abs : Bool) : Out :=
  station1 s f.pr [] [f.t0, f.t1] fun c a =>
    let w := f.w.bits
    if a.tag = .int then
      c.out [f.t0, f.t1] (some (.intResult (if abs then (a.sintOf w).natAbs else -(a.sintOf w)) w))
    else c.out [f.t0, f.t1] (some (.scalar a.tag (signOp a.tag abs a.elem)))

/-- A scalar floating-point operation: one rounding, RNE (R183). -/
def fpOp2 (f : FF) (s : State) (op : EV → EV → EV) : Out :=
  station2 s f.pr [f.fmt] [f.t0, f.t1] fun c a b =>
    c.out [f.t0, f.t1] (some (.scalar f.fmt ((op a.evOf b.evOf).round f.fmt .rne)))

/-- Handles that the slot's live records, and its uncommitted forks, hold (R168). -/
def Slot.forkHandles (sl : Slot) : List Nat :=
  sl.forks.map (·.handle) ++ (sl.insts.flatMap fun i => i.kacts.filterMap fun a =>
    match a.2 with | .fork _ _ _ h => some h | _ => none)

/-- The firing of FORK and SPAWN: a fresh handle, and the fork at commit (R168). -/
def Ctx.fork (c : Ctx) (f : FFork) (n bound : Nat) : Out :=
  let (x, s) := c.s.draw (2 ^ 32)
  let h := freshFrom c.sl.forkHandles x
  let c := { c with s := s }
  (c.mod fun i => { i with kacts := i.kacts ++ [(c.k, .fork n bound (c.offs f.offs) h)] }).out [f.t0, f.t1]
    (some (.int h))

/-- The value an integer or floating REDT takes from a token (R174, R91, R81). -/
def RedtVal (op : RedOp) (d : Datum) : Datum :=
  match op with
  | .int _ w => .intResult (d.sintOf w.bits) w.bits
  | _ => .scalar .fp32 (d.evOf.round .fp32 .rne)

/-- A wait added to the block (R50). -/
def Ctx.wait (c : Ctx) (lsid : Nat) (w : Wait) : Out :=
  .next (c.mod fun i => { i with waits := i.waits ++ [⟨c.k, lsid, w⟩] }).s

/-- A WAITC whose wait is over emits a completion word, and its entry goes unless another WAITC waits for it; the trapping
form raises the fault of a command that failed and emits nothing (R176, R320). -/
def State.waitcEmit (s : State) (core slot age chair h : Nat) (report : Bool) (ts : List Target) (w : Word) : State :=
  if w.toNat % 256 ≠ 0 ∧ !report then (s.settleHandle chair h).record core slot age (.plain (w.toNat % 256))
  else (s.readHandle chair h).emit core slot age ts (some (.int w.toNat))

/-- A WAITC whose handle names no completion (R176). -/
def State.waitcNone (s : State) (core slot age : Nat) (report : Bool) (ts : List Target) : State :=
  if report then s.emit core slot age ts (some (.int FC.reservedField))
  else s.record core slot age (.plain FC.reservedField)

/-! ### Moving values, registers, exits -/

/-- READ: the register as it stands once every older block has committed (R158). -/
def execRead (f : FRead) (s : State) : Out :=
  fire s f.pr fun c =>
    let older := c.sl.olderOf c.inst
    need (!older.any fun o => o.blocksRead f.reg) <|
      let v := match f.reg with
        | .ba => Datum.int c.inst.ba
        | r => (older.foldl applyWs c.strand).read r
      c.out [f.t0, f.t1] (some v)

/-- MOV (R160). -/
def execMov (f : FP) (s : State) : Out := station1 s f.pr [] [f.t0, f.t1] fun c a => c.out [f.t0, f.t1] (some a)

/-- MOV4 (R160). -/
def execMov4 (f : FMov4) (s : State) : Out :=
  station1 s f.pr [] [f.t0, f.t1, f.t2, f.t3] fun c a => c.out [f.t0, f.t1, f.t2, f.t3] (some a)

/-- LIMM (R160). -/
def execLimm (f : FLimm) (s : State) : Out :=
  station0 s f.pr fun c => c.out [f.t0] (some (.int (sextN f.imm.toNat 44)))

/-- ORHI (R160). -/
def execOrhi (f : FOrhi) (s : State) : Out :=
  station1 s f.pr [] [f.t0, f.t1] fun c a =>
    c.out [f.t0, f.t1] (some (.int (a.u64 % 2 ^ 44 + f.imm.toNat * 2 ^ 44)))

/-- NULL (R160). -/
def execNull (f : FP) (s : State) : Out := station0 s f.pr fun c => c.out [f.t0, f.t1] none

/-- SEL: the chosen port's token, nulls by R161. -/
def execSel (f : FSel) (s : State) : Out :=
  fire s .always fun c => port c.m.p (c.out [f.t0, f.t1] none) fun p =>
    let chosen := if p.truth then c.m.a else c.m.b
    port chosen (c.out [f.t0, f.t1] none) fun d => c.out [f.t0, f.t1] (some d)

/-- BR (R162). -/
def execBr (f : FBr) (s : State) : Out := station0 s f.pr fun c => c.exit (.to (c.offs f.offs))

/-- BRI: ALIGNMENT at firing (R163). -/
def execBri (f : FExit) (s : State) : Out :=
  fire s f.pr fun c => port c.m.a (.next c.s) fun a =>
    if a.u64 % 16 ≠ 0 then c.raise FC.alignment else c.exit (.to a.u64)

/-- CALL (R162). -/
def execCall (f : FBr) (s : State) : Out := station0 s f.pr fun c => c.exit (.call (c.offs f.offs))

/-- RET (R162). -/
def execRet (f : FExit) (s : State) : Out := station0 s f.pr fun c => c.exit .ret

/-- RETT: PRIVILEGE where no trap is in progress (R164). -/
def execRett (f : FExit) (s : State) : Out :=
  station0 s f.pr fun c => if c.strand.traps.getLsbD 10 then c.exit .rett else c.raise FC.privilege

/-- END (R169). -/
def execEnd (f : FExit) (s : State) : Out := station0 s f.pr fun c => c.exit .endE

/-- TRAP: SOFTWARE_TRAP with IMM24 in the trap record (R165). -/
def execTrap (f : FTrap) (s : State) : Out :=
  station0 s f.pr fun c => c.fault { FaultRec.plain FC.softwareTrap with val := f.val.toNat }

/-- BRK (R165). -/
def execBrk (f : FPr) (s : State) : Out := station0 s f.pr fun c => c.raise FC.breakpoint

/-- CSRR: the CSR once every older block has committed (R166). -/
def execCsrr (f : FCsr) (s : State) : Out :=
  station0 s f.pr fun c => need c.oldest <| c.out [f.t0, f.t1] (some (.int (csrValue c.sl c.strand f.csr)))

/-- CSRW: A's token unchanged; the write at commit (R166). -/
def execCsrw (f : FCsr) (s : State) : Out :=
  station1 s f.pr [] [f.t0, f.t1] fun c a =>
    (c.mod fun i => { i with kacts := i.kacts ++ [(c.k, .csr f.csr (BitVec.ofNat 64 a.u64))] }).out [f.t0, f.t1] (some a)

/-- CSRX: the CSR's value; the write at commit (R166). -/
def execCsrx (f : FCsr) (s : State) : Out :=
  station1 s f.pr [] [f.t0, f.t1] fun c a => need c.oldest <|
    (c.mod fun i => { i with kacts := i.kacts ++ [(c.k, .csr f.csr (BitVec.ofNat 64 a.u64))] }).out [f.t0, f.t1]
      (some (.int (csrValue c.sl c.strand f.csr)))

/-! ### Strands -/

/-- FORK: n and K as R168 bounds them. -/
def execFork (f : FFork) (s : State) : Out :=
  station2 s f.pr [] [f.t0, f.t1] fun c a b =>
    c.fork f (min a.u64 0xFFFFFFFF) (if b.u64 = 0 ∨ 32 < b.u64 then 32 else b.u64)

/-- SPAWN: a FORK with n = 1 and K = 1 (R168). -/
def execSpawn (f : FFork) (s : State) : Out := station0 s f.pr fun c => c.fork f 1 1

/-- JOIN (R172). -/
def execJoin (f : FP) (s : State) : Out := station1 s f.pr [] [f.t0, f.t1] fun c a => c.wait 0 (.join a.u64)

/-- REDT: a contribution at commit, or a collect that waits (R173 to R175). -/
def execRedt (f : FRedt) (s : State) : Out :=
  station1 s f.pr [] [f.t0, f.t1] fun c a =>
    if f.collect then c.wait 0 (.collect f.op a.u64)
    else
      let v := RedtVal f.op a
      (c.mod fun i => { i with kacts := i.kacts ++ [(c.k, .contribute v)] }).out [f.t0, f.t1] (some v)

/-- WAITC: the handle is examined at firing (R176, R320). -/
def execWaitc (f : FWaitc) (s : State) : Out :=
  station1 s f.pr [] [f.t0, f.t1] fun c a =>
    match c.s.handleState c.sl.chair a.u64 with
    | none => .next (c.s.waitcNone c.core c.slot c.age f.report [f.t0, f.t1])
    | some (some w) => .next (c.s.waitcEmit c.core c.slot c.age c.sl.chair a.u64 f.report [f.t0, f.t1] w)
    | some none => c.wait 0 (.waitc a.u64 f.report)

/-! ### Compares -/

/-- TEQ: a = b (R178). -/
def execTeq (f : FA) (s : State) : Out := cmp2 f s fun _ _ _ ua ub => ua == ub

/-- TNE: a ≠ b (R178). -/
def execTne (f : FA) (s : State) : Out := cmp2 f s fun _ _ _ ua ub => ua != ub

/-- TLT: a < b, signed (R178). -/
def execTlt (f : FA) (s : State) : Out := cmp2 f s fun _ sa sb _ _ => decide (sa < sb)

/-- TLE: a ≤ b, signed (R178). -/
def execTle (f : FA) (s : State) : Out := cmp2 f s fun _ sa sb _ _ => decide (sa ≤ sb)

/-- TLTU: a < b, unsigned (R178). -/
def execTltu (f : FA) (s : State) : Out := cmp2 f s fun _ _ _ ua ub => decide (ua < ub)

/-- TLEU: a ≤ b, unsigned (R178). -/
def execTleu (f : FA) (s : State) : Out := cmp2 f s fun _ _ _ ua ub => decide (ua ≤ ub)

/-- TEQI: a = i (R178). -/
def execTeqi (f : FI) (s : State) : Out := cmpI f s fun _ _ _ ua ui => ua == ui

/-- TNEI: a ≠ i (R178). -/
def execTnei (f : FI) (s : State) : Out := cmpI f s fun _ _ _ ua ui => ua != ui

/-- TLTI: a < i, signed (R178). -/
def execTlti (f : FI) (s : State) : Out := cmpI f s fun _ sa i _ _ => decide (sa < i)

/-- TLEI: a ≤ i, signed (R178). -/
def execTlei (f : FI) (s : State) : Out := cmpI f s fun _ sa i _ _ => decide (sa ≤ i)

/-- TGTI: a > i, signed (R178). -/
def execTgti (f : FI) (s : State) : Out := cmpI f s fun _ sa i _ _ => decide (sa > i)

/-- TGEI: a ≥ i, signed (R178). -/
def execTgei (f : FI) (s : State) : Out := cmpI f s fun _ sa i _ _ => decide (sa ≥ i)

/-- TLTUI: a < i, unsigned (R178). -/
def execTltui (f : FI) (s : State) : Out := cmpI f s fun _ _ _ ua ui => decide (ua < ui)

/-- TGTUI: a > i, unsigned (R178). -/
def execTgtui (f : FI) (s : State) : Out := cmpI f s fun _ _ _ ua ui => decide (ua > ui)

/-- FTEST: the class of A in format W against the mask (R179). -/
def execFtest (f : FFtest) (s : State) : Out :=
  station1 s f.pr [f.fmt] [f.t0, f.t1] fun c a =>
    let e := if a.tag = f.fmt then a.elem else a.evOf.round f.fmt .rne
    c.out [f.t0, f.t1] (some (.int (bnat (f.cls.getLsbD (classOf f.fmt e)))))

/-! ### Integer arithmetic -/

/-- ADD (R180). -/
def execAdd (f : FA) (s : State) : Out := intOp2 f s fun _ sa sb _ _ => sa + sb

/-- SUB (R180). -/
def execSub (f : FA) (s : State) : Out := intOp2 f s fun _ sa sb _ _ => sa - sb

/-- MUL (R180). -/
def execMul (f : FA) (s : State) : Out := intOp2 f s fun _ sa sb _ _ => sa * sb

/-- MULH (R180). -/
def execMulh (f : FA) (s : State) : Out := intOp2 f s fun w sa sb _ _ => sa * sb / (2 ^ w : Nat)

/-- MULHU (R180). -/
def execMulhu (f : FA) (s : State) : Out := intOp2 f s fun w _ _ ua ub => (ua * ub / 2 ^ w : Nat)

/-- DIV (R180). -/
def execDiv (f : FA) (s : State) : Out := intOp2 f s fun _ sa sb _ _ => divS sa sb

/-- DIVU (R180). -/
def execDivu (f : FA) (s : State) : Out := intOp2 f s fun w _ _ ua ub => divU w ua ub

/-- REM (R180). -/
def execRem (f : FA) (s : State) : Out := intOp2 f s fun _ sa sb _ _ => sa - sb * divS sa sb

/-- REMU (R180). -/
def execRemu (f : FA) (s : State) : Out := intOp2 f s fun w _ _ ua ub => ((ua : Int) - ub * divU w ua ub)

/-- AND (R180). -/
def execAnd (f : FA) (s : State) : Out := intOp2 f s fun w sa sb _ _ => bitOp (· &&& ·) w sa sb

/-- OR (R180). -/
def execOr (f : FA) (s : State) : Out := intOp2 f s fun w sa sb _ _ => bitOp (· ||| ·) w sa sb

/-- XOR (R180). -/
def execXor (f : FA) (s : State) : Out := intOp2 f s fun w sa sb _ _ => bitOp (· ^^^ ·) w sa sb

/-- ANDN (R180). -/
def execAndn (f : FA) (s : State) : Out := intOp2 f s fun w sa sb _ _ => bitOp (· &&& ·) w sa (-sb - 1)

/-- SHL (R180). -/
def execShl (f : FA) (s : State) : Out := intOp2 f s fun w _ _ ua ub => (ua * 2 ^ (ub % w) : Nat)

/-- SHR (R180). -/
def execShr (f : FA) (s : State) : Out := intOp2 f s fun w _ _ ua ub => (ua / 2 ^ (ub % w) : Nat)

/-- SRA (R180). -/
def execSra (f : FA) (s : State) : Out := intOp2 f s fun w sa _ _ ub => sa / (2 ^ (ub % w) : Nat)

/-- ROTL (R180). -/
def execRotl (f : FA) (s : State) : Out := intOp2 f s fun w _ _ ua ub => rotl w ua (ub % w)

/-- MIN (R180). -/
def execMin (f : FA) (s : State) : Out := intOp2 f s fun _ sa sb _ _ => min sa sb

/-- MAX (R180). -/
def execMax (f : FA) (s : State) : Out := intOp2 f s fun _ sa sb _ _ => max sa sb

/-- MINU (R180). -/
def execMinu (f : FA) (s : State) : Out := intOp2 f s fun _ _ _ ua ub => min (ua : Int) ub

/-- MAXU (R180). -/
def execMaxu (f : FA) (s : State) : Out := intOp2 f s fun _ _ _ ua ub => max (ua : Int) ub

/-- CLZ (R180). -/
def execClz (f : FA) (s : State) : Out := intOp1 f s fun w _ ua => clz w ua

/-- CTZ (R180). -/
def execCtz (f : FA) (s : State) : Out := intOp1 f s fun w _ ua => ctz w ua

/-- POPC (R180). -/
def execPopc (f : FA) (s : State) : Out := intOp1 f s fun w _ ua => popc w ua

/-- SEXT (R180). -/
def execSext (f : FA) (s : State) : Out := intOp1 f s fun _ sa _ => sa

/-- ABS (R180, R181). -/
def execAbs (f : FA) (s : State) : Out := absNeg f s true

/-- NEG (R180, R181). -/
def execNeg (f : FA) (s : State) : Out := absNeg f s false

/-- ZEXT: the result is zero-extended (R180). -/
def execZext (f : FA) (s : State) : Out :=
  station1 s f.pr [] [f.t0, f.t1] fun c a => c.out [f.t0, f.t1] (some (.int (a.uintOf f.w.bits)))

/-- ADDI (R180). -/
def execAddi (f : FI) (s : State) : Out := intOpI f s fun _ sa i _ => sa + i

/-- MULI (R180). -/
def execMuli (f : FI) (s : State) : Out := intOpI f s fun _ sa i _ => sa * i

/-- ANDI (R180). -/
def execAndi (f : FI) (s : State) : Out := intOpI f s fun w sa i _ => bitOp (· &&& ·) w sa i

/-- ORI (R180). -/
def execOri (f : FI) (s : State) : Out := intOpI f s fun w sa i _ => bitOp (· ||| ·) w sa i

/-- XORI (R180). -/
def execXori (f : FI) (s : State) : Out := intOpI f s fun w sa i _ => bitOp (· ^^^ ·) w sa i

/-- SHLI (R180). -/
def execShli (f : FI) (s : State) : Out := intOpI f s fun w _ i ua => (ua * 2 ^ (wrapN i w % w) : Nat)

/-- SHRI (R180). -/
def execShri (f : FI) (s : State) : Out := intOpI f s fun w _ i ua => (ua / 2 ^ (wrapN i w % w) : Nat)

/-- SRAI (R180). -/
def execSrai (f : FI) (s : State) : Out := intOpI f s fun w sa i _ => sa / (2 ^ (wrapN i w % w) : Nat)

/-- AGEN (R182). -/
def execAgen (f : FAgen) (s : State) : Out :=
  station2 s f.pr [] [f.t0, f.t1] fun c a b =>
    c.out [f.t0, f.t1] (some (.int (wrapN ((a.u64 : Int) + b.sintOf f.w.bits * (2 ^ f.sh.toNat : Nat)
      + sint f.offs.toNat 28) 64)))

/-! ### Scalar floating point and conversion -/

/-- CVTIF (R184). -/
def execCvtif (f : FCvtif) (s : State) : Out :=
  station1 s f.pr [f.fmt] [f.t0, f.t1] fun c a =>
    let v : Int := if f.uns then a.uintOf f.sw.bits else a.sintOf f.sw.bits
    c.out [f.t0, f.t1] (some (.scalar f.fmt ((EV.ofInt v).round f.fmt f.rm)))

/-- CVTFI (R185). -/
def execCvtfi (f : FCvtfi) (s : State) : Out :=
  station1 s f.pr [] [f.t0, f.t1] fun c a =>
    let w := f.w.bits
    if f.uns then c.out [f.t0, f.t1] (some (.int (a.evOf.toInt f.rm 0 ((2 ^ w : Nat) - 1)).toNat))
    else c.out [f.t0, f.t1]
      (some (.intResult (a.evOf.toInt f.rm (-(2 ^ (w - 1) : Nat)) ((2 ^ (w - 1) : Nat) - 1)) w))

/-- FADD (R183). -/
def execFadd (f : FF) (s : State) : Out := fpOp2 f s (EV.add .rne)

/-- FSUB (R183). -/
def execFsub (f : FF) (s : State) : Out := fpOp2 f s (fun a b => EV.add .rne a b.negate)

/-- FMUL (R183). -/
def execFmul (f : FF) (s : State) : Out := fpOp2 f s (EV.mul)

/-- FDIV (R183). -/
def execFdiv (f : FF) (s : State) : Out := fpOp2 f s (EV.div)

/-- FMIN (R183). -/
def execFmin (f : FF) (s : State) : Out := fpOp2 f s (EV.choose false)

/-- FMAX (R183). -/
def execFmax (f : FF) (s : State) : Out := fpOp2 f s (EV.choose true)

end Sys2Proof.Machine
end

