-- ==== Sys2Proof/Machine/Memory.lean ====
section
/-! DEFINITION. The firings of memory, chain, atomic, fence, gather, tile and engine instructions (08 and 10). What
they send is performed, applied, issued or completed by the operations of Access, Commit, Dresser and Engines. -/

namespace Sys2Proof.Machine

/-! ### Shared operations -/

/-- Marking an LSID as satisfied (R46). -/
def Ctx.sat (c : Ctx) (lsid : Nat) : Ctx := c.mod fun i => { i with sat := lsid :: i.sat }

/-- Whether an access of the block has acted under an LSID (R119). -/
def Inst.lsidTaken (i : Inst) (lsid : Nat) : Bool :=
  i.stores.any (·.lsid = lsid) || i.engs.any (fun e => e.lsid = lsid && !e.nul) || i.acted.contains lsid

/-- An access that is no store of the block acts under its LSID (R119). -/
def Ctx.act (c : Ctx) (lsid : Nat) : Ctx := c.mod fun i => { i with acted := lsid :: i.acted }

/-- Two accesses that share an LSID: exactly one acts, freely, the other as if it had received nulls (R119).
A later one takes the place of a store that waits; of anything else it acts as with nulls. -/
def Ctx.shareLsid (c : Ctx) (lsid : Nat) (asNull act : Ctx → Out) : Out :=
  if c.inst.lsidTaken lsid then
    let (x, s) := c.s.draw 2
    let c := { c with s := s }
    if x = 0 ∨ !c.inst.stores.any (·.lsid = lsid) then asNull c
    else act (c.mod fun i => { i with stores := i.stores.filter (·.lsid ≠ lsid) })
  else act c

/-- An access that finds a missing entry is held at its port with its match (R197). -/
def Ctx.hold (c : Ctx) (stage va lsid : Nat) (wr : Bool) : Out :=
  .next ((c.s.perfEvent c.core c.sl.chair 0x07 1).modCore c.core fun k =>
    { k with held := k.held ++ [⟨c.slot, c.age, c.k, none, va, wr, lsid, stage, .fire c.m⟩] })

/-- The check of a firing's global access (R407). -/
def Ctx.check (c : Ctx) (nd : Need) (va n : Nat) : Trans (Nat × Nat × TlbEntry) :=
  checkGlobal c.s c.core c.sl.chair c.sl.asid (!c.strand.priv) nd va n

/-- An access whose check fails as it fires: a missing entry holds it at its port, anything else is a fault of its block;
poison that the walk consumed is counted (R196, R197, R349). -/
def Ctx.fails (c : Ctx) (e : TransErr) (lsid va : Nat) (wr : Bool) : Out :=
  let c : Ctx := { c with s := c.s.noteTrans e }
  match e.stage with
  | some st => c.hold st va lsid wr
  | none => c.fault (.access e.code lsid va)

/-- Whether a global access to bytes of an unreachable package is raised at once (R385). -/
def Ctx.lost (c : Ctx) (key : Nat) (nd : Need) : Bool := decide (nd = .store) && c.s.lost key

/-- The checks of a global access as it fires, in the order of R407, and its translation. -/
def Ctx.global (c : Ctx) (nd : Need) (va n lsid : Nat) (body : Ctx → Nat × Nat → Out) : Out :=
  match c.check nd va n with
  | .error e => c.fails e lsid va (decide (nd = .store))
  | .ok (gpa, key, e) =>
    if c.lost key nd then c.fault (.access FC.uncorrectable lsid va)
    else body { c with s := c.s.fillTlb c.core e } (gpa, key)

/-- The checks of a local access: PROTECTION outside the partition, then ALIGNMENT; a partition offset is no virtual
address, so FLT is 0 (R188, R296, R407). -/
def Ctx.local (c : Ctx) (off n al lsid : Nat) (body : Ctx → Out) : Out :=
  if c.sl.partSize < off + n then c.fault (.access FC.protection lsid 0)
  else if off % al ≠ 0 then c.fault (.access FC.alignment lsid 0)
  else body c

/-- A load added to the core's ports (R191). -/
def Ctx.addLoad (c : Ctx) (l : PLoad) : Ctx :=
  let c := c.act l.lsid
  { c with s := c.s.modCore c.core fun k => { k with loads := k.loads ++ [l] } }

/-- A store added to the block (R192). -/
def Ctx.addStore (c : Ctx) (p : PStore) : Ctx :=
  c.mod fun i => { i with stores := i.stores ++ [p], sat := p.lsid :: i.sat }

/-- Where a checked access goes: its guest-physical address and its memory key. -/
def placeOf : Trans (Nat × Nat × TlbEntry) → Option (Nat × Nat)
  | .ok (gpa, key, _) => some (gpa, key)
  | .error _ => none

/-- The first of some addresses whose load of `n` bytes fails its check. -/
def Ctx.firstFail (c : Ctx) (n : Nat) (vas : List Nat) : Option (Nat × TransErr) :=
  vas.findSome? fun va => match c.check .load va n with
    | .error e => some (va, e)
    | .ok _ => none

/-- Several loads of `n` bytes that are checked as one access: the first that fails decides (R207, R215). -/
def Ctx.loadAll (c : Ctx) (n : Nat) (vas : List Nat) (lsid : Nat) (body : List LoadPart → Out) : Out :=
  match c.firstFail n vas with
  | some (va, e) => c.fails e lsid va false
  | none => body (vas.map fun va => ⟨va, n, placeOf (c.check .load va n), none, none⟩)

/-- A tile's load (R215). -/
def PLoad.isTile (l : PLoad) : Bool :=
  match l.form with
  | .tile _ _ _ => true
  | _ => false

/-- The acquire form of a load, or the release form of a store (R106). -/
def isSync : MemMode → Bool
  | .sync _ => true
  | _ => false

/-- The triple of a chain token (R107); an L of 0xFFFF_FFFF is the wildcard by itself. -/
def tripleOf (l : Link) (tok : Nat) : Triple :=
  let own := tok % 2 ^ 32
  let ll := tok / 2 ^ 32 % 2 ^ 32
  let dec := (own + 2 ^ 32 - 1) % 2 ^ 32
  let inc := (own + 1) % 2 ^ 32
  match l with
  | .both => ⟨own, dec, inc⟩
  | .predL => ⟨own, ll, inc⟩
  | .succL => ⟨own, dec, ll⟩
  | .wild => ⟨own, 0xFFFFFFFF, ll⟩

/-- Sending a chain access or reservation towards its Dresser (R200). -/
def Ctx.sendChain (c : Ctx) (lsid : Nat) (t : Triple) (store : Option PStore) (load : Bool) : Ctx :=
  { c with s := c.s.modCore c.core fun k =>
      { k with chainOut := k.chainOut ++ [⟨c.slot, c.age, c.k, lsid, t, store, load⟩] } }

/-- The displacement of a memory mode (R186). -/
def MemModeDisp : MemMode → Int
  | .plain d => sint d.toNat 21
  | .sync d => sint d.toNat 21
  | .chain _ d => sint d.toNat 19

/-- The effective address (R186). -/
def effAddr (a : Datum) (disp : Int) : Nat := wrapN ((a.u64 : Int) + disp) 64

/-- A global load: plain, acquire, or chain (R189, R107). -/
def loadOp (s : State) (pr : Pred) (ts : List Target) (lsid : Nat) (sc : Scope) (mode : MemMode) (n : Nat)
    (form : LoadForm) : Out :=
  fire s pr fun c =>
    let mk (c : Ctx) (va : Nat) (ph : Nat × Nat) (ch : Option Triple) : Ctx :=
      c.addLoad ⟨c.slot, c.age, c.k, lsid, false, [⟨va, n, some ph, none, none⟩], form,
        isSync mode, sc, ch, []⟩
    match mode with
    | .chain l _ =>
      port c.m.p (((c.sat lsid).out ts none)) fun p =>
        let t := tripleOf l p.u64
        let asNop (c : Ctx) : Out := ((c.sat lsid).sendChain lsid t none false).out ts none
        port c.m.a (asNop c) fun a => c.shareLsid lsid asNop fun c =>
          c.global .load (effAddr a (MemModeDisp mode)) n lsid fun c ph =>
            .next ((mk c (effAddr a (MemModeDisp mode)) ph (some t)).sendChain lsid t none true).s
    | _ =>
      port c.m.a (c.out ts none) fun a => c.shareLsid lsid (·.out ts none) fun c =>
        c.global .load (effAddr a (MemModeDisp mode)) n lsid fun c ph =>
          .next (mk c (effAddr a (MemModeDisp mode)) ph none).s

/-- A global store: plain, release, or chain (R189, R192, R107). -/
def storeOp (s : State) (pr : Pred) (lsid : Nat) (sc : Scope) (mode : MemMode) (n : Nat) : Out :=
  fire s pr fun c =>
    let mk (c : Ctx) (va : Nat) (b : Datum) (ph : Nat × Nat) : PStore :=
      ⟨c.k, lsid, false, va, n, b.storeBits, none, [], sc, isSync mode, false, some ph⟩
    match mode with
    | .chain l _ =>
      port c.m.p (.next (c.sat lsid).s) fun p =>
        let t := tripleOf l p.u64
        let asNop (c : Ctx) : Out := .next ((c.sat lsid).sendChain lsid t none false).s
        port c.m.a (asNop c) fun a => port c.m.b (asNop c) fun b => c.shareLsid lsid asNop fun c =>
          c.global .store (effAddr a (MemModeDisp mode)) n lsid fun c ph =>
            .next (((c.sat lsid).act lsid).sendChain lsid t (some (mk c (effAddr a (MemModeDisp mode)) b ph)) false).s
    | _ =>
      let asNull (c : Ctx) : Out := .next (c.sat lsid).s
      port c.m.a (asNull c) fun a => port c.m.b (asNull c) fun b => c.shareLsid lsid asNull fun c =>
        c.global .store (effAddr a (MemModeDisp mode)) n lsid fun c ph =>
          .next (c.addStore (mk c (effAddr a (MemModeDisp mode)) b ph)).s

/-- A local load (R188, R189). -/
def loadLocal (s : State) (pr : Pred) (ts : List Target) (lsid : Nat) (core : Bool) (disp : BitVec 21) (n : Nat)
    (form : LoadForm) : Out :=
  fire s pr fun c => port c.m.a (c.out ts none) fun a => c.shareLsid lsid (·.out ts none) fun c =>
    let off := effAddr a (sint disp.toNat 21)
    c.local off n n lsid fun c =>
      .next (c.addLoad ⟨c.slot, c.age, c.k, lsid, true, [⟨off, n, none, none, none⟩], form, false,
        if core then .core else .strand, none, []⟩).s

/-- A local store (R188, R189). -/
def storeLocalOp (s : State) (pr : Pred) (lsid : Nat) (core : Bool) (disp : BitVec 21) (n : Nat) : Out :=
  fire s pr fun c =>
    let asNull (c : Ctx) : Out := .next (c.sat lsid).s
    port c.m.a (asNull c) fun a => port c.m.b (asNull c) fun b => c.shareLsid lsid asNull fun c =>
      let off := effAddr a (sint disp.toNat 21)
      c.local off n n lsid fun c =>
        .next (c.addStore ⟨c.k, lsid, true, off, n, b.storeBits, none, [], if core then .core else .strand, false,
          false, none⟩).s

/-- Write slots among targets (R118). -/
def wslotsOf (ts : List Target) : List Nat := ts.filterMap fun | .wslot n => some n.toNat | _ => none

/-- An atomic: checked and translated at firing, applied at commit; its write slots are satisfied (R118, R204). -/
def amoOp (s : State) (pr : Pred) (ts : List Target) (lsid : Nat) (sc : Scope) (w : IW) (ord : AmoOrd) (op : AmoOp)
    (loc : Bool) : Out :=
  fire s pr fun c =>
    let asNull (c : Ctx) : Out := (c.sat lsid).out ts none
    let mk (va : Nat) (b : Datum) (ph : Option (Nat × Nat)) : PStore :=
      ⟨c.k, lsid, loc, va, w.bytes,
        if op = .cas && !b.vec then BitVec.ofNat 512 (packLanes w.bits [b.lo, b.lo]) else b.storeBits,
        some (op, w), wslotsOf ts, sc, ord = .rel || ord = .acqrel, ord = .acq || ord = .acqrel, ph⟩
    port c.m.a (asNull c) fun a => port c.m.b (asNull c) fun b => c.shareLsid lsid asNull fun c =>
      if loc then c.local (effAddr a 0) w.bytes w.bytes lsid fun c => (c.addStore (mk (effAddr a 0) b none)).out ts none
      else c.global .store (effAddr a 0) w.bytes lsid fun c ph => (c.addStore (mk (effAddr a 0) b (some ph))).out ts none

/-- The completion entries free on the firing slot (R320). -/
def Ctx.freeEntries (c : Ctx) : List Nat := freeIdx (c.s.core c.core).cq c.slot 256

/-- An engine instruction fires: it takes a free completion entry, freely, emits its handle, and its command waits
for commit; with a null port the handle completes at once (R220, R320). -/
def Ctx.engine (c : Ctx) (i : Instr) (ts : List Target) (lsid : Nat) (a b : Payload) (nul : Bool) : Out :=
  let (x, s) := c.s.draw c.freeEntries.length
  let idx := c.freeEntries.getD x 0
  let quiet := ts.all (· = .none)
  let (seq, cq) := allocEntry (s.core c.core).cq c.slot idx quiet
  let cq := if nul then modEntry cq c.slot idx seq (·.complete (complWord 0 0)) else cq
  let s := s.modCore c.core fun k => { k with cq := cq }
  let c := ({ c with s := s } : Ctx).sat lsid
  let c := c.mod fun j => { j with engs := j.engs ++ [⟨c.k, lsid, i, a, b, nul, idx, seq⟩] }
  c.out ts (some (.int (engHandle c.sl.chair c.core c.slot idx seq)))

/-- An engine instruction: it does not fire without a free entry; nulls, LSID sharing, then its checks at firing. What
its ports carry is kept as `keepA` and `keepB` say. -/
def engineWith (s : State) (i : Instr) (pr : Pred) (ts : List Target) (lsid : Nat) (readsA readsB : Bool)
    (keepA keepB : Datum → Payload) (check : Ctx → Datum → Datum → (Ctx → Out) → Out) : Out :=
  fire s pr fun c => need (!c.freeEntries.isEmpty) <|
    let asNull (c : Ctx) : Out := c.engine i ts lsid 0 0 true
    let onPort (reads : Bool) (t : Option Tok) (body : Datum → Out) : Out :=
      if reads then port t (asNull c) body else body .zero
    onPort readsA c.m.a fun a => onPort readsB c.m.b fun b => c.shareLsid lsid asNull fun c =>
      check c a b fun c => c.engine i ts lsid (keepA a) (keepB b) false

/-- A 64-bit operand as a command keeps it (R91, R152). -/
def Datum.keep64 (d : Datum) : Payload := BitVec.ofNat 512 d.u64

/-- An engine instruction whose ports carry 64-bit operands (R152, R248). -/
def engineOp (s : State) (i : Instr) (pr : Pred) (ts : List Target) (lsid : Nat) (readsA readsB : Bool)
    (check : Ctx → Datum → Datum → (Ctx → Out) → Out) : Out :=
  engineWith s i pr ts lsid readsA readsB (·.keep64) (·.keep64) check

/-- An engine instruction whose A port is a local descriptor of `n` bytes aligned to `al` (R211, R248). -/
def descOp (s : State) (i : Instr) (pr : Pred) (ts : List Target) (lsid : Nat) (readsB : Bool) (n al : Nat) : Out :=
  engineOp s i pr ts lsid true readsB fun c a _ k => c.local (effAddr a 0) n al lsid k

/-- Address `i` of eight: a lane of a vector's bits, or the converted scalar, broadcast (R91, R207, log entry 11). -/
def Datum.addrLane (d : Datum) (i : Nat) : Nat := if d.vec then d.lane 64 i else d.u64

/-- Eight lanes of 64 bits as a command keeps them. -/
def keepLanes (l : Nat → Nat) : Payload := BitVec.ofNat 512 (packLanes 64 ((List.range 8).map l))

/-- The lowest masked lane whose address fails a check at firing (R207, R407). -/
def laneFault (a : Datum) (lanes : BitVec 8) (n : Nat) : Option (Nat × Nat) :=
  (List.range 8).findSome? fun i =>
    let va := a.addrLane i
    if !lanes.getLsbD i then none
    else if !canonical va then some (FC.translation, va)
    else if va % n ≠ 0 then some (FC.alignment, va) else none

/-! ### Loads, stores, chains, atomics, fences -/

/-- LD: zero-extended (R189). -/
def execLd (f : FLd) (s : State) : Out :=
  loadOp s f.pr [f.t0, f.t1] f.lsid.toNat f.sc f.mode f.w.bytes .zext

/-- LDS: sign-extended (R189). -/
def execLds (f : FLd) (s : State) : Out :=
  loadOp s f.pr [f.t0, f.t1] f.lsid.toNat f.sc f.mode f.w.bytes .sext

/-- LDV: 64 bytes (R189). -/
def execLdv (f : FLdv) (s : State) : Out := loadOp s f.pr [f.t0, f.t1] f.lsid.toNat f.sc f.mode 64 .vector

/-- ST (R189). -/
def execSt (f : FSt) (s : State) : Out := storeOp s f.pr f.lsid.toNat f.sc f.mode f.w.bytes

/-- STV (R189). -/
def execStv (f : FStv) (s : State) : Out := storeOp s f.pr f.lsid.toNat f.sc f.mode 64

/-- LDL (R189). -/
def execLdl (f : FLdl) (s : State) : Out := loadLocal s f.pr [f.t0, f.t1] f.lsid.toNat f.core f.disp f.w.bytes .zext

/-- LDVL (R189). -/
def execLdvl (f : FLdvl) (s : State) : Out := loadLocal s f.pr [f.t0, f.t1] f.lsid.toNat f.core f.disp 64 .vector

/-- STL (R189). -/
def execStl (f : FStl) (s : State) : Out := storeLocalOp s f.pr f.lsid.toNat f.core f.disp f.w.bytes

/-- STVL (R189). -/
def execStvl (f : FStvl) (s : State) : Out := storeLocalOp s f.pr f.lsid.toNat f.core f.disp 64

/-- CHNOP: a reservation with no store; a null on A sends nothing (R107, R200). -/
def execChnop (f : FChnop) (s : State) : Out :=
  fire s f.pr fun c => port c.m.a (.next (c.sat f.lsid.toNat).s) fun a =>
    c.shareLsid f.lsid.toNat (fun c => .next (c.sat f.lsid.toNat).s) fun c =>
      .next (((c.sat f.lsid.toNat).act f.lsid.toNat).sendChain f.lsid.toNat (tripleOf f.link a.u64) none false).s

/-- AMO (R204). -/
def execAmo (f : FAmo) (s : State) : Out := amoOp s f.pr [f.t0, f.t1] f.lsid.toNat f.sc f.w f.ord f.op false

/-- AMOL (R204). -/
def execAmol (f : FAmol) (s : State) : Out :=
  amoOp s f.pr [f.t0, f.t1] f.lsid.toNat (if f.core then .core else .strand) f.w f.ord f.op true

/-- FENCE: its place in program order, and its emission when its kind is met (R206). -/
def execFence (f : FFence) (s : State) : Out :=
  fire s f.pr fun c =>
    (c.mod fun i => { i with fences := i.fences ++ [⟨f.lsid.toNat, f.kind, f.sc⟩] }).wait f.lsid.toNat (.fence f.kind f.sc)

/-- GATH: eight loads and one token (R207). -/
def execGath (f : FGath) (s : State) : Out :=
  fire s f.pr fun c => port c.m.a (c.out [f.t0, f.t1] none) fun a =>
    c.shareLsid f.lsid.toNat (·.out [f.t0, f.t1] none) fun c =>
      let lanes := (List.range 8).filter fun i => f.lanes.getLsbD i
      c.loadAll f.w.bytes (lanes.map a.addrLane) f.lsid.toNat fun parts =>
        .next (c.addLoad ⟨c.slot, c.age, c.k, f.lsid.toNat, false, parts, .gath lanes, false, f.sc, none, []⟩).s

/-- PREF: no value changes and nothing faults, not even a reserved tag; it emits 0 (R214). -/
def execPref (f : FPref) (s : State) : Out :=
  fireAny s f.pr fun c => port c.m.a (c.out [f.t0, f.t1] none) fun _ => c.out [f.t0, f.t1] (some (.int 0))

/-- WAITG: waits for the generation of a sync word (R213). -/
def execWaitg (f : FWaitg) (s : State) : Out :=
  station2 s f.pr [] [f.t0, f.t1] fun c a b =>
    let off := effAddr a (sint f.disp.toNat 21)
    c.local off 16 16 f.lsid.toNat fun c => c.wait f.lsid.toNat (.waitg off (b.u64 % 2 ^ 24) f.sc)

/-- The 16-byte pieces of a tile: sixteen rows at a stride (R215). -/
def tileRows (f : Fmt) (ea stride : Nat) : List Nat :=
  (List.range 16).flatMap fun i => (List.range (2 * f.lane / 16)).map fun j => (ea + i * stride + 16 * j) % 2 ^ 64

/-- Whether a token names a tile. -/
def Tok.names (t : Tok) (id : Nat) : Bool := match t with | some d => d.tile == some id | none => false

/-- Whether a token of a tile is neither consumed nor dropped (R216). -/
def Core.tileLive (c : Core) (t : Tile) : Bool :=
  (c.net ++ c.cab ++ c.chest).any (·.tok.names t.id)
    || c.ready.any fun m => [m.a, m.b, m.p].any fun x => match x with | some tok => tok.names t.id | none => false

/-- Whether one more tile keeps a core within 64 live tiles, those being fetched among them (R216). -/
def Core.tileRoom (c : Core) : Bool := decide ((c.tiles.filter c.tileLive).length + (c.loads.filter PLoad.isTile).length < 64)

/-- The LLC line of a chair's guest-physical address, as the tags name it (R309). -/
def lineOf (chair gpa : Nat) : Nat := (chair * 2 ^ 52 + gpa) / 128

/-- The lines of the parts of a load. -/
def PLoad.lines (chair : Nat) (l : PLoad) : List Nat :=
  l.parts.filterMap fun p => p.phys.map fun x => lineOf chair x.1

/-- The lines that a core's tiles pin: those of live tiles and of tiles being fetched (R216). -/
def Core.pinned (c : Core) : List Nat :=
  (c.tiles.filter c.tileLive).flatMap (·.lines)
    ++ (c.loads.filter PLoad.isTile).flatMap fun l => match c.slot? l.slot with | some sl => l.lines sl.chair | none => []

/-- Whether two lines share a set of a slice; a build's LLC decides (R309, R310, log entry 76). -/
def sameLlcSet (a b : Nat) : Bool :=
  decide (homeSlice (a * 128) = homeSlice (b * 128)) && decide (Config.llcSet a = Config.llcSet b)

/-- Whether every one of some lines can be pinned with those pinned already: at most half the ways of a set (R310). -/
def State.pinRoom (s : State) (lines : List Nat) : Bool :=
  let all := (lines ++ s.cores.flatMap Core.pinned).eraseDups
  lines.all fun x => decide (2 * (all.filter (sameLlcSet x)).length ≤ Config.llcWays)

/-- TFETCH: sixteen rows performed as one load (R215); it waits while 64 tiles live, or while its lines cannot all be
pinned (R216, R310). -/
def execTfetch (f : FTfetch) (s : State) : Out :=
  fire s f.pr fun c => withFmt c [f.fmt] <| port c.m.a (c.out [f.t0, f.t1] none) fun a =>
    c.shareLsid f.lsid.toNat (·.out [f.t0, f.t1] none) fun c =>
      let ea := effAddr a 0
      if !canonical ea then c.fault (.access FC.translation f.lsid.toNat ea)
      else if ea % 16 ≠ 0 then c.fault (.access FC.alignment f.lsid.toNat ea)
      else c.loadAll 16 (tileRows f.fmt ea (f.stride.toNat * 16)) f.lsid.toNat fun parts =>
        let l : PLoad := ⟨c.slot, c.age, c.k, f.lsid.toNat, false, parts, .tile f.fmt ea (f.stride.toNat * 16), false,
          f.sc, none, []⟩
        need ((c.s.core c.core).tileRoom && c.s.pinRoom (l.lines c.sl.chair)) <| .next (c.addLoad l).s

/-- SEQRD: an acquire load of a record at its home, readable in the second stage (R277, R331, R333). -/
def execSeqrd (f : FSeqrd) (s : State) : Out :=
  station1 s f.pr [] [f.t0, f.t1] fun c a =>
    let ch := c.s.chair c.sl.chair
    if 2 ^ 20 ≤ a.u64 then c.raise FC.reservedField
    else if bits ch.chseqn.toNat 0 21 ≤ a.u64 then c.fault (.access FC.protection f.lsid.toNat 0)
    else c.shareLsid f.lsid.toNat (·.out [f.t0, f.t1] none) fun c =>
      let gpa := bits ch.chseqb.toNat 12 40 * 0x1000 + 64 * a.u64 + 8 * f.dw.toNat
      match stage2 c.s c.sl.chair gpa with
      | .error e => c.fails e f.lsid.toNat 0 false
      | .ok (key, p) =>
        if !p.rd then c.fault (.access FC.protection f.lsid.toNat 0)
        else .next (c.addLoad ⟨c.slot, c.age, c.k, f.lsid.toNat, false, [⟨0, 8, some (gpa, key), none, none⟩],
          .seqrd f.dw.toNat, true, f.sc, none, []⟩).s

/-! ### Engine commands at firing (R220, R248) -/

/-- A scatter: eight addresses on A, eight data lanes of 64 bits on B; a scalar is broadcast to every lane, and data is
taken as bits (R91, R190, R208). -/
def scatterOp (s : State) (i : Instr) (pr : Pred) (ts : List Target) (lsid : Nat) (lanes : BitVec 8) (w : IW) : Out :=
  engineWith s i pr ts lsid true true (fun d => keepLanes d.addrLane) (fun d => keepLanes (d.bitLane 64)) fun c a _ k =>
    match laneFault a lanes w.bytes with
    | some (code, va) => c.fault (.access code lsid va)
    | none => k c

/-- SCAT: lane addresses are checked at firing (R208). -/
def execScat (f : FScat) (s : State) : Out := scatterOp s (.scat f) f.pr [f.t0, f.t1] f.lsid.toNat f.lanes f.w

/-- SCATA: lane addresses are checked at firing (R208). -/
def execScata (f : FScata) (s : State) : Out := scatterOp s (.scata f) f.pr [f.t0, f.t1] f.lsid.toNat f.lanes f.w

/-- XCOPY: a 32-byte descriptor (R211). -/
def execXcopy (f : FE) (s : State) : Out := descOp s (.xcopy f) f.pr [f.t0, f.t1] f.lsid.toNat false 32 32

/-- XFILL: a 32-byte descriptor (R211). -/
def execXfill (f : FE) (s : State) : Out := descOp s (.xfill f) f.pr [f.t0, f.t1] f.lsid.toNat false 32 32

/-- XCOMP: a 32-byte descriptor (R211). -/
def execXcomp (f : FE) (s : State) : Out := descOp s (.xcomp f) f.pr [f.t0, f.t1] f.lsid.toNat false 32 32

/-- SYNCI: a sync word of the partition (R213). -/
def execSynci (f : FSynci) (s : State) : Out :=
  engineOp s (.synci f) f.pr [f.t0, f.t1] f.lsid.toNat true true fun c a _ k => c.local (effAddr a 0) 16 16 f.lsid.toNat k

/-- INVR: an ASID the chair does not hold is PROTECTION at firing (R217). -/
def execInvr (f : FInv) (s : State) : Out :=
  engineOp s (.invr f) f.pr [f.t0, f.t1] f.lsid.toNat true true fun c _ _ k =>
    if ((c.s.chair c.sl.chair).asidIndex f.asid.toNat).isNone then c.fault (.access FC.protection f.lsid.toNat 0) else k c

/-- INVA: an ASID the chair does not hold is PROTECTION at firing (R217). -/
def execInva (f : FInv) (s : State) : Out :=
  engineOp s (.inva f) f.pr [f.t0, f.t1] f.lsid.toNat false false fun c _ _ k =>
    if ((c.s.chair c.sl.chair).asidIndex f.asid.toNat).isNone then c.fault (.access FC.protection f.lsid.toNat 0) else k c

/-- LAUNCH: the address of a packet (R177). -/
def execLaunch (f : FFar) (s : State) : Out :=
  engineOp s (.launch f) f.pr [f.t0, f.t1] f.lsid.toNat true false fun c a _ k =>
    if !canonical a.u64 then c.fault (.access FC.translation f.lsid.toNat a.u64)
    else if a.u64 % 64 ≠ 0 then c.fault (.access FC.alignment f.lsid.toNat a.u64) else k c

/-- KVAPP: a 32-byte descriptor and a position (R219). -/
def execKvapp (f : FFar) (s : State) : Out := descOp s (.kvapp f) f.pr [f.t0, f.t1] f.lsid.toNat true 32 32

/-- BIND: a 128-byte descriptor (R250). -/
def execBind (f : FBnd) (s : State) : Out := descOp s (.bind f) f.pr [f.t0, f.t1] f.lsid.toNat false 128 64

/-- UNBIND (R252). -/
def execUnbind (f : FBnd) (s : State) : Out :=
  engineOp s (.unbind f) f.pr [f.t0, f.t1] f.lsid.toNat false false fun c _ _ k => k c

/-- ATTN: a 64-byte descriptor (R257). -/
def execAttn (f : FBnd) (s : State) : Out := descOp s (.attn f) f.pr [f.t0, f.t1] f.lsid.toNat false 64 64

/-- PATCH: the record is read at issue (R263). -/
def execPatch (f : FE) (s : State) : Out :=
  engineOp s (.patch f) f.pr [f.t0, f.t1] f.lsid.toNat true false fun c _ _ k => k c

/-- PDOM: a control word of one bit (R262). -/
def execPdom (f : FDom) (s : State) : Out :=
  engineOp s (.pdom f) f.pr [f.t0, f.t1] f.lsid.toNat true false fun c a _ k =>
    if 2 ≤ a.u64 then c.raise FC.reservedField else k c

/-- PWR: its operand is settled in the queue of its domain (R264, R265). -/
def execPwr (f : FPwr) (s : State) : Out :=
  engineOp s (.pwr f) f.pr [f.t0, f.t1] f.lsid.toNat true false fun c _ _ k => k c

/-- PSTEP: its operand is settled in the queue of its domain (R264, R265). -/
def execPstep (f : FDom) (s : State) : Out :=
  engineOp s (.pstep f) f.pr [f.t0, f.t1] f.lsid.toNat true false fun c _ _ k => k c

/-- PFEED: its operand is settled in the queue of its domain (R264, R265). -/
def execPfeed (f : FFeed) (s : State) : Out :=
  engineOp s (.pfeed f) f.pr [f.t0, f.t1] f.lsid.toNat true false fun c _ _ k => k c

/-- PSAVE: a 1,040-byte image in the partition (R268). -/
def execPsave (f : FDom) (s : State) : Out := descOp s (.psave f) f.pr [f.t0, f.t1] f.lsid.toNat false 1040 16

/-- PREST: a 1,040-byte image in the partition (R268). -/
def execPrest (f : FDom) (s : State) : Out := descOp s (.prest f) f.pr [f.t0, f.t1] f.lsid.toNat false 1040 16

/-- STAP: a 32-byte descriptor and a sequence id (R271). -/
def execStap (f : FStap) (s : State) : Out := descOp s (.stap f) f.pr [f.t0, f.t1] f.lsid.toNat true 32 32

/-- SMPL: a 64-byte descriptor (R274). -/
def execSmpl (f : FSmpl) (s : State) : Out := descOp s (.smpl f) f.pr [f.t0, f.t1] f.lsid.toNat false 64 64

/-- SEQC: a 32-byte descriptor and a completion word (R276). -/
def execSeqc (f : FE) (s : State) : Out := descOp s (.seqc f) f.pr [f.t0, f.t1] f.lsid.toNat true 32 32

/-- Whether an issued Palette command of the core is still in the queue of a domain (R261). -/
def Eng.onDomain (e : Eng) (d : Nat) : Bool :=
  match e.instr with
  | .pdom f => f.dom.toNat = d
  | .pstep f => f.dom.toNat = d
  | .psave f => f.dom.toNat = d
  | .prest f => f.dom.toNat = d
  | .pfeed f => f.dom.toNat = d
  | .pwr _ => bits e.a.toNat 61 3 = d
  | .patch _ => e.data.head? = some d
  | _ => false

/-- Whether a held command may be for any domain: the record of a PATCH is read when it issues (R263, R318). -/
def Eng.domainOpen (e : Eng) : Bool := e.held && match e.instr with | .patch _ => true | _ => false

/-- A read of wells at the head of their domain's queue, once every older block has committed (R261, R267). -/
def Ctx.palRead (c : Ctx) (well lsid : Nat) (body : Domain → Out) : Out :=
  let d := well / 64
  need (c.oldest && !(c.s.core c.core).engs.any fun e => e.onDomain d || e.domainOpen) <|
    let dom := (c.s.core c.core).palette.getD d .reset
    if dom.owner ≠ some c.slot then c.fault (.access FC.protection lsid 0) else body dom

/-- PRD (R267). -/
def execPrd (f : FPrd) (s : State) : Out :=
  station1 s f.pr [] [f.t0, f.t1] fun c a =>
    if 512 ≤ a.u64 then c.raise FC.reservedField
    else c.palRead a.u64 f.lsid.toNat fun d =>
      let w := d.wells.getD (a.u64 % 64) .reset
      c.out [f.t0, f.t1] (some (.int (if f.alt then w.res else wrapN w.y 64)))

/-- PRDV (R267). -/
def execPrdv (f : FPrd) (s : State) : Out :=
  station1 s f.pr [] [f.t0, f.t1] fun c a =>
    if 512 ≤ a.u64 ∨ a.u64 % 16 ≠ 0 then c.raise FC.reservedField
    else c.palRead a.u64 f.lsid.toNat fun d =>
      let well (k : Nat) := d.wells.getD (a.u64 % 64 + k) .reset
      c.out [f.t0, f.t1] (some (
        if f.alt then .vector .fp32 32 ((List.range 16).map fun k =>
          (EV.scaled (decide ((well k).y < 0)) (well k).y.natAbs (-(well k).mw : Int)).round .fp32 .rne)
        else .vector .int 32 ((List.range 16).map fun k =>
          wrapN (max (-(2 ^ 31 : Int)) (min (2 ^ 31 - 1) (well k).y)) 32)))

/-- TAPCFG: A is checked at firing; the grants at commit (R270). -/
def execTapcfg (f : FTap) (s : State) : Out :=
  station1 s f.pr [] [f.t0, f.t1] fun c a =>
    if bits a.u64 32 32 ≠ 0 ∨ bits a.u64 2 2 = 3 then c.raise FC.reservedField
    else (c.mod fun i => { i with kacts := i.kacts ++ [(c.k, .tapcfg f.tap.toNat (BitVec.ofNat 64 a.u64))] }).out
      [f.t0, f.t1] (some a)

/-- TAPST: the tap register and XCNT, once every older block has committed (R270). -/
def execTapst (f : FTap) (s : State) : Out :=
  station0 s f.pr fun c => need c.oldest <| c.out [f.t0, f.t1]
    (some (.int ((c.sl.taps.getD f.tap.toNat 0).toNat % 2 ^ 32 + c.sl.xcnt.getD f.tap.toNat 0 * 2 ^ 32)))

end Sys2Proof.Machine
end

