-- ==== Sys2Proof/Machine/Vector.lean ====
section
/-! DEFINITION. Vector instructions (R221 to R234): one meaning each, over shared lane operations. -/

namespace Sys2Proof.Machine

/-! ### Shared operations -/

/-- An element-wise floating-point operation of A (R225). -/
def fpLanes1 (f : FV) (s : State) (op : EV → EV) : Out :=
  station1 s f.pr [f.fmt] [f.t0, f.t1] fun c a =>
    c.out [f.t0, f.t1] (some (.fpVector f.fmt f.rm fun i => op (a.evLane i)))

/-- An element-wise floating-point operation of A and B (R225). -/
def fpLanes2 (f : FV) (s : State) (op : EV → EV → EV) : Out :=
  station2 s f.pr [f.fmt] [f.t0, f.t1] fun c a b =>
    c.out [f.t0, f.t1] (some (.fpVector f.fmt f.rm fun i => op (a.evLane i) (b.evLane i)))

/-- An element-wise floating-point operation of A, B and P (R225). -/
def fpLanes3 (f : FV3) (s : State) (op : EV → EV → EV → EV) : Out :=
  station3 s [f.fmt] [f.t0, f.t1] fun c a b p =>
    c.out [f.t0, f.t1] (some (.fpVector f.fmt f.rm fun i => op (a.evLane i) (b.evLane i) (p.evLane i)))

/-- An integer operation lane by lane (R234). -/
def intLanes (pr : Pred) (t0 t1 : Target) (w : IW) (s : State) (op : (w a b : Nat) → Int) : Out :=
  station2 s pr [] [t0, t1] fun c a b =>
    let n := w.bits
    c.out [t0, t1] (some (.vector .int n ((List.range w.lanes).map fun i =>
      wrapN (op n (a.bitLane n i) (b.bitLane n i)) n)))

/-- A movement of lanes, bearing A's tag (R223, R230). -/
def moveLanes (c : Ctx) (ts : List Target) (a : Datum) (w : IW) (src : Nat → Nat) : Out :=
  c.out ts (some (.vector a.tag w.bits ((List.range w.lanes).map src)))

/-- A sign change of every lane (R226). -/
def signLanes (f : FF) (s : State) (abs : Bool) : Out :=
  station1 s f.pr [f.fmt] [f.t0, f.t1] fun c a =>
    let w := f.fmt.lane
    let lanes := 512 / w
    c.out [f.t0, f.t1] (some (
      if a.tag = f.fmt then
        .vector f.fmt w ((List.range lanes).map fun i => signOp f.fmt abs (if a.vec then a.lane w i else a.lane w 0))
      else .vector f.fmt w ((List.range 16).map fun i => signOp f.fmt abs ((a.evLane i).round f.fmt .rne))))

/-- The node of VRED and VSCAN (R229). -/
def vredNode (op : VRedOp) (rm : Rm) (x y : EV) : EV :=
  match op with
  | .add => (EV.add rm x y).rnd32 rm
  | .min => EV.choose false x y
  | .max => EV.choose true x y

/-! ### Floating-point lanes -/

/-- VADD (R225). -/
def execVadd (f : FV) (s : State) : Out := fpLanes2 f s (EV.add f.rm)

/-- VSUB (R225). -/
def execVsub (f : FV) (s : State) : Out := fpLanes2 f s (fun a b => EV.add f.rm a b.negate)

/-- VMUL (R225). -/
def execVmul (f : FV) (s : State) : Out := fpLanes2 f s (EV.mul)

/-- VDIV (R225). -/
def execVdiv (f : FV) (s : State) : Out := fpLanes2 f s (EV.div)

/-- VMIN (R225). -/
def execVmin (f : FV) (s : State) : Out := fpLanes2 f s (EV.choose false)

/-- VMAX (R225). -/
def execVmax (f : FV) (s : State) : Out := fpLanes2 f s (EV.choose true)

/-- VSQRT (R225). -/
def execVsqrt (f : FV) (s : State) : Out := fpLanes1 f s (EV.sqrt)

/-- VRSQ (R225). -/
def execVrsq (f : FV) (s : State) : Out := fpLanes1 f s (EV.rsqrt)

/-- VEXP2 (R225). -/
def execVexp2 (f : FV) (s : State) : Out := fpLanes1 f s (EV.exp2)

/-- VLOG2 (R225). -/
def execVlog2 (f : FV) (s : State) : Out := fpLanes1 f s (EV.log2)

/-- VFMA: one rounding (R225). -/
def execVfma (f : FV3) (s : State) : Out := fpLanes3 f s fun a b p => EV.add f.rm (a.mul b) p

/-- VFMS: one rounding (R225). -/
def execVfms (f : FV3) (s : State) : Out := fpLanes3 f s fun a b p => EV.add f.rm (a.mul b) p.negate

/-- VABS (R226). -/
def execVabs (f : FF) (s : State) : Out := signLanes f s true

/-- VNEG (R226). -/
def execVneg (f : FF) (s : State) : Out := signLanes f s false

/-- VCMP: an INT scalar of 16 relation bits (R227). -/
def execVcmp (f : FVcmp) (s : State) : Out :=
  station2 s f.pr [f.fmt] [f.t0, f.t1] fun c a b =>
    c.out [f.t0, f.t1] (some (.int (packLanes 1 ((List.range 16).map fun i =>
      bnat (relHolds f.cc (a.evLane i) (b.evLane i))))))

/-- VSEL: lanes by the mask on P (R228). -/
def execVsel (f : FVsel) (s : State) : Out :=
  station3 s [] [f.t0, f.t1] fun c a b p => moveLanes c [f.t0, f.t1] a f.w fun i =>
    if bit p.lo i then a.bitLane f.w.bits i else b.bitLane f.w.bits i

/-- VMASK (R228). -/
def execVmask (f : FVmask) (s : State) : Out :=
  station1 s f.pr [] [f.t0, f.t1] fun c a =>
    let w := f.w.bits
    c.out [f.t0, f.t1] (some (.int (packLanes 1 ((List.range f.w.lanes).map fun i =>
      let x := a.bitLane w i
      bnat (match f.cond with | .nonzero => x != 0 | .sign => bit x (w - 1) | .zero => x == 0)))))

/-- VRED: a pairwise tree over 16 lanes (R229). -/
def execVred (f : FVred) (s : State) : Out :=
  station1 s f.pr [f.fmt] [f.t0, f.t1] fun c a =>
    c.out [f.t0, f.t1] (some (.scalar f.fmt ((pairwise a.evLane (vredNode f.op f.rm) 4 0).round f.fmt f.rm)))

/-- VSCAN: aligned-run prefixes (R229). -/
def execVscan (f : FVred) (s : State) : Out :=
  station1 s f.pr [f.fmt] [f.t0, f.t1] fun c a =>
    c.out [f.t0, f.t1] (some (.fpVector f.fmt f.rm fun i => alignedPrefix a.evLane (vredNode f.op f.rm) i))

/-- VDOT (R229). -/
def execVdot (f : FV) (s : State) : Out :=
  station2 s f.pr [f.fmt] [f.t0, f.t1] fun c a b =>
    let p (k : Nat) : EV := (EV.add f.rm ((a.evLane (2 * k)).mul (b.evLane (2 * k)))
      ((a.evLane (2 * k + 1)).mul (b.evLane (2 * k + 1)))).rnd32 f.rm
    c.out [f.t0, f.t1] (some (.scalar f.fmt ((pairwise p (vredNode .add f.rm) 3 0).round f.fmt f.rm)))

/-! ### Moving and converting lanes -/

/-- VBCAST (R230). -/
def execVbcast (f : FVx) (s : State) : Out :=
  station1 s f.pr [] [f.t0, f.t1] fun c a => moveLanes c [f.t0, f.t1] a f.w fun _ => a.bitLane f.w.bits f.x.toNat

/-- VEXT (R230). -/
def execVext (f : FVx) (s : State) : Out :=
  station1 s f.pr [] [f.t0, f.t1] fun c a =>
    let x := a.bitLane f.w.bits f.x.toNat
    c.out [f.t0, f.t1] (some (if a.tag = .int then .int (sextN x f.w.bits) else .scalar a.tag x))

/-- VINS (R230). -/
def execVins (f : FVx) (s : State) : Out :=
  station2 s f.pr [] [f.t0, f.t1] fun c a b => moveLanes c [f.t0, f.t1] a f.w fun i =>
    if i = f.x.toNat then b.lane f.w.bits 0 else a.bitLane f.w.bits i

/-- VPERM (R230). -/
def execVperm (f : FA) (s : State) : Out :=
  station2 s f.pr [] [f.t0, f.t1] fun c a b => moveLanes c [f.t0, f.t1] a f.w fun i =>
    a.bitLane f.w.bits (b.bitLane f.w.bits i % f.w.lanes)

/-- VSHUF (R230). -/
def execVshuf (f : FVshuf) (s : State) : Out :=
  station1 s f.pr [] [f.t0, f.t1] fun c a => moveLanes c [f.t0, f.t1] a f.w fun i =>
    a.bitLane f.w.bits (match f.form with | .rotate k => (i + k.toNat) % f.w.lanes | .reverse => f.w.lanes - 1 - i)

/-- VCVT: value, from integer, to integer, bit-cast (R231). -/
def execVcvt (f : FVcvt) (s : State) : Out :=
  station1 s f.pr [f.fmt] [f.t0, f.t1] fun c a =>
    c.out [f.t0, f.t1] (some (match f.form with
      | .value => .fpVector f.fmt f.rm a.evLane
      | .fromInt => .fpVector f.fmt f.rm fun i => EV.ofInt (sint (a.bitLane 32 i) 32)
      | .toInt => .vector .int 32 ((List.range 16).map fun i =>
          wrapN ((a.evLane i).toInt f.rm (-(2 ^ 31 : Int)) (2 ^ 31 - 1)) 32)
      | .bitCast => { a with fmt := f.fmt, tile := none }))

/-- VPACK (R232). -/
def execVpack (f : FVpack) (s : State) : Out :=
  station2 s f.pr [f.fmt] [f.t0, f.t1] fun c a b =>
    let w := f.fmt.lane
    let q := 16 * f.q.toNat
    let bb := if b.vec then b.bits.toNat else b.lo
    c.out [f.t0, f.t1] (some (.vector f.fmt w ((List.range (512 / w)).map fun i =>
      if q ≤ i ∧ i < q + 16 then (a.evLane (i - q)).round f.fmt f.rm else bits bb (w * i) w)))

/-- VUNPK (R232). -/
def execVunpk (f : FVunpk) (s : State) : Out :=
  station1 s f.pr [f.fmt, f.sf] [f.t0, f.t1] fun c a =>
    let w := f.sf.lane
    let ab := if a.vec then a.bits.toNat else a.lo
    c.out [f.t0, f.t1] (some (.fpVector f.fmt f.rm fun i => f.sf.decode (bits ab (w * (16 * f.q.toNat + i)) w)))

/-- VSCALE: quantise with a scale, or apply one (R233, R90). The scale of an INT vector on B is its 32-bit lane 0, as R222 reads
vectors; a scalar port would read the low 64 bits (DESIGN CHOICE, log entry 89). -/
def execVscale (f : FF) (s : State) : Out :=
  station2 s f.pr [f.fmt] [f.t0, f.t1] fun c a b =>
    let sg := b.evLane 0
    c.out [f.t0, f.t1] (some (
      if f.fmt = .fp32 then .fpVector .fp32 .rne fun i => (a.evLane i).mul sg
      else
        let v := Datum.fpVector f.fmt .rne fun i => (a.evLane i).div sg
        let pat := sg.round .fp32 .rne
        { v with bits := v.bits + BitVec.ofNat 512 (pat * 2 ^ 480) }))

/-! ### Vector integers -/

/-- VIADD (R234). -/
def execViadd (f : FA) (s : State) : Out := intLanes f.pr f.t0 f.t1 f.w s fun _ a b => (a : Int) + b

/-- VISUB (R234). -/
def execVisub (f : FA) (s : State) : Out := intLanes f.pr f.t0 f.t1 f.w s fun _ a b => (a : Int) - b

/-- VIMUL (R234). -/
def execVimul (f : FA) (s : State) : Out := intLanes f.pr f.t0 f.t1 f.w s fun _ a b => (a : Int) * b

/-- VIAND (R234). -/
def execViand (f : FA) (s : State) : Out := intLanes f.pr f.t0 f.t1 f.w s fun _ a b => (a &&& b : Nat)

/-- VIOR (R234). -/
def execVior (f : FA) (s : State) : Out := intLanes f.pr f.t0 f.t1 f.w s fun _ a b => (a ||| b : Nat)

/-- VIXOR (R234). -/
def execVixor (f : FA) (s : State) : Out := intLanes f.pr f.t0 f.t1 f.w s fun _ a b => (a ^^^ b : Nat)

/-- VISHL (R234). -/
def execVishl (f : FA) (s : State) : Out := intLanes f.pr f.t0 f.t1 f.w s fun w a b => (a * 2 ^ (b % w) : Nat)

/-- VISHR (R234). -/
def execVishr (f : FA) (s : State) : Out := intLanes f.pr f.t0 f.t1 f.w s fun w a b => (a / 2 ^ (b % w) : Nat)

/-- VISRA (R234). -/
def execVisra (f : FA) (s : State) : Out := intLanes f.pr f.t0 f.t1 f.w s fun w a b => sint a w / (2 ^ (b % w) : Nat)

/-- VIMIN: signed or unsigned (R234). -/
def execVimin (f : FVmm) (s : State) : Out :=
  intLanes f.pr f.t0 f.t1 f.w s fun w a b => if f.uns then min (a : Int) b else min (sint a w) (sint b w)

/-- VIMAX: signed or unsigned (R234). -/
def execVimax (f : FVmm) (s : State) : Out :=
  intLanes f.pr f.t0 f.t1 f.w s fun w a b => if f.uns then max (a : Int) b else max (sint a w) (sint b w)

end Sys2Proof.Machine
end

