-- ==== Sys2Proof/Machine/Systolic.lean ====
section
/-! DEFINITION. Chest shares (R43, R306, R307); systolic arrays and TMUL (R233, R235 to R245), and the arithmetic of the
systolic step (R96, R97). -/

namespace Sys2Proof.Machine

/-! ### Chest shares -/

/-- The entries of a chest share: SIZE · 512 (R306). -/
def Slot.chestEntries (sl : Slot) : Nat := bits sl.chest.toNat 0 16 * 512

/-- The leading entries of a share that lie in pages mapped writable, and in no share held before (R307). -/
def chestUsable (s : State) (core : Nat) (sl : Slot) (slot : Nat) : Nat :=
  let base := sl.chestShare core
  let overlap (va : Nat) : Bool := (List.range s.cores.length).any fun ci => (List.range 4).any fun i =>
    match s.slot? ci i with
    | some x => !(decide (ci = core) && decide (i = slot)) && decide (x.chair = sl.chair) && decide (x.asid = sl.asid)
        && decide (x.chestShare ci < va + 0x10000) && decide (va < x.chestShare ci + x.chestSize)
    | none => false
  let ok (j : Nat) : Bool :=
    let va := base + j * 0x10000
    !overlap va && (sl.chestDefault ||
      (List.range 16).all fun p => match translate s core sl.chair sl.asid false .store (va + p * 0x1000) with
        | .ok _ => true | .error _ => false)
  ((List.range (bits sl.chest.toNat 0 16)).takeWhile ok).length * 512

/-- An entry added to a core's 16 range entries; where all are in use the oldest that the service loaded goes (R335). -/
def addRange (l : List RangeEntry) (r : RangeEntry) : List RangeEntry :=
  let oldest := if l.length < 16 then none else l.find? (·.slot.isNone)
  (match oldest with | some x => l.erase x | none => l) ++ [r]

/-- Where a slot's chest share lies in the chair's guest-physical space, and with which permissions: the area that the
service mapped for a default share, else what the walk of its first page gives (R306, R335). -/
def chestPlace (s : State) (core : Nat) (sl : Slot) : Nat × Perm :=
  if sl.chestDefault then
    (((s.launch? sl.launch).map (·.chestGpa)).getD 0 + core * sl.chestSize, ⟨false, false, true, true⟩)
  else match translate s core sl.chair sl.asid false .store (sl.chestShare core) with
    | .ok (gpa, _, e) => (gpa, e.perm)
    | .error _ => (0, ⟨false, false, false, false⟩)

/-- Loading the range entry of a slot's chest share; the walk is made then (R43, R335). -/
def State.loadChestRange (s : State) (core slot : Nat) : State :=
  match s.slot? core slot with
  | none => s
  | some sl =>
    let n := chestUsable s core sl slot
    let x := chestPlace s core sl
    let r : RangeEntry := ⟨some slot, sl.chair, sl.asid, sl.chestShare core, sl.chestSize, x.1, x.2⟩
    let s := s.modSlot core slot fun x => { x with chestOk := n }
    s.modCore core fun k => { k with ranges := addRange (k.ranges.filter (·.slot ≠ some slot)) r }

/-- The 128-byte chest entries of an accumulator entry: its rows of 16 FP32 sums per rectangle row (R241). -/
def SysArray.accEntries (a : SysArray) (x : Acc) : Nat :=
  ((if x.feeds.any (·.tile) then 16 else 1) * 64 * (a.nrow + 1) + 127) / 128

/-- The entries of its chest that a slot has in use: spilled tokens and spilled accumulator entries (R40, R241). -/
def Core.chestUsed (c : Core) (slot : Nat) : Nat :=
  (c.chest.filter (·.slot = slot)).length +
    ((c.arrays.filter (·.slot = slot)).map fun a => ((a.accs.filter (·.place = .chest)).map a.accEntries).sum).sum

/-- The range entry of a slot's chest share, loaded where it is not held (R218, R335). -/
def State.withChestRange (s : State) (core slot : Nat) : State :=
  if (s.core core).ranges.any (·.slot = some slot) then s else s.loadChestRange core slot

/-- Taking `n` entries of a chest for a block, or CHEST_FULL against it (R43, R218, R241). -/
def State.chestTake (s : State) (core slot age n : Nat) (put : State → State) : State :=
  let s := s.withChestRange core slot
  match s.slot? core slot with
  | none => s
  | some sl =>
    let used := (s.core core).chestUsed slot + n
    if used ≤ sl.chestOk then put (s.modSlot core slot fun x => { x with chestHigh := max x.chestHigh used })
    else s.record core slot age (.plain FC.chestFull)

/-! ### Arrays -/

/-- Whether a station lies in a rectangle. -/
def inRect (r0 c0 nr nc row col : Nat) : Bool :=
  decide (r0 ≤ row) && decide (row ≤ r0 + nr) && decide (c0 ≤ col) && decide (col ≤ c0 + nc)

/-- Whether two rectangles share a station. -/
def overlaps (a : SysArray) (f : FT) : Bool :=
  decide (a.row0 ≤ f.row0.toNat + f.nrow.toNat) && decide (f.row0.toNat ≤ a.row0 + a.nrow)
    && decide (a.col0 ≤ f.col0.toNat + f.ncol.toNat) && decide (f.col0.toNat ≤ a.col0 + a.ncol)

/-- Whether a rectangle is exactly an array's (R243). -/
def FT.isArray (f : FT) (a : SysArray) : Bool :=
  f.row0.toNat = a.row0 && f.nrow.toNat = a.nrow && f.col0.toNat = a.col0 && f.ncol.toNat = a.ncol

/-- Whether a rectangle is one column of an array (R240). -/
def FT.isColumn (f : FT) (a : SysArray) : Bool :=
  f.ncol.toNat = 0 && f.row0.toNat = a.row0 && f.nrow.toNat = a.nrow
    && inRect a.row0 a.col0 a.nrow a.ncol f.row0.toNat f.col0.toNat

/-- Whether a rectangle is one row of an array (R242). -/
def FT.isRow (f : FT) (a : SysArray) : Bool :=
  f.nrow.toNat = 0 && f.col0.toNat = a.col0 && f.ncol.toNat = a.ncol
    && inRect a.row0 a.col0 a.nrow a.ncol f.row0.toNat f.col0.toNat

/-- The value of an element in a format, converted: exactly when formats agree, otherwise rounded (R238, R240). -/
def convElem (src dst : Fmt) (e : Nat) : Nat := if src = dst then e else (src.decode e).round dst .rne

/-- The tile of a token, where it bears one (R215). -/
def Core.tileOf (c : Core) (d : Datum) : Option Tile := d.tile.bind fun id => c.tiles.find? (·.id = id)

/-- σa of a row pattern: the zero pattern means 1.0 (R233). -/
def sigaValue (p : Nat) : EV := if p = 0 then .one else fp32 p

/-- One systolic station: rne(σw · Σ a·W + p, FP32), the whole formed exactly; a zero takes its sign from the sixteen
products and the partial together (R93, R95, R96). -/
def sysStep (sigw : EV) (af wf : Fmt) (a : List Nat) (w : List Nat) (col : Nat) (p : EV) : EV :=
  let prods := (List.range 16).map fun i => (af.decode (a.getD i 0)).mul (wf.decode (w.getD (16 * i + col) 0))
  match EV.sum .rne [sigw.mul (EV.sum .rne prods), p] with
  | .rat _ 0 _ => EV.sum .rne (prods.map sigw.mul ++ [p])
  | x => x.rne32

/-- Whether a row of K elements, in AF, is all zero (R97). -/
def zeroRow (af : Fmt) (r : List Nat) : Bool := r.all fun e => match af.decode e with | .rat _ 0 _ => true | _ => false

/-- The row `n` of column block `c` that an entry was fed. -/
def Acc.row (x : Acc) (c n : Nat) : List Nat :=
  match x.feeds.find? (·.col = c) with | some f => f.rows.getD n [] | none => []

/-- Rows of an entry are complete when every column has been fed (R240). -/
def SysArray.complete (a : SysArray) (x : Acc) : Bool := (List.range (a.ncol + 1)).all fun c => x.feeds.any (·.col = c)

/-- acc[16r + j] of row `n`: the chain along the columns in ascending order, over the weights that the rows met as they
entered (R96, R240). -/
def SysArray.acc (a : SysArray) (x : Acc) (r j n : Nat) : EV :=
  (List.range (a.ncol + 1)).foldl (fun p c =>
    let t := x.tiles.getD (r * (a.ncol + 1) + c) ⟨a.af, [], none, false⟩
    sysStep (fp32 a.sigw) a.af t.wf (x.row c n) t.elems j p) (.rat true 0 1)

/-- Whether an entry of the accumulator is in use: its rows are in, and not yet all drained (R241). -/
def SysArray.inUse (a : SysArray) (x : Acc) : Bool :=
  decide (x.place = .entry) && !(List.range (a.nrow + 1)).all x.drained.contains

/-- The oldest block whose completed rows wait for an entry, in its chest or not yet taken in (R241). -/
def SysArray.nextIn (a : SysArray) : Option Acc :=
  (a.accs.filter fun x => x.place ≠ .entry ∧ a.complete x).foldl (fun b x => match b with
    | none => some x
    | some y => if x.age < y.age then some x else some y) none

/-- Completed rows take free entries, oldest first; the weights they meet are kept (R240, R241). -/
def SysArray.takeIn (a : SysArray) : Nat → SysArray
  | 0 => a
  | n + 1 =>
    match a.nextIn with
    | none => a
    | some x =>
      if (a.accs.filter a.inUse).length < 32 then
        ({ a with accs := a.accs.map fun y => if y.age = x.age then
            { y with place := .entry, tiles := if x.place = .chest then y.tiles else a.tiles } else y } : SysArray).takeIn n
      else a

/-- The youngest holder of an entry, where an older block's rows wait for one (R241). -/
def SysArray.victim (a : SysArray) : Option Acc :=
  let held := a.accs.filter a.inUse
  match a.nextIn, held.foldl (fun b x => match b with
      | none => some x
      | some y => if y.age < x.age then some x else some y) none with
  | some x, some y => if 32 ≤ held.length ∧ x.age < y.age then some y else none
  | _, _ => none

/-- The drained element: acc · σa rounded once; a skipped row drains as +0 (R96, R97, R242). -/
def SysArray.drainElem (a : SysArray) (x : Acc) (fmt : Fmt) (r j n : Nat) : Nat :=
  let whole := (List.range (a.ncol + 1)).flatMap fun c => x.row c n
  if zeroRow a.af whole then 0
  else
    let sg := match x.feeds.find? (·.col = 0) with | some f => sigaValue f.siga | none => .one
    ((a.acc x r j n).mul sg).round fmt .rne

/-- The array of the firing's slot that a rectangle names. -/
def Ctx.array? (c : Ctx) (p : SysArray → Bool) : Option SysArray :=
  (c.s.core c.core).arrays.find? fun a => decide (a.slot = c.slot) && p a

/-- Changing the arrays of a core. -/
def State.modArrays (s : State) (core : Nat) (f : List SysArray → List SysArray) : State :=
  s.modCore core fun k => { k with arrays := f k.arrays }

/-- Changing one array, found by its origin station. -/
def State.modArray (s : State) (core : Nat) (a : SysArray) (f : SysArray → SysArray) : State :=
  s.modArrays core fun l => l.map fun x => if x.row0 = a.row0 ∧ x.col0 = a.col0 then f x else x

/-- Rows that have become complete take entries; where none is free, the youngest holder's goes to its chest for an older
block's, or is dropped with CHEST_FULL (R43, R241). -/
def State.admitRows (s : State) (core : Nat) (slot row0 col0 : Nat) : State :=
  let upd (s : State) (f : SysArray → SysArray) : State :=
    s.modArrays core fun l => l.map fun x => if x.row0 = row0 ∧ x.col0 = col0 then (f x).takeIn 64 else x
  let s := upd s id
  match (s.core core).arrays.find? fun x => x.row0 = row0 ∧ x.col0 = col0 with
  | none => s
  | some a =>
    match a.victim with
    | none => s
    | some v =>
      let s := s.chestTake core slot v.age (a.accEntries v) fun s => s.modArrays core fun l => l.map fun x =>
        if x.row0 = row0 ∧ x.col0 = col0 then
          { x with accs := x.accs.map fun y => if y.age = v.age then { y with place := .chest } else y } else x
      upd s fun x => { x with accs := x.accs.filter fun y => y.age ≠ v.age ∨ y.place = .chest }

/-- A configuration word fires: it emits and acts at commit (R236). -/
def Ctx.config (c : Ctx) (k : KAct) (ts : List Target) (v : Nat) : Out :=
  (c.mod fun i => { i with kacts := i.kacts ++ [(c.k, k)] }).out ts (some (.int v))

/-- SYSCFG (R237). -/
def execSyscfg (f : FT) (s : State) : Out :=
  station1 s f.pr [f.fmt] [f.t0, f.t1] fun c a =>
    if bits a.u64 32 32 ≠ 0 then c.raise FC.reservedField
    else c.config (.syscfg f (a.u64 % 2 ^ 32)) [f.t0, f.t1] 0

/-- WLOAD: its A port needs a tile (R238). -/
def execWload (f : FWload) (s : State) : Out :=
  station1 s f.pr [f.fmt] [f.t0, f.t1] fun c a =>
    match (c.s.core c.core).tileOf a with
    | some t => c.config (.wload f t.id) [f.t0, f.t1] 0
    | none => c.raise FC.reservedField

/-- ROUTE: it emits INDEX (R239). -/
def execRoute (f : FT) (s : State) : Out :=
  station1 s f.pr [f.fmt] [f.t0, f.t1] fun c a =>
    if bits a.u64 24 40 ≠ 0 then c.raise FC.reservedField
    else c.config (.route f (a.u64 % 2 ^ 24)) [f.t0, f.t1] (a.u64 % 16)

/-- SYSREL (R243). -/
def execSysrel (f : FT) (s : State) : Out :=
  station1 s f.pr [f.fmt] [f.t0, f.t1] fun c _ => c.config (.sysrel f) [f.t0, f.t1] 0

/-- The rows that MMA feeds to a column: sixteen of a tile, or one of a vector with its σa (R233, R240). -/
def Ctx.feed (c : Ctx) (arr : SysArray) (a : Datum) (col : Nat) : Feed :=
  match (c.s.core c.core).tileOf a with
  | some t => ⟨col, true, (List.range 16).map fun i => (List.range 16).map fun j =>
      convElem t.fmt arr.af (t.elems.getD (16 * i + j) 0), 0⟩
  | none => ⟨col, false, [(List.range 16).map fun i =>
      if a.tag = arr.af ∧ a.vec then a.lane arr.af.lane i else (a.evLane i).round arr.af .rne],
      if a.vec ∧ a.tag ≠ .int ∧ a.tag ≠ .fp32 then a.lane 32 15 else 0⟩

/-- The rows of an entry that entered, and those of zeros that were skipped (R97). -/
def SysArray.rowCounts (arr : SysArray) (acc : Acc) : Nat × Nat :=
  if arr.complete acc then
    let n := match acc.feeds.head? with | some f => f.rows.length | none => 0
    let skipped := ((List.range n).filter fun n =>
      zeroRow arr.af ((List.range (arr.ncol + 1)).flatMap fun cc => acc.row cc n)).length
    (n - skipped, skipped)
  else (0, 0)

/-- Counting the rows that a committing block streamed, so that no discarded block counts (R353). -/
def State.countRows (s : State) (core slot chair age : Nat) : State :=
  ((s.core core).arrays.filter (·.slot = slot)).foldl (fun s arr =>
    match arr.accs.find? (·.age = age) with
    | some acc => (s.perfEvent core chair 0x09 (arr.rowCounts acc).1).perfEvent core chair 0x0A (arr.rowCounts acc).2
    | none => s) s

/-- MMA: one column's rows; what names no column waits for the oldest block and is RESERVED_FIELD (R240, R244). -/
def execMma (f : FT) (s : State) : Out :=
  station1 s f.pr [f.fmt] [f.t0, f.t1] fun c a =>
    match c.array? (FT.isColumn f) with
    | none => need c.oldest <| c.raise FC.reservedField
    | some arr =>
      let col := f.col0.toNat - arr.col0
      let acc := (arr.accs.find? (·.age = c.age)).getD ⟨c.age, [], [], .rows, []⟩
      if acc.feeds.any (fun x => decide (x.col = col) || x.tile != ((c.s.core c.core).tileOf a).isSome) then
        c.raise FC.reservedField
      else
        let feed := c.feed arr a col
        let acc := { acc with feeds := acc.feeds ++ [feed] }
        let s := c.s.modArray c.core arr fun x => { x with accs := acc :: x.accs.filter (·.age ≠ c.age) }
        let s := s.admitRows c.core c.slot arr.row0 arr.col0
        { c with s := s }.out [f.t0, f.t1] (some (.int 0))

/-- The fault of a route target checked under R101 at firing, where it has one. -/
def Ctx.targetFault (c : Ctx) (t : Nat) (self : Nat) (reads : Nat → Port → Bool) : Option Nat :=
  match Target.ofCode t with
  | none => some FC.reservedField
  | some .none => none
  | some (.wslot n) => if bit c.inst.h1.toNat (32 + n.toNat) then none else some FC.badHeader
  | some (.port p k) =>
    if c.inst.words.length ≤ k.toNat ∨ k.toNat = self ∨ !reads k.toNat p then some FC.targetRange else none

/-- The ports that a slot reads under its opcode and PR (R102, R120). -/
def Instr.reads : Instr → Port → Bool
  | i, p =>
    let byPr (pr : Pred) : Bool := pr ≠ .always
    let chain (m : MemMode) : Bool := match m with | .chain _ _ => true | _ => false
    let pd (a b : Bool) (pr : Pred) : Bool := match p with | .a => a | .b => b | .p => byPr pr
    match i with
    | .read f => pd false false f.pr
    | .limm f => pd false false f.pr
    | .nullI f => pd false false f.pr
    | .sel _ | .vfma _ | .vfms _ | .vsel _ => true
    | .br f | .call f => pd false false f.pr
    | .ret f | .rett f | .endI f => pd false false f.pr
    | .trap f => pd false false f.pr
    | .brk f => pd false false f.pr
    | .csrr f => pd false false f.pr
    | .csrw f | .csrx f => pd true false f.pr
    | .fork f => pd true true f.pr
    | .spawn f => pd false false f.pr
    | .fence f => pd false false f.pr
    | .inva f => pd false false f.pr
    | .unbind f => pd false false f.pr
    | .tapst f => pd false false f.pr
    | .mov f | .join f => pd true false f.pr
    | .mov4 f => pd true false f.pr
    | .orhi f => pd true false f.pr
    | .bri f => pd true false f.pr
    | .redt f => pd true false f.pr
    | .launch f => pd true false f.pr
    | .waitc f => pd true false f.pr
    | .teq f | .tne f | .tlt f | .tle f | .tltu f | .tleu f => pd true true f.pr
    | .teqi f | .tnei f | .tlti f | .tlei f | .tgti f | .tgei f | .tltui f | .tgtui f => pd true false f.pr
    | .ftest f => pd true false f.pr
    | .add f | .sub f | .mul f | .mulh f | .mulhu f | .div f | .divu f | .rem f | .remu f | .andI f | .orI f | .xorI f
    | .andn f | .shl f | .shr f | .sra f | .rotl f | .min f | .max f | .minu f | .maxu f => pd true true f.pr
    | .clz f | .ctz f | .popc f | .abs f | .neg f | .sext f | .zext f => pd true false f.pr
    | .addi f | .muli f | .andimm f | .orimm f | .xorimm f | .shli f | .shri f | .srai f => pd true false f.pr
    | .agen f => pd true true f.pr
    | .cvtif f => pd true false f.pr
    | .cvtfi f => pd true false f.pr
    | .fadd f | .fsub f | .fmul f | .fdiv f | .fmin f | .fmax f => pd true true f.pr
    | .ld f | .lds f => match p with | .a => true | .b => false | .p => chain f.mode || byPr f.pr
    | .ldv f => match p with | .a => true | .b => false | .p => chain f.mode || byPr f.pr
    | .st f => match p with | .p => chain f.mode || byPr f.pr | _ => true
    | .stv f => match p with | .p => chain f.mode || byPr f.pr | _ => true
    | .ldl f => pd true false f.pr
    | .ldvl f => pd true false f.pr
    | .stl f => pd true true f.pr
    | .stvl f => pd true true f.pr
    | .chnop f => pd true false f.pr
    | .amo f => pd true true f.pr
    | .amol f => pd true true f.pr
    | .gath f => pd true false f.pr
    | .scat f => pd true true f.pr
    | .scata f => pd true true f.pr
    | .xcopy f | .xfill f | .xcomp f => pd true false f.pr
    | .pref f => pd true false f.pr
    | .synci f => pd true true f.pr
    | .waitg f => pd true true f.pr
    | .invr f => pd true true f.pr
    | .tfetch f => pd true false f.pr
    | .kvapp f => pd true true f.pr
    | .vadd f | .vsub f | .vmul f | .vdiv f | .vmin f | .vmax f | .vdot f => pd true true f.pr
    | .vsqrt f | .vrsq f | .vexp2 f | .vlog2 f => pd true false f.pr
    | .vabs f | .vneg f => pd true false f.pr
    | .vscale f => pd true true f.pr
    | .vcmp f => pd true true f.pr
    | .vred f | .vscan f => pd true false f.pr
    | .vbcast f | .vext f => pd true false f.pr
    | .vins f => pd true true f.pr
    | .vperm f => pd true true f.pr
    | .vshuf f => pd true false f.pr
    | .vcvt f => pd true false f.pr
    | .viadd f | .visub f | .vimul f | .viand f | .vior f | .vixor f | .vishl f | .vishr f | .visra f => pd true true f.pr
    | .vimin f | .vimax f => pd true true f.pr
    | .vpack f => pd true true f.pr
    | .vunpk f => pd true false f.pr
    | .vmask f => pd true false f.pr
    | .syscfg f | .mma f | .drain f | .sysrel f | .route f => pd true false f.pr
    | .wload f => pd true false f.pr
    | .tmul f => pd true true f.pr
    | .bind f | .attn f => pd true false f.pr
    | .patch f => pd true false f.pr
    | .pdom f | .pstep f | .psave f | .prest f => pd true false f.pr
    | .pwr f => pd true false f.pr
    | .pfeed f => pd true false f.pr
    | .prd f | .prdv f => pd true false f.pr
    | .tapcfg f => pd true false f.pr
    | .stap f => pd true true f.pr
    | .smpl f => pd true false f.pr
    | .seqc f => pd true true f.pr
    | .seqrd f => pd true false f.pr
    | _ => false

/-- The ports a slot of a block reads; a NOP or WRITE word reads none (R101). -/
def Inst.readsPort (i : Inst) (k : Nat) (p : Port) : Bool :=
  match i.word k with | some (.instr x) => Instr.reads x p | _ => false

/-- A fresh tile of a core, its payload value free among the live ones (R215). -/
def State.newTile (s : State) (core slot age : Nat) (fmt : Fmt) (elems : List Nat) (src : Option (Nat × Nat))
    (lines : List Nat) : Datum × State :=
  let (x, s) := s.draw (2 ^ 64)
  let id := freshFrom ((s.core core).tiles.map (·.id)) x
  (⟨fmt, false, BitVec.ofNat 512 (id % 2 ^ 64), some id⟩,
    s.modCore core fun k => { k with tiles := k.tiles ++ [⟨id, slot, age, fmt, elems, src, lines⟩] })

/-- DRAIN: one rectangle row, when the rows of its block are complete (R242, R244). -/
def execDrain (f : FT) (s : State) : Out :=
  station1 s f.pr [f.fmt] [f.t0, f.t1] fun c a =>
    match c.array? (FT.isRow f) with
    | none => need c.oldest <| c.raise FC.reservedField
    | some arr =>
      needSome (arr.accs.find? (·.age = c.age)) fun acc => need (arr.complete acc && decide (acc.place = .entry)) <|
        let r := f.row0.toNat - arr.row0
        let rt := arr.routes.getD (a.u64 % 16) (0, 0)
        match (c.targetFault rt.1 c.k c.inst.readsPort).orElse fun _ => c.targetFault rt.2 c.k c.inst.readsPort with
        | some code => c.raise code
        | none =>
          let ts := [f.t0, f.t1] ++ [rt.1, rt.2].filterMap Target.ofCode
          let drained := r :: acc.drained
          let upd (s : State) : State := s.modArray c.core arr fun x =>
            ({ x with accs := x.accs.map fun y => if y.age = c.age then { y with drained := drained } else y } : SysArray).takeIn 64
          if acc.feeds.any (·.tile) then
            need (c.s.core c.core).tileRoom <|
              let (d, s) := (upd c.s).newTile c.core c.slot c.age f.fmt ((List.range 16).flatMap fun n =>
                (List.range 16).map fun j => arr.drainElem acc f.fmt r j n) none []
              { c with s := s }.out ts (some d)
          else
            { c with s := upd c.s }.out ts (some (.vector f.fmt f.fmt.lane ((List.range 16).map fun j =>
              arr.drainElem acc f.fmt r j 0)))

/-- TMUL: one row by one tile, exact and rounded once (R245). -/
def execTmul (f : FTmul) (s : State) : Out :=
  station2 s f.pr [f.fmt] [f.t0, f.t1] fun c a b =>
    need (!(c.s.core c.core).arrays.any fun x => inRect x.row0 x.col0 x.nrow x.ncol (c.k / 8) (c.k % 8)) <|
      match (c.s.core c.core).tileOf b with
      | none => c.raise FC.reservedField
      | some t =>
        let ta := (c.s.core c.core).tileOf a
        if ta.isNone ∧ f.row0 ≠ 0 then c.raise FC.reservedField
        else
          let row (i : Nat) : EV := match ta with
            | some x => x.fmt.decode (x.elems.getD (16 * f.row0.toNat + i) 0)
            | none => a.evLane i
          c.out [f.t0, f.t1] (some (.fpVector f.fmt .rne fun j => EV.sum .rne ((List.range 16).map fun i =>
            (row i).mul (t.fmt.decode (t.elems.getD (16 * i + j) 0)))))

end Sys2Proof.Machine
end

