-- ==== Sys2Proof/Machine/Mapping.lean ====
section
/-! DEFINITION. Granting windows, fetching and mapping blocks: the ordered checks of R121 with the places of R408, and
the instance they make (R29 to R33, R357). -/

namespace Sys2Proof.Machine

/-- Whether a mode is the chain mode (R106). -/
def isChain : MemMode → Bool
  | .chain _ _ => true
  | _ => false

/-- The targets of a word (R100). -/
def instrTargets : Instr → List Target
  | .read f => [f.t0, f.t1]
  | .mov f | .nullI f | .join f => [f.t0, f.t1]
  | .mov4 f => [f.t0, f.t1, f.t2, f.t3]
  | .limm f => [f.t0]
  | .orhi f => [f.t0, f.t1]
  | .sel f => [f.t0, f.t1]
  | .csrr f | .csrw f | .csrx f => [f.t0, f.t1]
  | .fork f | .spawn f => [f.t0, f.t1]
  | .redt f => [f.t0, f.t1]
  | .launch f | .kvapp f => [f.t0, f.t1]
  | .waitc f => [f.t0, f.t1]
  | .teq f | .tne f | .tlt f | .tle f | .tltu f | .tleu f | .add f | .sub f | .mul f | .mulh f | .mulhu f | .div f | .divu f | .rem f | .remu f | .andI f | .orI f | .xorI f | .andn f | .shl f | .shr f | .sra f | .rotl f | .min f | .max f | .minu f | .maxu f | .clz f | .ctz f | .popc f | .abs f | .neg f | .sext f | .zext f | .vperm f | .viadd f | .visub f | .vimul f | .viand f | .vior f | .vixor f | .vishl f | .vishr f | .visra f => [f.t0, f.t1]
  | .teqi f | .tnei f | .tlti f | .tlei f | .tgti f | .tgei f | .tltui f | .tgtui f | .addi f | .muli f | .andimm f | .orimm f | .xorimm f | .shli f | .shri f | .srai f => [f.t0, f.t1]
  | .ftest f => [f.t0, f.t1]
  | .agen f => [f.t0, f.t1]
  | .cvtif f => [f.t0, f.t1]
  | .cvtfi f => [f.t0, f.t1]
  | .fadd f | .fsub f | .fmul f | .fdiv f | .fmin f | .fmax f | .vabs f | .vneg f | .vscale f => [f.t0, f.t1]
  | .ld f | .lds f => [f.t0, f.t1]
  | .ldv f => [f.t0, f.t1]
  | .ldl f => [f.t0, f.t1]
  | .ldvl f => [f.t0, f.t1]
  | .amo f => [f.t0, f.t1]
  | .amol f => [f.t0, f.t1]
  | .fence f => [f.t0, f.t1]
  | .gath f => [f.t0, f.t1]
  | .scat f => [f.t0, f.t1]
  | .scata f => [f.t0, f.t1]
  | .xcopy f | .xfill f | .xcomp f | .patch f | .seqc f => [f.t0, f.t1]
  | .pref f => [f.t0, f.t1]
  | .synci f => [f.t0, f.t1]
  | .waitg f => [f.t0, f.t1]
  | .invr f | .inva f => [f.t0, f.t1]
  | .tfetch f => [f.t0, f.t1]
  | .vadd f | .vsub f | .vmul f | .vdiv f | .vsqrt f | .vrsq f | .vmin f | .vmax f | .vexp2 f | .vlog2 f | .vdot f => [f.t0, f.t1]
  | .vfma f | .vfms f => [f.t0, f.t1]
  | .vcmp f => [f.t0, f.t1]
  | .vsel f => [f.t0, f.t1]
  | .vred f | .vscan f => [f.t0, f.t1]
  | .vbcast f | .vext f | .vins f => [f.t0, f.t1]
  | .vshuf f => [f.t0, f.t1]
  | .vcvt f => [f.t0, f.t1]
  | .vimin f | .vimax f => [f.t0, f.t1]
  | .vpack f => [f.t0, f.t1]
  | .vunpk f => [f.t0, f.t1]
  | .vmask f => [f.t0, f.t1]
  | .syscfg f | .mma f | .drain f | .sysrel f | .route f => [f.t0, f.t1]
  | .wload f => [f.t0, f.t1]
  | .tmul f => [f.t0, f.t1]
  | .bind f | .unbind f | .attn f => [f.t0, f.t1]
  | .pdom f | .pstep f | .psave f | .prest f => [f.t0, f.t1]
  | .pwr f => [f.t0, f.t1]
  | .prd f | .prdv f => [f.t0, f.t1]
  | .pfeed f => [f.t0, f.t1]
  | .tapcfg f | .tapst f => [f.t0, f.t1]
  | .stap f => [f.t0, f.t1]
  | .smpl f => [f.t0, f.t1]
  | .seqrd f => [f.t0, f.t1]
  | _ => []

/-- The LSID of a word that belongs in the store mask (R45, R118). -/
def maskLsid : Instr → Option Nat
  | .launch f | .kvapp f => some f.lsid.toNat
  | .ld f | .lds f => if isChain f.mode then some f.lsid.toNat else none
  | .st f => some f.lsid.toNat
  | .ldv f => if isChain f.mode then some f.lsid.toNat else none
  | .stv f => some f.lsid.toNat
  | .stl f => some f.lsid.toNat
  | .stvl f => some f.lsid.toNat
  | .chnop f => some f.lsid.toNat
  | .amo f => some f.lsid.toNat
  | .amol f => some f.lsid.toNat
  | .scat f => some f.lsid.toNat
  | .scata f => some f.lsid.toNat
  | .xcopy f | .xfill f | .xcomp f | .patch f | .seqc f => some f.lsid.toNat
  | .synci f => some f.lsid.toNat
  | .invr f | .inva f => some f.lsid.toNat
  | .bind f | .unbind f | .attn f => some f.lsid.toNat
  | .pdom f | .pstep f | .psave f | .prest f => some f.lsid.toNat
  | .pwr f => some f.lsid.toNat
  | .pfeed f => some f.lsid.toNat
  | .stap f => some f.lsid.toNat
  | .smpl f => some f.lsid.toNat
  | _ => none

/-- A chain access or CHNOP (R117). -/
def isChainAccess : Instr → Bool
  | .ld f | .lds f => isChain f.mode
  | .st f => isChain f.mode
  | .ldv f => isChain f.mode
  | .stv f => isChain f.mode
  | .chnop _ => true
  | _ => false

/-- The exit number of an exit instruction (R45, R109). -/
def exitNumber : Instr → Option Nat
  | .br f | .call f => some f.exit.toNat
  | .bri f | .ret f | .rett f | .endI f => some f.exit.toNat
  | _ => none

/-- The words that call for SY (R117). -/
def isSystolic : Instr → Bool
  | .syscfg _ | .mma _ | .drain _ | .sysrel _ | .route _ => true
  | .wload _ => true
  | _ => false

/-- The words that call for NS (R117). -/
def needsNs : Instr → Bool
  | .amo _ => true
  | .amol _ => true
  | .seqc _ => true
  | _ => false

/-- The words that call for PV: those marked C, and writes of CHAIR-level CSRs (R117, R292). -/
def needsPv : Instr → Bool
  | .rett _ => true
  | .csrw f | .csrx f => f.csr = .trapv || f.csr = .traps || f.csr = .trapba
  | .invr _ | .inva _ => true
  | .tapcfg _ => true
  | _ => false

/-- AMO and AMOL (R101). -/
def isAmo : Instr → Bool
  | .amo _ => true
  | .amol _ => true
  | _ => false

/-- NM1 + 1 words (R116). -/
def blockSize (h0 : Word) : Nat := bits h0.toNat 48 8 + 1

/-- NS (R116). -/
def hdrNs (h0 : Word) : Bool := bit h0.toNat 44

/-- TG (R116). -/
def hdrTg (h0 : Word) : Bool := bit h0.toNat 41

/-- PV (R116). -/
def hdrPv (h0 : Word) : Bool := bit h0.toNat 40

/-- The decoded slots of a block, a refused word as none. -/
def slotWords (words : List Word) : List (Option SlotWord) :=
  words.map fun w => match decode w with | .ok x => some x | .error _ => none

/-- The lowest slot whose word a check finds at fault. -/
def firstSlot (ws : List Word) (p : Nat → Word → Bool) : Option Nat :=
  (List.range ws.length).find? fun k => p k (ws.getD k 0)

/-- A target that is TARGET_RANGE (R101). -/
def targetRange (i : Inst) (k : Nat) (amo : Bool) : Target → Bool
  | .port p n => amo || decide (i.words.length ≤ n.toNat) || decide (n.toNat = k) || !i.readsPort n.toNat p
  | _ => false

/-- The instruction at a slot. -/
def Inst.instr (i : Inst) (k : Nat) : Option Instr :=
  match i.word k with | some (.instr x) => some x | _ => none

/-- The WRITE word at a slot. -/
def Inst.writeAt (i : Inst) (k : Nat) : Option (RegName × Nat) :=
  match i.word k with | some (.write r ws) => some (r, ws.toNat) | _ => none

/-- Whether a property of the instruction at a slot holds at some slot. -/
def Inst.anyInstr (i : Inst) (p : Instr → Bool) : Bool :=
  (List.range i.words.length).any fun k => match i.instr k with | some x => p x | none => false

/-- How many exit instructions a block holds (R45). -/
def Inst.exitCount (i : Inst) : Nat :=
  ((List.range i.words.length).filter fun k => ((i.instr k).bind exitNumber).isSome).length

/-- A word-level violation of check 6 (R121, R408). -/
def badWord (i : Inst) (k : Nat) : Bool :=
  let h := i.h0.toNat
  let earlier (p : Nat → Bool) : Bool := (List.range k).any p
  match i.word k with
  | some (.write r ws) =>
    !bit i.h1.toNat (32 + ws.toNat)
      || earlier fun j => match i.writeAt j with | some (r', w') => decide (r' = r) || decide (w' = ws.toNat) | none => false
  | some (.instr x) =>
    (match exitNumber x with
      | some n => decide (bits h 45 3 < n) || earlier fun j => (i.instr j).bind exitNumber == some n
      | none => false)
    || (match maskLsid x with | some l => !bit h l | none => false)
    || (isChainAccess x && !bit h 43) || (isSystolic x && !bit h 42) || (needsNs x && !bit h 44)
  | _ => false

/-- The ordered checks of a block when it is mapped, the strand at USER or not: the fault and its place
(R121, R408). -/
def mapCheck (i : Inst) (user : Bool) : Option FaultRec :=
  let h := i.h0.toNat
  let ws := i.words
  let err (e : DecodeError) (w : Word) : Bool := match decode w with | .error x => decide (x = e) | .ok _ => false
  let tgts (k : Nat) : List Target := match i.instr k with | some x => instrTargets x | none => []
  let amo (k : Nat) : Bool := match i.instr k with | some x => isAmo x | none => false
  let at? (code : Nat) (o : Option Nat) : Option FaultRec := o.map fun k => .atSlot code k
  let head (code : Nat) (b : Bool) : Option FaultRec := if b then some (.atSlot code 0) else none
  let or' (a : Option FaultRec) (b : Unit → Option FaultRec) : Option FaultRec := a.orElse b
  or' (head FC.badHeader (decide (bits h 56 8 ≠ 0xB1) || decide (128 < blockSize i.h0))) fun _ =>
  or' (head FC.reservedField (decide (bits h 32 8 ≠ 0) || decide (bits i.h1.toNat 0 32 ≠ 0))) fun _ =>
  or' (at? FC.illegalOpcode (firstSlot ws fun _ w => err .illegalOpcode w)) fun _ =>
  or' (at? FC.reservedField (firstSlot ws fun _ w => err .reservedField w)) fun _ =>
  or' (at? FC.targetRange (firstSlot ws fun k _ => (tgts k).any (targetRange i k (amo k)))) fun _ =>
  or' (at? FC.badHeader (firstSlot ws fun k _ => (tgts k).any fun
    | .wslot n => !bit i.h1.toNat (32 + n.toNat) | _ => false)) fun _ =>
  or' (at? FC.badHeader (firstSlot ws fun k _ => badWord i k)) fun _ =>
  or' (((List.range 32).find? fun l => bit h l && !i.anyInstr fun x => maskLsid x == some l).map fun l =>
    ⟨FC.badHeader, false, l, 0, 0⟩) fun _ =>
  or' (head FC.badHeader (
    ((List.range 32).any fun n => bit i.h1.toNat (32 + n) &&
      !((List.range ws.length).any fun k => match i.writeAt k with | some (_, w) => decide (w = n) | none => false))
    || decide (i.exitCount ≠ bits h 45 3 + 1)
    || (bit h 43 && !i.anyInstr isChainAccess) || (bit h 42 && !i.anyInstr isSystolic)
    || (bit h 43 && !bit h 44))) fun _ =>
  or' (at? FC.privilege (firstSlot ws fun k _ => (match i.instr k with | some x => needsPv x && !bit h 40 | none => false))) fun _ =>
  head FC.privilege (user && bit h 40)

/-- The ports that a slot needs before it fires (R36). -/
def portsNeeded (x : Instr) : List Port := [Port.a, Port.b, Port.p].filter (Instr.reads x)

/-- The matches complete at mapping: instructions that read no port and have no predicate (R102). -/
def startMatches (i : Inst) (slot pri : Nat) : List Match :=
  (List.range i.words.length).filterMap fun k =>
    match i.instr k with
    | some x => if (portsNeeded x).isEmpty then some ⟨slot, i.age, k, none, none, none, pri⟩ else none
    | none => none

/-- A block in flight with nothing done (R31). -/
def Inst.fresh (age uid ba win : Nat) (h0 h1 : Word) (words : List Word) : Inst :=
  { age := age, uid := uid, ba := ba, win := win, next := none, h0 := h0, h1 := h1, words := words, fired := [], ws := [],
    sat := [], stores := [], engs := [], kacts := [], waits := [], fences := [], acted := [], reads := [], exits := [],
    faults := [], dead := false, pinned := false, committing := false, bad := [] }

/-- Adding a block in flight to a slot, under the next age number (R31). -/
def State.addInst (s : State) (core slot : Nat) (f : Nat → Inst) : State :=
  s.modSlot core slot fun sl => { sl with insts := sl.insts ++ [f sl.nextAge], nextAge := sl.nextAge + 1 }

/-- Windows that no block and no grant of the slot holds. -/
def Slot.freeWindows (sl : Slot) : List Nat :=
  (List.range 8).filter fun w => !(sl.insts.any (·.win = w) || sl.grants.any (·.win = w))

/-- A block after which the front end does not run ahead: it holds RETT or FENCE kind=CODE (R206). -/
def Inst.endsSpeculation (i : Inst) : Bool :=
  i.anyInstr fun | .rett _ => true | .fence f => f.kind = .codeK | _ => false

/-- The block in flight whose tagged window a strand may join (R30). -/
def Slot.tagged (sl : Slot) (ba : Nat) : Option Inst :=
  sl.insts.find? fun i => decide (i.ba = ba) && hdrTg i.h0 && !i.words.isEmpty

/-- Whether a window may be granted to a strand for a block: its next block is known, at BA, or the front end runs ahead;
no older strand is ready first; a tagged window is joined once by a strand (R29, R30, R32). -/
def Slot.mayGrant (sl : Slot) (t : Strand) (uid ba : Nat) : Bool :=
  let mine := sl.instsOf uid
  let ready (u : Strand) : Bool := (sl.instsOf u.uid).isEmpty && !sl.grants.any (·.uid = u.uid)
  let older := (sl.strands.takeWhile (·.uid ≠ uid)).any ready
  !sl.stopped && !sl.grants.any (·.uid = uid) && decide (mine.length < 8) && !older && decide (ba % 16 = 0)
    && decide (ba < 2 ^ 64)
    && (if mine.isEmpty then decide (ba = t.ba.toNat)
        else (match mine.getLast? with | some i => i.next.isNone && !i.endsSpeculation && i.faults.isEmpty | none => false))
    && !((sl.tagged ba).isSome && mine.any (·.ba = ba))

/-- Whether the front end serves a slot before others: no slot of higher CTXPRI on its core has work of the same kind (R49). -/
def Core.serves (c : Core) (slot : Nat) (work : Slot → Bool) : Bool :=
  (List.range 4).all fun j => match c.slot? j, c.slot? slot with
    | some x, some sl => !(decide (sl.pri < x.pri) && work x)
    | _, _ => true

/-- Whether a window stands ready for a strand of a slot whose next block is known by commit (R29). -/
def Slot.grantWaits (sl : Slot) : Bool :=
  sl.strands.any fun t => (sl.instsOf t.uid).isEmpty && sl.mayGrant t t.uid t.ba.toNat
    && ((sl.tagged t.ba.toNat).isSome || !sl.freeWindows.isEmpty)

/-- Whether the launch of a slot is being evicted, so that nothing new is mapped or admitted (R362 step 1). -/
def State.stopping (s : State) (sl : Slot) : Bool := (s.launch? sl.launch).any (·.evict)

/-- WINDOW_GRANT: a free window to the oldest ready strand, whose next block is known by commit or predicted (R29, R30,
R32); a tagged window is joined (R30); slots are served in the order of CTXPRI (R49). -/
def execWindowGrant (core slot uid ba : Nat) (s : State) : Out :=
  needSome (s.slot? core slot) fun sl => needSome (sl.strand? uid) fun t =>
    need (sl.mayGrant t uid ba && !s.stopping sl && (s.core core).serves slot Slot.grantWaits) <|
      let last := (sl.instsOf uid).getLast?
      let go (w : Nat) : Out :=
        let s := match last with
          | some i => s.modInst core slot i.age fun i => { i with next := some ba }
          | none => s
        .next (s.modSlot core slot fun sl => { sl with grants := sl.grants ++ [⟨uid, ba, w, false⟩] })
      match sl.tagged ba with
      | some i => go i.win
      | none => needSome sl.freeWindows.head? go

/-- The doublewords of a block from its address (R116). -/
def blockAddrs (ba n : Nat) : List Nat := (List.range (n + 2)).map fun j => (ba + 8 * j) % 2 ^ 64

/-- The first doubleword of a list that may not be fetched, or their keys (R357). -/
def fetchKeys (s : State) (core : Nat) (sl : Slot) (user : Bool) : List Nat → Except (Nat × TransErr) (List (Nat × Nat))
  | [] => .ok []
  | va :: r =>
    match checkGlobal s core sl.chair sl.asid user .fetch va 8 with
    | .error e => .error (va, e)
    | .ok (gpa, key, _) => match fetchKeys s core sl user r with
      | .error e => .error e
      | .ok l => .ok ((gpa, key) :: l)

/-- The keys of a whole block: the header first, then as many words as it announces (R116, R357). -/
def fetchBlock (s : State) (core : Nat) (sl : Slot) (user : Bool) (ba : Nat) :
    Except (Nat × TransErr) (List (Nat × Nat)) :=
  match fetchKeys s core sl user [ba, (ba + 8) % 2 ^ 64] with
  | .error e => .error e
  | .ok hd =>
    let h0 := s.hbm.read ((hd.getD 0 (0, 0)).2) 8
    if bits h0 56 8 ≠ 0xB1 ∨ 127 < bits h0 48 8 then .ok hd
    else fetchKeys s core sl user (blockAddrs ba (bits h0 48 8 + 1))

/-- The decoded block that a core keeps for a grant (R308). -/
def Core.cached (k : Core) (sl : Slot) (g : Grant) : Option Decoded := k.code.find? fun d =>
  decide (d.chair = sl.chair) && decide (d.asid = sl.asid) && decide (d.ba = g.ba)

/-- The first grant of a slot whose block is still to be fetched, or no longer kept (R308, R357). -/
def Core.toFetch (k : Core) (sl : Slot) : Option Grant :=
  sl.grants.find? fun g => !g.fetched || (k.cached sl g).isNone

/-- The first fetched grant of a slot whose block may be mapped: one with NS waits until its strand has no other block in
flight (R33, R116), and one with TG until its strand has none in the tagged window (R30). -/
def Core.toMap (k : Core) (sl : Slot) : Option Grant := sl.grants.find? fun g => g.fetched && (match k.cached sl g with
  | some d => !(hdrNs d.h0 && !(sl.instsOf g.uid).isEmpty)
      && !(hdrTg d.h0 && (sl.tagged g.ba).isSome && (sl.instsOf g.uid).any (·.ba = g.ba))
  | none => false)

/-- The doublewords of a block as a fetch reads them: one that a load in progress is writing is its old value or its new
one, freely (R150). -/
def State.fetchWords (s : State) (chair : Nat) : List (Nat × Nat) → List Word × State
  | [] => ([], s)
  | (_, key) :: r =>
    let old := BitVec.ofNat 64 (s.hbm.read key 8)
    let (w, s) := match (s.chair chair).loadWords.find? (·.1 = key / 8) with
      | some x => let (n, s) := s.draw 2; (if n = 1 then x.2 else old, s)
      | none => (old, s)
    let (ws, s) := s.fetchWords chair r
    (w :: ws, s)

/-- BLOCK_FETCH: the granted block is checked and fetched; a failed fetch records its fault, or is held (R357). -/
def execBlockFetch (core slot : Nat) (s : State) : Out :=
  needSome (s.slot? core slot) fun sl => need (!s.stopping sl && (s.core core).serves slot fun x =>
      ((s.core core).toFetch x).isSome) <|
    needSome ((s.core core).toFetch sl) fun g => needSome (sl.strand? g.uid) fun t =>
      let shell (f : Inst → Inst) : State :=
        (s.modSlot core slot fun sl => { sl with grants := sl.grants.filter (·.uid ≠ g.uid) }).addInst core slot
          fun age => f { Inst.fresh age g.uid g.ba g.win 0 0 [] with dead := true }
      match fetchBlock s core sl (!t.priv) g.ba with
      | .error (va, e) =>
        let noted (x : State) : State := x.noteTrans e
        match e.stage with
        | none => .next (noted (shell fun i => { i with faults := [⟨e.code, true, 0, va, 0⟩] }))
        | some st =>
          .next (noted ((shell id).perfEvent core sl.chair 0x07 1) |>.modCore core fun k =>
            { k with held := k.held ++ [⟨slot, sl.nextAge, 0, none, va, false, 0, st, .again⟩] })
      | .ok keys =>
        let (dws, s) := s.fetchWords sl.chair keys
        let bad := (((blockAddrs g.ba keys.length).zip keys).find? fun p => s.poisoned p.2.2 8).map (·.1)
        let entry : Decoded := ⟨sl.chair, sl.asid, g.ba, dws.getD 0 0, dws.getD 1 0, dws.drop 2, bad⟩
        let s := if ((s.core core).cached sl g).isSome then s else
          let s := s.modCore core fun k => { k with code := k.code ++ [entry] }
          if bad.isSome then s.modErr core 2 fun e => e.defer g.ba else s
        .next (s.modSlot core slot fun sl => { sl with grants := sl.grants.map fun x =>
          if x.uid = g.uid then { x with fetched := true } else x })

/-- BLOCK_MAPPING: the fetched block becomes a block in flight under an age number; the ordered checks are made and
what needs no token is ready (R31, R33, R121). A block with TG joins the window that holds it, where one does (R30). -/
def execBlockMapping (core slot : Nat) (s : State) : Out :=
  needSome (s.slot? core slot) fun sl =>
    need (!s.stopping sl && (s.core core).serves slot fun x => ((s.core core).toMap x).isSome) <|
    needSome ((s.core core).toMap sl) fun g =>
      needSome ((s.core core).cached sl g) fun d => needSome (sl.strand? g.uid) fun t =>
        let win := if hdrTg d.h0 then (match sl.tagged g.ba with | some x => x.win | none => g.win) else g.win
        let i := Inst.fresh sl.nextAge g.uid g.ba win d.h0 d.h1 d.words
        let flt : Option FaultRec := match d.poison with
          | some va => some ⟨FC.uncorrectable, true, 0, va, 0⟩
          | none => mapCheck i (!t.priv)
        let s := s.modSlot core slot fun sl => { sl with grants := sl.grants.filter (·.uid ≠ g.uid) }
        let s := s.addInst core slot fun age => { i with age := age, faults := flt.toList, dead := flt.isSome }
        if flt.isSome then .next s
        else .next (s.modCore core fun k => { k with ready := k.ready ++ startMatches i slot sl.pri })

/-- DECODED_BLOCK_EVICTION: a build drops an entry when it likes (R308). -/
def execDecodedBlockEviction (core n : Nat) (s : State) : Out :=
  need (decide (n < (s.core core).code.length)) <|
    .next (s.modCore core fun k => { k with code := k.code.eraseIdx n })

/-- L1_TLB_ENTRY_DROP: a build drops an entry when it likes (R334). -/
def execL1TlbEntryDrop (core n : Nat) (s : State) : Out :=
  need (decide (n < (s.core core).tlb.length)) <|
    .next (s.modCore core fun k => { k with tlb := k.tlb.eraseIdx n })

end Sys2Proof.Machine
end

