-- ==== Sys2Proof/Machine/Cabinet.lean ====
section
/-! DEFINITION. Tokens in Cabinets and chests: arrival, injection, swaps (R38, R40 to R44, R305 to R307, R400). -/

namespace Sys2Proof.Machine

/-- The Cabinet row of a token: its slot's row (R305). -/
def NetTok.row (t : NetTok) : Nat := t.k / 8

/-- The set of a token in its row (R305); 16 where its block is gone. -/
def Core.tokSet (c : Core) (t : NetTok) : Nat :=
  match (c.slot? t.slot).bind fun sl => (sl.inst? t.age).bind fun i => (sl.strand? i.uid).map fun st =>
      setOf st.tag t.k i.win t.slot t.port with
  | some x => x
  | none => 16

/-- Same block, slot and port. -/
def NetTok.sameKey (a b : NetTok) : Bool := a.slot = b.slot && a.age = b.age && a.k = b.k && a.port = b.port

/-- Same block and slot. -/
def NetTok.sameSlot (a b : NetTok) : Bool := a.slot = b.slot && a.age = b.age && a.k = b.k

/-- The ports the consumer of a token needs. -/
def Core.portsOf (c : Core) (t : NetTok) : List Port :=
  match (c.slot? t.slot).bind fun sl => (sl.inst? t.age).bind (·.instr t.k) with
  | some x => portsNeeded x
  | none => []

/-- Whether a token completes a match with resident entries (R40). -/
def Core.completes (c : Core) (t : NetTok) : Bool :=
  (c.portsOf t).all fun p => decide (p = t.port) || c.cab.any fun e => e.sameSlot t && decide (e.port = p)

/-- The match that a token completes. -/
def Core.matchOf (c : Core) (t : NetTok) : Match :=
  let tok (p : Port) : Option Tok :=
    if p = t.port then some t.tok else (c.cab.find? fun e => e.sameSlot t && decide (e.port = p)).map (·.tok)
  let ps := c.portsOf t
  let get (p : Port) := if ps.contains p then tok p else none
  ⟨t.slot, t.age, t.k, get .a, get .b, get .p, match c.slot? t.slot with | some sl => sl.pri | none => 0⟩

/-- Entries of a set of a row. -/
def Core.inSet (c : Core) (row set : Nat) : List NetTok := c.cab.filter fun e => decide (e.row = row) && decide (c.tokSet e = set)

/-- Entries of a context slot in a row. -/
def Core.inRow (c : Core) (slot row : Nat) : List NetTok := c.cab.filter fun e => decide (e.row = row) && decide (e.slot = slot)

/-- CABQ.QUOTA of the context in a slot (R294). -/
def Core.quota (c : Core) (i : Nat) : Nat := match c.slot? i with | some sl => sl.quota | none => 0

/-- Whether the set of a token has a free way and its context a free entry in the row (R40, R400). -/
def Core.hasRoom (c : Core) (t : NetTok) : Bool :=
  decide ((c.inSet t.row (c.tokSet t)).length < 8) && decide ((c.inRow t.slot t.row).length < c.quota t.slot)

/-- A token goes to its context's chest, or raises CHEST_FULL against its block and is dropped (R40, R43, R218). -/
def State.spill (s : State) (core : Nat) (t : NetTok) : State :=
  s.chestTake core t.slot t.age 1 fun s => match s.slot? core t.slot with
    | none => s
    | some sl => (s.modCore core fun k => { k with chest := k.chest ++ [t] }).perfEvent core sl.chair 0x05 1

/-- A token meets its set: it completes a match, takes a free way under its quota, or spills (R38, R40). -/
def State.arrive (s : State) (core : Nat) (t : NetTok) : State :=
  let c := s.core core
  match (c.slot? t.slot).bind (·.inst? t.age) with
  | none => s
  | some i =>
    if i.dead ∨ i.fired.contains t.k then s
    else if c.ready.any fun m => m.slot = t.slot && m.age = t.age && m.k = t.k then
      let (x, s) := s.draw 2
      if x = 0 then s
      else s.modCore core fun k => { k with ready := k.ready.map fun m =>
        if m.slot = t.slot ∧ m.age = t.age ∧ m.k = t.k then
          (match t.port with | .a => { m with a := some t.tok } | .b => { m with b := some t.tok } | .p => { m with p := some t.tok })
        else m }
    else if (c.cab ++ c.chest).any (·.sameKey t) then
      let (x, s) := s.draw 2
      if x = 0 then s
      else
        let sub (l : List NetTok) := l.map fun e => if e.sameKey t then { e with tok := t.tok } else e
        s.modCore core fun k => { k with cab := sub k.cab, chest := sub k.chest }
    else if c.completes t then
      let bad := t.poison || c.cab.any fun e => e.sameSlot t && e.poison
      let s := s.modCore core fun k =>
        { k with cab := k.cab.filter fun e => !e.sameSlot t, ready := if bad then k.ready else k.ready ++ [c.matchOf t] }
      if bad then (s.modErr core 1 (·.consume 1)).record core t.slot t.age (.plain FC.uncorrectable) else s
    else if c.hasRoom t then s.modCore core fun k => { k with cab := k.cab ++ [t] }
    else s.spill core t

/-- A token that a swap injects completes its match, takes an entry of its set, or, where ways or quota are still full,
goes back to its chest (R41, R42, R400). -/
def State.swapIn (s : State) (core : Nat) (t : NetTok) : State :=
  if (s.core core).completes t then s.arrive core t
  else if (s.core core).hasRoom t then s.modCore core fun k => { k with cab := k.cab ++ [t] }
  else s.spill core t

/-- TOKEN_ARRIVAL (R40). -/
def execTokenArrival (core n : Nat) (s : State) : Out :=
  needSome ((s.core core).net[n]?) fun t =>
    .next ((s.modCore core fun k => { k with net := k.net.eraseIdx n }).arrive core t)

/-- When a swap in a row last served a context (R42). The count belongs to the context slot: a context that takes a slot
inherits it, which no rule settles (log entry 79). -/
def Core.lastServed (c : Core) (row slot : Nat) : Nat :=
  match c.swapAge.find? fun x => x.1 = row && x.2.1 = slot with | some x => x.2.2 | none => 0

/-- Chest tokens of a context for a set of a row, or of all contexts. -/
def Core.chestFor (c : Core) (row set : Nat) : List NetTok :=
  c.chest.filter fun e => decide (e.row = row) && decide (c.tokSet e = set)

/-- The oldest of some tokens (R31). -/
def oldestTok (l : List NetTok) : Option NetTok :=
  l.foldl (fun b t => match b with | none => some t | some x => if t.age < x.age then some t else some x) none

/-- The candidate context of a set: highest CTXPRI, then least recently served in the row, then lowest slot (R42). -/
def Core.candidate (c : Core) (row set : Nat) : Option Nat :=
  let pri (i : Nat) : Nat := match c.slot? i with | some sl => sl.pri | none => 0
  ((List.range 4).filter fun i => (c.chestFor row set).any (·.slot = i)).foldl (fun b i =>
    match b with
    | none => some i
    | some x => if pri x < pri i ∨ (pri x = pri i ∧ c.lastServed row i < c.lastServed row x) then some i else some x) none

/-- CHEST_INJECTION: a token that completes a match; or, where a way of its set and its quota are free, the oldest token of
the candidate context for the set, or the oldest of its context for the row among those whose sets have a way (R41, R400,
log entry 78). -/
def execChestInjection (core n : Nat) (s : State) : Out :=
  let c := s.core core
  needSome (c.chest[n]?) fun t =>
    let set := c.tokSet t
    let ofSet := oldestTok ((c.chestFor t.row set).filter (·.slot = t.slot)) == some t && c.candidate t.row set == some t.slot
    let ofRow := oldestTok (c.chest.filter fun e => decide (e.slot = t.slot) && decide (e.row = t.row) && c.hasRoom e) == some t
    need (c.completes t || (c.hasRoom t && (ofSet || ofRow))) <|
      .next ((s.modCore core fun k => { k with chest := k.chest.eraseIdx n }).arrive core t)

/-- CTXPRI of the context in a slot of a core. -/
def Core.pri (c : Core) (i : Nat) : Nat := match c.slot? i with | some sl => sl.pri | none => 0

/-- The victim of a swap in a set: of the resident context of lowest CTXPRI, the highest slot on a tie, the entry of the
youngest block (R42). -/
def Core.victim (c : Core) (row set : Nat) : Option NetTok :=
  let ways := c.inSet row set
  let low := ways.foldl (fun b e => if c.pri e.slot < c.pri b ∨ (c.pri e.slot = c.pri b ∧ b < e.slot) then e.slot else b)
    (match ways.head? with | some e => e.slot | none => 0)
  (ways.filter (·.slot = low)).foldl (fun b e => match b with
    | none => some e | some x => if x.age < e.age then some e else some x) none

/-- SWAP in a full set; a context that it does not take an entry from stays within its CABQ (R42, R400). -/
def execSwap (core row set : Nat) (s : State) : Out :=
  let c := s.core core
  needSome (c.candidate row set) fun cs =>
    needSome (oldestTok ((c.chestFor row set).filter (·.slot = cs))) fun t =>
      needSome (c.victim row set) fun v =>
        let quota := c.completes t || decide (v.slot = cs) || decide ((c.inRow cs row).length < c.quota cs)
        need (decide ((c.inSet row set).length = 8) && decide (c.pri v.slot ≤ c.pri cs) && decide (t.age < v.age) && quota) <|
          let served (k : Core) := (row, cs, k.swapClock + 1) :: k.swapAge.filter fun x => x.1 ≠ row || x.2.1 ≠ cs
          let s := s.modCore core fun k =>
            { k with cab := k.cab.erase v, chest := k.chest.erase t, swapClock := k.swapClock + 1, swapAge := served k }
          let s := s.spill core v
          let s := match s.slot? core cs with | some sl => s.perfEvent core sl.chair 0x06 1 | none => s
          .next (s.swapIn core t)

/-- QUOTA_SWAP: the context at its limit in a row; entry `n` of its youngest resident block leaves (R400). -/
def execQuotaSwap (core slot row n : Nat) (s : State) : Out :=
  let c := s.core core
  let res := c.inRow slot row
  needSome (c.slot? slot) fun sl =>
    needSome (oldestTok (c.chest.filter fun e => decide (e.slot = slot) && decide (e.row = row))) fun t =>
      let young := res.foldl (fun b e => max b e.age) 0
      needSome ((res.filter (·.age = young))[n]?) fun v =>
        need (decide (sl.quota ≤ res.length) && decide (t.age < young)) <|
          let s := s.modCore core fun k => { k with cab := k.cab.erase v, chest := k.chest.erase t }
          let s := (s.spill core v).perfEvent core sl.chair 0x06 1
          .next (s.swapIn core t)

end Sys2Proof.Machine
end

