-- ==== Sys2Proof/Machine/Access.lean ====
section
/-! DEFINITION. Accesses that are performed and applied, and waits that come to hold (R171 to R175, R191 to R195, R206,
R213, R279 to R285, R320). -/

namespace Sys2Proof.Machine

/-- The scope of an acquire, where an instruction is one; JOIN, WAITC and collect acquire at POD (R172, R175, R176, R195,
R213, R277). -/
def acquireScope : Instr → Option Scope
  | .ld f | .lds f => match f.mode with | .sync _ => some f.sc | _ => none
  | .ldv f => match f.mode with | .sync _ => some f.sc | _ => none
  | .amo f => if f.ord = .acq || f.ord = .acqrel then some f.sc else none
  | .amol f => if f.ord = .acq || f.ord = .acqrel then some (if f.core then .core else .strand) else none
  | .join _ | .waitc _ => some .pod
  | .waitg f => some f.sc
  | .seqrd f => some f.sc
  | .redt f => if f.collect then some .pod else none
  | _ => none

/-- Whether an instruction is an acquire for some other strand: one of STRAND scope orders nothing that another agent
sees (R193, R282). With `relaxed`, one of CORE scope is left out as well. -/
def isAcquire (relaxed : Bool) (x : Instr) : Bool :=
  match acquireScope x with
  | none | some .strand => false
  | some .core => !relaxed
  | _ => true

/-- The LSID of an acquire that takes a place in its block, where it carries one. -/
def acquireLsid : Instr → Option Nat
  | .ld f | .lds f => some f.lsid.toNat
  | .ldv f => some f.lsid.toNat
  | .amo f => some f.lsid.toNat
  | .amol f => some f.lsid.toNat
  | .waitg f => some f.lsid.toNat
  | .seqrd f => some f.lsid.toNat
  | _ => none

/-- The LSID of a load, chain loads among them (R189, R207, R215, R277). -/
def loadLsid : Instr → Option Nat
  | .ld f | .lds f => some f.lsid.toNat
  | .ldv f => some f.lsid.toNat
  | .ldl f => some f.lsid.toNat
  | .ldvl f => some f.lsid.toNat
  | .gath f => some f.lsid.toNat
  | .tfetch f => some f.lsid.toNat
  | .seqrd f => some f.lsid.toNat
  | _ => none

/-- The LSID of a store or atomic (R189, R204). -/
def storeLsid : Instr → Option Nat
  | .st f => some f.lsid.toNat
  | .stv f => some f.lsid.toNat
  | .stl f => some f.lsid.toNat
  | .stvl f => some f.lsid.toNat
  | .amo f => some f.lsid.toNat
  | .amol f => some f.lsid.toNat
  | _ => none

/-- The kinds of fence that hold loads behind stores (R206). -/
def holdsLoads (k : FenceKind) : Bool := decide (k = .full) || decide (k = .codeK)

/-- The kinds of fence that hold stores back (R206). -/
def holdsStores (k : FenceKind) : Bool := decide (k ≠ .acq)

/-- Program order of a strand: an earlier block, or a lower LSID of the same (R279). -/
def before (age lsid age' lsid' : Nat) : Bool := decide (age < age') || (decide (age = age') && decide (lsid < lsid'))

/-! ### Chains: frontiers (R199) -/

/-- The number that names no access: none in a frontier, the wildcard in a triple (R107, R199). -/
def noOwn : Nat := 0xFFFFFFFF

/-- A chain's frontier (R199). -/
def State.frontier (s : State) (chair chain : Nat) : Frontier :=
  (s.frontiers.find? fun f => decide (f.chair = chair) && decide (f.chain = chain)).getD ⟨chair, chain, noOwn, noOwn⟩

/-- Whether an access is applicable (R199). -/
def Frontier.applicable (f : Frontier) (t : Triple) : Bool :=
  (decide (t.pred ≠ noOwn) && decide (t.pred = f.lastOwn)) || (decide (f.lastSucc ≠ noOwn) && decide (f.lastSucc = t.own))

/-- Whether a waiting chain access is applicable now (R199). -/
def State.applicable (s : State) (d : DEntry) : Bool := (s.frontier d.chair d.chain).applicable d.triple

/-- Whether a chain store of the strand earlier in program order is still to be applied: it waits in a Dresser, or is on
its way there (R200, R203, R327). -/
def State.chainBefore (s : State) (core slot uid age lsid : Nat) : Bool :=
  (s.dressers.any fun d => d.core = core && d.slot = slot && d.uid = uid && d.store.isSome && before d.age d.lsid age lsid)
    || match s.slot? core slot with
      | some sl => (s.core core).chainOut.any fun m => m.slot = slot && m.store.isSome && before m.age m.lsid age lsid
          && (match sl.inst? m.age with | some i => decide (i.uid = uid) | none => false)
      | none => false

/-! ### What a block can still do -/

/-- Whether stores of a block before an LSID wait for the block's own commit (R192, R285). -/
def State.ownStoreBefore (s : State) (core slot : Nat) (i : Inst) (lsid : Nat) : Bool :=
  i.stores.any (·.lsid < lsid)
    || s.dressers.any (fun d => d.core = core && d.slot = slot && d.age = i.age && d.store.isSome && decide (d.lsid < lsid))
    || (s.core core).chainOut.any fun m => m.slot = slot && m.age = i.age && m.store.isSome && decide (m.lsid < lsid)

/-- Whether a load at an LSID of a block waits for what only the block's own commit brings: a store before a fence of kind
FULL or CODE, or an acquiring atomic (R195, R204, R285). -/
def State.behindCommit (s : State) (core slot : Nat) (i : Inst) (lsid : Nat) : Bool :=
  i.fences.any (fun f => decide (f.lsid < lsid) && holdsLoads f.kind && s.ownStoreBefore core slot i f.lsid)
    || i.stores.any fun p => p.acq && decide (p.sc ≠ .strand) && decide (p.lsid < lsid)

/-- Whether the emission of a fence waits for what only its own block's commit brings (R206, R285). -/
def State.fenceStuck (s : State) (core slot : Nat) (i : Inst) (kind : FenceKind) (lsid : Nat) : Bool :=
  (holdsStores kind && s.ownStoreBefore core slot i lsid)
    || (s.core core).loads.any fun l => l.slot = slot && l.age = i.age && decide (l.lsid < lsid)
        && s.behindCommit core slot i l.lsid

/-- Whether a complete match is a DRAIN whose array still lacks rows of its block, so that it cannot fire (R242). -/
def Core.lacksRows (c : Core) (i : Inst) (m : Match) : Bool :=
  match i.instr m.k with
  | some (.drain f) => match c.arrays.find? fun a => decide (a.slot = m.slot) && FT.isRow f a with
    | some arr => !((arr.accs.find? (·.age = i.age)).any arr.complete)
    | none => false
  | _ => false

/-- Whether matches that can fire, or tokens, of a block are left. A DRAIN that lacks rows waits for what the rest of its
block may still send, and is nothing in flight itself (R48, R242). -/
def State.tokensLeft (s : State) (core slot : Nat) (i : Inst) : Bool :=
  let c := s.core core
  c.ready.any (fun m => m.slot = slot && m.age = i.age && !c.lacksRows i m)
    || c.net.any (fun t => t.slot = slot && t.age = i.age) || c.chest.any fun t => t.slot = slot && t.age = i.age

/-- Whether something of a block can still make a slot fire: matches, tokens, waits, held faults (R48). -/
def State.inFlight (s : State) (core slot : Nat) (i : Inst) : Bool :=
  s.tokensLeft core slot i || (s.core core).held.any (fun h => h.slot = slot && h.age = i.age)
    || i.waits.any fun w => match w.what with
      | .fence kind _ => !s.fenceStuck core slot i kind w.lsid
      | _ => true

/-- Whether a slot of a block that has not fired, at an LSID, can still fire before what follows it: matches or tokens are
left, or an access or wait before that LSID may still answer (log entry 16). -/
def State.mayFeed (s : State) (core slot : Nat) (i : Inst) (lsid : Nat) : Bool :=
  let c := s.core core
  s.tokensLeft core slot i || c.held.any (fun h => h.slot = slot && h.age = i.age && decide (h.lsid < lsid))
    || c.loads.any (fun l => l.slot = slot && l.age = i.age && decide (l.lsid < lsid))
    || i.waits.any fun w => match w.what with
      | .fence kind _ => decide (w.lsid < lsid) && !s.fenceStuck core slot i kind w.lsid
      | .waitg _ _ _ => decide (w.lsid < lsid)
      | _ => true

/-! ### Acquires and fences -/

/-- Whether the access that slot `k` of a block sent is still at a port: a load to be performed, or one held there. -/
def Core.atPort (c : Core) (slot age k : Nat) : Bool :=
  c.loads.any (fun l => l.slot = slot && l.age = age && l.k = k) || c.held.any fun h => h.slot = slot && h.age = age && h.k = k

/-- Whether an atomic of a committing block is still to be applied (R204). -/
def Slot.amoWaits (sl : Slot) (age : Nat) (p : PStore → Bool) : Bool :=
  sl.post.any fun q => q.age = age && match q.act with | .store x => x.amo.isSome && p x | _ => false

/-- Whether an acquire at a slot has been applied: it has fired and waits for nothing (R195). -/
def Core.acquired (c : Core) (slot : Nat) (sl : Slot) (i : Inst) (k : Nat) : Bool :=
  i.fired.contains k && !c.atPort slot i.age k && !i.waits.any (·.k = k) && !i.stores.any (·.k = k)
    && !sl.amoWaits i.age (·.k = k)

/-- Whether a load of a block, or of an older block of its strand, stands before an LSID and is still to be performed or
may still fire (R206). -/
def State.loadsBefore (s : State) (core slot : Nat) (sl : Slot) (i : Inst) (lsid : Nat) : Bool :=
  let c := s.core core
  let older (age : Nat) : Bool := (sl.olderOf i).any (·.age = age)
  let unfired (j : Inst) (p : Nat → Bool) : Bool := (List.range j.words.length).any fun k =>
    match (j.instr k).bind loadLsid with | some l => p l && !j.fired.contains k | none => false
  c.loads.any (fun l => l.slot = slot && ((decide (l.age = i.age) && decide (l.lsid < lsid)) || older l.age))
    || c.held.any (fun h => h.slot = slot && !h.wr && ((decide (h.age = i.age) && decide (h.lsid < lsid)) || older h.age))
    || (unfired i (fun l => decide (l < lsid)) && s.mayFeed core slot i lsid)
    || (sl.olderOf i).any fun j => unfired j fun _ => true

/-- Whether a block may still fire a store or atomic whose LSID passes a test (R191). -/
def storesUnfired (j : Inst) (p : Nat → Bool) : Bool :=
  (List.range 32).any fun l => p l && bit j.h0.toNat l && !j.sat.contains l && j.anyInstr fun x => storeLsid x == some l

/-- Whether a store of a block, or of the strand before it, stands before an LSID and is still to be applied or may still
fire (R206). -/
def State.storesBefore (s : State) (core slot : Nat) (sl : Slot) (i : Inst) (lsid : Nat) : Bool :=
  s.ownStoreBefore core slot i lsid || (storesUnfired i (fun l => decide (l < lsid)) && s.mayFeed core slot i lsid)
    || (sl.olderOf i).any (fun j => !j.stores.isEmpty || storesUnfired j fun _ => true)
    || sl.post.any (fun p => p.uid = i.uid && before p.age p.lsid i.age lsid) || s.chainBefore core slot i.uid i.age lsid

/-- Whether a fence of a block holds back a load that follows it: ACQ until the loads before it are performed, FULL and
CODE until the stores before it are applied as well. A fence of STRAND scope orders nothing that another agent sees, but
a load behind a store of its own block stays held (R206, R282, R285). -/
def State.fenceHolds (s : State) (core slot : Nat) (sl : Slot) (i : Inst) (f : OrderMark) : Bool :=
  if f.sc = .strand then holdsLoads f.kind && s.ownStoreBefore core slot i f.lsid
  else decide (f.kind ≠ .rel) && (s.loadsBefore core slot sl i f.lsid || (holdsLoads f.kind && s.storesBefore core slot sl i f.lsid))

/-- Fences of a block that a load at `lsid` (or after the block, with none) must respect, and that are not yet met; one
that has not fired, and still may, holds it too (R206). -/
def State.fenceBlocks (s : State) (core slot : Nat) (sl : Slot) (i : Inst) (lsid : Option Nat) : Bool :=
  let after (n : Nat) : Bool := match lsid with | some m => decide (n < m) | none => true
  i.fences.any (fun f => after f.lsid && s.fenceHolds core slot sl i f)
    || (List.range i.words.length).any fun k => match i.instr k with
      | some (.fence f) => after f.lsid.toNat && decide (f.kind ≠ .rel) && decide (f.sc ≠ .strand) && !i.fired.contains k
          && (lsid.isNone || s.mayFeed core slot i f.lsid.toNat)
      | _ => false

/-- Whether an older block or an earlier acquire or fence holds a load back (R191, R195, R206); with `relaxed`, acquires of
CORE scope are left out (R282). -/
def State.loadHeldBack (s : State) (core slot : Nat) (sl : Slot) (i : Inst) (lsid : Nat) (relaxed : Bool) : Bool :=
  let c := s.core core
  let olderHolds (j : Inst) : Bool :=
    (List.range j.words.length).any (fun k => match j.instr k with
      | some x => isAcquire relaxed x && !c.acquired slot sl j k
      | none => false)
    || s.fenceBlocks core slot sl j none || j.words.isEmpty
  let ownHolds : Bool :=
    (List.range i.words.length).any (fun k => match i.instr k with
      | some x => isAcquire relaxed x && !c.acquired slot sl i k && (match acquireLsid x with
          | some n => decide (n < lsid) && (i.fired.contains k || s.mayFeed core slot i n)
          | none => false)
      | none => false)
    || s.fenceBlocks core slot sl i (some lsid)
  (sl.olderOf i).any olderHolds || ownHolds
    || sl.post.any fun p => p.uid = i.uid && (match p.act with | .fence k sc => holdsLoads k && decide (sc ≠ .strand) | _ => false)

/-- Where a store acts: its partition offset, or its memory key. -/
def PStore.base (p : PStore) : Nat := if p.loc then p.va else (match p.phys with | some (_, k) => k | none => 0)

/-- Whether a store touches bytes that a load part reads. -/
def PStore.touches (p : PStore) (loc : Bool) (a n : Nat) : Bool :=
  p.loc = loc && (p.loc || p.phys.isSome) && decide (a < p.base + p.bytes) && decide (p.base < a + n)

/-- The stores and atomics of a block in LSID order. -/
def Inst.storesInOrder (i : Inst) : List PStore := (List.range 32).flatMap fun l => i.stores.filter (·.lsid = l)

/-- The stores of the strand before a block that are not applied, in program order: committed ones, then those of older
blocks (R191, R279). -/
def Slot.priorStores (sl : Slot) (i : Inst) : List PStore :=
  (sl.post.filterMap fun p => if p.uid = i.uid then (match p.act with | .store x => some x | _ => none) else none)
    ++ (sl.olderOf i).flatMap (·.storesInOrder)

/-- What loads of the strand after a load in program order took from homes when they were performed before it (R191). -/
def Slot.laterReads (sl : Slot) (i : Inst) (lsid : Nat) : List HomeRead :=
  let inOrder (j : Inst) : List HomeRead := (List.range 32).flatMap fun l => j.reads.filter (·.lsid = l)
  (inOrder i).filter (fun r => decide (lsid < r.lsid))
    ++ ((sl.instsOf i.uid).filter fun j => decide (i.age < j.age)).flatMap inOrder

/-- The byte that pending stores leave at an address: that of the last of them that covers it (R191). -/
def fwdByte (ps : List PStore) (loc : Bool) (a : Nat) : Option Nat :=
  ps.foldl (fun v p => if p.touches loc a 1 then some (bits p.data.toNat (8 * (a - p.base)) 8) else v) none

/-- A byte that a load reads: from a pending store before it; else as the first later load that was performed already read
it, so that loads of one address are performed in program order; else from memory (R191). -/
def loadByte (ps : List PStore) (rs : List HomeRead) (loc : Bool) (mem : Nat → Nat) (a : Nat) : Nat :=
  match fwdByte ps loc a with
  | some b => b
  | none => (rs.findSome? fun r => if r.loc = loc then (r.bytes.find? (·.1 = a)).map (·.2) else none).getD (mem a)

/-- `n` bytes from an address, little-endian. -/
def gatherBytes (get : Nat → Nat) (a : Nat) : Nat → Nat
  | 0 => 0
  | n + 1 => get a + 256 * gatherBytes get (a + 1) n

/-- The bytes among `n` that no pending store gave, each with its address. -/
def homeBytes (ps : List PStore) (loc : Bool) (a v : Nat) : Nat → List (Nat × Nat)
  | 0 => []
  | n + 1 => (if (fwdByte ps loc a).isSome then [] else [(a, v % 256)]) ++ homeBytes ps loc (a + 1) (v / 256) n

/-- The token of a performed load (R189, R190, R207, R277). -/
def loadToken (l : PLoad) : Tok :=
  let v := (l.parts.head?.bind (·.got)).getD 0
  let n := match l.parts.head? with | some p => p.bytes | none => 0
  some (match l.form with
    | .zext => .int v
    | .sext => .int (sextN v (8 * n))
    | .vector => ⟨.int, true, BitVec.ofNat 512 v, none⟩
    | .gath lanes => .vector .int 64 ((List.range 8).map fun i =>
        match lanes.idxOf? i with | some j => ((l.parts[j]?).bind (·.got)).getD 0 | none => 0)
    | .tile _ _ _ => .zero
    | .seqrd _ => .int v)

/-- The elements of a tile from its 16-byte parts (R215). -/
def tileElems (fmt : Fmt) (parts : List LoadPart) : List Nat :=
  let per := 128 / fmt.lane
  (List.range 256).map fun e => bits (((parts[e / per]?).bind (·.got)).getD 0) (fmt.lane * (e % per)) fmt.lane

/-- Removing a load from its port. -/
def State.dropLoad (s : State) (core : Nat) (l : PLoad) : State :=
  s.modCore core fun k => { k with loads := k.loads.filter fun x => !(x.slot = l.slot && x.age = l.age && x.k = l.k) }

/-- A load whose every part has its bytes leaves its port: its data goes to the targets of its word. -/
def State.loadReturn (s : State) (core chair : Nat) (l : PLoad) : State :=
  let s := s.dropLoad core l
  match (s.slot? core l.slot).bind fun sl => (sl.inst? l.age).bind (·.instr l.k) with
  | none => s
  | some x =>
    match l.form with
    | .tile fmt va st =>
      let (d, s) := s.newTile core l.slot l.age fmt (tileElems fmt l.parts) (some (va, st)) (l.lines chair)
      s.emit core l.slot l.age (instrTargets x) (some d)
    | _ => s.emit core l.slot l.age (instrTargets x) (loadToken l)

/-- A load leaves its port with a fault recorded; a local offset is no virtual address (R296). -/
def State.loadFault (s : State) (core : Nat) (l : PLoad) (code va : Nat) : State :=
  (s.dropLoad core l).record core l.slot l.age (.access code l.lsid (if l.loc then 0 else va))

/-- A load held at its port by a replayable fault, to be performed again on a wake (R197, R198). -/
def State.loadHeld (s : State) (core chair : Nat) (l : PLoad) (st va : Nat) : State :=
  (s.perfEvent core chair 0x07 1).modCore core fun k =>
    { k with held := k.held ++ [⟨l.slot, l.age, l.k, none, va, false, l.lsid, st, .again⟩] }

/-- Where a part of a global load is read: by the translation that it holds, or by a fresh walk (R198). -/
def State.partPlace (s : State) (core : Nat) (sl : Slot) (user : Bool) (p : LoadPart) : Trans (Nat × Nat) :=
  match p.phys with
  | some x => .ok x
  | none => match checkGlobal s core sl.chair sl.asid user .load p.va 1 with
    | .ok r => .ok (r.1, r.2.1)
    | .error e => .error e

/-- Performing one part of a load at its home or bank: the part with its bytes, or the part and its failure (R191, R198,
R316). -/
def performPart (s : State) (core : Nat) (sl : Slot) (i : Inst) (user : Bool) (l : PLoad) (p : LoadPart) :
    Except (LoadPart × TransErr) LoadPart :=
  let read (mem : Nat → Nat) (a : Nat) : Nat :=
    gatherBytes (loadByte (sl.priorStores i) (sl.laterReads i l.lsid) l.loc mem) a p.bytes
  if l.loc then
    if s.poisonedLocal core sl p.va p.bytes then .error (p, .fault FC.uncorrectable)
    else .ok { p with got := some (read (fun a => s.readLocal core sl a 1) p.va) }
  else
    match s.partPlace core sl user p with
    | .error e => .error (p, e)
    | .ok (gpa, key) =>
      if s.poisoned key p.bytes then .error ({ p with phys := some (gpa, key) }, .fault FC.uncorrectable)
      else .ok { p with phys := some (gpa, key), got := some (read (fun a => (s.hbm.get a).toNat) key) }

/-- Performing parts in order, up to the first that fails. -/
def performParts (s : State) (core : Nat) (sl : Slot) (i : Inst) (user : Bool) (l : PLoad) :
    List LoadPart → Except (LoadPart × TransErr) (List LoadPart)
  | [] => .ok []
  | p :: r =>
    match performPart s core sl i user l p with
    | .error e => .error e
    | .ok q => match performParts s core sl i user l r with
      | .error e => .error e
      | .ok qs => .ok (q :: qs)

/-- Counting the poison that a part of a load consumed, where it lies (R349, R351). -/
def State.countConsumed (s : State) (core : Nat) (sl : Slot) (l : PLoad) (p : LoadPart) (e : TransErr) : State :=
  if e ≠ .fault FC.uncorrectable then s.noteTrans e
  else if l.loc then s.ueLocal core sl p.va p.bytes
  else match p.phys with
    | some (_, key) => s.ueGlobal (s.poisonWords key p.bytes)
    | none => s

/-- Where a part of a load reads, for a comparison with a store: its offset or its key. -/
def State.partBase (s : State) (core : Nat) (sl : Slot) (user : Bool) (l : PLoad) (p : LoadPart) : Option Nat :=
  if l.loc then some p.va else match s.partPlace core sl user p with | .ok x => some x.2 | .error _ => none

/-- Whether a store touches bytes of a load. -/
def State.storeTouches (s : State) (core : Nat) (sl : Slot) (user : Bool) (l : PLoad) (p : PStore) : Bool :=
  l.parts.any fun q => match s.partBase core sl user l q with | some a => p.touches l.loc a q.bytes | none => false

/-- Whether the order of its strand leaves a load free, acquires and fences aside: it is no chain load and not held, and no
older store or atomic that could cover it is still to come (R191); and whether no release of CORE scope that it could
read, as an acquire, still waits for what precedes it (R194, R282). -/
def State.loadFree (s : State) (core : Nat) (sl : Slot) (i : Inst) (user : Bool) (l : PLoad) : Bool :=
  let touched (p : PStore) : Bool := s.storeTouches core sl user l p
  l.chain.isNone && !(s.core core).held.any (fun h => h.slot = l.slot && h.age = l.age && h.k = l.k)
    && !(sl.olderOf i).any (fun j => storesUnfired j (fun _ => true)
        || j.stores.any fun p => (p.amo.isSome && touched p) || (!p.loc && p.phys.isNone))
    && !sl.post.any (fun q => q.uid = i.uid && match q.act with | .store p => p.amo.isSome && touched p | _ => false)
    && !(l.acq && decide (l.sc ≠ .strand) && (s.core core).slots.any fun o => match o with
      | some x => x.post.any fun q => match q.act with | .early p => touched p | _ => false
      | none => false)

/-- Whether a load may be performed (R191, R195, R206). -/
def State.mayPerform (s : State) (core : Nat) (sl : Slot) (i : Inst) (user : Bool) (l : PLoad) : Bool :=
  s.loadFree core sl i user l && !s.loadHeldBack core l.slot sl i l.lsid false

/-- Whether a load that only acquires of CORE scope hold back may read its bytes ahead of them, as an agent of another core
may see it do (R282, log entry 17). -/
def State.mayPreread (s : State) (core : Nat) (sl : Slot) (i : Inst) (user : Bool) (l : PLoad) : Bool :=
  l.pre.isEmpty && !l.acq && s.loadFree core sl i user l && !s.loadHeldBack core l.slot sl i l.lsid true

/-- What loads of a core read ahead is given up once an agent of the core has stored (R282, log entry 17). -/
def State.dropPre (s : State) (core : Nat) : State :=
  s.modCore core fun k => { k with loads := k.loads.map fun l => { l with pre := [] } }

/-- What loads of a strand read ahead is given up once one of its loads has been performed (R191). -/
def State.dropPreOf (s : State) (core slot : Nat) (sl : Slot) (uid : Nat) : State :=
  let mine (l : PLoad) : Bool := decide (l.slot = slot) && (sl.instsOf uid).any (·.age = l.age)
  s.modCore core fun k => { k with loads := k.loads.map fun l => if mine l then { l with pre := [] } else l }

/-- The ranges of a load that are performed together: one lane of GATH, freely chosen, else all (R191, R207). -/
def State.pickParts (s : State) (l : PLoad) : List LoadPart × State :=
  let todo := l.parts.filter fun p => p.got.isNone && p.bad.isNone
  match l.form with
  | .gath _ => let (x, s) := s.draw todo.length; ((todo[x]?).toList, s)
  | _ => (todo, s)

/-- A load with the bytes of the ranges performed. -/
def PLoad.fill (l : PLoad) (done : List LoadPart) : PLoad :=
  { l with parts := l.parts.map fun p => match done.find? (·.va = p.va) with
      | some q => if p.got.isNone then q else p
      | none => p }

/-- Whether a load is GATH, whose lanes fault one by one (R207). -/
def PLoad.isGath (l : PLoad) : Bool := match l.form with | .gath _ => true | _ => false

/-- A load with the fault of the lanes at an address. -/
def PLoad.spoil (l : PLoad) (va code : Nat) : PLoad :=
  { l with parts := l.parts.map fun p => if p.va = va ∧ p.got.isNone then { p with bad := some code } else p }

/-- Load `n` of a core's ports with what it has: while lanes are open it stays; then it returns, or the fault of its lowest
faulting lane is recorded (R207). -/
def State.loadSettle (s : State) (core chair n : Nat) (l : PLoad) : State :=
  if l.parts.all fun p => p.got.isSome || p.bad.isSome then
    match l.parts.findSome? fun p => p.bad.map fun c => (p.va, c) with
    | some (va, c) => s.loadFault core l c va
    | none => s.loadReturn core chair l
  else s.modCore core fun k => { k with loads := k.loads.set n l }

/-- A load that a fault has met: a lane of GATH waits for the others, anything else is recorded at once (R196, R207). -/
def State.loadFails (s : State) (core chair n : Nat) (l : PLoad) (code va : Nat) : State :=
  if l.isGath then s.loadSettle core chair n (l.spoil va code) else s.loadFault core l code va

/-- Load `n` of a core's ports with ranges that have their bytes; what came from homes is kept for loads before it. -/
def State.loadGets (s : State) (core n : Nat) (sl : Slot) (i : Inst) (l : PLoad) (done : List LoadPart) : State :=
  let base (p : LoadPart) : Nat := if l.loc then p.va else match p.phys with | some x => x.2 | none => 0
  let home := done.flatMap fun p => homeBytes (sl.priorStores i) l.loc (base p) (p.got.getD 0) p.bytes
  let s := s.modInst core l.slot l.age fun i => { i with reads := i.reads ++ [⟨l.lsid, l.loc, home⟩] }
  (s.loadSettle core sl.chair n (l.fill done)).dropPreOf core l.slot sl i.uid

/-- What performing some ranges of load `n` of a core's ports leaves: its fault, the load held, or the load with its bytes,
which leaves its port once it has them all. -/
def State.loadPerform (s : State) (core n : Nat) (sl : Slot) (i : Inst) (user : Bool) (l : PLoad) (pick : List LoadPart) : State :=
  match performParts s core sl i user l pick with
  | .error (p, e) =>
    let s := s.countConsumed core sl l p e
    match e.stage with
    | some st => s.loadHeld core sl.chair l st p.va
    | none => s.loadFails core sl.chair n l e.code p.va
  | .ok done => s.loadGets core n sl i l done

/-- A load that reads ahead of acquires of CORE scope keeps what it read (R282, log entry 17). -/
def State.loadPreread (s : State) (core n : Nat) (sl : Slot) (i : Inst) (user : Bool) (l : PLoad) : Out :=
  match performParts s core sl i user l (l.parts.filter fun p => p.got.isNone && p.bad.isNone) with
  | .error _ => .fault .notEnabled
  | .ok done => .next (s.modCore core fun k => { k with loads := k.loads.set n { l with pre := done } })

/-- LOAD_PERFORMED: load `n` of a core's ports is performed, one lane at a time for GATH (R191, R207); what it read ahead
may stand (R282). -/
def execLoadPerformed (core n : Nat) (s : State) : Out :=
  let c := s.core core
  needSome (c.loads[n]?) fun l => needSome (s.slot? core l.slot) fun sl => needSome (sl.inst? l.age) fun i =>
    needSome (sl.strand? i.uid) fun t =>
      if s.mayPerform core sl i (!t.priv) l then
        let (x, s) := if l.pre.isEmpty then (0, s) else s.draw 2
        if x = 1 then .next (s.loadGets core n sl i l l.pre)
        else
          let (pick, s) := s.pickParts l
          .next (s.loadPerform core n sl i (!t.priv) l pick)
      else need (s.mayPreread core sl i (!t.priv) l) <| s.loadPreread core n sl i (!t.priv) l

/-- The bytes of an atomic's result (R204). -/
def amoNew (op : AmoOp) (w : IW) (old : Nat) (data : Payload) : Nat :=
  let b := w.bits
  let n := bits data.toNat 0 b
  match op with
  | .add => (old + n) % 2 ^ b
  | .and => old &&& n
  | .or => old ||| n
  | .xor => old ^^^ n
  | .min => if sint old b ≤ sint n b then old else n
  | .max => if sint old b ≤ sint n b then n else old
  | .minu => Nat.min old n
  | .maxu => Nat.max old n
  | .swp => n
  | .cas => if old = bits data.toNat b b then n else old
  | .fadd32 => (EV.add .rne (fp32 old) (fp32 n)).round .fp32 .rne

/-- The value an atomic leaves in its write slot (R204). -/
def amoOld (op : AmoOp) (w : IW) (old : Nat) : Datum :=
  match op with | .fadd32 => .scalar .fp32 old | _ => .int (sextN old w.bits)

/-- Applying one store or atomic at its home or bank; the old bytes come back. A store to an unreachable package is
lost and counted (R280, R385). -/
def State.applyStore (s : State) (core : Nat) (sl : Slot) (p : PStore) : State × Nat :=
  if p.loc then
    let old := s.readLocal core sl p.va p.bytes
    let v := match p.amo with | some (op, w) => amoNew op w old p.data | none => p.data.toNat
    (s.storeLocal core sl p.va p.bytes v, old)
  else
    match p.phys with
    | none => (s, 0)
    | some (gpa, key) =>
      let old := s.hbm.read key p.bytes
      let v := match p.amo with | some (op, w) => amoNew op w old p.data | none => p.data.toNat
      if s.lost key then (s.modErr core 0 fun e => e.defer gpa, old)
      else (s.storeGlobal sl.chair gpa key p.bytes v, old)

/-- REL of an engine command, implied for INVR and INVA (R211, R217, R247). -/
def engRel : Instr → Bool
  | .xcopy f | .xfill f | .xcomp f | .patch f | .seqc f => f.rel
  | .scat f => f.rel
  | .scata f => f.rel
  | .kvapp f | .launch f => f.rel
  | .bind f | .unbind f | .attn f => f.rel
  | .pdom f | .pstep f | .psave f | .prest f => f.rel
  | .pwr f => f.rel
  | .pfeed f => f.rel
  | .stap f => f.rel
  | .smpl f => f.rel
  | .invr _ | .inva _ => true
  | _ => false

/-- Whether an earlier engine command of the strand that issued with REL = 1 is incomplete (R194). -/
def Core.relEngine (c : Core) (slot uid age lsid : Nat) : Bool :=
  c.engs.any fun e => e.slot = slot && e.uid = uid && before e.age e.lsid age lsid && engRel e.instr

/-- Whether two stores share a byte. -/
def PStore.overlap (p q : PStore) : Bool :=
  q.touches p.loc p.base p.bytes

/-- Whether a store or atomic is a release for some other strand (R193, R194, R282). -/
def PStore.release (p : PStore) : Bool := p.rel && decide (p.sc ≠ .strand)

/-- Whether an atomic is an acquire for some other strand (R195, R204, R282). -/
def PStore.acquire (p : PStore) : Bool := p.acq && decide (p.sc ≠ .strand)

/-- Whether an entry of the committed order of a strand holds back a store that follows it: one that shares a byte, a fence
of kind REL, FULL or CODE, an acquire, or a release of the same block (R194, R195, R206, R281). -/
def Post.holds (q : Post) (age : Nat) (st : PStore) : Bool :=
  match q.act with
  | .fence k sc => holdsStores k && decide (sc ≠ .strand)
  | .early _ => false
  | .store x => x.overlap st || x.acquire || (x.release && decide (q.age = age))

/-- Whether everything before a place in the committed order of a strand has been applied: its stores, its chain stores and
its engine commands that issued with REL = 1 (R194). -/
def State.allBefore (s : State) (core slot : Nat) (earlier : List Post) (p : Post) : Bool :=
  earlier.isEmpty && !s.chainBefore core slot p.uid p.age p.lsid && !(s.core core).relEngine slot p.uid p.age p.lsid

/-- A release of CORE scope that stores: agents of other cores may see it before what precedes it (R282). -/
def PStore.coreRelease (p : PStore) : Bool := p.rel && decide (p.sc = .core) && p.amo.isNone

/-- Whether an atomic that acquires reads a release of CORE scope that still waits for what precedes it (R282). -/
def Core.readsEarly (c : Core) (st : PStore) : Bool :=
  st.acquire && c.slots.any fun o => match o with
    | some x => x.post.any fun q => match q.act with | .early p => p.overlap st | _ => false
    | none => false

/-- Whether entry `n` of the committed order of a slot may take effect (R194, R195, R206, R281, R282). -/
def State.mayApply (s : State) (core slot : Nat) (sl : Slot) (n : Nat) (p : Post) : Bool :=
  let earlier := (sl.post.take n).filter (·.uid = p.uid)
  match p.act with
  | .fence _ sc => decide (sc = .strand) || (earlier.isEmpty && !s.chainBefore core slot p.uid p.age p.lsid)
  | .early _ => s.allBefore core slot earlier p
  | .store st =>
    !earlier.any (·.holds p.age st) && !(s.core core).readsEarly st
      && (!st.release || st.coreRelease || s.allBefore core slot earlier p)

/-- An atomic's old value goes to the write slots of its block, which is committing (R118, R204). -/
def State.amoReturn (s : State) (core slot age : Nat) (p : PStore) (old : Nat) : State :=
  match p.amo with
  | some (op, w) => s.modInst core slot age fun i =>
      { i with ws := i.ws.map fun x => if p.targets.contains x.1 then (x.1, some (amoOld op w old)) else x }
  | none => s

/-- Whether a store reads poisoned bytes, as an atomic does (R316). -/
def State.amoPoisoned (s : State) (core : Nat) (sl : Slot) (p : PStore) : Bool :=
  p.amo.isSome && (if p.loc then s.poisonedLocal core sl p.va p.bytes
    else match p.phys with | some (_, k) => s.poisoned k p.bytes | none => false)

/-- The fault of an atomic that consumes poison, counted where the poison lies (R204, R316, R349). -/
def State.amoFault (s : State) (core slot age : Nat) (sl : Slot) (p : PStore) : State :=
  let s := if p.loc then s.ueLocal core sl p.va p.bytes
    else match p.phys with | some (_, key) => s.ueGlobal (s.poisonWords key p.bytes) | none => s
  s.record core slot age (.access FC.uncorrectable p.lsid (if p.loc then 0 else p.va))

/-- STORE_APPLIED: entry `n` of a slot's committed order is applied, or, for a fence, passed (R280, R281). A release of CORE
scope that is applied ahead of what precedes it keeps its place until that is applied (R282). -/
def execStoreApplied (core slot n : Nat) (s : State) : Out :=
  needSome (s.slot? core slot) fun sl => needSome (sl.post[n]?) fun p =>
    need (s.mayApply core slot sl n p) <|
      let drop (s : State) : State := s.modSlot core slot fun x => { x with post := x.post.eraseIdx n }
      match p.act with
      | .fence _ _ => .next (drop s)
      | .early _ => .next ((drop s).dropPre core)
      | .store st =>
        if s.amoPoisoned core sl st then
          -- poison that came after the checks of commit: the rest of the block takes no effect (log entry 27)
          .next ((s.modSlot core slot fun x => { x with post := x.post.filter (·.age ≠ p.age) }).amoFault core slot p.age sl st)
        else
          let keep := st.coreRelease && !s.allBefore core slot ((sl.post.take n).filter (·.uid = p.uid)) p
          let s' := if keep then s.modSlot core slot fun x => { x with post := x.post.set n { p with act := .early st } }
            else drop s
          let (t, old) := s'.applyStore core sl st
          .next ((t.dropPre core).amoReturn core slot p.age st old)

/-- A wait of a block and its place. -/
def State.wait? (s : State) (core slot age k : Nat) : Option (Slot × Inst × WaitRec × List Target) :=
  (s.slot? core slot).bind fun sl => (sl.inst? age).bind fun i => (i.waits.find? (·.k = k)).bind fun w =>
    (i.instr k).map fun x => (sl, i, w, instrTargets x)

/-- A wait ends. -/
def State.endWait (s : State) (core slot age k : Nat) : State :=
  s.modInst core slot age fun i => { i with waits := i.waits.filter (·.k ≠ k) }

/-- The answer of JOIN and collect to a handle that names no live record (R172, R175). -/
def noRecord : Datum := .int (2 ^ 64 - 1)

/-- Whether every iteration of a fork has ended (R171). -/
def ForkRec.allEnded (r : ForkRec) : Bool := r.ended.length = r.n

/-- Waiting for a fork: the record once every iteration has ended, none where no record is live; the block's mark on the
record decides whose commit releases it (R172, R399). -/
def forkWait (s : State) (core slot age k : Nat) (sl : Slot) (i : Inst) (h : Nat) (ts : List Target)
    (val : ForkRec → Datum) : Out :=
  need (sl.isOldest i) <|
    match sl.forks.find? (·.handle = h) with
    | none => .next ((s.endWait core slot age k).emit core slot age ts (some noRecord))
    | some r => need r.allEnded <|
        let s := (s.endWait core slot age k).modInst core slot age fun i => { i with kacts := i.kacts ++ [(k, .release h)] }
        let mark (x : ForkRec) : ForkRec :=
          if x.handle = h ∧ ¬ x.joined.contains age then { x with joined := x.joined ++ [age] } else x
        let s := s.modSlot core slot fun sl => { sl with forks := sl.forks.map mark }
        .next (s.emit core slot age ts (some (val r)))

/-- JOIN_SATISFIED (R172). -/
def execJoinSatisfied (core slot age k : Nat) (s : State) : Out :=
  needSome (s.wait? core slot age k) fun x =>
    match x with
    | (sl, i, ⟨_, _, .join h⟩, ts) => forkWait s core slot age k sl i h ts fun r => .int r.n
    | _ => .fault .notEnabled

/-- The identity of an integer reduction at width `w` (R94). -/
def IntRedIdent (op : IntRed) (w : Nat) : Int :=
  match op with
  | .add | .or | .xor | .maxu => 0
  | .min => (2 ^ (w - 1) : Nat) - 1
  | .max => -(2 ^ (w - 1) : Nat)
  | .minu => (2 ^ w : Nat) - 1
  | .and => -1

/-- A node of an integer reduction: wrap at each node (R175). -/
def IntRedNode (op : IntRed) (w : Nat) (x y : Int) : Int :=
  sint (wrapN (match op with
    | .add => x + y
    | .min => min x y
    | .max => max x y
    | .minu => if wrapN x w ≤ wrapN y w then x else y
    | .maxu => if wrapN x w ≤ wrapN y w then y else x
    | .and => (wrapN x w &&& wrapN y w : Nat)
    | .or => (wrapN x w ||| wrapN y w : Nat)
    | .xor => (wrapN x w ^^^ wrapN y w : Nat)) w) w

/-- The result of a collect over the contributions of ordinals 0 to n − 1 (R175). -/
def collectResult (op : RedOp) (r : ForkRec) : Datum :=
  let get (j : Nat) : Option Datum := (r.contrib.find? (·.1 = j)).map (·.2)
  let lv := clog2 r.n
  match op with
  | .int o w =>
    let x (j : Nat) : Int := match get j with | some d => d.sintOf w.bits | none => sint (wrapN (IntRedIdent o w.bits) w.bits) w.bits
    .intResult (pairwise x (IntRedNode o w.bits) lv 0) w.bits
  | _ =>
    let (ident, node) : EV × (EV → EV → EV) := match op with
      | .fadd rm => (.rat true 0 1, fun x y => (EV.add rm x y).rnd32 rm)
      | .fmin => (.inf false, EV.choose false)
      | _ => (.inf true, EV.choose true)
    let x (j : Nat) : EV := match get j with | some d => d.evOf | none => ident
    .scalar .fp32 ((pairwise x node lv 0).round .fp32 .rne)

/-- REDT_COLLECT_SATISFIED (R175). -/
def execRedtCollectSatisfied (core slot age k : Nat) (s : State) : Out :=
  needSome (s.wait? core slot age k) fun x =>
    match x with
    | (sl, i, ⟨_, _, .collect op h⟩, ts) => forkWait s core slot age k sl i h ts (collectResult op)
    | _ => .fault .notEnabled

/-- WAITC_SATISFIED (R176, R320). -/
def execWaitcSatisfied (core slot age k : Nat) (s : State) : Out :=
  needSome (s.wait? core slot age k) fun x =>
    match x with
    | (sl, i, ⟨_, _, .waitc h rep⟩, ts) =>
      match s.handleState sl.chair h with
      | none => .next ((s.endWait core slot age k).waitcNone core slot age rep ts)
      | some none => .fault .notEnabled
      | some (some w) => .next ((s.endWait core slot age k).waitcEmit core slot age sl.chair h rep ts w)
    | _ => .fault .notEnabled

/-- WAITG_SATISFIED: GEN once wrap(GEN − g, 24) < 2^23; the read waits as an acquire load does (R195, R213). -/
def execWaitgSatisfied (core slot age k : Nat) (s : State) : Out :=
  needSome (s.wait? core slot age k) fun x =>
    match x with
    | (sl, i, ⟨_, lsid, .waitg off g _⟩, ts) =>
      let gen := bits (s.readLocal core sl off 8) 40 24
      need (!s.loadHeldBack core slot sl i lsid false) <|
        if s.poisonedLocal core sl off 16 then
          .next (((s.endWait core slot age k).ueLocal core sl off 16).record core slot age (.access FC.uncorrectable lsid 0))
        else need (decide (wrapN ((gen : Int) - g) 24 < 2 ^ 23)) <|
          .next ((s.endWait core slot age k).emit core slot age ts (some (.int gen)))
    | _ => .fault .notEnabled

/-- FENCE_EMISSION: what the kind waits for has been performed or applied (R206). -/
def execFenceEmission (core slot age k : Nat) (s : State) : Out :=
  needSome (s.wait? core slot age k) fun x =>
    match x with
    | (sl, i, ⟨_, lsid, .fence kind _⟩, ts) =>
      need (!s.loadsBefore core slot sl i lsid
          && (!holdsStores kind || (sl.isOldest i && !s.storesBefore core slot sl i lsid))) <|
        .next ((s.endWait core slot age k).emit core slot age ts (some (.int 0)))
    | _ => .fault .notEnabled

/-- ITERATION_END: every store of the ended strand has been applied, chain stores included (R171, R398). -/
def execIterationEnd (core slot uid : Nat) (s : State) : Out :=
  needSome (s.slot? core slot) fun sl => needSome (sl.ending.find? (·.uid = uid)) fun e =>
    need (!sl.post.any (·.uid = uid) &&
      !s.dressers.any fun d => d.core = core && d.slot = slot && d.uid = uid && d.store.isSome) <|
      .next (s.modSlot core slot fun sl =>
        let forks := sl.forks.map fun r => if some r.idx = e.fork then { r with ended := r.ended ++ [e.ord] } else r
        -- a record whose creator has ended is released when its last iteration ends (R170)
        { sl with ending := sl.ending.filter (·.uid ≠ uid),
                  forks := forks.filter fun r => !(r.allEnded && (sl.strand? r.creator).isNone) })

end Sys2Proof.Machine
end

