-- ==== Sys2Proof/Machine/Commit.lean ====
section
/-! DEFINITION. Discarding, committing and faulting blocks in flight: the commit condition, the five steps of commit,
quiescence, and taking a fault (R26, R32, R35, R45 to R48, R155, R162, R168 to R175, R198, R236, R297, R365, R395). The act of commit itself is in
Sys2Proof/Machine/Issue.lean, after the engines whose commands it issues. -/

namespace Sys2Proof.Machine

/-! ### Discarding -/

/-- What a core holds for a block in flight, dropped (R32, R46 step 5). -/
def Core.dropBlock (k : Core) (slot age : Nat) : Core :=
  let keepTok (t : NetTok) : Bool := !(t.slot = slot && t.age = age)
  { k with net := k.net.filter keepTok, cab := k.cab.filter keepTok, chest := k.chest.filter keepTok,
           ready := k.ready.filter fun m => !(m.slot = slot && m.age = age),
           loads := k.loads.filter fun l => !(l.slot = slot && l.age = age),
           chainOut := k.chainOut.filter fun m => !(m.slot = slot && m.age = age),
           held := k.held.filter fun h => !(h.slot = slot && h.age = age),
           tiles := k.tiles.filter fun t => !(t.slot = slot && t.age = age),
           arrays := k.arrays.map fun a => if a.slot = slot then
             ({ a with accs := a.accs.filter (·.age ≠ age) } : SysArray).takeIn 64 else a }

/-- Entries whose word has been emitted go once the WAITCs of some blocks wait no more (R320). -/
def State.settleWaits (s : State) (chair : Nat) (is : List Inst) : State :=
  is.foldl (fun s i => i.waits.foldl (fun s w => match w.what with
    | .waitc h _ => s.settleHandle chair h
    | _ => s) s) s

/-- A block that goes has completed no JOIN: its mark leaves every fork record, and a record whose other marks are of blocks
that have committed is released (R170, R399). -/
def Slot.unjoin (sl : Slot) (age : Nat) : Slot :=
  let left (r : ForkRec) : List Nat := r.joined.filter (· ≠ age)
  let gone (r : ForkRec) : Bool := r.joined.contains age && match (left r).head? with
    | some a => (sl.inst? a).isNone
    | none => false
  { sl with forks := (sl.forks.filter fun r => !gone r).map fun r => { r with joined := left r } }

/-- Discarding a block in flight: its tokens, loads, reservations, faults, waits and completion entries go (R32, R200,
R320). -/
def State.discard (s : State) (core slot age : Nat) : State :=
  match s.slot? core slot with
  | none => s
  | some sl =>
    match sl.inst? age with
    | none => s
    | some i =>
      let free (l : List CqEntry) := i.engs.foldl (fun l e => modEntry l slot e.cq e.seq fun x => { x with st := .free }) l
      let s := s.modCore core fun k => { (k.dropBlock slot age) with cq := free k.cq }
      let s := { s with dressers := s.dressers.filter fun d =>
        !(d.core = core && d.slot = slot && d.age = age && !d.committed) }
      let s := s.modSlot core slot fun sl => ({ sl with insts := sl.insts.filter (·.age ≠ age) } : Slot).unjoin age
      (s.settleWaits sl.chair [i]).perfEvent core sl.chair 0x03 1

/-- Discarding every block of a strand from an age on, and its grant (R32). -/
def State.discardFrom (s : State) (core slot uid age : Nat) : State :=
  match s.slot? core slot with
  | none => s
  | some sl =>
    let s := ((sl.instsOf uid).filter fun i => age ≤ i.age).foldl (fun s i => s.discard core slot i.age) s
    s.modSlot core slot fun sl => { sl with grants := sl.grants.filter (·.uid ≠ uid) }

/-! ### The commit condition and what commit checks -/

/-- The commit condition of R46. -/
def Inst.meets (i : Inst) : Bool :=
  (List.range 32).all (fun l => !bit i.h0.toNat l || i.sat.contains l)
    && (List.range 32).all (fun n => !bit i.h1.toNat (32 + n) || i.ws.any (·.1 = n))
    && decide (i.exits.length = 1)

/-- The K-class acts of a block in slot order. -/
def Inst.actsInOrder (i : Inst) : List (Nat × KAct) := (List.range 128).flatMap fun k => i.kacts.filter (·.1 = k)

/-- The engine commands of a block in LSID order, those of null ports left out. -/
def Inst.engsInOrder (i : Inst) : List PEng := (List.range 32).flatMap fun l => i.engs.filter fun e => e.lsid = l && !e.nul

/-- The byte of the carve-out that holds a chair's grant of probe `p` (R340). -/
def Chair.probeByte (c : Chair) (p : Nat) : Nat := c.chprb.toNat + p / 8

/-- The byte of the carve-out that holds a chair's grant of policy slot `p` (R340). -/
def Chair.policyByte (c : Chair) (p : Nat) : Nat := c.chpol.toNat + p / 8

/-- Whether a bit of a grant is set; a poisoned word of grants grants nothing (R340, log entry 77). -/
def State.granted (s : State) (a p : Nat) : Bool := (s.poisonWords a 1).isEmpty && bit (s.hbm.get a).toNat (p % 8)

/-- Whether probe `p` is among a chair's grants (R340). -/
def State.probeGranted (s : State) (chair p : Nat) : Bool := s.granted ((s.chair chair).probeByte p) p

/-- What reading a grant consumed is a machine check to the service (R316, R350, R393). -/
def State.noteGrant (s : State) (a : Nat) : State := s.noteCarve (s.poisonWords a 1)

/-- Whether a chair holds the steering grant (R299). -/
def State.steerGranted (s : State) (chair : Nat) : Bool := bit (s.chair chair).chgrant.toNat 0

/-- Whether policy slot `p` is among a chair's grants (R340). -/
def State.policyGranted (s : State) (chair p : Nat) : Bool := s.granted ((s.chair chair).policyByte p) p

/-- The grant check of a tap value at commit: it passes when EN is 0 (R270). -/
def State.tapOk (s : State) (chair : Nat) (v : Word) : Bool :=
  let n := v.toNat
  !bit n 0 || (s.probeGranted chair (bits n 4 12) && (!bit n 1 || s.steerGranted chair))

/-- What configuration words do at step 3, in slot order (R236 to R239, R243, R397): the arrays, the faults met, and
whether a SYSCFG waits for another slot's array; the words after one that waits meet the array it is to create. -/
structure Config3 where
  arrays : List SysArray
  faults : List FaultRec
  waits : Bool
  deriving Repr

/-- A station's tile as WLOAD loads it (R238). -/
def WTile.ofTile (wf : Fmt) (t : Tile) : WTile :=
  ⟨wf, t.elems.map (convElem t.fmt wf), t.src.map fun x => (x.1, x.2, t.fmt), t.src.isNone⟩

/-- One configuration word at step 3. -/
def configStep (c : Core) (slot : Nat) (x : Config3) (a : KAct) : Config3 :=
  let own (p : SysArray → Bool) : Option SysArray := x.arrays.find? fun a => decide (a.slot = slot) && p a
  let bad : Config3 := { x with faults := x.faults ++ [.plain FC.reservedField] }
  match a with
  | .syscfg f sigw =>
    if (own fun a => overlaps a f).isSome then bad
    else
      let n := (f.nrow.toNat + 1) * (f.ncol.toNat + 1)
      { x with waits := x.waits || x.arrays.any fun a => overlaps a f
               arrays := x.arrays ++ [⟨slot, f.row0.toNat, f.col0.toNat, f.nrow.toNat, f.ncol.toNat, f.fmt, sigw,
        List.replicate n ⟨f.fmt, List.replicate 256 0, none, false⟩, List.replicate 16 (0, 0), []⟩] }
  | .wload f tile =>
    match own (fun a => inRect a.row0 a.col0 a.nrow a.ncol f.row0.toNat f.col0.toNat), c.tiles.find? (·.id = tile) with
    | some a, some t =>
      let n := (f.row0.toNat - a.row0) * (a.ncol + 1) + (f.col0.toNat - a.col0)
      { x with arrays := x.arrays.map fun y =>
        if y.row0 = a.row0 ∧ y.col0 = a.col0 then { y with tiles := y.tiles.set n (.ofTile f.fmt t) } else y }
    | _, _ => bad
  | .route f e =>
    match own (FT.isArray f) with
    | some a => { x with arrays := x.arrays.map fun y =>
        if y.row0 = a.row0 ∧ y.col0 = a.col0 then { y with routes := y.routes.set (e % 16) (bits e 4 10, bits e 14 10) } else y }
    | none => bad
  | .sysrel f =>
    match own (FT.isArray f) with
    | some a => { x with arrays := x.arrays.filter fun y => !(y.row0 = a.row0 && y.col0 = a.col0) }
    | none => bad
  | _ => x

/-- The configuration words of a block, acted in slot order. -/
def State.config3 (s : State) (core slot : Nat) (i : Inst) : Config3 :=
  i.actsInOrder.foldl (fun x a => configStep (s.core core) slot x a.2) ⟨(s.core core).arrays, [], false⟩

/-- The tag fields in use (R25). -/
def tagFields (tag : Word) : List Nat := (List.range (bits tag.toNat 51 3)).map fun j => bits tag.toNat (40 - 8 * j) 8

/-- A strand's registers after its write slots (R46 step 2, R157). -/
def Inst.regsAfter (i : Inst) (t : Strand) : Strand := applyWs t i

/-- Whether an atomic of a block is to give LNK its value (R118, R163). -/
def Inst.lnkFromAmo (i : Inst) : Bool :=
  i.stores.any fun p => p.amo.isSome && (List.range i.words.length).any fun k => match i.word k with
    | some (.write .lnk ws) => p.targets.contains ws.toNat
    | _ => false

/-- Whether a RET of a block goes to an address that is not aligned (R163). -/
def Inst.retMisaligned (i : Inst) (t : Strand) : Bool :=
  decide (i.exits = [.ret]) && decide ((i.regsAfter t).lnk.toNat % 16 ≠ 0)

/-- Faults that commit finds before any step acts: RET's alignment, tap grants, tag depth and configuration words (R26,
R163, R236, R270). -/
def State.commitFaults (s : State) (core slot : Nat) (sl : Slot) (i : Inst) (t : Strand) : List FaultRec :=
  (if i.retMisaligned t && !i.lnkFromAmo then [.plain FC.alignment] else [])
    ++ (if i.kacts.any (fun a => match a.2 with | .tapcfg _ v => !s.tapOk sl.chair v | _ => false)
        then [.plain FC.tapGrant] else [])
    ++ (if i.kacts.any (fun a => match a.2 with | .fork _ _ _ _ => true | _ => false) ∧ 6 ≤ bits t.tag.toNat 51 3
        then [.plain FC.tagDepth] else [])
    ++ (s.config3 core slot i).faults

/-- What commit consumes when it reads the grants of its tap values (R270, R316). -/
def State.noteTaps (s : State) (sl : Slot) (i : Inst) : State :=
  i.kacts.foldl (fun s a => match a.2 with
    | .tapcfg _ v => if bit v.toNat 0 then s.noteGrant ((s.chair sl.chair).probeByte (bits v.toNat 4 12)) else s
    | _ => s) s

/-- The poisoned words that an atomic reads: those that no earlier store of its strand covers whole (R204, R316). -/
def State.amoWords (s : State) (core : Nat) (sl : Slot) (i : Inst) (p : PStore) : List Nat :=
  let earlier := (sl.post.filterMap fun q => if q.uid = i.uid then (match q.act with | .store x => some x | _ => none) else none)
    ++ i.storesInOrder.filter (·.lsid < p.lsid)
  let ws := if p.loc then (wordsOf p.va p.bytes).filter fun w => (s.core core).poison.contains (sl.localAddr (8 * w) / 8)
    else s.poisonWords p.base p.bytes
  ws.filter fun w => !earlier.any fun q => decide (q.loc = p.loc) && (wholeWords q.base q.bytes).contains w

/-- The atomics of a block that consume poison, or that name an unreachable package (R204, R316, R385). -/
def State.amosPoisoned (s : State) (core : Nat) (sl : Slot) (i : Inst) : List PStore :=
  i.storesInOrder.filter fun p => p.amo.isSome && (!(s.amoWords core sl i p).isEmpty || (!p.loc && s.lost p.base))

/-- The fork records that a committing block takes (R170). -/
def Inst.forkCount (i : Inst) : Nat := (i.kacts.filter fun a => match a.2 with | .fork _ _ _ _ => true | _ => false).length

/-- How many partial sums a run of 2^l ordinals from `lo` keeps: one where every ordinal is settled (R365). -/
def partialSums (n : Nat) (known contrib : List Nat) : Nat → Nat → Nat
  | 0, lo => if contrib.contains lo then 1 else 0
  | l + 1, lo =>
    let hi := lo + 2 ^ (l + 1)
    let inside (x : Nat) : Bool := decide (lo ≤ x) && decide (x < hi)
    if !contrib.any inside then 0
    else if (known.filter inside).length + (hi - max lo (min n hi)) = 2 ^ (l + 1) then 1
    else partialSums n known contrib l lo + partialSums n known contrib l (lo + 2 ^ l)

/-- The partial sums of a record after a contribution of ordinal `j` (R365). -/
def ForkRec.sumsWith (r : ForkRec) (j : Nat) : Nat :=
  let c := (j :: r.contrib.map (·.1)).eraseDups
  partialSums r.n (c ++ r.ended.filter fun e => !c.contains e) c (clog2 r.n) 0

/-- Whether a contribution of the block finds room in its record (R365). -/
def Slot.roomForSum (sl : Slot) (i : Inst) (t : Strand) : Bool :=
  !i.kacts.any (fun a => match a.2 with | .contribute _ => true | _ => false) ||
    (match t.fork.bind fun n => sl.forks.find? (·.idx = n) with
      | some r => r.spawn || decide (r.sumsWith t.iter.toNat ≤ 13)
      | none => true)

/-! ### The steps -/

/-- Applying stores and atomics of a committing block one after another; old values go to its write slots (R204). -/
def State.applyDirect (s : State) (core slot age : Nat) (sl : Slot) : List PStore → State
  | [] => s
  | p :: r =>
    let (s, old) := s.applyStore core sl p
    (s.amoReturn core slot age p old).applyDirect core slot age sl r

/-- A CSR written at step 2 (R167, R293, R294, R296). -/
def State.csrWrite (s : State) (core slot uid : Nat) (c : Csr) (v : Word) : State :=
  let n := v.toNat
  match s.slot? core slot with
  | none => s
  | some sl =>
    let primax := bits (s.chair sl.chair).chctl.toNat 0 3
    match c with
    | .ctxpri => s.modSlot core slot fun x => { x with ctxpri := BitVec.ofNat 64 (min (n % 8) primax) }
    | .cabq => s.modSlot core slot fun x => { x with cabq := BitVec.ofNat 64 (max 8 (min 128 (n % 256))) }
    | .trapv => s.modSlot core slot fun x => { x with trapv := BitVec.ofNat 64 (n / 16 * 16) }
    | .traps => s.modStrand core slot uid fun t => { t with traps := BitVec.ofNat 64 (bits n 40 24 * 2 ^ 40
        + bits n 16 8 * 2 ^ 16 + bits n 12 1 * 2 ^ 12 + bnat t.priv * 2 ^ 11 + bits n 10 1 * 2 ^ 10 + n % 256) }
    | .trapba => s.modStrand core slot uid fun t => { t with trapba := BitVec.ofNat 64 (n / 16 * 16) }
    | _ => s

/-- The CSR and tap writes of a block, in slot order (R46 step 2, R270). -/
def State.csrWrites (s : State) (core slot uid : Nat) (i : Inst) : State :=
  i.actsInOrder.foldl (fun s a => match a.2 with
    | .csr c v => s.csrWrite core slot uid c v
    | .tapcfg n v => s.modSlot core slot fun x => { x with taps := x.taps.set n v, xcnt := x.xcnt.set n 0 }
    | _ => s) s

/-- The Palette domain of a command in a domain's queue (R261). -/
def Core.domainCmds (c : Core) (d : Nat) : Nat := (c.engs.filter fun e => !e.held && e.onDomain d).length

/-- Whether a command is one of an Easel's queue (R317). -/
def isEasel : Instr → Bool
  | .bind _ | .unbind _ | .attn _ => true
  | _ => false

/-- Whether a command is one of a sampler's queue (R317). -/
def isSampler : Instr → Bool
  | .smpl _ => true
  | _ => false

/-- Commands issued and not completed among some cores. -/
def State.issuedAmong (s : State) (cores : List Nat) (p : Instr → Bool) : Nat :=
  (cores.map fun c => ((s.core c).engs.filter fun e => !e.held && p e.instr).length).foldl (· + ·) 0

/-- Whether the queue of a command's unit is full (R317, R318, R368). -/
def State.unitFull (s : State) (core : Nat) (e : Eng) : Bool :=
  if isEasel e.instr then decide (32 ≤ s.issuedAmong ((List.range 4).map (core / 4 * 4 + ·)) isEasel)
  else if isSampler e.instr then decide (64 ≤ s.issuedAmong ((List.range 48).map (core / 48 * 48 + ·)) isSampler)
  else match e.instr with
    | .stap _ => decide (4096 ≤ s.svcTrap.length)
    | .launch _ => decide (256 ≤ s.arb.length)
    | _ => (List.range 8).any fun d => e.onDomain d && decide (32 ≤ (s.core core).domainCmds d)

/-- The lowest free fork record (R170). -/
def Slot.freeRecord (sl : Slot) : Nat := ((List.range 64).find? fun n => !sl.forks.any (·.idx = n)).getD 64

/-- A FORK or SPAWN at commit: its record, with the creator's registers (R168 to R170). -/
def Slot.addFork (sl : Slot) (t : Strand) (spawn : Bool) (n bound ba h : Nat) : Slot :=
  { sl with forks := sl.forks ++ [⟨sl.freeRecord, h, n, bound, ba, t.tag, t.priv, t.g, t.v, t.uid, [], 0, spawn, [], none,
      []⟩] }

/-- A contribution to the fork that created a strand (R174). -/
def Slot.contribute (sl : Slot) (t : Strand) (op : RedOp) (v : Datum) : Slot :=
  { sl with forks := sl.forks.map fun r =>
    if (some r.idx) = t.fork ∧ !r.spawn then
      { r with contrib := (t.iter.toNat, v) :: r.contrib.filter (·.1 ≠ t.iter.toNat), op := some op }
    else r }

/-- The strand operations of a block, in slot order (R168, R170, R174, R399). -/
def State.strandActs (s : State) (core slot : Nat) (i : Inst) (t : Strand) : State :=
  i.actsInOrder.foldl (fun s a => match a.2 with
    | .fork n b ba h =>
      let spawn := match i.instr a.1 with | some (.spawn _) => true | _ => false
      s.modSlot core slot fun sl => sl.addFork t spawn n b ba h
    | .contribute v => match i.instr a.1 with
      | some (.redt f) => s.modSlot core slot fun sl => sl.contribute t f.op v
      | _ => s
    | .release h => s.modSlot core slot fun sl =>
        { sl with forks := sl.forks.filter fun r => !(decide (r.handle = h) && r.joined.head? == some i.age) }
    | _ => s) s

/-- Indices of a pool returned when HELD and no strand's tag holds them (R27, R336). -/
def poolRelease (pool : List (Bool × Nat)) (tag : Word) : List (Bool × Nat) :=
  (tagFields tag).eraseDups.foldl (fun p n => p.modify n fun x =>
    let r := x.2 - 1
    (x.1 && decide (r ≠ 0), r)) pool

/-- END at commit: the strand's entry is freed (R169, R170, R336). -/
def Slot.endStrand (sl : Slot) (t : Strand) : Slot :=
  { sl with strands := sl.strands.filter (·.uid ≠ t.uid), pool := poolRelease sl.pool t.tag,
            ending := sl.ending ++ [⟨t.uid, t.fork, t.iter.toNat⟩],
            forks := sl.forks.filter fun r => !(r.creator = t.uid && r.allEnded) }

/-- The next block and the other effect of an exit at step 4; none when the strand ends (R162, R297). -/
def Strand.exitTo (t : Strand) (i : Inst) : ExitRec → Option Strand
  | .to ba => some { t with ba := BitVec.ofNat 64 ba }
  | .call ba => some { t with ba := BitVec.ofNat 64 ba, lnk := BitVec.ofNat 64 i.linkAddr }
  | .ret => some { t with ba := t.lnk }
  | .rett => some t.trapReturn
  | .endE => none

/-- FENCE of kind CODE at commit: decoded blocks of the chair and ASID are dropped within scope (R206, R308). -/
def State.dropCode (s : State) (core : Nat) (sl : Slot) (sc : Scope) : State :=
  let drop (k : Core) : Core := { k with code := k.code.filter fun d => !(d.chair = sl.chair && d.asid = sl.asid) }
  match sc with
  | .strand | .core => s.modCore core drop
  | _ => { s with cores := s.cores.map drop }

/-- The committed order that a block adds: stores, atomics and fences by LSID (R281). -/
def Inst.postOf (i : Inst) : List Post :=
  (List.range 32).flatMap fun l =>
    (i.stores.filter (·.lsid = l)).map (fun p => ⟨i.uid, i.age, l, .store p⟩)
      ++ (i.fences.filter (·.lsid = l)).map fun f => ⟨i.uid, i.age, l, .fence f.kind f.sc⟩

/-- A dropped translation of a store walked afresh (R198). -/
def State.rewalk (s : State) (core : Nat) (sl : Slot) (user : Bool) (p : PStore) :
    Except (Nat × TransErr) (PStore × Option TlbEntry) :=
  if p.loc || p.phys.isSome then .ok (p, none)
  else match checkGlobal s core sl.chair sl.asid user .store p.va 1 with
    | .ok (gpa, key, e) => .ok ({ p with phys := some (gpa, key) }, some e)
    | .error e => .error (p.va, e)

/-- Every dropped translation of a list of stores walked afresh, up to the first that fails. -/
def State.rewalks (s : State) (core : Nat) (sl : Slot) (user : Bool) : List PStore → State × Option (PStore × TransErr) × List PStore
  | [] => (s, none, [])
  | p :: r =>
    match s.rewalk core sl user p with
    | .error (_, e) => (s, some (p, e), p :: r)
    | .ok (q, e) =>
      let s := match e with | some e => s.fillTlb core e | none => s
      let (s, f, qs) := s.rewalks core sl user r
      (s, f, q :: qs)

/-- The reservations of a block at their Dressers. -/
def State.reservations (s : State) (core slot age : Nat) : List DEntry :=
  s.dressers.filter fun d => d.core = core && d.slot = slot && d.age = age

/-- Marking a block's reservations as committed (R200). -/
def State.commitChain (s : State) (core slot age : Nat) (ps : List PStore) : State :=
  { s with dressers := s.dressers.map fun d =>
    if d.core = core ∧ d.slot = slot ∧ d.age = age then
      { d with committed := true, store := match d.store with
        | some p => some ((ps.find? (·.lsid = p.lsid)).getD p) | none => none }
    else d }

/-- Whether every instruction that fires at mapping has fired (R102, R153, R165). -/
def Inst.startsFired (i : Inst) : Bool :=
  (List.range i.words.length).all fun k => match i.instr k with
    | some x => !(portsNeeded x).isEmpty || i.fired.contains k
    | none => true

/-- Whether a block in flight stands ready to commit: the oldest of its strand, its commit condition met, nothing that
fires at mapping left, no fault, no store held for a translation, no chain message on its way, and, where its commit has
begun, no atomic still to be applied (R35, R46, R153, R204). -/
def State.commitReady (s : State) (core slot : Nat) (sl : Slot) (i : Inst) : Bool :=
  i.meets && i.startsFired && sl.isOldest i && i.faults.isEmpty && !i.dead && !sl.amoWaits i.age (fun _ => true)
    && !(s.core core).held.any (fun h => h.slot = slot && h.age = i.age && h.wr)
    && !(s.core core).chainOut.any (fun m => m.slot = slot && m.age = i.age)

/-- Whether a block has configuration words (R236). -/
def Inst.configures (i : Inst) : Bool :=
  i.kacts.any fun a => match a.2 with | .syscfg _ _ | .wload _ _ | .route _ _ | .sysrel _ => true | _ => false

/-- Whether nothing outside a ready block delays its commit: no other slot's array, no other block of the core whose commit
has begun and which configures arrays too, and a fork record and a partial sum for each that it takes (R170, R236, R365). -/
def State.commitFree (s : State) (core slot : Nat) (sl : Slot) (i : Inst) (t : Strand) : Bool :=
  let other (n : Nat) (j : Inst) : Bool := j.committing && j.configures && !(decide (n = slot) && decide (j.age = i.age))
  !(s.config3 core slot i).waits && decide (sl.forks.length + i.forkCount ≤ 64) && sl.roomForSum i t
    && !(i.configures && (List.range 4).any fun n => match s.slot? core n with | some x => x.insts.any (other n) | none => false)

/-- What a core drops of a block whose commit begins: its tokens, matches, loads and held faults; nothing of it fires any
more (R46). -/
def Core.dropTraffic (k : Core) (slot age : Nat) : Core :=
  let keepTok (t : NetTok) : Bool := !(t.slot = slot && t.age = age)
  { k with net := k.net.filter keepTok, cab := k.cab.filter keepTok, chest := k.chest.filter keepTok,
           ready := k.ready.filter fun m => !(m.slot = slot && m.age = age),
           loads := k.loads.filter fun l => !(l.slot = slot && l.age = age),
           held := k.held.filter fun h => !(h.slot = slot && h.age = age) }

/-- Step 1 of R46 begins: the reservations are committed, stores, atomics and fences take their places in the committed
order of the strand, and nothing of the block fires any more. -/
def State.beginCommit (s : State) (core slot : Nat) (i : Inst) (ps : List PStore) : State :=
  let s := (s.commitChain core slot i.age ps).modCore core fun k => k.dropTraffic slot i.age
  let s := s.modSlot core slot fun x => { x with post := x.post ++ i.postOf }
  let s := s.modInst core slot i.age fun x => { x with stores := [], waits := [], committing := true }
  match s.slot? core slot with
  | some sl => s.settleWaits sl.chair [i]
  | none => s

/-! ### Quiescence and faults -/

/-- Whether nothing of a block in flight can still bring it to commit (R48, R285): a load that only what the block's own
commit brings can release, and a chain store that waits for nothing but that commit, count as nothing outstanding. An
access that waits in its Dresser for the chain's order is outstanding (R202). -/
def State.quiescent (s : State) (core slot : Nat) (i : Inst) : Bool :=
  let c := s.core core
  !s.inFlight core slot i && !c.chainOut.any (fun m => m.slot = slot && m.age = i.age)
    && (s.reservations core slot i.age).all (fun d => s.applicable d && (!d.load || s.behindCommit core slot i d.lsid))
    && c.loads.all fun l => !(l.slot = slot && l.age = i.age) || l.chain.isSome || s.behindCommit core slot i l.lsid

/-- Where an incomplete block's fault is (R395). -/
def Inst.incompleteAt (i : Inst) : FaultRec :=
  match (List.range 32).find? (fun l => bit i.h0.toNat l && !i.sat.contains l) with
  | some l => ⟨FC.incompleteBlock, false, l, 0, 0⟩
  | none =>
    match (List.range 32).find? (fun n => bit i.h1.toNat (32 + n) && !i.ws.any (·.1 = n)) with
    | some n => .atSlot FC.incompleteBlock (((List.range i.words.length).find? fun k =>
        match i.writeAt k with | some (_, w) => decide (w = n) | none => false).getD 0)
    | none => .atSlot FC.incompleteBlock (((List.range i.words.length).find? fun k =>
        ((i.instr k).bind exitNumber).isSome).getD 0)

/-- INCOMPLETE_BLOCK: a quiescent block that has not met its commit condition (R48). A block that has a fault recorded
already takes that fault and raises none beside it (DESIGN CHOICE, log entry 81). -/
def execIncompleteBlock (core slot age : Nat) (s : State) : Out :=
  needSome (s.slot? core slot) fun sl => needSome (sl.inst? age) fun i =>
    need (!i.dead && !i.committing && !i.meets && i.faults.isEmpty && s.quiescent core slot i) <|
      .next (s.record core slot age i.incompleteAt)

end Sys2Proof.Machine
end

