-- ==== Sys2Proof/Machine/Dresser.lean ====
section
/-! DEFINITION. Chains: frontiers, arrival of an access at its Dresser, and application (R107, R199 to R203, R327). -/

namespace Sys2Proof.Machine

/-- The slice of a chain's Dresser (R199). -/
def dresserSlice (chair chain : Nat) : Nat := (chain + 2 * chair) % 128

/-- Setting a chain's frontier. -/
def State.setFrontier (s : State) (f : Frontier) : State :=
  { s with frontiers := f :: s.frontiers.filter fun x => !(x.chair = f.chair && x.chain = f.chain) }

/-- The frontier after an access is applied (R199). -/
def Frontier.step (f : Frontier) (t : Triple) : Frontier := { f with lastOwn := t.own, lastSucc := t.succ }

/-- A chain load's place among a core's loads. -/
def Core.loadAt (c : Core) (slot age k : Nat) : Option PLoad := c.loads.find? fun l => l.slot = slot && l.age = age && l.k = k

/-- A chain load performed at its data home: the frontier steps and its data returns, satisfying its LSID; a failing walk is
held or faults, and a load that consumes poison has been applied (R196, R198, R200, R202, R362). Nothing but an acquire or a
fence orders it against the strand's plain stores, so what is pending of them is forwarded to it or not, freely (R203). -/
def State.applyChainLoad (s : State) (core slot age k : Nat) (f : Frontier) (t : Triple) (drop : State → State) : Out :=
  needSome (s.slot? core slot) fun sl => needSome (sl.inst? age) fun i => needSome (sl.strand? i.uid) fun st =>
    needSome ((s.core core).loadAt slot age k) fun l =>
      need (!(s.core core).held.any (fun h => h.slot = slot && h.age = age && h.k = k)
        && !s.loadHeldBack core slot sl i l.lsid false) <|
        let (x, s) := s.draw 2
        let view : Slot := if x = 0 then sl else { sl with post := [], insts := [] }
        let pin (s : State) : State := s.modInst core slot age fun i => { i with pinned := true }
        match performParts s core view i (!st.priv) l l.parts with
        | .error (p, e) =>
          let s := s.countConsumed core sl l p e
          match e.stage with
          | some stg => .next (s.loadHeld core sl.chair l stg p.va)
          | none =>
            let s := if e.code = FC.uncorrectable then pin (s.setFrontier (f.step t)) else s
            .next ((drop s).loadFault core l e.code p.va)
        | .ok parts =>
          let s := (drop s).setFrontier (f.step t)
          let s := (pin s).modInst core slot age fun i => { i with sat := l.lsid :: i.sat }
          .next (s.loadReturn core sl.chair { l with parts := parts })

/-- CHAIN_ARRIVAL: message `n` of a core reaches its Dresser: refused, applied on arrival, or given an entry (R201). -/
def execChainArrival (core n : Nat) (s : State) : Out :=
  let c := s.core core
  needSome (c.chainOut[n]?) fun m => needSome (s.slot? core m.slot) fun sl => needSome (sl.inst? m.age) fun i =>
    let chain := sl.chain.toNat % 2 ^ 16
    let f := s.frontier sl.chair chain
    let mine := s.dressers.filter fun d => d.chair = sl.chair && d.chain = chain
    let slice := s.dressers.filter fun d => dresserSlice d.chair d.chain = dresserSlice sl.chair chain
    let drop (s : State) : State := s.modCore core fun k => { k with chainOut := k.chainOut.eraseIdx n }
    let load := c.loadAt m.slot m.age m.k
    let va := match m.store, load with | some p, _ => p.va | none, some l => ((l.parts.head?).map (·.va)).getD 0 | _, _ => 0
    let refuse (code : Nat) : Out :=
      let s := drop s
      match m.load, load with
      | true, some l => .next (s.loadFault core l code va)
      | _, _ => .next (s.record core m.slot m.age (.access code m.lsid va))
    if m.triple.own = noOwn ∨ m.triple.own = f.lastOwn ∨ mine.any (fun d => decide (d.triple.own = m.triple.own)) then
      refuse FC.chainDuplicate
    else if m.load ∧ f.applicable m.triple then s.applyChainLoad core m.slot m.age m.k f m.triple drop
    else if 64 ≤ mine.length ∨ 256 ≤ slice.length then refuse FC.chainOverflow
    else .next { drop s with dressers := s.dressers ++ [⟨sl.chair, chain, m.triple, core, m.slot, m.age, i.uid, m.k, m.lsid,
      m.load, m.store, false⟩] }

/-- Whether an earlier fence, acquire or release of its strand holds a chain store back; plain accesses do not (R194, R195,
R203, R206). -/
def State.chainHeldBack (s : State) (d : DEntry) : Bool :=
  match s.slot? d.core d.slot with
  | some sl => d.store.isSome && sl.post.any fun q => decide (q.uid = d.uid) && before q.age q.lsid d.age d.lsid
      && match q.act with
        | .fence k sc => holdsStores k && decide (sc ≠ .strand)
        | .store x => x.acquire || (x.release && decide (q.age = d.age))
        | .early _ => false
  | none => false

/-- A chain store applied at its data home, or lost at an unreachable package (R199, R385). -/
def State.applyChainStore (s : State) (d : DEntry) : State :=
  match d.store.bind fun p => p.phys.map fun ph => (p, ph) with
  | none => s
  | some (p, gpa, key) =>
    if s.lost key then s.modErr d.core 0 fun e => e.defer gpa
    else s.storeGlobal d.chair gpa key p.bytes p.data.toNat

/-- DRESSER_APPLICATION: waiting entry `n`, applicable, and committed unless it is a load (R199, R200). -/
def execDresserApplication (n : Nat) (s : State) : Out :=
  needSome (s.dressers[n]?) fun d =>
    let f := s.frontier d.chair d.chain
    need (f.applicable d.triple && (d.load || d.committed) && !s.chainHeldBack d) <|
      let drop (s : State) : State := { s with dressers := s.dressers.erase d }
      if d.load then s.applyChainLoad d.core d.slot d.age d.k f d.triple drop
      else .next ((((drop s).setFrontier (f.step d.triple)).applyChainStore d).dropPre d.core)

end Sys2Proof.Machine
end

