-- ==== Sys2Proof/Machine/Launch.lean ====
section
/-! DEFINITION. Launches, context slots and strands: acceptance, dispatch, admission, slots taken and released, and the
start of iterations (R18 to R28, R168 to R171, R290 to R295, R303, R304, R307, R320, R321, R336, R345). -/

namespace Sys2Proof.Machine

/-! ### Reads made by the Bureau and by engines -/

/-- A failure with nothing consumed. -/
def Fail.of (code : Nat) : Fail := ⟨code, [], [], []⟩

/-- A failed translation of an access that never replays (R196, R212, R316). -/
def TransErr.fail : TransErr → Fail
  | .poison w => ⟨FC.uncorrectable, [w], [], []⟩
  | .carve w => ⟨FC.translation, [], [w], []⟩
  | e => .of e.code

/-- Counting what a failure consumed, each word where it lies (R349, R351). -/
def State.noteUe (s : State) (x : Fail) : State :=
  x.local_.foldl (fun s c => s.modErr c.1 0 (·.consume c.2)) ((s.ueGlobal x.words).noteCarve x.carve)

/-- A translation made afresh, by no core's TLB, of `n` bytes of one page; device-owned bytes are PROTECTION (R307, R315,
R331, R333). -/
def walkVa (s : State) (chair asid : Nat) (user : Bool) (nd : Need) (va n : Nat) : Trans (Nat × Nat) :=
  match checkGlobal s s.cores.length chair asid user nd va 1 with
  | .error e => .error e
  | .ok (gpa, key, _) => if s.deviceOwned chair asid va gpa n then .error (.fault FC.protection) else .ok (gpa, key)

/-- A range of virtual addresses cut at 4 KiB boundaries. -/
def pagePieces (va n : Nat) : List (Nat × Nat) :=
  if n = 0 then []
  else
    let f := min n (4096 - va % 4096)
    (va, f) :: (List.range ((n - f + 4095) / 4096)).map fun i =>
      ((va + f + 4096 * i) % 2 ^ 64, min 4096 (n - f - 4096 * i))

/-- Pieces translated in order: (gpa, key, length) of each, or the first failure (R212). -/
def walkPieces (s : State) (chair asid : Nat) (user : Bool) (nd : Need) : List (Nat × Nat) → Except Fail (List (Nat × Nat × Nat))
  | [] => .ok []
  | (va, n) :: r =>
    match walkVa s chair asid user nd va n, walkPieces s chair asid user nd r with
    | .error e, _ => .error e.fail
    | .ok _, .error e => .error e
    | .ok (gpa, key), .ok l => .ok ((gpa, key, n) :: l)

/-- The bytes of translated pieces as one little-endian value, or the poison met; an unreachable package answers as poison
(R316, R385). -/
def readPieces (s : State) : List (Nat × Nat × Nat) → Except Fail Nat
  | [] => .ok 0
  | (_, key, n) :: r =>
    if s.poisoned key n then .error ⟨FC.uncorrectable, s.poisonWords key n, [], []⟩
    else match readPieces s r with
      | .error e => .error e
      | .ok v => .ok (s.hbm.read key n + 2 ^ (8 * n) * v)

/-- `n` bytes at a virtual address, or the failure (R212). -/
def readVa (s : State) (chair asid : Nat) (user : Bool) (va n : Nat) : Except Fail Nat :=
  match walkPieces s chair asid user .load (pagePieces va n) with
  | .error c => .error c
  | .ok l => readPieces s l

/-- Storing to translated pieces. -/
def State.writePieces (s : State) (chair : Nat) : List (Nat × Nat × Nat) → Nat → State
  | [], _ => s
  | (gpa, key, n) :: r, v => (s.storeGlobal chair gpa key n (v % 2 ^ (8 * n))).writePieces chair r (v / 2 ^ (8 * n))

/-- Storing `n` bytes at a virtual address, whole or not at all, or the failure (R212, R385). -/
def writeVa (s : State) (chair asid : Nat) (user : Bool) (va n v : Nat) : Except Fail State :=
  match walkPieces s chair asid user .store (pagePieces va n) with
  | .error c => .error c
  | .ok l => if l.any (fun p => s.lost p.2.1) then .error (.of FC.uncorrectable) else .ok (s.writePieces chair l v)

/-- Poisoning `n` bytes at a virtual address, where they translate (R212, R316). -/
def poisonVa (s : State) (chair asid : Nat) (user : Bool) (va n : Nat) : State :=
  match walkPieces s chair asid user .store (pagePieces va n) with
  | .error _ => s
  | .ok l => l.foldl (fun s p => s.poisonGlobal p.1 p.2.1 p.2.2) s

/-- The `i`th 64-bit doubleword of a value. -/
def dwOf (v i : Nat) : Nat := bits v (64 * i) 64

/-- The doublewords of a value of `n` of them. -/
def dwsOf (v n : Nat) : List Word := (List.range n).map fun i => BitVec.ofNat 64 (dwOf v i)

/-! ### The packet (R18) -/

/-- A doubleword of a packet. -/
def pkDw (p : List Word) (i : Nat) : Nat := (p.getD i 0).toNat

/-- ASID of a packet. -/
def pkAsid (p : List Word) : Nat := bits (pkDw p 2) 40 16

/-- ROOTS of a packet. -/
def pkRoots (p : List Word) : Nat := bits (pkDw p 2) 0 24

/-- AFTERN of a packet. -/
def pkAfterN (p : List Word) : Nat := bits (pkDw p 3) 32 4

/-- LMP of a packet. -/
def pkLmp (p : List Word) : Nat := bits (pkDw p 3) 0 5

/-- CABQ of a packet. -/
def pkCabq (p : List Word) : Nat := bits (pkDw p 3) 8 8

/-- Row 3 of the refusal table: a reserved field nonzero, or ROOTS, LMP, CABQ or AFTERN out of range (R19). -/
def packetBad (p : List Word) : Bool :=
  let d2 := pkDw p 2
  let d3 := pkDw p 3
  decide (bits d2 56 8 ≠ 0) || decide (bits d2 38 2 ≠ 0) || decide (bits d2 27 5 ≠ 0)
    || decide (bits d3 36 28 ≠ 0) || decide (bits d3 5 3 ≠ 0) || decide (bits (pkDw p 7) 16 48 ≠ 0)
    || decide (pkRoots p = 0) || decide (pkLmp p = 0) || decide (16 < pkLmp p)
    || decide (pkCabq p < 8) || decide (128 < pkCabq p) || decide (8 < pkAfterN p)

/-- A run of a placement map: its first root, pod and package (R345). -/
structure Run where
  first : Nat
  pod : Nat
  pkg : Nat
  deriving DecidableEq, Repr

/-- Whether runs start at 0, rise strictly and stay below ROOTS, and name packages that exist (R345, log entry 8). -/
def runsOk (roots : Nat) (home : Nat × Nat) : Option Nat → List Run → Bool
  | _, [] => true
  | prev, r :: rs =>
    (match prev with | none => decide (r.first = 0) | some p => decide (p < r.first)) && decide (r.first < roots)
      && (decide ((r.pod, r.pkg) = home) || (decide (r.pod < 32) && decide (r.pkg < 288) && Config.packageExists r.pod r.pkg))
      && runsOk roots home (some r.first) rs

/-- The root indices of this package, as (first, count), from runs in order (R21, R345). -/
def runsHere (roots : Nat) (home : Nat × Nat) : List Run → List (Nat × Nat)
  | [] => []
  | r :: rs =>
    let stop := match rs with | x :: _ => x.first | [] => roots
    if (r.pod, r.pkg) = home then (r.first, stop - r.first) :: runsHere roots home rs else runsHere roots home rs

/-- Reading a placement map: this package's roots, or the status that refuses the packet (R19 rows 4 and 5, R345). -/
def readMap (s : State) (chair asid : Nat) (user : Bool) (p : List Word) : Except Fail (List (Nat × Nat)) :=
  let pmap := pkDw p 6
  let home := (bits s.pkgid.toNat 16 5, bits s.pkgid.toNat 0 9)
  if pmap = 0 then .ok [(0, pkRoots p)]
  else if pmap % 16 ≠ 0 then .error (.of FC.reservedField)
  else match readVa s chair asid user pmap 16 with
    | .error e => .error e
    | .ok h =>
      let n := h % 2 ^ 13
      if n = 0 ∨ 4096 < n ∨ bits h 13 115 ≠ 0 then .error (.of FC.reservedField)
      else match readVa s chair asid user ((pmap + 16) % 2 ^ 64) (8 * n) with
        | .error e => .error e
        | .ok v =>
          let dw := (List.range n).map (dwOf v)
          let runs := dw.map fun d => (⟨bits d 32 24, bits d 16 5, bits d 0 9⟩ : Run)
          if dw.any (fun d => decide (bits d 56 8 ≠ 0) || decide (bits d 21 11 ≠ 0) || decide (bits d 9 7 ≠ 0))
            || !runsOk (pkRoots p) home none runs then .error (.of FC.reservedField)
          else .ok (runsHere (pkRoots p) home runs)

/-- What the arbiter makes of a packet: a refusal, with what was consumed, a wait, or this package's roots (R19). -/
inductive Verdict
  | refuse (x : Fail)
  | wait
  | accept (runs : List (Nat × Nat))
  deriving DecidableEq, Repr

/-- Whether a launch from a source runs at CHAIR privilege (R291, R373). -/
def LaunchFrom.priv : LaunchFrom → Bool
  | .table q _ _ _ => q = 0
  | .device _ _ _ _ _ p => p
  | .remote p => p

/-- A packet with what is read together with it: its placement map and its after list (R19, R345). -/
def readPacket (s : State) (chair : Nat) (p : List Word) (src : LaunchFrom) : ArbEntry :=
  let user := !src.priv
  let map := readMap s chair (pkAsid p) user p
  let after := readVa s chair (pkAsid p) user (pkDw p 5) (8 * pkAfterN p)
  { chair := chair, packet := p, src := src,
    runs := match map with | .ok l => l | .error _ => [],
    mapFail := match map with | .ok _ => none | .error x => some x,
    after := match after with | .ok v => (List.range (pkAfterN p)).map (dwOf v) | .error _ => [],
    afterFail := match after with | .ok _ => none | .error x => some x }

/-- The contexts that a chair holds. -/
def State.contexts (s : State) (chair : Nat) : List Launch := s.launches.filter (·.chair = chair)

/-- Context numbers of a chair that are free (R19). -/
def State.freeCtx (s : State) (chair : Nat) : Option Nat :=
  (List.range 16).find? fun n => !(s.contexts chair).any (·.ctx = n)

/-- NCTX of a chair (R299). -/
def Chair.nctx (c : Chair) : Nat := bits c.chctl.toNat 4 5

/-- EN of a chair (R299). -/
def Chair.en (c : Chair) : Bool := bit c.chctl.toNat 16

/-- PRIMAX of a chair (R299). -/
def Chair.primax (c : Chair) : Nat := bits c.chctl.toNat 0 3

/-- Rows 4 and 5 of the refusal table: faults of the reads come before a map that is refused. Where the map and the after
list both fault, the map's fault decides (DESIGN CHOICE, log entry 82). -/
def ArbEntry.readFail (e : ArbEntry) : Option Fail :=
  match e.mapFail, e.afterFail with
  | some x, some y => if x.code = FC.reservedField then some y else some x
  | some x, none => some x
  | none, y => y

/-- The refusal table of R19 in its order, then its waits. -/
def judge (s : State) (e : ArbEntry) : Verdict :=
  let c := s.chair e.chair
  if !c.en then .refuse (.of FC.serviceAbort)
  else if (c.asidIndex (pkAsid e.packet)).isNone then .refuse (.of FC.protection)
  else if packetBad e.packet then .refuse (.of FC.reservedField)
  else match e.readFail with
    | some x => .refuse x
    | none =>
      let words := e.after.map (s.handleState e.chair)
      match words.find? fun w => (match w with | some (some w) => decide (w.toNat % 256 ≠ 0) | _ => false) with
      | some (some (some w)) => .refuse (.of (w.toNat % 256))
      | _ =>
        if words.any (· = some none) ∨ c.nctx ≤ (s.contexts e.chair).length ∨ (s.freeCtx e.chair).isNone then .wait
        else .accept e.runs

/-- Completing whoever waits for a launch (R177, R320, R321). -/
def State.answerLaunch (s : State) (chair : Nat) (src : LaunchFrom) (status : Nat) : State :=
  match src with
  | .table _ idx seq _ => s.modChair chair fun c =>
      { c with lt := modEntry c.lt 0 idx seq fun e => if e.st = .pending then e.complete (complWord 0 status) else e }
  | .device core slot idx seq owner _ =>
    if (s.slot? core slot).map (·.launch) = some owner then s.completeCq core slot idx seq (complWord 0 status)
    else { s with saves := s.saves.map fun (x : SaveImage) => if x.launch = owner ∧ x.core = core then
      { x with cq := modEntry x.cq slot idx seq fun e => if e.st = .pending then e.complete (complWord 0 status) else e }
      else x }
  | .remote _ => s

/-- The control record of queue `n` of a chair and its log of entries, where one is placed (R322). -/
def Chair.queue? (c : Chair) (n : Nat) : Option (Nat × Nat) :=
  let d := (c.chcq.getD n 0).toNat
  let lg := bits d 0 5
  if 6 ≤ lg ∧ lg ≤ 16 then some (bits d 12 40 * 0x1000, lg) else none

/-- STATUS, or STATUS and BADK, of the control record of queue `n`, where one is placed and mapped (R322). -/
def State.setQueueStatus (s : State) (chair n status : Nat) (badk : Option Nat) : State :=
  match (s.chair chair).queue? n with
  | none => s
  | some (base, _) => match stage2 s chair (base + 16) with
    | .error _ => s
    | .ok (key, _) =>
      match badk with
      | none => s.storeGlobal chair (base + 16) key 1 status
      | some k => s.storeGlobal chair (base + 16) key 2 (k * 2 ^ 8 + status)

/-- Where a store by the Bureau to a guest-physical address of a chair goes, or its failure (R331, R385). -/
def gpaPlace (s : State) (chair gpa : Nat) : Except Fail Nat :=
  match stage2 s chair gpa with
  | .error e => .error e.fail
  | .ok (key, p) => if !p.w then .error (.of FC.protection) else if s.lost key then .error (.of FC.uncorrectable) else .ok key

/-- KIND of the entry that queue `n` of a chair has before it, once read. -/
def Chair.entryKindAt (c : Chair) (n : Nat) : Nat :=
  let q := c.qs.getD n .reset
  match q.copies.find? (·.1 = q.pos) with
  | some e => (e.2.getD 0 0).toNat % 256
  | none => 0

/-- Taking up a packet: one from a command queue gets a free entry of the launch table, and its handle is stored at
DW2 of its entry, a release; a fault there sets BAD_ENTRY with the entry's KIND, and the queue passes the entry all the
same (R320, R377, log entry 83). -/
def State.takeUp (s : State) (chair : Nat) : LaunchFrom → LaunchFrom × State
  | .table q _ _ store =>
    let free := freeIdx (s.chair chair).lt 0 4096
    let (x, s) := s.draw free.length
    let idx := free.getD x 0
    let (seq, lt) := allocEntry (s.chair chair).lt 0 idx (decide (store = 0))
    let s := s.modChair chair fun c => { c with lt := lt }
    let s := if store = 0 then s else
      match gpaPlace s chair store with
      | .ok key => s.storeGlobal chair store key 8 (launchHandle chair idx seq)
      | .error x => ((s.ueGlobal x.words).noteCarve x.carve).setQueueStatus chair q 2 (some ((s.chair chair).entryKindAt q))
    (.table q idx seq store, s)
  | src => (src, s)

/-- Whether a packet from a command queue finds a free entry of the launch table (R320). -/
def State.tableRoom (s : State) (chair : Nat) : LaunchFrom → Bool
  | .table _ _ _ _ => !(freeIdx (s.chair chair).lt 0 4096).isEmpty
  | _ => true

/-- A command queue passes the packet that the arbiter has taken (R322). -/
def State.passPacket (s : State) (chair : Nat) (id : Option Nat) (src : LaunchFrom) : State :=
  match src with
  | .table n _ _ _ => s.modChair chair fun c => { c with qs := c.qs.modify n fun x =>
      { x with offered := false, pos := (x.pos + 1) % 2 ^ 64, launched := id.toList ++ x.launched } }
  | _ => s

/-- Refusing a packet: its handle completes with the status (R19, R320). -/
def State.refuseLaunch (s : State) (chair : Nat) (e : ArbEntry) (x : Fail) : State :=
  let s := s.noteUe x
  let (src, s) := ({ s with arb := s.arb.erase e } : State).takeUp chair e.src
  (s.answerLaunch chair src x.code).passPacket chair none src

/-- A packet with PRI lowered to the chair's PRIMAX, as the arbiter accepts it (R177, R293, R373). -/
def lowerPri (p : List Word) (primax : Nat) : List Word :=
  p.modify 2 fun w => BitVec.ofNat 64 (w.toNat - bits w.toNat 24 3 * 2 ^ 24 + min (bits w.toNat 24 3) primax * 2 ^ 24)

/-- A free guest-physical address for the default chest area of a launch, of 2 MiB pages (R306, log entry 21). -/
def State.drawArea (s : State) : Nat × State :=
  let (x, s) := s.draw (2 ^ 31)
  (x * 0x200000, s)

/-- Accepting a packet: a launch with the next sequence number and a context number, its PRI lowered, its default chest area
mapped, and its chain's frontier set where no live context of the chair uses the chain (R19, R199, R306, R373). -/
def State.acceptLaunch (s : State) (chair : Nat) (e : ArbEntry) (ctx : Nat) (runs : List (Nat × Nat)) : State :=
  let (src, s) := ({ s with arb := s.arb.erase e } : State).takeUp chair e.src
  let chain := pkDw e.packet 7 % 2 ^ 16
  let live := (s.contexts chair).any fun l => decide (pkDw l.packet 7 % 2 ^ 16 = chain)
  let s := if live then s else s.setFrontier ⟨chair, chain, noOwn, 0⟩
  let id := s.nextId
  let (area, s) := s.drawArea
  let p := lowerPri e.packet (s.chair chair).primax
  let l : Launch := ⟨id, s.seqNo, chair, ctx, p, src.priv, src, runs, [], 0, false, false, false, [], area⟩
  ({ s with nextId := s.nextId + 1, seqNo := (s.seqNo + 1) % 2 ^ 32, launches := s.launches ++ [l] } : State).passPacket
    chair (some id) src

/-! ### Dispatch and admission -/

/-- How many root strands this package runs (R21). -/
def Launch.count (l : Launch) : Nat := (l.runs.map (·.2)).foldl (· + ·) 0

/-- The root index of this package's strand `j` (R21). -/
def rootOf : List (Nat × Nat) → Nat → Nat
  | [], j => j
  | (f, n) :: r, j => if j < n then f + j else rootOf r (j - n)

/-- The first strand of a launch on a core: j with (j + s) mod 192 the core (R20, R21). -/
def Launch.firstOn (l : Launch) (core : Nat) : Nat := (core + 192 - l.s % 192) % 192

/-- The slot of a core that a launch holds. -/
def Core.slotOf (c : Core) (launch : Nat) : Option Nat :=
  (List.range 4).find? fun i => match c.slot? i with | some sl => sl.launch = launch | none => false

/-- A slot as taken: the CSRs of R23, every other at its reset value (R289, R295, R336). -/
def Slot.taken (l : Launch) (units : List Nat) (pri : Nat) : Slot :=
  let p := l.packet
  let base := if pkDw p 4 = 0 then defaultChest l.ctx else pkDw p 4 / 0x10000 * 0x10000
  let sz := if bits (pkDw p 3) 16 16 = 0 then 16 else bits (pkDw p 3) 16 16
  { launch := l.id, chair := l.chair, ctx := l.ctx, asid := pkAsid p, ctxpri := BitVec.ofNat 64 pri,
    cabq := BitVec.ofNat 64 (pkCabq p), chest := BitVec.ofNat 64 (base + sz),
    lmpart := BitVec.ofNat 64 (units.headD 0 * 2 ^ 8 + pkLmp p), chain := BitVec.ofNat 64 (pkDw p 7 % 2 ^ 16), trapv := 0,
    taps := List.replicate 8 0, xcnt := List.replicate 8 0, units := units, chestOk := 0, strands := [],
    pool := List.replicate 256 (false, 0), forks := [], insts := [], grants := [], post := [], ending := [],
    chestHigh := 0, nextAge := 0, nextUid := 0, stopped := false }

/-- Local-memory units of a core that no slot holds (R303). -/
def Core.freeUnits (c : Core) : List Nat :=
  (List.range 16).filter fun u => !c.slots.any fun o => match o with | some sl => sl.units.contains u | none => false

/-- CONTEXT_SLOT_TAKE: the launch at the head of a core's queue takes the lowest free slot, its LMP fitting; its PRI, as
lowered at acceptance, never exceeds PRIMAX (R23, R43, R293, R303). -/
def execContextSlotTake (core : Nat) (s : State) : Out :=
  let c := s.core core
  needSome c.lq.head? fun q => needSome (s.launch? q.launch) fun l =>
    needSome ((List.range 4).find? fun i => (c.slot? i).isNone) fun i =>
      need (decide (core < s.cores.length) && (c.slotOf l.id).isNone && !l.aborted && !l.out
          && !l.evict && decide (pkLmp l.packet ≤ c.freeUnits.length)) <|
        let pri := min (bits (pkDw l.packet 2) 24 3) (s.chair l.chair).primax
        let sl := Slot.taken l (c.freeUnits.take (pkLmp l.packet)) pri
        let s := s.modCore core fun k => { k with slots := k.slots.set i (some sl) }
        .next (s.loadChestRange core i)

/-- A pool after a strand with a tag is made: REFS of each index rise, the new one is HELD (R336). -/
def poolTake (pool : List (Bool × Nat)) (tag : Word) (idx : Nat) : List (Bool × Nat) :=
  (tagFields tag).eraseDups.foldl (fun p n => p.modify n fun x => (x.1 || decide (n = idx), x.2 + 1)) pool

/-- A strand as created (R26, R169, R290, R291, R296). -/
def Strand.fresh (uid : Nat) (tag : Word) (ba iter : Nat) (priv : Bool) (fork : Option Nat) (g v : List Datum) : Strand :=
  { uid := uid, g := g, v := v, ba := BitVec.ofNat 64 (ba / 16 * 16), tag := tag, iter := BitVec.ofNat 64 iter, lnk := 0,
    traps := BitVec.ofNat 64 (bnat priv * 2 ^ 11), trapba := 0, flt := 0, fork := fork }

/-- Adding a strand to a slot. -/
def Slot.addStrand (sl : Slot) (idx : Nat) (t : Strand) : Slot :=
  { sl with strands := sl.strands ++ [t], pool := poolTake sl.pool t.tag idx, nextUid := sl.nextUid + 1 }

/-- Whether a slot has room for a strand under pool index `idx` (R22, R28). -/
def Slot.roomFor (sl : Slot) (idx : Nat) : Bool :=
  decide (sl.strands.length < 32) && decide (idx < 256) && !(sl.pool.getD idx (true, 0)).1 && !sl.stopped

/-- A root strand's tag (R25, R26). -/
def rootTag (chair ctx idx : Nat) : Word := BitVec.ofNat 64 (chair * 2 ^ 58 + ctx * 2 ^ 54 + 2 ^ 51 + idx * 2 ^ 40)

/-- A created strand's tag: its creator's, one deeper (R26). -/
def childTag (tag : Word) (idx : Nat) : Word :=
  let d := bits tag.toNat 51 3
  BitVec.ofNat 64 (tag.toNat + 2 ^ 51 + idx * 2 ^ (40 - 8 * d))

/-- ROOT_ADMISSION: the lowest root index of the head launch, under a free pool index (R22, R26). -/
def execRootAdmission (core idx : Nat) (s : State) : Out :=
  let c := s.core core
  needSome c.lq.head? fun q => needSome (s.launch? q.launch) fun l => needSome (c.slotOf l.id) fun i =>
    needSome (c.slot? i) fun sl => need (sl.roomFor idx && !s.stopping sl) <|
      let t := Strand.fresh sl.nextUid (rootTag l.chair l.ctx idx) (pkDw l.packet 0) (rootOf l.runs q.next) l.priv none
        (List.replicate 32 .zero) (List.replicate 8 { Datum.zero with vec := true })
      let s := s.modSlot core i (·.addStrand idx t)
      let rest := c.lq.tail
      let lq := if q.next + 192 < l.count then ⟨q.launch, q.next + 192⟩ :: rest else rest
      .next (s.modCore core fun k => { k with lq := lq })

/-- ITERATION_START: the next ordinal of a fork record, within its bound (R26, R28, R398). An ordinal at or above the bound
has throttled (R353). -/
def execIterationStart (core slot rec idx : Nat) (s : State) : Out :=
  needSome (s.slot? core slot) fun sl => needSome (sl.forks.find? (·.idx = rec)) fun r =>
    need (decide (r.next < r.n) && decide (r.next - r.ended.length < r.bound) && sl.roomFor idx && !s.stopping sl) <|
      let t := Strand.fresh sl.nextUid (childTag r.tag idx) r.ba r.next r.priv (some r.idx) r.g r.v
      let sl' := sl.addStrand idx t
      let s := if r.bound ≤ r.next then s.perfEvent core sl.chair 0x0B 1 else s
      .next (s.modSlot core slot fun _ => { sl' with forks := sl'.forks.map fun x =>
        if x.idx = rec then { x with next := x.next + 1 } else x })

/-! ### Release and completion -/

/-- Writing zero over `n` bytes of a core's memory (R304). -/
def zeroBytes (m : Memory) (a n : Nat) : Memory := m.filter fun c => !(decide (a ≤ c.1) && decide (c.1 < a + n))

/-- Where a byte of a chest share lies: in the area mapped for a default share, else by its page (R306, R307). -/
def chestByte (s : State) (sl : Slot) (area va : Nat) : Trans (Nat × Nat) :=
  if sl.chestDefault then
    let gpa := area + (va - defaultChest sl.ctx)
    match stage2 s sl.chair gpa with | .ok x => .ok (gpa, x.1) | .error e => .error e
  else walkVa s sl.chair sl.asid false .store va 1

/-- Free bytes written where a released chest share held tokens (R307). -/
def State.chestFree (s : State) (sl : Slot) (area : Nat) (va : Nat) : Nat → State
  | 0 => s
  | n + 1 =>
    let (x, s) := s.draw 256
    let s := match chestByte s sl area va with
      | .ok (gpa, key) => s.storeGlobal sl.chair gpa key 1 x
      | .error _ => s
    s.chestFree sl area ((va + 1) % 2 ^ 64) n

/-- Removing a slot from its core: units zeroed, entries freed, arrays, domains and the chest share given up (R23, R243,
R260, R304, R307, R320). -/
def State.vacate (s : State) (core slot : Nat) (sl : Slot) : State :=
  let s := s.modCore core fun k =>
    { k with slots := k.slots.set slot none,
             mem := sl.units.foldl (fun m u => zeroBytes m (u * 0x4000) 0x4000) k.mem,
             poison := k.poison.filter fun w => !sl.units.contains (w / 0x800),
             arrays := k.arrays.filter (·.slot ≠ slot),
             tiles := k.tiles.filter (·.slot ≠ slot),
             palette := k.palette.map fun d => if d.owner = some slot then .reset else d,
             ranges := k.ranges.filter (·.slot ≠ some slot) }
  let area := ((s.launch? sl.launch).map (·.chestGpa)).getD 0
  s.chestFree sl area (sl.chestShare core) (128 * sl.chestHigh)

/-- Whether a launch has nothing left anywhere on the package (R23). -/
def State.launchOver (s : State) (l : Launch) : Bool :=
  !l.out && decide (l.canvases.length = 4 ∨ l.aborted)
    && s.cores.all fun c => !c.lq.any (·.launch = l.id) && (c.slotOf l.id).isNone

/-- Completing a launch with nothing left: its handle gets its status and its context number is free (R23, R321). -/
def State.finishLaunch (s : State) (id : Nat) : State :=
  match s.launch? id with
  | none => s
  | some l =>
    if s.launchOver l then
      ({ s with launches := s.launches.filter (·.id ≠ id) }).answerLaunch l.chair l.src l.status
    else s

/-- LAUNCH_DISPATCH: a canvas takes its next launch in order, each of its cores with room in its queue (R20, R22). While a
full queue stops it, the arbiter goes on accepting, and the accepted launches wait for the dispatcher in order (DESIGN
CHOICE, log entry 83). -/
def execLaunchDispatch (canvas : Nat) (s : State) : Out :=
  needSome (s.launches.find? fun l => !l.canvases.contains canvas && !l.aborted && !l.out) fun l =>
    let mine := ((List.range 48).map (48 * canvas + ·)).filter fun c => decide (l.firstOn c < l.count)
    need (decide (canvas < 4) && mine.all fun c => decide ((s.core c).lq.length < 16)) <|
      let s := s.modLaunch l.id fun x => { x with canvases := canvas :: x.canvases }
      .next ((mine.foldl (fun s c => s.modCore c fun k => { k with lq := k.lq ++ [⟨l.id, l.firstOn c⟩] }) s).finishLaunch l.id)

/-- Whether a copy names a local address on a core; one that is held may name any, until its descriptor is read at issue
(R210, R211, R304). -/
def Eng.namesCore (e : Eng) (core : Nat) : Bool :=
  let d (i : Nat) := (e.desc.getD i 0).toNat
  (match e.instr with | .xcopy _ | .xfill _ | .xcomp _ => true | _ => false)
    && (e.held || (bit (d 3) 14 && decide (bits (d 0) 32 8 = core)) || (bit (d 3) 13 && decide (bits (d 1) 32 8 = core)))

/-- SLOT_RELEASE (R23, R171, R304). -/
def execSlotRelease (core slot : Nat) (s : State) : Out :=
  let c := s.core core
  needSome (c.slot? slot) fun sl =>
    let copies := (List.range s.cores.length).any fun ci => (s.core ci).engs.any fun e => e.namesCore core &&
      (match s.slot? ci e.slot with | some x => decide (x.launch = sl.launch) | none => false)
    need (sl.strands.isEmpty && sl.insts.isEmpty && sl.grants.isEmpty && sl.post.isEmpty && sl.ending.isEmpty
      && sl.forks.all (fun r => decide (r.n ≤ r.next)) && !c.lq.any (·.launch = sl.launch)
      && !s.dressers.any (fun d => d.core = core && d.slot = slot)
      && !c.engs.any (·.slot = slot) && !copies) <|
      let s := s.modCore core fun k => { k with cq := k.cq.map fun e => if e.slot = slot then { e with st := .free } else e }
      .next ((s.vacate core slot sl).finishLaunch sl.launch)

end Sys2Proof.Machine
end

