-- ==== Sys2Proof/Machine/Faults.lean ====
section
/-! DEFINITION. Faults taken, aborts, the fault queue and its answers, and poison (R35, R155, R196, R197, R297, R316,
R324, R325, R349, R354 to R360, R405). -/

namespace Sys2Proof.Machine

/-! ### Abort -/

/-- A command of a Palette domain (R261). -/
def isPalette : Instr → Bool
  | .pdom _ | .pwr _ | .pstep _ | .pfeed _ | .psave _ | .prest _ | .patch _ => true
  | _ => false

/-- A command that an abort stops: ATTN, the commands of dropped domains, and LAUNCH (R24, R360 step 4). -/
def stoppedByAbort : Instr → Bool
  | .attn _ | .launch _ => true
  | i => isPalette i

/-- SCAT and SCATA (R209). -/
def isScatter : Instr → Bool
  | .scat _ => true
  | .scata _ => true
  | _ => false

/-- Stopping an issued command: its handle completes, and it never acts afterwards (R209, R360, R374). -/
def State.stopEng (s : State) (core : Nat) (e : Eng) (status count : Nat) : State :=
  (s.completeCq core e.slot e.cq e.seq (complWord count status)).modCore core fun k =>
    { k with engs := k.engs.filter (·.id ≠ e.id) }

/-- Every committed store of a slot applied, in order (R360 step 3). -/
def State.applyAll (s : State) (core slot : Nat) (sl : Slot) : State :=
  let s := sl.post.foldl (fun s p => match p.act with | .store st => (s.applyStore core sl st).1 | _ => s) s
  s.modSlot core slot fun x => { x with post := [] }

/-- A doubleword of a command's descriptor. -/
def Eng.dw (e : Eng) (i : Nat) : Nat := (e.desc.getD i 0).toNat

/-- The head dimension of a DH code (R219, R257). -/
def headDim (dh : Nat) : Nat := 64 * 2 ^ dh

/-- The head dimension of a call (R257). -/
def Eng.dh (e : Eng) : Nat := headDim (bits (e.dw 2) 9 2)

/-- Bytes of an output element of a call (R257). -/
def Eng.outSize (e : Eng) : Nat := if bit (e.dw 2) 6 then 2 else 4

/-- Each of `n` bytes of a partition keeps its value or takes a free one (R68). -/
def State.freeBytes (s : State) (core : Nat) (sl : Slot) (off : Nat) : Nat → State
  | 0 => s
  | n + 1 =>
    let (x, s) := s.draw 2
    let (y, s) := s.draw 256
    let s := if x = 0 then s else s.storeLocal core sl off 1 y
    s.freeBytes core sl (off + 1) n

/-- A call that ends with a fault: each byte of the output and the LSE of the rows it has not written is old, or free where
the call would have written it (R68, log entry 35). -/
def Eng.freeOut (e : Eng) (s : State) (core : Nat) (sl : Slot) : State :=
  let lse := e.binding.any (·.lse)
  e.todo.foldl (fun s r =>
    let s := s.freeBytes core sl (bits (e.dw 3) 18 18 + r * e.dh * e.outSize) (e.dh * e.outSize)
    if lse then s.freeBytes core sl (bits (e.dw 3) 0 18 + 4 * r) 4 else s) s

/-- Whether a command is an ATTN. -/
def isAttn : Instr → Bool
  | .attn _ => true
  | _ => false

/-- Whether a command is a LAUNCH. -/
def isLaunch : Instr → Bool
  | .launch _ => true
  | _ => false

/-- The steps of an abort on one core: blocks discarded, committed stores applied, held commands and reservations
dropped, arrays and domains dropped, strands ended (R360 steps 1 to 4). A LAUNCH that is still held never starts, and its
handle completes with SERVICE_ABORT (R24). `reset` is the chair reset of R374. -/
def State.abortSlot (s : State) (core slot : Nat) (reset : Bool) : State :=
  match s.slot? core slot with
  | none => s
  | some sl =>
    let s := sl.insts.foldl (fun s i => s.discard core slot i.age) s
    let s := s.applyAll core slot sl
    let s := { s with dressers := s.dressers.filter fun d => !(d.core = core && d.slot = slot) }
    let held := (s.core core).engs.filter fun e => decide (e.slot = slot) && e.held
    let s := held.foldl (fun s e => if isLaunch e.instr then s.stopEng core e FC.serviceAbort 0 else s) s
    let s := s.modCore core fun k => { k with engs := k.engs.filter fun e => !(e.slot = slot && e.held) }
    let mine := (s.core core).engs.filter (·.slot = slot)
    let s := mine.foldl (fun s e =>
      if reset && isScatter e.instr then s.stopEng core e FC.scatterAbandoned e.count
      else if reset || stoppedByAbort e.instr then
        let s := if isAttn e.instr then e.freeOut s core sl else s
        s.stopEng core e FC.serviceAbort 0
      else s) s
    let s := s.modCore core fun k =>
      { k with arrays := k.arrays.filter (·.slot ≠ slot),
               palette := k.palette.map fun d => if d.owner = some slot then .reset else d }
    s.modSlot core slot fun x =>
      { x with strands := [], forks := [], insts := [], grants := [], ending := [], stopped := true }

/-- A context aborted with a code, on every core at once (R360); its handle completes once its slots are released. -/
def State.abort (s : State) (id code : Nat) : State :=
  match s.launch? id with
  | none => s
  | some l =>
    if l.aborted then s
    else
      let s := s.modLaunch id fun x => { x with aborted := true, status := code, out := false }
      let s := { s with
        saves := s.saves.filter (·.launch ≠ id),
        arb := s.arb.filter fun e => match e.src with | .device _ _ _ _ owner _ => owner ≠ id | _ => true,
        dressers := s.dressers.filter fun d => d.slot ≠ 4 + id,
        cores := s.cores.map fun (k : Core) => { k with lq := k.lq.filter (·.launch ≠ id) },
        chairs := s.chairs.modify l.chair fun (c : Chair) => { c with pendingX := c.pendingX ++ [Notice.abort l.ctx code] } }
      let s := (List.range s.cores.length).foldl (fun s ci => match (s.core ci).slotOf id with
        | some i => s.abortSlot ci i false | none => s) s
      s.finishLaunch id

/-- CONTEXT_ABORT by the service, or eviction for good (R24, R360). -/
def execContextAbort (launch : Nat) (s : State) : Out :=
  needSome (s.launch? launch) fun l => need (!l.aborted) <| .next (s.abort launch FC.serviceAbort)

/-- FAULT_TAKEN: fault `n` of the oldest block of a strand is taken: trap entry, or abort of the context (R35, R155,
R297, R358). -/
def execFaultTaken (core slot age n : Nat) (s : State) : Out :=
  needSome (s.slot? core slot) fun sl => needSome (sl.inst? age) fun i => needSome (sl.strand? i.uid) fun t =>
    needSome (i.faults[n]?) fun f => need (sl.isOldest i && !sl.stopped) <|
      let s := if f.code = FC.uncorrectable ∧ i.dead then s.modErr core 2 (·.consume 1) else s
      let s := s.discardFrom core slot i.uid age
      if t.canTrap sl.trapv then .next (s.modStrand core slot i.uid (·.trapEntry sl.trapv f))
      else .next (s.abort sl.launch f.code)

/-! ### The fault queue (R324, R325) -/

/-- A ring of CHFQ or CHTQ: its base and the log of its entries, where one is placed. -/
def ringOf (desc : Word) : Option (Nat × Nat) :=
  let n := bits desc.toNat 0 4
  if 6 ≤ n ∧ n ≤ 12 then some (bits desc.toNat 12 52 * 0x1000, n) else none

/-- Writing `n` bytes of host-physical memory from the Bureau. -/
def State.hpaWrite (s : State) (a n v : Nat) : State :=
  { s with hbm := s.hbm.write a n v, poison := s.poison.filter fun w => !(wholeWords a n).contains w }

/-- Entries of a ring that its consumer has not passed: PI − CI modulo 2^64 (R348). -/
def State.ringUsed (s : State) (base : Nat) : Nat := (s.hbm.read base 8 + 2 ^ 64 - s.hbm.read (base + 8) 8) % 2 ^ 64

/-- Poison of a ring's counts, consumed by whoever works on the ring, is a machine check to the service (R316, R393). -/
def State.noteRing (s : State) (base : Nat) : State := s.noteCarve (s.poisonWords base 16)

/-- Appending a 32-byte record to a ring. -/
def State.ringPush (s : State) (base n : Nat) (dws : List Word) : State :=
  let pi := s.hbm.read base 8
  let at_ := base + 64 + 32 * (pi % 2 ^ n)
  let s := (List.range 4).foldl (fun s i => s.hpaWrite (at_ + 8 * i) 8 (dws.getD i 0).toNat) s
  s.hpaWrite base 8 ((pi + 1) % 2 ^ 64)

/-- The service passes one record of a ring: CI steps. -/
def State.ringPop (s : State) (base : Nat) : State :=
  if s.ringUsed base = 0 then s else s.hpaWrite (base + 8) 8 ((s.hbm.read (base + 8) 8 + 1) % 2 ^ 64)

/-- Fault ids that the ports hold for a chair. -/
def State.heldFids (s : State) (chair : Nat) : List Nat :=
  s.cores.flatMap fun k => k.held.filterMap fun h => match k.slot? h.slot with
    | some sl => if sl.chair = chair then h.fid else none | none => none

/-- A fault id that is not in use, counting up from `x` modulo 2^32 (R324). -/
def freshId (used : List Nat) (x : Nat) : Nat :=
  match (List.range (used.length + 1)).find? fun i => !used.contains ((x + i) % 2 ^ 32) with
  | some i => (x + i) % 2 ^ 32
  | none => x % 2 ^ 32

/-- Whether a held fault is eligible for the fault queue and not yet written to it: its block is the oldest of its strand
(R35, R197). -/
def Core.eligible (c : Core) (h : Held) : Bool :=
  match (c.slot? h.slot).bind fun sl => (sl.inst? h.age).map fun i => sl.isOldest i with
  | some b => b && h.fid.isNone
  | none => false

/-- FAULT_QUEUE_RECORD: a held fault whose block is the oldest of its strand is written to the chair's queue, an entry
being free, after those of its port that became eligible before it (R35, R197, R324). Eligible faults stand in a core's list
in the order in which they became eligible (log entry 29). -/
def execFaultQueueRecord (core n : Nat) (s : State) : Out :=
  let c := s.core core
  needSome (c.held[n]?) fun h => needSome (s.slot? core h.slot) fun sl => needSome (sl.inst? h.age) fun i =>
    needSome (sl.strand? i.uid) fun t => needSome (ringOf (s.chair sl.chair).chfq) fun r =>
      let first := !(c.held.take n).any fun x => c.eligible x && decide (Config.memoryPort x.k = Config.memoryPort h.k)
      need (c.eligible h && first && decide (s.ringUsed r.1 < 2 ^ r.2)) <|
        let (x, s) := s.draw (2 ^ 32)
        let fid := freshId (s.heldFids sl.chair) x
        let dw3 := fid * 2 ^ 32 + core * 2 ^ 24 + h.slot * 2 ^ 22 + bnat h.wr * 2 ^ 21 + h.lsid * 2 ^ 16 + h.stage
        let s := s.modCore core fun k => { k with held := k.held.set n { h with fid := some fid } }
        .next ((s.noteRing r.1).ringPush r.1 r.2 [t.tag, BitVec.ofNat 64 i.ba, BitVec.ofNat 64 h.va, BitVec.ofNat 64 dw3])

/-- Whether the service's walk of stage 1 succeeds with the permission a held access needs (R405). -/
def State.stage1Ok (s : State) (sl : Slot) (user : Bool) (need : Need) (va : Nat) : Bool :=
  match stage1 s s.cores.length sl.chair sl.asid va with
  | .ok e => e.perm.grants need user
  | .error _ => false

/-- Whether a held access meets a malformed second-stage entry, whose fault the service rejects (R332). -/
def State.stage2Bad (s : State) (sl : Slot) (user : Bool) (need : Need) (va : Nat) : Bool :=
  match translate s s.cores.length sl.chair sl.asid user need va with
  | .error .malformed => true
  | _ => false

/-- Whether the record that a chair's service has before it is that of a fault of a core, slot and id (R324). -/
def State.headRecord (s : State) (core slot fid : Nat) (c : Chair) : Bool :=
  match ringOf c.chfq with
  | none => false
  | some (base, n) =>
    let ci := s.hbm.read (base + 8) 8
    let dw3 := s.hbm.read (base + 64 + 32 * (ci % 2 ^ n) + 24) 8
    decide (s.ringUsed base ≠ 0) && decide (bits dw3 32 32 = fid) && decide (bits dw3 24 8 = core) && decide (bits dw3 22 2 = slot)

/-- The service passes the record it answers, where it stands next in its chair's queue. -/
def State.passRecord (s : State) (core slot fid : Nat) : State :=
  match (s.chairs.find? (s.headRecord core slot fid)).bind fun c => ringOf c.chfq with
  | some r => (s.noteRing r.1).ringPop r.1
  | none => s

/-- What the rules make the service answer: a stage-1 fault as its fresh walk decides, a malformed second-stage entry with a
rejection (R332, R405). -/
def State.answerOk (s : State) (sl : Slot) (user : Bool) (nd : Need) (h : Held) (wake : Bool) : Bool :=
  if h.stage = 1 then wake == s.stage1Ok sl user nd h.va else !(wake && s.stage2Bad sl user nd h.va)

/-- FAULT_ANSWER: the service passes the record; a wake retries the access from its first step, a rejection raises
TRANSLATION; an answer to a fault that no port holds changes nothing else (R197, R325, R332, R405). -/
def execFaultAnswer (core slot fid : Nat) (wake : Bool) (s : State) : Out :=
  let s := s.passRecord core slot fid
  match s.slot? core slot, (s.core core).held.find? (fun h => h.slot = slot && h.fid = some fid) with
  | some sl, some h =>
    needSome (sl.inst? h.age) fun i => needSome (sl.strand? i.uid) fun t =>
      let fetch := i.words.isEmpty
      let nd : Need := if fetch then .fetch else if h.wr then .store else .load
      need (s.answerOk sl (!t.priv) nd h wake) <|
        let s := s.modCore core fun k => { k with held := k.held.erase h }
        if wake then
          if fetch then
            .next (s.modSlot core slot fun x =>
              { x with insts := x.insts.filter (·.age ≠ h.age), grants := x.grants ++ [⟨i.uid, i.ba, i.win, false⟩] })
          else match h.ret with
            | .fire m => .next (s.modCore core fun k => { k with ready := k.ready ++ [m] })
            | .again => .next s
        else if fetch then .next (s.record core slot h.age ⟨FC.translation, true, 0, h.va, 0⟩)
        else match (s.core core).loads.findIdx? (fun l => l.slot = slot && l.age = h.age && l.k = h.k) with
          | some n => needSome ((s.core core).loads[n]?) fun l => .next (s.loadFails core sl.chair n l FC.translation h.va)
          | none => .next (s.record core slot h.age (.access FC.translation h.lsid h.va))
  | _, _ => .next s

/-! ### Poison (R316, R349) -/

/-- An error record changed. -/
def State.modUnit (s : State) (u : ErrUnit) (f : ErrRec → ErrRec) : State :=
  match u with
  | .coreLocal c => s.modErr c 0 f
  | .coreCabinet c => s.modErr c 1 f
  | .coreCode c => s.modErr c 2 f
  | .slice k => { s with sliceErrs := s.sliceErrs.modify k f }
  | .stack m => { s with stackErrs := s.stackErrs.modify m f }

/-- A single-bit error that a unit corrected, at a unit-local address (R316, R349). -/
def State.corrected (s : State) (u : ErrUnit) (loc : Nat) : State := s.modUnit u (·.correct loc)

/-- A word of HBM poisoned; DE steps at its stack (R316, R349, R350). -/
def State.poisonHbm (s : State) (a : Nat) : State :=
  { s with poison := if s.poison.contains (a / 8) then s.poison else (a / 8) :: s.poison,
           stackErrs := s.stackErrs.modify (homeSlice a / 16) fun e => e.defer a }

/-- POISON_DETECTED: a word that cannot be corrected is poisoned, or a held token, block or window word is; DE steps. An
error of Bureau state is a machine check to the service (R308, R316, R349, R393). -/
def execPoisonDetected (site : PoisonSite) (s : State) : Out :=
  match site with
  | .hbm a => need (decide (a < 0xA000000000)) <| .next (s.poisonHbm a)
  | .localMem core a => need (decide (core < s.cores.length) && decide (a < 0x40000)) <|
      .next ((s.modCore core fun k =>
        { k with poison := if k.poison.contains (a / 8) then k.poison else (a / 8) :: k.poison }).modErr core 0 (·.defer a))
  | .cabinet core n => needSome ((s.core core).cab[n]?) fun t =>
      .next ((s.modCore core fun k => { k with cab := k.cab.set n { t with poison := true } }).modErr core 1 (·.defer n))
  | .chest core n => needSome ((s.core core).chest[n]?) fun t =>
      .next ((s.modCore core fun k => { k with chest := k.chest.set n { t with poison := true } }).modErr core 1 (·.defer n))
  | .image n off => needSome (s.saves[n]?) fun x => need (decide (off < imageSize)) <|
      match stage2 s x.body.chair (x.area + off) with
      | .ok (key, _) => .next (s.poisonHbm key)
      | .error _ => .fault .notEnabled
  | .decoded core n k => needSome ((s.core core).code[n]?) fun d => need (decide (k < d.words.length + 2)) <|
      let d' : Decoded := { d with poison := some (min (d.ba + 8 * k) (d.poison.getD (d.ba + 8 * k))) }
      .next ((s.modCore core fun c => { c with code := c.code.set n d' }).modErr core 2 (·.defer (d.ba + 8 * k)))
  | .window core slot age k => needSome ((s.slot? core slot).bind (·.inst? age)) fun i => need (decide (k < i.words.length)) <|
      .next ((s.modInst core slot age fun i => { i with bad := k :: i.bad }).modErr core 2 (·.defer (32 * i.win + k)))
  | .bureau => .next { s with svcCheck := true }

end Sys2Proof.Machine
end

