-- ==== Sys2Proof/Machine/Engines.lean ====
section
/-! DEFINITION. The engine commands of memory: copies, scatters, sync words, invalidation, KV append and LAUNCH, each as
what it does at issue and in each of its units (R177, R208 to R213, R217 to R220, R313). -/

namespace Sys2Proof.Machine

/-- A command that stops with a fault and a count (R212). -/
def Eng.fail (e : Eng) (code count : Nat) : Eng := { e with status := code, count := count, todo := [] }

/-- A command that stops with a failure and what it consumed. -/
def Eng.stop (e : Eng) (s : State) (x : Fail) (count : Nat) : State × Eng := (s.noteUe x, e.fail x.code count)

/-- A command with units to apply. -/
def Eng.plan (e : Eng) (n : Nat) : Eng := { e with todo := List.range n }

/-- A unit applied. -/
def Eng.did (e : Eng) (k : Nat) : Eng := { e with todo := e.todo.erase k, done := k :: e.done }

/-- The context of a command: its slot on its core. -/
abbrev EngOut := State × Eng

/-- The poison in `n` bytes of a partition, as an engine that reads them fails by it (R212, R316, R349). -/
def State.localFail (s : State) (core : Nat) (sl : Slot) (off n : Nat) : Option Fail :=
  let ws := (sl.localWords off n).filter ((s.core core).poison.contains ·)
  if ws.isEmpty then none else some ⟨FC.uncorrectable, [], [], [(core, ws.length)]⟩

/-- A local descriptor of `n` doublewords read at issue; poisoned bytes are UNCORRECTABLE on the handle (R211, R316). -/
def Eng.readDesc (e : Eng) (s : State) (core : Nat) (sl : Slot) (n : Nat) (k : Eng → EngOut) : EngOut :=
  let off := e.a.toNat % 2 ^ 64
  match s.localFail core sl off (8 * n) with
  | some x => e.stop s x 0
  | none => k { e with desc := dwsOf (s.readLocal core sl off (8 * n)) n }

/-- Whether a command reads what every earlier store of its strand has left: REL = 1, and always SYNCI, INVR and INVA (R211,
R217, R220). -/
def Eng.seesAll (e : Eng) : Bool := engRel e.instr || match e.instr with | .synci _ => true | _ => false

/-- The stores of its strand before a command that are committed and not yet applied, in program order (R281). -/
def Slot.storesFor (sl : Slot) (e : Eng) : List PStore :=
  sl.post.filterMap fun p => if p.uid = e.uid ∧ before p.age p.lsid e.age e.lsid then
    (match p.act with | .store x => some x | _ => none) else none

/-- Whether the units of a command may read: what it is to see has been applied (R211, R220). -/
def State.unitsMay (s : State) (core : Nat) (sl : Slot) (e : Eng) : Bool :=
  !e.seesAll || ((sl.storesFor e).isEmpty && !s.chainBefore core e.slot e.uid e.age e.lsid)

/-- What loads read ahead is given up once an engine has acted (R282, log entry 17). -/
def State.engineActed (s : State) : State :=
  { s with cores := s.cores.map fun (k : Core) => { k with loads := k.loads.map fun (l : PLoad) => { l with pre := [] } } }

/-! ### Local addresses and sync words -/

/-- The core and slot of a local address of a context, with its offset; none is PROTECTION (R210, R212). -/
def State.localTarget (s : State) (launch addr n : Nat) : Option (Nat × Nat × Slot × Nat) :=
  let core := bits addr 32 8
  let off := bits addr 0 18
  if bits addr 40 24 ≠ 0 ∨ bits addr 18 14 ≠ 0 ∨ 192 ≤ core then none
  else (s.core core).slotOf launch |>.bind fun i => ((s.core core).slot? i).bind fun sl =>
    if sl.partSize < off + n then none else some (core, i, sl, off)

/-- Raising a sync word by one unit (R213); a poisoned one stays as it is and fails the command that raises it (R316). -/
def State.raiseSync (s : State) (core : Nat) (sl : Slot) (off : Nat) : Except Fail State :=
  match s.localFail core sl off 16 with
  | some x => .error x
  | none =>
    let w := s.readLocal core sl off 16
    let target := bits w 0 40
    let gen := bits w 40 24
    let count := (bits w 64 64 + 1) % 2 ^ 64
    let q := if target = 0 then 0 else count / target
    .ok (s.storeLocal core sl off 16 (target + (gen + q) % 2 ^ 24 * 2 ^ 40 + (count - q * target) * 2 ^ 64))

/-! ### Copies (R210 to R212) -/

/-- Element size of a copy descriptor (R210). -/
def Eng.esz (e : Eng) : Nat := 2 ^ bits (e.dw 3) 2 2

/-- COUNT of a copy descriptor. -/
def Eng.total (e : Eng) : Nat := bits (e.dw 3) 32 32

/-- Whether SRC is local: SRCL, on XCOPY and XCOMP (R210). -/
def Eng.srcLocal (e : Eng) : Bool := bit (e.dw 3) 14

/-- Whether DST is local. -/
def Eng.dstLocal (e : Eng) : Bool := bit (e.dw 3) 13

/-- XFILL. -/
def Eng.isFill (e : Eng) : Bool := match e.instr with | .xfill _ => true | _ => false

/-- XCOMP. -/
def Eng.isComp (e : Eng) : Bool := match e.instr with | .xcomp _ => true | _ => false

/-- The source and destination bytes of a copy. -/
def Eng.bytes (e : Eng) : Nat := if e.isComp then e.total * e.esz else e.total

/-- Where a copy's sync word lies: the destination core of a local destination, else the issuing core (R210). -/
def State.syncAt (s : State) (core : Nat) (sl : Slot) (e : Eng) : Option (Nat × Slot × Nat) :=
  let off := 16 * bits (e.dw 3) 16 16
  if e.dstLocal then
    match s.localTarget sl.launch (e.dw 1 / 2 ^ 32 % 2 ^ 8 * 2 ^ 32 + off) 16 with
    | some (c, _, x, o) => if off < 2 ^ 18 then some (c, x, o) else none
    | none => none
  else if sl.partSize < off + 16 then none else some (core, sl, off)

/-- A copy at issue: its descriptor is checked (R212). -/
def startCopy (s : State) (core : Nat) (sl : Slot) (e : Eng) : EngOut :=
  e.readDesc s core sl 4 fun e =>
    let d3 := e.dw 3
    if bits d3 4 9 ≠ 0 ∨ bits d3 0 2 ≠ 0 ∨ e.total = 0 ∨ (e.isFill ∧ e.total % e.esz ≠ 0)
        ∨ (!e.isComp ∧ e.dw 2 ≠ 0) ∨ (e.isFill ∧ e.srcLocal) then (s, e.fail FC.reservedField 0)
    else if (e.srcLocal ∧ (s.localTarget sl.launch (e.dw 0) e.bytes).isNone)
        ∨ (e.dstLocal ∧ (s.localTarget sl.launch (e.dw 1) (if e.isComp then 0 else e.bytes)).isNone)
        ∨ (bit d3 15 ∧ (s.syncAt core sl e).isNone) then (s, e.fail FC.protection 0)
    else (s, e.plan ((e.bytes + 63) / 64))

/-- The longest written prefix of a copy (R212). -/
def Eng.prefixBytes (e : Eng) : Nat :=
  let n := ((List.range ((e.total + 63) / 64)).takeWhile e.done.contains).length
  min e.total (64 * n)

/-- Bytes of a copy's source (R211). -/
def Eng.readSrc (e : Eng) (s : State) (sl : Slot) (off n : Nat) : Except Fail Nat :=
  if e.isFill then
    .ok ((List.range n).foldl (fun v i => v + bits (e.dw 0) (8 * ((off + i) % e.esz)) 8 * 2 ^ (8 * i)) 0)
  else if e.srcLocal then
    match s.localTarget sl.launch (e.dw 0) (off + n) with
    | none => .error (.of FC.protection)
    | some (c, _, x, o) =>
      match s.localFail c x (o + off) n with
      | some y => .error y
      | none => .ok (s.readLocal c x (o + off) n)
  else readVa s sl.chair sl.asid (!e.priv) ((e.dw 0 + off) % 2 ^ 64) n

/-- Storing bytes of a copy's destination (R211). -/
def Eng.writeDst (e : Eng) (s : State) (sl : Slot) (off n v : Nat) : Except Fail State :=
  if e.dstLocal then
    match s.localTarget sl.launch (e.dw 1) (off + n) with
    | none => .error (.of FC.protection)
    | some (c, _, x, o) => .ok (s.storeLocal c x (o + off) n v)
  else writeVa s sl.chair sl.asid (!e.priv) ((e.dw 1 + off) % 2 ^ 64) n v

/-- Poisoning bytes of a copy's destination (R212). -/
def Eng.poisonDst (e : Eng) (s : State) (sl : Slot) (off n : Nat) : State :=
  if e.dstLocal then
    match s.localTarget sl.launch (e.dw 1) (off + n) with
    | none => s
    | some (c, _, x, o) => s.poisonLocal c x (o + off) n
  else poisonVa s sl.chair sl.asid (!e.priv) ((e.dw 1 + off) % 2 ^ 64) n

/-- A copy whose source fails: poison of the source goes to the bytes of the destination (R212, R316). -/
def Eng.srcFail (e : Eng) (s : State) (sl : Slot) (off n : Nat) (x : Fail) (count : Nat) : EngOut :=
  let (s, e') := e.stop s x count
  (if x.code = FC.uncorrectable then e.poisonDst s sl off n else s, e')

/-- Raising a copy's sync word, where it is enabled (R211). -/
def State.raiseFor (s : State) (core : Nat) (sl : Slot) (e : Eng) : Except Fail State :=
  if bit (e.dw 3) 15 then (match s.syncAt core sl e with | some (c, x, o) => s.raiseSync c x o | none => .ok s) else .ok s

/-- One unit of XCOPY or XFILL: 64 bytes or the remainder, then its raise (R211, R212). -/
def unitCopy (s : State) (core : Nat) (sl : Slot) (e : Eng) (k : Nat) : EngOut :=
  let off := 64 * k
  let n := min 64 (e.total - off)
  match e.readSrc s sl off n with
  | .error x => e.srcFail s sl off n x e.prefixBytes
  | .ok v =>
    match e.writeDst s sl off n v with
    | .error x => e.stop s x e.prefixBytes
    | .ok s =>
      let e := e.did k
      let e := { e with count := e.prefixBytes }
      match s.raiseFor core sl e with
      | .error x => e.stop s x e.count
      | .ok s => (s, e)

/-- Kept elements of a chunk with their indices (R211). -/
def keptOf (esz v n first : Nat) : List (Nat × Nat) :=
  (List.range n).filterMap fun i => let x := bits v (8 * esz * i) (8 * esz); if x = 0 then none else some (first + i, x)

/-- Writing one kept element as number `n`, its index, and the raise of a unit that it fills; the elements kept, and a
failure (R211). -/
def Eng.keep1 (e : Eng) (s : State) (core : Nat) (sl : Slot) (i x n : Nat) : State × Nat × Option Fail :=
  match e.writeDst s sl (n * e.esz) e.esz x with
  | .error c => (s, n, some c)
  | .ok s =>
    match (if e.dw 2 = 0 then Except.ok s
        else writeVa s sl.chair sl.asid (!e.priv) ((e.dw 2 + 4 * n) % 2 ^ 64) 4 (i % 2 ^ 32)) with
    | .error c => (s, n + 1, some c)
    | .ok s =>
      match (if (n + 1) * e.esz % 64 = 0 then s.raiseFor core sl e else .ok s) with
      | .error c => (s, n + 1, some c)
      | .ok s => (s, n + 1, none)

/-- Writing kept elements in order, up to the first failure. -/
def Eng.keep (e : Eng) (s : State) (core : Nat) (sl : Slot) : List (Nat × Nat) → Nat → State × Nat × Option Fail
  | [], n => (s, n, none)
  | (i, x) :: r, n =>
    match e.keep1 s core sl i x n with
    | (s, n, some f) => (s, n, some f)
    | (s, n, none) => e.keep s core sl r n

/-- One chunk of XCOMP, in ascending order (R211). -/
def unitComp (s : State) (core : Nat) (sl : Slot) (e : Eng) (k : Nat) : EngOut :=
  let per := 64 / e.esz
  let n := min per (e.total - per * k)
  match e.readSrc s sl (64 * k) (n * e.esz) with
  | .error x => e.srcFail s sl (e.count * e.esz) (n * e.esz) x e.count
  | .ok v =>
    match e.keep s core sl (keptOf e.esz v n (per * k)) e.count with
    | (s, c, some x) => e.stop s x c
    | (s, c, none) =>
      let e := { e.did k with count := c }
      if e.todo.isEmpty ∧ c * e.esz % 64 ≠ 0 then
        match s.raiseFor core sl e with
        | .error x => e.stop s x c
        | .ok s => (s, e)
      else (s, e)

/-! ### Scatters (R208, R209) -/

/-- The lanes, width and operation of a scatter; SCAT stores. -/
def scatterOf : Instr → BitVec 8 × IW × Option AmoOp
  | .scat f => (f.lanes, f.w, none)
  | .scata f => (f.lanes, f.w, some f.op)
  | _ => (0, .w8, none)

/-- Address lane `i` of a scatter. -/
def Eng.laneAddr (e : Eng) (i : Nat) : Nat := bits e.a.toNat (64 * i) 64

/-- A scatter at issue. -/
def startScatter (s : State) (e : Eng) : EngOut :=
  (s, { e with todo := (List.range 8).filter fun i => (scatterOf e.instr).1.getLsbD i })

/-- One lane of a scatter, whole (R208, R209, R385). -/
def unitScatter (s : State) (sl : Slot) (e : Eng) (k : Nat) : EngOut :=
  let (_, w, op) := scatterOf e.instr
  let n := w.bytes
  let va := e.laneAddr k
  let data := bits e.b.toNat (64 * k) (8 * n)
  match walkVa s sl.chair sl.asid (!e.priv) .store va n with
  | .error x => e.stop s x.fail e.count
  | .ok (gpa, key) =>
    let store (v : Nat) : EngOut := (s.storeGlobal sl.chair gpa key n v, { e.did k with count := e.count + 1 })
    if s.lost key then e.stop s (.of FC.uncorrectable) e.count
    else match op with
      | none => store data
      | some op =>
        if s.poisoned key n then e.stop s ⟨FC.uncorrectable, s.poisonWords key n, [], []⟩ e.count
        else store (amoNew op w (s.hbm.read key n) (BitVec.ofNat 512 data))

/-- A lane may be applied when no lower lane of the same address waits (R208). -/
def laneMay (e : Eng) (k : Nat) : Bool := !e.todo.any fun j => decide (j < k) && decide (e.laneAddr j = e.laneAddr k)

/-! ### Sync words and invalidation (R213, R217) -/

/-- SYNCI applied; GEN of a poisoned word cannot be kept (R213, R316). -/
def unitSynci (s : State) (core : Nat) (sl : Slot) (e : Eng) : EngOut :=
  let off := e.a.toNat % 2 ^ 64
  match s.localFail core sl off 16 with
  | some x => e.stop s x 0
  | none =>
    let gen := bits (s.readLocal core sl off 8) 40 24
    (s.storeLocal core sl off 16 (e.b.toNat % 2 ^ 40 + gen * 2 ^ 40), e.did 0)

/-- The ASID and range of an invalidation; none is the whole ASID (R217). -/
def invRange (e : Eng) : Nat × Option (Nat × Nat) :=
  match e.instr with
  | .invr f => (f.asid.toNat, some (e.a.toNat % 2 ^ 64, e.b.toNat % 2 ^ 64))
  | .inva f => (f.asid.toNat, none)
  | _ => (0, some (0, 0))

/-- Whether an invalidation covers the page of `size` that holds an address (R217). -/
def covers (r : Option (Nat × Nat)) (va size : Nat) : Bool :=
  match r with
  | none => true
  | some (a, n) => let p := va / size * size; decide (n ≠ 0) && decide (p < a + n) && decide (a < p + size)

/-- The size of the page that a core's translation of an address used: that of the entry it holds, else the largest. -/
def Core.pageSize (c : Core) (chair asid va : Nat) : Nat :=
  match c.tlbFind chair asid va with | some e => e.size | none => 2 ^ 30

/-- A store not committed whose covered translation is dropped, to be walked afresh (R198, R217). -/
def PStore.unwalk (hit : Nat → Bool) (p : PStore) : PStore := if hit p.va && !p.loc then { p with phys := none } else p

/-- A load whose covered translations are dropped; SEQRD reads by a guest-physical address and holds none (R217, R277). -/
def PLoad.unwalk (hit : Nat → Bool) (l : PLoad) : PLoad :=
  match l.form with
  | .seqrd _ => l
  | _ => { l with parts := l.parts.map fun p => if hit p.va && p.got.isNone then { p with phys := none } else p, pre := [] }

/-- Dropping what a core holds under covered translations, decoded blocks with a byte in a covered page among it; accesses
not committed are marked to walk afresh (R198, R217, R308). -/
def Core.invalidate (c : Core) (chair asid : Nat) (r : Option (Nat × Nat)) : Core :=
  let ours (slot : Nat) : Bool := match c.slot? slot with | some sl => sl.chair = chair && sl.asid = asid | none => false
  let hit (va : Nat) : Bool := covers r va (c.pageSize chair asid va)
  let drop (x : Inst) : Inst := { x with stores := x.stores.map (·.unwalk hit) }
  let block (d : Decoded) : Bool := hit d.ba || hit (d.ba + 8 * d.words.length + 15)
  { c with
    tlb := c.tlb.filter fun e => !(e.chair = chair && e.asid = asid && covers r e.va e.size),
    ranges := c.ranges.filter fun e => !(e.chair = chair && e.asid = asid &&
      (match r with | none => true | some (a, n) => decide (n ≠ 0) && decide (e.va < a + n) && decide (a < e.va + e.len))),
    code := c.code.filter fun d => !(d.chair = chair && d.asid = asid && block d),
    loads := c.loads.map fun l => if ours l.slot then l.unwalk hit else l,
    chainOut := c.chainOut.map fun m => if ours m.slot then { m with store := m.store.map (·.unwalk hit) } else m,
    slots := (List.range 4).map fun i => (c.slot? i).map fun sl =>
      if ours i then { sl with insts := sl.insts.map drop } else sl }

/-- The step of an invalidation that drops translations (R217 step 1). -/
def unitInv (s : State) (sl : Slot) (e : Eng) : EngOut :=
  let (asid, r) := invRange e
  if r = some (e.a.toNat % 2 ^ 64, 0) then (s, e.did 0)
  else
    let hit (d : DEntry) (va : Nat) : Bool := covers r va ((s.core d.core).pageSize sl.chair asid va)
    let s := { s with dressers := s.dressers.map fun (d : DEntry) =>
      if d.chair = sl.chair ∧ !d.committed then
        { d with store := d.store.map fun (p : PStore) => p.unwalk (hit d) } else d }
    ({ s with cores := s.cores.map fun (c : Core) => c.invalidate sl.chair asid r }, e.did 0)

/-! ### KV append (R219, R313) -/

/-- A page-list entry of a position: its page, or the failure (R313). -/
def pageOf (s : State) (chair asid : Nat) (user : Bool) (kvpl j : Nat) : Except Fail Nat :=
  match readVa s chair asid user ((kvpl + 8 * (j / 64)) % 2 ^ 64) 8 with
  | .error e => .error e
  | .ok p => if p = 0 ∨ p % 4096 ≠ 0 then .error (.of FC.attnParam) else .ok p

/-- The address of a key row, or of the value row 128 · dh bytes on (R313). -/
def kvRow (page head dh j : Nat) (value : Bool) : Nat :=
  (page + head * 256 * dh + (if value then 128 * dh else 0) + j % 64 * 2 * dh) % 2 ^ 64

/-- KVAPP at issue: its page is found and its two rows are read; the data are the page, the rows, and for each whether it is
poisoned (R219). -/
def startKvapp (s : State) (core : Nat) (sl : Slot) (e : Eng) : EngOut :=
  e.readDesc s core sl 4 fun e =>
    let j := e.b.toNat % 2 ^ 64
    let d3 := e.dw 3
    let dh := headDim (bits d3 6 2)
    let krow := e.dw 1 % 2 ^ 18
    let vrow := e.dw 2 % 2 ^ 18
    if 2 ^ 24 ≤ j ∨ e.dw 1 / 2 ^ 18 ≠ 0 ∨ e.dw 2 / 2 ^ 18 ≠ 0 ∨ bits d3 16 48 ≠ 0 ∨ bits d3 0 4 ≠ 0 ∨ bits d3 6 2 = 3
        ∨ bit d3 5 ∨ krow % 64 ≠ 0 ∨ vrow % 64 ≠ 0 then (s, e.fail FC.attnParam 0)
    else if sl.partSize < krow + 2 * dh ∨ sl.partSize < vrow + 2 * dh then (s, e.fail FC.protection 0)
    else match pageOf s sl.chair sl.asid (!e.priv) (e.dw 0) j with
      | .error x => e.stop s x 0
      | .ok p =>
        let bad (off : Nat) : Nat := ((sl.localWords off (2 * dh)).filter ((s.core core).poison.contains ·)).length
        (s, { e with data := [p, s.readLocal core sl krow (2 * dh), s.readLocal core sl vrow (2 * dh), bad krow, bad vrow] }.plan 2)

/-- One row of KVAPP: 0 the key, 1 the value (R212, R219). -/
def unitKvapp (s : State) (core : Nat) (sl : Slot) (e : Eng) (k : Nat) : EngOut :=
  let dh := headDim (bits (e.dw 3) 6 2)
  let va := kvRow (e.data.headD 0) (bits (e.dw 3) 8 8) dh (e.b.toNat % 2 ^ 64) (k = 1)
  let bad := e.data.getD (3 + k) 0
  if bad ≠ 0 then
    let (s, e') := e.stop s ⟨FC.uncorrectable, [], [], [(core, bad)]⟩ e.count
    (poisonVa s sl.chair sl.asid (!e.priv) va (2 * dh), e')
  else match writeVa s sl.chair sl.asid (!e.priv) va (2 * dh) (e.data.getD (1 + k) 0) with
    | .error x => e.stop s x e.count
    | .ok s => (s, { e.did k with count := e.count + 1 })

/-! ### LAUNCH (R177) -/

/-- LAUNCH at issue: the packet is read, and with it its map and its after list, and offered to the arbiter, which has room
(R19, R177, R317, R345). -/
def startLaunch (s : State) (core : Nat) (sl : Slot) (e : Eng) : EngOut :=
  match readVa s sl.chair sl.asid (!e.priv) (e.a.toNat % 2 ^ 64) 64 with
  | .error x => e.stop s x 0
  | .ok v =>
    let x := readPacket s sl.chair (dwsOf v 8) (.device core e.slot e.cq e.seq sl.launch e.priv)
    ({ s with arb := s.arb ++ [x] }, e)

/-- Whether the arbiter still holds the packet of a LAUNCH. -/
def State.atArbiter (s : State) (core : Nat) (sl : Slot) (e : Eng) : Bool :=
  s.arb.any fun x => x.src = .device core e.slot e.cq e.seq sl.launch e.priv

end Sys2Proof.Machine
end

