-- ==== Sys2Proof/Machine/Easel.lean ====
section
/-! DEFINITION. The Easel: stage programs, BIND, UNBIND and ATTN (R52 to R68, R123 to R125, R146, R249 to R259, R401). -/

namespace Sys2Proof.Machine

/-! ### Stage programs (R123 to R125, R254 to R256) -/

/-- The fields of a stage word (R123). -/
structure StageWord where
  op : Nat
  d : Nat
  a : Nat
  b : Nat
  c : Nat
  imm : Nat
  deriving DecidableEq, Repr

/-- Reading a stage word (R123). -/
def StageWord.ofNat (w : Nat) : StageWord := ⟨bits w 27 5, bits w 24 3, bits w 21 3, bits w 18 3, bits w 15 3, bits w 0 15⟩

/-- Whether a word of index `k` of `n` satisfies R125, the fields of R255, and the EOUT rule of R256. -/
def StageWord.ok (w : StageWord) (k n : Nat) : Bool :=
  let z (x : Nat) : Bool := decide (x = 0)
  let fields : Bool :=
    if w.op = 0x00 then decide (w.imm ≤ 11) && z w.a && z w.b && z w.c
    else if w.op = 0x01 then decide (w.imm < 16) && z w.a && z w.b && z w.c
    else if w.op = 0x02 ∨ w.op = 0x09 ∨ w.op = 0x0A ∨ w.op = 0x0B ∨ w.op = 0x0C ∨ w.op = 0x0D ∨ w.op = 0x0E ∨ w.op = 0x13
      then z w.b && z w.c && z w.imm
    else if w.op = 0x06 ∨ w.op = 0x10 then z w.imm
    else if w.op = 0x0F then z w.c && decide (w.imm < 8)
    else if w.op = 0x14 then z w.d && z w.b && z w.c && z w.imm
    else z w.c && z w.imm
  decide (w.op ≤ 0x14) && fields && (decide (w.op = 0x14) == decide (k + 1 = n))

/-- The declared-input bit that a word reads (R256). -/
def StageWord.input (w : StageWord) : Option Nat := if w.op = 0 then some w.imm else if w.op = 2 then some 12 else none

/-- The relations of ECMP by code (R227). -/
def relOf (n : Nat) : Rel := [Rel.eq, .ne, .lt, .le, .gt, .ge, .unord, .ord].getD (n % 8) .eq

/-- An FP32 pattern of an exact value, rounded RNE (R254). -/
def pat (v : EV) : Nat := v.round .fp32 .rne

/-- The FP32 pattern of a condition. -/
def boolPat (b : Bool) : Nat := if b then 0x3F800000 else 0

/-- The result of a form other than EOUT, over the X registers (R255). -/
def StageWord.value (w : StageWord) (bd : Binding) (inp : Nat → Nat) (x : List Nat) : Nat :=
  let ra := x.getD w.a 0
  let rb := x.getD w.b 0
  let rc := x.getD w.c 0
  let (a, b, c) := (fp32 ra, fp32 rb, fp32 rc)
  if w.op = 0x00 then inp w.imm
  else if w.op = 0x01 then bd.k.getD w.imm 0
  else if w.op = 0x02 then bd.table.getD (a.toInt .rz 0 ((bd.table.length : Int) - 1)).toNat 0
  else if w.op = 0x03 then pat (EV.add .rne a b)
  else if w.op = 0x04 then pat (EV.add .rne a b.negate)
  else if w.op = 0x05 then pat (a.mul b)
  else if w.op = 0x06 then pat (EV.sum .rne [a.mul b, c])
  else if w.op = 0x07 then pat (EV.choose true a b)
  else if w.op = 0x08 then pat (EV.choose false a b)
  else if w.op = 0x09 then signOp .fp32 true ra
  else if w.op = 0x0A then signOp .fp32 false ra
  else if w.op = 0x0B then pat (EV.div .one a)
  else if w.op = 0x0C then pat a.exp2
  else if w.op = 0x0D then pat a.log2
  else if w.op = 0x0E then pat a.tanh
  else if w.op = 0x0F then boolPat (relHolds (relOf w.imm) a b)
  else if w.op = 0x10 then (if evTruth c then ra else rb)
  else if w.op = 0x11 then boolPat (evTruth a && evTruth b)
  else if w.op = 0x12 then boolPat (evTruth a || evTruth b)
  else boolPat (!evTruth a)

/-- Running a stage program from X registers: the result is A of its EOUT (R58, R254). -/
def runStage (bd : Binding) (inp : Nat → Nat) : List Word → List Nat → Nat
  | [], _ => 0
  | w :: r, x =>
    let sw := StageWord.ofNat w.toNat
    if sw.op = 0x14 then x.getD sw.a 0 else runStage bd inp r (x.set sw.d (sw.value bd inp x))

/-- A program's value, every X register +0 at its start. -/
def stageValue (bd : Binding) (prog : List Word) (inp : Nat → Nat) : EV := fp32 (runStage bd inp prog (List.replicate 8 0))

/-! ### Bindings (R249 to R253) -/

/-- The default binding of an empty entry (R249). -/
def Binding.empty : Binding := ⟨[], [], [], [], [0, 0, 0, 0], [], List.replicate 16 0, 64, false, false, false, false⟩

/-- A stage record as read: its header and words (R146). -/
structure StageRec where
  prog : Nat
  ptr : Nat
  decl : Nat
  words : List Word
  deriving DecidableEq, Repr

/-- The STAGE and FORM that a pointer of a descriptor expects (R251). -/
def stageForm (prog : Nat) : Nat × Nat := if prog = 0 then (0, 0) else if prog = 1 then (1, 0) else if prog = 2 then (1, 1) else (2, 0)

/-- A stage record read and its header checked (R251 check 2): the record, or the failure and count. -/
def readStage (s : State) (sl : Slot) (user : Bool) (tabn prog ptr : Nat) : Except (Fail × Nat) StageRec :=
  let bad : Except (Fail × Nat) StageRec := .error (.of FC.bindInvalid, prog * 256 + 0xFF)
  if ptr = 0 then .ok ⟨prog, 0, 0, []⟩
  else if ptr % 8 ≠ 0 then bad
  else match readVa s sl.chair sl.asid user ptr 16 with
    | .error e => .error (e, 0)
    | .ok h =>
      let n := bits h 16 8
      let decl := bits h 32 13
      let (st, fm) := stageForm prog
      if bits h 8 8 ≠ st ∨ bits h 0 8 ≠ fm ∨ n = 0 ∨ 32 < n ∨ bits h 24 8 ≠ 0 ∨ bits h 45 83 ≠ 0
          ∨ (fm = 1 ∧ decl &&& 0x37 ≠ 0) ∨ (bit decl 12 ∧ tabn = 0) then bad
      else match readVa s sl.chair sl.asid user ((ptr + 16) % 2 ^ 64) (4 * n) with
        | .error e => .error (e, 0)
        | .ok v => .ok ⟨prog, ptr, decl, (List.range n).map fun i => BitVec.ofNat 64 (bits v (32 * i) 32)⟩

/-- The first word of a program that fails check 3 or 4, with its fault (R251). -/
def StageRec.bad (r : StageRec) : Option (Nat × Nat) :=
  (List.range r.words.length).findSome? fun k =>
    let w := StageWord.ofNat (r.words.getD k 0).toNat
    if !w.ok k r.words.length then some (FC.bindInvalid, r.prog * 256 + k)
    else match w.input with
      | some i => if bit r.decl i then none else some (FC.bindUndeclared, r.prog * 256 + k)
      | none => none

/-- Check 1 of a binding descriptor (R250, R251). -/
def bindDescBad (e : Eng) : Bool :=
  let d5 := e.dw 5
  let tabn := bits d5 16 11
  decide (bits d5 27 37 ≠ 0) || decide (bits d5 11 5 ≠ 0) || decide (bits d5 4 4 ≠ 0) || decide (e.dw 6 ≠ 0)
    || decide (e.dw 7 ≠ 0) || decide (bits d5 8 3 = 0) || decide (e.dw 4 % 4 ≠ 0) || decide (1024 < tabn)
    || (decide (tabn = 0) != decide (e.dw 4 = 0)) || (bit d5 2 && !bit d5 0) || (bit d5 0 && decide (e.dw 3 = 0))

/-- The binding that a checked descriptor and its records make (R250, R251). -/
def makeBinding (e : Eng) (recs : List StageRec) (table : List Nat) : Binding :=
  let d5 := e.dw 5
  let ws (n : Nat) : List Word := ((recs[n]?).map (·.words)).getD []
  ⟨ws 0, ws 1, ws 2, ws 3, recs.map (·.decl), table,
    (List.range 16).map fun i => bits (e.dw (8 + i / 2)) (32 * (i % 2)) 32, 2 ^ bits d5 8 3, bit d5 0, bit d5 1, bit d5 2, bit d5 3⟩

/-- Setting or emptying entry BNUM of a chair, whole (R251, R252). -/
def State.setBinding (s : State) (chair n : Nat) (b : Option Binding) : State :=
  s.modChair chair fun c => { c with binds := (b.map fun x => (n, x)).toList ++ c.binds.filter (·.1 ≠ n) }

/-- Entry BNUM of a chair (R249). -/
def Chair.binding (c : Chair) (n : Nat) : Binding := ((c.binds.find? (·.1 = n)).map (·.2)).getD .empty

/-- BNUM of BIND, UNBIND and ATTN. -/
def Eng.bnum (e : Eng) : Nat := match e.instr with | .bind f => f.bnum.toNat | .unbind f => f.bnum.toNat | .attn f => f.bnum.toNat | _ => 0

/-- BIND at issue: checked in order, then the entry is replaced in one step (R251). -/
def startBind (s : State) (core : Nat) (sl : Slot) (e : Eng) : EngOut :=
  e.readDesc s core sl 16 fun e =>
    let user := !e.priv
    let tabn := bits (e.dw 5) 16 11
    if bindDescBad e then (s, e.fail FC.bindInvalid 0xFF)
    else
      let stop (x : Fail × Nat) : EngOut := e.stop s x.1 x.2
      match readStage s sl user tabn 0 (e.dw 0), readStage s sl user tabn 1 (e.dw 1), readStage s sl user tabn 2 (e.dw 2),
          readStage s sl user tabn 3 (e.dw 3), readVa s sl.chair sl.asid user (e.dw 4) (4 * tabn) with
      | .error x, _, _, _, _ => stop x
      | _, .error x, _, _, _ => stop x
      | _, _, .error x, _, _ => stop x
      | _, _, _, .error x, _ => stop x
      | _, _, _, _, .error x => stop (x, 0)
      | .ok r0, .ok r1, .ok r2, .ok r3, .ok t =>
        match [r0, r1, r2, r3].findSome? StageRec.bad with
        | some (code, count) => (s, e.fail code count)
        | none =>
          let table := (List.range tabn).map fun i => bits t (32 * i) 32
          (s.setBinding sl.chair e.bnum (some (makeBinding e [r0, r1, r2, r3] table)), e)

/-- UNBIND at issue (R252). -/
def startUnbind (s : State) (sl : Slot) (e : Eng) : EngOut := (s.setBinding sl.chair e.bnum none, e)

/-! ### ATTN (R257 to R259) -/

/-- NQ of a call. -/
def Eng.nq (e : Eng) : Nat := bits (e.dw 2) 11 6 + 1

/-- HEAD of a call. -/
def Eng.head (e : Eng) : Nat := bits (e.dw 2) 24 8

/-- The format of a call's keys and values, or queries: BF16 or FP16. -/
def halfFmt (b : Bool) : Fmt := if b then .fp16 else .bf16

/-- The output format of a call. -/
def Eng.outFmt (e : Eng) : Fmt := if bit (e.dw 2) 6 then .bf16 else .fp32

/-- L and KVPL of an issued call, from its descriptor or the sequence record. -/
def Eng.len (e : Eng) : Nat := e.data.getD 0 0

/-- The page-list pointer of an issued call. -/
def Eng.kvpl (e : Eng) : Nat := e.data.getD 1 0

/-- QPOS of a row. -/
def Eng.qpos (e : Eng) (r : Nat) : Nat := e.data.getD (2 + 2 * r) 0

/-- QSEG of a row. -/
def Eng.qseg (e : Eng) (r : Nat) : Nat := e.data.getD (3 + 2 * r) 0

/-- Query element `i` of a row, as read at issue (R258). -/
def Eng.qelem (e : Eng) (r i : Nat) : EV :=
  (halfFmt (bit (e.dw 2) 7)).decode (e.data.getD (2 + 2 * e.nq + r * e.dh + i) 0)

/-- The segment-start list as read at issue. -/
def Eng.segs (e : Eng) : List Nat := e.data.drop (2 + 2 * e.nq + e.nq * e.dh)

/-- KSEG of a key: entries at or before it, less one; 0 with no list (R59, R258). -/
def Eng.kseg (e : Eng) (j : Nat) : Int :=
  if e.segs.isEmpty then 0 else ((e.segs.filter (· ≤ j)).length : Int) - 1

/-- A field check of a call's descriptor (R259). -/
def attnFieldBad (e : Eng) : Bool :=
  let d1 := e.dw 1
  let d2 := e.dw 2
  let d3 := e.dw 3
  let d5 := e.dw 5
  decide (bits d1 45 19 ≠ 0) || decide (bits d2 17 7 ≠ 0) || decide (bits d2 0 5 ≠ 0) || decide (bits d3 54 10 ≠ 0)
    || decide (bits d5 16 48 ≠ 0) || decide (e.dw 6 ≠ 0) || decide (e.dw 7 ≠ 0) || decide (bits d2 9 2 = 3)
    || (decide (d5 = 0) != decide (e.dw 4 = 0)) || (bit d2 5 && (decide (e.dw 0 ≠ 0) || decide (bits d1 0 25 ≠ 0)))
    || decide (bits d3 36 18 % 64 ≠ 0) || decide (bits d3 18 18 % 64 ≠ 0) || decide (bits d3 0 18 % 4 ≠ 0)

/-- LEN and KVPL of a sequence record, read at its home (R259). -/
def readSeq (s : State) (chair q : Nat) : Except Fail (Nat × Nat) :=
  let gpa := bits (s.chair chair).chseqb.toNat 12 40 * 0x1000 + 64 * q
  match stage2 s chair gpa with
  | .error x => .error x.fail
  | .ok (key, p) =>
    if !p.rd then .error (.of FC.protection)
    else if s.poisoned key 32 then .error ⟨FC.uncorrectable, s.poisonWords key 32, [], []⟩
    else .ok (s.hbm.read key 4, s.hbm.read (key + 24) 8)

/-- ATTN at issue: descriptor, tile and segment list are read, and the binding is copied (R67, R253, R259). -/
def startAttn (s : State) (core : Nat) (sl : Slot) (e : Eng) : EngOut :=
  e.readDesc s core sl 8 fun e =>
    let d3 := e.dw 3
    let qoff := bits d3 36 18
    let qseq := bits (e.dw 1) 25 20
    let b := (s.chair sl.chair).binding e.bnum
    let tileBytes := 512 + e.nq * 2 * e.dh
    let seqrec := bit (e.dw 2) 5
    if attnFieldBad e then (s, e.fail FC.reservedField 0)
    else if sl.partSize < qoff + tileBytes ∨ sl.partSize < bits d3 18 18 + e.nq * e.dh * e.outSize
        ∨ (b.lse ∧ sl.partSize < bits d3 0 18 + 4 * e.nq)
        ∨ (seqrec ∧ bits (s.chair sl.chair).chseqn.toNat 0 21 ≤ qseq) then (s, e.fail FC.protection 0)
    else match s.localFail core sl qoff tileBytes with
    | some x => e.stop s x 0
    | none =>
      let seq := if seqrec then readSeq s sl.chair qseq else .ok (bits (e.dw 1) 0 25, e.dw 0)
      match readVa s sl.chair sl.asid (!e.priv) (e.dw 4) (4 * e.dw 5), seq with
      | .error x, _ => e.stop s x 0
      | _, .error x => e.stop s x 0
      | .ok sg, .ok (len, kvpl) =>
        let tile := s.readLocal core sl qoff tileBytes
        let meta_ := (List.range e.nq).flatMap fun r => [bits tile (64 * r) 32, bits tile (64 * r + 32) 32]
        let elems := (List.range (e.nq * e.dh)).map fun i => bits tile (4096 + 16 * i) 16
        let segs := (List.range (e.dw 5)).map fun i => bits sg (32 * i) 32
        if len = 0 ∨ 2 ^ 24 < len ∨ meta_.any (2 ^ 24 ≤ ·) ∨ segs.any (2 ^ 24 ≤ ·) then (s, e.fail FC.attnParam 0)
        else (s, { e with data := [len, kvpl] ++ meta_ ++ elems ++ segs, binding := some b, count := e.nq,
                          rows := List.replicate e.nq ⟨0, [], 0, 0⟩ }.plan e.nq)

/-- An integer input as an FP32 pattern (R59). -/
def intPat (i : Int) : Nat := pat (.ofInt i)

/-- The inputs of R59 for a row, a key, a range of key positions and a range of query positions. -/
def Eng.inputs (e : Eng) (score : Nat) (r j klo khi qlo qhi : Nat) (n : Nat) : Nat :=
  match n with
  | 0 => score
  | 1 => intPat (e.qpos r)
  | 2 => intPat j
  | 3 => intPat (bits (e.dw 1) 25 20)
  | 4 => intPat (e.qseg r)
  | 5 => intPat (e.kseg j)
  | 6 => intPat e.head
  | 7 => intPat klo
  | 8 => intPat khi
  | 9 => intPat qlo
  | 10 => intPat qhi
  | _ => intPat e.len

/-- The query positions of a free set of rows that holds row `r`, as its bounds (R59, R60). -/
def Eng.rowSet (e : Eng) (s : State) (r : Nat) : Nat × Nat × State :=
  let (x, s) := s.draw e.nq
  let (y, s) := s.draw e.nq
  (min (e.qpos r) (min (e.qpos x) (e.qpos y)), max (e.qpos r) (max (e.qpos x) (e.qpos y)), s)

/-- Whether a pair is kept: as the element form decides, or as a verdict of the block form on some range of rows and
blocks that holds it (R58, R60, R61). -/
def Eng.kept (e : Eng) (s : State) (b : Binding) (score r j qlo qhi : Nat) : Bool × State :=
  let kb := j / b.kbs
  let elem := b.mask.isEmpty || evTruth (stageValue b b.mask
    (e.inputs score r j (kb * b.kbs) (kb * b.kbs + b.kbs - 1) qlo qhi))
  if b.maskb.isEmpty then (elem, s)
  else
    let nb := (e.len + b.kbs - 1) / b.kbs
    let (use, s) := s.draw 2
    let (lo, s) := s.draw (kb + 1)
    let (up, s) := s.draw (nb - kb)
    let (ql, qh, s) := e.rowSet s r
    let v := stageValue b b.maskb (e.inputs 0 r j (lo * b.kbs) ((kb + up + 1) * b.kbs - 1) ql qh)
    (if use = 0 then elem
      else match v.cmp .zero with | some .lt => false | some .gt => true | _ => elem, s)

/-- A state of the merge (R62, R63): m, l and o; the identity is none. -/
structure Leaf where
  m : EV
  l : EV
  o : List EV
  deriving Repr

/-- Merging two states of a class (R62, R63). -/
def mergeLeaf (plain : Bool) (a b : Leaf) : Leaf :=
  if plain then ⟨.zero, (EV.add .rne a.l b.l).rne32, List.zipWith (fun x y => (EV.add .rne x y).rne32) a.o b.o⟩
  else
    let m := EV.choose true a.m b.m
    let f (x : EV) : EV := ((EV.add .rne x m.negate).rne32.exp2).rne32
    let ca := f a.m
    let cb := f b.m
    let mix (x y : EV) : EV := (EV.sum .rne [x.mul ca, y.mul cb]).rne32
    ⟨m, mix a.l b.l, List.zipWith mix a.o b.o⟩

/-- A merge with the identity returns the other state (R63). -/
def mergeOpt (plain : Bool) : Option Leaf → Option Leaf → Option Leaf
  | none, y => y
  | x, none => x
  | some x, some y => some (mergeLeaf plain x y)

/-- One level of the tree of R64. -/
def mergeLevel (plain : Bool) : List (Option Leaf) → List (Option Leaf)
  | x :: y :: r => mergeOpt plain x y :: mergeLevel plain r
  | l => l

/-- The tree of R64 over a list of leaves, `n` levels. -/
def mergeTree (plain : Bool) : Nat → List (Option Leaf) → List (Option Leaf)
  | 0, l => l
  | n + 1, l => mergeTree plain n (mergeLevel plain l)

/-- Merging block states in a free binary tree (R60, R401). -/
def mergeFree (plain : Bool) : Nat → State → List Leaf → Option Leaf × State
  | 0, s, l => (l.head?, s)
  | n + 1, s, l =>
    if l.length ≤ 1 then (l.head?, s)
    else
      let (i, s) := s.draw l.length
      match l[i]? with
      | none => (none, s)
      | some x =>
        let l := l.eraseIdx i
        let (j, s) := s.draw l.length
        match l[j]? with
        | none => (some x, s)
        | some y => mergeFree plain n s (mergeLeaf plain x y :: l.eraseIdx j)

/-- log2 e as FP32 (R57). -/
def log2e : EV := fp32 0x3FB8AA3B

/-- The leaf of a kept pair (R57, R58, R62, R63); none where Blend drops it. -/
def Eng.leaf (_e : Eng) (b : Binding) (score : EV) (inp : Nat → Nat) (v : List EV) : Option Leaf :=
  if b.plain then
    let w := match stageValue b b.blend inp with
      | .nan => EV.zero
      | x => if x.neg? then .zero else x
    some ⟨.zero, w, v.map fun y => (w.mul y).rne32⟩
  else
    match (if b.blend.isEmpty then (score.mul log2e).rne32 else stageValue b b.blend inp) with
    | .nan => none
    | .inf true => none
    | .inf false => some ⟨fp32 0x7F7FFFFF, .one, v⟩
    | x => some ⟨x, .one, v⟩

/-- The elements of a key or value row of position `j` (R55, R313). -/
def Eng.kvElems (e : Eng) (s : State) (sl : Slot) (page j : Nat) (value : Bool) : Except Fail (List EV) :=
  match readVa s sl.chair sl.asid (!e.priv) (kvRow page e.head e.dh j value) (2 * e.dh) with
  | .error x => .error x
  | .ok v => .ok ((List.range e.dh).map fun i => (halfFmt (bit (e.dw 2) 8)).decode (bits v (16 * i) 16))

/-- The leaves of a row from position `j` on, `n` of them (R53, R56 to R63). The key and value rows of a position are read
whatever Mask says of its block, so that a page missing there fails the call (DESIGN CHOICE, log entry 84). -/
def Eng.leaves (e : Eng) (sl : Slot) (b : Binding) (r qlo qhi : Nat) :
    Nat → Nat → State → Except Fail (List (Option Leaf)) × State
  | 0, _, s => (.ok [], s)
  | n + 1, j, s =>
    match pageOf s sl.chair sl.asid (!e.priv) e.kvpl j with
    | .error x => (.error x, s)
    | .ok page =>
      match e.kvElems s sl page j false, e.kvElems s sl page j true with
      | .error x, _ => (.error x, s)
      | _, .error x => (.error x, s)
      | .ok k, .ok v =>
        let dot := (EV.sum .rne ((List.range e.dh).map fun i => (e.qelem r i).mul (k.getD i .zero))).rne32
        let raw := ((fp32 (bits (e.dw 2) 32 32)).mul dot).rne32
        let kb := j / b.kbs
        let inp (x : Nat) := e.inputs x r j (kb * b.kbs) (kb * b.kbs + b.kbs - 1) qlo qhi
        let sc := if b.score.isEmpty then raw else stageValue b b.score (inp (pat raw))
        let (keep, s) := e.kept s b (pat sc) r j qlo qhi
        let x := if keep then e.leaf b sc (inp (pat sc)) v else none
        match e.leaves sl b r qlo qhi n (j + 1) s with
        | (.error y, s) => (.error y, s)
        | (.ok l, s) => (.ok (x :: l), s)

/-- A node of a merge tree, of a level, as it is kept: FP32 patterns (R369). -/
def AttnNode.of (level : Nat) (x : Option Leaf) : AttnNode :=
  match x with
  | none => ⟨level, false, 0, 0, []⟩
  | some n => ⟨level, true, pat n.m, pat n.l, n.o.map pat⟩

/-- The state of the merge that a node holds. -/
def AttnNode.leaf (x : AttnNode) : Option Leaf := if x.live then some ⟨fp32 x.m, fp32 x.l, x.o.map fp32⟩ else none

/-- A completed node beside those to its left, the nearest first: two of one level make their parent (R64). -/
def pushNode (plain : Bool) : List AttnNode → AttnNode → List AttnNode
  | [], n => [n]
  | m :: r, n =>
    if m.level = n.level then pushNode plain r (.of (m.level + 1) (mergeOpt plain m.leaf n.leaf)) else n :: m :: r

/-- A row after its next key block, whose state is `x`: an ORDERED call merges by its tree, a FREE call keeps its live blocks
(R60, R64, R69). -/
def AttnRow.step (row : AttnRow) (b : Binding) (x : Option Leaf) : AttnRow :=
  let n := AttnNode.of 0 x
  let nodes := if b.free then (if n.live then n :: row.nodes else row.nodes) else pushNode b.plain row.nodes n
  { row with next := row.next + 1, nodes := nodes }

/-- The final state of a row whose blocks are all done (R64, R65, R401). -/
def AttnRow.result (row : AttnRow) (b : Binding) (s : State) : Option Leaf × State :=
  if b.free then
    let live := row.nodes.filterMap (·.leaf)
    mergeFree b.plain live.length s live
  else
    (match row.nodes with
    | [] => none
    | n :: r => r.foldl (fun x m => mergeOpt b.plain m.leaf x) n.leaf, s)

/-- The state of a row's next key block: the tree of R64 over its leaves, or the failure. -/
def Eng.block (e : Eng) (s : State) (sl : Slot) (b : Binding) (r : Nat) (row : AttnRow) : Except Fail (Option Leaf) × State :=
  let lo := row.next * b.kbs
  match e.leaves sl b r row.qlo row.qhi (min b.kbs (e.len - lo)) lo s with
  | (.error x, s) => (.error x, s)
  | (.ok l, s) => (.ok (mergeTree b.plain (clog2 b.kbs) l).head?.join, s)

/-- Resolve: an output element and the LSE pattern (R66). -/
def resolve (b : Binding) (fmt : Fmt) (dh : Nat) (x : Option Leaf) : List Nat × Nat :=
  match x with
  | none => (List.replicate dh 0, pat (.inf true))
  | some n =>
    let zero := match n.l with | .rat _ 0 _ => true | _ => false
    let div (y : EV) : Nat := if zero then 0 else (y.div n.l).round fmt .rne
    let out := n.o.map fun y => if b.plain && !b.div then y.round fmt .rne else div y
    let lg := n.l.log2.rne32
    (out, if zero then pat (.inf true) else if b.plain then (pat lg) else pat (.add .rne n.m lg))

/-- A row with the bounds of its query positions, which its first key block fixes for every evaluation of its element forms
(R59; DESIGN CHOICE, log entry 35). -/
def Eng.rowBounds (e : Eng) (s : State) (r : Nat) (row : AttnRow) : AttnRow × State :=
  if row.next = 0 then
    let (lo, hi, s) := e.rowSet s r
    ({ row with qlo := lo, qhi := hi }, s)
  else (row, s)

/-- The output and the LSE of a row written (R66, R258). -/
def Eng.writeRow (e : Eng) (s : State) (core : Nat) (sl : Slot) (b : Binding) (r : Nat) (x : Option Leaf) : State :=
  let (out, lse) := resolve b e.outFmt e.dh x
  let sz := e.outSize
  let v := out.foldr (fun x acc => x + 2 ^ (8 * sz) * acc) 0
  let s := s.storeLocal core sl (bits (e.dw 3) 18 18 + r * e.dh * sz) (e.dh * sz) v
  if b.lse then s.storeLocal core sl (bits (e.dw 3) 0 18 + 4 * r) 4 lse else s

/-- One key block of query row `r` of a call; after the last one the row is written (R52, R66, R69, R258). A failure leaves
the bytes of rows not written free (R68). -/
def unitAttn (s : State) (core : Nat) (sl : Slot) (e : Eng) (r : Nat) : EngOut :=
  match e.binding, e.rows[r]? with
  | some b, some row =>
    let (row, s) := e.rowBounds s r row
    match e.block s sl b r row with
    | (.error x, s) => e.stop (e.freeOut s core sl) x 0
    | (.ok x, s) =>
      let row := row.step b x
      let e := { e with rows := e.rows.set r row }
      if row.next * b.kbs < e.len then (s, e)
      else
        let (y, s) := row.result b s
        (e.writeRow s core sl b r y, e.did r)
  | _, _ => (s, e.did r)

end Sys2Proof.Machine
end

