-- ==== Sys2Proof/Machine/Palette.lean ====
section
/-! DEFINITION. The Palette: PDOM, PATCH, PWR, PFEED, PSTEP, PSAVE and PREST at the head of their domain's queue, and the
step of a domain with its crossing FIFOs (R147, R260 to R268). -/

namespace Sys2Proof.Machine

/-- The fields of a source, R147: EN, NEG, SRC, INDEX. -/
structure Source where
  en : Bool
  neg : Bool
  src : Nat
  index : Nat
  deriving DecidableEq, Repr

/-- Reading a 16-bit source (R147). -/
def Source.ofNat (x : Nat) : Source := ⟨bit x 15, bit x 14, bits x 12 2, bits x 0 12⟩

/-- A DZ, or an increment, from its two-bit code: 01 is +1, 11 is −1 (R260, R264). -/
def dzOf (c : Nat) : Int := if c = 1 then 1 else if c = 3 then -1 else 0

/-- The two-bit code of a DZ. -/
def dzCode (d : Int) : Nat := if d = 0 then 0 else if 0 < d then 1 else 3

/-- The sources of a well in the order DX, DY0 to DY3. -/
def Well.sources (w : Well) : List Nat := w.dx :: w.dys

/-- Whether a domain has an enabled source naming a well of domain `d` (R266). -/
def Domain.readsFrom (x : Domain) (d : Nat) : Bool :=
  x.wells.any fun w => w.sources.any fun n =>
    let r := Source.ofNat n
    r.en && decide (r.src = 1) && decide (r.index / 64 = d)

/-- The entries of the FIFO from domain `src` into a domain. -/
def Domain.fifo (x : Domain) (src : Nat) : List (List Int) := ((x.fifos.find? (·.1 = src)).map (·.2)).getD []

/-- Setting the FIFO from a domain; FIFOs are kept by rising source. -/
def Domain.setFifo (x : Domain) (src : Nat) (l : List (List Int)) : Domain :=
  { x with fifos := (List.range 8).filterMap fun n =>
      let q := if n = src then l else x.fifo n
      if q.isEmpty then none else some (n, q) }

/-- val(s) of R265, in domain `d`. -/
def Domain.val (x : Domain) (d : Nat) (r : Source) : Int :=
  if !r.en then 0
  else if r.src = 1 then
    if r.index / 64 = d then (x.wells.getD (r.index % 64) .reset).dz
    else ((x.fifo (r.index / 64)).headD []).getD (r.index % 64) 0
  else if r.src = 2 then (x.feeds.getD (r.index % 16) []).headD 0
  else if r.src = 3 then 1
  else 0

/-- inc(s) of R265. -/
def Domain.inc (x : Domain) (d n : Nat) : Int :=
  let r := Source.ofNat n
  if r.neg then -x.val d r else x.val d r

/-- A well after a step, before the bounds are checked (R265). -/
def Domain.stepWell (x : Domain) (d : Nat) (w : Well) : Well :=
  let y := w.y + (w.dys.map (x.inc d)).foldl (· + ·) 0
  let dx := x.inc d w.dx
  if dx ≠ 0 then
    let t : Int := w.res + dx * y
    let dz := t.fdiv (2 ^ w.mw : Nat)
    { w with y := y, res := (t - dz * (2 ^ w.mw : Nat)).toNat, dz := dz }
  else { w with y := y, dz := 0 }

/-- Whether a stepped well stays in its bounds (R265). -/
def Well.inBounds (w : Well) : Bool :=
  decide (-(2 ^ 39 : Int) ≤ w.y) && decide (w.y ≤ 2 ^ 39 - 1) && decide (-1 ≤ w.dz) && decide (w.dz ≤ 1)

/-- Every nonempty channel and FIFO pops one entry (R265). -/
def Domain.pops (x : Domain) : Domain :=
  { x with feeds := x.feeds.map List.tail,
           fifos := (x.fifos.map fun q => (q.1, q.2.tail)).filter fun q => !q.2.isEmpty }

/-- One step of domain `d` of a Palette; none when it may not be applied, and then nothing changes (R265, R266). -/
def palStep (p : List Domain) (d : Nat) : Option (List Domain) :=
  let x := p.getD d .reset
  let wells := x.wells.map (x.stepWell d)
  let outs := (List.range 8).filter fun e => decide (e ≠ d) && (p.getD e .reset).readsFrom d
  if wells.all Well.inBounds && outs.all fun e => decide (((p.getD e .reset).fifo d).length < 16) then
    let x' := { x.pops with wells := wells, steps := (x.steps + 1) % 2 ^ 64 }
    some (outs.foldl (fun p e => p.modify e fun y => y.setFifo d (y.fifo d ++ [wells.map (·.dz)])) (p.set d x'))
  else none

/-- The domain that a command is for; PATCH has it from its record, read at issue (R261). -/
def Eng.domain (e : Eng) : Nat := ((List.range 8).find? e.onDomain).getD 8

/-- Whether a command of the Palette is at the head of its domain's queue: no command of the core that issued before it is in
that queue (R261). -/
def Core.atHead (c : Core) (e : Eng) : Bool := !(c.engs.takeWhile (·.id ≠ e.id)).any fun x => !x.held && x.onDomain e.domain

/-- A domain of a core. -/
def Core.domain (c : Core) (d : Nat) : Domain := c.palette.getD d .reset

/-- Setting a domain of a core. -/
def State.setDomain (s : State) (core d : Nat) (x : Domain) : State :=
  s.modCore core fun k => { k with palette := k.palette.set d x }

/-- A command that names a domain its slot does not own completes with PROTECTION (R261). -/
def owned (s : State) (core : Nat) (e : Eng) (body : Domain → EngOut) : EngOut :=
  let x := (s.core core).domain e.domain
  if x.owner = some e.slot then body x else (s, e.fail FC.protection 0)

/-- PDOM (R262). -/
def unitPdom (s : State) (core : Nat) (e : Eng) : EngOut :=
  let d := e.domain
  let x := (s.core core).domain d
  let claim := bit e.a.toNat 0
  if claim then
    if x.owner = none then (s.setDomain core d { Domain.reset with owner := some e.slot }, e.did 0)
    else if x.owner = some e.slot then (s, e.did 0)
    else (s, e.fail FC.protection 0)
  else if x.owner = some e.slot then (s.setDomain core d .reset, e.did 0)
  else (s, e.fail FC.protection 0)

/-- PWR (R264). -/
def unitPwr (s : State) (core : Nat) (f : FPwr) (e : Eng) : EngOut :=
  owned s core e fun x =>
    let a := e.a.toNat
    let n := bits a 55 6
    let w := x.wells.getD n .reset
    let done (w : Well) : EngOut := (s.setDomain core e.domain { x with wells := x.wells.set n w, halt := false }, e.did 0)
    if f.res then
      if bits a 32 23 ≠ 0 ∨ 2 ^ w.mw ≤ bits a 0 32 then (s, e.fail FC.patchInvalid 0)
      else done { w with res := bits a 0 32 }
    else if bits a 40 15 ≠ 0 then (s, e.fail FC.patchInvalid 0)
    else done { w with y := sint a 40 }

/-- PFEED (R264). -/
def unitPfeed (s : State) (core : Nat) (f : FFeed) (e : Eng) : EngOut :=
  owned s core e fun x =>
    let a := e.a.toNat
    let n := f.cnt.toNat
    let codes := (List.range n).map fun i => bits a (2 * i) 2
    let ch := x.feeds.getD f.ch.toNat []
    if codes.contains 2 ∨ bits a (2 * n) (64 - 2 * n) ≠ 0 then (s, e.fail FC.reservedField 0)
    else if 256 < ch.length + n then (s, e.fail FC.overrun 0)
    else (s.setDomain core e.domain { x with feeds := x.feeds.set f.ch.toNat (ch ++ codes.map dzOf) }, e.did 0)

/-- What PSTEP settles before its first step: a status, COUNT 0 (R265). -/
def pstepRefusal (x : Domain) (e : Eng) : Option Nat :=
  if x.owner ≠ some e.slot then some FC.protection
  else if bits e.a.toNat 32 32 ≠ 0 then some FC.reservedField
  else if x.halt then some FC.overrun
  else if e.a.toNat % 2 ^ 32 = 0 then some 0
  else none

/-- One step of PSTEP, `count` of them applied before it (R265). -/
def unitPstep (s : State) (core : Nat) (e : Eng) : EngOut :=
  let d := e.domain
  let x := (s.core core).domain d
  match (if e.count = 0 then pstepRefusal x e else none) with
  | some code => (s, e.fail code 0)
  | none =>
    match palStep (s.core core).palette d with
    | some p =>
      let e := { e with count := e.count + 1 }
      (s.modCore core fun k => { k with palette := p }, if e.count = e.a.toNat % 2 ^ 32 then e.did 0 else e)
    | none => (s.setDomain core d { x with halt := true }, e.fail FC.overrun e.count)

/-- The image of a domain as 130 doublewords (R268). -/
def Domain.image (x : Domain) : List Nat :=
  [x.steps, bnat x.halt] ++ x.wells.flatMap fun w =>
    [dzCode w.dz * 2 ^ 46 + w.mw * 2 ^ 40 + wrapN w.y 40, w.res]

/-- PSAVE (R268). -/
def unitPsave (s : State) (core : Nat) (sl : Slot) (e : Eng) : EngOut :=
  owned s core e fun x =>
    (s.storeLocal core sl (e.a.toNat % 2 ^ 64) 1040 (x.image.foldr (fun w v => w + 2 ^ 64 * v) 0), e.did 0)

/-- Whether an image passes the checks of PREST (R268). -/
def imageOk (v : Nat) : Bool :=
  decide (bits (dwOf v 1) 1 63 = 0) && (List.range 64).all fun k =>
    let a := dwOf v (2 + 2 * k)
    let b := dwOf v (3 + 2 * k)
    decide (bits a 48 16 = 0) && decide (bits b 32 32 = 0) && decide (4 ≤ bits a 40 6) && decide (bits a 40 6 ≤ 32)
      && decide (b < 2 ^ bits a 40 6) && decide (bits a 46 2 ≠ 2)

/-- A domain with STEPS and every well's DZ, MW, Y and RES from an image, HALT clear (R268). -/
def Domain.restore (x : Domain) (v : Nat) : Domain :=
  { x with steps := dwOf v 0, halt := false, wells := (List.range 64).map fun k =>
      let a := dwOf v (2 + 2 * k)
      { x.wells.getD k .reset with
        dz := dzOf (bits a 46 2), mw := bits a 40 6, y := sint a 40, res := dwOf v (3 + 2 * k) % 2 ^ 32 } }

/-- PREST (R268). -/
def unitPrest (s : State) (core : Nat) (sl : Slot) (e : Eng) : EngOut :=
  owned s core e fun x =>
    let off := e.a.toNat % 2 ^ 64
    match s.localFail core sl off 1040 with
    | some x => e.stop s x 0
    | none =>
      let v := s.readLocal core sl off 1040
      if imageOk v then (s.setDomain core e.domain (x.restore v), e.did 0) else (s, e.fail FC.patchInvalid 0)

/-- PATCH at issue: the record is read, and the command takes its place in the queue of its domain (R147, R263). -/
def startPatch (s : State) (sl : Slot) (e : Eng) : EngOut :=
  let va := e.a.toNat % 2 ^ 64
  if va % 8 ≠ 0 then (s, e.fail FC.patchInvalid 0)
  else match readVa s sl.chair sl.asid (!e.priv) va 16 with
    | .error x => e.stop s x 0
    | .ok h =>
      let n := bits h 16 16
      match readVa s sl.chair sl.asid (!e.priv) ((va + 16) % 2 ^ 64) (if n ≤ 512 then 32 * n else 0) with
      | .error x => e.stop s x 0
      | .ok v => (s, { e with desc := dwsOf h 2 ++ dwsOf v (4 * n), data := [bits h 0 3] }.plan 1)

/-- A well entry of a record: its well, and its new content with DZ 0. -/
def Eng.patchWell (e : Eng) (i : Nat) : Nat × Well :=
  let d (j : Nat) := e.dw (2 + 4 * i + j)
  (bits (d 0) 0 9, ⟨sint (d 1) 40, bits (d 2) 0 32, bits (d 0) 16 6, 0, bits (d 2) 32 16,
    [bits (d 2) 48 16, bits (d 3) 0 16, bits (d 3) 16 16, bits (d 3) 32 16]⟩)

/-- Whether a source of a record is allowed to a slot (R263). -/
def sourceOk (c : Core) (slot n : Nat) : Bool :=
  let r := Source.ofNat n
  if !r.en then decide (n = 0)
  else match r.src with
    | 1 => decide (r.index < 512) && decide ((c.domain (r.index / 64)).owner = some slot)
    | 2 => decide (r.index < 16)
    | 3 => decide (r.index = 0)
    | _ => false

/-- The checks of a whole record (R147, R263). -/
def patchOk (c : Core) (e : Eng) : Bool :=
  let n := bits (e.dw 0) 16 16
  let wells := (List.range n).map e.patchWell
  decide (1 ≤ n) && decide (n ≤ 512) && decide (bits (e.dw 0) 32 32 = 0) && decide (bits (e.dw 0) 3 13 = 0)
    && decide (e.dw 1 = 0) && (wells.map (·.1)).Nodup
    && (List.range n).all (fun i =>
      let d (j : Nat) := e.dw (2 + 4 * i + j)
      decide (bits (d 0) 22 42 = 0) && decide (bits (d 0) 9 7 = 0) && decide (bits (d 1) 40 24 = 0)
        && decide (bits (d 3) 48 16 = 0))
    && wells.all fun w => decide (w.1 / 64 = e.domain) && decide (4 ≤ w.2.mw) && decide (w.2.mw ≤ 32)
      && decide (w.2.res < 2 ^ w.2.mw) && w.2.sources.all (sourceOk c e.slot)

/-- PATCH at the head of its queue (R263). -/
def unitPatch (s : State) (core : Nat) (e : Eng) : EngOut :=
  owned s core e fun x =>
    if patchOk (s.core core) e then
      let wells := ((List.range (bits (e.dw 0) 16 16)).map e.patchWell).foldl (fun l w => l.set (w.1 % 64) w.2) x.wells
      (s.setDomain core e.domain { x with wells := wells, halt := false }, e.did 0)
    else (s, e.fail FC.patchInvalid 0)

end Sys2Proof.Machine
end

