-- ==== Sys2Proof/Machine/Taps.lean ====
section
/-! DEFINITION. Taps: STAP with its probe, steering, hold and trap records (R70, R77, R95, R271 to R273, R326, R338,
R339). -/

namespace Sys2Proof.Machine

/-- Whether a table entry is valid: V of DW1 [48] (R338, R339). -/
def TabEntry.valid (e : TabEntry) : Bool := bit (e.dws.getD 1 0).toNat 48

/-- Field of a table entry. -/
def TabEntry.field (e : TabEntry) (d lo n : Nat) : Nat := bits (e.dws.getD d 0).toNat lo n

/-- The probe of an index, where it exists (R338). -/
def State.probe? (s : State) (p : Nat) : Option TabEntry := s.probes.find? fun e => decide (e.idx = p) && e.valid

/-- The valid steering entry of a pair of keys; STEERID 0 matches no sequence (R339). -/
def State.steer? (s : State) (id layer : Nat) : Option TabEntry :=
  if id = 0 then none
  else s.steers.find? fun e => e.valid && decide (e.field 0 48 16 = id) && decide (e.field 0 32 16 = layer)

/-- Weight or element format of an entry: WF, SF of DW1 [16]. -/
def TabEntry.fmt (e : TabEntry) : Fmt := if e.field 1 16 1 = 1 then .bf16 else .fp32

/-- Element `i` of an entry's copied vector, zero at or beyond its length (R272). -/
def TabEntry.elem (e : TabEntry) (i : Nat) : EV :=
  match e.data[i]? with
  | some c => e.fmt.decode c
  | none => .zero

/-- The probe value of a row: b plus the sum of R95 (R272). -/
def probeSum (e : TabEntry) (v : Nat → EV) (nel : Nat) : EV :=
  let node (x y : EV) : EV := (EV.add .rne x y).rne32
  let product (i : Nat) : EV :=
    if i < nel then (v i).mul (e.elem i) else match (EV.zero).mul (e.elem i) with | .nan => .zero | z => z
  let groups := (nel + 15) / 16
  let pair (k : Nat) : EV := node (product (2 * k)) (product (2 * k + 1))
  let group (g : Nat) : EV := if g < groups then pairwise pair node 3 (8 * g) else .rat true 0 1
  node (pairwise group node (clog2 groups) 0) (fp32 (e.field 0 32 32))

/-- Whether a probe value crosses (R272). -/
def crosses (e : TabEntry) (p : EV) : Bool :=
  let th := fp32 (e.field 0 0 32)
  p == .nan || (if e.field 1 17 1 = 0 then th.lt p else p.lt th)

/-- The bytes of a record of a chair's sequence table: its guest-physical address (R70, R299). -/
def Chair.seqAddr (c : Chair) (q : Nat) : Nat := bits c.chseqb.toNat 12 40 * 0x1000 + 64 * q

/-- The key of a record, readable, writable where an operation writes it, and without poison in its 64 bytes, or the failure
(R212, R278, R331). -/
def State.seqKey (s : State) (chair q : Nat) (write : Bool) : Except Fail Nat :=
  match stage2 s chair ((s.chair chair).seqAddr q) with
  | .error x => .error x.fail
  | .ok (key, p) =>
    if !p.rd || (write && !p.w) then .error (.of FC.protection)
    else if s.poisoned key 64 then .error ⟨FC.uncorrectable, s.poisonWords key 64, [], []⟩
    else .ok key

/-- COUNT of the chair's sequence table (R299). -/
def Chair.seqCount (c : Chair) : Nat := bits c.chseqn.toNat 0 21

/-- Element size and format of a STAP row. -/
def stapFmt (f : FStap) : Fmt := if f.bf16 then .bf16 else .fp32

/-- Bytes of a row element. -/
def stapSize (f : FStap) : Nat := if f.bf16 then 2 else 4

/-- A trap record (R326). -/
def trapRecord (chair core q tap g p : Nat) (tag : Word) : List Word :=
  [BitVec.ofNat 64 (bits g 2 2 * 2 ^ 54 + chair * 2 ^ 48 + bits g 16 16 * 2 ^ 32 + bits g 4 12 * 2 ^ 20 + q),
   BitVec.ofNat 64 p, tag, BitVec.ofNat 64 (tap * 2 ^ 8 + core)]

/-- The tap of an issued STAP, as its register stood at issue. -/
def Eng.tap (e : Eng) : Nat := e.data.getD 0 0

/-- The sequence of a STAP: B [19:0]. -/
def Eng.stapSeq (e : Eng) : Nat := bits e.b.toNat 0 20

/-- What the probe of a STAP makes of its row: the probe value, and whether it crosses (R272). -/
def State.probeRow (s : State) (chair g : Nat) (v : Nat → EV) (nel : Nat) : EV × Bool :=
  match (if bit g 0 && s.probeGranted chair (bits g 4 12) then s.probe? (bits g 4 12) else none) with
  | some pr => let p := probeSum pr v nel; (p, crosses pr p)
  | none => (.zero, false)

/-- The row that a STAP stores, steered where its entry is valid (R272). -/
def State.steerRow (s : State) (chair g steerid : Nat) (fmt : Fmt) (v : Nat → EV) (row nel : Nat) : Nat :=
  match (if bit g 0 && bit g 1 && s.steerGranted chair then s.steer? steerid (bits g 16 16) else none) with
  | none => row
  | some st =>
    let alpha := fp32 (st.field 0 0 32)
    (List.range nel).foldr (fun i acc =>
      (EV.sum .rne [v i, alpha.mul (st.elem i)]).round fmt .rne + 2 ^ fmt.lane * acc) 0

/-- STAP evaluated at issue: the probe, XCNT, the service's trap record, and the row to store (R272). Unit 0 sets HOLD and
writes the chair's record; unit k stores 64 bytes. A record that HOLD cannot be written to is PROTECTION (R331). -/
def evalStap (s : State) (core : Nat) (sl : Slot) (f : FStap) (e : Eng) (key : Nat) : EngOut :=
  let nel := bits (e.dw 2) 0 15 + 1
  let sz := stapSize f
  let g := e.tap
  let s := if bit g 0 then s.noteGrant ((s.chair sl.chair).probeByte (bits g 4 12)) else s
  let row := s.readLocal core sl (bits (e.dw 1) 0 18) (nel * sz)
  let v (i : Nat) : EV := (stapFmt f).decode (bits row (8 * sz * i) (8 * sz))
  let (p, cross) := s.probeRow sl.chair g v nel
  let pp := p.round .fp32 .rne
  let hold := cross && decide (bits g 2 2 ≠ 0)
  match (if hold then s.seqKey sl.chair e.stapSeq true else .ok key) with
  | .error x => e.stop s x 0
  | .ok key =>
    let out := s.steerRow sl.chair g (s.hbm.read (key + 12) 2) (stapFmt f) v row nel
    let e := { e with data := [g, pp, out, key], count := nel,
                      status := if cross && decide (bits g 2 2 = 2) then FC.probeHold else 0,
                      todo := (if hold then [0] else []) ++ (List.range ((nel * sz + 63) / 64)).map (· + 1) }
    if cross then
      let s := s.modSlot core e.slot fun x => { x with xcnt := x.xcnt.modify f.tap.toNat fun n => satAdd32 n 1 }
      let s := { s with svcTrap := s.svcTrap ++ [trapRecord sl.chair core e.stapSeq f.tap.toNat g pp e.tag],
                        svcPi := (s.svcPi + 1) % 2 ^ 64 }
      (s.perfEvent core sl.chair 0x0C 1, e)
    else (s, e)

/-- STAP at issue: its checks in the order of R272. A poisoned doubleword of the descriptor fails no check before the one for
poison, and counts as zero in them (DESIGN CHOICE, log entry 85). -/
def startStap (s : State) (core : Nat) (sl : Slot) (f : FStap) (e : Eng) : EngOut :=
  let off := e.a.toNat % 2 ^ 64
  let desc := (List.range 4).map fun i => BitVec.ofNat 64
    (if s.poisonedLocal core sl (off + 8 * i) 8 then 0 else s.readLocal core sl (off + 8 * i) 8)
  let e := { e with desc := desc }
  let nel := bits (e.dw 2) 0 15 + 1
  let sz := stapSize f
  let src := bits (e.dw 1) 0 18
  if bits (e.dw 1) 18 46 ≠ 0 ∨ bits (e.dw 2) 15 49 ≠ 0 ∨ e.dw 3 ≠ 0 ∨ e.dw 0 % sz ≠ 0 then (s, e.fail FC.reservedField 0)
  else if sl.partSize < src + nel * sz then (s, e.fail FC.protection 0)
  else if (s.chair sl.chair).seqCount ≤ e.stapSeq then (s, e.fail FC.protection 0)
  else match (s.localFail core sl off 32).orElse fun _ => s.localFail core sl src (nel * sz) with
    | some x => e.stop s x 0
    | none => match s.seqKey sl.chair e.stapSeq false with
      | .error x => e.stop s x 0
      | .ok key => evalStap s core sl f e key

/-- A record for the chair's trap queue: written, or dropped and counted when the queue is full (R326). -/
def State.chairTrap (s : State) (chair : Nat) (rec : List Word) : State :=
  match ringOf (s.chair chair).chtq with
  | none => s
  | some (base, n) =>
    let s := s.noteRing base
    if s.ringUsed base < 2 ^ n then s.ringPush base n rec
    else s.hpaWrite (base + 16) 8 (min (s.hbm.read (base + 16) 8 + 1) (2 ^ 64 - 1))

/-- HOLD set in a record at its home (R70, R77). -/
def State.setHold (s : State) (key : Nat) : State :=
  { s with hbm := s.hbm.set (key + 8) (s.hbm.get (key + 8) ||| 0x02) }

/-- Unit 0 of STAP, HOLD and the chair's trap record, or 64 bytes of its row (R272). -/
def unitStap (s : State) (core : Nat) (sl : Slot) (f : FStap) (e : Eng) (k : Nat) : EngOut :=
  if k = 0 then
    let s := s.setHold (e.data.getD 3 0)
    (s.chairTrap sl.chair (trapRecord sl.chair core e.stapSeq f.tap.toNat e.tap (e.data.getD 1 0) e.tag), e.did 0)
  else
    let off := 64 * (k - 1)
    let n := min 64 (e.count * stapSize f - off)
    match writeVa s sl.chair sl.asid (!e.priv) ((e.dw 0 + off) % 2 ^ 64) n (bits (e.data.getD 2 0) (8 * off) (8 * n)) with
    | .error x => (s.noteUe x, { e with status := x.code, todo := e.todo.filter (· = 0) })
    | .ok s => (s, e.did k)

/-- Whether HOLD of a STAP may be set: the earlier stores of its block have been applied (R77). -/
def State.holdMay (s : State) (core : Nat) (sl : Slot) (e : Eng) : Bool :=
  !sl.post.any (fun p => p.uid = e.uid && p.age = e.age && decide (p.lsid < e.lsid) && (match p.act with
    | .store _ => true
    | _ => false))
    && !s.dressers.any fun d => d.core = core && d.slot = e.slot && d.age = e.age && d.store.isSome && decide (d.lsid < e.lsid)

/-- The sequence that an issued STAP or SEQC of a core names, none for other commands (R273). -/
def Eng.seqName (e : Eng) : Option Nat :=
  match e.instr with
  | .stap _ => some e.stapSeq
  | .seqc _ => some (bits (e.dw 0) 0 20)
  | _ => none

/-- Whether an earlier command of the strand has still to act at a record that this one waits for: a STAP or SEQC that names
the same sequence (R273), and for a STAP any other, whose records stand in the queues in issue order (R46, R220, R326). -/
def Core.seqBefore (c : Core) (e : Eng) : Bool :=
  let stap (x : Eng) : Bool := match x.instr with | .stap _ => true | _ => false
  (c.engs.takeWhile (·.id ≠ e.id)).any fun x => x.slot = e.slot && x.uid = e.uid && !x.held && x.todo.contains 0
    && x.seqName.isSome && (x.seqName == e.seqName || (stap x && stap e))

end Sys2Proof.Machine
end

