-- ==== Sys2Proof/Machine/Sampler.lean ====
section
/-! DEFINITION. The sampler: SMPL, plain and VERIFY (R71 to R73, R274, R275, R341). -/

namespace Sys2Proof.Machine

/-! ### Philox-4x32-10 (R72; its constants are log entry 12) -/

/-- One round. -/
def philoxRound (c : Nat × Nat × Nat × Nat) (k : Nat × Nat) : Nat × Nat × Nat × Nat :=
  let p0 := 0xD2511F53 * c.1
  let p1 := 0xCD9E8D57 * c.2.2.1
  (p1 / 2 ^ 32 ^^^ c.2.1 ^^^ k.1, p1 % 2 ^ 32, p0 / 2 ^ 32 ^^^ c.2.2.2 ^^^ k.2, p0 % 2 ^ 32)

/-- `n` rounds, the key stepping between them. -/
def philoxRounds : Nat → Nat × Nat × Nat × Nat → Nat × Nat → Nat × Nat × Nat × Nat
  | 0, c, _ => c
  | n + 1, c, k => philoxRounds n (philoxRound c k) ((k.1 + 0x9E3779B9) % 2 ^ 32, (k.2 + 0xBB67AE85) % 2 ^ 32)

/-- u of R72 step 6, exact. -/
def samplerU (seed draw step seq : Nat) : EV :=
  EV.scaled false (philoxRounds 10 (draw, step, seq, 0) (seed % 2 ^ 32, seed / 2 ^ 32 % 2 ^ 32)).1 (-32)

/-- A zero of either sign. -/
def isZero (v : EV) : Bool := match v with | .rat _ 0 _ => true | _ => false

/-! ### The policy and the request -/

/-- The valid policy entry of a tag among the chair's grants (R275, R341). -/
def State.policy? (s : State) (chair p : Nat) : Option TabEntry :=
  if s.policyGranted chair p then s.policies.find? fun e => decide (e.idx = p) && decide (e.field 3 63 1 = 1) else none

/-- V of a request. -/
def Eng.vocab (e : Eng) : Nat := bits (e.dw 2) 0 18 + 1

/-- G of a request. -/
def Eng.draftLen (e : Eng) : Nat := bits (e.dw 1) 8 5

/-- SEQ of a request. -/
def Eng.smplSeq (e : Eng) : Nat := bits (e.dw 1) 24 20

/-- TREE of a request. -/
def Eng.isTree (e : Eng) : Bool := bit (e.dw 1) 7

/-- Format of the logits. -/
def Eng.logitFmt (e : Eng) : Fmt := if bit (e.dw 1) 13 then .bf16 else .fp32

/-- Bytes of a logit row. -/
def Eng.rowBytes (e : Eng) : Nat := e.vocab * (if bit (e.dw 1) 13 then 2 else 4)

/-- The fields of a request that are checked before anything is read (R275). -/
def smplFieldBad (ver : Bool) (e : Eng) : Bool :=
  let d1 := e.dw 1
  let g := e.draftLen
  decide (bits d1 44 20 ≠ 0) || decide (bits d1 14 2 ≠ 0) || decide (bits d1 0 7 ≠ 0) || decide (bits (e.dw 2) 18 14 ≠ 0)
    || decide (bits (e.dw 7) 18 46 ≠ 0) || (if ver then decide (g = 0) || decide (16 < g) else decide (g ≠ 0) || e.isTree)

/-- The parent bytes of a draft of `g` nodes: those at DRAFT + 64 + k, or the chain of a linear draft (R274, R275). -/
def parentOk (g : Nat) (parents : List Nat) : Bool :=
  (List.range g).all fun k => if k = 0 then decide (parents.getD 0 0 = 0xFF) else decide (parents.getD k 0xFF < k)

/-- Draft ids and parents as read at issue: `g` pairs of an id and a parent (0xFF for node 0). -/
def readDraft (s : State) (chair asid : Nat) (user : Bool) (ptr g : Nat) (tree : Bool) :
    Except Fail (List Nat × List Nat) :=
  match readVa s chair asid user ptr (4 * g), readVa s chair asid user ((ptr + 64) % 2 ^ 64) (if tree then g else 0) with
  | .error x, _ => .error x
  | _, .error x => .error x
  | .ok ids, .ok ps =>
    .ok ((List.range g).map fun k => bits ids (32 * k) 32,
      (List.range g).map fun k => if tree then bits ps (8 * k) 8 else if k = 0 then 0xFF else k - 1)

/-! Data of an issued request: seed, the four policy doublewords, draft ids, parents, target rows, Q rows, counts. -/

/-- Number of target rows. -/
def Eng.nrows (e : Eng) : Nat := e.draftLen + 1

/-- Draft id of node `k`. -/
def Eng.draftId (e : Eng) (k : Nat) : Nat := e.data.getD (5 + k) 0

/-- Parent of node `k`. -/
def Eng.parent (e : Eng) (k : Nat) : Nat := e.data.getD (5 + e.draftLen + k) 0xFF

/-- Where the rows begin in the data. -/
def Eng.rowBase (e : Eng) : Nat := 5 + 2 * e.draftLen

/-- SMPL at issue: checked, SEED read in one atomic read, the draft read; its rows are read by its units (R275). -/
def startSmpl (s : State) (core : Nat) (sl : Slot) (f : FSmpl) (e : Eng) : EngOut :=
  e.readDesc s core sl 8 fun e =>
    let user := !e.priv
    let s := s.noteGrant ((s.chair sl.chair).policyByte (bits (e.dw 1) 16 8))
    if smplFieldBad f.ver e then (s, e.fail FC.reservedField 0)
    else match s.policy? sl.chair (bits (e.dw 1) 16 8) with
      | none => (s, e.fail FC.protection 0)
      | some pol =>
        if (s.chair sl.chair).seqCount ≤ e.smplSeq ∨ sl.partSize < bits (e.dw 7) 0 18 + 16 then (s, e.fail FC.protection 0)
        else match readDraft s sl.chair sl.asid user (e.dw 4) e.draftLen e.isTree, s.seqKey sl.chair e.smplSeq false with
          | .error x, _ => e.stop s x 0
          | _, .error x => e.stop s x 0
          | .ok (ids, ps), .ok key =>
            if ids.any (fun d => decide (e.vocab ≤ d)) || !parentOk e.draftLen ps then (s, e.fail FC.reservedField 0)
            else
              let n := e.nrows + e.draftLen + 1
              (s, { e with data := [s.hbm.read (key + 16) 8] ++ pol.dws.map (fun (w : Word) => w.toNat) ++ ids ++ ps ++ List.replicate n 0 }.plan n)

/-- The policy as captured. -/
def Eng.pol (e : Eng) (d lo n : Nat) : Nat := bits (e.data.getD (1 + d) 0) lo n

/-! ### The distribution of a row (R71, R72) -/

/-- A distribution: survivors in ascending id, each an id and its weight; the total is the sum of R72 step 5. -/
abbrev Dist := List (Nat × EV)

/-- A node of the sampler's sums. -/
def sumNode (x y : EV) : EV := (EV.add .rne x y).rne32

/-- Penalised logits of the included tokens of a row (R71 step 1). -/
def Eng.included (e : Eng) (s : State) (row : Nat) : List (Nat × EV) :=
  let w := if bit (e.dw 1) 13 then 16 else 32
  let counts := e.data.getD (e.rowBase + e.nrows + e.draftLen) 0
  let rho := fp32 (e.pol 1 0 32)
  let ap := fp32 (e.pol 2 32 32)
  let af := fp32 (e.pol 2 0 32)
  let bmap := e.pol 3 3 37 * 8
  (List.range e.vocab).filterMap fun t =>
    let allowed := bmap = 0 ∨ bit (s.hbm.get (bmap + t / 8)).toNat (t % 8)
    let z : Option EV := match e.logitFmt.decode (bits row (w * t) w) with
      | .nan => none
      | .inf true => none
      | .inf false => some (fp32 0x7F7FFFFF)
      | x => some x
    match z with
    | none => none
    | some z =>
      if ¬ allowed then none
      else
        let c := bits counts (32 * t) 32
        if e.pol 3 62 1 = 1 ∧ c ≠ 0 then
          let a := if EV.lt .zero z then (z.div rho).rne32 else (z.mul rho).rne32
          let m := ((EV.ofInt c).rne32.mul af).rne32
          some (t, (EV.add .rne a (EV.add .rne ap m).rne32.negate).rne32)
        else some (t, z)

/-- The greatest value of a list, the first of equals. -/
def argmax : List (Nat × EV) → Option (Nat × EV)
  | [] => none
  | x :: r => match argmax r with
    | none => some x
    | some y => if x.2.lt y.2 then some y else some x

/-- p_t of the included tokens (R71 steps 2 and 3). -/
def softmax (l : List (Nat × EV)) (t : EV) : List (Nat × EV) :=
  let inv := (EV.one.div t).rne32
  let y := l.map fun x => (x.1, (x.2.mul inv).rne32)
  let m := ((argmax y).map (·.2)).getD .zero
  let es := y.map fun x => (x.1, ((((EV.add .rne x.2 m.negate).rne32.mul log2e).rne32).exp2).rne32)
  let total := pairwise (fun i => ((es.find? (·.1 = i)).map (·.2)).getD .zero) sumNode 18 0
  es.map fun x => (x.1, (x.2.div total).rne32)

/-- Insertion by weight, greatest first, ties to the lower id. -/
def insertDesc (x : Nat × EV) : List (Nat × EV) → List (Nat × EV)
  | [] => [x]
  | y :: r => if x.2.lt y.2 then y :: insertDesc x r else x :: y :: r

/-- Sorted by weight descending, ties to the lower id (R72 step 4). -/
def sortDesc (l : List (Nat × EV)) : List (Nat × EV) := l.foldr insertDesc []

/-- The shortest prefix whose running sum reaches a bound (R72 step 4). -/
def topP (bound : EV) : EV → List (Nat × EV) → List (Nat × EV)
  | _, [] => []
  | acc, x :: r =>
    let acc := sumNode acc x.2
    if acc.lt bound then x :: topP bound acc r else [x]

/-- The survivors of a row (R71, R72 step 4); at T = 0 the greatest alone. -/
def Eng.survivors (e : Eng) (s : State) (row : Nat) : Dist :=
  let inc := e.included s row
  let t := fp32 (e.pol 0 32 32)
  if isZero t then (match argmax inc with | some x => [(x.1, .one)] | none => [])
  else
    let sorted := sortDesc (softmax inc t)
    let pmax := ((sorted.head?).map (·.2)).getD .zero
    let minp := ((fp32 (e.pol 1 32 32)).mul pmax).rne32
    let l := sorted.filter fun x => !x.2.lt minp
    let l := if e.pol 3 51 11 = 0 then l else l.take (e.pol 3 51 11)
    let bound := fp32 (e.pol 0 0 32)
    let l := if bound.cmp .one == some .eq then l else topP bound (.rat true 0 1) l
    inc.filterMap fun x => l.find? (·.1 = x.1)

/-- P_i of a distribution (R72 step 5). -/
def prefixAt (d : Dist) (i : Nat) : EV := alignedPrefix (fun j => ((d[j]?).map (·.2)).getD .zero) sumNode i

/-- The total of a distribution. -/
def Dist.total (d : Dist) : EV := if d.isEmpty then .zero else prefixAt d (d.length - 1)

/-- Selection of R72 step 7: none when nothing survives. -/
def select (d : Dist) (u : EV) : Option Nat :=
  let r := (u.mul (Dist.total d)).rne32
  match (List.range d.length).find? fun i => r.lt (prefixAt d i) with
  | some i => (d[i]?).map (·.1)
  | none => d.getLast?.map (·.1)

/-- The exact probability of a token in a distribution, q/total (R73). -/
def Dist.prob (d : Dist) (t : Nat) : EV :=
  match d.find? (·.1 = t) with
  | some x => x.2.div (Dist.total d)
  | none => .zero

/-- Element `t` of Q row `k`. -/
def Eng.qAt (e : Eng) (k t : Nat) : EV := fp32 (bits (e.data.getD (e.rowBase + e.nrows + k) 0) (32 * t) 32)

/-- res of R73 over the survivors of a distribution. -/
def Eng.residual (e : Eng) (d : Dist) (k : Nat) : Dist :=
  d.map fun x => (x.1, (EV.choose true .zero (EV.add .rne (Dist.prob d x.1) (e.qAt k x.1).negate)).rne32)

/-- u of a draw number. -/
def Eng.u (e : Eng) (draw : Nat) : EV := samplerU (e.data.getD 0 0) draw (bits (e.dw 2) 32 32) e.smplSeq

/-- Testing the children of an accepted node in ascending order: the accepted child, or the distribution left, which is
which stays as it stood before a child whose residual sums to zero (R73; DESIGN CHOICE, log entry 88). -/
def Eng.testKids (e : Eng) : List Nat → Dist → Nat ⊕ Dist
  | [], d => .inr d
  | k :: r, d =>
    let t := e.draftId k
    if ((e.u k).mul (e.qAt k t)).lt (Dist.prob d t) then .inl k
    else
      let res := e.residual d k
      e.testKids r (if isZero (Dist.total res) then d else res)

/-- Children of a node, 0xFF the root's parent. -/
def Eng.kids (e : Eng) (p : Nat) : List Nat := (List.range e.draftLen).filter fun k => e.parent k = p

/-- VERIFY: the deepest accepted node, 0xFF for none, and the distribution drawn from (R73). -/
def Eng.verify (e : Eng) (s : State) : Nat → Nat → Nat × Dist
  | 0, node => (node, [])
  | n + 1, node =>
    let row := if node = 0xFF then 0 else node + 1
    match e.testKids (e.kids node) (e.survivors s (e.data.getD (e.rowBase + row) 0)) with
    | .inl k => e.verify s n k
    | .inr d => (node, d)

/-- Poisoned words of a policy's bitmap are a machine check to the service: UE steps at their stacks (R316, R350). -/
def State.noteBitmap (s : State) (bmap : Nat) : State :=
  if bmap = 0 then s else s.noteCarve (s.poisonWords bmap 0x8000)

/-- The result of a request whose rows are all read: the record is written, and the word is made (R275). VERIFY draws from the
survivor weights q of its last node, as steps 5 to 7 do, and not from q over their total (R73; DESIGN CHOICE, log entry 88). -/
def smplResult (s : State) (core : Nat) (sl : Slot) (f : FSmpl) (e : Eng) : EngOut :=
  let s := s.noteBitmap (e.pol 3 3 37 * 8)
  let (node, d) := if f.ver then e.verify s (e.draftLen + 1) 0xFF else (0xFF, e.survivors s (e.data.getD e.rowBase 0))
  let acc := if !f.ver then 0 else if e.isTree then node else if node = 0xFF then 0 else node + 1
  let greedy := isZero (fp32 (e.pol 0 32 32)) && !f.ver
  let tok := if greedy then (d.head?).map (·.1) else select d (e.u (if f.ver then 16 else 0))
  let token := tok.getD 0xFFFFFFFF
  let rec_ := token * 2 ^ 32 + acc * 2 ^ 8 + (if tok.isNone then 1 else 0)
  (s.storeLocal core sl (bits (e.dw 7) 0 18) 16 rec_, { e with count := token * 2 ^ 24 + acc })

/-- The bytes that read `k` of SMPL reads: a target row, a Q row, or the counts (R274). -/
def Eng.smplRead (e : Eng) (k : Nat) : Nat × Nat :=
  if k < e.nrows then ((e.dw 0 + k * bits (e.dw 6) 0 32) % 2 ^ 64, e.rowBytes)
  else if k < e.nrows + e.draftLen then ((e.dw 5 + (k - e.nrows) * bits (e.dw 6) 32 32) % 2 ^ 64, 4 * e.vocab)
  else (e.dw 3, if e.pol 3 62 1 = 1 ∧ e.dw 3 ≠ 0 then 4 * e.vocab else 0)

/-- One read of SMPL; the last one gives the result (R274, R275). -/
def unitSmpl (s : State) (core : Nat) (sl : Slot) (f : FSmpl) (e : Eng) (k : Nat) : EngOut :=
  match readVa s sl.chair sl.asid (!e.priv) (e.smplRead k).1 (e.smplRead k).2 with
  | .error x => e.stop s x 0
  | .ok v =>
    let e := { e.did k with data := e.data.set (e.rowBase + k) v }
    if e.todo.isEmpty then smplResult s core sl f e else (s, e)

end Sys2Proof.Machine
end

