-- ==== Sys2Proof/Machine/Seq.lean ====
section
/-! DEFINITION. The commit node: SEQC and its act on a sequence record (R70, R74 to R76, R276, R346, R348). -/

namespace Sys2Proof.Machine

/-- TOKEN of the completion word that SEQC commits. -/
def Eng.token (e : Eng) : Nat := bits e.b.toNat 32 32

/-- ACC of the completion word that SEQC commits. -/
def Eng.acc (e : Eng) : Nat := bits e.b.toNat 8 8

/-- TREE of the descriptor. -/
def Eng.seqTree (e : Eng) : Bool := bit (e.dw 2) 0

/-- The marker of an EMPTY sample (R275). -/
def emptyToken : Nat := 0xFFFFFFFF

/-- The path from node 0 to a node by its parents, in at most `n` steps; none where a parent names no node (R276). -/
def treePath (parents : List Nat) : Nat → Nat → Option (List Nat)
  | 0, _ => none
  | n + 1, k =>
    let p := parents.getD k 0xFF
    if k = 0 then (if p = 0xFF then some [0] else none)
    else if p < k then (treePath parents n p).map (· ++ [k]) else none

/-- SEQC at issue: its descriptor and draft are read and checked (R276). `data` is the path's nodes, then their ids. -/
def startSeqc (s : State) (core : Nat) (sl : Slot) (e : Eng) : EngOut :=
  e.readDesc s core sl 4 fun e =>
    let reject : EngOut := (s, e.fail FC.reservedField 0)
    let acc := e.acc
    let nodes := if e.seqTree then (if acc = 0xFF then 0 else acc + 1) else acc
    if bits (e.dw 0) 20 12 ≠ 0 ∨ bits (e.dw 2) 1 63 ≠ 0 ∨ e.dw 3 ≠ 0 then reject
    else if 2 ^ 18 ≤ e.token ∧ e.token ≠ emptyToken then reject
    else if (if e.seqTree then 15 < acc ∧ acc ≠ 0xFF else 16 < acc) then reject
    else match readDraft s sl.chair sl.asid (!e.priv) (e.dw 1) nodes e.seqTree with
      | .error x => e.stop s x 0
      | .ok (ids, parents) =>
        let path := if !e.seqTree then some (List.range acc)
          else if acc = 0xFF then some [] else treePath parents (acc + 1) acc
        match path with
        | none => reject
        | some p =>
          let run := p.map fun k => ids.getD k 0
          if run.any (2 ^ 18 ≤ ·) then reject
          else if (s.chair sl.chair).seqCount ≤ bits (e.dw 0) 0 20 then (s, e.fail FC.protection 0)
          else (s, { e with data := p ++ run }.plan 1)

/-- The tokens that SEQC offers for commit: those of its run, then the sample's (R276). -/
def Eng.offered (e : Eng) : List Nat := e.data.drop (e.data.length / 2) ++ (if e.token = emptyToken then [] else [e.token])

/-- The stop set that SEQC reads for a record, none where the set is empty or nothing is committed (R75, R346). -/
def State.stopSet (s : State) (chair key : Nat) (e : Eng) : Option Nat :=
  let id := (s.hbm.get (key + 11)).toNat
  if e.offered.isEmpty ∨ id = 0 ∨ !bit (s.chair chair).chstop.toNat 0 then none else some id

/-- The words of a stop set that a SEQC has read; those of another set count for nothing (R346). -/
def Eng.stopWords (e : Eng) (id : Nat) : List Nat := if e.done.head? = some id then e.done.tail else []

/-- The next word of a stop set that SEQC has to read, none once it has W0 and the N words after it (R346). -/
def Eng.nextStop (e : Eng) (id : Nat) : Option Nat :=
  match e.stopWords id with
  | [] => some 0
  | w :: r => if w ≤ 15 ∧ r.length < w then some (r.length + 1) else none

/-- A word of a stop set, read whole as a plain load at its home, or the failure (R346). -/
def stopWord (s : State) (chair id i : Nat) : Except Fail Nat :=
  match stage2 s chair (bits (s.chair chair).chstop.toNat 14 38 * 0x4000 + 64 * id + 4 * i) with
  | .error x => .error x.fail
  | .ok (key, p) =>
    if !p.rd then .error (.of FC.protection)
    else if s.poisoned key 4 then .error ⟨FC.uncorrectable, s.poisonWords key 4, [], []⟩
    else .ok (s.hbm.read key 4)

/-- The stop tokens that a SEQC has read for a record, none where its entry is refused (R346). -/
def State.stopTokens (s : State) (chair key : Nat) (e : Eng) : Option (List Nat) :=
  match s.stopSet chair key e with
  | none => some []
  | some id => match e.stopWords id with
    | w :: r => if 15 < w then none else some r
    | [] => some []

/-- A run up to its first stop token, and whether it holds one (R75). -/
def cutAtStop (stops : List Nat) : List Nat → List Nat × Bool
  | [] => ([], false)
  | t :: r => if t < 2 ^ 18 ∧ stops.contains t then ([t], true) else
    let (l, d) := cutAtStop stops r
    (t :: l, d)

/-- COUNT of SEQC's completion word: LEN, END, RES and ACC above STATUS (R276). -/
def seqcCount (len : Nat) (ended : Bool) (res acc : Nat) : Nat := len * 2 ^ 24 + bnat ended * 2 ^ 16 + res * 2 ^ 8 + acc

/-- What committing tokens makes of a record, its stop tokens read (R74 to R76, R276): the record, and COUNT. -/
def commitTokens (s : State) (key : Nat) (stops : List Nat) (e : Eng) : State × Nat :=
  let path := e.data.take (e.data.length / 2)
  let len := s.hbm.read key 4
  let (run, stopped) := cutAtStop stops e.offered
  let tooLong := decide (2 ^ 24 < len + run.length)
  let run := if tooLong then run.take (2 ^ 24 - len) else run
  let ended := stopped || tooLong || decide (e.token = emptyToken)
  let len' := len + run.length
  let step' := (s.hbm.read (key + 4) 4 + 1) % 2 ^ 32
  let m := s.hbm.write key 8 (len' + step' * 2 ^ 32)
  let m := if ended then m.set (key + 8) (m.get (key + 8) ||| 0x01) else m
  let m := match run.getLast? with
    | some t => m.write (key + 32) 8 (m.read (key + 32) 8 / 2 ^ 18 * 2 ^ 18 + t)
    | none => m
  let k := min run.length path.length
  let acc := if e.seqTree then (if k = 0 then 0xFF else path.getD (k - 1) 0xFF) else k
  ({ s with hbm := m }, seqcCount len' ended 0 acc)

/-- The row of R74 that turns a SEQC away, as RES; none where it commits. -/
def State.seqcIdle (s : State) (key : Nat) (e : Eng) : Option Nat :=
  let flags := (s.hbm.get (key + 8)).toNat
  if s.hbm.read (key + 4) 4 > bits (e.dw 0) 32 32 then some 1
  else if bit flags 0 then some 2
  else if bit flags 1 then some 3
  else none

/-- SEQC acting on its record, under the table of R74; it first reads its stop set, a word at a time (R346). -/
def actSeqc (s : State) (chair key : Nat) (e : Eng) : EngOut :=
  match s.seqcIdle key e with
  | some res =>
    (s, { e.did 0 with count := seqcCount (s.hbm.read key 4) false res (if e.seqTree then 0xFF else 0) })
  | none =>
    match (s.stopSet chair key e).bind fun id => (e.nextStop id).map fun i => (id, i) with
    | some (id, i) =>
      match stopWord s chair id i with
      | .error x => e.stop s x 0
      | .ok w => (s, { e with done := id :: e.stopWords id ++ [w] })
    | none =>
      match s.stopTokens chair key e with
      | none => (s, e.fail FC.reservedField 0)
      | some stops =>
        let (s, c) := commitTokens s key stops e
        (s, { e.did 0 with count := c })

/-- SEQC_RETIRE: an issued SEQC whose step has come acts on its record, in its strand's order (R74, R273, R278). -/
def execSeqcRetire (core uid : Nat) (s : State) : Out :=
  let c := s.core core
  needSome (c.engs.find? (·.id = uid)) fun e => needSome (s.slot? core e.slot) fun sl =>
    need ((match e.instr with | .seqc _ => true | _ => false) && !e.held && e.todo.contains 0 && !c.seqBefore e
        && s.unitsMay core sl e) <|
      let set (s : State) (x : Eng) : State :=
        s.engineActed.modCore core fun k => { k with engs := k.engs.map fun y => if y.id = uid then x else y }
      match s.seqKey sl.chair (bits (e.dw 0) 0 20) true with
      | .error x => .next (set (s.noteUe x) (e.fail x.code 0))
      | .ok key => need (decide (bits (e.dw 0) 32 32 ≤ s.hbm.read (key + 4) 4)) <|
          let (s, x) := actSeqc s sl.chair key e
          .next (set s x)

end Sys2Proof.Machine
end

