-- ==== Sys2Proof/Machine/Run.lean ====
section
/-! DEFINITION. Running engine commands: what each does at issue, its units, what delays an invalidation, and completion
(R211, R217, R220, R248, R253, R259, R261, R273, R404). -/

namespace Sys2Proof.Machine

/-- What a command does at issue. -/
def startEng (s : State) (core : Nat) (sl : Slot) (e : Eng) : EngOut :=
  match e.instr with
  | .xcopy _ | .xfill _ | .xcomp _ => startCopy s core sl e
  | .scat _ | .scata _ => startScatter s e
  | .kvapp _ => startKvapp s core sl e
  | .launch _ => startLaunch s core sl e
  | .bind _ => startBind s core sl e
  | .unbind _ => startUnbind s sl e
  | .attn _ => startAttn s core sl e
  | .patch _ => startPatch s sl e
  | .stap f => startStap s core sl f e
  | .smpl f => startSmpl s core sl f e
  | .seqc _ => startSeqc s core sl e
  | _ => (s, e.plan 1)

/-- Whether a unit of a command may be applied now. -/
def State.unitMay (s : State) (core : Nat) (sl : Slot) (e : Eng) (k : Nat) : Bool :=
  s.unitsMay core sl e && match e.instr with
  | .xcomp _ => e.todo.head? == some k
  | .scat _ | .scata _ => laneMay e k
  | .stap _ => decide (k ≠ 0) || (s.holdMay core sl e && !(s.core core).seqBefore e)
  | .seqc _ => false
  | i => !isPalette i || (s.core core).atHead e

/-- One unit of a command. -/
def unitEng (s : State) (core : Nat) (sl : Slot) (e : Eng) (k : Nat) : EngOut :=
  match e.instr with
  | .xcopy _ | .xfill _ => unitCopy s core sl e k
  | .xcomp _ => unitComp s core sl e k
  | .scat _ | .scata _ => unitScatter s sl e k
  | .synci _ => unitSynci s core sl e
  | .invr _ | .inva _ => unitInv s sl e
  | .kvapp _ => unitKvapp s core sl e k
  | .attn _ => unitAttn s core sl e k
  | .pdom _ => unitPdom s core e
  | .pwr f => unitPwr s core f e
  | .pfeed f => unitPfeed s core f e
  | .pstep _ => unitPstep s core e
  | .psave _ => unitPsave s core sl e
  | .prest _ => unitPrest s core sl e
  | .patch _ => unitPatch s core e
  | .stap f => unitStap s core sl f e k
  | .smpl f => unitSmpl s core sl f e k
  | _ => (s, e.did k)

/-! ### What delays an invalidation (R217, R404) -/

/-- Bytes that a command has still to read or write by virtual address. -/
structure Access where
  va : Nat
  n : Nat
  need : Need
  deriving DecidableEq, Repr

/-- What a copy has left: its units, and the elements that XCOMP may still keep (R211). -/
def Eng.copyLeft (e : Eng) : List Access :=
  let left := e.todo.length * 64
  (if e.srcLocal || e.isFill then [] else e.todo.map fun k =>
      ⟨(e.dw 0 + 64 * k) % 2 ^ 64, min 64 (e.bytes - 64 * k), .load⟩)
    ++ if e.isComp then
      (if e.dstLocal then [] else [⟨(e.dw 1 + e.count * e.esz) % 2 ^ 64, left, .store⟩])
        ++ (if e.dw 2 = 0 then [] else [⟨(e.dw 2 + 4 * e.count) % 2 ^ 64, left / e.esz * 4, .store⟩])
    else if e.dstLocal then [] else e.todo.map fun k => ⟨(e.dw 1 + 64 * k) % 2 ^ 64, min 64 (e.bytes - 64 * k), .store⟩

/-- What a call has left of page `p` of its list: the entry, and the key and value rows of the positions from `lo` on
(R313). -/
def Eng.pageLeft (e : Eng) (s : State) (sl : Slot) (lo p : Nat) : List Access :=
  let first := max lo (64 * p)
  let rows := min e.len (64 * p + 64) - first
  let row (page : Nat) (v : Bool) : Access := ⟨kvRow page e.head e.dh first v, rows * 2 * e.dh, .load⟩
  ⟨(e.kvpl + 8 * p) % 2 ^ 64, 8, .load⟩ ::
    match pageOf s sl.chair sl.asid (!e.priv) e.kvpl first with
    | .ok page => [row page false, row page true]
    | .error _ => []

/-- What a call has left: the pages of every position that some row has not passed (R69, R258). -/
def Eng.attnLeft (e : Eng) (s : State) (sl : Slot) : List Access :=
  let kbs := match e.binding with | some b => b.kbs | none => 1
  e.todo.flatMap fun r =>
    let lo := match e.rows[r]? with | some x => x.next * kbs | none => 0
    if lo < e.len then (List.range ((e.len - 1) / 64 - lo / 64 + 1)).flatMap fun p => e.pageLeft s sl lo (lo / 64 + p) else []

/-- What an issued command has still to read or write by virtual address (R217 step 3). -/
def Eng.remaining (e : Eng) (s : State) (sl : Slot) : List Access :=
  match e.instr with
  | .xcopy _ | .xfill _ | .xcomp _ => e.copyLeft
  | .scat _ | .scata _ => e.todo.map fun k => ⟨e.laneAddr k, (scatterOf e.instr).2.1.bytes, .store⟩
  | .kvapp _ =>
    let dh := headDim (bits (e.dw 3) 6 2)
    e.todo.map fun k => ⟨kvRow (e.data.headD 0) (bits (e.dw 3) 8 8) dh (e.b.toNat % 2 ^ 64) (k = 1), 2 * dh, .store⟩
  | .attn _ => e.attnLeft s sl
  | .stap f => (e.todo.filter (· ≠ 0)).map fun k =>
      ⟨(e.dw 0 + 64 * (k - 1)) % 2 ^ 64, min 64 (e.count * stapSize f - 64 * (k - 1)), .store⟩
  | .smpl _ => e.todo.map fun k => ⟨(e.smplRead k).1, (e.smplRead k).2, .load⟩
  | _ => []

/-- Whether a page of an access may be covered by an invalidation and does not translate. -/
def Access.fails (a : Access) (s : State) (sl : Slot) (user : Bool) (r : Option (Nat × Nat)) : Bool :=
  (pagePieces a.va a.n).any fun p => covers r p.1 (2 ^ 30) && match walkVa s sl.chair sl.asid user a.need p.1 p.2 with
    | .ok _ => false
    | .error _ => true

/-- Whether an issued command delays an invalidation: its fresh walk has failed and it has not completed, or is going to
fail for bytes that it has left (R217, R404). -/
def State.engDelays (s : State) (core chair asid : Nat) (r : Option (Nat × Nat)) (e : Eng) : Bool :=
  match s.slot? core e.slot with
  | some sl => sl.chair = chair && sl.asid = asid && !e.held
      && (decide (e.status = FC.translation) || (e.remaining s sl).any fun a => a.fails s sl (!e.priv) r)
  | none => false

/-- Whether a committed store of a slot that used a covered translation is still to be applied (R217 step 2). -/
def Slot.storeDelays (sl : Slot) (hit : Nat → Bool) : Bool :=
  sl.post.any fun p => match p.act with | .store st => !st.loc && hit st.va | _ => false

/-- Whether the steps of an invalidation have ended, so that it may complete (R217, R404). -/
def State.invDone (s : State) (sl : Slot) (e : Eng) : Bool :=
  let (asid, r) := invRange e
  let hit (core va : Nat) : Bool := covers r va ((s.core core).pageSize sl.chair asid va)
  let slotDelays (ci i : Nat) : Bool := match s.slot? ci i with
    | some x => x.chair = sl.chair && x.asid = asid && x.storeDelays (hit ci)
    | none => false
  let chainDelays (d : DEntry) : Bool := d.chair = sl.chair && d.committed && match d.store with
    | some p => hit d.core p.va
    | none => false
  r == some (e.a.toNat % 2 ^ 64, 0) || (!s.dressers.any chainDelays && (List.range s.cores.length).all fun ci =>
    !(List.range 4).any (slotDelays ci) && !(s.core ci).engs.any (s.engDelays ci sl.chair asid r))

/-- A completed INVA: the cores walk from the anchor as it stands from now on (R329). -/
def State.dropRoots (s : State) (chair : Nat) (e : Eng) : State :=
  match e.instr with
  | .inva f =>
    let other (x : Nat × Nat × Nat) : Bool := !(decide (x.1 = chair) && decide (x.2.1 = f.asid.toNat))
    { s with cores := s.cores.map fun (k : Core) => { k with roots := k.roots.filter other } }
  | _ => s

/-! ### Completion -/

/-- Whether no rule states COUNT of a completed command, so that it is free (R176, log entry 1). -/
def Eng.countFree (e : Eng) : Bool :=
  match e.instr with
  | .synci _ | .invr _ | .inva _ | .unbind _ | .patch _ | .pdom _ | .pwr _ | .pfeed _ | .psave _ | .prest _ => true
  | .attn _ | .smpl _ | .seqc _ => decide (e.status ≠ 0)
  | .stap _ => decide (e.status ≠ 0) && decide (e.status ≠ FC.probeHold)
  | .bind _ => decide (e.status ≠ 0) && decide (e.status ≠ FC.bindInvalid) && decide (e.status ≠ FC.bindUndeclared)
  | _ => false

/-- Replacing a command of a core. -/
def State.setEng (s : State) (core : Nat) (e : Eng) : State :=
  s.modCore core fun k => { k with engs := k.engs.map fun x => if x.id = e.id then e else x }

/-- Removing a command of a core. -/
def State.dropEng (s : State) (core : Nat) (e : Eng) : State :=
  s.modCore core fun k => { k with engs := k.engs.filter (·.id ≠ e.id) }

/-- Completing a command: its word is written to its entry, and the command is gone (R220, R320). -/
def State.finishEng (s : State) (core : Nat) (e : Eng) : State :=
  let (count, s) := if e.countFree then s.draw (2 ^ 56) else (e.count, s)
  (s.completeCq core e.slot e.cq e.seq (complWord count e.status)).dropEng core e

/-- Whether a command with no unit left may complete, and how: a LAUNCH whose packet the arbiter has taken up completes
with its context (R177); an invalidation when its steps have ended (R217). -/
def finish (s : State) (core : Nat) (sl : Slot) (e : Eng) : Out :=
  match e.instr with
  | .launch _ =>
    if e.status ≠ 0 then .next (s.finishEng core e) else need (!s.atArbiter core sl e) (.next (s.dropEng core e))
  | .invr _ | .inva _ => need (s.invDone sl e) (.next ((s.dropRoots sl.chair e).finishEng core e))
  | _ => .next (s.finishEng core e)

/-- ENGINE_COMPLETION: an issued command applies a unit, or completes (R211, R220). -/
def execEngineCompletion (core uid : Nat) (act : EngAct) (s : State) : Out :=
  needSome ((s.core core).engs.find? (·.id = uid)) fun e => needSome (s.slot? core e.slot) fun sl =>
    match act with
    | .unit k => need (!e.held && e.todo.contains k && s.unitMay core sl e k) <|
        let (t, x) := unitEng s core sl e k
        .next (t.engineActed.setEng core x)
    | .finish => need (!e.held && e.todo.isEmpty) <| finish s core sl e

end Sys2Proof.Machine
end

