-- ==== Sys2Proof/Machine/Issue.lean ====
section
/-! DEFINITION. The act of commit and the issue of engine commands (R46, R118, R163, R198, R204, R211, R220, R281, R317,
R318, R368). -/

namespace Sys2Proof.Machine

/-! ### Issue -/

/-- What a command that issues reads of memory: its home, and on it stores of the strand not yet applied (R211, R220). -/
def State.seeing (s : State) (core : Nat) (sl : Slot) (ps : List PStore) : State :=
  ps.foldl (fun s p =>
    if p.loc then s.storeLocal core sl p.va p.bytes p.data.toNat
    else match p.phys with
      | some (gpa, key) => if s.lost key then s else s.storeGlobal sl.chair gpa key p.bytes p.data.toNat
      | none => s) s

/-- The state with memory as another holds it: that of the package, and a core's own. -/
def State.withMemory (s t : State) (core : Nat) : State :=
  { s.modCore core (fun k => { k with mem := (t.core core).mem, poison := (t.core core).poison }) with
    hbm := t.hbm, poison := t.poison }

/-- A free part of a list, its order kept. -/
def State.drawPart (s : State) : List PStore → List PStore × State
  | [] => ([], s)
  | p :: r =>
    let (x, s) := s.draw 2
    let (l, s) := s.drawPart r
    (if x = 0 then l else p :: l, s)

/-- Which stores of its strand that are not yet applied a command sees at issue: all of them, or with REL = 0 a free part
(R211, R220). -/
def State.seenBy (s : State) (sl : Slot) (e : Eng) : List PStore × State :=
  if e.seesAll then (sl.storesFor e, s) else s.drawPart (sl.storesFor e)

/-- A command as it stands at issue: STAP takes its tap register (R271). -/
def Eng.atIssue (e : Eng) (sl : Slot) : Eng :=
  match e.instr with
  | .stap f => { e with held := false, data := [(sl.taps.getD f.tap.toNat 0).toNat] }
  | _ => { e with held := false }

/-- A command issues: it reads what it sees, and memory stays as it is. -/
def State.issueEng (s : State) (core : Nat) (sl : Slot) (e : Eng) : EngOut :=
  let (ps, s) := s.seenBy sl e
  let (t, x) := startEng (s.seeing core sl ps) core sl (e.atIssue sl)
  (t.withMemory s core, x)

/-- Whether an earlier fence of the strand that holds engine commands is still to be passed (R206). -/
def Slot.fenceBefore (sl : Slot) (e : Eng) : Bool :=
  sl.post.any fun p => decide (p.uid = e.uid) && before p.age p.lsid e.age e.lsid && match p.act with
    | .fence k sc => holdsStores k && decide (sc ≠ .strand)
    | _ => false

/-- Whether a command stands behind a held command of its strand (R318). -/
def Core.heldBefore (c : Core) (e : Eng) : Bool :=
  c.engs.any fun x => x.held && decide (x.slot = e.slot) && decide (x.uid = e.uid) && before x.age x.lsid e.age e.lsid

/-- Whether a command, which would issue as `x`, may issue: nothing of its strand holds it back, what it is to see of chain
stores has been applied, and its unit has room (R206, R211, R318). -/
def State.mayIssue (s : State) (core : Nat) (sl : Slot) (e x : Eng) : Bool :=
  !(s.core core).heldBefore e && !sl.fenceBefore e
    && !(e.seesAll && s.chainBefore core e.slot e.uid e.age e.lsid) && !s.unitFull core x

/-- Adding a command to a core. -/
def State.addEng (s : State) (core : Nat) (e : Eng) : State := s.modCore core fun k => { k with engs := k.engs ++ [e] }

/-- A command issues, or is held in its core's issue buffer (R318). -/
def State.issueOrHold (s : State) (core : Nat) (sl : Slot) (e : Eng) : State :=
  let (t, x) := s.issueEng core sl e
  if s.mayIssue core sl e x then (t.addEng core x).perfEvent core sl.chair 0x08 1 else s.addEng core { e with held := true }

/-- A command of a committing block, as it takes its place on its core (R118, R220). -/
def PEng.command (p : PEng) (id slot : Nat) (i : Inst) (t : Strand) : Eng :=
  { id := id, slot := slot, uid := i.uid, age := i.age, lsid := p.lsid, tag := t.tag, priv := t.priv, instr := p.instr,
    a := p.a, b := p.b, cq := p.cq, seq := p.seq, held := false, todo := [], done := [], desc := [], data := [],
    status := 0, count := 0, binding := none, rows := [] }

/-- An engine command of a block at step 3 of its commit (R46, R220). -/
def State.issue (s : State) (core slot : Nat) (sl : Slot) (i : Inst) (t : Strand) (p : PEng) : State :=
  ({ s with nextId := s.nextId + 1 } : State).issueOrHold core ((s.slot? core slot).getD sl) (p.command s.nextId slot i t)

/-- HELD_COMMAND_ISSUE: the oldest held command that may issue does (R318). -/
def execHeldCommandIssue (core : Nat) (s : State) : Out :=
  let without (e : Eng) : State := s.dropEng core e
  let may (e : Eng) : Bool := e.held && match s.slot? core e.slot with
    | some sl => (without e).mayIssue core sl e ((without e).issueEng core sl e).2
    | none => false
  needSome ((s.core core).engs.find? may) fun e => needSome (s.slot? core e.slot) fun sl =>
    -- the command takes its place in its unit's queue, behind those already issued
    .next ((without e).issueOrHold core sl e)

/-! ### Commit -/

/-- Held faults of the block that is now the oldest of a strand become eligible: they stand last (R35, R324). -/
def State.promote (s : State) (core slot uid : Nat) : State :=
  match (s.slot? core slot).bind fun sl => sl.insts.find? fun i => i.uid = uid && sl.isOldest i with
  | some i =>
    let mine (h : Held) : Bool := h.slot = slot && h.age = i.age
    s.modCore core fun k => { k with held := k.held.filter (fun h => !mine h) ++ k.held.filter mine }
  | none => s

/-- Steps 2 to 5 of the commit of a block whose atomics have returned (R46, R353). -/
def State.commit (s : State) (core slot : Nat) (sl : Slot) (i : Inst) : State :=
  let s := s.countRows core slot sl.chair i.age
  -- step 2
  let s := s.modStrand core slot i.uid fun t => i.regsAfter t
  let s := s.csrWrites core slot i.uid i
  -- step 3
  let arrays := (s.config3 core slot i).arrays
  let s := s.modArrays core fun _ => arrays
  match (s.slot? core slot).bind (·.strand? i.uid), i.exits.head? with
  | some t, some exit =>
    let s := i.engsInOrder.foldl (fun s p => s.issue core slot sl i t p) s
    let s := s.strandActs core slot i t
    -- step 4
    let next := t.exitTo i exit
    let s := match next with
      | some t => s.modStrand core slot i.uid fun _ => t
      | none => s.modSlot core slot (·.endStrand t)
    -- step 5
    let s := s.modCore core (·.dropBlock slot i.age)
    let s := s.modSlot core slot fun x => { x with insts := x.insts.filter (·.age ≠ i.age) }
    let code := i.fences.filter (·.kind = .codeK)
    let s := code.foldl (fun s f => s.dropCode core sl f.sc) s
    let s := if next.map (·.ba.toNat) = i.next ∧ code.isEmpty then s else s.discardFrom core slot i.uid i.age
    (s.promote core slot i.uid).perfEvent core sl.chair 0x02 1
  | _, _ => s

/-- Steps 2 to 5 as the state now holds the block; a RET to an address that is not aligned is a fault of it (R163). -/
def State.commitNow (s : State) (core slot age : Nat) : State :=
  match s.slot? core slot with
  | none => s
  | some sl =>
    match sl.inst? age, (sl.inst? age).bind fun i => sl.strand? i.uid with
    | some i, some t =>
      if i.retMisaligned t then s.record core slot age (.plain FC.alignment) else s.commit core slot sl i
    | _, _ => s

/-- Whether the stores and atomics of a block may all be applied in the act of its commit: nothing of its strand is before
them (R194, R195, R281). -/
def State.directMay (s : State) (core slot : Nat) (sl : Slot) (i : Inst) : Bool :=
  !sl.post.any (fun p => p.uid = i.uid) && !s.chainBefore core slot i.uid i.age 0
    && !i.stores.any (fun p => (s.core core).readsEarly p || (p.release && (s.core core).relEngine slot i.uid i.age 0))

/-- The commit of a block whose RET goes where an atomic of it decides: its stores and atomics are applied in the same act, so
that a RET to an address that is not aligned leaves them unapplied (R163, log entry 27). -/
def State.commitDirect (s : State) (core slot : Nat) (sl : Slot) (i : Inst) (ps : List PStore) : State :=
  let t := (s.beginCommit core slot i ps).applyDirect core slot i.age sl i.storesInOrder
  let t := t.modSlot core slot fun x => { x with post := x.post.filter fun p => !(decide (p.age = i.age) && match p.act with
    | .store _ => true
    | _ => false) }
  match (t.slot? core slot).bind fun x => (x.inst? i.age).bind fun j => (x.strand? j.uid).map fun st => j.retMisaligned st with
  | some true => s.record core slot i.age (.plain FC.alignment)
  | _ => (t.dropPre core).commitNow core slot i.age

/-- The first act of the commit of a block, its translations walked afresh: its faults, else step 1 begins, and with no
atomic to wait for the other steps follow (R46, R198, R204). -/
def State.commitFirst (s : State) (core slot : Nat) (sl : Slot) (t : Strand) (i : Inst) (ps : List PStore) : Out :=
  match s.commitFaults core slot sl i t, s.amosPoisoned core sl i with
  | f :: fs, _ => .next ((s.noteTaps sl i).modInst core slot i.age fun x => { x with faults := x.faults ++ f :: fs })
  | [], p :: _ => .next (s.amoFault core slot i.age sl p)
  | [], [] =>
    let s := s.noteTaps sl i
    let chain := (s.reservations core slot i.age).any (·.store.isSome)
    if !i.stores.any (·.amo.isSome) then .next ((s.beginCommit core slot i ps).commitNow core slot i.age)
    else if i.lnkFromAmo && decide (i.exits = [.ret]) && !chain then
      need (s.directMay core slot sl i) <| .next (s.commitDirect core slot sl i ps)
    else .next (s.beginCommit core slot i ps)

/-- BLOCK_COMMIT (R46): a block that meets the condition and is oldest commits, its translations walked afresh where an
invalidation dropped them (R198). One with atomics commits in two acts: step 1 begins, its stores and atomics are applied,
and the other steps follow once every atomic has returned (R204). -/
def execBlockCommit (core slot age : Nat) (s : State) : Out :=
  needSome (s.slot? core slot) fun sl => needSome (sl.inst? age) fun i => needSome (sl.strand? i.uid) fun t =>
    need (s.commitReady core slot sl i && s.commitFree core slot sl i t) <|
      if i.committing then .next (s.commitNow core slot age)
      else
        let chain := (s.reservations core slot age).filterMap fun d => if d.committed then none else d.store
        match s.rewalks core sl (!t.priv) (i.storesInOrder ++ chain) with
        | (s, some (p, e), _) =>
          let s := s.noteTrans e
          match e.stage with
          | some st => .next ((s.perfEvent core sl.chair 0x07 1).modCore core fun k =>
              { k with held := k.held ++ [⟨slot, age, p.k, none, if p.loc then 0 else p.va, true, p.lsid, st, .again⟩] })
          | none => .next (s.record core slot age (.access e.code p.lsid p.va))
        | (s, none, ps) =>
          s.commitFirst core slot sl t { i with stores := i.stores.map fun p => (ps.find? (·.lsid = p.lsid)).getD p } ps

end Sys2Proof.Machine
end

