-- ==== Sys2Proof/Machine/Image.lean ====
section
/-! DEFINITION. The save image of a slot as laid out: header, registers, tables, strands, fork records, Palette sections,
array stations and headers, and the memory that it lies in (R315, R365 to R370). -/

namespace Sys2Proof.Machine

/-- Doublewords from an offset on. -/
def placeWords (off : Nat) (l : List Nat) : List (Nat × Nat) := (List.range l.length).map fun i => (off + 8 * i, l.getD i 0)

/-- Bytes packed into doublewords, little-endian. -/
def packBytes (b : List Nat) : List Nat :=
  (List.range ((b.length + 7) / 8)).map fun i => (List.range 8).foldr (fun j v => b.getD (8 * i + j) 0 + 256 * v) 0

/-- A value of `n` doublewords. -/
def splitWords (v n : Nat) : List Nat := (List.range n).map (dwOf v)

/-- A completion entry's state code (R365). -/
def CqSt.code : CqSt → Nat
  | .free => 0
  | .pending => 1
  | .done | .read => 2

/-- The operation code of a reduction: OPR and W (R173, R365). -/
def redCode : RedOp → Nat
  | .int o w =>
    (match o with | .add => 0 | .min => 1 | .max => 2 | .minu => 3 | .maxu => 4 | .and => 5 | .or => 6 | .xor => 7)
      + 16 * (match w with | .w8 => 0 | .w16 => 1 | .w32 => 2 | .w64 => 3)
  | .fadd _ => 8 + 16
  | .fmin => 9 + 16
  | .fmax => 10 + 16

/-- The runs of ordinals that a record keeps a partial sum for (R365). -/
def sumRuns (n : Nat) (known contrib : List Nat) : Nat → Nat → List (Nat × Nat)
  | 0, lo => if contrib.contains lo then [(lo, 0)] else []
  | l + 1, lo =>
    let hi := lo + 2 ^ (l + 1)
    let inside (x : Nat) : Bool := decide (lo ≤ x) && decide (x < hi)
    if !contrib.any inside then []
    else if (known.filter inside).length + (hi - max lo (min n hi)) = 2 ^ (l + 1) then [(lo, l + 1)]
    else sumRuns n known contrib l lo ++ sumRuns n known contrib l (lo + 2 ^ l)

/-- The partial sum of a run, as its 64-bit payload. -/
def ForkRec.runSum (r : ForkRec) (op : RedOp) (run : Nat × Nat) : Nat :=
  let part : ForkRec := { r with n := 2 ^ run.2, contrib := r.contrib.filterMap fun c =>
    if run.1 ≤ c.1 ∧ c.1 < run.1 + 2 ^ run.2 then some (c.1 - run.1, c.2) else none }
  (collectResult op part).lo

/-- A fork record of 256 bytes (R365). -/
def ForkRec.words (r : ForkRec) : List Nat :=
  let c := r.contrib.map (·.1)
  let runs := sumRuns r.n (c ++ r.ended.filter fun e => !c.contains e) c (clog2 r.n) 0
  let op := r.op.getD (.int .add .w64)
  [r.n, r.bound % 64 + 2 ^ 8 * (match r.op with | some o => redCode o | none => 0), r.ended.length, r.next, r.handle, runs.length]
    ++ runs.flatMap fun x => [x.1 * 256 + x.2, r.runSum op x]

/-- A strand record of 1 KiB, its words by offset (R367). -/
def Strand.words (t : Strand) (off : Nat) : List (Nat × Nat) :=
  placeWords off (t.g.map (·.lo))
    ++ placeWords (off + 0x100) (t.v.flatMap fun d => splitWords d.bits.toNat 8)
    ++ placeWords (off + 0x300) [t.ba.toNat, t.tag.toNat, t.iter.toNat, t.lnk.toNat, t.traps.toNat, t.trapba.toNat, t.flt.toNat]
    ++ placeWords (off + 0x338) (packBytes (t.g.map (·.fmt.code) ++ t.v.map (·.fmt.code)))
    ++ [(off + 0x360, t.fork.getD 0xFF)]

/-- A queued Palette command of 32 bytes (R368). -/
def Eng.queueWords (e : Eng) : List Nat :=
  let w := ((encode e.instr).getD 0).toNat
  [e.a.toNat % 2 ^ 64, w / 2 ^ 56 * 2 ^ 56 + w % 2 ^ 23, e.cq, match e.instr with | .pstep _ => e.count | _ => 0]

/-- A Palette section of 6 KiB (R368). -/
def Domain.words (x : Domain) (d off : Nat) (cmds : List Eng) : List (Nat × Nat) :=
  placeWords off x.image
    ++ placeWords (off + 0x410) (packBytes (x.wells.flatMap fun w => w.sources.flatMap fun n => [n % 256, n / 256]))
    ++ (List.range 16).flatMap (fun c =>
      let f := x.feeds.getD c []
      placeWords (off + 0x690 + 72 * c) (f.length :: splitWords (f.foldr (fun i v => dzCode i + 4 * v) 0) 8))
    ++ ((List.range 8).filter (· ≠ d)).zipIdx.flatMap (fun y =>
      let q := x.fifo y.1
      placeWords (off + 0xB10 + 264 * y.2) (q.length :: q.flatMap fun e => splitWords (e.foldr (fun i v => dzCode i + 4 * v) 0) 2))
    ++ placeWords (off + 0x1250) (cmds.flatMap Eng.queueWords)

/-- The slot of a station: 8 columns in a row of the grid (R113). -/
def stationSlot (row col : Nat) : Nat := 8 * row + col

/-- Records of an array: its stations and its header (R239, R365). -/
def SysArray.words (a : SysArray) : List (Nat × Nat) :=
  let origin := stationSlot a.row0 a.col0
  let stations := (List.range a.tiles.length).flatMap fun n =>
    match a.tiles[n]? with
    | none => []
    | some t =>
      let k := stationSlot (a.row0 + n / (a.ncol + 1)) (a.col0 + n % (a.ncol + 1))
      let kind := if t.src.isSome then 1 else if t.drain then 2 else 0
      let (va, w) := match t.src with | some (va, stride, f) => (va, stride + f.code * 2 ^ 32) | none => (0, 0)
      placeWords (0x1A000 + 32 * k) [origin + 0x80, t.wf.code + kind * 2 ^ 8, va, w]
  let rect := a.row0 * 2 ^ 27 + a.col0 * 2 ^ 24 + a.nrow * 2 ^ 20 + a.ncol * 2 ^ 17
  let route (i : Nat) : Nat := match a.routes[i]? with | some (x, y) => y * 2 ^ 14 + x * 2 ^ 4 + i | none => 0
  stations ++ placeWords (0x1B000 + 96 * origin)
    ([rect + a.af.code, a.sigw] ++ (List.range 8).map fun i => route (2 * i) + route (2 * i + 1) * 2 ^ 32)

/-- The header of a core image (R366). -/
def imageHeader (core slot live lmp : Nat) (sl : Slot) (nextRoot : Option Nat) (doms : Nat) : List Nat :=
  [core * 2 ^ 56 + slot * 2 ^ 54 + 1 * 2 ^ 32 + 0x43495645,
   sl.chair * 2 ^ 58 + sl.ctx * 2 ^ 54 + live * 2 ^ 32 + lmp * 2 ^ 24 + nextRoot.getD 0xFFFFFF,
   doms * 2 ^ 56, 0x20000 + lmp * 0x4000]

/-- The words of a core image that are not zero (R365). -/
def imageWords (core slot : Nat) (sl : Slot) (nextRoot : Option Nat) (cq : List CqEntry) (domains : List (Nat × Domain))
    (arrays : List SysArray) (engs : List Eng) : List (Nat × Word) :=
  let lmp := bits sl.lmpart.toNat 0 5
  let doms := domains.foldl (fun v d => v + 2 ^ d.1) 0
  let words :=
    placeWords 0 (imageHeader core slot sl.strands.length lmp sl nextRoot doms)
      ++ placeWords 0x40 ([sl.ctxpri, sl.cabq, sl.chest, sl.lmpart, sl.chain, sl.trapv].map (·.toNat))
      ++ placeWords 0x80 (sl.taps.map (·.toNat))
      ++ placeWords 0xC0 sl.xcnt
      ++ placeWords 0x100 (packBytes (sl.pool.map fun p => bnat p.1 * 64 + p.2))
      ++ cq.flatMap (fun e => placeWords (0x1000 + 16 * e.idx) [e.seq * 2 ^ 32 + e.st.code, e.word.toNat])
      ++ sl.strands.zipIdx.flatMap (fun t => t.1.words (0x2000 + 0x400 * t.2))
      ++ sl.forks.flatMap (fun r => placeWords (0xA000 + 256 * r.idx) r.words)
      ++ domains.flatMap (fun d => d.2.words d.1 (0xE000 + 0x1800 * d.1) (engs.filter (·.onDomain d.1)))
      ++ arrays.flatMap SysArray.words
  (words.filter fun w => decide (w.2 ≠ 0)).map fun w => (w.1, BitVec.ofNat 64 w.2)

/-! ### The image in memory (R315, R365) -/

/-- The guest-physical address of the image of a context on a core, in what the service has reserved for its chair: 512 KiB
for each of 192 cores of each of 16 contexts (R315, log entry 24). -/
def Chair.imageArea (c : Chair) (ctx core : Nat) : Option Nat := c.area.map (· + (192 * ctx + core) * 0x80000)

/-- The memory of an image at a guest-physical address, through the chair's second stage; one image lies in one page of
2 MiB (R315). -/
def State.imageKey (s : State) (chair area : Nat) : Option Nat :=
  match stage2 s chair area with
  | .ok (key, _) => if (keyPackage key).isNone then some key else none
  | .error _ => none

/-- Bytes of an image: the header and tables, and the partition (R365, R366). -/
def imageBytes (lmp : Nat) : Nat := 0x20000 + lmp * 0x4000

/-- The bytes of a slot's partition that are not zero, each at its place in the image (R365). -/
def State.partition (s : State) (core : Nat) (sl : Slot) : List (Nat × Byte) :=
  (List.range sl.partSize).filterMap fun o =>
    let b := (s.core core).mem.get (sl.localAddr o)
    if b = Memory.blank then none else some (0x20000 + o, b)

/-- Poison of a slot's partition goes with its words into an image (R316, R349). -/
def State.poisonImage (s : State) (core : Nat) (sl : Slot) (area key : Nat) : State :=
  ((List.range (sl.partSize / 8)).filter fun w => s.poisonedLocal core sl (8 * w) 8).foldl (fun s w =>
    s.poisonGlobal (area + 0x20000 + 8 * w) (key + 0x20000 + 8 * w) 8) s

/-- An image written: its bytes are zero but for its words and its partition (R362 step 8, R365). -/
def State.writeImage (s : State) (core : Nat) (sl : Slot) (area key : Nat) (words : List (Nat × Word)) : State :=
  let n := imageBytes (bits sl.lmpart.toNat 0 5)
  let m := words.foldl (fun m w => Memory.write m (key + w.1) 8 w.2.toNat) (zeroBytes s.hbm key n)
  let m := (s.partition core sl).foldl (fun m b => m.set (key + b.1) b.2) m
  ({ s with hbm := m, poison := s.poison.filter fun w => !(decide (key ≤ 8 * w) && decide (8 * w < key + n)) } :
    State).poisonImage core sl area key

/-- Poisoned words of an image (R316, R370). -/
def State.imagePoison (s : State) (key n : Nat) : List Nat :=
  s.poison.filter fun w => decide (key ≤ 8 * w) && decide (8 * w < key + n)

/-- Whether an image as it stands in memory passes its MAGIC, VERSION and SIZE checks (R366, R370). -/
def State.imageOk (s : State) (key lmp : Nat) : Bool :=
  decide (s.hbm.read key 4 = 0x43495645) && decide (s.hbm.read (key + 4) 2 = 1)
    && decide (s.hbm.read (key + 24) 8 = imageBytes lmp)

end Sys2Proof.Machine
end

