-- ==== Sys2Proof/Machine/Switch.lean ====
section
/-! DEFINITION. Time slices, eviction, resume and chair reset (R69, R209, R246, R299, R315, R327, R355, R361 to R375). -/

namespace Sys2Proof.Machine

/-- The cores and slots that a launch holds. -/
def State.placesOf (s : State) (id : Nat) : List (Nat × Nat) :=
  (List.range s.cores.length).filterMap fun c => ((s.core c).slotOf id).map fun i => (c, i)

/-! ### Time slices (R361) -/

/-- Whether a context in one slot waits for a station at which a match of another stands, or for a set of a Cabinet that is
full and holds a token of it (R361). -/
def Core.contends (c : Core) (w h : Nat) : Bool :=
  c.ready.any (fun m => m.slot = w && c.ready.any fun x => x.slot = h && x.k = m.k)
    || (c.net ++ c.chest).any fun t => t.slot = w && decide (8 ≤ (c.inSet t.row (c.tokSet t)).length)
        && (c.inSet t.row (c.tokSet t)).any (·.slot = h)

/-- Whether a launch in a core's queue waits for a context slot: none is free, or its partition does not fit (R23, R361). -/
def State.waitsSlot (s : State) (core waiter : Nat) : Bool :=
  let c := s.core core
  c.lq.any (·.launch = waiter) && (c.slotOf waiter).isNone && match s.launch? waiter with
    | some l => (List.range 4).all (fun i => (c.slot? i).isSome) || decide (c.freeUnits.length < pkLmp l.packet)
    | none => false

/-- Whether an image of an evicted context waits for slot `i` of its core, or for units that its occupant holds (R361,
R370). -/
def State.waitsResume (s : State) (core waiter i : Nat) : Bool :=
  s.saves.any fun x => x.launch = waiter && x.core = core
    && (x.slot = i || decide ((s.core core).freeUnits.length < bits x.body.lmpart.toNat 0 5))

/-- Whether a launch waits on a core for what another holds there: a context slot, or a set or station that the other's
higher CTXPRI occupies (R361). -/
def State.heldOff (s : State) (core waiter holder : Nat) : Bool :=
  let c := s.core core
  match c.slotOf holder with
  | none => false
  | some h => s.waitsSlot core waiter || s.waitsResume core waiter h || match c.slotOf waiter with
    | some w => decide (c.pri w < c.pri h) && c.contends w h
    | none => false

/-- TIME_SLICE_EXPIRY: a full slice has passed for a waiting context; the service may evict the other (R361). -/
def execTimeSliceExpiry (launch waiter : Nat) (s : State) : Out :=
  needSome (s.launch? launch) fun l => needSome (s.launch? waiter) fun _ =>
    need (decide (launch ≠ waiter) && !l.aborted && !l.out
      && (List.range s.cores.length).any fun c => s.heldOff c waiter launch) <|
      .next (s.modLaunch launch fun x => { x with evict := true })

/-! ### Eviction (R362 to R369) -/

/-- Whether a command is cut by eviction: an ATTN, or one in the queue of a domain (R362 steps 6 and 7). -/
def Eng.isCut (e : Eng) : Bool := (match e.instr with | .attn _ => true | _ => false) || (List.range 8).any e.onDomain

/-- Whether steps 2 to 7 of eviction can end on a core (R362): no applied chain load in flight,
no commit under way, every committed store applied, and every command complete but those that are cut. -/
def State.evictable (s : State) (core slot : Nat) : Bool :=
  match s.slot? core slot with
  | none => false
  | some sl => sl.insts.all (fun i => !i.pinned && !i.committing) && sl.post.isEmpty
      && ((s.core core).engs.filter (·.slot = slot)).all fun e => !e.held && e.isCut

/-- Where the image of a launch on a core goes: its guest-physical address and its memory (R315). -/
def State.imagePlace (s : State) (l : Launch) (core : Nat) : Option (Nat × Nat) :=
  ((s.chair l.chair).imageArea l.ctx core).bind fun a => (s.imageKey l.chair a).map fun k => (a, k)

/-- What is kept of the save image of one slot beside memory, its instances discarded (R365 to R369). -/
def State.saveImage (s : State) (l : Launch) (core slot : Nat) (sl : Slot) (area : Nat) : SaveImage :=
  let c := s.core core
  { launch := l.id, core := core, slot := slot, body := sl, cq := c.cq.filter (·.slot = slot),
    domains := ((List.range 8).map fun d => (d, c.domain d)).filter fun d => d.2.owner = some slot,
    arrays := (c.arrays.filter (·.slot = slot)).map fun a => { a with accs := [] },
    engs := c.engs.filter (·.slot = slot), area := area }

/-- The words of the image of a slot (R365). -/
def State.imageOf (s : State) (l : Launch) (x : SaveImage) : List (Nat × Word) :=
  imageWords x.core x.slot x.body (((s.core x.core).lq.find? (·.launch = l.id)).map fun q => rootOf l.runs q.next) x.cq
    x.domains x.arrays x.engs

/-- Eviction on one core: instances are discarded, the image is written, and the slot is vacated (R362 steps 2 and 8,
R364). Entries of its completion queue name nothing until resume; committed reservations stay in their Dressers, under
the context's own mark 4 + launch (R327). -/
def State.evictSlot (s : State) (l : Launch) (core slot : Nat) : State :=
  match s.slot? core slot with
  | none => s
  | some sl =>
    let s := sl.insts.foldl (fun s i => s.discard core slot i.age) s
    let s := s.modSlot core slot fun x => { x with grants := [], insts := [] }
    match s.slot? core slot with
    | none => s
    | some sl =>
      let (area, key) := (s.imagePlace l core).getD (0, 0)
      let image := s.saveImage l core slot sl area
      let s := s.writeImage core sl area key (s.imageOf l image)
      let s := { s with
        saves := s.saves ++ [image],
        dressers := s.dressers.map fun (d : DEntry) =>
          if d.core = core ∧ d.slot = slot then { d with slot := 4 + l.id } else d }
      let s := s.modCore core fun k =>
        { k with engs := k.engs.filter (·.slot ≠ slot),
                 cq := k.cq.map fun (e : CqEntry) => if e.slot = slot then { e with st := .free } else e }
      s.vacate core slot sl

/-- EVICTION: the whole context leaves every core that it holds, the service having reserved where its images go (R315, R361
to R364). -/
def execEviction (launch : Nat) (s : State) : Out :=
  needSome (s.launch? launch) fun l =>
    let places := s.placesOf launch
    need (l.evict && !l.aborted && !l.out
        && places.all fun p => s.evictable p.1 p.2 && (s.imagePlace l p.1).isSome) <|
      let back := (List.range s.cores.length).filterMap fun c =>
        ((s.core c).lq.find? (·.launch = launch)).map fun q => (c, q.next)
      let s := places.foldl (fun s p => s.evictSlot l p.1 p.2) s
      let s := { s with cores := s.cores.map fun (k : Core) => { k with lq := k.lq.filter (·.launch ≠ launch) } }
      .next (s.modLaunch launch fun x => { x with out := true, evict := false, back := back })

/-! ### Resume (R370) -/

/-- Whether two arrays share a station (R235). -/
def SysArray.meets (a b : SysArray) : Bool :=
  decide (a.row0 ≤ b.row0 + b.nrow) && decide (b.row0 ≤ a.row0 + a.nrow)
    && decide (a.col0 ≤ b.col0 + b.ncol) && decide (b.col0 ≤ a.col0 + a.ncol)

/-- Whether a core image may be restored: its slot is free and its units fit (R370), its memory is mapped (R315), and no
other context has taken its stations or its Palette domains (R235, R261, log entry 86). -/
def State.imageFits (s : State) (x : SaveImage) : Bool :=
  let c := s.core x.core
  (c.slot? x.slot).isNone && decide (bits x.body.lmpart.toNat 0 5 ≤ c.freeUnits.length)
    && (s.imageKey x.body.chair x.area).isSome
    && x.arrays.all (fun a => !c.arrays.any a.meets) && x.domains.all fun d => (c.domain d.1).owner.isNone

/-- Whether an image has an uncorrectable word, or fails its MAGIC, VERSION or SIZE check (R370). -/
def State.imageBad (s : State) (x : SaveImage) : Bool :=
  let lmp := bits x.body.lmpart.toNat 0 5
  let key := (s.imageKey x.body.chair x.area).getD 0
  !(s.imagePoison key (imageBytes lmp)).isEmpty || !s.imageOk key lmp

/-- The partition that an image holds in memory, brought to the units of a slot (R365, R370). -/
def State.restorePartition (s : State) (x : SaveImage) (sl : Slot) : State :=
  let key := (s.imageKey x.body.chair x.area).getD 0 + 0x20000
  let cells := s.hbm.filter fun c => decide (key ≤ c.1) && decide (c.1 < key + sl.partSize)
  s.modCore x.core fun (k : Core) =>
    { k with mem := cells.foldl (fun m c => Memory.set m (sl.localAddr (c.1 - key)) c.2) k.mem }

/-- The 256 elements of a tile read afresh at resume (R215, R246). -/
def readTile (s : State) (sl : Slot) (user : Bool) (va stride : Nat) (fmt : Fmt) : Except Fail (List Nat) :=
  let n := 2 * fmt.lane
  (List.range 16).foldr (fun i acc => match readVa s sl.chair sl.asid user ((va + i * stride) % 2 ^ 64) n, acc with
    | .error x, _ => .error x
    | .ok _, .error x => .error x
    | .ok v, .ok l => .ok ((List.range 16).map (fun j => bits v (fmt.lane * j) fmt.lane) ++ l)) (.ok [])

/-- Tiles of an array at resume: each with a memory source is read afresh and is either what it was or what was read,
freely; a read that faults gives its code (R246). -/
def restoreTiles (s : State) (sl : Slot) (user : Bool) : List WTile → State × Except Fail (List WTile)
  | [] => (s, .ok [])
  | t :: r =>
    match t.src with
    | none => let (s, x) := restoreTiles s sl user r
              (s, x.map (t :: ·))
    | some (va, stride, f) =>
      match readTile s sl user va stride f with
      | .error e => (s, .error e)
      | .ok l =>
        let (n, s) := s.draw 2
        let (s, x) := restoreTiles s sl user r
        (s, x.map ({ t with elems := if n = 0 then t.elems else l.map (convElem f t.wf) } :: ·))

/-- The tag of an event that belongs to a context as a whole: depth 0 (R25). -/
def contextTag (chair ctx : Nat) : Word := BitVec.ofNat 64 (chair * 2 ^ 58 + ctx * 2 ^ 54)

/-- An array restored, or released with the fault recorded against the context as class X (R246, R355). -/
def State.restoreArray (s : State) (core : Nat) (sl : Slot) (user : Bool) (a : SysArray) : State :=
  match restoreTiles s sl user a.tiles with
  | (s, .ok tiles) => s.modArrays core (· ++ [{ a with tiles := tiles }])
  | (s, .error x) => (s.noteUe x).modChair sl.chair fun c =>
      { c with pendingX := c.pendingX ++ [Notice.classX (contextTag sl.chair sl.ctx) x.code] }

/-- Restoring one core image (R370). -/
def State.restoreImage (s : State) (l : Launch) (x : SaveImage) : State :=
  let lmp := bits x.body.lmpart.toNat 0 5
  let units := (s.core x.core).freeUnits.take lmp
  let sl := { x.body with units := units, chestHigh := 0,
                          lmpart := BitVec.ofNat 64 (units.headD 0 * 2 ^ 8 + lmp) }
  let s := s.modCore x.core fun (k : Core) =>
    { k with slots := k.slots.set x.slot (some sl),
             cq := x.cq ++ k.cq.filter fun e => !(e.slot = x.slot && x.cq.any (·.idx = e.idx)),
             palette := x.domains.foldl (fun p d => p.set d.1 d.2) k.palette,
             engs := k.engs ++ x.engs }
  let s := x.arrays.foldl (fun s a => s.restoreArray x.core sl (!l.priv) a) (s.restorePartition x sl)
  let s := { s with dressers := s.dressers.map fun (d : DEntry) =>
    if d.core = x.core ∧ d.slot = 4 + l.id then { d with slot := x.slot } else d }
  s.loadChestRange x.core x.slot

/-- What resume consumed of the images it read (R349). -/
def State.ueImages (s : State) (l : List SaveImage) : State :=
  s.ueGlobal (l.flatMap fun x => s.imagePoison ((s.imageKey x.body.chair x.area).getD 0)
    (imageBytes (bits x.body.lmpart.toNat 0 5)))

/-- CONTEXT_RESUME: an evicted context retakes its slots and its places in the launch queues, or is aborted when an
image holds an uncorrectable word or fails a check (R315, R370). -/
def execContextResume (launch : Nat) (s : State) : Out :=
  needSome (s.launch? launch) fun l =>
    let images := s.saves.filter (·.launch = launch)
    need (l.out && images.all s.imageFits) <|
      if images.any s.imageBad then .next ((s.ueImages images).abort launch FC.uncorrectable)
      else
        let s := images.foldl (fun s x => s.restoreImage l x) s
        let s := l.back.foldl (fun s b => s.modCore b.1 fun k => { k with lq := ⟨launch, b.2⟩ :: k.lq }) s
        let s := { s with saves := s.saves.filter (·.launch ≠ launch) }
        .next (s.modLaunch launch fun x => { x with out := false, back := [] })

/-! ### Chair reset (R374) -/

/-- Every queue of a chair STOPPED (R322, R374). -/
def State.stopQueues (s : State) (chair : Nat) : State :=
  (List.range 4).foldl (fun s n => s.setQueueStatus chair n 3 none) s

/-- Responding to a request (R381). -/
def State.respond (s : State) (chair : Nat) (m : ReqMsg) (status : Nat) (data : List Byte) : State :=
  { s with responses := s.responses ++ [⟨chair, bits (m.hdr.getD 0 0).toNat 32 32, status, data⟩] }

/-- A slot torn down and released by chair reset, its completion entries free (R320, R374 step 3). -/
def State.resetSlot (s : State) (core slot : Nat) : State :=
  let s := s.abortSlot core slot true
  match s.slot? core slot with
  | none => s
  | some sl =>
    let s := s.modCore core fun k => { k with cq := k.cq.map fun (e : CqEntry) =>
      if e.slot = slot then { e with st := .free } else e }
    s.vacate core slot sl

/-- A context torn down by chair reset: slots are released at once (R360 steps 1 to 3 and 5, R374 step 3). -/
def State.resetLaunch (s : State) (l : Launch) : State :=
  let s := s.modLaunch l.id fun x => { x with aborted := true, status := FC.serviceAbort, out := false }
  let s := { s with
    saves := s.saves.filter (·.launch ≠ l.id),
    cores := s.cores.map fun (k : Core) => { k with lq := k.lq.filter (·.launch ≠ l.id) },
    chairs := s.chairs.modify l.chair fun (c : Chair) =>
      { c with pendingX := c.pendingX ++ [Notice.abort l.ctx FC.serviceAbort] } }
  let s := (s.placesOf l.id).foldl (fun s p => s.resetSlot p.1 p.2) s
  s.finishLaunch l.id

/-- The control block and tables of a chair after its reset: the block at its reset values but for EN, the binding
table empty, launch-table entries free (R299, R320, R322, R374). The service writes the block again by its own acts. -/
def Chair.afterReset (c : Chair) : Chair :=
  { Chair.reset with
    chctl := BitVec.ofNat 64 (0x100 + bnat c.en * 2 ^ 16),
    lt := c.lt.map fun e => { e with st := .free }, pendingX := c.pendingX, area := c.area }

/-- CHAIR_RESET: the steps of R374, at whose end RST clears, and STOPPED where EN is 1 (R379). -/
def execChairReset (chair : Nat) (s : State) : Out :=
  need (decide (chair < s.chairs.length)) <|
    let s := s.stopQueues chair
    let s := (s.chair chair).reqs.foldl (fun s m => s.respond chair m 1 []) s
    let s := { s with arb := s.arb.filter (·.chair ≠ chair) }
    let s := (s.contexts chair).foldl (fun s l => s.resetLaunch l) s
    let s := { s with
      dressers := s.dressers.filter (·.chair ≠ chair), frontiers := s.frontiers.filter (·.chair ≠ chair),
      cores := s.cores.map fun (k : Core) =>
        { k with code := k.code.filter (·.chair ≠ chair), tlb := k.tlb.filter (·.chair ≠ chair),
                 ranges := k.ranges.filter (·.chair ≠ chair), roots := k.roots.filter (·.1 ≠ chair) } }
    let s := if (s.chair chair).en then (List.range 4).foldl (fun s n => s.setQueueStatus chair n 0 none) s else s
    .next (s.modChair chair Chair.afterReset)

end Sys2Proof.Machine
end

