-- ==== Sys2Proof/Machine/Bureau.lean ====
section
/-! DEFINITION. The Bureau and the resident service: writes to a chair's control block, counters, command queues,
requests, notices, tables and second-stage entries (R70, R293, R299, R300, R311, R312, R322, R323, R326, R332, R338 to
R344, R350, R352, R372 to R382). -/

namespace Sys2Proof.Machine

/-! ### The control block (R299, R300) -/

/-- RST of a chair (R299). -/
def Chair.rst (c : Chair) : Bool := bit c.chctl.toNat 31

/-- `n` bits of `w` from `lo`, replaced by those of `v`. -/
def putField (w lo n v : Nat) : Nat := w / 2 ^ (lo + n) * 2 ^ (lo + n) + v % 2 ^ n * 2 ^ lo + w % 2 ^ lo

/-- The bits of a word at and above `lo`, below `hi`. -/
def keepBits (v lo hi : Nat) : Nat := v % 2 ^ hi / 2 ^ lo * 2 ^ lo

/-- Whether the life-cycle state allows chairs (R389). -/
def LifeCycle.chairs : LifeCycle → Bool
  | .deployed | .manufacture => true
  | _ => false

/-- CHAIR_ENABLE_WRITE: EN; with EN = 0 the queues stand STOPPED, with EN = 1 STOPPED clears (R300, R322, R379). -/
def execChairEnableWrite (chair : Nat) (en : Bool) (s : State) : Out :=
  need (decide (chair < s.chairs.length) && (!en || LifeCycle.chairs s.lcs)) <|
    let s := s.modChair chair fun c => { c with chctl := BitVec.ofNat 64 (putField c.chctl.toNat 16 1 (bnat en)) }
    if !en then .next (s.stopQueues chair)
    else if (s.chair chair).rst then .next s
    else .next ((List.range 4).foldl (fun s n => match (s.chair chair).queue? n with
      | none => s
      | some (base, _) => match stage2 s chair (base + 16) with
        | .ok (key, _) => if (s.hbm.get key).toNat = 3 then s.setQueueStatus chair n 0 none else s
        | .error _ => s) s)

/-- CTXPRI clamped to a PRIMAX (R293). -/
def Slot.clampPri (sl : Slot) (primax : Nat) : Slot := { sl with ctxpri := BitVec.ofNat 64 (min sl.pri primax) }

/-- PRIMAX_WRITE: every CTXPRI of the chair above it is set to it (R293). -/
def execPrimaxWrite (chair : Nat) (primax : BitVec 3) (s : State) : Out :=
  need (decide (chair < s.chairs.length)) <|
    let s := s.modChair chair fun c => { c with chctl := BitVec.ofNat 64 (putField c.chctl.toNat 0 3 primax.toNat) }
    let clamp (sl : Slot) : Slot := if sl.chair = chair then sl.clampPri primax.toNat else sl
    .next { s with
      cores := s.cores.map fun (k : Core) => { k with slots := k.slots.map fun o => o.map clamp },
      saves := s.saves.map fun (x : SaveImage) => { x with body := clamp x.body } }

/-- Setting bit `n` of a bitmap in the carve-out (R340). -/
def State.setBitmap (s : State) (base n : Nat) (on : Bool) : State :=
  let b := (s.hbm.get (base + n / 8)).toNat
  { s with hbm := s.hbm.set (base + n / 8) (BitVec.ofNat 8 (putField b (n % 8) 1 (bnat on))) }

/-- GRANT_WRITE: a probe, steering or policy grant (R300, R340). -/
def execGrantWrite (chair : Nat) (kind : GrantKind) (on : Bool) (s : State) : Out :=
  need (decide (chair < s.chairs.length)) <|
    let c := s.chair chair
    match kind with
    | .probe n => need (decide (n < 4096)) (.next (s.setBitmap c.chprb.toNat n on))
    | .policy n => need (decide (n < 256)) (.next (s.setBitmap c.chpol.toNat n on))
    | .steer => .next (s.modChair chair fun c => { c with chgrant := BitVec.ofNat 64 (bnat on) })

/-- A store by the Bureau to a guest-physical address of a chair, where it is mapped for writes. -/
def gpaStore (s : State) (chair gpa n v : Nat) : Except Fail State :=
  match gpaPlace s chair gpa with
  | .error e => .error e
  | .ok key => .ok (s.storeGlobal chair gpa key n v)

/-- A read by the Bureau at a guest-physical address of a chair: the value, or its failure (R316, R331). -/
def gpaLoad (s : State) (chair gpa n : Nat) : Except Fail Nat :=
  match stage2 s chair gpa with
  | .error e => .error e.fail
  | .ok (key, p) =>
    if !p.rd then .error (.of FC.protection)
    else if s.poisoned key n then .error ⟨FC.uncorrectable, s.poisonWords key n, [], []⟩
    else .ok (s.hbm.read key n)

/-- A store whose fault is passed over. -/
def State.gpaTry (s : State) (chair gpa n v : Nat) : State := match gpaStore s chair gpa n v with | .ok s => s | .error _ => s

/-- CHCQ_WRITE: queue `n` is placed or removed; a placed queue begins with TAIL and HEAD 0 (R322, R347). -/
def execChcqWrite (chair n : Nat) (v : BitVec 64) (s : State) : Out :=
  need (decide (chair < s.chairs.length) && decide (n < 4)) <|
    let w := keepBits v.toNat 12 52 + v.toNat % 32
    let s := s.modChair chair fun c =>
      { c with chcq := c.chcq.set n (BitVec.ofNat 64 w), qs := c.qs.set n .reset }
    match (s.chair chair).queue? n with
    | none => .next s
    | some (base, _) =>
      let s := (s.gpaTry chair base 8 0).gpaTry chair (base + 8) 8 0
      .next (s.gpaTry chair (base + 16) 8 (if (s.chair chair).en && !(s.chair chair).rst then 0 else 3))

/-- A ring of a chair as placed: PI, CI and OVF are 0 (R324, R347). -/
def State.placeRing (s : State) (desc : Nat) : State :=
  match ringOf (BitVec.ofNat 64 desc) with
  | none => s
  | some (base, _) => ((s.hpaWrite base 8 0).hpaWrite (base + 8) 8 0).hpaWrite (base + 16) 8 0

/-- SERVICE_REGISTER_WRITE: a field of the control block with no behaviour of its own; NCTX; and RST, whose write stops
the queues and leaves the reset to CHAIR_RESET (R299, R374). -/
def execServiceRegisterWrite (chair off : Nat) (v : BitVec 64) (s : State) : Out :=
  need (decide (chair < s.chairs.length)) <|
    let w := v.toNat
    let set (f : Chair → Word → Chair) (x : Nat) : Out := .next (s.modChair chair fun c => f c (BitVec.ofNat 64 x))
    match off with
    | 0x000 =>
      let c := s.chair chair
      let nctx := if 1 ≤ bits w 4 5 ∧ bits w 4 5 ≤ 16 then bits w 4 5 else c.nctx
      let x := putField c.chctl.toNat 4 5 nctx
      let s' := s.modChair chair fun c => { c with chctl := BitVec.ofNat 64 (if bit w 31 then putField x 31 1 1 else x) }
      if bit w 31 ∧ !c.rst then .next (s'.stopQueues chair) else .next s'
    | 0x008 => set (fun c x => { c with chs2 := x }) (keepBits w 12 52 + w % 2)
    | 0x010 => set (fun c x => { c with chseqb := x }) (keepBits w 12 52)
    | 0x018 => set (fun c x => { c with chseqn := x }) (min (w % 2 ^ 21) (2 ^ 20))
    | 0x028 => set (fun c x => { c with chprb := x }) w
    | 0x030 => set (fun c x => { c with chpol := x }) w
    | 0x038 => .next ((s.modChair chair fun c =>
        { c with chtq := BitVec.ofNat 64 (keepBits w 12 64 + w % 16), trapSent := false }).placeRing w)
    | 0x040 => .next ((s.modChair chair fun c => { c with chfq := BitVec.ofNat 64 (keepBits w 12 64 + w % 16) }).placeRing w)
    | 0x048 => set (fun c x => { c with chstop := x }) (keepBits w 14 52 + w % 2)
    | o => need (decide (0x100 ≤ o) && decide (o < 0x180) && decide (o % 8 = 0)) <|
        set (fun c x => { c with chasid := c.chasid.set ((o - 0x100) / 8) x }) (w % 2 ^ 17)

/-! ### Counters (R350, R352) -/

/-- A service write to an error record. -/
def ErrRec.write (e : ErrRec) (f : ErrField) (v : Nat) : ErrRec :=
  match f with
  | .ce => { e with ce := 0 }
  | .ue => { e with ue := 0 }
  | .de => { e with de := 0 }
  | .cethr => { e with cethr := v }
  | .alert => { e with alert := false }

/-- ERROR_COUNTER_WRITE: counter fields and ALERT are cleared whatever is written; CETHR takes the value (R350). -/
def execErrorCounterWrite (u : ErrUnit) (f : ErrField) (v : BitVec 16) (s : State) : Out :=
  let w (e : ErrRec) : ErrRec := e.write f v.toNat
  match u with
  | .coreLocal c => need (decide (c < s.cores.length)) (.next (s.modErr c 0 w))
  | .coreCabinet c => need (decide (c < s.cores.length)) (.next (s.modErr c 1 w))
  | .coreCode c => need (decide (c < s.cores.length)) (.next (s.modErr c 2 w))
  | .slice k => need (decide (k < 128)) (.next { s with sliceErrs := s.sliceErrs.modify k w })
  | .stack m => need (decide (m < 8)) (.next { s with stackErrs := s.stackErrs.modify m w })

/-- PERF_COUNTER_WRITE: PMCTLi or PMCNTi (R352). -/
def execPerfCounterWrite (core i : Nat) (cnt : Bool) (v : BitVec 64) (s : State) : Out :=
  need (decide (core < s.cores.length) && decide (i < 4)) <|
    .next (s.modCore core fun k => { k with perf := k.perf.modify i fun p =>
      if cnt then { p with cnt := BitVec.ofNat 64 (v.toNat % 2 ^ 49) } else { p with ctl := BitVec.ofNat 64 (v.toNat % 2 ^ 16) } })

/-! ### Command queues (R322, R323, R376 to R379) -/

/-- A doubleword of an entry. -/
def entryDw (e : List Word) (i : Nat) : Nat := (e.getD i 0).toNat

/-- KIND of an entry. -/
def entryKind (e : List Word) : Nat := entryDw e 0 % 256

/-- Whether the doublewords of an entry from `i` on are zero. -/
def zeroFrom (e : List Word) (i : Nat) : Bool := (List.range 8).all fun j => decide (j < i) || decide (entryDw e j = 0)

/-- The checks of R323 and R378 that an entry meets when it is read, at index `pos` of a queue of `n` entries. -/
def entryOk (e : List Word) (n pos : Nat) : Bool :=
  let d := entryDw e
  decide (d 0 < 256) && match d 0 with
    | 0x01 => decide (d 1 % 64 = 0) && decide (d 2 % 8 = 0) && zeroFrom e 3
    | 0x02 => decide (d 1 % 64 = 0) && decide (d 2 % 8 = 0) && decide (d 3 % 4 = 0) && zeroFrom e 4
    | 0x03 => zeroFrom e 2
    | 0x04 => decide (d 1 % 8 = 0) && zeroFrom e 3
    | 0x05 =>
      let back := bits (d 1) 32 16
      decide (d 1 < 2 ^ 48) && decide (1 ≤ back) && decide (back < n) && decide (back ≤ pos) && zeroFrom e 2
    | 0x06 => decide (d 1 % 8 = 0) && decide (d 2 < 2 ^ 16) && zeroFrom e 3
    | 0x07 => zeroFrom e 1
    | _ => false

/-- The queue `n` of a chair. -/
def Chair.cmdq (c : Chair) (n : Nat) : CmdQ := c.qs.getD n .reset

/-- Changing queue `n` of a chair. -/
def State.modQ (s : State) (chair n : Nat) (f : CmdQ → CmdQ) : State := s.modChair chair fun c => { c with qs := c.qs.modify n f }

/-- TAIL − HEAD of a running queue (R322, R348); none while it stands. -/
def State.queueFill (s : State) (chair n : Nat) : Option Nat :=
  let c := s.chair chair
  match c.queue? n with
  | none => none
  | some (base, _) =>
    match gpaLoad s chair base 8, gpaLoad s chair (base + 16) 8 with
    | .ok tail, .ok st => if c.en && !c.rst && st % 256 = 0 then some ((tail + 2 ^ 64 - (c.cmdq n).pos) % 2 ^ 64) else none
    | _, _ => none

/-- The entry that the Bureau has before it in queue `n`, and whether it has been read: a copy, or the ring's (R376). -/
def State.queueEntry (s : State) (chair n : Nat) : Option (List Word × Bool) :=
  let q := (s.chair chair).cmdq n
  match (s.chair chair).queue? n, s.queueFill chair n with
  | some (base, lg), some fill =>
    match q.copies.find? (·.1 = q.pos) with
    | some e => some (e.2, true)
    | none =>
      if fill = 0 ∨ 2 ^ lg < fill then none
      else match gpaLoad s chair (base + 64 + 64 * (q.pos % 2 ^ lg)) 64 with
        | .ok v => some (dwsOf v 8, false)
        | .error _ => none
  | _, _ => none

/-- Reading an entry: the copy is kept, N of them, and HEAD is stored past it (R322, R376). -/
def State.readEntry (s : State) (chair n : Nat) (e : List Word) : State :=
  match (s.chair chair).queue? n with
  | none => s
  | some (base, lg) =>
    let pos := ((s.chair chair).cmdq n).pos
    let s := s.modQ chair n fun q => { q with copies := ((pos, e) :: q.copies).take (2 ^ lg) }
    s.gpaTry chair (base + 8) 8 ((pos + 1) % 2 ^ 64)

/-- The queue moves past the entry before it. -/
def State.passEntry (s : State) (chair n : Nat) : State := s.modQ chair n fun q => { q with pos := (q.pos + 1) % 2 ^ 64 }

/-- BAD_ENTRY with a KIND; HEAD stays at an entry that was only now read (R322). -/
def State.badEntry (s : State) (chair n kind : Nat) : State :=
  let q := (s.chair chair).cmdq n
  let s := match (s.chair chair).queue? n, q.copies with
    | some (base, _), (p, _) :: r =>
      if p = q.pos then (s.modQ chair n fun q => { q with copies := r }).gpaTry chair (base + 8) 8 q.pos else s
    | _, _ => s
  s.setQueueStatus chair n 2 (some kind)

/-- Interpreting an entry of some kinds: one that an IF skips is consumed as it is written; any other is checked, a copy that
a LOOP repeats as well, and sets BAD_ENTRY or is read; then `body` acts (R323, R377). -/
def entryAct (s : State) (q : QueueId) (kinds : Nat → Bool) (body : Nat → Nat → List Word → Out) : Out :=
  match q with
  | .service => .fault .notEnabled
  | .chair chair n =>
    needSome (s.queueEntry chair n) fun x => need (kinds (entryKind x.1)) <|
      let c := (s.chair chair).cmdq n
      let lg := match (s.chair chair).queue? n with | some r => r.2 | none => 0
      if 0 < c.skip then
        .next (((if x.2 then s else s.readEntry chair n x.1).passEntry chair n).modQ chair n fun q => { q with skip := q.skip - 1 })
      else if !entryOk x.1 (2 ^ lg) c.pos then .next (s.badEntry chair n (entryKind x.1))
      else if !x.2 then .next (s.readEntry chair n x.1)
      else body chair n x.1

/-- What stops the handle of a launch from being stored where its entry says (R377, R385). -/
def handleFail (s : State) (chair store : Nat) : Option Fail :=
  if store = 0 then none else match gpaPlace s chair store with | .ok _ => none | .error x => some x

/-- A packet with ROOTS as LAUNCH_INDIRECT reads it; a value above 2^24 − 1 is refused as 0 is (R377). -/
def withRoots (p : List Word) : Option Nat → List Word
  | none => p
  | some r => p.set 2 (BitVec.ofNat 64 (putField (pkDw p 2) 0 24 (if r < 2 ^ 24 then r else 0)))

/-- Offering the packet of a LAUNCH or LAUNCH_INDIRECT to the arbiter, with the map and the after list read together with it
(R317, R345, R377). -/
def offerPacket (s : State) (chair n : Nat) (e : List Word) (roots : Option Nat) : Out :=
  need (!((s.chair chair).cmdq n).offered && decide (s.arb.length < 256)) <|
    match gpaLoad s chair (entryDw e 1) 64, handleFail s chair (entryDw e 2) with
    | .error x, _ => .next ((s.noteUe x).badEntry chair n (entryKind e))
    | .ok _, some x => .next ((s.noteUe x).badEntry chair n (entryKind e))
    | .ok v, none =>
      let a := readPacket s chair (withRoots (dwsOf v 8) roots) (.table n 0 0 (entryDw e 2))
      .next (({ s with arb := s.arb ++ [a] } : State).modQ chair n fun q => { q with offered := true })

/-- What stops the handle of a packet at the arbiter from being stored, with the queue that offered it (R377). -/
def ArbEntry.storeFail (e : ArbEntry) (s : State) : Option (Nat × Fail) :=
  match e.src with
  | .table n _ _ store => (handleFail s e.chair store).map fun x => (n, x)
  | _ => none

/-- A packet whose handle cannot be stored leaves the arbiter, and its entry sets BAD_ENTRY (R377). -/
def State.dropPacket (s : State) (chair n : Nat) (e : ArbEntry) : State :=
  let q := (s.chair chair).cmdq n
  let kind := match q.copies.find? (·.1 = q.pos) with | some c => entryKind c.2 | none => 0x01
  (({ s with arb := s.arb.erase e } : State).modQ chair n fun q => { q with offered := false }).badEntry chair n kind

/-- LAUNCH_ACCEPTANCE: the oldest packet of a chair at the arbiter is refused or accepted, the launch table having room, and
its handle stored (R19, R317, R320, R377). -/
def execLaunchAcceptance (chair : Nat) (s : State) : Out :=
  needSome (s.arb.find? (·.chair = chair)) fun e =>
    need (s.tableRoom chair e.src) <|
      match judge s e, e.storeFail s with
      | .wait, _ => .fault .notEnabled
      | _, some (n, x) => .next ((s.noteUe x).dropPacket chair n e)
      | .refuse x, none => .next (s.refuseLaunch chair e x)
      | .accept runs, none => needSome (s.freeCtx chair) fun ctx => .next (s.acceptLaunch chair e ctx runs)

/-- CMD_LAUNCH (R377). -/
def execCmdLaunch (q : QueueId) (s : State) : Out :=
  entryAct s q (· == 0x01) fun chair n e => offerPacket s chair n e none

/-- LAUNCH_INDIRECT: ROOTS comes from memory (R377). -/
def execLaunchIndirect (q : QueueId) (s : State) : Out :=
  entryAct s q (· == 0x02) fun chair n e =>
    match gpaLoad s chair (entryDw e 3) 4 with
    | .error x => .next ((s.noteUe x).badEntry chair n 0x02)
    | .ok r => offerPacket s chair n e (some r)

/-- CMD_WAIT: the queue goes on once the handle has completed or names nothing; a launch-table entry is then freed
(R320, R377). -/
def execCmdWait (q : QueueId) (s : State) : Out :=
  entryAct s q (· == 0x03) fun chair n e =>
    let h := entryDw e 1
    match s.handleState chair h with
    | some none => .fault .notEnabled
    | none => .next (s.passEntry chair n)
    | some (some _) => .next ((if bits h 56 2 = 1 then s.readHandle chair h else s).passEntry chair n)

/-- SIGNAL (R377). -/
def execSignal (q : QueueId) (s : State) : Out :=
  entryAct s q (· == 0x04) fun chair n e =>
    match gpaStore s chair (entryDw e 1) 8 (entryDw e 2) with
    | .error x => .next ((s.noteUe x).badEntry chair n 0x04)
    | .ok s => .next (s.passEntry chair n)

/-- Whether a LOOP at `pos` that goes back `d` entries begins at or before an IF whose skipped range covers it (R378). -/
def loopAcrossIf (q : CmdQ) (pos d : Nat) : Bool :=
  q.copies.any fun c => entryKind c.2 == 0x06 && decide (pos - d ≤ c.1) && decide (c.1 < pos)
    && decide (pos ≤ c.1 + entryDw c.2 2)

/-- LOOP (R378). -/
def execLoopE (q : QueueId) (s : State) : Out :=
  entryAct s q (· == 0x05) fun chair n e =>
    let c := (s.chair chair).cmdq n
    let d := bits (entryDw e 1) 32 16
    if loopAcrossIf c c.pos d then .next (s.badEntry chair n 0x05)
    else
      let count := match c.loops.find? (·.1 = c.pos) with | some l => l.2 | none => entryDw e 1 % 2 ^ 32
      let rest := c.loops.filter (·.1 ≠ c.pos)
      if count = 0 then .next ((s.modQ chair n fun q => { q with loops := rest }).passEntry chair n)
      else .next (s.modQ chair n fun q => { q with loops := (c.pos, count - 1) :: rest, pos := c.pos - d })

/-- IF (R377). -/
def execIfE (q : QueueId) (s : State) : Out :=
  entryAct s q (· == 0x06) fun chair n e =>
    match gpaLoad s chair (entryDw e 1) 8 with
    | .error x => .next ((s.noteUe x).badEntry chair n 0x06)
    | .ok v => .next ((s.passEntry chair n).modQ chair n fun q => { q with skip := if v = 0 then entryDw e 2 else 0 })

/-- BARRIER: every launch accepted from earlier entries of the queue has completed (R377). -/
def execBarrier (q : QueueId) (s : State) : Out :=
  entryAct s q (· == 0x07) fun chair n _ =>
    need (((s.chair chair).cmdq n).launched.all fun id => (s.launch? id).isNone) <|
      .next ((s.passEntry chair n).modQ chair n fun q => { q with launched := [] })

/-- COMMAND_QUEUE_OVERFLOW: TAIL − HEAD above N (R322). -/
def execCommandQueueOverflow (q : QueueId) (s : State) : Out :=
  match q with
  | .service => .fault .notEnabled
  | .chair chair n =>
    needSome ((s.chair chair).queue? n) fun r => needSome (s.queueFill chair n) fun fill =>
      let c := (s.chair chair).cmdq n
      need (!c.copies.any (·.1 = c.pos) && decide (2 ^ r.2 < fill)) <| .next (s.setQueueStatus chair n 1 none)

/-- BAD_ENTRY: a KIND of 0x00 or 0x09 to 0xFF; in the service's own queue, any but TABLE_UPDATE (R323, R342). -/
def execBadEntry (q : QueueId) (s : State) : Out :=
  match q with
  | .service => needSome s.svcQueue.head? fun e => need (decide (s.svcStatus = 0) && entryKind e != 0x08) <|
      .next { s with svcStatus := 2, svcBadk := entryKind e }
  | q => entryAct s q (fun k => k == 0 || decide (9 ≤ k)) fun _ _ _ => .fault .notEnabled

/-! ### Tables (R338 to R344) -/

/-- Whether `n` bytes at an address lie in the carve-out (R311). -/
def inCarve (a n : Nat) : Bool := decide (0x9E00000000 ≤ a) && decide (a + n ≤ 0xA000000000)

/-- Poison met in `n` bytes of the carve-out is a machine check to the service (R316, R350, R393). -/
def State.noteBytes (s : State) (a n : Nat) : State := s.noteCarve (s.poisonWords a n)

/-- The number of elements of a probe or steering entry, and their bytes. -/
def TabEntry.size (e : TabEntry) : Nat := (e.field 1 0 15 + 1) * (if e.field 1 16 1 = 1 then 2 else 4)

/-- The elements of an entry's vector, copied from the carve-out. -/
def copyVector (s : State) (e : TabEntry) : TabEntry :=
  let w := if e.field 1 16 1 = 1 then 2 else 4
  { e with data := (List.range (e.field 1 0 15 + 1)).map fun i => s.hbm.read (e.field 2 0 64 + w * i) w }

/-- The checks of a valid probe or steering image (R338, R339, R342). -/
def vectorOk (steer : Bool) (others : List TabEntry) (e : TabEntry) : Bool :=
  decide (e.field 1 49 15 = 0) && decide (e.field 1 15 1 = 0) && decide (e.field 3 0 64 = 0)
    && (if steer then decide (e.field 1 17 31 = 0) else decide (e.field 1 18 30 = 0))
    && decide (e.field 2 0 64 % 64 = 0) && inCarve (e.field 2 0 64) e.size
    && decide ((others.map TabEntry.size).foldl (· + ·) 0 + e.size ≤ 0x20000000)
    && !(steer && others.any fun o => decide (o.field 0 32 32 = e.field 0 32 32))

/-- The checks of a valid policy image (R341, R342). -/
def policyOk (e : TabEntry) : Bool :=
  let v (d lo : Nat) : EV := fp32 (e.field d lo 32)
  let finite (x : EV) : Bool := match x with | .rat _ _ _ => true | _ => false
  let le (x y : EV) : Bool := match x.cmp y with | some .gt => false | some _ => true | none => false
  decide (e.field 0 63 1 = 0) && finite (v 0 32)
    && EV.lt .zero (v 0 0) && le (v 0 0) .one
    && le .zero (v 1 32) && le (v 1 32) .one
    && (decide (e.field 3 62 1 = 0) || (finite (v 1 0) && le .one (v 1 0)))
    && finite (v 2 32) && finite (v 2 0)
    && decide (e.field 3 51 11 ≤ 1024) && decide (e.field 3 40 11 = 0) && decide (e.field 3 0 3 = 0)
    && (decide (e.field 3 3 37 = 0) || inCarve (e.field 3 3 37 * 8) 0x8000)

/-- A table with entry `idx` replaced, emptied when the image has V = 0; rising by index. -/
def replaceEntry (t : List TabEntry) (e : TabEntry) (valid : Bool) : List TabEntry :=
  t.filter (·.idx < e.idx) ++ (if valid then [e] else []) ++ t.filter (e.idx < ·.idx)

/-- TABLE_UPDATE: in the service's queue, one entry replaced in one step, or refused; in a chair's queue, BAD_ENTRY
(R323, R342, R343). -/
def execTableUpdate (q : QueueId) (s : State) : Out :=
  match q with
  | .service => needSome s.svcQueue.head? fun e => need (decide (s.svcStatus = 0) && entryKind e == 0x08) <|
      let d := entryDw e
      let table := d 1 % 256
      let idx := bits (d 1) 16 16
      let refuse (s : State) : Out := .next { s with svcStatus := 2, svcBadk := 0x08 }
      let passed (s : State) : State := { s with svcQueue := s.svcQueue.tail }
      if d 0 ≠ 0x08 ∨ bits (d 1) 8 8 ≠ 0 ∨ bits (d 1) 32 32 ≠ 0 ∨ !zeroFrom e 3 ∨ d 2 % 32 ≠ 0 ∨ !inCarve (d 2) 32 then refuse s
      else
        let s := s.noteBytes (d 2) 32
        let new : TabEntry := ⟨idx, dwsOf (s.hbm.read (d 2) 32) 4, []⟩
        match table with
        | 1 =>
          let others := s.probes.filter (·.idx ≠ idx)
          if 4096 ≤ idx then refuse s
          else if !new.valid then .next { passed s with probes := replaceEntry s.probes new false }
          else if !vectorOk false others new then refuse s
          else .next { (passed s).noteBytes (new.field 2 0 64) new.size with probes := replaceEntry s.probes (copyVector s new) true }
        | 2 =>
          let others := s.steers.filter (·.idx ≠ idx)
          if !new.valid then .next { passed s with steers := replaceEntry s.steers new false }
          else if !vectorOk true others new then refuse s
          else .next { (passed s).noteBytes (new.field 2 0 64) new.size with steers := replaceEntry s.steers (copyVector s new) true }
        | 3 =>
          if 256 ≤ idx then refuse s
          else if new.field 3 63 1 = 0 then .next { passed s with policies := replaceEntry s.policies new false }
          else if !policyOk new then refuse s
          else .next { passed s with policies := replaceEntry s.policies new true }
        | _ => refuse s
  | q => entryAct s q (· == 0x08) fun _ _ _ => .fault .notEnabled

/-! ### Requests (R380 to R382) -/

/-- A doubleword of a request's header. -/
def ReqMsg.dw (m : ReqMsg) (i : Nat) : Nat := (m.hdr.getD i 0).toNat

/-- KIND of a request. -/
def ReqMsg.kind (m : ReqMsg) : Nat := m.dw 0 % 256

/-- LEN of a request. -/
def ReqMsg.len (m : ReqMsg) : Nat := m.dw 2 % 2 ^ 32

/-- A payload as one little-endian value. -/
def bytesVal : List Byte → Nat
  | [] => 0
  | b :: r => b.toNat + 256 * bytesVal r

/-- Whether a request is refused with no effect (R381). -/
def ReqMsg.refused (m : ReqMsg) (c : Chair) : Bool :=
  let queue := (c.queue? (m.dw 1)).isNone
  decide (m.kind = 0) || decide (5 < m.kind) || decide (bits (m.dw 0) 12 20 ≠ 0) || decide (m.dw 2 / 2 ^ 32 ≠ 0)
    || decide (m.dw 3 ≠ 0) || decide (2 ^ 20 < m.len) || (decide (m.kind = 1) && decide (m.payload.length ≠ m.len))
    || (decide (m.kind = 3) && (decide (m.payload.length < 8) || queue)) || (decide (m.kind = 5) && queue)

/-- A request that arrives at a chair's endpoint: refused while EN is 0, STOPPED during a reset, else queued where there
is room (R374, R380, R382). -/
def arriveRequest (chair : Nat) (m : ReqMsg) (s : State) : Out :=
  let c := s.chair chair
  if c.rst then .next (s.respond chair m 1 [])
  else if !c.en then .next (s.respond chair m 2 [])
  else need (decide (c.reqs.length < 256)) <| .next (s.modChair chair fun c => { c with reqs := c.reqs ++ [m] })

/-- Whether request `n` of a chair may apply: over ROD only after every earlier one of ROD, over RUD in any order (R382). -/
def Chair.reqTurn (c : Chair) (n : Nat) (m : ReqMsg) : Bool := m.rud || (c.reqs.take n).all (·.rud)

/-- Request `n` of a chair, of a kind, taken up in its turn and not refused. -/
def reqAct (s : State) (chair n kind : Nat) (body : State → ReqMsg → Out) : Out :=
  let c := s.chair chair
  needSome (c.reqs[n]?) fun m => need (m.kind == kind && c.reqTurn n m && !m.refused c && c.en && !c.rst) <|
    body (s.modChair chair fun c => { c with reqs := c.reqs.eraseIdx n }) m

/-- The ASID that a WRITE or READ names, where its entry is valid (R381). -/
def ReqMsg.asid? (m : ReqMsg) (c : Chair) : Option Nat :=
  let e := (c.chasid.getD (bits (m.dw 0) 8 4) 0).toNat
  if bit e 16 then some (e % 2 ^ 16) else none

/-- REQ_WRITE (R381). -/
def execReqWrite (chair n : Nat) (s : State) : Out :=
  reqAct s chair n 1 fun s m =>
    match m.asid? (s.chair chair) with
    | none => .next (s.respond chair m FC.protection [])
    | some asid =>
      match writeVa s chair asid false (m.dw 1) m.len (bytesVal m.payload) with
      | .error x => .next ((s.noteUe x).respond chair m x.code [])
      | .ok s => .next (s.respond chair m 0 [])

/-- REQ_READ (R381). -/
def execReqRead (chair n : Nat) (s : State) : Out :=
  reqAct s chair n 2 fun s m =>
    match m.asid? (s.chair chair) with
    | none => .next (s.respond chair m FC.protection [])
    | some asid =>
      match readVa s chair asid false (m.dw 1) m.len with
      | .error x => .next ((s.noteUe x).respond chair m x.code [])
      | .ok v => .next (s.respond chair m 0 ((List.range m.len).map fun i => BitVec.ofNat 8 (bits v (8 * i) 8)))

/-- DOORBELL: TAIL of a queue (R381). -/
def execDoorbell (chair n : Nat) (s : State) : Out :=
  reqAct s chair n 3 fun s m =>
    needSome ((s.chair chair).queue? (m.dw 1)) fun r =>
      match gpaStore s chair r.1 8 (bytesVal (m.payload.take 8)) with
      | .error x => .next ((s.noteUe x).respond chair m x.code [])
      | .ok s => .next (s.respond chair m 0 [])

/-- RESUME_REQUEST: the service clears OVERFLOW or BAD_ENTRY, and the Bureau goes on from HEAD (R379). -/
def execResumeRequest (chair n : Nat) (s : State) : Out :=
  reqAct s chair n 5 fun s m =>
    let q := m.dw 1
    needSome ((s.chair chair).queue? q) fun r =>
      match gpaLoad s chair (r.1 + 16) 8, gpaLoad s chair (r.1 + 8) 8 with
      | .ok st, .ok head =>
        let s := if st % 256 = 1 ∨ st % 256 = 2 then
            (s.setQueueStatus chair q 0 none).modQ chair q fun c =>
              { c with pos := head, copies := c.copies.filter (·.1 ≠ head) }
          else s
        .next (s.respond chair m 0 [])
      | .error x, _ => .next ((s.noteUe x).respond chair m x.code [])
      | _, .error x => .next ((s.noteUe x).respond chair m x.code [])

/-- REQUEST_REFUSED: a malformed request, or one whose chair no longer takes requests (R381). -/
def execRequestRefused (chair n : Nat) (s : State) : Out :=
  let c := s.chair chair
  needSome (c.reqs[n]?) fun m => need (m.refused c || !c.en || c.rst) <|
    .next ((s.modChair chair fun c => { c with reqs := c.reqs.eraseIdx n }).respond chair m (if c.rst then 1 else 2) [])

/-! ### Notices (R326, R355, R382) -/

/-- Whether a notice is of class X (R355). -/
def Notice.isX : Notice → Bool
  | .classX _ _ => true
  | _ => false

/-- The record at the head of a chair's trap queue: where its ring and it lie, and what it holds (R326). -/
def State.trapHead (s : State) (c : Chair) : Option (Nat × Nat × List Word) :=
  match ringOf c.chtq with
  | none => none
  | some (base, n) =>
    let at_ := base + 64 + 32 * (s.hbm.read (base + 8) 8 % 2 ^ n)
    if s.ringUsed base = 0 then none else some (base, at_, dwsOf (s.hbm.read at_ 32) 4)

/-- The notice, other than of a trap, that goes next (R382). -/
def Chair.nextNotice (c : Chair) : Option Notice := (c.pendingX.find? Notice.isX).or c.pendingX.head?

/-- NOTICE_SEND: trap records in queue order, then class X notices, then abort notices (R382). -/
def execNoticeSend (chair : Nat) (s : State) : Out :=
  let c := s.chair chair
  match s.trapHead c with
  | some r =>
    need (!c.trapSent) <|
      .next ({ (s.noteRing r.1).noteBytes r.2.1 32 with notices := s.notices ++ [(chair, Notice.trap r.2.2)] }.modChair chair fun c =>
        { c with trapSent := true })
  | none =>
    needSome c.nextNotice fun x =>
      .next ({ s with notices := s.notices ++ [(chair, x)] }.modChair chair fun c => { c with pendingX := c.pendingX.erase x })

/-- NOTICE_ACK: the trap record leaves the chair's queue (R326). -/
def execNoticeAck (chair : Nat) (s : State) : Out :=
  let c := s.chair chair
  needSome (ringOf c.chtq) fun r => need c.trapSent <|
    .next (((s.noteRing r.1).ringPop r.1).modChair chair fun c => { c with trapSent := false })

/-- SERVICE_TRAP_QUEUE_CONSUME (R326). -/
def execServiceTrapQueueConsume (s : State) : Out :=
  need (!s.svcTrap.isEmpty) <| .next { s with svcTrap := s.svcTrap.tail, svcCi := (s.svcCi + 1) % 2 ^ 64 }

/-! ### Records and second-stage tables -/

/-- HOLD_CLEAR: the service clears HOLD of a record at its home (R70, R314). -/
def execHoldClear (chair seq : Nat) (s : State) : Out :=
  need (decide (seq < (s.chair chair).seqCount)) <|
    match stage2 s chair ((s.chair chair).seqAddr seq) with
    | .error _ => .fault .notEnabled
    | .ok (key, _) => .next { s with hbm := s.hbm.set (key + 8) (s.hbm.get (key + 8) &&& 0xFD) }

/-- Valid entries among some tables of the carve-out, at most `n` in each: where each lies, and what it holds. -/
def tableEntries (s : State) (tables : List Nat) (n : Nat) : List (Nat × Nat) :=
  s.hbm.filterMap fun c =>
    if decide (c.1 % 8 = 0) && c.2.getLsbD 0 && tables.contains (c.1 / 4096 * 4096) && decide (c.1 % 4096 < 8 * n) then
      some (c.1, s.hbm.read c.1 8)
    else none

/-- The tables that entries point to. -/
def nextTables (es : List (Nat × Nat)) : List Nat :=
  es.filterMap fun e => if bit e.2 4 then none else some (bits e.2 12 28 * 0x1000)

/-- The level-3 tables of a chair's second stage (R332). -/
def level3Tables (s : State) (chair : Nat) : List Nat :=
  let r := (s.chair chair).chs2.toNat
  let roots := if bit r 0 then [bits r 12 40 * 0x1000] else []
  nextTables (tableEntries s (nextTables (tableEntries s roots 16)) 512)

/-- Whether an entry is a leaf that names a frame of this package (R332). -/
def localLeaf (s : State) (e : Nat) : Bool :=
  bit e 0 && bit e 4 && (!bit e 63 || decide (bits e 49 9 = bits s.pkgid.toNat 0 9))

/-- The frames that a chair's second stage names, an entry left aside: the first byte and the size of each (R332). -/
def framesOf (s : State) (chair : Nat) (but : Option Nat) : List (Nat × Nat) :=
  let third := tableEntries s (level3Tables s chair) 512
  let frames (es : List (Nat × Nat)) (size : Nat) : List (Nat × Nat) := es.filterMap fun e =>
    if some e.1 ≠ but && localLeaf s e.2 then some (bits e.2 12 28 * 0x1000, size) else none
  frames third (2 ^ 30) ++ frames (tableEntries s (nextTables third) 512) (2 ^ 21)

/-- Whether a chair holds a byte of a frame, one entry left aside (R312). -/
def State.holdsFrame (s : State) (chair : Nat) (but : Option Nat) (a n : Nat) : Bool :=
  (framesOf s chair but).any fun f => decide (f.1 < a + n) && decide (a < f.1 + f.2)

/-- Whether no byte of a frame is written and no word of it is poisoned (R312). -/
def frameZero (s : State) (a n : Nat) : Bool :=
  s.hbm.all (fun c => !(decide (a ≤ c.1) && decide (c.1 < a + n)))
    && s.poison.all fun w => !(decide (a ≤ 8 * w) && decide (8 * w < a + n))

/-- Whether a frame may be handed to a chair: no other chair holds it, and it is zero unless the chair holds it already
(R312). -/
def State.mayHand (s : State) (chair hpa a n : Nat) : Bool :=
  (List.range s.chairs.length).all (fun c => decide (c = chair) || !s.holdsFrame c (some hpa) a n)
    && (s.holdsFrame chair (some hpa) a n || frameZero s a n)

/-- SECOND_STAGE_TABLE_WRITE: an entry in the carve-out; a leaf that names another frame of this package than before
names one that may be handed to the chair (R312, R332, log entry 55). -/
def execSecondStageTableWrite (chair hpa : Nat) (v : BitVec 64) (s : State) : Out :=
  need (inCarve hpa 8 && decide (hpa % 8 = 0) && decide (chair < s.chairs.length)) <|
    let w := v.toNat
    let old := s.hbm.read hpa 8
    let size := if (level3Tables s chair).contains (hpa / 4096 * 4096) then 2 ^ 30 else 2 ^ 21
    let same := localLeaf s old && decide (bits old 12 28 = bits w 12 28)
    need (!localLeaf s w || same || s.mayHand chair hpa (bits w 12 28 * 0x1000) size) <| .next (s.hpaWrite hpa 8 w)

/-- Whether a memory key lies in the 2 MiB from an address on. -/
def inFrame (a : Nat) (x : Option (Nat × Nat)) : Bool :=
  match x with | some (_, key) => decide (a ≤ key) && decide (key < a + 2 ^ 21) | none => false

/-- Whether an access that has its translation can still reach a frame (R217, R312). -/
def State.frameBusy (s : State) (a : Nat) : Bool :=
  let st (p : PStore) : Bool := inFrame a p.phys
  s.dressers.any (fun d => d.store.any st) || s.cores.any fun k =>
    k.loads.any (fun l => l.parts.any fun p => inFrame a p.phys) || k.chainOut.any (fun m => m.store.any st)
      || k.slots.any fun o => match o with
        | some sl => sl.insts.any (fun i => i.stores.any st) || sl.post.any fun q => match q.act with
          | .store p => st p
          | _ => false
        | none => false

/-- Whether an invalidation has issued and not completed (R217). -/
def State.invalidating (s : State) : Bool :=
  s.cores.any fun k => k.engs.any fun e => match e.instr with | .invr _ | .inva _ => true | _ => false

/-- The service wipes a frame of 2 MiB that has returned to it: no chair holds it, every invalidation has completed, and no
access can still reach it (R302, R312, log entry 55). -/
def wipeFrame (a : Nat) (s : State) : Out :=
  need (decide (a % 2 ^ 21 = 0) && decide (a < 0x9E00000000) && !s.invalidating && !s.frameBusy a
      && (List.range s.chairs.length).all fun c => !s.holdsFrame c none a (2 ^ 21)) <|
    .next { s with hbm := zeroBytes s.hbm a (2 ^ 21),
                   poison := s.poison.filter fun w => !(decide (a ≤ 8 * w) && decide (8 * w < a + 2 ^ 21)) }

/-! ### What else the service does -/

/-- The service reserves memory of a chair for save images, none being held there (R315, log entry 24). -/
def reserveArea (chair gpa : Nat) (s : State) : Out :=
  need (decide (chair < s.chairs.length) && decide (gpa % 2 ^ 21 = 0) && !s.saves.any (·.body.chair = chair)) <|
    .next (s.modChair chair fun c => { c with area := some gpa })

/-- The service loads a range entry: its range is walked, and every page of it must translate alike (R328, R335). -/
def loadRange (core : Nat) (r : RangeEntry) (s : State) : Out :=
  let page (i : Nat) : Bool := match stage1 s core r.chair r.asid (r.va + 4096 * i) with
    | .ok e => decide (e.gpa + (r.va + 4096 * i - e.va) = r.gpa + 4096 * i) && decide (e.perm = r.perm)
    | .error _ => false
  need (decide (core < s.cores.length) && r.slot.isNone && decide (r.va % 2 ^ 21 = 0) && decide (r.gpa % 2 ^ 21 = 0)
      && decide (r.len % 2 ^ 21 = 0) && decide (r.len ≠ 0) && canonical r.va && (List.range (r.len / 4096)).all page) <|
    .next (s.modCore core fun k => { k with ranges := addRange k.ranges r })

/-- A launch that another package forwards comes to this package's arbiter with the roots that are this package's; its
packet has been accepted there, its after list with it (R21, R345, R384, log entry 31). -/
def arriveForwarded (chair : Nat) (p : List Word) (runs : List (Nat × Nat)) (priv : Bool) (s : State) : Out :=
  need (decide (chair < s.chairs.length) && decide (s.arb.length < 256)) <|
    .next { s with arb := s.arb ++ [⟨chair, p, .remote priv, runs, none, [], none⟩] }

/-- A single-bit error corrected in a unit that exists (R316, R349). -/
def correctError (u : ErrUnit) (loc : Nat) (s : State) : Out :=
  let exists_ : Bool := match u with
    | .coreLocal c | .coreCabinet c | .coreCode c => decide (c < s.cores.length)
    | .slice k => decide (k < 128)
    | .stack m => decide (m < 8)
  need exists_ <| .next (s.corrected u loc)

end Sys2Proof.Machine
end

