-- ==== Sys2Proof/Machine/Loader.lean ====
section
/-! DEFINITION. The loader: the load request, Fosol files, placement, symbols and relocation (R140 to R151). -/

namespace Sys2Proof.Machine
open Sys2Proof

/-! ### Fosol files (R140 to R144) -/

/-- The little-endian value of `n` bytes of a file. -/
def fileVal (f : List Byte) (off n : Nat) : Nat := bytesVal ((f.drop off).take n)

/-- Doubleword `i` of a record at a file offset. -/
def fileDw (f : List Byte) (off i : Nat) : Nat := fileVal f (off + 8 * i) 8

/-- A section-table entry (R141). -/
structure Sect where
  link : Nat
  align : Nat
  kind : Nat
  name : Nat
  offset : Nat
  size : Nat
  info : Nat
  ok : Bool
  deriving DecidableEq, Repr

/-- Reading a section-table entry; `ok` says that its reserved bits are zero (R141). -/
def Sect.read (f : List Byte) (off : Nat) : Sect :=
  let d := fileDw f off
  ⟨bits (d 0) 48 16, bits (d 0) 40 8, bits (d 0) 32 8, bits (d 0) 0 32, d 1, d 2, bits (d 3) 0 16, decide (bits (d 3) 16 48 = 0)⟩

/-- A symbol record (R143). -/
structure Sym where
  sect : Nat
  type : Nat
  bind : Nat
  name : Nat
  value : Nat
  size : Nat
  ok : Bool
  deriving DecidableEq, Repr

/-- Reading a symbol record; `ok` says that its reserved doubleword is zero (R143). -/
def Sym.read (f : List Byte) (off : Nat) : Sym :=
  let d := fileDw f off
  ⟨bits (d 0) 48 16, bits (d 0) 40 8, bits (d 0) 32 8, bits (d 0) 0 32, d 1, d 2, decide (d 3 = 0)⟩

/-- A relocation record (R144). -/
structure Reloc where
  offset : Nat
  aux : Nat
  kind : Nat
  sym : Nat
  addend : Int
  ok : Bool
  deriving DecidableEq, Repr

/-- Reading a relocation record; `ok` says that its reserved bits are zero (R144). -/
def Reloc.read (f : List Byte) (off : Nat) : Reloc :=
  let d := fileDw f off
  ⟨d 0, bits (d 1) 40 16, bits (d 1) 32 8, bits (d 1) 0 32, sint (d 2) 64, decide (bits (d 1) 56 8 = 0)⟩

/-- A file's bytes with its section table. -/
structure Fosol where
  bytes : List Byte
  sects : List Sect
  deriving DecidableEq, Repr

/-- The section of a file at an index. -/
def Fosol.sect (f : Fosol) (i : Nat) : Sect := f.sects.getD i ⟨0, 0, 0, 0, 0, 0, 0, false⟩

/-- The kind of a file's section; 0 beyond the table. -/
def Fosol.kindOf (f : Fosol) (i : Nat) : Nat := (f.sect i).kind

/-- Symbol `i` of a SYMTAB. -/
def Fosol.sym (f : Fosol) (tab i : Nat) : Sym := Sym.read f.bytes ((f.sect tab).offset + 32 * i)

/-- The symbol records of a SYMTAB but record 0. -/
def Fosol.syms (f : Fosol) (tab : Nat) : List Sym :=
  ((List.range ((f.sect tab).size / 32)).filter (0 < ·)).map (f.sym tab)

/-- The SYMTAB indices of a file. -/
def Fosol.symtabs (f : Fosol) : List Nat := (List.range f.sects.length).filter fun i => f.kindOf i = 7

/-- The relocation records of a RELOC section. -/
def Fosol.relocs (f : Fosol) (i : Nat) : List Reloc :=
  (List.range ((f.sect i).size / 24)).map fun k => Reloc.read f.bytes ((f.sect i).offset + 24 * k)

/-- CHAINN of a file's header (R140). -/
def Fosol.chainn (f : Fosol) : Nat := bits (fileDw f.bytes 0 4) 0 32

/-- The name at an offset of a STRTAB, up to its zero byte (R142). -/
def Fosol.name (f : Fosol) (strtab off : Nat) : List Byte :=
  ((f.bytes.drop ((f.sect strtab).offset + off)).take ((f.sect strtab).size - off)).takeWhile (· ≠ 0)

/-- The name of a symbol of a SYMTAB. -/
def Fosol.symName (f : Fosol) (tab : Nat) (y : Sym) : List Byte := f.name (f.sect tab).link y.name

/-- Bytes that a relocation kind patches: 32 bits for CHAIN32, else 64 (R145). -/
def relocBytes (kind : Nat) : Nat := if kind = 7 then 4 else 8

/-- Splitting a section's bytes into records at multiples of `step` bytes, zero padding skipped: the offset of each. Blocks
stand at 16 bytes, stage and patch records at 8 (R108, R146, R147). -/
def recordsIn (bs : List Byte) (step : Nat) (size : Nat → Nat) : Nat → Nat → List Nat
  | 0, _ => []
  | fuel + 1, off =>
    if bs.length < off + 16 then (if (bs.drop off).all (· = 0) then [] else [off])
    else if ((bs.drop off).take step).all (· = 0) then recordsIn bs step size fuel (off + step)
    else off :: recordsIn bs step size fuel ((off + size off + step - 1) / step * step)

/-- The bytes of a block: 16, and 8 for each word (R108). -/
def blockBytes (bs : List Byte) (off : Nat) : Nat := 16 + 8 * blockSize (BitVec.ofNat 64 (fileDw bs off 0))

/-- The bytes of a stage record: 16, and 4 for each word, to a multiple of 8 (R146). -/
def stageBytes (bs : List Byte) (off : Nat) : Nat := 16 + (4 * bits (fileDw bs off 0) 16 8 + 7) / 8 * 8

/-- The bytes of a patch record: 16, and 32 for each well (R147). -/
def patchBytes (bs : List Byte) (off : Nat) : Nat := 16 + 32 * bits (fileDw bs off 0) 16 16

/-- Whether a stage record is laid out as R146 says; its words are BIND's to check (R125, R251). -/
def stageOk (bs : List Byte) (off : Nat) : Bool :=
  let h := fileDw bs off 0
  let n := bits h 16 8
  decide (off + stageBytes bs off ≤ bs.length) && decide (fileDw bs off 1 = 0) && decide (bits h 45 19 = 0)
    && decide (bits h 24 8 = 0) && decide (1 ≤ n) && decide (n ≤ 32) && decide (bits h 8 8 ≤ 2) && decide (bits h 0 8 ≤ 1)
    && decide (fileVal bs (off + 16 + 4 * n) (stageBytes bs off - 16 - 4 * n) = 0)

/-- Whether a source is as R147 says. -/
def fileSourceOk (n : Nat) : Bool :=
  let r := Source.ofNat n
  if !r.en then decide (n = 0)
  else match r.src with
    | 1 => decide (r.index < 512)
    | 2 => decide (r.index < 16)
    | 3 => decide (r.index = 0)
    | _ => false

/-- Whether a patch record is as R147 says. -/
def patchRecOk (bs : List Byte) (off : Nat) : Bool :=
  let h := fileDw bs off 0
  let n := bits h 16 16
  let d (i j : Nat) : Nat := fileDw bs (off + 16 + 32 * i) j
  decide (off + patchBytes bs off ≤ bs.length) && decide (bits h 32 32 = 0) && decide (bits h 3 13 = 0)
    && decide (fileDw bs off 1 = 0) && decide (1 ≤ n) && decide (n ≤ 512)
    && (List.range n).all fun i =>
      decide (bits (d i 0) 22 42 = 0) && decide (bits (d i 0) 9 7 = 0) && decide (bits (d i 1) 40 24 = 0)
        && decide (bits (d i 3) 48 16 = 0) && decide (4 ≤ bits (d i 0) 16 6) && decide (bits (d i 0) 16 6 ≤ 32)
        && [bits (d i 2) 32 16, bits (d i 2) 48 16, bits (d i 3) 0 16, bits (d i 3) 16 16, bits (d i 3) 32 16].all fileSourceOk

/-- The bytes that a section holds in its file; none for BSS. -/
def Fosol.body (f : Fosol) (i : Nat) : List Byte :=
  if f.kindOf i = 4 then [] else (f.bytes.drop (f.sect i).offset).take (f.sect i).size

/-- The offsets of the stage records of a section (R146). -/
def Fosol.stageRecords (f : Fosol) (i : Nat) : List Nat :=
  let bs := f.body i
  recordsIn bs 8 (stageBytes bs) (bs.length + 1) 0

/-- Whether every stage symbol that a SYMTAB defines points to a stage record of a STAGE section (R143, R146). -/
def Fosol.stageSymsOk (f : Fosol) (tab : Nat) : Bool :=
  (f.syms tab).all fun y => decide (y.type ≠ 3) || decide (y.sect = 0xFFFF)
    || (decide (f.kindOf y.sect = 5) && (f.stageRecords y.sect).contains y.value)

/-- Whether a symbol record is as R143 says. -/
def Fosol.symOk (f : Fosol) (tab : Nat) (y : Sym) : Bool :=
  y.ok && decide (y.type ≤ 5) && decide (y.bind ≤ 1) && decide (y.name < (f.sect (f.sect tab).link).size)
    && (if y.sect = 0xFFFF then decide (y.bind = 1)
      else if y.type = 5 then decide (y.value + y.size ≤ f.chainn)
      else if y.sect = 0xFFFE then true
      else decide (0 < y.sect) && decide (y.sect < f.sects.length) && decide (y.value ≤ (f.sect y.sect).size))

/-- Whether a relocation record is as R144 says, its kind assigned (R145). -/
def Fosol.relocOk (f : Fosol) (i : Nat) (r : Reloc) : Bool :=
  let t := f.sect i
  r.ok && decide (1 ≤ r.kind) && decide (r.kind ≤ 7) && decide (0 < r.sym) && decide (32 * r.sym < (f.sect t.link).size)
    && decide (r.offset + relocBytes r.kind ≤ (f.sect t.info).size)
    && (if r.kind = 1 then decide (r.aux ≤ r.offset)
      else if r.kind = 4 then decide (0 < r.aux) && decide (r.aux < f.sects.length)
      else decide (r.aux = 0))

/-- Whether a section entry other than entry 0 is as R141 to R144 say. -/
def Fosol.sectOk (f : Fosol) (shstr i : Nat) : Bool :=
  let t := f.sect i
  t.ok && decide (1 ≤ t.kind) && decide (t.kind ≤ 10) && decide (t.align ≤ 12) && (decide (t.kind ≠ 1) || decide (4 ≤ t.align))
    && decide (t.name < (f.sect shstr).size)
    && (if t.kind = 4 then decide (t.offset = 0) else decide (t.offset + t.size ≤ f.bytes.length))
    && (if t.kind = 7 then decide (f.kindOf t.link = 8) else if t.kind = 9 then decide (f.kindOf t.link = 7) else decide (t.link = 0))
    && (if t.kind = 9 then decide (0 < t.info) && decide (t.info < f.sects.length) && decide (f.kindOf t.info ≠ 4) else decide (t.info = 0))
    && (if t.kind = 7 then
          decide (t.size % 32 = 0) && decide (32 ≤ t.size) && ((f.body i).take 32).all (· = 0) && (f.syms i).all (f.symOk i)
        else if t.kind = 8 then decide ((f.body i).head? = some 0) && decide ((f.body i).getLast? = some 0)
        else if t.kind = 9 then decide (t.size % 24 = 0) && (f.relocs i).all (f.relocOk i)
        else true)

/-- Step 1 of R148 for one file: the checked file, or the status (R151). -/
def checkFosol (b : List Byte) : Except Nat Fosol :=
  let d := fileDw b 0
  let shoff := d 2
  let n := bits (d 3) 0 16
  let shstr := bits (d 3) 16 16
  if b.length < 64 ∨ bits (d 0) 0 32 ≠ 0x4C4F5346 then .error 1
  else if bits (d 0) 32 16 ≠ 1 ∨ bits (d 1) 0 32 ≠ 1 then .error 2
  else
    let f : Fosol := ⟨b, (List.range n).map fun i => Sect.read b (shoff + 32 * i)⟩
    let head := decide (bits (d 0) 49 15 = 0) && decide (bits (d 1) 32 32 = 0) && decide (bits (d 4) 32 32 = 0)
      && decide (d 5 = 0) && decide (d 6 = 0) && decide (d 7 = 0)
    let table := decide (shoff % 8 = 0) && decide (shoff + 32 * n ≤ b.length) && decide (1 ≤ n)
      && decide (fileVal b shoff 32 = 0) && decide (f.kindOf shstr = 8)
    let entry := !bit (d 0) 48 || (match f.symtabs with
      | t :: _ => decide (0 < bits (d 3) 32 32) && decide (32 * bits (d 3) 32 32 < (f.sect t).size)
          && decide ((f.sym t (bits (d 3) 32 32)).type = 1) && decide ((f.sym t (bits (d 3) 32 32)).sect ≠ 0xFFFF)
      | [] => false)
    let all (p : Nat → Bool) : Bool := (List.range n).all fun i => decide (i = 0) || p i
    let stages (i : Nat) : Bool := (f.stageRecords i).all (stageOk (f.body i))
    let patches (i : Nat) : Bool :=
      let bs := f.body i
      (recordsIn bs 8 (patchBytes bs) (bs.length + 1) 0).all (patchRecOk bs)
    if !(head && table && entry) || !all (f.sectOk shstr) then .error 3
    else if !all (fun i => decide (f.kindOf i ≠ 5) || stages i) || !f.symtabs.all f.stageSymsOk then .error 8
    else if !all fun i => decide (f.kindOf i ≠ 6) || patches i then .error 9
    else .ok f

/-! ### Placement, symbols and relocation (R145, R148, R149) -/

/-- A section with its place: file and section index, address, and bytes (BSS as zeros). -/
structure Placed where
  file : Nat
  sect : Nat
  addr : Nat
  bytes : List Byte
  deriving DecidableEq, Repr

/-- Placing sections consecutively from an address, each at its alignment: none where the range ends first. -/
def placeAll (fs : List Fosol) (limit : Nat) : List (Nat × Nat) → Nat → Option (List Placed)
  | [], _ => some []
  | (fi, si) :: r, cur =>
    let f := fs.getD fi ⟨[], []⟩
    let t := f.sect si
    let a := (cur + 2 ^ t.align - 1) / 2 ^ t.align * 2 ^ t.align
    if limit < a + t.size then none
    else (placeAll fs limit r (a + t.size)).map fun l =>
      ⟨fi, si, a, if t.kind = 4 then List.replicate t.size 0 else f.body si⟩ :: l

/-- The sections of given kinds, kind by kind, each in file order and section order (R148 step 2). -/
def sectionsOf (fs : List Fosol) (kinds : List Nat) : List (Nat × Nat) :=
  kinds.flatMap fun k => (List.range fs.length).flatMap fun fi =>
    let f := fs.getD fi ⟨[], []⟩
    ((List.range f.sects.length).filter fun si => f.kindOf si = k).map fun si => (fi, si)

/-- The address of a section where it is placed; 0 where it is not. -/
def addrOf (pl : List Placed) (file sect : Nat) : Nat :=
  ((pl.find? fun p => p.file = file && p.sect = sect).map (·.addr)).getD 0

/-- The first chain number of a file (R149). -/
def chainBase (fs : List Fosol) (file : Nat) : Nat := (((fs.take file).map Fosol.chainn).foldl (· + ·) 0)

/-- The address of a defined symbol (R145). -/
def symAddr (fs : List Fosol) (pl : List Placed) (file : Nat) (y : Sym) : Nat :=
  if y.type = 5 then chainBase fs file + y.value
  else if y.sect = 0xFFFE then y.value
  else (addrOf pl file y.sect + y.value) % 2 ^ 64

/-- Every global definition: its name, file and record, in file order. -/
def globals (fs : List Fosol) : List (List Byte × Nat × Sym) :=
  (List.range fs.length).flatMap fun fi =>
    let f := fs.getD fi ⟨[], []⟩
    f.symtabs.flatMap fun t =>
      ((f.syms t).filter fun y => decide (y.bind = 1) && decide (y.sect ≠ 0xFFFF)).map fun y => (f.symName t y, fi, y)

/-- The address of a symbol, an undefined one through the globals of the other files (R148 step 4). -/
def resolveSym (fs : List Fosol) (pl : List Placed) (file tab : Nat) (y : Sym) : Option Nat :=
  if y.sect = 0xFFFF then
    ((globals fs).find? fun g => g.1 == (fs.getD file ⟨[], []⟩).symName tab y && decide (g.2.1 ≠ file)).map fun g =>
      symAddr fs pl g.2.1 g.2.2
  else some (symAddr fs pl file y)

/-- Whether an integer fits a signed field. -/
def fitsSigned (x : Int) (n : Nat) : Bool := decide (-(2 ^ (n - 1) : Int) ≤ x) && decide (x < (2 ^ (n - 1) : Int))

/-- The value that a relocation writes over the old one, none where its check fails; `p` is the word's address,
`base` that of section AUX (R145). -/
def relocate (r : Reloc) (sym p base old : Nat) : Option Nat :=
  let sa : Int := (sym : Int) + r.addend
  let w := wrapN sa 64
  match r.kind with
  | 1 =>
    let x := sa - ((p : Int) - (r.aux : Int))
    if x % 16 = 0 ∧ fitsSigned (x / 16) 31 then some (putField old 0 31 (wrapN (x / 16) 31)) else none
  | 2 => some (putField old 0 44 (bits w 0 44))
  | 3 => some (putField old 0 20 (bits w 44 20))
  | 4 =>
    let x := sa - (base : Int)
    let n := if bits old 21 2 = 2 then 19 else 21
    if fitsSigned x n then some (putField old 0 n (wrapN x n)) else none
  | 5 => some w
  | 6 => if 0 ≤ sa ∧ sa < 0xFFFFFFFF then some (putField old 0 32 w) else none
  | 7 => if 0 ≤ sa ∧ sa < 0xFFFFFFFF then some w else none
  | _ => none

/-- The `n` little-endian bytes of a value. -/
def bytesOf (v : Nat) (n : Nat) : List Byte := (List.range n).map fun i => BitVec.ofNat 8 (bits v (8 * i) 8)

/-- Replacing bytes at an offset of a list. -/
def spliceBytes (bs : List Byte) (off : Nat) (new : List Byte) : List Byte := bs.take off ++ new ++ bs.drop (off + new.length)

/-- Applying the relocations of one section to the placed image; the flag falls where a check fails. -/
def applyRelocs (fs : List Fosol) (file sect : Nat) : List Reloc → List Placed → Bool × List Placed
  | [], pl => (true, pl)
  | r :: rest, pl =>
    let f := fs.getD file ⟨[], []⟩
    let t := f.sect sect
    let n := relocBytes r.kind
    let sym := (resolveSym fs pl file t.link (f.sym t.link r.sym)).getD 0
    match pl.find? fun p => p.file = file && p.sect = t.info with
    | none => applyRelocs fs file sect rest pl
    | some p =>
      match relocate r sym (p.addr + r.offset) (addrOf pl file r.aux) (fileVal p.bytes r.offset n) with
      | none => (false, pl)
      | some v => applyRelocs fs file sect rest (pl.map fun (q : Placed) =>
          if q.file = file ∧ q.sect = t.info then { q with bytes := spliceBytes q.bytes r.offset (bytesOf v n) } else q)

/-- Applying the relocations of every RELOC section, in file order and section order. -/
def applyAll (fs : List Fosol) : List (Nat × Nat) → List Placed → Bool × List Placed
  | [], pl => (true, pl)
  | (fi, si) :: r, pl =>
    match applyRelocs fs fi si ((fs.getD fi ⟨[], []⟩).relocs si) pl with
    | (false, pl) => (false, pl)
    | (true, pl) => applyAll fs r pl

/-- Whether a placed block passes checks 1 to 6 of R121. -/
def blockOk (bs : List Byte) (off : Nat) : Bool :=
  let n := blockSize (BitVec.ofNat 64 (fileDw bs off 0))
  let i := Inst.fresh 0 0 0 0 (BitVec.ofNat 64 (fileDw bs off 0)) (BitVec.ofNat 64 (fileDw bs off 1))
    ((List.range n).map fun k => BitVec.ofNat 64 (fileDw bs (off + 16) k))
  decide (off + 16 + 8 * n ≤ bs.length) && (match mapCheck i false with | none => true | some f => decide (f.code = FC.privilege))

/-- What a load leads to: a status, the image as far as it was made, and the addresses returned. -/
structure Load where
  status : Nat
  image : List Placed
  addrs : List Nat
  deriving DecidableEq, Repr

/-- A load that ends with a status other than OK. -/
def Load.fail (status : Nat) (image : List Placed) : Load := ⟨status, image, []⟩

/-- Steps 1 to 6 and 8 of R148, over the bytes of the files and the three ranges. Where kinds share a range, R148 orders the
sections within a kind only: DATA before BSS, and RODATA, STAGE, PATCH in turn, is DESIGN CHOICE (log entry 20). -/
def load (files : List (List Byte)) (code rw ro : Nat × Nat) : Load :=
  match files.mapM checkFosol with
  | .error c => .fail c []
  | .ok fs =>
    let place (r : Nat × Nat) (kinds : List Nat) := placeAll fs (r.1 + r.2) (sectionsOf fs kinds) r.1
    match place code [1], place rw [2, 4], place ro [3, 5, 6] with
    | some a, some b, some c =>
      let pl := a ++ b ++ c
      let undefined := (List.range fs.length).any fun fi =>
        let f := fs.getD fi ⟨[], []⟩
        f.symtabs.any fun t => (f.syms t).any fun y => (resolveSym fs pl fi t y).isNone
      if undefined then .fail 4 pl
      else if !decide (((globals fs).map (·.1)).Nodup) then .fail 5 pl
      else if 0xFFFFFFFF ≤ chainBase fs fs.length then .fail 6 pl
      else match applyAll fs (sectionsOf fs [9]) pl with
        | (false, pl) => .fail 6 pl
        | (true, pl) =>
          let isCode (p : Placed) : Bool := decide ((fs.getD p.file ⟨[], []⟩).kindOf p.sect = 1)
          if !pl.all fun p => !isCode p || (recordsIn p.bytes 16 (blockBytes p.bytes) (p.bytes.length + 1) 0).all (blockOk p.bytes)
          then .fail 7 pl
          else
            let entry := ((List.range fs.length).findSome? fun fi =>
              let f := fs.getD fi ⟨[], []⟩
              match bit (fileDw f.bytes 0 0) 48, f.symtabs with
              | true, t :: _ => some (symAddr fs pl fi (f.sym t (bits (fileDw f.bytes 0 3) 32 32)))
              | _, _ => none).getD 0
            ⟨0, pl, entry :: (globals fs).map fun g => symAddr fs pl g.2.1 g.2.2⟩
    | _, _, _ => .fail 10 []

/-! ### The load request (R148, R150, R151, R381) -/

/-- Storing bytes for the loader in a range mapped for what its kind needs. -/
def State.loaderPut (s : State) (chair asid : Nat) (nd : Need) (va : Nat) (bs : List Byte) : State :=
  match walkPieces s chair asid false nd (pagePieces va bs.length) with
  | .error _ => s
  | .ok l => s.writePieces chair l (bytesVal bs)

/-- Storing each byte of an image, or only those that a mask chooses (R151). -/
def State.loaderPutSome (s : State) (chair asid : Nat) (nd : Need) (mask : Nat) (p : Placed) : State :=
  (List.range p.bytes.length).foldl (fun s i =>
    if bit mask (p.addr + i) then s.loaderPut chair asid nd (p.addr + i) [p.bytes.getD i 0] else s) s

/-- Doubleword `i` of a payload. -/
def ReqMsg.pdw (m : ReqMsg) (i : Nat) : Nat := fileDw m.payload 0 i

/-- The byte ranges of the files that a load request names (log entry 20). -/
def ReqMsg.files (m : ReqMsg) : List (Nat × Nat) :=
  (List.range (bits (m.pdw 0) 0 16)).map fun i => (m.pdw (7 + 2 * i), m.pdw (8 + 2 * i))

/-- The files read from the chair's memory, or the fault (R381). -/
def readFiles (s : State) (chair asid : Nat) : List (Nat × Nat) → Except Fail (List (List Byte))
  | [] => .ok []
  | (va, n) :: r =>
    match readVa s chair asid false va n, readFiles s chair asid r with
    | .error e, _ => .error e
    | .ok _, .error e => .error e
    | .ok v, .ok l => .ok (bytesOf v n :: l)

/-- The doublewords that an image covers, by memory key over 8, as they stand (R150). -/
def State.wordsUnder (s : State) (chair asid : Nat) (nd : Need) (p : Placed) : List (Nat × Word) :=
  match walkPieces s chair asid false nd (pagePieces p.addr p.bytes.length) with
  | .error _ => []
  | .ok l => l.flatMap fun x => (List.range ((x.2.1 + x.2.2 + 7) / 8 - x.2.1 / 8)).map fun i =>
      (x.2.1 / 8 + i, BitVec.ofNat 64 (s.hbm.read (8 * (x.2.1 / 8 + i)) 8))

/-- A load begun: the image written, each byte old or new where the load fails (R151), the words it covers kept as they were
until the load ends (R150), and the answer kept with the request, which stays where it was. -/
def State.beginLoad (s : State) (chair asid n : Nat) (m : ReqMsg) (l : Load) (needOf : Placed → Need) : State :=
  let old := l.image.flatMap fun p => s.wordsUnder chair asid (needOf p) p
  let reply := (l.status :: l.addrs).flatMap fun v => bytesOf v 8
  let s := if l.status = 0 then l.image.foldl (fun s p => s.loaderPut chair asid (needOf p) p.addr p.bytes) s
    else
      let mask := Config.freeNat s.freeCtr
      l.image.foldl (fun s p => s.loaderPutSome chair asid (needOf p) mask p) { s with freeCtr := s.freeCtr + 1 }
  s.modChair chair fun c => { c with
    reqs := c.reqs.insertIdx n { m with reply := some reply }
    loadWords := old }

/-- A load ended: what FENCE CODE at PKG scope does, the decoded blocks of its chair and ASID dropped, and the response
(R148 steps 7 and 8, R150). -/
def State.endLoad (s : State) (chair asid : Nat) (m : ReqMsg) (reply : List Byte) : State :=
  let s := { s with cores := s.cores.map fun (k : Core) =>
    { k with code := k.code.filter fun d => !(d.chair = chair && d.asid = asid) } }
  (s.modChair chair fun c => { c with loadWords := [] }).respond chair m 0 reply

/-- LOAD_REQUEST: R148's steps in two acts, the first up to the image in place, the second what makes it visible and
reports (R150); a chair's loader takes one request at a time (log entry 61). -/
def execLoadRequest (chair n : Nat) (s : State) : Out :=
  reqAct s chair n 4 fun s m =>
    let range (i : Nat) : Nat × Nat := (m.pdw i, m.pdw (i + 1))
    let ranges : List ((Nat × Nat) × Need) := [(range 1, .fetch), (range 3, .store), (range 5, .load)]
    match m.asid? (s.chair chair), m.reply with
    | none, _ => .next ((s.modChair chair fun c => { c with loadWords := [] }).respond chair m FC.protection [])
    | some asid, some reply => .next (s.endLoad chair asid m reply)
    | some asid, none => need (!(s.chair chair).reqs.any (·.reply.isSome)) <|
      let mapped := ranges.findSome? fun r =>
        match walkPieces s chair asid false r.2 (pagePieces r.1.1 r.1.2) with | .error x => some x | .ok _ => none
      match mapped, readFiles s chair asid m.files with
      | some x, _ => .next ((s.noteUe x).respond chair m x.code [])
      | none, .error x => .next ((s.noteUe x).respond chair m x.code [])
      | none, .ok files =>
        let needOf (p : Placed) : Need := ((ranges.find? fun r =>
          decide (r.1.1 ≤ p.addr) && decide (p.addr + p.bytes.length ≤ r.1.1 + r.1.2)).map (·.2)).getD .load
        .next (s.beginLoad chair asid n m (load files (range 1) (range 3) (range 5)) needOf)

end Sys2Proof.Machine
end

