-- ==== Sys2Proof/Machine/Sha.lean ====
section
/-! DEFINITION. SHA-256, as R386 and R391 name it; its constants are those of FIPS 180-4 (log entry 12). -/

namespace Sys2Proof.Machine.Sha
open Sys2Proof

/-- The 64 round constants. -/
def roundConsts : List (BitVec 32) :=
  [0x428A2F98, 0x71374491, 0xB5C0FBCF, 0xE9B5DBA5, 0x3956C25B, 0x59F111F1, 0x923F82A4, 0xAB1C5ED5,
    0xD807AA98, 0x12835B01, 0x243185BE, 0x550C7DC3, 0x72BE5D74, 0x80DEB1FE, 0x9BDC06A7, 0xC19BF174,
    0xE49B69C1, 0xEFBE4786, 0x0FC19DC6, 0x240CA1CC, 0x2DE92C6F, 0x4A7484AA, 0x5CB0A9DC, 0x76F988DA,
    0x983E5152, 0xA831C66D, 0xB00327C8, 0xBF597FC7, 0xC6E00BF3, 0xD5A79147, 0x06CA6351, 0x14292967,
    0x27B70A85, 0x2E1B2138, 0x4D2C6DFC, 0x53380D13, 0x650A7354, 0x766A0ABB, 0x81C2C92E, 0x92722C85,
    0xA2BFE8A1, 0xA81A664B, 0xC24B8B70, 0xC76C51A3, 0xD192E819, 0xD6990624, 0xF40E3585, 0x106AA070,
    0x19A4C116, 0x1E376C08, 0x2748774C, 0x34B0BCB5, 0x391C0CB3, 0x4ED8AA4A, 0x5B9CCA4F, 0x682E6FF3,
    0x748F82EE, 0x78A5636F, 0x84C87814, 0x8CC70208, 0x90BEFFFA, 0xA4506CEB, 0xBEF9A3F7, 0xC67178F2]

/-- The initial hash value. -/
def initial : List (BitVec 32) :=
  [0x6A09E667, 0xBB67AE85, 0x3C6EF372, 0xA54FF53A, 0x510E527F, 0x9B05688C, 0x1F83D9AB, 0x5BE0CD19]

/-- Big-endian 32-bit words of bytes. -/
def wordsBe : List Byte → List (BitVec 32)
  | a :: b :: c :: d :: r => (a ++ b ++ c ++ d) :: wordsBe r
  | _ => []

/-- The message padded to a multiple of 64 bytes. -/
def pad (m : List Byte) : List Byte :=
  let z := (119 - m.length % 64) % 64
  m ++ 0x80 :: List.replicate z 0 ++ (List.range 8).reverse.map fun i => BitVec.ofNat 8 (8 * m.length / 2 ^ (8 * i))

/-- One more word of the schedule, from the sixteen before it, newest first. -/
def nextWord (w : List (BitVec 32)) : BitVec 32 :=
  let g (i : Nat) := w.getD i 0
  let s0 (x : BitVec 32) := x.rotateRight 7 ^^^ x.rotateRight 18 ^^^ x >>> 3
  let s1 (x : BitVec 32) := x.rotateRight 17 ^^^ x.rotateRight 19 ^^^ x >>> 10
  s1 (g 1) + g 6 + s0 (g 14) + g 15

/-- The schedule extended by `n` words, newest first. -/
def schedule : Nat → List (BitVec 32) → List (BitVec 32)
  | 0, w => w
  | n + 1, w => schedule n (nextWord w :: w)

/-- One round. -/
def round (h : List (BitVec 32)) (kw : BitVec 32 × BitVec 32) : List (BitVec 32) :=
  match h with
  | [a, b, c, d, e, f, g, x] =>
    let t1 := x + (e.rotateRight 6 ^^^ e.rotateRight 11 ^^^ e.rotateRight 25) + ((e &&& f) ^^^ (~~~e &&& g)) + kw.1 + kw.2
    let t2 := (a.rotateRight 2 ^^^ a.rotateRight 13 ^^^ a.rotateRight 22) + ((a &&& b) ^^^ (a &&& c) ^^^ (b &&& c))
    [t1 + t2, a, b, c, d + t1, e, f, g]
  | h => h

/-- One block of 16 words taken into the hash. -/
def block (h ws : List (BitVec 32)) : List (BitVec 32) :=
  List.zipWith (· + ·) h ((roundConsts.zip (schedule 48 ws.reverse).reverse).foldl round h)

/-- The blocks of a message taken in order; the fuel bounds their number. -/
def blocks : Nat → List (BitVec 32) → List (BitVec 32) → List (BitVec 32)
  | 0, h, _ => h
  | n + 1, h, ws => if ws.isEmpty then h else blocks n (block h (ws.take 16)) (ws.drop 16)

/-- The bytes of a 32-bit word, most significant first. -/
def bytesBe (x : BitVec 32) : List Byte := [x.extractLsb' 24 8, x.extractLsb' 16 8, x.extractLsb' 8 8, x.extractLsb' 0 8]

/-- The SHA-256 of a message: 32 bytes. -/
def hash (m : List Byte) : List Byte := (blocks (m.length / 64 + 2) initial (wordsBe (pad m))).flatMap bytesBe

end Sys2Proof.Machine.Sha
end

