-- ==== Sys2Proof/Machine/Pss.lean ====
section
/-! DEFINITION. RSASSA-PSS with RSA-3072, SHA-256 and a 32-byte salt, as R386 and R391 name it; the scheme is that of RFC 8017
(log entry 12). -/

namespace Sys2Proof.Machine.Pss
open Sys2Proof

/-- The octets of a modulus of RSA-3072. -/
def size : Nat := 384

/-- An integer of octets, most significant first. -/
def toNat (bs : List Byte) : Nat := bs.foldl (fun n b => 256 * n + b.toNat) 0

/-- The `n` octets of an integer, most significant first. -/
def ofNat (n x : Nat) : List Byte := (List.range n).reverse.map fun i => BitVec.ofNat 8 (bits x (8 * i) 8)

/-- `b` to the power `e`, modulo `n`; the fuel bounds the bits of `e`. -/
def powMod (n : Nat) : Nat → Nat → Nat → Nat
  | 0, _, _ => 1 % n
  | fuel + 1, b, e =>
    let h := powMod n fuel (b * b % n) (e / 2)
    if e % 2 = 1 then b * h % n else h

/-- The mask that a seed generates: SHA-256 of the seed and a counter, as far as needed. -/
def mask (seed : List Byte) (n : Nat) : List Byte :=
  ((List.range ((n + 31) / 32)).flatMap fun i => Sha.hash (seed ++ ofNat 4 i)).take n

/-- Octets of two strings combined by exclusive or. -/
def xor (a b : List Byte) : List Byte := List.zipWith (· ^^^ ·) a b

/-- The hash of a message's hash with its salt. -/
def salted (body salt : List Byte) : List Byte := Sha.hash (List.replicate 8 0 ++ Sha.hash body ++ salt)

/-- The first bit of an encoded message cleared: it has 3071 bits. -/
def clearTop : List Byte → List Byte
  | [] => []
  | b :: r => (b &&& 0x7F) :: r

/-- The encoding of a message with its salt. -/
def encode (body salt : List Byte) : List Byte :=
  let h := salted body salt
  clearTop (xor (List.replicate 318 0 ++ 1 :: salt) (mask h 351)) ++ h ++ [0xBC]

/-- Whether an encoded message is one of a message, under whatever salt. -/
def decodes (body em : List Byte) : Bool :=
  let h := (em.drop 351).take 32
  let db := clearTop (xor (em.take 351) (mask h 351))
  let salt := db.drop 319
  decide (em.length = size) && decide (em = clearTop (em.take 351) ++ h ++ [0xBC])
    && decide (db.take 319 = List.replicate 318 0 ++ [1]) && decide (h = salted body salt)

/-- Whether a signature of a message verifies under a public key. -/
def verify (n e : Nat) (body sig : List Byte) : Bool :=
  decide (sig.length = size) && decide (toNat sig < n) && decodes body (ofNat size (powMod n (8 * size) (toNat sig) e))

/-- The signature of a message under a private exponent, with a salt. -/
def sign (n d : Nat) (body salt : List Byte) : List Byte := ofNat size (powMod n (8 * size) (toNat (encode body salt)) d)

end Sys2Proof.Machine.Pss
end

