-- ==== Sys2Proof/Machine/Boot.lean ====
section
/-! DEFINITION. Bring-up, life cycle, attestation, power and links (R16, R383 to R394). -/

namespace Sys2Proof.Machine
open Sys2Proof

/-- The image in the boot flash; until an update, the one the package came with (R386, R388). -/
def State.image (s : State) : List Byte := s.flash.getD Config.bootFlash

/-- Whether an image passes the check of step 4 of R386: the hash of its key is the one in fuses, and its signature
verifies; what an interrupted update leaves never does (R388). -/
def imagePasses (image : List Byte) : Bool :=
  let key := Config.imageKey image
  let n := Config.keyNumbers key
  let signed := Config.imageSigned image
  !image.isEmpty && decide (Sha.hash key = Config.fuseKeyHash) && Pss.verify n.1 n.2 signed.1 signed.2

/-- The state after a reset, in which step 1 of R386 begins: every register at its reset value; the fuses, the boot flash, the
identity key and what is defective stay (R386 to R390), and the memories until step 3 wipes them. A pending life-cycle change
has taken effect (R389, R390). -/
def State.afterReset (s : State) : State :=
  let lcs := s.pendingLcs.getD s.lcs
  let idKey := match s.pendingLcs with
    | some .provisioned => some s.freeCtr
    | some .rma => none
    | _ => s.idKey
  let kept (c : Nat) : Core := { Core.reset with mem := (s.core c).mem, poison := (s.core c).poison }
  { State.reset with
    freeCtr := s.freeCtr + 1, agenda := s.agenda, lcs := lcs, flash := s.flash, idKey := idKey, hbm := s.hbm, poison := s.poison,
    rootUsable := s.rootUsable, failing := s.failing, cores := (List.range 192).map kept }

/-- Step 3 of R386: every memory wiped (R302, R312). -/
def State.wiped (s : State) : State := { s with hbm := [], poison := [], cores := List.replicate 192 .reset }

/-- PKGID as the service configures it (R301, R386 step 6). -/
def configuredPkgid : Word := BitVec.ofNat 64 (Config.packageId / 2 ^ 16 % 32 * 2 ^ 16 + Config.packageId % 2 ^ 16 % 288)

/-- Steps 5 and 6 of R386: the image is measured and the service started. -/
def State.runImage (s : State) (image : List Byte) : State :=
  { s with boot := .running, fwhash := Sha.hash image, pkgid := configuredPkgid }

/-- BOOT: a reset, and the steps of R386 after it. A step that fails stops the sequence there: step 1 where the security root
of trestle 0 is unusable (R14), step 2 in SCRAPPED, step 4 into recovery (R387), and any of 1, 2, 3, 5 and 6 that is defective
(log entry 7). -/
def execBoot (s : State) : Out :=
  let r := s.afterReset
  let image := s.image
  if !s.rootUsable || s.failing == some 1 || s.failing == some 2 || r.lcs == .scrapped then .next { r with boot := .stopped }
  else if s.failing == some 3 then .next { r with boot := .stopped }
  else if s.failing == some 4 || !imagePasses image then .next { r.wiped with boot := .recovery }
  else if s.failing == some 5 then .next { r.wiped with boot := .stopped }
  else if s.failing == some 6 then .next { r.wiped with boot := .stopped, fwhash := Sha.hash image }
  else .next (r.wiped.runImage image)

/-- NETWORK_RECOVERY: an image received over the management port, run from RAM where it passes (R387). -/
def execNetworkRecovery (image : List Byte) (s : State) : Out :=
  need (decide (s.boot = .recovery)) <| if imagePasses image then .next (s.runImage image) else .next s

/-- FIRMWARE_UPDATE: only an image that passes is written; an interrupted write leaves one that does not (R388). -/
def execFirmwareUpdate (image : List Byte) (whole : Bool) (s : State) : Out :=
  need (decide (s.boot = .running)) <|
    if imagePasses image then .next { s with flash := some (if whole then image else []) } else .next s

/-- The states that LCS may move to (R389). -/
def nextLcs : LifeCycle → List LifeCycle
  | .blank => [.manufacture]
  | .manufacture => [.provisioned]
  | .provisioned => [.deployed, .rma]
  | .deployed => [.rma]
  | .rma => [.scrapped]
  | .scrapped => []

/-- LIFE_CYCLE_CHANGE_REQUEST: pending until the next reset; replaces one that is pending (R389). -/
def execLifeCycleChangeRequest (target : LifeCycle) (s : State) : Out :=
  need (decide (s.boot = .running)) <|
    if (nextLcs s.lcs).contains target then .next { s with pendingLcs := some target } else .next s

/-- STATE of LCS as a code (R301). -/
def lcsCode : LifeCycle → Nat
  | .blank => 0
  | .manufacture => 1
  | .provisioned => 2
  | .deployed => 3
  | .rma => 4
  | .scrapped => 5

/-- The 4 KiB control block of a chair (R299, R322). -/
def Chair.block (c : Chair) : List Byte :=
  let regs := [c.chctl, c.chs2, c.chseqb, c.chseqn, c.chgrant, c.chprb, c.chpol, c.chtq, c.chfq, c.chstop]
  let dw (i : Nat) : Word := if i < 16 then regs.getD i 0 else if i < 20 then c.chcq.getD (i - 16) 0
    else if 32 ≤ i ∧ i < 48 then c.chasid.getD (i - 32) 0 else 0
  (List.range 512).flatMap fun i => bytesOf (dw i).toNat 8

/-- The hash of a table: each index's entry with its pointer read as zero, and a valid entry's elements (R344). -/
def tableHash (t : List TabEntry) (n : Nat) : List Byte :=
  Sha.hash ((List.range n).flatMap fun i =>
    match t.find? (·.idx = i) with
    | none => List.replicate 32 0
    | some e => [e.dws.getD 0 0, e.dws.getD 1 0, 0, e.dws.getD 3 0].flatMap (fun w => bytesOf w.toNat 8)
        ++ (if e.valid then e.data.flatMap fun v => bytesOf v (if e.field 1 16 1 = 1 then 2 else 4) else []))

/-- The body of an attestation report (R391). -/
def reportBody (s : State) (chair : Nat) (nonce : List Byte) : List Byte :=
  bytesOf 0x54545341 4 ++ bytesOf 1 2 ++ bytesOf (lcsCode s.lcs) 1 ++ bytesOf chair 1 ++ bytesOf s.pkgid.toNat 8
    ++ nonce ++ s.fwhash ++ Sha.hash (s.chair chair).block ++ tableHash s.probes 4096 ++ tableHash s.steers 65536
    ++ List.replicate 80 0

/-- ATTESTATION_REPORT: in PROVISIONED and DEPLOYED, a body and its signature under the identity key, with a fresh salt
(R391). -/
def execAttestationReport (chair : Nat) (nonce : List Byte) (s : State) : Out :=
  need (decide (s.boot = .running) && (s.lcs == .provisioned || s.lcs == .deployed) && decide (chair < 64)
      && decide (nonce.length = 32)) <|
    needSome s.idKey fun n =>
      let body := reportBody s chair nonce
      let key := Config.identityKey n
      let (salt, s) := s.draw (2 ^ 256)
      .next { s with mgmtOut := s.mgmtOut ++ [body ++ Pss.sign key.1 key.2.2 body (bytesOf salt 32)] }

/-- A reading over the management port: the public key of the identity key pair while there is one (R390), else the status,
LCS and PKGID, which it answers even where bring-up has stopped (R386 step 2, R394). -/
def readManagement (key : Bool) (s : State) : Out :=
  let status := bytesOf (lcsCode s.lcs) 1 ++ bytesOf s.pkgid.toNat 8
  if !key then .next { s with mgmtOut := s.mgmtOut ++ [status] }
  else need (decide (s.boot ≠ .stopped)) <| needSome s.idKey fun n =>
    let k := Config.identityKey n
    .next { s with mgmtOut := s.mgmtOut ++ [bytesOf k.1 Pss.size ++ bytesOf k.2.1 Pss.size] }

/-- A defect found in the hardware: of trestle 0's security root (R14), or of a step of bring-up (R386). -/
def noteDefect (rootUsable : Bool) (step : Option Nat) (s : State) : Out :=
  .next { s with rootUsable := rootUsable, failing := step }

/-- THERMAL_SHUTDOWN: every link and port goes down, and the state is that before step 1 of R386, with nothing saved (R394). -/
def execThermalShutdown (s : State) : Out :=
  .next { s.afterReset.wiped with downLinks := List.range 36, downPorts := List.range 4 }

/-- CLOCK_THROTTLE: only the clock changes (R15, R16). -/
def execClockThrottle (khz : Nat) (s : State) : Out := need (decide (0 < khz)) <| .next { s with clockKhz := khz }

/-- PACKAGE_UNREACHABLE: what is outstanding to the package, and what comes after, is a consumption of poison (R385). -/
def execPackageUnreachable (pkg : Nat) (s : State) : Out :=
  need (decide (s.boot = .running) && decide (pkg < 288) && decide (pkg ≠ bits s.pkgid.toNat 0 9)) <|
    .next { s with unreachable := if s.unreachable.contains pkg then s.unreachable else s.unreachable ++ [pkg] }

/-- LINK_FAILOVER: a link fails and its circuits move; no order within a circuit changes (R383). -/
def execLinkFailover (link : Nat) (s : State) : Out :=
  need (decide (link < 36)) <|
    .next { s with downLinks := if s.downLinks.contains link then s.downLinks else s.downLinks ++ [link] }

end Sys2Proof.Machine
end

