-- ==== Sys2Proof/Machine/Dispatch.lean ====
section
/-! DEFINITION. The meaning of every row of the opcode table. -/

namespace Sys2Proof.Machine
open Sys2Proof

/-- The act of an instruction or operation in a state: a next state, or the fault that says it is not enabled. -/
def exec (i : Instr) (s : State) : Host.Outcome State Fault Refusal :=
  match i with
  | .read f => Sys2Proof.Machine.execRead f s
  | .mov f => Sys2Proof.Machine.execMov f s
  | .mov4 f => Sys2Proof.Machine.execMov4 f s
  | .limm f => Sys2Proof.Machine.execLimm f s
  | .orhi f => Sys2Proof.Machine.execOrhi f s
  | .nullI f => Sys2Proof.Machine.execNull f s
  | .sel f => Sys2Proof.Machine.execSel f s
  | .br f => Sys2Proof.Machine.execBr f s
  | .bri f => Sys2Proof.Machine.execBri f s
  | .call f => Sys2Proof.Machine.execCall f s
  | .ret f => Sys2Proof.Machine.execRet f s
  | .trap f => Sys2Proof.Machine.execTrap f s
  | .rett f => Sys2Proof.Machine.execRett f s
  | .csrr f => Sys2Proof.Machine.execCsrr f s
  | .csrw f => Sys2Proof.Machine.execCsrw f s
  | .csrx f => Sys2Proof.Machine.execCsrx f s
  | .brk f => Sys2Proof.Machine.execBrk f s
  | .fork f => Sys2Proof.Machine.execFork f s
  | .spawn f => Sys2Proof.Machine.execSpawn f s
  | .endI f => Sys2Proof.Machine.execEnd f s
  | .join f => Sys2Proof.Machine.execJoin f s
  | .redt f => Sys2Proof.Machine.execRedt f s
  | .launch f => Sys2Proof.Machine.execLaunch f s
  | .waitc f => Sys2Proof.Machine.execWaitc f s
  | .teq f => Sys2Proof.Machine.execTeq f s
  | .tne f => Sys2Proof.Machine.execTne f s
  | .tlt f => Sys2Proof.Machine.execTlt f s
  | .tle f => Sys2Proof.Machine.execTle f s
  | .tltu f => Sys2Proof.Machine.execTltu f s
  | .tleu f => Sys2Proof.Machine.execTleu f s
  | .teqi f => Sys2Proof.Machine.execTeqi f s
  | .tnei f => Sys2Proof.Machine.execTnei f s
  | .tlti f => Sys2Proof.Machine.execTlti f s
  | .tlei f => Sys2Proof.Machine.execTlei f s
  | .tgti f => Sys2Proof.Machine.execTgti f s
  | .tgei f => Sys2Proof.Machine.execTgei f s
  | .tltui f => Sys2Proof.Machine.execTltui f s
  | .tgtui f => Sys2Proof.Machine.execTgtui f s
  | .ftest f => Sys2Proof.Machine.execFtest f s
  | .add f => Sys2Proof.Machine.execAdd f s
  | .sub f => Sys2Proof.Machine.execSub f s
  | .mul f => Sys2Proof.Machine.execMul f s
  | .mulh f => Sys2Proof.Machine.execMulh f s
  | .mulhu f => Sys2Proof.Machine.execMulhu f s
  | .div f => Sys2Proof.Machine.execDiv f s
  | .divu f => Sys2Proof.Machine.execDivu f s
  | .rem f => Sys2Proof.Machine.execRem f s
  | .remu f => Sys2Proof.Machine.execRemu f s
  | .andI f => Sys2Proof.Machine.execAnd f s
  | .orI f => Sys2Proof.Machine.execOr f s
  | .xorI f => Sys2Proof.Machine.execXor f s
  | .andn f => Sys2Proof.Machine.execAndn f s
  | .shl f => Sys2Proof.Machine.execShl f s
  | .shr f => Sys2Proof.Machine.execShr f s
  | .sra f => Sys2Proof.Machine.execSra f s
  | .rotl f => Sys2Proof.Machine.execRotl f s
  | .min f => Sys2Proof.Machine.execMin f s
  | .max f => Sys2Proof.Machine.execMax f s
  | .minu f => Sys2Proof.Machine.execMinu f s
  | .maxu f => Sys2Proof.Machine.execMaxu f s
  | .clz f => Sys2Proof.Machine.execClz f s
  | .ctz f => Sys2Proof.Machine.execCtz f s
  | .popc f => Sys2Proof.Machine.execPopc f s
  | .abs f => Sys2Proof.Machine.execAbs f s
  | .neg f => Sys2Proof.Machine.execNeg f s
  | .sext f => Sys2Proof.Machine.execSext f s
  | .zext f => Sys2Proof.Machine.execZext f s
  | .addi f => Sys2Proof.Machine.execAddi f s
  | .muli f => Sys2Proof.Machine.execMuli f s
  | .andimm f => Sys2Proof.Machine.execAndi f s
  | .orimm f => Sys2Proof.Machine.execOri f s
  | .xorimm f => Sys2Proof.Machine.execXori f s
  | .shli f => Sys2Proof.Machine.execShli f s
  | .shri f => Sys2Proof.Machine.execShri f s
  | .srai f => Sys2Proof.Machine.execSrai f s
  | .agen f => Sys2Proof.Machine.execAgen f s
  | .cvtif f => Sys2Proof.Machine.execCvtif f s
  | .cvtfi f => Sys2Proof.Machine.execCvtfi f s
  | .fadd f => Sys2Proof.Machine.execFadd f s
  | .fsub f => Sys2Proof.Machine.execFsub f s
  | .fmul f => Sys2Proof.Machine.execFmul f s
  | .fdiv f => Sys2Proof.Machine.execFdiv f s
  | .fmin f => Sys2Proof.Machine.execFmin f s
  | .fmax f => Sys2Proof.Machine.execFmax f s
  | .ld f => Sys2Proof.Machine.execLd f s
  | .lds f => Sys2Proof.Machine.execLds f s
  | .st f => Sys2Proof.Machine.execSt f s
  | .ldv f => Sys2Proof.Machine.execLdv f s
  | .stv f => Sys2Proof.Machine.execStv f s
  | .ldl f => Sys2Proof.Machine.execLdl f s
  | .stl f => Sys2Proof.Machine.execStl f s
  | .ldvl f => Sys2Proof.Machine.execLdvl f s
  | .stvl f => Sys2Proof.Machine.execStvl f s
  | .chnop f => Sys2Proof.Machine.execChnop f s
  | .amo f => Sys2Proof.Machine.execAmo f s
  | .amol f => Sys2Proof.Machine.execAmol f s
  | .fence f => Sys2Proof.Machine.execFence f s
  | .gath f => Sys2Proof.Machine.execGath f s
  | .scat f => Sys2Proof.Machine.execScat f s
  | .scata f => Sys2Proof.Machine.execScata f s
  | .xcopy f => Sys2Proof.Machine.execXcopy f s
  | .xfill f => Sys2Proof.Machine.execXfill f s
  | .xcomp f => Sys2Proof.Machine.execXcomp f s
  | .pref f => Sys2Proof.Machine.execPref f s
  | .synci f => Sys2Proof.Machine.execSynci f s
  | .waitg f => Sys2Proof.Machine.execWaitg f s
  | .invr f => Sys2Proof.Machine.execInvr f s
  | .inva f => Sys2Proof.Machine.execInva f s
  | .tfetch f => Sys2Proof.Machine.execTfetch f s
  | .kvapp f => Sys2Proof.Machine.execKvapp f s
  | .vadd f => Sys2Proof.Machine.execVadd f s
  | .vsub f => Sys2Proof.Machine.execVsub f s
  | .vmul f => Sys2Proof.Machine.execVmul f s
  | .vfma f => Sys2Proof.Machine.execVfma f s
  | .vfms f => Sys2Proof.Machine.execVfms f s
  | .vdiv f => Sys2Proof.Machine.execVdiv f s
  | .vsqrt f => Sys2Proof.Machine.execVsqrt f s
  | .vrsq f => Sys2Proof.Machine.execVrsq f s
  | .vmin f => Sys2Proof.Machine.execVmin f s
  | .vmax f => Sys2Proof.Machine.execVmax f s
  | .vabs f => Sys2Proof.Machine.execVabs f s
  | .vneg f => Sys2Proof.Machine.execVneg f s
  | .vexp2 f => Sys2Proof.Machine.execVexp2 f s
  | .vlog2 f => Sys2Proof.Machine.execVlog2 f s
  | .vcmp f => Sys2Proof.Machine.execVcmp f s
  | .vsel f => Sys2Proof.Machine.execVsel f s
  | .vred f => Sys2Proof.Machine.execVred f s
  | .vscan f => Sys2Proof.Machine.execVscan f s
  | .vdot f => Sys2Proof.Machine.execVdot f s
  | .vbcast f => Sys2Proof.Machine.execVbcast f s
  | .vext f => Sys2Proof.Machine.execVext f s
  | .vins f => Sys2Proof.Machine.execVins f s
  | .vperm f => Sys2Proof.Machine.execVperm f s
  | .vshuf f => Sys2Proof.Machine.execVshuf f s
  | .vcvt f => Sys2Proof.Machine.execVcvt f s
  | .vscale f => Sys2Proof.Machine.execVscale f s
  | .viadd f => Sys2Proof.Machine.execViadd f s
  | .visub f => Sys2Proof.Machine.execVisub f s
  | .vimul f => Sys2Proof.Machine.execVimul f s
  | .viand f => Sys2Proof.Machine.execViand f s
  | .vior f => Sys2Proof.Machine.execVior f s
  | .vixor f => Sys2Proof.Machine.execVixor f s
  | .vishl f => Sys2Proof.Machine.execVishl f s
  | .vishr f => Sys2Proof.Machine.execVishr f s
  | .visra f => Sys2Proof.Machine.execVisra f s
  | .vimin f => Sys2Proof.Machine.execVimin f s
  | .vimax f => Sys2Proof.Machine.execVimax f s
  | .vpack f => Sys2Proof.Machine.execVpack f s
  | .vunpk f => Sys2Proof.Machine.execVunpk f s
  | .vmask f => Sys2Proof.Machine.execVmask f s
  | .syscfg f => Sys2Proof.Machine.execSyscfg f s
  | .wload f => Sys2Proof.Machine.execWload f s
  | .mma f => Sys2Proof.Machine.execMma f s
  | .drain f => Sys2Proof.Machine.execDrain f s
  | .sysrel f => Sys2Proof.Machine.execSysrel f s
  | .route f => Sys2Proof.Machine.execRoute f s
  | .tmul f => Sys2Proof.Machine.execTmul f s
  | .bind f => Sys2Proof.Machine.execBind f s
  | .unbind f => Sys2Proof.Machine.execUnbind f s
  | .attn f => Sys2Proof.Machine.execAttn f s
  | .patch f => Sys2Proof.Machine.execPatch f s
  | .pdom f => Sys2Proof.Machine.execPdom f s
  | .pwr f => Sys2Proof.Machine.execPwr f s
  | .prd f => Sys2Proof.Machine.execPrd f s
  | .prdv f => Sys2Proof.Machine.execPrdv f s
  | .pstep f => Sys2Proof.Machine.execPstep f s
  | .psave f => Sys2Proof.Machine.execPsave f s
  | .prest f => Sys2Proof.Machine.execPrest f s
  | .pfeed f => Sys2Proof.Machine.execPfeed f s
  | .tapcfg f => Sys2Proof.Machine.execTapcfg f s
  | .stap f => Sys2Proof.Machine.execStap f s
  | .tapst f => Sys2Proof.Machine.execTapst f s
  | .smpl f => Sys2Proof.Machine.execSmpl f s
  | .seqc f => Sys2Proof.Machine.execSeqc f s
  | .seqrd f => Sys2Proof.Machine.execSeqrd f s
  | .launchAcceptance chair => Sys2Proof.Machine.execLaunchAcceptance chair s
  | .launchDispatch canvas => Sys2Proof.Machine.execLaunchDispatch canvas s
  | .rootAdmission core idx => Sys2Proof.Machine.execRootAdmission core idx s
  | .contextSlotTake core => Sys2Proof.Machine.execContextSlotTake core s
  | .slotRelease core slot => Sys2Proof.Machine.execSlotRelease core slot s
  | .iterationStart core slot rec idx => Sys2Proof.Machine.execIterationStart core slot rec idx s
  | .iterationEnd core slot uid => Sys2Proof.Machine.execIterationEnd core slot uid s
  | .windowGrant core slot uid ba => Sys2Proof.Machine.execWindowGrant core slot uid ba s
  | .blockFetch core slot => Sys2Proof.Machine.execBlockFetch core slot s
  | .blockMapping core slot => Sys2Proof.Machine.execBlockMapping core slot s
  | .tokenArrival core n => Sys2Proof.Machine.execTokenArrival core n s
  | .chestInjection core n => Sys2Proof.Machine.execChestInjection core n s
  | .swap core row set => Sys2Proof.Machine.execSwap core row set s
  | .quotaSwap core slot row n => Sys2Proof.Machine.execQuotaSwap core slot row n s
  | .blockCommit core slot age => Sys2Proof.Machine.execBlockCommit core slot age s
  | .incompleteBlock core slot age => Sys2Proof.Machine.execIncompleteBlock core slot age s
  | .faultTaken core slot age n => Sys2Proof.Machine.execFaultTaken core slot age n s
  | .contextAbort launch => Sys2Proof.Machine.execContextAbort launch s
  | .faultQueueRecord core n => Sys2Proof.Machine.execFaultQueueRecord core n s
  | .faultAnswer core slot fid wake => Sys2Proof.Machine.execFaultAnswer core slot fid wake s
  | .loadPerformed core n => Sys2Proof.Machine.execLoadPerformed core n s
  | .storeApplied core slot n => Sys2Proof.Machine.execStoreApplied core slot n s
  | .poisonDetected site => Sys2Proof.Machine.execPoisonDetected site s
  | .chainArrival core n => Sys2Proof.Machine.execChainArrival core n s
  | .dresserApplication n => Sys2Proof.Machine.execDresserApplication n s
  | .joinSatisfied core slot age k => Sys2Proof.Machine.execJoinSatisfied core slot age k s
  | .redtCollectSatisfied core slot age k => Sys2Proof.Machine.execRedtCollectSatisfied core slot age k s
  | .waitcSatisfied core slot age k => Sys2Proof.Machine.execWaitcSatisfied core slot age k s
  | .waitgSatisfied core slot age k => Sys2Proof.Machine.execWaitgSatisfied core slot age k s
  | .fenceEmission core slot age k => Sys2Proof.Machine.execFenceEmission core slot age k s
  | .seqcRetire core uid => Sys2Proof.Machine.execSeqcRetire core uid s
  | .engineCompletion core uid act => Sys2Proof.Machine.execEngineCompletion core uid act s
  | .heldCommandIssue core => Sys2Proof.Machine.execHeldCommandIssue core s
  | .eviction launch => Sys2Proof.Machine.execEviction launch s
  | .contextResume launch => Sys2Proof.Machine.execContextResume launch s
  | .timeSliceExpiry launch waiter => Sys2Proof.Machine.execTimeSliceExpiry launch waiter s
  | .chairReset chair => Sys2Proof.Machine.execChairReset chair s
  | .chairEnableWrite chair en => Sys2Proof.Machine.execChairEnableWrite chair en s
  | .primaxWrite chair primax => Sys2Proof.Machine.execPrimaxWrite chair primax s
  | .grantWrite chair kind on => Sys2Proof.Machine.execGrantWrite chair kind on s
  | .chcqWrite chair n v => Sys2Proof.Machine.execChcqWrite chair n v s
  | .serviceRegisterWrite chair off v => Sys2Proof.Machine.execServiceRegisterWrite chair off v s
  | .errorCounterWrite unit field v => Sys2Proof.Machine.execErrorCounterWrite unit field v s
  | .perfCounterWrite core n cnt v => Sys2Proof.Machine.execPerfCounterWrite core n cnt v s
  | .cmdLaunch q => Sys2Proof.Machine.execCmdLaunch q s
  | .launchIndirect q => Sys2Proof.Machine.execLaunchIndirect q s
  | .cmdWait q => Sys2Proof.Machine.execCmdWait q s
  | .signal q => Sys2Proof.Machine.execSignal q s
  | .loopE q => Sys2Proof.Machine.execLoopE q s
  | .ifE q => Sys2Proof.Machine.execIfE q s
  | .barrier q => Sys2Proof.Machine.execBarrier q s
  | .tableUpdate q => Sys2Proof.Machine.execTableUpdate q s
  | .reqWrite chair n => Sys2Proof.Machine.execReqWrite chair n s
  | .reqRead chair n => Sys2Proof.Machine.execReqRead chair n s
  | .doorbell chair n => Sys2Proof.Machine.execDoorbell chair n s
  | .loadRequest chair n => Sys2Proof.Machine.execLoadRequest chair n s
  | .resumeRequest chair n => Sys2Proof.Machine.execResumeRequest chair n s
  | .noticeSend chair => Sys2Proof.Machine.execNoticeSend chair s
  | .noticeAck chair => Sys2Proof.Machine.execNoticeAck chair s
  | .boot => Sys2Proof.Machine.execBoot s
  | .networkRecovery image => Sys2Proof.Machine.execNetworkRecovery image s
  | .firmwareUpdate image whole => Sys2Proof.Machine.execFirmwareUpdate image whole s
  | .lifeCycleChangeRequest target => Sys2Proof.Machine.execLifeCycleChangeRequest target s
  | .attestationReport chair nonce => Sys2Proof.Machine.execAttestationReport chair nonce s
  | .thermalShutdown => Sys2Proof.Machine.execThermalShutdown s
  | .clockThrottle khz => Sys2Proof.Machine.execClockThrottle khz s
  | .packageUnreachable pkg => Sys2Proof.Machine.execPackageUnreachable pkg s
  | .linkFailover link => Sys2Proof.Machine.execLinkFailover link s
  | .holdClear chair seq => Sys2Proof.Machine.execHoldClear chair seq s
  | .secondStageTableWrite chair hpa v => Sys2Proof.Machine.execSecondStageTableWrite chair hpa v s
  | .commandQueueOverflow q => Sys2Proof.Machine.execCommandQueueOverflow q s
  | .badEntry q => Sys2Proof.Machine.execBadEntry q s
  | .requestRefused chair n => Sys2Proof.Machine.execRequestRefused chair n s
  | .serviceTrapQueueConsume => Sys2Proof.Machine.execServiceTrapQueueConsume s
  | .l1TlbEntryDrop core n => Sys2Proof.Machine.execL1TlbEntryDrop core n s
  | .decodedBlockEviction core n => Sys2Proof.Machine.execDecodedBlockEviction core n s

end Sys2Proof.Machine
end

