-- ==== Sys2Proof/Machine/Agenda.lean ====
section
/-! DEFINITION. Which act comes next: the head of the agenda, else one enabled act of the package, freely chosen
(log entry 2). -/

namespace Sys2Proof.Machine
open Sys2Proof

/-- Whether an `Instr` is an operation of the device, which has no encoding. -/
def isOperation (i : Instr) : Bool := i.code.isNone

/-- The instruction at a site, decoded from its block's words. -/
def State.instrAt (s : State) (x : Site) : Option Instr :=
  ((s.slot? x.core x.slot).bind (·.inst? x.age)).bind (·.instr x.k)

/-- Priority among complete matches: none that competes for the same station or output path became complete at a higher CTXPRI
(R39, R49). -/
def State.fireMay (s : State) (x : Site) : Bool :=
  let ready := (s.core x.core).ready
  let pri := ((ready.find? fun m => m.slot = x.slot && m.age = x.age && m.k = x.k).map (·.pri)).getD 0
  ready.all fun m => decide (m.pri ≤ pri) || !(decide (m.k = x.k) || Config.samePath m.k x.k)

/-- The acts that a package allows while its service does not run (R386, R387, R394). -/
def bootOnly : Instr → Bool
  | .boot | .networkRecovery _ | .thermalShutdown | .clockThrottle _ | .linkFailover _ => true
  | _ => false

/-- An entry written to the service's own queue; one written after a refused entry stands in its place (R323). -/
def arriveServiceEntry (e : List Word) (s : State) : Out :=
  if s.svcStatus = 0 then .next { s with svcQueue := s.svcQueue ++ [e] }
  else .next { s with svcQueue := e :: s.svcQueue.tail, svcStatus := 0, svcBadk := 0 }

/-- One act: an instruction fires at its site, an operation occurs, or a message arrives. -/
def runAct (x : Agendum) (s : State) : Out :=
  match x with
  | .fire site => need (decide (s.boot = .running) && s.fireMay site) <|
      needSome (s.instrAt site) fun i => exec i { s with site := site }
  | .ev i => need (isOperation i && (decide (s.boot = .running) || bootOnly i)) <| exec i s
  | .request chair m => need (decide (s.boot = .running)) <| arriveRequest chair m s
  | .serviceEntry e => need (decide (s.boot = .running)) <| arriveServiceEntry e s
  | .corrected u loc => need (decide (s.boot = .running)) <| correctError u loc s
  | .forwarded chair p runs priv => need (decide (s.boot = .running)) <| arriveForwarded chair p runs priv s
  | .rangeLoad core r => need (decide (s.boot = .running)) <| loadRange core r s
  | .reserve chair gpa => need (decide (s.boot = .running)) <| reserveArea chair gpa s
  | .wipe a => need (decide (s.boot = .running)) <| wipeFrame a s
  | .management key => need (decide (s.boot ≠ .cold)) <| readManagement key s
  | .defect root step => noteDefect root step s

/-- Block addresses that a front end may predict next for a strand; `any` stands for every other (R29, R30). -/
def predictions (sl : Slot) (t : Strand) (any : Nat) : List Nat :=
  match (sl.instsOf t.uid).getLast? with
  | none => [t.ba.toNat]
  | some i => any :: t.lnk.toNat :: (List.range i.words.length).filterMap fun k =>
      match i.instr k with
      | some (.br f) => some (i.offsAddr f.offs)
      | some (.call f) => some (i.offsAddr f.offs)
      | _ => none

/-- The acts of a slot that the core may take without being asked. -/
def slotActs (core i : Nat) (sl : Slot) (any : Nat) : List Agendum :=
  let ops : List Instr :=
    [.slotRelease core i, .blockFetch core i, .blockMapping core i]
    ++ (sl.forks.flatMap fun r => (List.range 256).map fun n => .iterationStart core i r.idx n)
    ++ (sl.ending.map fun e => .iterationEnd core i e.uid)
    ++ (sl.strands.flatMap fun t => (predictions sl t any).map fun ba => .windowGrant core i t.uid ba)
    ++ (sl.insts.flatMap fun x =>
      [.blockCommit core i x.age, .incompleteBlock core i x.age]
      ++ ((List.range x.faults.length).map fun n => .faultTaken core i x.age n)
      ++ x.waits.flatMap fun w => [.joinSatisfied core i x.age w.k, .redtCollectSatisfied core i x.age w.k,
          .waitcSatisfied core i x.age w.k, .waitgSatisfied core i x.age w.k, .fenceEmission core i x.age w.k])
    ++ ((List.range sl.post.length).map fun n => .storeApplied core i n)
    ++ (List.range 16).flatMap fun row => (List.range 128).map fun n => .quotaSwap core i row n
  ops.map .ev

/-- The acts of an engine command. -/
def engActs (core : Nat) (e : Eng) : List Agendum :=
  [.ev (.seqcRetire core e.id), .ev (.engineCompletion core e.id .finish)] ++ e.todo.map fun k => .ev (.engineCompletion core e.id (.unit k))

/-- The service's answers to a fault that it has recorded (R325). -/
def answers (core slot fid : Nat) : List Agendum := [.ev (.faultAnswer core slot fid true), .ev (.faultAnswer core slot fid false)]

/-- The service's answers to the faults of a core. -/
def coreAnswers (core : Nat) (k : Core) : List Agendum :=
  k.held.flatMap fun h => match h.fid with | some fid => answers core h.slot fid | none => []

/-- The service's answer to the record that it has before it in a chair's queue, withdrawn or not (R325). -/
def queueAnswers (s : State) (c : Chair) : List Agendum :=
  match ringOf c.chfq with
  | none => []
  | some (base, n) =>
    let dw3 := s.hbm.read (base + 64 + 32 * (s.hbm.read (base + 8) 8 % 2 ^ n) + 24) 8
    if s.ringUsed base = 0 then [] else answers (bits dw3 24 8) (bits dw3 22 2) (bits dw3 32 32)

/-- The acts of a core. -/
def coreActs (s : State) (c : Nat) (any : Nat) : List Agendum :=
  let k := s.core c
  let upTo (n : Nat) (f : Nat → Instr) : List Agendum := (List.range n).map fun j => .ev (f j)
  (k.ready.map fun m => .fire ⟨c, m.slot, m.age, m.k⟩)
    ++ ((List.range 4).flatMap fun i => match k.slot? i with | some sl => slotActs c i sl any | none => [])
    ++ upTo k.net.length (.tokenArrival c) ++ upTo k.chest.length (.chestInjection c)
    ++ ((List.range 16).flatMap fun row => (List.range 16).map fun set => .ev (.swap c row set))
    ++ upTo k.held.length (.faultQueueRecord c) ++ upTo k.loads.length (.loadPerformed c)
    ++ upTo k.chainOut.length (.chainArrival c) ++ k.engs.flatMap (engActs c)
    ++ [.ev (.heldCommandIssue c), .ev (.contextSlotTake c)] ++ upTo 256 (.rootAdmission c) ++ coreAnswers c k

/-- The acts of the Bureau on a queue. -/
def queueActs (q : QueueId) : List Agendum :=
  ([.cmdLaunch q, .launchIndirect q, .cmdWait q, .signal q, .loopE q, .ifE q, .barrier q, .tableUpdate q,
    .commandQueueOverflow q, .badEntry q] : List Instr).map .ev

/-- The acts of the Bureau for a chair. -/
def chairActs (s : State) (n : Nat) : List Agendum :=
  let c := s.chair n
  (.ev (.launchAcceptance n) :: (if c.rst then [.ev (.chairReset n)] else []) ++ [.ev (.noticeSend n)])
    ++ queueAnswers s c ++ ((List.range 4).flatMap fun q => queueActs (.chair n q))
    ++ (List.range c.reqs.length).flatMap fun r =>
      ([.reqWrite n r, .reqRead n r, .doorbell n r, .loadRequest n r, .resumeRequest n r, .requestRefused n r] : List Instr).map .ev

/-- Every act that the package may take by itself. -/
def autonomous (s : State) (any : Nat) : List Agendum :=
  match s.boot with
  | .cold => [.ev .boot]
  | .recovery | .stopped => []
  | .running =>
    ((List.range s.cores.length).flatMap fun c => coreActs s c any)
      ++ ((List.range s.chairs.length).flatMap fun n => chairActs s n) ++ queueActs .service
      ++ ((List.range 4).map fun n => .ev (.launchDispatch n))
      ++ (s.launches.flatMap fun l => [.ev (.eviction l.id), .ev (.contextResume l.id)])
      ++ (List.range s.dressers.length).map fun n => .ev (.dresserApplication n)

/-- For how many steps an act has stayed enabled while others went (log entry 80). -/
def State.waited (s : State) (x : Agendum) : Nat := ((s.waiting.find? (·.1 == x)).map (·.2)).getD 0

/-- The one of some acts that has waited longest. -/
def State.longest (s : State) (xs : List (Agendum × State)) : Option (Agendum × State) :=
  xs.foldl (fun best x => match best with
    | some b => if s.waited b.1 < s.waited x.1 then some x else some b
    | none => some x) none

/-- The act that goes next of the enabled ones: a free choice, but that none waits beyond `Config.patience` (R29, R39, R44,
R51, log entry 80). -/
def State.choose (s : State) (pick : Nat) (xs : List (Agendum × State)) : Option (Agendum × State) :=
  match s.longest xs with
  | some b => if Config.patience ≤ s.waited b.1 then some b else xs[pick % xs.length]?
  | none => none

/-- One enabled act of the package; with none enabled nothing happens (R39, R44, R51). -/
def autonomousStep (s : State) : Out :=
  let pick := Config.freeNat s.freeCtr
  let any := Config.freeNat (s.freeCtr + 1) % 2 ^ 60 * 16
  let s' := { s with freeCtr := s.freeCtr + 2 }
  let enabled := (autonomous s any).filterMap fun x => match runAct x s' with | .next t => some (x, t) | _ => none
  match s.choose pick enabled with
  | some (x, t) => .next { t with waiting := (enabled.filter fun y => y.1 != x).map fun y => (y.1, s.waited y.1 + 1) }
  | none => .next s

/-- The next act: the head of the agenda where it is enabled, else one of the package's own. -/
def nextAct (s : State) : Out :=
  match s.agenda with
  | [] => autonomousStep s
  | x :: rest =>
    match runAct x { s with agenda := rest } with
    | .next t => .next t
    | _ => autonomousStep s

/-- The match with every port that an instruction reads filled: INT 0, and INT 1 on P. -/
def filledMatch (i : Instr) : Match :=
  let tok (p : Port) (n : Nat) : Option Tok := if Instr.reads i p then some (some (.int n)) else none
  ⟨0, 0, 0, tok .a 0, tok .b 0, tok .p 1, 0⟩

/-- A slot that holds one strand and one block in flight, of one word. -/
def oneWordSlot (w : Word) : Slot :=
  let l : Launch := ⟨0, 0, 0, 0, [], true, .table 0 0 0 0, [], [], 0, false, false, false, [], 0⟩
  { Slot.taken l [] 0 with
    strands := [Strand.fresh 0 (rootTag 0 0 0) 0 0 true none (List.replicate 32 .zero) (List.replicate 8 { Datum.zero with vec := true })],
    insts := [Inst.fresh 0 0 0 0 0 0 [w]], nextAge := 1, nextUid := 1 }

/-- The machine with one word mapped on slot 0 of core 0, its operands there, and its firing next. -/
def placeWord (s : State) (w : Word) : State :=
  let fill : List Match := match decode w with | .ok (.instr i) => [filledMatch i] | _ => []
  { s with
    boot := .running,
    agenda := .fire ⟨0, 0, 0, 0⟩ :: s.agenda,
    cores := s.cores.modify 0 fun (k : Core) => { k with slots := k.slots.set 0 (some (oneWordSlot w)), ready := fill } }

end Sys2Proof.Machine
end

