-- ==== Sys2Proof/Machine/Step.lean ====
section
/-! DEFINITION. The step. -/

namespace Sys2Proof.Machine

/-- One step: the next act, by the agenda or by the package itself. -/
def step (s : State) : Host.Outcome State Fault Refusal := nextAct s

/-- The machine with an instruction's word mapped, its operands arrived, and its firing the next act. -/
def State.withFetchWord (s : State) (nbits w : Nat) : State :=
  if nbits ≤ 64 then placeWord s (BitVec.ofNat 64 w) else s

end Sys2Proof.Machine
end

