-- ==== Sys2Proof/Safety.lean ====
section
/-! DEFINITION. The terms that statements are made in: what fires and what its ports carry, what a firing leaves as it
is, and the form of memory that every act keeps. -/

namespace Sys2Proof.Machine
open Sys2Proof

/-! ### Firing -/

/-- A match is complete at the site, `c` is what its firing sees, its window word is sound, and its predicate lets it execute
(R36, R37, R316). -/
def State.FiresAny (s : State) (c : Ctx) (pr : Pred) : Prop :=
  s.fireCtx = some c ∧ c.inst.bad.contains c.k = false ∧ predHolds pr c.m.p = true

/-- A firing none of whose ports holds a token of a reserved tag (R36, R37, R79). -/
def State.Fires (s : State) (c : Ctx) (pr : Pred) : Prop := s.FiresAny c pr ∧ c.m.reserved = false

/-- A port carries a token, and its tag is no reserved code (R36, R79). -/
def Carries (t : Option Tok) (d : Datum) : Prop := t = some (some d) ∧ d.fmt.isReserved = false

/-- A port carries a token whose tag is a reserved code (R79). -/
def CarriesReserved (t : Option Tok) : Prop := ∃ d, t = some (some d) ∧ d.fmt.isReserved = true

/-- What a firing leaves when it sends a token to its targets (R7, R100). -/
def Ctx.sent (c : Ctx) (ts : List Target) (tok : Tok) : State := c.s.emit c.core c.slot c.age ts tok

/-- What a firing leaves when it records a fault against its block (R35, R155). -/
def Ctx.faulted (c : Ctx) (f : FaultRec) : State := c.s.record c.core c.slot c.age f

/-- What a firing leaves when it changes its block and sends a token. -/
def Ctx.didSent (c : Ctx) (f : Inst → Inst) (ts : List Target) (tok : Tok) : State := (c.mod f).sent ts tok

/-- An act that waits for the commit of its block (R154). -/
def Inst.queue (k : Nat) (act : KAct) (i : Inst) : Inst := { i with kacts := i.kacts ++ [(k, act)] }

/-- What a firing leaves when it queues an act for the commit of its block and sends a token (R154). -/
def Ctx.queued (c : Ctx) (act : KAct) (ts : List Target) (tok : Tok) : State := c.didSent (Inst.queue c.k act) ts tok

/-- What an exit that fires leaves: the exit is recorded, and a second one raises MULTI_EXIT (R47, R153). -/
def Ctx.exited (c : Ctx) (e : ExitRec) : State :=
  let d := c.mod fun i => { i with exits := i.exits ++ [e] }
  if c.inst.exits = [] then d.s else d.faulted (.plain FC.multiExit)

/-- What a firing leaves that waits before it emits (R50). -/
def Ctx.waiting (c : Ctx) (lsid : Nat) (w : Wait) : State :=
  (c.mod fun i => { i with waits := i.waits ++ [⟨c.k, lsid, w⟩] }).s

/-- The firing with its translation kept (R334). -/
def Ctx.filled (c : Ctx) (e : TlbEntry) : Ctx := { c with s := c.s.fillTlb c.core e }

/-- The firing once what its failed translation consumed is counted (R316, R349). -/
def Ctx.noted (c : Ctx) (e : TransErr) : Ctx := { c with s := c.s.noteTrans e }

/-- What a firing leaves that finds a missing entry: its match is held at the port, and nothing else acts (R197). -/
def Ctx.heldBack (c : Ctx) (stage va lsid : Nat) (wr : Bool) : State :=
  (c.s.perfEvent c.core c.sl.chair 0x07 1).modCore c.core fun k =>
    { k with held := k.held ++ [⟨c.slot, c.age, c.k, none, va, wr, lsid, stage, .fire c.m⟩] }

/-- The firing once a chain message has left for its Dresser (R200). -/
def Ctx.chained (c : Ctx) (lsid : Nat) (t : Triple) (store : Option PStore) (load : Bool) : Ctx :=
  { c with s := c.s.modCore c.core fun k =>
      { k with chainOut := k.chainOut ++ [⟨c.slot, c.age, c.k, lsid, t, store, load⟩] } }

/-- The firing once its access has acted under its LSID (R119). -/
def Ctx.acting (c : Ctx) (lsid : Nat) : Ctx := c.mod fun i => { i with acted := lsid :: i.acted }

/-- The firing once its load is at the core's ports (R191). -/
def Ctx.loading (c : Ctx) (l : PLoad) : Ctx :=
  { c.acting l.lsid with s := (c.acting l.lsid).s.modCore c.core fun k => { k with loads := k.loads ++ [l] } }

/-- The firing once its LSID is satisfied (R46). -/
def Ctx.satisfied (c : Ctx) (lsid : Nat) : Ctx := c.mod fun i => { i with sat := lsid :: i.sat }

/-- The firing once its store waits for commit, its LSID satisfied (R192). -/
def Ctx.storing (c : Ctx) (p : PStore) : Ctx := c.mod fun i => { i with stores := i.stores ++ [p], sat := p.lsid :: i.sat }

/-- What an engine instruction leaves: entry `idx` of the completion queue is pending, or completed at once on a null
port, the command waits for commit, its LSID is satisfied and its handle is sent (R220, R319, R320). -/
def Ctx.commanded (c : Ctx) (i : Instr) (ts : List Target) (lsid : Nat) (a b : Payload) (nul : Bool) (idx : Nat) : State :=
  let (seq, cq) := allocEntry (c.s.core c.core).cq c.slot idx (ts.all (· = .none))
  let cq := if nul then modEntry cq c.slot idx seq (·.complete 0) else cq
  let d : Ctx := { c with s := ({ c.s with freeCtr := c.s.freeCtr + 1 } : State).modCore c.core fun k => { k with cq := cq } }
  ((d.satisfied lsid).mod fun j => { j with engs := j.engs ++ [⟨c.k, lsid, i, a, b, nul, idx, seq⟩] }).sent ts
    (some (.int (engHandle c.sl.chair c.core c.slot idx seq)))

/-- An engine command enters: it takes some free completion entry of its slot. -/
def Enters (o : Out) (c : Ctx) (i : Instr) (ts : List Target) (lsid : Nat) (a b : Payload) (nul : Bool) : Prop :=
  ∃ idx ∈ c.freeEntries, o = .next (c.commanded i ts lsid a b nul idx)

/-- A range of the partition that an access may touch: inside it, and aligned (R188). -/
def Slot.localOk (sl : Slot) (off n al : Nat) : Prop := off + n ≤ sl.partSize ∧ off % al = 0

/-- What a firing finds that fires with its LSID still free (R119). -/
def Ctx.FreeLsid (c : Ctx) (lsid : Nat) : Prop := c.inst.lsidTaken lsid = false

/-- A global access as it fires: what it does where its check passes; else a fault of its block, or, on a missing entry, held
at its port, what its walk consumed counted either way (R189, R196, R197, R349, R407). -/
def GlobalActs (o : Out) (c : Ctx) (nd : Need) (va n lsid : Nat) (does : Nat → Nat → TlbEntry → State) : Prop :=
  (∀ gpa key e, c.check nd va n = .ok (gpa, key, e) → o = .next (does gpa key e)) ∧
  (∀ x, c.check nd va n = .error x → x.stage = none → o = .next ((c.noted x).faulted (.access x.code lsid va))) ∧
  (∀ x st, c.check nd va n = .error x → x.stage = some st →
    o = .next ((c.noted x).heldBack st va lsid (decide (nd = .store))))

/-- A local access as it fires: PROTECTION outside the partition, before ALIGNMENT; FLT is 0 (R188, R296, R407). -/
def LocalActs (o : Out) (c : Ctx) (lsid off n al : Nat) (does : Out → Prop) : Prop :=
  (c.sl.partSize < off + n → o = .next (c.faulted (.access FC.protection lsid 0))) ∧
  (off + n ≤ c.sl.partSize → off % al ≠ 0 → o = .next (c.faulted (.access FC.alignment lsid 0))) ∧
  (c.sl.localOk off n al → does o)

/-- A global load whose LSID is its own: it is at its port, its chain form also on its way to its Dresser (R189, R191, R200). -/
def LoadActs (o : Out) (c : Ctx) (a : Datum) (lsid : Nat) (sc : Scope) (mode : MemMode) (n : Nat) (form : LoadForm) : Prop :=
  let va := effAddr a (MemModeDisp mode)
  let load (gpa key : Nat) (acq : Bool) (ch : Option Triple) : PLoad :=
    ⟨c.slot, c.age, c.k, lsid, false, [⟨va, n, some (gpa, key), none, none⟩], form, acq, sc, ch, []⟩
  (isChain mode = false → GlobalActs o c .load va n lsid fun gpa key e => ((c.filled e).loading (load gpa key (isSync mode) none)).s) ∧
  (∀ l d p, mode = .chain l d → Carries c.m.p p → GlobalActs o c .load va n lsid fun gpa key e =>
    (((c.filled e).loading (load gpa key false (some (tripleOf l p.u64)))).chained lsid (tripleOf l p.u64) none true).s)

/-- A global store whose LSID is its own: it waits in its block, its chain form is on its way to its Dresser; to a package that
cannot be reached it is UNCORRECTABLE (R189, R192, R200, R385). -/
def StoreActs (o : Out) (c : Ctx) (a b : Datum) (lsid : Nat) (sc : Scope) (mode : MemMode) (n : Nat) : Prop :=
  let va := effAddr a (MemModeDisp mode)
  let store (gpa key : Nat) (rel : Bool) : PStore :=
    ⟨c.k, lsid, false, va, n, b.storeBits, none, [], sc, rel, false, some (gpa, key)⟩
  let lost : State := c.faulted (.access FC.uncorrectable lsid va)
  (isChain mode = false → GlobalActs o c .store va n lsid fun gpa key e =>
    if c.s.lost key then lost else ((c.filled e).storing (store gpa key (isSync mode))).s) ∧
  (∀ l d p, mode = .chain l d → Carries c.m.p p → GlobalActs o c .store va n lsid fun gpa key e =>
    if c.s.lost key then lost else ((((c.filled e).satisfied lsid).acting lsid).chained lsid (tripleOf l p.u64)
      (some (store gpa key false)) false).s)

/-- A local load whose LSID is its own (R188, R189). -/
def LocalLoadActs (o : Out) (c : Ctx) (a : Datum) (lsid : Nat) (core : Bool) (disp : BitVec 21) (n : Nat) (form : LoadForm) : Prop :=
  let off := effAddr a disp.toInt
  LocalActs o c lsid off n n fun o => o = .next (c.loading ⟨c.slot, c.age, c.k, lsid, true, [⟨off, n, none, none, none⟩],
    form, false, if core then .core else .strand, none, []⟩).s

/-- A local store whose LSID is its own (R188, R189). -/
def LocalStoreActs (o : Out) (c : Ctx) (a b : Datum) (lsid : Nat) (core : Bool) (disp : BitVec 21) (n : Nat) : Prop :=
  let off := effAddr a disp.toInt
  LocalActs o c lsid off n n fun o => o = .next (c.storing ⟨c.k, lsid, true, off, n, b.storeBits, none, [],
    if core then .core else .strand, false, false, none⟩).s

/-- A CHNOP whose LSID is its own: its triple is on its way with no store (R200). -/
def ChnopActs (o : Out) (c : Ctx) (a : Datum) (f : FChnop) : Prop :=
  o = .next (((c.satisfied f.lsid.toNat).acting f.lsid.toNat).chained f.lsid.toNat (tripleOf f.link a.u64) none false).s

/-- An atomic whose LSID is its own: it waits in its block, and its targets get a null; CAS keeps both its operands (R108,
R118, R204, R385). -/
def AtomicActs (o : Out) (c : Ctx) (a b : Datum) (loc : Bool) (ts : List Target) (lsid : Nat) (sc : Scope) (w : IW) (ord : AmoOrd)
    (op : AmoOp) : Prop :=
  let va := effAddr a 0
  let data : Payload := if op = .cas ∧ b.vec = false then BitVec.ofNat 512 (packLanes w.bits [b.lo, b.lo]) else b.storeBits
  let ws : List Nat := ts.filterMap fun | .wslot n => some n.toNat | _ => none
  let access (ph : Option (Nat × Nat)) : PStore := ⟨c.k, lsid, loc, va, w.bytes, data, some (op, w), ws, sc,
    ord = .rel || ord = .acqrel, ord = .acq || ord = .acqrel, ph⟩
  if loc then LocalActs o c lsid va w.bytes w.bytes fun o => o = .next ((c.storing (access none)).sent ts none)
  else GlobalActs o c .store va w.bytes lsid fun gpa key e =>
    if c.s.lost key then c.faulted (.access FC.uncorrectable lsid va)
    else ((c.filled e).storing (access (some (gpa, key)))).sent ts none

/-- A load of several ranges of `n` bytes, checked as one: the first range that fails decides (R207, R215). -/
def RangesAct (o : Out) (c : Ctx) (vas : List Nat) (n lsid : Nat) (does : List LoadPart → Prop) : Prop :=
  let fits (va : Nat) : Prop := (placeOf (c.check .load va n)).isSome = true
  ((∀ va ∈ vas, fits va) → does (vas.map fun va => ⟨va, n, placeOf (c.check .load va n), none, none⟩)) ∧
  (∀ j < vas.length, (∀ k < j, fits (vas.getD k 0)) → ∀ x, c.check .load (vas.getD j 0) n = .error x →
    (x.stage = none → o = .next ((c.noted x).faulted (.access x.code lsid (vas.getD j 0)))) ∧
    (∀ st, x.stage = some st → o = .next ((c.noted x).heldBack st (vas.getD j 0) lsid false)))

/-- A GATH whose LSID is its own: one element a masked lane of A's addresses, ascending (R207). -/
def GatherActs (o : Out) (c : Ctx) (a : Datum) (f : FGath) : Prop :=
  let lanes := (List.range 8).filter fun i => f.lanes.getLsbD i
  RangesAct o c (lanes.map a.addrLane) f.w.bytes f.lsid.toNat fun parts =>
    o = .next (c.loading ⟨c.slot, c.age, c.k, f.lsid.toNat, false, parts, .gath lanes, false, f.sc, none, []⟩).s

/-- A TFETCH whose LSID is its own: TRANSLATION for an address that is not canonical, ALIGNMENT for one that is no multiple of
16, else sixteen rows in 16-byte pieces, where the core holds fewer than 64 tiles and the lines can be pinned (R215, R216,
R310). -/
def TileActs (o : Out) (c : Ctx) (a : Datum) (f : FTfetch) : Prop :=
  let ea := effAddr a 0
  let rows := (List.range 16).flatMap fun i => (List.range (2 * f.fmt.lane / 16)).map fun j =>
    (ea + i * (f.stride.toNat * 16) + 16 * j) % 2 ^ 64
  (canonical ea = false → o = .next (c.faulted (.access FC.translation f.lsid.toNat ea))) ∧
  (canonical ea = true → ea % 16 ≠ 0 → o = .next (c.faulted (.access FC.alignment f.lsid.toNat ea))) ∧
  (canonical ea = true → ea % 16 = 0 → RangesAct o c rows 16 f.lsid.toNat fun parts =>
    let l : PLoad := ⟨c.slot, c.age, c.k, f.lsid.toNat, false, parts, .tile f.fmt ea (f.stride.toNat * 16), false, f.sc, none, []⟩
    (c.s.core c.core).tileRoom = true → c.s.pinRoom (l.lines c.sl.chair) = true → o = .next (c.loading l).s)

/-- A SEQRD whose LSID is its own: an acquire of one doubleword of the record, where the second stage lets it be read (R277). -/
def SeqrdActs (o : Out) (c : Ctx) (a : Datum) (f : FSeqrd) : Prop :=
  let gpa := bits (c.s.chair c.sl.chair).chseqb.toNat 12 40 * 0x1000 + 64 * a.u64 + 8 * f.dw.toNat
  (∀ key p, stage2 c.s c.sl.chair gpa = .ok (key, p) →
    (p.rd = true → o = .next (c.loading ⟨c.slot, c.age, c.k, f.lsid.toNat, false, [⟨0, 8, some (gpa, key), none, none⟩],
      .seqrd f.dw.toNat, true, f.sc, none, []⟩).s) ∧
    (p.rd = false → o = .next (c.faulted (.access FC.protection f.lsid.toNat 0)))) ∧
  (∀ x, stage2 c.s c.sl.chair gpa = .error x →
    (x.stage = none → o = .next ((c.noted x).faulted (.access x.code f.lsid.toNat 0))) ∧
    (∀ st, x.stage = some st → o = .next ((c.noted x).heldBack st 0 f.lsid.toNat false)))

/-- An engine instruction whose LSID is its own, with operands `a` and `b`: its checks at firing, and its command with what its
ports carry as the instruction reads them (R91, R152, R177, R208, R211, R217, R219, R248). -/
def EngineActs (o : Out) (c : Ctx) (i : Instr) (a b : Datum) : Prop :=
  let one (d : Datum) : Payload := BitVec.ofNat 512 d.u64
  let eight (l : Nat → Nat) : Payload := BitVec.ofNat 512 (packLanes 64 ((List.range 8).map l))
  let desc (t0 t1 : Target) (lsid n al : Nat) (y : Payload) : Prop :=
    LocalActs o c lsid (effAddr a 0) n al fun o => Enters o c i [t0, t1] lsid (one a) y false
  let held (asid : BitVec 16) (lsid : Nat) (enters : Prop) : Prop :=
    (((c.s.chair c.sl.chair).asidIndex asid.toNat).isSome = true → enters) ∧
    (((c.s.chair c.sl.chair).asidIndex asid.toNat).isSome = false → o = .next (c.faulted (.access FC.protection lsid 0)))
  let scatter (t0 t1 : Target) (lsid : Nat) (lanes : BitVec 8) (n : Nat) : Prop :=
    let ok (k : Nat) : Prop := lanes.getLsbD k = true → canonical (a.addrLane k) = true ∧ a.addrLane k % n = 0
    ((∀ k < 8, ok k) → Enters o c i [t0, t1] lsid (eight a.addrLane) (eight (b.bitLane 64)) false) ∧
    (∀ k < 8, (∀ m < k, ok m) → lanes.getLsbD k = true →
      (canonical (a.addrLane k) = false → o = .next (c.faulted (.access FC.translation lsid (a.addrLane k)))) ∧
      (canonical (a.addrLane k) = true → a.addrLane k % n ≠ 0 →
        o = .next (c.faulted (.access FC.alignment lsid (a.addrLane k)))))
  match i with
  | .xcopy f | .xfill f | .xcomp f => desc f.t0 f.t1 f.lsid.toNat 32 32 0
  | .seqc f => desc f.t0 f.t1 f.lsid.toNat 32 32 (one b)
  | .kvapp f => desc f.t0 f.t1 f.lsid.toNat 32 32 (one b)
  | .stap f => desc f.t0 f.t1 f.lsid.toNat 32 32 (one b)
  | .synci f => desc f.t0 f.t1 f.lsid.toNat 16 16 (one b)
  | .bind f => desc f.t0 f.t1 f.lsid.toNat 128 64 0
  | .attn f => desc f.t0 f.t1 f.lsid.toNat 64 64 0
  | .smpl f => desc f.t0 f.t1 f.lsid.toNat 64 64 0
  | .psave f | .prest f => desc f.t0 f.t1 f.lsid.toNat 1040 16 0
  | .unbind f => Enters o c i [f.t0, f.t1] f.lsid.toNat 0 0 false
  | .patch f => Enters o c i [f.t0, f.t1] f.lsid.toNat (one a) 0 false
  | .pstep f => Enters o c i [f.t0, f.t1] f.lsid.toNat (one a) 0 false
  | .pwr f => Enters o c i [f.t0, f.t1] f.lsid.toNat (one a) 0 false
  | .pfeed f => Enters o c i [f.t0, f.t1] f.lsid.toNat (one a) 0 false
  | .pdom f => (a.u64 < 2 → Enters o c i [f.t0, f.t1] f.lsid.toNat (one a) 0 false) ∧
      (2 ≤ a.u64 → o = .next (c.faulted (.plain FC.reservedField)))
  | .launch f => (canonical a.u64 = false → o = .next (c.faulted (.access FC.translation f.lsid.toNat a.u64))) ∧
      (canonical a.u64 = true → a.u64 % 64 ≠ 0 → o = .next (c.faulted (.access FC.alignment f.lsid.toNat a.u64))) ∧
      (canonical a.u64 = true → a.u64 % 64 = 0 → Enters o c i [f.t0, f.t1] f.lsid.toNat (one a) 0 false)
  | .inva f => held f.asid f.lsid.toNat (Enters o c i [f.t0, f.t1] f.lsid.toNat 0 0 false)
  | .invr f => held f.asid f.lsid.toNat (Enters o c i [f.t0, f.t1] f.lsid.toNat (one a) (one b) false)
  | .scat f => scatter f.t0 f.t1 f.lsid.toNat f.lanes f.w.bytes
  | .scata f => scatter f.t0 f.t1 f.lsid.toNat f.lanes f.w.bytes
  | _ => False

/-- The firing with one free value drawn. -/
def Ctx.drawn (c : Ctx) : Ctx := { c with s := { c.s with freeCtr := c.s.freeCtr + 1 } }

/-- An access under an LSID that an access of its block has already: it acts as with nulls, or, where a store waits under that
LSID, in that store's place (R119, log entry 15). -/
def Shares (o : Out) (c : Ctx) (lsid : Nat) (asNull acts : Out → Ctx → Prop) : Prop :=
  c.inst.lsidTaken lsid = true →
    asNull o c.drawn ∨ ((∃ p ∈ c.inst.stores, p.lsid = lsid) ∧
      acts o (c.drawn.mod fun i => { i with stores := i.stores.filter (·.lsid ≠ lsid) }))

/-- The predicate of an instruction; one that has no PR field always executes (R99, R102). -/
def Instr.pr : Instr → Pred
  | .read f => f.pr
  | .mov f | .nullI f | .join f => f.pr
  | .mov4 f => f.pr
  | .limm f => f.pr
  | .orhi f => f.pr
  | .sel _ => .always
  | .br f | .call f => f.pr
  | .bri f | .ret f | .rett f | .endI f => f.pr
  | .trap f => f.pr
  | .csrr f | .csrw f | .csrx f => f.pr
  | .brk f => f.pr
  | .fork f | .spawn f => f.pr
  | .redt f => f.pr
  | .launch f | .kvapp f => f.pr
  | .waitc f => f.pr
  | .teq f | .tne f | .tlt f | .tle f | .tltu f | .tleu f | .add f | .sub f | .mul f | .mulh f => f.pr
  | .mulhu f | .div f | .divu f | .rem f | .remu f | .andI f | .orI f | .xorI f | .andn f | .shl f => f.pr
  | .shr f | .sra f | .rotl f | .min f | .max f | .minu f | .maxu f | .clz f | .ctz f | .popc f => f.pr
  | .abs f | .neg f | .sext f | .zext f | .vperm f | .viadd f | .visub f | .vimul f | .viand f | .vior f => f.pr
  | .vixor f | .vishl f | .vishr f | .visra f => f.pr
  | .teqi f | .tnei f | .tlti f | .tlei f | .tgti f | .tgei f | .tltui f | .tgtui f | .addi f | .muli f => f.pr
  | .andimm f | .orimm f | .xorimm f | .shli f | .shri f | .srai f => f.pr
  | .ftest f => f.pr
  | .agen f => f.pr
  | .cvtif f => f.pr
  | .cvtfi f => f.pr
  | .fadd f | .fsub f | .fmul f | .fdiv f | .fmin f | .fmax f | .vabs f | .vneg f | .vscale f => f.pr
  | .ld f | .lds f => f.pr
  | .st f => f.pr
  | .ldv f => f.pr
  | .stv f => f.pr
  | .ldl f => f.pr
  | .stl f => f.pr
  | .ldvl f => f.pr
  | .stvl f => f.pr
  | .chnop f => f.pr
  | .amo f => f.pr
  | .amol f => f.pr
  | .fence f => f.pr
  | .gath f => f.pr
  | .scat f => f.pr
  | .scata f => f.pr
  | .xcopy f | .xfill f | .xcomp f | .patch f | .seqc f => f.pr
  | .pref f => f.pr
  | .synci f => f.pr
  | .waitg f => f.pr
  | .invr f | .inva f => f.pr
  | .tfetch f => f.pr
  | .vadd f | .vsub f | .vmul f | .vdiv f | .vsqrt f | .vrsq f | .vmin f | .vmax f | .vexp2 f | .vlog2 f => f.pr
  | .vdot f => f.pr
  | .vfma _ | .vfms _ => .always
  | .vcmp f => f.pr
  | .vsel _ => .always
  | .vred f | .vscan f => f.pr
  | .vbcast f | .vext f | .vins f => f.pr
  | .vshuf f => f.pr
  | .vcvt f => f.pr
  | .vimin f | .vimax f => f.pr
  | .vpack f => f.pr
  | .vunpk f => f.pr
  | .vmask f => f.pr
  | .syscfg f | .mma f | .drain f | .sysrel f | .route f => f.pr
  | .wload f => f.pr
  | .tmul f => f.pr
  | .bind f | .unbind f | .attn f => f.pr
  | .pdom f | .pstep f | .psave f | .prest f => f.pr
  | .pwr f => f.pr
  | .prd f | .prdv f => f.pr
  | .pfeed f => f.pr
  | .tapcfg f | .tapst f => f.pr
  | .stap f => f.pr
  | .smpl f => f.pr
  | .seqrd f => f.pr
  | _ => .always

/-- Instructions that answer a null on a port they read as data with null tokens, under R37 as it stands; for a load, in
its plain and acquire modes. Stores, atomics, engine commands, exits and SEL have entries of their own. -/
def Instr.nullsOut : Instr → Bool
  | .mov _ | .mov4 _ | .orhi _ | .csrw _ | .csrx _ | .fork _ | .join _ | .redt _ | .waitc _ | .teq _ | .tne _ | .tlt _ => true
  | .tle _ | .tltu _ | .tleu _ | .teqi _ | .tnei _ | .tlti _ | .tlei _ | .tgti _ | .tgei _ | .tltui _ | .tgtui _ | .ftest _ => true
  | .add _ | .sub _ | .mul _ | .mulh _ | .mulhu _ | .div _ | .divu _ | .rem _ | .remu _ | .andI _ | .orI _ | .xorI _ => true
  | .andn _ | .shl _ | .shr _ | .sra _ | .rotl _ | .min _ | .max _ | .minu _ | .maxu _ | .clz _ | .ctz _ | .popc _ => true
  | .abs _ | .neg _ | .sext _ | .zext _ | .addi _ | .muli _ | .andimm _ | .orimm _ | .xorimm _ | .shli _ | .shri _ | .srai _ => true
  | .agen _ | .cvtif _ | .cvtfi _ | .fadd _ | .fsub _ | .fmul _ | .fdiv _ | .fmin _ | .fmax _ | .ldl _ | .ldvl _ | .gath _ => true
  | .pref _ | .waitg _ | .tfetch _ | .vadd _ | .vsub _ | .vmul _ | .vfma _ | .vfms _ | .vdiv _ | .vsqrt _ | .vrsq _ | .vmin _ => true
  | .vmax _ | .vabs _ | .vneg _ | .vexp2 _ | .vlog2 _ | .vcmp _ | .vsel _ | .vred _ | .vscan _ | .vdot _ | .vbcast _ | .vext _ => true
  | .vins _ | .vperm _ | .vshuf _ | .vcvt _ | .vscale _ | .viadd _ | .visub _ | .vimul _ | .viand _ | .vior _ | .vixor _ | .vishl _ => true
  | .vishr _ | .visra _ | .vimin _ | .vimax _ | .vpack _ | .vunpk _ | .vmask _ | .syscfg _ | .wload _ | .mma _ | .drain _ | .sysrel _ => true
  | .route _ | .tmul _ | .prd _ | .prdv _ | .tapcfg _ | .seqrd _ => true
  | .ld f | .lds f => !isChain f.mode
  | .ldv f => !isChain f.mode
  | _ => false

/-- The format fields of an instruction (R115, R121, R215, R232). -/
def Instr.fmts : Instr → List Fmt
  | .ftest f => [f.fmt]
  | .cvtif f => [f.fmt]
  | .fadd f | .fsub f | .fmul f | .fdiv f | .fmin f | .fmax f | .vabs f | .vneg f | .vscale f => [f.fmt]
  | .tfetch f => [f.fmt]
  | .vadd f | .vsub f | .vmul f | .vdiv f | .vsqrt f | .vrsq f | .vmin f | .vmax f | .vexp2 f | .vlog2 f | .vdot f => [f.fmt]
  | .vfma f | .vfms f => [f.fmt]
  | .vcmp f => [f.fmt]
  | .vred f | .vscan f => [f.fmt]
  | .vcvt f => [f.fmt]
  | .vpack f => [f.fmt]
  | .vunpk f => [f.fmt, f.sf]
  | .syscfg f | .mma f | .drain f | .sysrel f | .route f => [f.fmt]
  | .wload f => [f.fmt]
  | .tmul f => [f.fmt]
  | _ => []

/-- Whether an instruction is a PREF, which never faults (R214). -/
def isPref : Instr → Bool
  | .pref _ => true
  | _ => false

/-- Instructions whose P is a data operand that a null answers with nulls (R102). -/
def readsPData : Instr → Bool
  | .vfma _ | .vfms _ | .vsel _ => true
  | _ => false

/-- The assigned opcodes (R120). -/
def assignedOp (op : Nat) : Bool :=
  [(0x01, 0x13), (0x20, 0x26), (0x30, 0x3E), (0x40, 0x6C), (0x70, 0x89), (0x90, 0xB7), (0xC0, 0xC6), (0xD0, 0xD2),
    (0xD8, 0xE0), (0xE4, 0xE6), (0xE8, 0xEA)].any fun r => decide (r.1 ≤ op) && decide (op ≤ r.2)

/-- The bits that the words of a range of opcodes leave zero, as fields (lowest bit, width): their reserved bits, and the fields
that their entry requires to be zero (R102 to R115, R157 to R277). -/
def reservedFields : List ((Nat × Nat) × List (Nat × Nat)) :=
  [((0x01, 0x01), [(0, 56)]), ((0x02, 0x02), [(0, 24)]), ((0x03, 0x03), [(34, 22), (5, 19)]),
    ((0x04, 0x04), [(0, 34)]), ((0x05, 0x05), [(0, 14)]), ((0x07, 0x07), [(20, 11)]), ((0x08, 0x08), [(0, 34)]),
    ((0x09, 0x09), [(54, 2), (0, 34)]), ((0x0A, 0x0A), [(34, 20)]), ((0x0B, 0x0B), [(34, 20), (0, 31)]),
    ((0x0C, 0x0C), [(34, 20)]), ((0x0D, 0x0D), [(34, 20), (0, 31)]), ((0x0E, 0x0E), [(24, 30)]),
    ((0x0F, 0x0F), [(34, 20), (0, 31)]), ((0x10, 0x12), [(0, 24)]), ((0x13, 0x13), [(0, 54)]),
    ((0x20, 0x21), [(31, 3)]), ((0x22, 0x22), [(34, 20), (0, 31)]), ((0x23, 0x23), [(0, 34)]),
    ((0x24, 0x24), [(0, 24)]), ((0x25, 0x25), [(31, 3), (0, 22)]), ((0x26, 0x26), [(0, 31)]),
    ((0x30, 0x35), [(0, 31)]), ((0x3E, 0x3E), [(10, 21)]), ((0x40, 0x5B), [(0, 31)]),
    ((0x65, 0x65), [(27, 2), (0, 24)]), ((0x66, 0x66), [(27, 2), (0, 26)]), ((0x67, 0x6C), [(0, 31)]),
    ((0x72, 0x72), [(34, 20)]), ((0x74, 0x74), [(34, 20)]), ((0x75, 0x75), [(21, 2)]),
    ((0x76, 0x76), [(34, 20), (21, 2)]), ((0x77, 0x77), [(21, 2)]), ((0x78, 0x78), [(34, 20), (21, 2)]),
    ((0x79, 0x79), [(34, 20), (31, 3), (23, 3), (0, 19)]), ((0x7A, 0x7B), [(0, 17)]),
    ((0x7C, 0x7C), [(31, 3), (0, 21)]), ((0x7D, 0x7D), [(8, 15)]), ((0x7E, 0x7E), [(8, 14)]),
    ((0x7F, 0x7F), [(12, 10)]), ((0x80, 0x82), [(31, 3), (0, 22)]), ((0x83, 0x83), [(31, 3), (21, 5)]),
    ((0x84, 0x84), [(31, 3), (0, 23)]), ((0x85, 0x85), [(31, 3), (21, 2)]), ((0x86, 0x87), [(31, 3), (16, 7)]),
    ((0x88, 0x88), [(12, 11)]), ((0x89, 0x89), [(31, 3), (0, 22)]), ((0x90, 0x92), [(0, 29)]),
    ((0x93, 0x94), [(54, 2), (0, 29)]), ((0x95, 0x99), [(0, 29)]), ((0x9A, 0x9B), [(0, 31)]),
    ((0x9C, 0x9D), [(0, 29)]), ((0x9E, 0x9E), [(29, 2), (0, 24)]), ((0x9F, 0x9F), [(54, 2), (0, 31)]),
    ((0xA0, 0xA1), [(0, 24)]), ((0xA2, 0xA2), [(0, 29)]), ((0xA3, 0xA5), [(29, 2), (0, 24)]),
    ((0xA6, 0xA6), [(0, 31)]), ((0xA7, 0xA7), [(29, 2), (0, 24)]), ((0xA8, 0xA8), [(0, 24)]),
    ((0xA9, 0xB2), [(0, 31)]), ((0xB3, 0xB4), [(29, 2), (0, 24)]), ((0xB5, 0xB5), [(26, 3), (0, 24)]),
    ((0xB6, 0xB6), [(0, 24)]), ((0xB7, 0xB7), [(29, 2), (0, 24)]), ((0xC0, 0xC0), [(0, 17)]),
    ((0xC1, 0xC1), [(0, 24)]), ((0xC2, 0xC5), [(0, 17)]), ((0xC6, 0xC6), [(0, 27)]),
    ((0xD0, 0xD2), [(31, 3), (0, 14)]), ((0xD8, 0xD8), [(31, 3), (0, 22)]), ((0xD9, 0xD9), [(31, 3), (0, 19)]),
    ((0xDA, 0xDA), [(31, 3), (2, 20)]), ((0xDB, 0xDC), [(31, 3), (1, 25)]), ((0xDD, 0xDF), [(31, 3), (0, 19)]),
    ((0xE0, 0xE0), [(31, 3), (10, 9)]), ((0xE4, 0xE4), [(27, 7), (0, 24)]), ((0xE5, 0xE5), [(0, 19)]),
    ((0xE6, 0xE6), [(27, 7), (0, 24)]), ((0xE8, 0xE8), [(31, 3), (0, 21)]), ((0xE9, 0xE9), [(31, 3), (0, 22)]),
    ((0xEA, 0xEA), [(31, 3), (3, 20)])]

/-- The lowest bits of the targets that a word of an opcode has (R98, R103, R105, R109 to R111). -/
def targetFields (op : Nat) : List Nat :=
  if op = 0x05 then [44, 34, 24, 14] else if op = 0x06 then [44]
  else if ([0x01, 0x03, 0x13, 0x22, 0x72, 0x74, 0x76, 0x78, 0x79].contains op || (decide (0x0A ≤ op) && decide (op ≤ 0x0F))) then []
  else [44, 34]

/-- A target of ten bits that is no target: an empty PORT with other bits, or a write slot under another PORT than 01 or beyond
the 32 (R100, R101). -/
def refusedTarget (t : Nat) : Prop :=
  (bits t 8 2 = 0 ∧ bits t 0 8 ≠ 0) ∨ (bit t 7 = true ∧ (bits t 8 2 ≠ 1 ∨ bits t 5 2 ≠ 0))

/-- A word that fails check 4 of R121 by its PR, a target, or a reserved bit (R99, R101). -/
def badFields (w : Word) : Prop :=
  let op := bits w.toNat 56 8
  bits w.toNat 54 2 = 3 ∨ (∃ b ∈ targetFields op, refusedTarget (bits w.toNat b 10)) ∨
  ∃ r ∈ reservedFields, r.1.1 ≤ op ∧ op ≤ r.1.2 ∧ ∃ z ∈ r.2, bits w.toNat z.1 z.2 ≠ 0

/-! ### What a firing leaves as it is -/

/-- A slot without its blocks in flight and its count of chest entries (R241 spills accumulator entries): every register of
every strand, every CSR and tap, the tag pool, fork records, committed stores, grants and counters. -/
def Slot.settled (sl : Slot) : Slot := { sl with insts := [], chestOk := 0, chestHigh := 0 }

/-- An error record without its count of consumed poison, and the alert that this may raise (R350). -/
def ErrRec.settled (e : ErrRec) : ErrRec := { e with ue := 0, alert := false }

/-- A chair without its launch table. -/
def Chair.settled (c : Chair) : Chair := { c with lt := [] }

/-- A core as no firing changes it: without its matches, messages and loads on their way, held faults, completion entries,
translations, arrays, tiles and event counters. What is left is its memory and poison, launch queue, Cabinet, chest, engine
commands, decoded blocks, Palette, swap order, error records and slots, these two settled. -/
def Core.settled (k : Core) : Core :=
  { k with
    cq := [], net := [], ready := [], loads := [], chainOut := [], held := [], tlb := [], ranges := [], roots := [],
    arrays := [], tiles := [], perf := [], errs := k.errs.map ErrRec.settled, slots := k.slots.map (·.map Slot.settled) }

/-- A state as no firing changes it: without the counter of free values, and its chairs, cores and error records settled. What
is left is memory and poison, launches and the arbiter, chains, tables, queues and the service's state, and the life cycle. -/
def State.settled (s : State) : State :=
  { s with
    freeCtr := 0, sliceErrs := s.sliceErrs.map ErrRec.settled, stackErrs := s.stackErrs.map ErrRec.settled,
    chairs := s.chairs.map Chair.settled, cores := s.cores.map Core.settled }

/-- What no firing changes. -/
structure State.FiringKeeps (s t : State) : Prop where
  settled : t.settled = s.settled

/-! ### What an operation leaves -/

/-- A block in flight. -/
def State.block? (s : State) (core slot age : Nat) : Option Inst := (s.slot? core slot).bind (·.inst? age)

/-- Every port among some targets has a token on its way. -/
def State.SentTo (u : State) (core slot age : Nat) (ts : List Target) (tok : Tok) : Prop :=
  ∀ (q : Port) (n : BitVec 7), .port q n ∈ ts → ⟨slot, age, n.toNat, q, tok, false⟩ ∈ (u.core core).net

/-- A token meets nothing of its own slot and port: its block waits for it, and no match of its slot is complete. -/
def Core.Awaits (k : Core) (t : NetTok) (others : List NetTok) : Prop :=
  (∃ sl i, k.slot? t.slot = some sl ∧ sl.inst? t.age = some i ∧ i.dead = false ∧ t.k ∉ i.fired) ∧
  (∀ m ∈ k.ready, ¬(m.slot = t.slot ∧ m.age = t.age ∧ m.k = t.k)) ∧ (∀ e ∈ k.cab ++ others, e.sameKey t = false) ∧
  t.poison = false ∧ ∀ e ∈ k.cab, e.sameSlot t = true → e.poison = false

/-- Whether a set and a context's quota leave a way for a token (R38, R294). -/
abbrev Core.hasWay (k : Core) (t : NetTok) : Prop :=
  (k.inSet t.row (k.tokSet t)).length < 8 ∧ (k.inRow t.slot t.row).length < k.quota t.slot

/-- What a core holds once a token that its block awaits has met its set: a match completed, or an entry more (R36, R38,
R40). -/
def Core.Met (k k' : Core) (t : NetTok) : Prop :=
  (k.completes t = true → k'.ready = k.ready ++ [k.matchOf t] ∧ k'.cab = k.cab.filter fun e => !e.sameSlot t) ∧
  (k.completes t = false → k.hasWay t → k'.ready = k.ready ∧ k'.cab = k.cab ++ [t])

/-- The context of a token has the range of its chest share loaded, with room for an entry or without (R43, R335). -/
def State.ChestHas (s : State) (core slot : Nat) (room : Bool) : Prop :=
  ∃ sl, s.slot? core slot = some sl ∧ (s.core core).ranges.any (·.slot = some slot) = true ∧
    decide ((s.core core).chestUsed slot + 1 ≤ sl.chestOk) = room

/-! ### Commit -/

/-- A block that may commit with the exit `e`: it stands ready, nothing outside delays it, no check finds a fault where its commit
has still to begin, no atomic of it meets poison, its stores have their translations and an LSID each, and no chain access of it is at a Dresser (R45, R46). -/
structure State.Commits (s : State) (core slot : Nat) (sl : Slot) (i : Inst) (t : Strand) (e : ExitRec) : Prop where
  context : s.slot? core slot = some sl
  inst : sl.inst? i.age = some i
  strand : sl.strand? i.uid = some t
  ready : s.commitReady core slot sl i = true
  free : s.commitFree core slot sl i t = true
  sound : i.committing = false → s.commitFaults core slot sl i t = []
  clean : s.amosPoisoned core sl i = []
  exit : i.exits = [e]
  known : ∀ p ∈ i.stores, p.loc = true ∨ p.phys.isSome = true
  apart : ∀ p ∈ i.stores, ∀ q ∈ i.stores, p.lsid = q.lsid → p = q
  chains : s.reservations core slot i.age = []

/-- What the commit of a block leaves, its stores in the committed order `post`: the block is gone, its strand stands at its
exit with its write slots in its registers, or has ended, and its acts have taken effect (R46, R162, R167 to R170). -/
def State.Committed (s u : State) (core slot : Nat) (sl : Slot) (i : Inst) (t : Strand) (e : ExitRec) (post : List Post) : Prop :=
  let act (x : KAct) : Prop := ∃ k < 128, i.kacts = [(k, x)]
  ∃ sl', u.slot? core slot = some sl' ∧ sl'.inst? i.age = none ∧ sl'.post = post ∧
    u.hbm = s.hbm ∧ (∀ c, (u.core c).mem = (s.core c).mem) ∧
    ((∀ k c v, (k, KAct.csr c v) ∉ i.kacts) →
      (∀ t', (i.regsAfter t).exitTo i e = some t' → sl'.strand? i.uid = some t') ∧
      ((i.regsAfter t).exitTo i e = none →
        sl'.strand? i.uid = none ∧ sl'.ending = sl.ending ++ [⟨i.uid, t.fork, t.iter.toNat⟩])) ∧
    (∀ v, act (.csr .trapv v) → sl'.trapv = BitVec.ofNat 64 (v.toNat / 16 * 16)) ∧
    (∀ v, act (.csr .ctxpri v) →
      sl'.ctxpri = BitVec.ofNat 64 (min (v.toNat % 8) (bits (s.chair sl.chair).chctl.toNat 0 3))) ∧
    (∀ v, act (.csr .cabq v) → sl'.cabq = BitVec.ofNat 64 (max 8 (min 128 (v.toNat % 256)))) ∧
    (∀ n v, act (.tapcfg n v) → sl'.taps = sl.taps.set n v ∧ (i.engs = [] → sl'.xcnt = sl.xcnt.set n 0)) ∧
    ∀ n b ba h, n ≠ 0 → act (.fork n b ba h) → ∃ r ∈ sl'.forks, r.handle = h ∧ r.n = n ∧ r.bound = b ∧ r.ba = ba ∧
      r.tag = t.tag ∧ r.priv = t.priv ∧ r.g = (i.regsAfter t).g ∧ r.v = (i.regsAfter t).v ∧ r.creator = i.uid ∧
      r.next = 0 ∧ r.ended = [] ∧ r.joined = []

/-- A context aborted with a code: while its launch has not completed, it stands aborted under that status, and no save
image of it is left (R360). -/
def State.AbortedWith (u : State) (id code : Nat) : Prop :=
  (∀ l ∈ u.launches, l.id = id → l.aborted = true ∧ l.status = code) ∧ ∀ x ∈ u.saves, x.launch ≠ id

/-- The token of a performed load of one range of `n` bytes (R189, R190). -/
def LoadForm.token (f : LoadForm) (n v : Nat) : Tok :=
  some (match f with
    | .sext => .int (sextN v (8 * n))
    | .vector => ⟨.int, true, BitVec.ofNat 512 v, none⟩
    | _ => .int v)

/-- What a range of a load reads at its home or bank, unpoisoned: each byte from the last of the pending stores before it that
covers it, else as a later load that was performed first read it, else from memory (R191, R316). -/
def State.Bytes (s : State) (core : Nat) (sl : Slot) (i : Inst) (lsid : Nat) (loc : Bool) (p : LoadPart) (v : Nat) : Prop :=
  let byte (mem : Nat → Nat) : Nat → Nat := loadByte (sl.priorStores i) (sl.laterReads i lsid) loc mem
  (loc = true ∧ s.poisonedLocal core sl p.va p.bytes = false ∧
    v = gatherBytes (byte fun a => s.readLocal core sl a 1) p.va p.bytes) ∨
  (loc = false ∧ ∃ gpa key, p.phys = some (gpa, key) ∧ s.poisoned key p.bytes = false ∧
    v = gatherBytes (byte fun a => (s.hbm.get a).toNat) key p.bytes)

/-- A range of a load that touches a poisoned word (R316). -/
def State.PoisonedBytes (s : State) (core : Nat) (sl : Slot) (loc : Bool) (p : LoadPart) : Prop :=
  (loc = true ∧ s.poisonedLocal core sl p.va p.bytes = true) ∨
  (loc = false ∧ ∃ gpa key, p.phys = some (gpa, key) ∧ s.poisoned key p.bytes = true)

/-- A slot that may be released: no live strand, no block, no store to apply, no fork with iterations to start, no root
waiting, no chain access, and no engine command of it or of its context's copies to its core left (R23, R171, R304). -/
structure State.MayRelease (s : State) (core slot : Nat) (sl : Slot) : Prop where
  strands : sl.strands = [] ∧ sl.ending = []
  blocks : sl.insts = [] ∧ sl.grants = []
  applied : sl.post = []
  forks : ∀ r ∈ sl.forks, r.n ≤ r.next
  roots : ∀ q ∈ (s.core core).lq, q.launch ≠ sl.launch
  chains : ∀ d ∈ s.dressers, ¬(d.core = core ∧ d.slot = slot)
  engines : ∀ e ∈ (s.core core).engs, e.slot ≠ slot
  copies : ∀ c < s.cores.length, ∀ e ∈ (s.core c).engs, e.namesCore core = true →
    ∀ x, s.slot? c e.slot = some x → x.launch ≠ sl.launch

/-- Whether a held command may issue as the core stands without it: nothing of its strand holds it back, and its unit has room
(R318). -/
def State.heldMay (s : State) (core : Nat) (e : Eng) : Bool :=
  let t := s.dropEng core e
  e.held && (s.slot? core e.slot).any fun sl => t.mayIssue core sl e (t.issueEng core sl e).2

/-! ### The form of memory -/

/-- Every memory is in canonical form: the package's HBM and each core's 256 KiB. -/
def State.MemWf (s : State) : Prop := s.hbm.wf = true ∧ ∀ k ∈ s.cores, k.mem.wf = true

end Sys2Proof.Machine
end

