-- ==== Sys2Proof/Certificates/Slice0/Obligations.lean ====
section
/-! DEFINITION. The statements for the provers: what the rules of the spec say of decoding, of firing each instruction,
of each operation of the device, and of every step. -/

open Sys2Proof Sys2Proof.Machine

/-! ### Values, registers, exits, strands -/

/-- MOV and MOV4 emit A's token unchanged, LIMM its immediate sign-extended, ORHI the upper bits set, NULL a null
token, SEL the token of the port that P chooses, a null there giving null (R160, R161). -/
def Obligations.MovesEmitTheirToken : Prop :=
  ∀ (s : State) (c : Ctx),
    (∀ (f : FP) (a : Datum), s.Fires c f.pr → Carries c.m.a a →
      exec (.mov f) s = .next (c.sent [f.t0, f.t1] (some a))) ∧
    (∀ (f : FMov4) (a : Datum), s.Fires c f.pr → Carries c.m.a a →
      exec (.mov4 f) s = .next (c.sent [f.t0, f.t1, f.t2, f.t3] (some a))) ∧
    (∀ f : FLimm, s.Fires c f.pr →
      exec (.limm f) s = .next (c.sent [f.t0] (some (.int (f.imm.signExtend 64).toNat)))) ∧
    (∀ (f : FOrhi) (a : Datum), s.Fires c f.pr → Carries c.m.a a →
      exec (.orhi f) s = .next (c.sent [f.t0, f.t1]
        (some (.int ((a.u64 &&& (2 ^ 44 - 1)) ||| f.imm.toNat * 2 ^ 44))))) ∧
    (∀ f : FP, s.Fires c f.pr → exec (.nullI f) s = .next (c.sent [f.t0, f.t1] none)) ∧
    (∀ (f : FSel) (p : Datum), s.Fires c .always → Carries c.m.p p →
      let chosen := if p.truth then c.m.a else c.m.b
      (∀ d, Carries chosen d → exec (.sel f) s = .next (c.sent [f.t0, f.t1] (some d))) ∧
      (chosen = some none → exec (.sel f) s = .next (c.sent [f.t0, f.t1] none))) ∧
    (∀ f : FSel, s.Fires c .always → c.m.p = some none → exec (.sel f) s = .next (c.sent [f.t0, f.t1] none))

/-- READ emits the register as it stands once every older block has committed, and its own block's address for BA, where no
older block still has to fix it (R157, R158). CSRR and CSRX emit the CSR once the block is the strand's oldest, CSRW its
operand; CSRW and CSRX write at commit (R166). -/
def Obligations.RegisterReadsAndWritesFire : Prop :=
  ∀ (s : State) (c : Ctx),
    (∀ f : FRead, s.Fires c f.pr → (∀ o ∈ c.sl.olderOf c.inst, o.blocksRead f.reg = false) →
      exec (.read f) s = .next (c.sent [f.t0, f.t1] (some (
        if f.reg = .ba then .int c.inst.ba else ((c.sl.olderOf c.inst).foldl applyWs c.strand).read f.reg)))) ∧
    (∀ f : FCsr, s.Fires c f.pr → c.oldest = true →
      exec (.csrr f) s = .next (c.sent [f.t0, f.t1] (some (.int (csrValue c.sl c.strand f.csr))))) ∧
    (∀ (f : FCsr) (a : Datum), s.Fires c f.pr → Carries c.m.a a →
      exec (.csrw f) s = .next (c.queued (.csr f.csr (BitVec.ofNat 64 a.u64)) [f.t0, f.t1] (some a))) ∧
    (∀ (f : FCsr) (a : Datum), s.Fires c f.pr → Carries c.m.a a → c.oldest = true →
      exec (.csrx f) s = .next (c.queued (.csr f.csr (BitVec.ofNat 64 a.u64)) [f.t0, f.t1]
        (some (.int (csrValue c.sl c.strand f.csr)))))

/-- Exits record where the strand goes: BR and CALL by their offset in 16-byte units, BRI to A's address, aligned to 16
bytes or ALIGNMENT, RET, RETT under a trap in progress or PRIVILEGE, and END (R47, R162, R163, R164). -/
def Obligations.ExitsRecordTheNextBlock : Prop :=
  ∀ (s : State) (c : Ctx),
    (∀ f : FBr, s.Fires c f.pr →
      exec (.br f) s = .next (c.exited (.to (((c.inst.ba : Int) + f.offs.toInt * 16) % 2 ^ 64).toNat)) ∧
      exec (.call f) s = .next (c.exited (.call (((c.inst.ba : Int) + f.offs.toInt * 16) % 2 ^ 64).toNat))) ∧
    (∀ (f : FExit) (a : Datum), s.Fires c f.pr → Carries c.m.a a →
      (a.u64 % 16 = 0 → exec (.bri f) s = .next (c.exited (.to a.u64))) ∧
      (a.u64 % 16 ≠ 0 → exec (.bri f) s = .next (c.faulted (.plain FC.alignment)))) ∧
    (∀ f : FExit, s.Fires c f.pr →
      exec (.ret f) s = .next (c.exited .ret) ∧ exec (.endI f) s = .next (c.exited .endE) ∧
      (c.strand.traps.getLsbD 10 = true → exec (.rett f) s = .next (c.exited .rett)) ∧
      (c.strand.traps.getLsbD 10 = false → exec (.rett f) s = .next (c.faulted (.plain FC.privilege))))

/-- TRAP records SOFTWARE_TRAP with its value, BRK records BREAKPOINT, and neither emits a token (R155, R165). -/
def Obligations.TrapAndBreakRecordTheirFault : Prop :=
  ∀ (s : State) (c : Ctx),
    (∀ f : FTrap, s.Fires c f.pr →
      exec (.trap f) s = .next (c.faulted ⟨FC.softwareTrap, false, 0, 0, f.val.toNat⟩)) ∧
    (∀ f : FPr, s.Fires c f.pr → exec (.brk f) s = .next (c.faulted ⟨FC.breakpoint, false, 0, 0, 0⟩))

/-- FORK emits a handle that no live fork record of the slot bears and queues a fork of n iterations, at most
0xFFFFFFFF, under bound K, 32 where K is 0 or above 32; SPAWN is a FORK of one iteration under bound 1 (R168). -/
def Obligations.ForkEmitsAFreshHandle : Prop :=
  ∀ (s : State) (c : Ctx) (f : FFork), s.Fires c f.pr →
    let entry := (((c.inst.ba : Int) + f.offs.toInt * 16) % 2 ^ 64).toNat
    let d : Ctx := { c with s := { c.s with freeCtr := c.s.freeCtr + 1 } }
    (∀ a b : Datum, Carries c.m.a a → Carries c.m.b b →
      ∃ h, (∀ r ∈ c.sl.forks, r.handle ≠ h) ∧
        exec (.fork f) s = .next (d.queued (.fork (min a.u64 0xFFFFFFFF) (if 1 ≤ b.u64 ∧ b.u64 ≤ 32 then b.u64 else 32)
          entry h) [f.t0, f.t1] (some (.int h)))) ∧
    (∃ h, (∀ r ∈ c.sl.forks, r.handle ≠ h) ∧
      exec (.spawn f) s = .next (d.queued (.fork 1 1 entry h) [f.t0, f.t1] (some (.int h))))

/-- JOIN and a collecting REDT wait on the handle they read; a contributing REDT emits its value and queues it for commit;
WAITC answers at once where its handle names nothing of the chair, or has completed, and waits otherwise; a faulted
completion that REP does not ask for is raised, and its entry is not read by it (R172, R173, R176, R320). -/
def Obligations.StrandWaitsFire : Prop :=
  ∀ (s : State) (c : Ctx) (a : Datum), Carries c.m.a a →
    (∀ f : FP, s.Fires c f.pr → exec (.join f) s = .next (c.waiting 0 (.join a.u64))) ∧
    (∀ f : FRedt, s.Fires c f.pr →
      (f.collect = true → exec (.redt f) s = .next (c.waiting 0 (.collect f.op a.u64))) ∧
      (f.collect = false → exec (.redt f) s = .next (c.queued (.contribute (RedtVal f.op a)) [f.t0, f.t1]
        (some (RedtVal f.op a))))) ∧
    (∀ f : FWaitc, s.Fires c f.pr →
      (c.s.handleState c.sl.chair a.u64 = none →
        (f.report = true → exec (.waitc f) s = .next (c.sent [f.t0, f.t1] (some (.int 2)))) ∧
        (f.report = false → exec (.waitc f) s = .next (c.faulted (.plain FC.reservedField)))) ∧
      (∀ w, c.s.handleState c.sl.chair a.u64 = some (some w) →
        ((f.report = true ∨ w.toNat % 256 = 0) → exec (.waitc f) s =
          .next (({ c with s := c.s.readHandle c.sl.chair a.u64 } : Ctx).sent [f.t0, f.t1] (some (.int w.toNat)))) ∧
        (f.report = false → w.toNat % 256 ≠ 0 → exec (.waitc f) s =
          .next (({ c with s := c.s.settleHandle c.sl.chair a.u64 } : Ctx).faulted (.plain (w.toNat % 256))))) ∧
      (c.s.handleState c.sl.chair a.u64 = some none → exec (.waitc f) s = .next (c.waiting 0 (.waitc a.u64 f.report))))

/-! ### Compares, integers, scalar floating point -/

/-- A compare emits 1 when its relation holds and 0 otherwise, as INT, on signed or unsigned views of width W, an
immediate sign-extended, and reduced to the width for the unsigned and equality forms (R178). -/
def Obligations.ComparesEmitTheirRelation : Prop :=
  ∀ (s : State) (c : Ctx) (a : Datum), Carries c.m.a a →
    (∀ (f : FA) (b : Datum), s.Fires c f.pr → Carries c.m.b b →
      let w := f.w.bits
      let emits (i : Instr) (p : Bool) : Prop := exec i s = .next (c.sent [f.t0, f.t1] (some (.int (if p then 1 else 0))))
      emits (.teq f) (a.uintOf w = b.uintOf w) ∧ emits (.tne f) (a.uintOf w ≠ b.uintOf w) ∧
      emits (.tlt f) (a.sintOf w < b.sintOf w) ∧ emits (.tle f) (a.sintOf w ≤ b.sintOf w) ∧
      emits (.tltu f) (a.uintOf w < b.uintOf w) ∧ emits (.tleu f) (a.uintOf w ≤ b.uintOf w)) ∧
    (∀ f : FI, s.Fires c f.pr →
      let w := f.w.bits
      let i := f.imm.toInt
      let u := (i % 2 ^ w).toNat
      let emits (x : Instr) (p : Bool) : Prop := exec x s = .next (c.sent [f.t0, f.t1] (some (.int (if p then 1 else 0))))
      emits (.teqi f) (a.uintOf w = u) ∧ emits (.tnei f) (a.uintOf w ≠ u) ∧
      emits (.tlti f) (a.sintOf w < i) ∧ emits (.tlei f) (a.sintOf w ≤ i) ∧
      emits (.tgti f) (a.sintOf w > i) ∧ emits (.tgei f) (a.sintOf w ≥ i) ∧
      emits (.tltui f) (a.uintOf w < u) ∧ emits (.tgtui f) (a.uintOf w > u))

/-- The integer family of two operands: the exact value of the table, wrapped to W and sign-extended, with the corner
cases of division by zero and of shift counts modulo the width (R180). -/
def Obligations.IntegerPairsCompute : Prop :=
  ∀ (s : State) (c : Ctx) (f : FA) (a b : Datum), s.Fires c f.pr → Carries c.m.a a → Carries c.m.b b →
    let w := f.w.bits
    let sa := a.sintOf w
    let sb := b.sintOf w
    let ua := a.uintOf w
    let ub := b.uintOf w
    let sh := ub % w
    let emits (i : Instr) (v : Int) : Prop := exec i s = .next (c.sent [f.t0, f.t1] (some (.intResult v w)))
    emits (.add f) (sa + sb) ∧ emits (.sub f) (sa - sb) ∧ emits (.mul f) (sa * sb) ∧
    emits (.mulh f) (sa * sb / 2 ^ w) ∧ emits (.mulhu f) ((ua * ub / 2 ^ w : Nat) : Int) ∧
    emits (.div f) (if sb = 0 then -1 else sa.tdiv sb) ∧
    emits (.divu f) (if ub = 0 then 2 ^ w - 1 else ((ua / ub : Nat) : Int)) ∧
    emits (.rem f) (if sb = 0 then sa else sa.tmod sb) ∧ emits (.remu f) (if ub = 0 then (ua : Int) else ((ua % ub : Nat) : Int)) ∧
    emits (.andI f) ((ua &&& ub : Nat) : Int) ∧ emits (.orI f) ((ua ||| ub : Nat) : Int) ∧
    emits (.xorI f) ((ua ^^^ ub : Nat) : Int) ∧ emits (.andn f) ((ua &&& (2 ^ w - 1 - ub) : Nat) : Int) ∧
    emits (.shl f) ((ua * 2 ^ sh : Nat) : Int) ∧ emits (.shr f) ((ua / 2 ^ sh : Nat) : Int) ∧ emits (.sra f) (sa / 2 ^ sh) ∧
    emits (.rotl f) (((ua * 2 ^ sh + ua / 2 ^ (w - sh)) % 2 ^ w : Nat) : Int) ∧
    emits (.min f) (min sa sb) ∧ emits (.max f) (max sa sb) ∧
    emits (.minu f) ((min ua ub : Nat) : Int) ∧ emits (.maxu f) ((max ua ub : Nat) : Int)

/-- The integer family of one operand and of an immediate (R180): counts of zeros and ones, extensions, and the register
forms on an immediate; ABS and NEG on a floating-point tag change its sign bit alone (R181). -/
def Obligations.IntegerSinglesCompute : Prop :=
  ∀ (s : State) (c : Ctx) (a : Datum), Carries c.m.a a →
    (∀ f : FA, s.Fires c f.pr →
      let w := f.w.bits
      let ua := a.uintOf w
      let emits (i : Instr) (d : Datum) : Prop := exec i s = .next (c.sent [f.t0, f.t1] (some d))
      emits (.clz f) (.intResult (clz w ua) w) ∧ emits (.ctz f) (.intResult (ctz w ua) w) ∧
      emits (.popc f) (.intResult (popc w ua) w) ∧ emits (.sext f) (.intResult (a.sintOf w) w) ∧ emits (.zext f) (.int ua) ∧
      (a.tag = .int → emits (.abs f) (.intResult ((a.sintOf w).natAbs : Int) w) ∧ emits (.neg f) (.intResult (-(a.sintOf w)) w)) ∧
      (a.tag ≠ .int → emits (.abs f) (.scalar a.tag (signOp a.tag true a.elem)) ∧
        emits (.neg f) (.scalar a.tag (signOp a.tag false a.elem)))) ∧
    (∀ f : FI, s.Fires c f.pr →
      let w := f.w.bits
      let sa := a.sintOf w
      let ua := a.uintOf w
      let i := f.imm.toInt
      let u := (i % 2 ^ w).toNat
      let emits (x : Instr) (v : Int) : Prop := exec x s = .next (c.sent [f.t0, f.t1] (some (.intResult v w)))
      emits (.addi f) (sa + i) ∧ emits (.muli f) (sa * i) ∧ emits (.andimm f) ((ua &&& u : Nat) : Int) ∧
      emits (.orimm f) ((ua ||| u : Nat) : Int) ∧ emits (.xorimm f) ((ua ^^^ u : Nat) : Int) ∧
      emits (.shli f) ((ua * 2 ^ (u % w) : Nat) : Int) ∧ emits (.shri f) ((ua / 2 ^ (u % w) : Nat) : Int) ∧
      emits (.srai f) (sa / 2 ^ (u % w)))

/-- AGEN forms an address modulo 2^64, CVTIF rounds an integer once into W, CVTFI rounds to an integer that saturates to
the range of W, and FTEST tests the class of A in W (R179, R182, R184, R185). -/
def Obligations.AddressAndConversionResults : Prop :=
  ∀ (s : State) (c : Ctx) (a : Datum), Carries c.m.a a →
    (∀ (f : FAgen) (b : Datum), s.Fires c f.pr → Carries c.m.b b →
      exec (.agen f) s = .next (c.sent [f.t0, f.t1] (some (.int
        (((a.u64 : Int) + b.sintOf f.w.bits * 2 ^ f.sh.toNat + f.offs.toInt) % 2 ^ 64).toNat)))) ∧
    (∀ f : FCvtif, s.Fires c f.pr → f.fmt.isReserved = false →
      exec (.cvtif f) s = .next (c.sent [f.t0, f.t1] (some (.scalar f.fmt
        ((EV.ofInt (if f.uns then (a.uintOf f.sw.bits : Int) else a.sintOf f.sw.bits)).round f.fmt f.rm))))) ∧
    (∀ f : FCvtfi, s.Fires c f.pr →
      let w := f.w.bits
      (f.uns = true → exec (.cvtfi f) s = .next (c.sent [f.t0, f.t1]
        (some (.int (a.evOf.toInt f.rm 0 (2 ^ w - 1)).toNat)))) ∧
      (f.uns = false → exec (.cvtfi f) s = .next (c.sent [f.t0, f.t1]
        (some (.intResult (a.evOf.toInt f.rm (-2 ^ (w - 1)) (2 ^ (w - 1) - 1)) w))))) ∧
    (∀ f : FFtest, s.Fires c f.pr → f.fmt.isReserved = false →
      exec (.ftest f) s = .next (c.sent [f.t0, f.t1] (some (.int (if f.cls.getLsbD
        (classOf f.fmt (if a.tag = f.fmt then a.elem else a.evOf.round f.fmt .rne)) then 1 else 0)))))

/-- The scalar floating-point family: the exact result of the FP32 values of the operands, rounded once into W, to
nearest even; a reserved W raises FORMAT_RESERVED and nothing is emitted (R79, R183). -/
def Obligations.ScalarFloatRoundsOnce : Prop :=
  ∀ (s : State) (c : Ctx) (f : FF) (a b : Datum), s.Fires c f.pr → Carries c.m.a a → Carries c.m.b b →
    let x := a.evOf
    let y := b.evOf
    let emits (i : Instr) (e : EV) : Prop :=
      (f.fmt.isReserved = false → exec i s = .next (c.sent [f.t0, f.t1] (some (.scalar f.fmt (e.round f.fmt .rne))))) ∧
      (f.fmt.isReserved = true → exec i s = .next (c.faulted (.plain FC.formatReserved)))
    emits (.fadd f) (EV.add .rne x y) ∧ emits (.fsub f) (EV.add .rne x y.negate) ∧ emits (.fmul f) (x.mul y) ∧
    emits (.fdiv f) (x.div y) ∧ emits (.fmin f) (EV.choose false x y) ∧ emits (.fmax f) (EV.choose true x y)

/-! ### Memory, chains, atomics, engine commands -/

/-- LD, LDS and LDV add a load of W or 64 bytes at A plus the displacement, checked and translated as they fire; the
acquire form says so, and the chain form also takes its place in its chain (R107, R186, R189, R191, R197, R407). -/
def Obligations.GlobalLoadsFire : Prop :=
  ∀ (s : State) (c : Ctx) (a : Datum), Carries c.m.a a →
    (∀ f : FLd, s.Fires c f.pr → c.FreeLsid f.lsid.toNat →
      LoadActs (exec (.ld f) s) c a f.lsid.toNat f.sc f.mode f.w.bytes .zext ∧
      LoadActs (exec (.lds f) s) c a f.lsid.toNat f.sc f.mode f.w.bytes .sext) ∧
    ∀ f : FLdv, s.Fires c f.pr → c.FreeLsid f.lsid.toNat → LoadActs (exec (.ldv f) s) c a f.lsid.toNat f.sc f.mode 64 .vector

/-- ST and STV add a store of W or 64 bytes of B at A plus the displacement, checked and translated as they fire; the
release form says so, and the chain form goes to its Dresser instead (R107, R186, R189, R192, R407). CHNOP sends its triple
with no store (R200). -/
def Obligations.GlobalStoresFire : Prop :=
  ∀ (s : State) (c : Ctx) (a : Datum), Carries c.m.a a →
    (∀ (f : FSt) (b : Datum), Carries c.m.b b → s.Fires c f.pr → c.FreeLsid f.lsid.toNat →
      StoreActs (exec (.st f) s) c a b f.lsid.toNat f.sc f.mode f.w.bytes) ∧
    (∀ (f : FStv) (b : Datum), Carries c.m.b b → s.Fires c f.pr → c.FreeLsid f.lsid.toNat →
      StoreActs (exec (.stv f) s) c a b f.lsid.toNat f.sc f.mode 64) ∧
    ∀ f : FChnop, s.Fires c f.pr → c.FreeLsid f.lsid.toNat → ChnopActs (exec (.chnop f) s) c a f

/-- LDL and LDVL load, and STL and STVL store, W or 64 bytes of the partition at A plus the displacement, PROTECTION
outside the partition and ALIGNMENT where the offset is no multiple of the size (R188, R189, R407). -/
def Obligations.LocalAccessesFire : Prop :=
  ∀ (s : State) (c : Ctx) (a : Datum), Carries c.m.a a →
    (∀ f : FLdl, s.Fires c f.pr → c.FreeLsid f.lsid.toNat →
      LocalLoadActs (exec (.ldl f) s) c a f.lsid.toNat f.core f.disp f.w.bytes .zext) ∧
    (∀ f : FLdvl, s.Fires c f.pr → c.FreeLsid f.lsid.toNat →
      LocalLoadActs (exec (.ldvl f) s) c a f.lsid.toNat f.core f.disp 64 .vector) ∧
    ∀ b : Datum, Carries c.m.b b →
      (∀ f : FStl, s.Fires c f.pr → c.FreeLsid f.lsid.toNat →
        LocalStoreActs (exec (.stl f) s) c a b f.lsid.toNat f.core f.disp f.w.bytes) ∧
      (∀ f : FStvl, s.Fires c f.pr → c.FreeLsid f.lsid.toNat →
        LocalStoreActs (exec (.stvl f) s) c a b f.lsid.toNat f.core f.disp 64)

/-- AMO and AMOL check A's address as they fire, keep B's operand for commit, CAS both its operands, send a null to
their targets, and satisfy their LSID (R108, R118, R204). -/
def Obligations.AtomicsFire : Prop :=
  ∀ (s : State) (c : Ctx) (a b : Datum), Carries c.m.a a → Carries c.m.b b →
    (∀ f : FAmo, s.Fires c f.pr → c.FreeLsid f.lsid.toNat →
      AtomicActs (exec (.amo f) s) c a b false [f.t0, f.t1] f.lsid.toNat f.sc f.w f.ord f.op) ∧
    (∀ f : FAmol, s.Fires c f.pr → c.FreeLsid f.lsid.toNat →
      AtomicActs (exec (.amol f) s) c a b true [f.t0, f.t1] f.lsid.toNat (if f.core then .core else .strand) f.w f.ord f.op)

/-- Of two accesses of a block under one LSID exactly one acts, freely: the one that fires second acts as with null operands,
whatever access has acted, or, where a store of the block waits under that LSID, takes that store's place (R119). Which one
may still be undone, and that a losing chain access has its nulls on A and B and not on P, are the model's choice (log
entry 15). -/
def Obligations.SharedLsidActsOnce : Prop :=
  ∀ (s : State) (c : Ctx) (a : Datum), Carries c.m.a a →
    let sentNull (t0 t1 : Target) (o : Out) (d : Ctx) : Prop := o = .next (d.sent [t0, t1] none)
    let done (lsid : Nat) (o : Out) (d : Ctx) : Prop := o = .next (d.satisfied lsid).s
    let load (i : Instr) (pr : Pred) (t0 t1 : Target) (lsid : Nat) (sc : Scope) (mode : MemMode) (n : Nat) (form : LoadForm) : Prop :=
      s.Fires c pr →
        (isChain mode = false → Shares (exec i s) c lsid (sentNull t0 t1) fun o d => LoadActs o d a lsid sc mode n form) ∧
        (∀ l x p, mode = .chain l x → Carries c.m.p p → Shares (exec i s) c lsid
          (fun o d => o = .next (((d.satisfied lsid).chained lsid (tripleOf l p.u64) none false).sent [t0, t1] none))
          fun o d => LoadActs o d a lsid sc mode n form)
    let store (i : Instr) (pr : Pred) (b : Datum) (lsid : Nat) (sc : Scope) (mode : MemMode) (n : Nat) : Prop :=
      s.Fires c pr →
        (isChain mode = false → Shares (exec i s) c lsid (done lsid) fun o d => StoreActs o d a b lsid sc mode n) ∧
        (∀ l x p, mode = .chain l x → Carries c.m.p p → Shares (exec i s) c lsid
          (fun o d => o = .next ((d.satisfied lsid).chained lsid (tripleOf l p.u64) none false).s)
          fun o d => StoreActs o d a b lsid sc mode n)
    let engine (i : Instr) (pr : Pred) (t0 t1 : Target) (lsid : Nat) (b : Datum) : Prop :=
      s.Fires c pr → c.freeEntries ≠ [] →
        Shares (exec i s) c lsid (fun o d => Enters o d i [t0, t1] lsid 0 0 true) fun o d => EngineActs o d i a b
    (∀ f : FLd, load (.ld f) f.pr f.t0 f.t1 f.lsid.toNat f.sc f.mode f.w.bytes .zext ∧
      load (.lds f) f.pr f.t0 f.t1 f.lsid.toNat f.sc f.mode f.w.bytes .sext) ∧
    (∀ f : FLdv, load (.ldv f) f.pr f.t0 f.t1 f.lsid.toNat f.sc f.mode 64 .vector) ∧
    (∀ f : FLdl, s.Fires c f.pr → Shares (exec (.ldl f) s) c f.lsid.toNat (sentNull f.t0 f.t1) fun o d =>
      LocalLoadActs o d a f.lsid.toNat f.core f.disp f.w.bytes .zext) ∧
    (∀ f : FLdvl, s.Fires c f.pr → Shares (exec (.ldvl f) s) c f.lsid.toNat (sentNull f.t0 f.t1) fun o d =>
      LocalLoadActs o d a f.lsid.toNat f.core f.disp 64 .vector) ∧
    (∀ f : FGath, s.Fires c f.pr → Shares (exec (.gath f) s) c f.lsid.toNat (sentNull f.t0 f.t1) fun o d => GatherActs o d a f) ∧
    (∀ f : FTfetch, s.Fires c f.pr → f.fmt.isReserved = false →
      Shares (exec (.tfetch f) s) c f.lsid.toNat (sentNull f.t0 f.t1) fun o d => TileActs o d a f) ∧
    (∀ f : FSeqrd, s.Fires c f.pr → a.u64 < 2 ^ 20 → a.u64 < bits (c.s.chair c.sl.chair).chseqn.toNat 0 21 →
      Shares (exec (.seqrd f) s) c f.lsid.toNat (sentNull f.t0 f.t1) fun o d => SeqrdActs o d a f) ∧
    (∀ f : FChnop, s.Fires c f.pr → Shares (exec (.chnop f) s) c f.lsid.toNat (done f.lsid.toNat) fun o d => ChnopActs o d a f) ∧
    (∀ f : FE, engine (.xcopy f) f.pr f.t0 f.t1 f.lsid.toNat .zero ∧ engine (.xfill f) f.pr f.t0 f.t1 f.lsid.toNat .zero ∧
      engine (.xcomp f) f.pr f.t0 f.t1 f.lsid.toNat .zero ∧ engine (.patch f) f.pr f.t0 f.t1 f.lsid.toNat .zero) ∧
    (∀ f : FFar, engine (.launch f) f.pr f.t0 f.t1 f.lsid.toNat .zero) ∧
    (∀ f : FBnd, engine (.bind f) f.pr f.t0 f.t1 f.lsid.toNat .zero ∧ engine (.unbind f) f.pr f.t0 f.t1 f.lsid.toNat .zero ∧
      engine (.attn f) f.pr f.t0 f.t1 f.lsid.toNat .zero) ∧
    (∀ f : FDom, engine (.pdom f) f.pr f.t0 f.t1 f.lsid.toNat .zero ∧ engine (.pstep f) f.pr f.t0 f.t1 f.lsid.toNat .zero ∧
      engine (.psave f) f.pr f.t0 f.t1 f.lsid.toNat .zero ∧ engine (.prest f) f.pr f.t0 f.t1 f.lsid.toNat .zero) ∧
    (∀ f : FPwr, engine (.pwr f) f.pr f.t0 f.t1 f.lsid.toNat .zero) ∧
    (∀ f : FFeed, engine (.pfeed f) f.pr f.t0 f.t1 f.lsid.toNat .zero) ∧
    (∀ f : FSmpl, engine (.smpl f) f.pr f.t0 f.t1 f.lsid.toNat .zero) ∧
    (∀ f : FInv, engine (.inva f) f.pr f.t0 f.t1 f.lsid.toNat .zero) ∧
    ∀ b : Datum, Carries c.m.b b →
      (∀ f : FSt, store (.st f) f.pr b f.lsid.toNat f.sc f.mode f.w.bytes) ∧
      (∀ f : FStv, store (.stv f) f.pr b f.lsid.toNat f.sc f.mode 64) ∧
      (∀ f : FStl, s.Fires c f.pr → Shares (exec (.stl f) s) c f.lsid.toNat (done f.lsid.toNat) fun o d =>
        LocalStoreActs o d a b f.lsid.toNat f.core f.disp f.w.bytes) ∧
      (∀ f : FStvl, s.Fires c f.pr → Shares (exec (.stvl f) s) c f.lsid.toNat (done f.lsid.toNat) fun o d =>
        LocalStoreActs o d a b f.lsid.toNat f.core f.disp 64) ∧
      (∀ f : FAmo, s.Fires c f.pr → Shares (exec (.amo f) s) c f.lsid.toNat
        (fun o d => o = .next ((d.satisfied f.lsid.toNat).sent [f.t0, f.t1] none)) fun o d =>
        AtomicActs o d a b false [f.t0, f.t1] f.lsid.toNat f.sc f.w f.ord f.op) ∧
      (∀ f : FAmol, s.Fires c f.pr → Shares (exec (.amol f) s) c f.lsid.toNat
        (fun o d => o = .next ((d.satisfied f.lsid.toNat).sent [f.t0, f.t1] none)) fun o d =>
        AtomicActs o d a b true [f.t0, f.t1] f.lsid.toNat (if f.core then .core else .strand) f.w f.ord f.op) ∧
      (∀ f : FE, engine (.seqc f) f.pr f.t0 f.t1 f.lsid.toNat b) ∧
      (∀ f : FFar, engine (.kvapp f) f.pr f.t0 f.t1 f.lsid.toNat b) ∧
      (∀ f : FStap, engine (.stap f) f.pr f.t0 f.t1 f.lsid.toNat b) ∧
      (∀ f : FSynci, engine (.synci f) f.pr f.t0 f.t1 f.lsid.toNat b) ∧
      (∀ f : FInv, engine (.invr f) f.pr f.t0 f.t1 f.lsid.toNat b) ∧
      (∀ f : FScat, engine (.scat f) f.pr f.t0 f.t1 f.lsid.toNat b) ∧
      (∀ f : FScata, engine (.scata f) f.pr f.t0 f.t1 f.lsid.toNat b)

/-- GATH loads one element a masked lane of A's addresses, the lowest that fails a check deciding; TFETCH sixteen rows of a tile
while fewer than 64 tiles live and their lines can be pinned, a reserved format FORMAT_RESERVED; SEQRD a doubleword of the
record of A's sequence as an acquire, RESERVED_FIELD or PROTECTION where there is none; PREF emits 0 and reads nothing,
whatever tag its ports bear (R207, R214, R215, R216, R277, R310). -/
def Obligations.WideLoadsFire : Prop :=
  ∀ (s : State) (c : Ctx) (a : Datum), Carries c.m.a a →
    (∀ f : FGath, s.Fires c f.pr → c.FreeLsid f.lsid.toNat → GatherActs (exec (.gath f) s) c a f) ∧
    (∀ f : FTfetch, s.Fires c f.pr →
      (f.fmt.isReserved = true → exec (.tfetch f) s = .next (c.faulted (.plain FC.formatReserved))) ∧
      (f.fmt.isReserved = false → c.FreeLsid f.lsid.toNat → TileActs (exec (.tfetch f) s) c a f)) ∧
    (∀ f : FSeqrd, s.Fires c f.pr →
      let n := bits (c.s.chair c.sl.chair).chseqn.toNat 0 21
      (2 ^ 20 ≤ a.u64 → exec (.seqrd f) s = .next (c.faulted (.plain FC.reservedField))) ∧
      (a.u64 < 2 ^ 20 → n ≤ a.u64 → exec (.seqrd f) s = .next (c.faulted (.access FC.protection f.lsid.toNat 0))) ∧
      (a.u64 < 2 ^ 20 → a.u64 < n → c.FreeLsid f.lsid.toNat → SeqrdActs (exec (.seqrd f) s) c a f)) ∧
    (∀ f : FPref, s.FiresAny c f.pr → exec (.pref f) s = .next (c.sent [f.t0, f.t1] (some (.int 0))))

/-- FENCE takes its place in program order and waits for its kind; WAITG waits on the sync word at A plus its
displacement for the generation on B, PROTECTION and ALIGNMENT as for any local access (R206, R213). -/
def Obligations.FenceAndGenerationWaitsFire : Prop :=
  ∀ (s : State) (c : Ctx),
    (∀ f : FFence, s.Fires c f.pr →
      exec (.fence f) s = .next ((c.mod fun i => { i with fences := i.fences ++ [⟨f.lsid.toNat, f.kind, f.sc⟩] }).waiting
        f.lsid.toNat (.fence f.kind f.sc))) ∧
    (∀ (f : FWaitg) (a b : Datum), s.Fires c f.pr → Carries c.m.a a → Carries c.m.b b →
      let off := effAddr a f.disp.toInt
      LocalActs (exec (.waitg f) s) c f.lsid.toNat off 16 16 fun o =>
        o = .next (c.waiting f.lsid.toNat (.waitg off (b.u64 % 2 ^ 24) f.sc)))

/-- Engine instructions whose A port is a local descriptor fire where a completion entry is free and the descriptor lies
aligned in the partition, and raise PROTECTION or ALIGNMENT where it does not; the command keeps its 64-bit operands as they
are read (R91, R152, R211, R219, R220, R248, R250, R257, R268, R271, R274, R276). -/
def Obligations.DescriptorCommandsEnter : Prop :=
  ∀ (s : State) (c : Ctx) (a : Datum), Carries c.m.a a → c.freeEntries ≠ [] →
    let desc (i : Instr) (pr : Pred) (lsid : Nat) : Prop :=
      s.Fires c pr → c.FreeLsid lsid → EngineActs (exec i s) c i a .zero
    let descB (i : Instr) (pr : Pred) (lsid : Nat) : Prop :=
      ∀ b, Carries c.m.b b → s.Fires c pr → c.FreeLsid lsid → EngineActs (exec i s) c i a b
    (∀ f : FE, desc (.xcopy f) f.pr f.lsid.toNat ∧ desc (.xfill f) f.pr f.lsid.toNat ∧ desc (.xcomp f) f.pr f.lsid.toNat ∧
      descB (.seqc f) f.pr f.lsid.toNat) ∧
    (∀ f : FFar, descB (.kvapp f) f.pr f.lsid.toNat) ∧
    (∀ f : FBnd, desc (.bind f) f.pr f.lsid.toNat ∧ desc (.attn f) f.pr f.lsid.toNat) ∧
    (∀ f : FDom, desc (.psave f) f.pr f.lsid.toNat ∧ desc (.prest f) f.pr f.lsid.toNat) ∧
    (∀ f : FStap, descB (.stap f) f.pr f.lsid.toNat) ∧
    (∀ f : FSmpl, desc (.smpl f) f.pr f.lsid.toNat) ∧
    (∀ f : FSynci, descB (.synci f) f.pr f.lsid.toNat)

/-- Engine instructions with no local descriptor fire where a completion entry is free and their operands pass their
checks: lanes that are canonical and aligned, an ASID that the chair holds, an aligned packet, a control word of one bit;
a scalar that a scatter reads is broadcast to its eight lanes (R91, R177, R208, R217, R220, R252, R262, R263, R264, R265). -/
def Obligations.PlainCommandsEnter : Prop :=
  ∀ (s : State) (c : Ctx), c.freeEntries ≠ [] →
    let enters (i : Instr) (pr : Pred) (lsid : Nat) (a b : Datum) : Prop :=
      s.Fires c pr → c.FreeLsid lsid → EngineActs (exec i s) c i a b
    (∀ f : FInv, enters (.inva f) f.pr f.lsid.toNat .zero .zero) ∧
    (∀ f : FBnd, enters (.unbind f) f.pr f.lsid.toNat .zero .zero) ∧
    (∀ a : Datum, Carries c.m.a a →
      (∀ f : FE, enters (.patch f) f.pr f.lsid.toNat a .zero) ∧
      (∀ f : FDom, enters (.pstep f) f.pr f.lsid.toNat a .zero ∧ enters (.pdom f) f.pr f.lsid.toNat a .zero) ∧
      (∀ f : FPwr, enters (.pwr f) f.pr f.lsid.toNat a .zero) ∧
      (∀ f : FFeed, enters (.pfeed f) f.pr f.lsid.toNat a .zero) ∧
      (∀ f : FFar, enters (.launch f) f.pr f.lsid.toNat a .zero) ∧
      (∀ b : Datum, Carries c.m.b b →
        (∀ f : FScat, enters (.scat f) f.pr f.lsid.toNat a b) ∧
        (∀ f : FScata, enters (.scata f) f.pr f.lsid.toNat a b) ∧
        (∀ f : FInv, enters (.invr f) f.pr f.lsid.toNat a b)))

/-- PRD and PRDV read wells of a domain that the slot owns, once the block is the strand's oldest and the domain's queue
is empty, no PATCH that might be for it held back; a well number out of range is RESERVED_FIELD, a domain of another slot PROTECTION (R261, R267). TAPCFG checks its
grant word and queues it; TAPST reads the tap and its count (R270). -/
def Obligations.WellAndTapReadsFire : Prop :=
  ∀ (s : State) (c : Ctx),
    (∀ (f : FPrd) (a : Datum), s.Fires c f.pr → Carries c.m.a a →
      let dom := (c.s.core c.core).palette.getD (a.u64 / 64) .reset
      let well (k : Nat) : Well := dom.wells.getD (a.u64 % 64 + k) .reset
      let idle : Prop := c.oldest = true ∧
        ∀ e ∈ (c.s.core c.core).engs, e.onDomain (a.u64 / 64) = false ∧ e.domainOpen = false
      (512 ≤ a.u64 → exec (.prd f) s = .next (c.faulted (.plain FC.reservedField))) ∧
      (a.u64 < 512 → idle → dom.owner ≠ some c.slot →
        exec (.prd f) s = .next (c.faulted (.access FC.protection f.lsid.toNat 0))) ∧
      (a.u64 < 512 → idle → dom.owner = some c.slot →
        exec (.prd f) s = .next (c.sent [f.t0, f.t1]
          (some (.int (if f.alt then (well 0).res else ((well 0).y % 2 ^ 64).toNat))))) ∧
      (512 ≤ a.u64 ∨ a.u64 % 16 ≠ 0 → exec (.prdv f) s = .next (c.faulted (.plain FC.reservedField))) ∧
      (a.u64 < 512 → a.u64 % 16 = 0 → idle → dom.owner = some c.slot →
        exec (.prdv f) s = .next (c.sent [f.t0, f.t1] (some (
          if f.alt then .vector .fp32 32 ((List.range 16).map fun k =>
            (EV.scaled (decide ((well k).y < 0)) (well k).y.natAbs (-((well k).mw : Int))).round .fp32 .rne)
          else .vector .int 32 ((List.range 16).map fun k =>
            (max (-2 ^ 31) (min (2 ^ 31 - 1) (well k).y) % 2 ^ 32).toNat)))))) ∧
    (∀ (f : FTap) (a : Datum), s.Fires c f.pr → Carries c.m.a a →
      (bits a.u64 32 32 = 0 → bits a.u64 2 2 ≠ 3 →
        exec (.tapcfg f) s = .next (c.queued (.tapcfg f.tap.toNat (BitVec.ofNat 64 a.u64)) [f.t0, f.t1] (some a))) ∧
      (bits a.u64 32 32 ≠ 0 ∨ bits a.u64 2 2 = 3 → exec (.tapcfg f) s = .next (c.faulted (.plain FC.reservedField)))) ∧
    (∀ f : FTap, s.Fires c f.pr → c.oldest = true →
      exec (.tapst f) s = .next (c.sent [f.t0, f.t1] (some (.int
        ((c.sl.taps.getD f.tap.toNat 0).toNat % 2 ^ 32 + c.sl.xcnt.getD f.tap.toNat 0 * 2 ^ 32)))))

/-! ### Vectors and systolic arrays -/

/-- The element-wise floating-point family: sixteen lanes, each the exact result of the operands' lanes rounded once into
W under RM, VFMA and VFMS with the one rounding of their sum; VABS and VNEG change sign bits alone; VSCALE quantises with a
scale or applies one; a reserved W raises FORMAT_RESERVED (R79, R90, R222, R225, R226, R233). -/
def Obligations.VectorFloatLanesRoundOnce : Prop :=
  ∀ (s : State) (c : Ctx) (a : Datum), Carries c.m.a a →
    let emits (i : Instr) (f : Fmt) (ts : List Target) (d : Datum) : Prop :=
      (f.isReserved = false → exec i s = .next (c.sent ts (some d))) ∧
      (f.isReserved = true → exec i s = .next (c.faulted (.plain FC.formatReserved)))
    (∀ f : FV, s.Fires c f.pr →
      let one (i : Instr) (op : EV → EV) : Prop := emits i f.fmt [f.t0, f.t1] (.fpVector f.fmt f.rm fun j => op (a.evLane j))
      one (.vsqrt f) EV.sqrt ∧ one (.vrsq f) EV.rsqrt ∧ one (.vexp2 f) EV.exp2 ∧ one (.vlog2 f) EV.log2) ∧
    (∀ (f : FV) (b : Datum), s.Fires c f.pr → Carries c.m.b b →
      let two (i : Instr) (op : EV → EV → EV) : Prop :=
        emits i f.fmt [f.t0, f.t1] (.fpVector f.fmt f.rm fun j => op (a.evLane j) (b.evLane j))
      two (.vadd f) (EV.add f.rm) ∧ two (.vsub f) (fun x y => EV.add f.rm x y.negate) ∧ two (.vmul f) EV.mul ∧
      two (.vdiv f) EV.div ∧ two (.vmin f) (EV.choose false) ∧ two (.vmax f) (EV.choose true)) ∧
    (∀ (f : FV3) (b p : Datum), s.Fires c .always → Carries c.m.b b → Carries c.m.p p →
      emits (.vfma f) f.fmt [f.t0, f.t1]
        (.fpVector f.fmt f.rm fun j => EV.add f.rm ((a.evLane j).mul (b.evLane j)) (p.evLane j)) ∧
      emits (.vfms f) f.fmt [f.t0, f.t1]
        (.fpVector f.fmt f.rm fun j => EV.add f.rm ((a.evLane j).mul (b.evLane j)) (p.evLane j).negate)) ∧
    (∀ f : FF, s.Fires c f.pr →
      let w := f.fmt.lane
      let sign (abs : Bool) : Datum :=
        if a.tag = f.fmt then
          .vector f.fmt w ((List.range (512 / w)).map fun i => signOp f.fmt abs (a.lane w (if a.vec then i else 0)))
        else .vector f.fmt w ((List.range 16).map fun i => signOp f.fmt abs ((a.evLane i).round f.fmt .rne))
      emits (.vabs f) f.fmt [f.t0, f.t1] (sign true) ∧ emits (.vneg f) f.fmt [f.t0, f.t1] (sign false)) ∧
    (∀ (f : FF) (b : Datum), s.Fires c f.pr → Carries c.m.b b →
      (f.fmt = .fp32 → emits (.vscale f) f.fmt [f.t0, f.t1] (.fpVector .fp32 .rne fun i => (a.evLane i).mul (b.evLane 0))) ∧
      (f.fmt ≠ .fp32 →
        let q := Datum.fpVector f.fmt .rne fun i => (a.evLane i).div (b.evLane 0)
        emits (.vscale f) f.fmt [f.t0, f.t1]
          { q with bits := q.bits + BitVec.ofNat 512 ((b.evLane 0).round .fp32 .rne * 2 ^ 480) }))

/-- VCMP emits sixteen relation bits and VMASK a bit a lane, as INT scalars; VRED and VDOT reduce lanes by the pairwise
tree, VSCAN by its aligned runs, each node in FP32, and round once into W (R222, R227, R228, R229). -/
def Obligations.VectorComparesAndReductions : Prop :=
  ∀ (s : State) (c : Ctx) (a : Datum), Carries c.m.a a →
    (∀ (f : FVcmp) (b : Datum), s.Fires c f.pr → Carries c.m.b b → f.fmt.isReserved = false →
      exec (.vcmp f) s = .next (c.sent [f.t0, f.t1] (some (.int (packLanes 1 ((List.range 16).map fun i =>
        if relHolds f.cc (a.evLane i) (b.evLane i) then 1 else 0)))))) ∧
    (∀ f : FVmask, s.Fires c f.pr →
      let w := f.w.bits
      let bitOf (x : Nat) : Bool := match f.cond with | .nonzero => x ≠ 0 | .sign => bit x (w - 1) | .zero => x = 0
      exec (.vmask f) s = .next (c.sent [f.t0, f.t1] (some (.int (packLanes 1 ((List.range f.w.lanes).map fun i =>
        if bitOf (a.bitLane w i) then 1 else 0)))))) ∧
    (∀ f : FVred, s.Fires c f.pr → f.fmt.isReserved = false →
      let node (x y : EV) : EV := match f.op with
        | .add => (EV.add f.rm x y).rnd32 f.rm
        | .min => EV.choose false x y
        | .max => EV.choose true x y
      exec (.vred f) s = .next (c.sent [f.t0, f.t1] (some (.scalar f.fmt ((pairwise a.evLane node 4 0).round f.fmt f.rm)))) ∧
      exec (.vscan f) s = .next (c.sent [f.t0, f.t1]
        (some (.fpVector f.fmt f.rm fun i => alignedPrefix a.evLane node i)))) ∧
    (∀ (f : FV) (b : Datum), s.Fires c f.pr → Carries c.m.b b → f.fmt.isReserved = false →
      let add (x y : EV) : EV := (EV.add f.rm x y).rnd32 f.rm
      let prod (k : Nat) : EV := (a.evLane k).mul (b.evLane k)
      exec (.vdot f) s = .next (c.sent [f.t0, f.t1] (some (.scalar f.fmt
        ((pairwise (fun k => add (prod (2 * k)) (prod (2 * k + 1))) add 3 0).round f.fmt f.rm)))))

/-- Moves of lanes bear A's tag: VSEL by the mask on P, VBCAST, VINS, VPERM modulo the lane count, VSHUF by rotation or
reversal, and VEXT to a scalar (R223, R228, R230). VCVT, VPACK and VUNPK convert lanes with one rounding into W, keep B's
other lanes, or re-read a group; a bit-cast changes the tag alone (R231, R232). -/
def Obligations.VectorMovesAndConversions : Prop :=
  ∀ (s : State) (c : Ctx) (a : Datum), Carries c.m.a a →
    let lanes (w : IW) (src : Nat → Nat) : Datum := .vector a.tag w.bits ((List.range w.lanes).map src)
    (∀ (f : FVsel) (b p : Datum), s.Fires c .always → Carries c.m.b b → Carries c.m.p p →
      exec (.vsel f) s = .next (c.sent [f.t0, f.t1] (some (lanes f.w fun i =>
        if bit p.lo i then a.bitLane f.w.bits i else b.bitLane f.w.bits i)))) ∧
    (∀ f : FVx, s.Fires c f.pr →
      exec (.vbcast f) s = .next (c.sent [f.t0, f.t1] (some (lanes f.w fun _ => a.bitLane f.w.bits f.x.toNat))) ∧
      exec (.vext f) s = .next (c.sent [f.t0, f.t1] (some (
        if a.tag = .int then .int (sextN (a.bitLane f.w.bits f.x.toNat) f.w.bits)
        else .scalar a.tag (a.bitLane f.w.bits f.x.toNat))))) ∧
    (∀ (f : FVx) (b : Datum), s.Fires c f.pr → Carries c.m.b b →
      exec (.vins f) s = .next (c.sent [f.t0, f.t1] (some (lanes f.w fun i =>
        if i = f.x.toNat then b.lane f.w.bits 0 else a.bitLane f.w.bits i)))) ∧
    (∀ (f : FA) (b : Datum), s.Fires c f.pr → Carries c.m.b b →
      exec (.vperm f) s = .next (c.sent [f.t0, f.t1] (some (lanes f.w fun i =>
        a.bitLane f.w.bits (b.bitLane f.w.bits i % f.w.lanes))))) ∧
    (∀ f : FVshuf, s.Fires c f.pr →
      (∀ k, f.form = .rotate k → exec (.vshuf f) s = .next (c.sent [f.t0, f.t1]
        (some (lanes f.w fun i => a.bitLane f.w.bits ((i + k.toNat) % f.w.lanes))))) ∧
      (f.form = .reverse → exec (.vshuf f) s = .next (c.sent [f.t0, f.t1]
        (some (lanes f.w fun i => a.bitLane f.w.bits (f.w.lanes - 1 - i)))))) ∧
    (∀ f : FVcvt, s.Fires c f.pr → f.fmt.isReserved = false →
      let emits (d : Datum) : Prop := exec (.vcvt f) s = .next (c.sent [f.t0, f.t1] (some d))
      (f.form = .value → emits (.fpVector f.fmt f.rm a.evLane)) ∧
      (f.form = .fromInt → emits (.fpVector f.fmt f.rm fun i => EV.ofInt (sint (a.bitLane 32 i) 32))) ∧
      (f.form = .toInt → emits (.vector .int 32 ((List.range 16).map fun i =>
        ((a.evLane i).toInt f.rm (-2 ^ 31) (2 ^ 31 - 1) % 2 ^ 32).toNat))) ∧
      (f.form = .bitCast → emits { a with fmt := f.fmt, tile := none })) ∧
    (∀ (f : FVpack) (b : Datum), s.Fires c f.pr → Carries c.m.b b → f.fmt.isReserved = false →
      let w := f.fmt.lane
      let q := 16 * f.q.toNat
      exec (.vpack f) s = .next (c.sent [f.t0, f.t1] (some (.vector f.fmt w ((List.range (512 / w)).map fun i =>
        if q ≤ i ∧ i < q + 16 then (a.evLane (i - q)).round f.fmt f.rm
        else bits (if b.vec then b.bits.toNat else b.lo) (w * i) w))))) ∧
    (∀ f : FVunpk, s.Fires c f.pr → f.fmt.isReserved = false → f.sf.isReserved = false →
      let w := f.sf.lane
      exec (.vunpk f) s = .next (c.sent [f.t0, f.t1] (some (.fpVector f.fmt f.rm fun i =>
        f.sf.decode (bits (if a.vec then a.bits.toNat else a.lo) (w * (16 * f.q.toNat + i)) w)))))

/-- The vector integer family: every lane of width W, wrapped, shift counts modulo W, VIMIN and VIMAX on the views that U
chooses (R234). -/
def Obligations.VectorIntegerLanesWrap : Prop :=
  ∀ (s : State) (c : Ctx) (a b : Datum), Carries c.m.a a → Carries c.m.b b →
    let emits (i : Instr) (ts : List Target) (w : IW) (op : (a b : Nat) → Int) : Prop :=
      exec i s = .next (c.sent ts (some (.vector .int w.bits ((List.range w.lanes).map fun j =>
        (op (a.bitLane w.bits j) (b.bitLane w.bits j) % 2 ^ w.bits).toNat))))
    (∀ f : FA, s.Fires c f.pr →
      let w := f.w.bits
      let lanes (i : Instr) (op : (a b : Nat) → Int) : Prop := emits i [f.t0, f.t1] f.w op
      lanes (.viadd f) (fun x y => (x : Int) + y) ∧ lanes (.visub f) (fun x y => (x : Int) - y) ∧
      lanes (.vimul f) (fun x y => (x : Int) * y) ∧ lanes (.viand f) (fun x y => ((x &&& y : Nat) : Int)) ∧
      lanes (.vior f) (fun x y => ((x ||| y : Nat) : Int)) ∧ lanes (.vixor f) (fun x y => ((x ^^^ y : Nat) : Int)) ∧
      lanes (.vishl f) (fun x y => ((x * 2 ^ (y % w) : Nat) : Int)) ∧
      lanes (.vishr f) (fun x y => ((x / 2 ^ (y % w) : Nat) : Int)) ∧ lanes (.visra f) (fun x y => sint x w / 2 ^ (y % w))) ∧
    (∀ f : FVmm, s.Fires c f.pr →
      let w := f.w.bits
      emits (.vimin f) [f.t0, f.t1] f.w (fun x y => if f.uns then min (x : Int) y else min (sint x w) (sint y w)) ∧
      emits (.vimax f) [f.t0, f.t1] f.w (fun x y => if f.uns then max (x : Int) y else max (sint x w) (sint y w)))

/-- SYSCFG, WLOAD, ROUTE and SYSREL emit, and act at commit; TMUL, at a station of no array, multiplies one row by a tile and
rounds each exact sum once; a reserved W raises FORMAT_RESERVED (R79, R236 to R239, R243, R245). -/
def Obligations.SystolicConfigurationAndTmulFire : Prop :=
  ∀ (s : State) (c : Ctx) (a : Datum), Carries c.m.a a →
    let fault (i : Instr) (code : Nat) : Prop := exec i s = .next (c.faulted (.plain code))
    (∀ f : FT, s.Fires c f.pr →
      (f.fmt.isReserved = true → fault (.syscfg f) FC.formatReserved ∧ fault (.route f) FC.formatReserved ∧
        fault (.sysrel f) FC.formatReserved) ∧
      (f.fmt.isReserved = false →
        (a.u64 < 2 ^ 32 → exec (.syscfg f) s = .next (c.queued (.syscfg f a.u64) [f.t0, f.t1] (some (.int 0)))) ∧
        (2 ^ 32 ≤ a.u64 → fault (.syscfg f) FC.reservedField) ∧
        (a.u64 < 2 ^ 24 → exec (.route f) s = .next (c.queued (.route f a.u64) [f.t0, f.t1] (some (.int (a.u64 % 16))))) ∧
        (2 ^ 24 ≤ a.u64 → fault (.route f) FC.reservedField) ∧
        exec (.sysrel f) s = .next (c.queued (.sysrel f) [f.t0, f.t1] (some (.int 0))))) ∧
    (∀ f : FWload, s.Fires c f.pr →
      (f.fmt.isReserved = true → fault (.wload f) FC.formatReserved) ∧
      (f.fmt.isReserved = false → (c.s.core c.core).tileOf a = none → fault (.wload f) FC.reservedField) ∧
      (f.fmt.isReserved = false → ∀ t, (c.s.core c.core).tileOf a = some t →
        exec (.wload f) s = .next (c.queued (.wload f t.id) [f.t0, f.t1] (some (.int 0))))) ∧
    (∀ (f : FTmul) (b : Datum), s.Fires c f.pr → Carries c.m.b b → f.fmt.isReserved = true →
      fault (.tmul f) FC.formatReserved) ∧
    (∀ (f : FTmul) (b : Datum), s.Fires c f.pr → Carries c.m.b b → f.fmt.isReserved = false →
      (∀ x ∈ (c.s.core c.core).arrays, inRect x.row0 x.col0 x.nrow x.ncol (c.k / 8) (c.k % 8) = false) →
      (∀ t, (c.s.core c.core).tileOf b = some t →
        ((c.s.core c.core).tileOf a = none → f.row0 ≠ 0 → fault (.tmul f) FC.reservedField) ∧
        ((c.s.core c.core).tileOf a = none → f.row0 = 0 →
          exec (.tmul f) s = .next (c.sent [f.t0, f.t1] (some (.fpVector f.fmt .rne fun j =>
            EV.sum .rne ((List.range 16).map fun i => (a.evLane i).mul (t.fmt.decode (t.elems.getD (16 * i + j) 0))))))) ∧
        (∀ x, (c.s.core c.core).tileOf a = some x →
          exec (.tmul f) s = .next (c.sent [f.t0, f.t1] (some (.fpVector f.fmt .rne fun j =>
            EV.sum .rne ((List.range 16).map fun i => (x.fmt.decode (x.elems.getD (16 * f.row0.toNat + i) 0)).mul
              (t.fmt.decode (t.elems.getD (16 * i + j) 0)))))))) ∧
      ((c.s.core c.core).tileOf b = none → fault (.tmul f) FC.reservedField))

/-- MMA feeds one column of an array of its slot with a row, or with the sixteen rows of a tile, and emits 0; a word that
names no column of an array, once its block is the oldest, is RESERVED_FIELD, as is a second feed of a column or one
of the other shape. DRAIN sends one row of an entry whose rows are complete, as a vector or, where tiles were fed and the core has
room for one more, as a tile, also to the targets of its route, which are checked as R101 says (R101, R240, R241, R242,
R244). That MMA and DRAIN act on the array as it stands when they fire is the model's reading (log entry 65). -/
def Obligations.SystolicFeedAndDrainFire : Prop :=
  ∀ (s : State) (c : Ctx) (f : FT) (a : Datum), s.Fires c f.pr → Carries c.m.a a → f.fmt.isReserved = false →
    (c.array? (FT.isColumn f) = none → c.oldest = true → exec (.mma f) s = .next (c.faulted (.plain FC.reservedField))) ∧
    (∀ arr, c.array? (FT.isColumn f) = some arr →
      let acc := (arr.accs.find? (·.age = c.age)).getD ⟨c.age, [], [], .rows, []⟩
      let tile := (c.s.core c.core).tileOf a
      ((∃ x ∈ acc.feeds, x.col = f.col0.toNat - arr.col0 ∨ x.tile ≠ tile.isSome) →
        exec (.mma f) s = .next (c.faulted (.plain FC.reservedField))) ∧
      ((∀ x ∈ acc.feeds, x.col ≠ f.col0.toNat - arr.col0 ∧ x.tile = tile.isSome) →
        let fed := { acc with feeds := acc.feeds ++ [c.feed arr a (f.col0.toNat - arr.col0)] }
        let d := (c.s.modArray c.core arr fun x => { x with accs := fed :: x.accs.filter (·.age ≠ c.age) }).admitRows
          c.core c.slot arr.row0 arr.col0
        exec (.mma f) s = .next (({ c with s := d } : Ctx).sent [f.t0, f.t1] (some (.int 0))))) ∧
    (c.array? (FT.isRow f) = none → c.oldest = true → exec (.drain f) s = .next (c.faulted (.plain FC.reservedField))) ∧
    (∀ arr acc, c.array? (FT.isRow f) = some arr → arr.accs.find? (·.age = c.age) = some acc → arr.complete acc = true →
      acc.place = .entry →
      let r := f.row0.toNat - arr.row0
      let rt := arr.routes.getD (a.u64 % 16) (0, 0)
      let bad (t : Nat) : Option Nat := c.targetFault t c.k c.inst.readsPort
      let drained : State := c.s.modArray c.core arr fun x =>
        ({ x with accs := x.accs.map fun y => if y.age = c.age then { y with drained := r :: acc.drained } else y } : SysArray).takeIn 64
      let ts := [f.t0, f.t1] ++ [rt.1, rt.2].filterMap Target.ofCode
      (∀ code, bad rt.1 = some code ∨ (bad rt.1 = none ∧ bad rt.2 = some code) →
        exec (.drain f) s = .next (c.faulted (.plain code))) ∧
      (bad rt.1 = none → bad rt.2 = none → (∀ x ∈ acc.feeds, x.tile = false) →
        exec (.drain f) s = .next (({ c with s := drained } : Ctx).sent ts
          (some (.vector f.fmt f.fmt.lane ((List.range 16).map fun j => arr.drainElem acc f.fmt r j 0))))) ∧
      (bad rt.1 = none → bad rt.2 = none → (∃ x ∈ acc.feeds, x.tile = true) → (c.s.core c.core).tileRoom = true →
        ∃ id, (∀ t ∈ (c.s.core c.core).tiles, t.id ≠ id) ∧
          let tile : Tile := ⟨id, c.slot, c.age, f.fmt, (List.range 16).flatMap fun n =>
            (List.range 16).map fun j => arr.drainElem acc f.fmt r j n, none, []⟩
          let d : State := { drained with freeCtr := drained.freeCtr + 1 }
          exec (.drain f) s = .next (({ c with s := d.modCore c.core fun k => { k with tiles := k.tiles ++ [tile] } } : Ctx).sent ts
            (some ⟨f.fmt, false, BitVec.ofNat 512 (id % 2 ^ 64), some id⟩))))

/-! ### What every firing keeps -/

/-- No firing changes memory, a register, a CSR, a tap, a fork record, a chest, a Cabinet, an engine command or a table: a
block takes effect on architectural state only when it commits (R34, R154, R192). -/
def Obligations.FiringCommitsNothing : Prop :=
  ∀ (i : Instr) (s t : State), i.code.isSome = true → exec i s = .next t → s.FiringKeeps t

/-! ### Words -/

/-- Words that the manual writes out, or spells field by field, decode to what they stand for (R98 to R115). -/
def Obligations.WordsDecodeToTheirInstruction : Prop :=
  decode 0x061020000000002A = .ok (.instr (.limm ⟨.always, .port .a 2, 42⟩)) ∧
  decode 0x0220200032000000 = .ok (.instr (.read ⟨.always, .port .b 2, .none, .iter⟩)) ∧
  decode 0x4020560180000000 = .ok (.instr (.add ⟨.always, .port .b 5, .wslot 0, .w64⟩)) ∧
  decode 0x0710500180000000 = .ok (.instr (.orhi ⟨.always, .port .a 5, .none, 0⟩)) ∧
  decode 0x0300000003000000 = .ok (.write (.g 3) 0) ∧
  decode 0x0A00000000000005 = .ok (.instr (.br ⟨.always, 0, 5⟩)) ∧
  decode 0x2200000000000000 = .ok (.instr (.endI ⟨.always, 0⟩)) ∧
  decode 0x2018000000000004 = .ok (.instr (.fork ⟨.always, .wslot 0, .none, 4⟩)) ∧
  decode 0x7200000109C00010 = .ok (.instr (.st ⟨.always, .w32, 2, .pod, .chain .both 16⟩)) ∧
  decode 0x7010300101200000 = .ok (.instr (.ld ⟨.always, .port .a 3, .none, .w32, 0, .pkg, .sync 0⟩)) ∧
  decode 0x1110300001000000 = .ok (.instr (.csrw ⟨.always, .port .a 3, .none, .cabq⟩)) ∧
  decode 0xC018000200000000 = .ok (.instr (.syscfg ⟨.always, .wslot 0, .none, .kt8, 0, 0, 0, 0⟩)) ∧
  decode 0x8810500200000001 = .ok (.instr (.tfetch ⟨.always, .port .a 5, .none, .kt8, 0, .strand, 1⟩))

/-- Checks 3 and 4 of R121: a word whose OP is not assigned is an illegal opcode whatever its other bits, and every word of
an assigned OP with PR = 11, a target that R101 refuses, or a nonzero reserved bit is a reserved field (R99, R101, R120,
R122). -/
def Obligations.UnassignedWordsAreRefused : Prop :=
  (∀ w : Word, decode w = .error .illegalOpcode ↔ assignedOp (w.toNat / 2 ^ 56) = false) ∧
  ∀ w : Word, assignedOp (w.toNat / 2 ^ 56) = true → badFields w → decode w = .error .reservedField

/-- Decoding the word of a well-formed instruction gives the instruction back, with every operand at every value its
layout admits. -/
def Obligations.EncodedInstructionsDecode : Prop :=
  ∀ (i : Instr) (w : Word), i.wellFormed = true → encode i = some w → decode w = .ok (.instr i)

/-- A word has one reading: what decodes to an instruction is that instruction's word, and the instruction is
well-formed. -/
def Obligations.DecodedWordsEncode : Prop :=
  ∀ (i : Instr) (w : Word), decode w = .ok (.instr i) → encode i = some w ∧ i.wellFormed = true

/-! ### The step -/

/-- Where the next act is a firing, its station free of higher priority, and the word at the site decodes to an
instruction, the step is that instruction's effect on the state with the act taken off the agenda. The agenda and the
site are the model's own: they say which enabled act comes next (log entry 2). -/
def Obligations.StepRunsTheDecodedInstruction : Prop :=
  ∀ (s t : State) (x : Site) (rest : List Agendum) (sl : Slot) (j : Inst) (w : Word) (i : Instr),
    s.agenda = .fire x :: rest → s.boot = .running → s.fireMay x = true →
    s.slot? x.core x.slot = some sl → sl.inst? x.age = some j → j.words[x.k]? = some w → decode w = .ok (.instr i) →
    exec i { s with agenda := rest, site := x } = .next t → step s = .next t

/-- Where the next act is an operation of the device that is enabled, or a message that arrives, the step is its effect;
where it is not enabled, the package takes an act of its own: one of those it has, with nothing but a count of who waits beside
its effect, and never one that has waited less than an enabled act whose patience has run out (R29, R39, R44, R51). The agenda
and the count are the model's own (log entries 2 and 80). -/
def Obligations.StepTakesTheNextAct : Prop :=
  ∀ (s t : State) (rest : List Agendum),
    (∀ i : Instr, s.agenda = .ev i :: rest → i.code = none → s.boot = .running → exec i { s with agenda := rest } = .next t →
      step s = .next t) ∧
    (∀ x, s.agenda = x :: rest → runAct x { s with agenda := rest } = .next t → step s = .next t) ∧
    (∀ x, s.agenda = x :: rest → (∀ u, runAct x { s with agenda := rest } ≠ .next u) → step s = autonomousStep s) ∧
    (let any := Config.freeNat (s.freeCtr + 1) % 2 ^ 60 * 16
     let now : State := { s with freeCtr := s.freeCtr + 2 }
     let takes (y : Agendum) : Prop := y ∈ autonomous s any ∧ ∃ u, runAct y now = .next u ∧
       autonomousStep s = .next { u with waiting := t.waiting }
     (∀ x u, x ∈ autonomous s any → runAct x now = .next u → autonomousStep s = .next t →
       ∃ y, takes y ∧ (Config.patience ≤ s.waited x → s.waited x ≤ s.waited y) ∧ (y ≠ x → t.waited x = s.waited x + 1)))

/-! ### Every firing -/

/-- A complete match is consumed as it fires: it leaves the station, the slot counts as fired for that instance, and no
later token or match of that slot and instance can fire it again (R36). -/
def Obligations.AFiringConsumesItsMatch : Prop :=
  ∀ (s : State) (c : Ctx), s.fireCtx = some c →
    c.m ∈ (s.core c.core).ready ∧ c.m.slot = c.slot ∧ c.m.age = c.age ∧ c.m.k = c.k ∧
    (c.s.core c.core).ready = (s.core c.core).ready.erase c.m ∧
    (∃ sl i, c.s.slot? c.core c.slot = some sl ∧ sl.inst? c.age = some i ∧ c.k ∈ i.fired) ∧
    ∀ n t, (c.s.core c.core).net[n]? = some t → t.slot = c.slot → t.age = c.age → t.k = c.k →
      exec (.tokenArrival c.core n) c.s = .next (c.s.modCore c.core fun k => { k with net := k.net.eraseIdx n })

/-- A token goes to each target: to a port of a slot as a token on its way there, under the sender's context slot and
block; to a write slot that holds none as that slot's token; to an empty target not at all (R100). -/
def Obligations.TokensGoToTheirTargets : Prop :=
  ∀ (s : State) (core slot age : Nat) (t : Tok), core < s.cores.length →
    s.emit1 core slot age .none t = s ∧
    (∀ (q : Port) (n : BitVec 7), (s.emit1 core slot age (.port q n) t).core core =
      { s.core core with net := (s.core core).net ++ [⟨slot, age, n.toNat, q, t, false⟩] }) ∧
    (∀ (n : BitVec 5) sl i, s.slot? core slot = some sl → sl.inst? age = some i → (∀ w ∈ i.ws, w.1 ≠ n.toNat) →
      ∃ sl', (s.emit1 core slot age (.wslot n) t).slot? core slot = some sl' ∧
        sl'.inst? age = some { i with ws := i.ws ++ [(n.toNat, t)] })

/-- A predicate that does not hold, or a null on P read as a predicate: all tokens are consumed and nothing is emitted,
whatever the instruction; PREF, which never faults, whatever tags its tokens bear too (R37, R214). -/
def Obligations.AFalsePredicateEmitsNothing : Prop :=
  ∀ (i : Instr) (s : State) (c : Ctx), i.code.isSome = true → s.fireCtx = some c → c.inst.bad.contains c.k = false →
    (c.m.reserved = false ∨ isPref i = true) → predHolds (Instr.pr i) c.m.p = false → exec i s = .next c.s

/-- A null on A, or on B where A carries a value, sends one null token to each target; so does a null on P read as data.
Stores, atomics, engine commands, exits and SEL have entries of their own (R37, R102). -/
def Obligations.ANullOperandEmitsNulls : Prop :=
  ∀ (i : Instr) (s : State) (c : Ctx), Instr.nullsOut i = true → s.Fires c (Instr.pr i) →
    (∀ x ∈ Instr.fmts i, x.isReserved = false) →
    (Instr.reads i .a = true → c.m.a = some none → exec i s = .next (c.sent (instrTargets i) none)) ∧
    (∀ a, Instr.reads i .a = true → Instr.reads i .b = true → Carries c.m.a a → c.m.b = some none →
      exec i s = .next (c.sent (instrTargets i) none)) ∧
    (∀ a b, readsPData i = true → Carries c.m.a a → Carries c.m.b b → c.m.p = some none →
      exec i s = .next (c.sent (instrTargets i) none))

/-- A token whose tag is a reserved code raises FORMAT_RESERVED in the instruction that consumes it, on whichever port, and
so does a reserved code in a format field, and nothing is emitted; PREF alone never faults (R79, R121, R214). That both stand
before what a null or a predicate asks for is the model's choice (log entry 75). A poisoned window word raises UNCORRECTABLE at
its slot as it fires, and is counted (R316, R349). -/
def Obligations.AReservedTagFaults : Prop :=
  ∀ (i : Instr) (s : State) (c : Ctx), i.code.isSome = true → s.fireCtx = some c →
    (c.inst.bad.contains c.k = false → isPref i = false →
      (CarriesReserved c.m.a ∨ CarriesReserved c.m.b ∨ CarriesReserved c.m.p) →
      exec i s = .next (c.faulted (.plain FC.formatReserved))) ∧
    (s.Fires c (Instr.pr i) → (∃ x ∈ Instr.fmts i, x.isReserved = true) →
      exec i s = .next (c.faulted (.plain FC.formatReserved))) ∧
    (c.inst.bad.contains c.k = true →
      exec i s = .next ((c.s.modErr c.core 2 (·.consume 1)).record c.core c.slot c.age (.atSlot FC.uncorrectable c.k)))

/-- A block that passes the checks of R121 is sound: its header is signed and sized, its reserved bits are zero, every word
decodes, every target is a port that its consumer reads or a write slot of the write mask, it holds as many exits as the
header says, and an instruction of CHAIR privilege stands only where PV is set, which USER may not map (R101, R116, R117,
R121). A block at USER with PV set and no other violation is PRIVILEGE at slot 0 (R117, R408). -/
def Obligations.MappedBlocksAreSound : Prop :=
  ∀ (i : Inst) (user : Bool),
    (mapCheck i user = none →
      bits i.h0.toNat 56 8 = 0xB1 ∧ blockSize i.h0 ≤ 128 ∧ bits i.h0.toNat 32 8 = 0 ∧ bits i.h1.toNat 0 32 = 0 ∧
      (∀ (k : Nat) (w : Word), i.words[k]? = some w → ∃ x, decode w = .ok x) ∧
      (∀ (k : Nat) (x : Instr) (q : Port) (n : BitVec 7), i.instr k = some x → .port q n ∈ instrTargets x →
        isAmo x = false ∧ n.toNat < i.words.length ∧ n.toNat ≠ k ∧ i.readsPort n.toNat q = true) ∧
      (∀ (k : Nat) (x : Instr) (n : BitVec 5), i.instr k = some x → .wslot n ∈ instrTargets x → bit i.h1.toNat (32 + n.toNat) = true) ∧
      i.exitCount = bits i.h0.toNat 45 3 + 1 ∧
      (∀ (k : Nat) (x : Instr), i.instr k = some x → needsPv x = true → hdrPv i.h0 = true) ∧
      (user = true → hdrPv i.h0 = false)) ∧
    (mapCheck i false = none → hdrPv i.h0 = true → mapCheck i true = some (.atSlot FC.privilege 0))
/-! ### Reset and the invariant -/

/-- The machine right after reset, where the rules give a value: every chair's control block reads NCTX = 16 and zero
elsewhere, every sequence number, error counter and performance counter is 0, every HBM byte and every local byte is 0
and none is poisoned, and no launch, context, token, table entry or record is there (R299, R302, R312, R347, R350, R352). -/
def Obligations.ResetState : Prop :=
  State.reset.chairs.length = 64 ∧ State.reset.cores.length = 192 ∧
  (∀ c ∈ State.reset.chairs, c.chctl = 0x100 ∧ c.chs2 = 0 ∧ c.chseqb = 0 ∧ c.chseqn = 0 ∧ c.chgrant = 0 ∧ c.chprb = 0 ∧
    c.chpol = 0 ∧ c.chtq = 0 ∧ c.chfq = 0 ∧ c.chstop = 0 ∧ (∀ a ∈ c.chasid, a = 0) ∧ (∀ q ∈ c.chcq, q = 0) ∧ c.lt = [] ∧
    c.binds = [] ∧ c.reqs = [] ∧ c.area = none) ∧
  (∀ k ∈ State.reset.cores, (∀ sl ∈ k.slots, sl = none) ∧ k.cq = [] ∧ k.mem = [] ∧ k.poison = [] ∧ k.net = [] ∧ k.cab = [] ∧
    k.chest = [] ∧ k.lq = [] ∧ k.code = [] ∧ k.tlb = [] ∧ k.ranges = [] ∧ k.engs = [] ∧ k.arrays = [] ∧ k.tiles = [] ∧ (∀ d ∈ k.palette, d.owner = none ∧ d.steps = 0) ∧
    (∀ e ∈ k.errs, e = ⟨0, 0, 0, 0, false, 0⟩) ∧ (∀ p ∈ k.perf, p = ⟨0, 0⟩)) ∧
  State.reset.hbm = [] ∧ State.reset.poison = [] ∧ State.reset.seqNo = 0 ∧ State.reset.launches = [] ∧ State.reset.arb = [] ∧
  State.reset.frontiers = [] ∧ State.reset.dressers = [] ∧ State.reset.saves = [] ∧ State.reset.probes = [] ∧ State.reset.steers = [] ∧ State.reset.policies = [] ∧
  State.reset.boot = .cold ∧ (∀ e ∈ State.reset.sliceErrs, e = ⟨0, 0, 0, 0, false, 0⟩) ∧
  (∀ e ∈ State.reset.stackErrs, e = ⟨0, 0, 0, 0, false, 0⟩)

/-- Reset leaves every memory in its canonical form, and every byte of HBM and of every local memory reads 0 (R302, R312). -/
def Obligations.ResetMemory : Prop :=
  State.reset.MemWf ∧ (∀ a, Memory.get State.reset.hbm a = 0) ∧ ∀ c a, Memory.get (State.reset.core c).mem a = 0

/-- Every step keeps every memory in canonical form, from every state that has it: the package's HBM and each core's
local memory. -/
def Obligations.StepKeepsMemory : Prop :=
  ∀ s t : State, s.MemWf → step s = .next t → t.MemWf

/-! ### Tokens and blocks -/

/-- A token that arrives at, or is injected into, the set of its row either completes the match of its slot, which is then
ready and whose entries leave the Cabinet, or takes a free way within its context's quota; without one an arriving token
goes to its context's chest, and where the chest is full the token is dropped and CHEST_FULL is recorded against its block
(R36, R38, R40, R41, R43). -/
def Obligations.TokensMeetTheirMatch : Prop :=
  ∀ (s : State) (core n : Nat) (t : NetTok),
    ((s.core core).net[n]? = some t → (s.core core).Awaits t (s.core core).chest →
      ∃ u, exec (.tokenArrival core n) s = .next u ∧ (s.core core).Met (u.core core) t ∧
        ((s.core core).completes t = false → ¬(s.core core).hasWay t →
          (s.ChestHas core t.slot true → (u.core core).chest = (s.core core).chest ++ [t]) ∧
          (s.ChestHas core t.slot false → (u.core core).chest = (s.core core).chest ∧
            ∃ i, s.block? core t.slot t.age = some i ∧
              u.block? core t.slot t.age = some { i with faults := i.faults ++ [.plain FC.chestFull] }))) ∧
    ((s.core core).chest[n]? = some t → (s.core core).Awaits t ((s.core core).chest.eraseIdx n) →
      ((s.core core).completes t = true ∨ (s.core core).hasWay t ∧
        (s.core core).candidate t.row ((s.core core).tokSet t) = some t.slot ∧
        oldestTok (((s.core core).chestFor t.row ((s.core core).tokSet t)).filter (·.slot = t.slot)) = some t) →
      ∃ u, exec (.chestInjection core n) s = .next u ∧ (s.core core).Met (u.core core) t)

/-- A swap in a full set gives the way of its victim, the youngest entry of the resident context of lowest priority, to
the oldest chest token of the candidate context where its quota allows, and a quota swap that of an entry of the context's own
youngest block; the victim goes to its context's chest (R42, R400). -/
def Obligations.SwapsGiveTheVictimsWay : Prop :=
  ∀ (s : State) (core row set slot cs n : Nat) (t v : NetTok) (sl : Slot),
    let k := s.core core
    let after : Core := { k with cab := k.cab.erase v, chest := k.chest.erase t }
    let given (u : State) : Prop := after.completes t = false → after.hasWay t → s.ChestHas core v.slot true →
      (u.core core).cab = k.cab.erase v ++ [t] ∧ (u.core core).chest = k.chest.erase t ++ [v]
    (k.candidate row set = some cs → oldestTok ((k.chestFor row set).filter (·.slot = cs)) = some t →
      k.victim row set = some v → (k.inSet row set).length = 8 → k.pri v.slot ≤ k.pri cs → t.age < v.age →
      (k.completes t = true ∨ v.slot = cs ∨ (k.inRow cs row).length < k.quota cs) →
      ∃ u, exec (.swap core row set) s = .next u ∧ given u) ∧
    (s.slot? core slot = some sl → oldestTok (k.chest.filter fun e => decide (e.slot = slot) && decide (e.row = row)) = some t →
      ((k.inRow slot row).filter (·.age = (k.inRow slot row).foldl (fun b e => max b e.age) 0))[n]? = some v →
      sl.quota ≤ (k.inRow slot row).length → t.age < v.age → ∃ u, exec (.quotaSwap core slot row n) s = .next u ∧ given u)

/-- A window is granted for a strand's next block, no slot of higher CTXPRI waiting for one: the tagged window it joins, or one
that no block and no grant of the slot holds (R29, R30, R49). The granted block is fetched, header first, and kept as read, a
word that a load is writing meanwhile as its old or its new value; a fetch that faults gives a block that is dead with the fault
at slot 0, one that finds an entry missing a block whose fetch is held (R116, R150, R308, R357). A fetched block is mapped: it
passes the checks and is in flight under the next age number, with what needs no token ready, or it is dead with the first
violation, or with UNCORRECTABLE at its first poisoned doubleword (R31, R102, R121, R308). A build may drop a kept translation
or a kept block (R308, R334). Which free window is taken is the model's choice (log entry 19), and that a kept block's page is
checked again its reading (log entry 26). -/
def Obligations.BlocksEnterTheirStrand : Prop :=
  ∀ (s : State) (core slot uid ba : Nat) (sl : Slot) (t : Strand) (g : Grant),
    s.slot? core slot = some sl →
    let served (work : Slot → Bool) : Prop := s.stopping sl = false ∧ (s.core core).serves slot work = true
    (sl.strand? uid = some t → sl.mayGrant t uid ba = true → served Slot.grantWaits →
      (∀ i, sl.tagged ba = some i → ∃ u sl', exec (.windowGrant core slot uid ba) s = .next u ∧ u.slot? core slot = some sl' ∧
        sl'.grants = sl.grants ++ [⟨uid, ba, i.win, false⟩]) ∧
      (sl.tagged ba = none → ∀ w, sl.freeWindows.head? = some w →
        w < 8 ∧ (∀ i ∈ sl.insts, i.win ≠ w) ∧ (∀ h ∈ sl.grants, h.win ≠ w) ∧
        ∃ u sl', exec (.windowGrant core slot uid ba) s = .next u ∧ u.slot? core slot = some sl' ∧
          sl'.grants = sl.grants ++ [⟨uid, ba, w, false⟩])) ∧
    ((s.core core).toFetch sl = some g → sl.strand? g.uid = some t →
      (served fun x => ((s.core core).toFetch x).isSome) →
      let shell : Inst := { Inst.fresh sl.nextAge g.uid g.ba g.win 0 0 [] with dead := true }
      (∀ keys, fetchBlock s core sl (!t.priv) g.ba = .ok keys → ∃ u sl', exec (.blockFetch core slot) s = .next u ∧
        u.slot? core slot = some sl' ∧ (∀ h ∈ sl'.grants, h.uid = g.uid → h.fetched = true) ∧
        ((s.core core).cached sl g = none → ∃ d, (u.core core).code = (s.core core).code ++ [d] ∧ d.chair = sl.chair ∧
          d.asid = sl.asid ∧ d.ba = g.ba ∧ (2 ≤ keys.length → (d.h0 :: d.h1 :: d.words).length = keys.length) ∧
          (∀ (j : Nat) (p : Nat × Nat) (w : Word), keys[j]? = some p → (d.h0 :: d.h1 :: d.words)[j]? = some w →
            w = BitVec.ofNat 64 (s.hbm.read p.2 8) ∨ (p.2 / 8, w) ∈ (s.chair sl.chair).loadWords) ∧
          (d.poison = none → ∀ p ∈ keys, s.poisoned p.2 8 = false) ∧
          ∀ va, d.poison = some va → ∃ (j : Nat) (p : Nat × Nat), keys[j]? = some p ∧ s.poisoned p.2 8 = true ∧
            va = (g.ba + 8 * j) % 2 ^ 64)) ∧
      (∀ va e, fetchBlock s core sl (!t.priv) g.ba = .error (va, e) →
        ∃ u sl', exec (.blockFetch core slot) s = .next u ∧ u.slot? core slot = some sl' ∧
          (e.stage = none → sl'.insts = sl.insts ++ [{ shell with faults := [⟨e.code, true, 0, va, 0⟩] }]) ∧
          ∀ st, e.stage = some st → sl'.insts = sl.insts ++ [shell] ∧
            (u.core core).held = (s.core core).held ++ [⟨slot, sl.nextAge, 0, none, va, false, 0, st, .again⟩])) ∧
    ((s.core core).toMap sl = some g → sl.strand? g.uid = some t → (served fun x => ((s.core core).toMap x).isSome) →
      ∀ d, (s.core core).cached sl g = some d →
        let joined : Option Inst := if hdrTg d.h0 then sl.tagged g.ba else none
        let i := Inst.fresh sl.nextAge g.uid g.ba ((joined.map (·.win)).getD g.win) d.h0 d.h1 d.words
        let dead (f : FaultRec) : Prop := ∃ u sl', exec (.blockMapping core slot) s = .next u ∧
          u.slot? core slot = some sl' ∧ sl'.insts = sl.insts ++ [{ i with faults := [f], dead := true }]
        (∀ va, d.poison = some va → dead ⟨FC.uncorrectable, true, 0, va, 0⟩) ∧
        (d.poison = none → ∀ f, mapCheck i (!t.priv) = some f → dead f) ∧
        (d.poison = none → mapCheck i (!t.priv) = none → ∃ u sl', exec (.blockMapping core slot) s = .next u ∧
          u.slot? core slot = some sl' ∧ sl'.insts = sl.insts ++ [i] ∧
          (u.core core).ready = (s.core core).ready ++ startMatches i slot sl.pri)) ∧
    (∀ n, n < (s.core core).tlb.length → ∃ u, exec (.l1TlbEntryDrop core n) s = .next u ∧
      (u.core core).tlb = (s.core core).tlb.eraseIdx n) ∧
    (∀ n, n < (s.core core).code.length → ∃ u, exec (.decodedBlockEviction core n) s = .next u ∧
      (u.core core).code = (s.core core).code.eraseIdx n)

/-! ### Commit, faults, accesses -/

/-- A block that stands ready to commit, nothing outside it in the way and no fault found, commits: its stores and fences join
the committed order of its context, it leaves its context, and its strand goes on with its write slots and its exit, or ends; its
CSR writes, forks and contributions take effect, and memory is as before (R46, R110, R162, R167 to R170, R174, R194, R293, R294,
R296, R297). One with atomics begins its commit, and the rest follows once each has returned; a RET whose address an atomic
decides applies them in the act of its commit, where nothing of its strand stands before them, and one that is not aligned raises
ALIGNMENT with nothing applied (R118, R163, R204). That the commit of such blocks takes two acts, or one, is the model's reading
(log entry 27). -/
def Obligations.ABlockCommits : Prop :=
  ∀ (s : State) (core slot : Nat) (sl : Slot) (i : Inst) (t : Strand) (e : ExitRec), s.Commits core slot sl i t e →
    let out := exec (.blockCommit core slot i.age) s
    let amos : Prop := ∃ p ∈ i.stores, p.amo.isSome = true
    let begun := (s.noteTaps sl i).beginCommit core slot i i.storesInOrder
    (i.committing = false → ¬amos → ∃ u, out = .next u ∧ s.Committed u core slot sl i t e (sl.post ++ i.postOf)) ∧
    (i.committing = false → amos → (i.lnkFromAmo = true → i.exits ≠ [.ret]) →
      ∃ u sl', out = .next u ∧ u.slot? core slot = some sl' ∧ sl'.post = sl.post ++ i.postOf ∧
        sl'.inst? i.age = some { i with stores := [], waits := [], committing := true } ∧
        u.hbm = s.hbm ∧ ∀ c, (u.core c).mem = (s.core c).mem) ∧
    (i.committing = true → i.retMisaligned t = false → ∃ u, out = .next u ∧ s.Committed u core slot sl i t e sl.post) ∧
    (i.committing = true → i.retMisaligned t = true → ∃ u, out = .next u ∧ u.hbm = s.hbm ∧
      u.block? core slot i.age = some { i with faults := [.plain FC.alignment] }) ∧
    (i.committing = false → i.lnkFromAmo = true → i.exits = [.ret] → s.directMay core slot sl i = true →
      let d := begun.applyDirect core slot i.age sl i.storesInOrder
      ∀ x j, d.slot? core slot = some x → x.inst? i.age = some j → ∀ r, x.strand? j.uid = some r →
        (j.retMisaligned r = true → ∃ u, out = .next u ∧ u.hbm = s.hbm ∧
          u.block? core slot i.age = some { i with faults := [.plain FC.alignment] }) ∧
        (j.retMisaligned r = false → ∃ u, out = .next u ∧ u.block? core slot i.age = none ∧
          u.hbm = d.hbm ∧ ∀ c, (u.core c).mem = (d.core c).mem))

/-- A quiescent block that has not met its commit condition records INCOMPLETE_BLOCK where its first unmet requirement is
(R48, R395). A fault of the oldest block of a strand is taken: the block and its younger ones are discarded, and under a
handler the strand enters a trap, with TRAPBA, FLT and TRAPS saved, its privilege CHAIR and its BA the handler's, every
other register and all of memory as before; without a handler its context is aborted with the fault's code (R35, R155,
R291, R297, R358). An abort discards every block and ends every strand of the context on every core, its committed stores
applied, and drops its save image (R24, R360). -/
def Obligations.FaultsAreTaken : Prop :=
  ∀ (s : State) (core slot : Nat) (sl : Slot) (i : Inst) (t : Strand),
    (∃ r, t.exitTo i .rett = some r ∧ r.ba = t.trapba ∧ r.traps.getLsbD 11 = t.traps.getLsbD 12 ∧ r.traps.getLsbD 10 = false ∧
      r.traps.toNat / 2 ^ 12 = t.traps.toNat / 2 ^ 12 ∧ r.traps.toNat % 2 ^ 10 = t.traps.toNat % 2 ^ 10 ∧
      r = { t with ba := r.ba, traps := r.traps }) ∧
    (s.slot? core slot = some sl → sl.inst? i.age = some i →
    (i.dead = false → i.committing = false → i.meets = false → i.faults = [] → s.quiescent core slot i = true →
      ∃ u, exec (.incompleteBlock core slot i.age) s = .next u ∧
        u.block? core slot i.age = some { i with faults := [i.incompleteAt] }) ∧
    (∀ n f, sl.strand? i.uid = some t → i.faults[n]? = some f → sl.isOldest i = true → sl.stopped = false →
      (t.canTrap sl.trapv = true → ∃ u sl' t', exec (.faultTaken core slot i.age n) s = .next u ∧
        u.slot? core slot = some sl' ∧ sl'.strand? i.uid = some t' ∧ (∀ j ∈ sl'.insts, j.uid = i.uid → j.age < i.age) ∧
        t'.trapba = t.ba ∧ t'.flt = BitVec.ofNat 64 f.va ∧ t'.ba.toNat = sl.trapv.toNat / 16 * 16 ∧
        t'.traps.toNat % 2 ^ 8 = f.code % 2 ^ 8 ∧ t'.traps.getLsbD 10 = true ∧ t'.traps.getLsbD 11 = true ∧
        t'.traps.getLsbD 12 = t.priv ∧ t'.traps.toNat / 2 ^ 16 % 2 ^ 7 = f.loc % 2 ^ 7 ∧ t'.traps.getLsbD 23 = f.locs ∧
        t'.traps.toNat / 2 ^ 40 = f.val % 2 ^ 24 ∧
        t'.g = t.g ∧ t'.v = t.v ∧ t'.lnk = t.lnk ∧ t'.tag = t.tag ∧ t'.iter = t.iter ∧
        u.hbm = s.hbm ∧ (∀ c, (u.core c).mem = (s.core c).mem) ∧ sl'.post = sl.post) ∧
      (t.canTrap sl.trapv = false → ∀ l, s.launch? sl.launch = some l → l.aborted = false →
        ∃ u, exec (.faultTaken core slot i.age n) s = .next u ∧ u.AbortedWith sl.launch f.code)) ∧
    (∀ id l, s.launch? id = some l → l.aborted = false →
      ∃ u, exec (.contextAbort id) s = .next u ∧ u.AbortedWith id FC.serviceAbort ∧
        ∀ c j, (s.core c).slotOf id = some j → ∃ x, u.slot? c j = some x ∧ x.strands = [] ∧ x.insts = [] ∧
          x.forks = [] ∧ x.post = [] ∧ x.stopped = true))

/-- A load that nothing of its strand holds back is performed, and writes no memory: a load of one range leaves its port
with the bytes at its home or bank, covered by the older stores of its strand that are not applied, and its token goes to
its targets; poisoned bytes raise UNCORRECTABLE at its LSID (R189, R191, R316). A committed store or atomic that its strand's
order lets pass is applied: the bytes of its datum, or of the atomic's result, stand at its address, HOLD of a sequence record
kept, every other byte of memory is as before, an atomic's old value is in its write slots, and it leaves the committed order; a
fence among them is passed; an atomic that meets poison takes no effect and raises UNCORRECTABLE (R4, R70, R118, R204, R280,
R281, R303, R316). A release of CORE scope may keep its place in that order (log entry 17). -/
def Obligations.AccessesArePerformed : Prop :=
  ∀ (s : State) (core n : Nat),
    (∀ l sl i t, (s.core core).loads[n]? = some l → s.slot? core l.slot = some sl → sl.inst? l.age = some i →
      sl.strand? i.uid = some t → s.mayPerform core sl i (!t.priv) l = true →
      (∃ u, exec (.loadPerformed core n) s = .next u ∧ u.hbm = s.hbm ∧ ∀ c, (u.core c).mem = (s.core c).mem) ∧
      ∀ p, l.form = .zext ∨ l.form = .sext ∨ l.form = .vector → l.pre = [] → l.parts = [p] → p.got = none → p.bad = none →
        (∀ x v, i.instr l.k = some x → s.Bytes core sl i l.lsid l.loc p v →
          ∃ u, exec (.loadPerformed core n) s = .next u ∧
            (∀ m ∈ (u.core core).loads, ¬(m.slot = l.slot ∧ m.age = l.age ∧ m.k = l.k)) ∧
            u.SentTo core l.slot l.age (instrTargets x) (l.form.token p.bytes v)) ∧
        (s.PoisonedBytes core sl l.loc p → ∃ u, exec (.loadPerformed core n) s = .next u ∧
          u.block? core l.slot l.age = some { i with
            faults := i.faults ++ [.access FC.uncorrectable l.lsid (if l.loc then 0 else p.va)] })) ∧
    (∀ slot sl p, s.slot? core slot = some sl → sl.post[n]? = some p → s.mayApply core slot sl n p = true →
      let out := exec (.storeApplied core slot n) s
      (∀ kind sc, p.act = .fence kind sc → ∃ u sl', out = .next u ∧ u.slot? core slot = some sl' ∧
        sl'.post = sl.post.eraseIdx n ∧ u.hbm = s.hbm ∧ ∀ c, (u.core c).mem = (s.core c).mem) ∧
      (∀ st, p.act = .store st → s.amoPoisoned core sl st = true → ∃ u sl', out = .next u ∧ u.slot? core slot = some sl' ∧
        (∀ q ∈ sl'.post, q.age ≠ p.age) ∧ u.hbm = s.hbm ∧ (∀ c, (u.core c).mem = (s.core c).mem) ∧
        ∀ i, s.block? core slot p.age = some i → u.block? core slot p.age = some { i with
          faults := i.faults ++ [.access FC.uncorrectable st.lsid (if st.loc then 0 else st.va)] }) ∧
      (∀ st, p.act = .store st → s.amoPoisoned core sl st = false → s.MemWf →
        let alone : Prop := s.allBefore core slot ((sl.post.take n).filter (·.uid = p.uid)) p = true
        let new (old : Nat) : Nat := match st.amo with | some (op, w) => amoNew op w old st.data | none => st.data.toNat
        let back (old : Nat) (x : Nat × Tok) : Nat × Tok := match st.amo with
          | some (op, w) => if st.targets.contains x.1 then (x.1, some (amoOld op w old)) else x
          | none => x
        let returned (u : State) (old : Nat) : Prop := ∀ i, s.block? core slot p.age = some i →
          u.block? core slot p.age = some { i with ws := i.ws.map (back old) }
        ∃ u sl', out = .next u ∧ u.slot? core slot = some sl' ∧
          (st.coreRelease = false ∨ alone → sl'.post = sl.post.eraseIdx n) ∧
          (st.coreRelease = true → ¬alone → sl'.post = sl.post.set n { p with act := .early st }) ∧
          (st.loc = true → st.va / 0x4000 = (st.va + st.bytes - 1) / 0x4000 →
            let old := s.readLocal core sl st.va st.bytes
            returned u old ∧ u.hbm = s.hbm ∧
            (∀ j < st.bytes, (u.core core).mem.get (sl.localAddr (st.va + j)) = BitVec.ofNat 8 (new old / 256 ^ j)) ∧
            (∀ a, (∀ j < st.bytes, a ≠ sl.localAddr (st.va + j)) → (u.core core).mem.get a = (s.core core).mem.get a) ∧
            ∀ c, c ≠ core → (u.core c).mem = (s.core c).mem) ∧
          (∀ gpa key, st.loc = false → st.phys = some (gpa, key) → s.lost key = false →
            let old := s.hbm.read key st.bytes
            returned u old ∧
            (∀ j < st.bytes, u.hbm.get (key + j) = (s.chair sl.chair).keepHold (gpa + j) (s.hbm.get (key + j))
              (BitVec.ofNat 8 (new old / 256 ^ j))) ∧
            (∀ a, a < key ∨ key + st.bytes ≤ a → u.hbm.get a = s.hbm.get a) ∧
            ∀ c, (u.core c).mem = (s.core c).mem)))

/-- A chain access that reaches its Dresser is refused where its OWN names no access, is the last applied or waits already,
and where its chain or its slice is full; else a store takes a waiting entry, and so does a load that is not applicable
(R107, R201). A waiting store that is applicable and committed is applied: the frontier takes its OWN and SUCC, its entry
is free, and its bytes are stored; a waiting load that is applicable is performed, its token sent and its LSID satisfied, with
what is pending of the strand's plain stores forwarded or not (R199, R200, R203); one that meets poison has been applied, and
raises UNCORRECTABLE (R202, R316). -/
def Obligations.ChainsApplyInOrder : Prop :=
  ∀ (s : State) (n : Nat),
    (∀ core m sl i, (s.core core).chainOut[n]? = some m → s.slot? core m.slot = some sl → sl.inst? m.age = some i →
      let chain := sl.chain.toNat % 2 ^ 16
      let f := s.frontier sl.chair chain
      let mine := s.dressers.filter fun d => d.chair = sl.chair && d.chain = chain
      let slice := s.dressers.filter fun d => dresserSlice d.chair d.chain = dresserSlice sl.chair chain
      let again := m.triple.own = noOwn ∨ m.triple.own = f.lastOwn ∨ ∃ d ∈ mine, d.triple.own = m.triple.own
      let full := 64 ≤ mine.length ∨ 256 ≤ slice.length
      let load := (s.core core).loadAt m.slot m.age m.k
      let refused (code : Nat) : Prop :=
        let answers (va lsid : Nat) : Prop := ∃ u, exec (.chainArrival core n) s = .next u ∧ u.dressers = s.dressers ∧
          (u.core core).chainOut = (s.core core).chainOut.eraseIdx n ∧
          u.block? core m.slot m.age = some { i with faults := i.faults ++ [.access code lsid va] }
        (∀ p, m.load = false → m.store = some p → answers p.va m.lsid) ∧
        (m.load = false → m.store = none → load = none → answers 0 m.lsid) ∧
        (∀ l p, m.load = true → m.store = none → load = some l → l.loc = false → l.parts = [p] → answers p.va l.lsid)
      (again → refused FC.chainDuplicate) ∧
      (¬again → (m.load = false ∨ f.applicable m.triple = false) → full → refused FC.chainOverflow) ∧
      (¬again → (m.load = false ∨ f.applicable m.triple = false) → ¬full →
        ∃ u, exec (.chainArrival core n) s = .next u ∧ (u.core core).chainOut = (s.core core).chainOut.eraseIdx n ∧
          u.dressers = s.dressers ++ [⟨sl.chair, chain, m.triple, core, m.slot, m.age, i.uid, m.k, m.lsid, m.load, m.store,
            false⟩])) ∧
    (∀ d, s.dressers[n]? = some d → (s.frontier d.chair d.chain).applicable d.triple = true →
      (d.load = true ∨ d.committed = true) → s.chainHeldBack d = false →
      let out := exec (.dresserApplication n) s
      let stepped (u : State) : Prop := u.dressers = s.dressers.erase d ∧
        u.frontier d.chair d.chain = ⟨d.chair, d.chain, d.triple.own, d.triple.succ⟩
      (d.load = false → ∃ u, out = .next u ∧ stepped u ∧
        (∀ p gpa key, d.store = some p → p.phys = some (gpa, key) → s.lost key = false → s.MemWf →
          (∀ j < p.bytes, u.hbm.get (key + j) = (s.chair d.chair).keepHold (gpa + j) (s.hbm.get (key + j))
            (BitVec.ofNat 8 (p.data.toNat / 256 ^ j))) ∧
          (∀ a, a < key ∨ key + p.bytes ≤ a → u.hbm.get a = s.hbm.get a) ∧ ∀ c, (u.core c).mem = (s.core c).mem)) ∧
      (∀ sl i t l p x gpa key, d.load = true → s.slot? d.core d.slot = some sl → sl.inst? d.age = some i →
        sl.strand? i.uid = some t → (s.core d.core).loadAt d.slot d.age d.k = some l →
        (∀ h ∈ (s.core d.core).held, ¬(h.slot = d.slot ∧ h.age = d.age ∧ h.k = d.k)) →
        s.loadHeldBack d.core d.slot sl i l.lsid false = false → l.form = .zext ∨ l.form = .sext ∨ l.form = .vector →
        l.loc = false → l.parts = [p] → p.phys = some (gpa, key) → i.instr d.k = some x →
        (s.poisoned key p.bytes = false → ∃ u j v, out = .next u ∧ stepped u ∧
          (s.Bytes d.core sl i l.lsid false p v ∨ s.Bytes d.core { sl with post := [], insts := [] } i l.lsid false p v) ∧
          u.SentTo d.core d.slot d.age (instrTargets x) (l.form.token p.bytes v) ∧
          u.block? d.core d.slot d.age = some j ∧ l.lsid ∈ j.sat) ∧
        (s.poisoned key p.bytes = true → ∃ u, out = .next u ∧ stepped u ∧
          u.block? d.core d.slot d.age = some { i with
            pinned := true, faults := i.faults ++ [.access FC.uncorrectable l.lsid p.va] })))

/-- A wait that comes to hold emits once to its targets and is over: JOIN and a collect, in the oldest block, once every
iteration of their fork has ended, with N or the result, or with ones where no record is live (R172, R175); WAITC with
the completion word, freeing the entry, or its STATUS recorded as a fault where it does not report; a handle that
names no completion is RESERVED_FIELD (R176, R319, R320); WAITG once the generation of its sync word has come (R213);
a poisoned one is UNCORRECTABLE; a FENCE once what its kind waits for has been performed or applied (R195, R206, R316). That a
WAITC answers in any block of its strand is the model's reading (log entry 14). -/
def Obligations.WaitsAreSatisfied : Prop :=
  ∀ (s : State) (core slot age k lsid : Nat) (sl : Slot) (i : Inst) (ts : List Target) (what : Wait),
    s.wait? core slot age k = some (sl, i, ⟨k, lsid, what⟩, ts) →
    let ends (e : Instr) (tok : Tok) (also : State → Inst → Prop) : Prop := ∃ u j, exec e s = .next u ∧
      u.SentTo core slot age ts tok ∧ u.block? core slot age = some j ∧ (∀ w ∈ j.waits, w.k ≠ k) ∧ also u j
    let ones : Tok := some (.int (2 ^ 64 - 1))
    let joined (e : Instr) (h : Nat) (val : ForkRec → Datum) : Prop := sl.isOldest i = true →
      ((∀ r ∈ sl.forks, r.handle ≠ h) → ends e ones fun _ _ => True) ∧
      (∀ r, sl.forks.find? (·.handle = h) = some r → r.ended.length = r.n →
        ends e (some (val r)) fun _ j => (k, .release h) ∈ j.kacts)
    (∀ h, what = .join h → joined (.joinSatisfied core slot age k) h fun r => .int r.n) ∧
    (∀ op h, what = .collect op h → joined (.redtCollectSatisfied core slot age k) h (collectResult op)) ∧
    (∀ h report, what = .waitc h report →
      let e : Instr := .waitcSatisfied core slot age k
      let faulted (code : Nat) : Prop := ∃ u j, exec e s = .next u ∧ u.block? core slot age = some j ∧
        (∀ w ∈ j.waits, w.k ≠ k) ∧ j.faults = i.faults ++ [.plain code]
      (s.handleState sl.chair h = none →
        (report = true → ends e (some (.int FC.reservedField)) fun _ _ => True) ∧ (report = false → faulted FC.reservedField)) ∧
      (∀ w, s.handleState sl.chair h = some (some w) →
        (report = true ∨ w.toNat % 256 = 0 → ends e (some (.int w.toNat)) fun u _ =>
          (s.endWait core slot age k).waitsOn sl.chair h = false → u.handleState sl.chair h = none) ∧
        (report = false → w.toNat % 256 ≠ 0 → faulted (w.toNat % 256)))) ∧
    (∀ off g sc, what = .waitg off g sc → s.loadHeldBack core slot sl i lsid false = false →
      let gen := bits (s.readLocal core sl off 8) 40 24
      let e : Instr := .waitgSatisfied core slot age k
      (s.poisonedLocal core sl off 16 = true → ∃ u j, exec e s = .next u ∧ u.block? core slot age = some j ∧
        (∀ w ∈ j.waits, w.k ≠ k) ∧ j.faults = i.faults ++ [.access FC.uncorrectable lsid 0]) ∧
      (s.poisonedLocal core sl off 16 = false → ((gen : Int) - g) % 2 ^ 24 < 2 ^ 23 →
        ends e (some (.int gen)) fun _ _ => True)) ∧
    (∀ kind sc, what = .fence kind sc → s.loadsBefore core slot sl i lsid = false →
      (kind = .acq ∨ sl.isOldest i = true ∧ s.storesBefore core slot sl i lsid = false) →
      ends (.fenceEmission core slot age k) (some (.int 0)) fun _ _ => True)

/-! ### Launches, contexts and strands -/

/-- A packet is read with its placement map and its after list (R18, R345). The arbiter judges it by the table of R19, in its
order, and takes a chair's first packet: a refused one starts nothing and its handle completes with the status; an accepted one
becomes a launch with the next sequence number and the lowest free context number, its PRI lowered to PRIMAX, its chain's
frontier set where no live context of the chair uses the chain; one whose handle cannot be stored is dropped (R19, R199, R293,
R320, R373, R377). A canvas takes the next launch,
each of its cores with room getting the launch with its first root (R20, R22). The launch at the head of a core's queue takes
the lowest free slot, which holds the packet's CSRs and reset values elsewhere (R23, R289, R303). Which fault decides where the
map's and the list's reads both fault is the model's choice (log entry 82), and when a canvas and a core act is free (log entry
2). -/
def Obligations.LaunchesAreAccepted : Prop :=
  ∀ (s : State),
    (∀ (chair : Nat) (p : List Word) (src : LaunchFrom), let e := readPacket s chair p src
      e.chair = chair ∧ e.packet = p ∧ e.src = src ∧ (pkDw p 6 = 0 → e.runs = [(0, pkRoots p)] ∧ e.mapFail = none) ∧
      (∀ v, readVa s chair (pkAsid p) (!src.priv) (pkDw p 5) (8 * pkAfterN p) = .ok v →
        e.afterFail = none ∧ e.after.length = pkAfterN p ∧ ∀ j < pkAfterN p, e.after[j]? = some (dwOf v j)) ∧
      ∀ x, readVa s chair (pkAsid p) (!src.priv) (pkDw p 5) (8 * pkAfterN p) = .error x → e.afterFail = some x) ∧
    (∀ e : ArbEntry, let c := s.chair e.chair
      let refused (code : Nat) : Prop := judge s e = .refuse (.of code)
      let done (h : Nat) (code : Nat) : Prop :=
        ∃ w, s.handleState e.chair h = some (some w) ∧ w.toNat % 256 = code ∧ code ≠ 0
      (c.en = false → refused FC.serviceAbort) ∧
      (c.en = true → c.asidIndex (pkAsid e.packet) = none → refused FC.protection) ∧
      (c.en = true → (c.asidIndex (pkAsid e.packet)).isSome = true → packetBad e.packet = true → refused FC.reservedField) ∧
      (c.en = true → (c.asidIndex (pkAsid e.packet)).isSome = true → packetBad e.packet = false →
        (∀ x, e.mapFail = some x → (x.code ≠ FC.reservedField ∨ e.afterFail = none) → judge s e = .refuse x) ∧
        (∀ y, e.afterFail = some y → (e.mapFail = none ∨ ∃ x, e.mapFail = some x ∧ x.code = FC.reservedField) →
          judge s e = .refuse y) ∧
        (e.mapFail = none → e.afterFail = none →
          (∀ j < e.after.length, ∀ code, done (e.after.getD j 0) code → (∀ k < j, ∀ x, ¬done (e.after.getD k 0) x) →
            refused code) ∧
          ((∀ h ∈ e.after, ∀ code, ¬done h code) →
            ((∃ h ∈ e.after, s.handleState e.chair h = some none) ∨ c.nctx ≤ (s.contexts e.chair).length ∨
              s.freeCtx e.chair = none → judge s e = .wait) ∧
            ((∀ h ∈ e.after, s.handleState e.chair h ≠ some none) → (s.contexts e.chair).length < c.nctx →
              (s.freeCtx e.chair).isSome = true → judge s e = .accept e.runs))))) ∧
    (∀ chair e, s.arb.find? (·.chair = chair) = some e → chair < s.chairs.length →
      (∀ q a b d, e.src = .table q a b d → freeIdx (s.chair chair).lt 0 4096 ≠ []) →
      (∀ m x, judge s e ≠ .wait → e.storeFail s = some (m, x) → ∃ u, exec (.launchAcceptance chair) s = .next u ∧
        u.arb = s.arb.erase e ∧ u.launches = s.launches ∧ u.seqNo = s.seqNo) ∧
      (∀ x, judge s e = .refuse x → e.storeFail s = none → ∃ u, exec (.launchAcceptance chair) s = .next u ∧ u.arb = s.arb.erase e ∧
        u.launches = s.launches ∧ u.seqNo = s.seqNo ∧
        (∀ q a b d, e.src = .table q a b d → ∃ y ∈ (u.chair chair).lt, y.idx ∈ freeIdx (s.chair chair).lt 0 4096 ∧
          y.word = complWord 0 x.code ∧ y.st = if d = 0 then .free else .done) ∧
        (∀ core slot idx seq owner priv, e.src = .device core slot idx seq owner priv →
          (s.slot? core slot).map (·.launch) = some owner →
          (u.core core).cq = modEntry (s.core core).cq slot idx seq fun y =>
            if y.st = .pending then y.complete (complWord 0 x.code) else y)) ∧
      (∀ runs ctx, judge s e = .accept runs → e.storeFail s = none → s.freeCtx chair = some ctx →
        ∃ u l, exec (.launchAcceptance chair) s = .next u ∧ u.arb = s.arb.erase e ∧ u.launches = s.launches ++ [l] ∧
          u.seqNo = (s.seqNo + 1) % 2 ^ 32 ∧ l.s = s.seqNo ∧ l.chair = chair ∧ l.ctx = ctx ∧
          l.packet = lowerPri e.packet (s.chair chair).primax ∧
          l.runs = runs ∧ l.priv = e.src.priv ∧ l.canvases = [] ∧ l.aborted = false ∧ l.status = 0 ∧
          ((∀ x ∈ s.contexts chair, pkDw x.packet 7 % 2 ^ 16 ≠ pkDw e.packet 7 % 2 ^ 16) →
            u.frontier chair (pkDw e.packet 7 % 2 ^ 16) = ⟨chair, pkDw e.packet 7 % 2 ^ 16, noOwn, 0⟩))) ∧
    (∀ canvas l, canvas < 4 → s.cores.length = 192 →
      s.launches.find? (fun l => !l.canvases.contains canvas && !l.aborted && !l.out) = some l →
      (∀ c, 48 * canvas ≤ c → c < 48 * canvas + 48 → l.firstOn c < l.count → (s.core c).lq.length < 16) →
      ∃ u, exec (.launchDispatch canvas) s = .next u ∧ (∀ x ∈ u.launches, x.id = l.id → canvas ∈ x.canvases) ∧
        ∀ c, (u.core c).lq = (s.core c).lq ++
          if 48 * canvas ≤ c ∧ c < 48 * canvas + 48 ∧ l.firstOn c < l.count then [⟨l.id, l.firstOn c⟩] else []) ∧
    (∀ core q l i, (s.core core).lq.head? = some q → s.launch? q.launch = some l → core < s.cores.length →
      i < (s.core core).slots.length → i < 4 → (s.core core).slot? i = none → (∀ j < i, ((s.core core).slot? j).isSome = true) →
      (s.core core).slotOf l.id = none → l.aborted = false → l.out = false → l.evict = false →
      pkLmp l.packet ≤ (s.core core).freeUnits.length → ∃ u sl, exec (.contextSlotTake core) s = .next u ∧ u.slot? core i = some sl ∧ sl.launch = l.id ∧ sl.chair = l.chair ∧
        sl.asid = pkAsid l.packet ∧ sl.pri = min (bits (pkDw l.packet 2) 24 3) (s.chair l.chair).primax ∧
        sl.cabq = BitVec.ofNat 64 (pkCabq l.packet) ∧ sl.chain = BitVec.ofNat 64 (pkDw l.packet 7 % 2 ^ 16) ∧
        bits sl.lmpart.toNat 0 5 = pkLmp l.packet ∧ sl.units = (s.core core).freeUnits.take (pkLmp l.packet) ∧
        sl.chest = BitVec.ofNat 64 ((if pkDw l.packet 4 = 0 then defaultChest l.ctx else pkDw l.packet 4 / 0x10000 * 0x10000)
          + if bits (pkDw l.packet 3) 16 16 = 0 then 16 else bits (pkDw l.packet 3) 16 16) ∧
        sl.trapv = 0 ∧ sl.taps = List.replicate 8 0 ∧ sl.strands = [] ∧ sl.forks = [] ∧ sl.insts = [] ∧ sl.post = [] ∧
        sl.pool = List.replicate 256 (false, 0) ∧ ∃ r ∈ (u.core core).ranges, r.slot = some i ∧ r.va = sl.chestShare core)

/-- A root strand is admitted under a free pool index where its slot has room: its tag of depth 1, its entry block, its index
in ITER and zero in every other register (R22, R26, R28, R290, R336). An iteration of a fork starts within its bound as a
copy of the creator's registers, one deeper in its tag, its ordinal in ITER (R26, R28, R169, R398), and ends once every
store of it has been applied (R171, R398); a fork record whose creator is gone leaves with its last iteration (R170). A slot
with nothing left is released: its local memory is zero, its arrays, Palette domains and completion entries are given up,
and its launch completes with its last slot (R23, R243, R260, R304, R320, R321). -/
def Obligations.StrandsStartAndEnd : Prop :=
  ∀ (s : State) (core : Nat),
    (∀ q l i sl idx, (s.core core).lq.head? = some q → s.launch? q.launch = some l → (s.core core).slotOf l.id = some i →
      s.slot? core i = some sl → sl.strands.length < 32 → idx < 256 → (sl.pool.getD idx (true, 0)).1 = false →
      sl.stopped = false → s.stopping sl = false →
      ∃ u t, exec (.rootAdmission core idx) s = .next u ∧
        u.slot? core i = some { sl with
          strands := sl.strands ++ [t], pool := sl.pool.modify idx fun x => (true, x.2 + 1), nextUid := sl.nextUid + 1 } ∧
        t.uid = sl.nextUid ∧ t.tag = rootTag l.chair l.ctx idx ∧ t.ba.toNat = pkDw l.packet 0 / 16 * 16 ∧
        t.iter = BitVec.ofNat 64 (rootOf l.runs q.next) ∧ t.priv = l.priv ∧
        t.g = List.replicate 32 .zero ∧ t.v = List.replicate 8 { Datum.zero with vec := true } ∧ t.lnk = 0 ∧ t.trapba = 0 ∧
        t.flt = 0 ∧ t.traps.toNat % 2 ^ 11 = 0 ∧ t.fork = none ∧
        (u.core core).lq = if q.next + 192 < l.count then ⟨q.launch, q.next + 192⟩ :: (s.core core).lq.tail
          else (s.core core).lq.tail) ∧
    (∀ slot sl rec r idx, s.slot? core slot = some sl → sl.forks.find? (·.idx = rec) = some r → r.next < r.n →
      r.next - r.ended.length < r.bound → sl.roomFor idx = true → s.stopping sl = false →
      ∃ u t, exec (.iterationStart core slot rec idx) s = .next u ∧
        u.slot? core slot = some { sl with
          strands := sl.strands ++ [t], pool := poolTake sl.pool (childTag r.tag idx) idx, nextUid := sl.nextUid + 1,
          forks := sl.forks.map fun (x : ForkRec) => if x.idx = rec then { x with next := x.next + 1 } else x } ∧
        t.uid = sl.nextUid ∧ t.tag = childTag r.tag idx ∧ t.ba.toNat = r.ba % 2 ^ 64 / 16 * 16 ∧ t.iter = BitVec.ofNat 64 r.next ∧
        t.g = r.g ∧ t.v = r.v ∧ t.priv = r.priv ∧ t.lnk = 0 ∧ t.fork = some r.idx) ∧
    (∀ slot sl uid e, s.slot? core slot = some sl → sl.ending.find? (·.uid = uid) = some e → (∀ p ∈ sl.post, p.uid ≠ uid) →
      (∀ d ∈ s.dressers, d.core = core → d.slot = slot → d.uid = uid → d.store = none) →
      ∃ u sl', exec (.iterationEnd core slot uid) s = .next u ∧ u.slot? core slot = some sl' ∧
        (∀ x ∈ sl'.ending, x.uid ≠ uid) ∧ sl'.strands = sl.strands ∧
        ∀ r ∈ sl.forks, let r' : ForkRec := if some r.idx = e.fork then { r with ended := r.ended ++ [e.ord] } else r
          (r'.ended.length ≠ r'.n ∨ (sl.strand? r.creator).isSome = true → r' ∈ sl'.forks) ∧
          (r'.ended.length = r'.n → sl.strand? r.creator = none → r' ∉ sl'.forks)) ∧
    (∀ slot sl, s.slot? core slot = some sl → s.MayRelease core slot sl →
      ∃ u, exec (.slotRelease core slot) s = .next u ∧ u.slot? core slot = none ∧
        (∀ a, (u.core core).mem.get a = if (∃ n ∈ sl.units, n * 0x4000 ≤ a ∧ a < (n + 1) * 0x4000) then 0
          else (s.core core).mem.get a) ∧
        (∀ a ∈ (u.core core).arrays, a.slot ≠ slot) ∧ (∀ d ∈ (u.core core).palette, d.owner ≠ some slot) ∧
        (∀ l, s.launch? sl.launch = some l → l.out = false → l.canvases.length = 4 →
          (∀ c < s.cores.length, (∀ q ∈ (s.core c).lq, q.launch ≠ l.id) ∧
            ∀ i x, s.slot? c i = some x → x.launch = l.id → c = core ∧ i = slot) → u.launch? sl.launch = none))

/-! ### Engine commands -/

/-- The oldest held command that may issue does: it stands behind no held command of its strand, and its unit has room; it joins
its unit's queue behind those issued, and no memory changes (R211, R318). A command reads its descriptor as it issues; a
reserved field in a copy's descriptor ends it with RESERVED_FIELD, and nothing is moved (R211, R212). A unit of XCOPY or XFILL
without a sync word stores its bytes and nothing else (R211, R212); SYNCI sets TARGET, clears COUNT and keeps GEN (R213);
a lane of SCAT stores its element (R208). A command with no unit left completes: its entry takes its word where it
still waits, with its status and the COUNT that a rule states, and the command is gone; a LAUNCH whose packet the
arbiter has taken up leaves its entry to its context (R177, R220, R320). SEQC acts once its step has come, in its
strand's order: a record ahead of its step, DONE or HELD keeps every byte, and a bonus token alone adds one to LEN and
STEP and stands as LAST (R74, R75, R276). The unit of 64 bytes of a copy is the model's choice (log entry 33), and the
COUNT that no rule states a free value (log entry 36). -/
def Obligations.EnginesRunTheirCommands : Prop :=
  ∀ (s : State) (core : Nat) (sl : Slot) (e : Eng), (s.core core).engs.find? (·.id = e.id) = some e → s.slot? core e.slot = some sl →
    let now (u : State) : Option Eng := (u.core core).engs.find? (·.id = e.id)
    let copy : Prop := (∃ f, e.instr = .xcopy f) ∨ ∃ f, e.instr = .xfill f
    ((s.core core).engs.find? (s.heldMay core) = some e →
      ∃ u x, exec (.heldCommandIssue core) s = .next u ∧
        (u.core core).engs = (s.core core).engs.filter (·.id ≠ e.id) ++ [x] ∧ x.id = e.id ∧ x.held = false ∧
        u.hbm = s.hbm ∧ (u.core core).mem = (s.core core).mem ∧
        (copy → sl.storesFor e = [] → s.poisonedLocal core sl (e.a.toNat % 2 ^ 64) 32 = false →
          let d := s.readLocal core sl (e.a.toNat % 2 ^ 64) 32
          bits d 196 9 ≠ 0 ∨ bits d 192 2 ≠ 0 ∨ bits d 224 32 = 0 →
            x.todo = [] ∧ x.status = FC.reservedField ∧ x.count = 0)) ∧
    (∀ k, e.held = false → k ∈ e.todo → s.unitMay core sl e k = true →
      let acts (also : State → Prop) : Prop := ∃ u x, exec (.engineCompletion core e.id (.unit k)) s = .next u ∧ now u = some x ∧
        x.todo = e.todo.erase k ∧ x.status = e.status ∧ also u
      (copy → bit (e.dw 3) 15 = false → ∀ v t, e.readSrc s sl (64 * k) (min 64 (e.total - 64 * k)) = .ok v →
        e.writeDst s sl (64 * k) (min 64 (e.total - 64 * k)) v = .ok t →
        acts fun u => u.hbm = t.hbm ∧ ∀ c, (u.core c).mem = (t.core c).mem) ∧
      (∀ f, e.instr = .synci f → k = 0 → s.MemWf → ∀ off, off = e.a.toNat % 2 ^ 64 → off / 0x4000 = (off + 15) / 0x4000 →
        s.poisonedLocal core sl off 16 = false →
        acts fun u => u.hbm = s.hbm ∧ (∀ c, c ≠ core → (u.core c).mem = (s.core c).mem) ∧
          (∀ a, (∀ j < 16, a ≠ sl.localAddr (off + j)) → (u.core core).mem.get a = (s.core core).mem.get a) ∧
          ∀ j < 16, (u.core core).mem.get (sl.localAddr (off + j)) =
            BitVec.ofNat 8 ((e.b.toNat % 2 ^ 40 + bits (s.readLocal core sl off 8) 40 24 * 2 ^ 40) / 256 ^ j)) ∧
      (∀ f gpa key, e.instr = .scat f → s.MemWf → s.lost key = false →
        walkVa s sl.chair sl.asid (!e.priv) .store (e.laneAddr k) f.w.bytes = .ok (gpa, key) →
        acts fun u => (∀ c, (u.core c).mem = (s.core c).mem) ∧
          (∀ a, a < key ∨ key + f.w.bytes ≤ a → u.hbm.get a = s.hbm.get a) ∧
          ∀ j < f.w.bytes, u.hbm.get (key + j) = (s.chair sl.chair).keepHold (gpa + j) (s.hbm.get (key + j))
            (BitVec.ofNat 8 (bits e.b.toNat (64 * k) (8 * f.w.bytes) / 256 ^ j)))) ∧
    (e.held = false → e.todo = [] →
      let ends : Prop := ∃ u n, exec (.engineCompletion core e.id .finish) s = .next u ∧ now u = none ∧
        (e.countFree = false → n = e.count) ∧
        (u.core core).cq = modEntry (s.core core).cq e.slot e.cq e.seq fun x =>
          if x.st = .pending then x.complete (complWord n e.status) else x
      ((∀ f, e.instr ≠ .launch f) → (∀ f, e.instr ≠ .invr f) → (∀ f, e.instr ≠ .inva f) → ends) ∧
      ((∃ f, e.instr = .invr f ∨ e.instr = .inva f) → s.invDone sl e = true → ends) ∧
      (∀ f, e.instr = .launch f → (e.status ≠ 0 → ends) ∧
        (e.status = 0 → s.atArbiter core sl e = false → ∃ u, exec (.engineCompletion core e.id .finish) s = .next u ∧
          now u = none ∧ (u.core core).cq = (s.core core).cq))) ∧
    (∀ f key, e.instr = .seqc f → e.held = false → 0 ∈ e.todo → (s.core core).seqBefore e = false →
      s.unitsMay core sl e = true → s.seqKey sl.chair (bits (e.dw 0) 0 20) true = .ok key →
      bits (e.dw 0) 32 32 ≤ s.hbm.read (key + 4) 4 →
      let acts (len : Nat) (res : Nat) (ok : State → Prop) : Prop := ∃ u x, exec (.seqcRetire core e.id) s = .next u ∧ now u = some x ∧
        x.todo = e.todo.erase 0 ∧ x.count / 2 ^ 24 = len ∧ bits x.count 8 8 = res ∧ ok u
      let len := s.hbm.read key 4
      let idle (res : Nat) : Prop := acts len res fun u => u.hbm = s.hbm
      let step := s.hbm.read (key + 4) 4
      let flags := (s.hbm.get (key + 8)).toNat
      (bits (e.dw 0) 32 32 < step → idle 1) ∧
      (step = bits (e.dw 0) 32 32 → bit flags 0 = true → idle 2) ∧
      (step = bits (e.dw 0) 32 32 → bit flags 0 = false → bit flags 1 = true → idle 3) ∧
      (step = bits (e.dw 0) 32 32 → bit flags 0 = false → bit flags 1 = false → e.data = [] → e.token < 2 ^ 18 →
        s.hbm.get (key + 11) = 0 → len < 2 ^ 24 → s.MemWf →
        acts (len + 1) 0 fun u => u.hbm.read key 4 = len + 1 ∧ u.hbm.read (key + 4) 4 = (step + 1) % 2 ^ 32 ∧
          u.hbm.read (key + 32) 8 % 2 ^ 18 = e.token ∧ ∀ a, a < key ∨ key + 40 ≤ a → u.hbm.get a = s.hbm.get a))

/-! ### Held faults and poison -/

/-- A held fault whose block is the oldest of its strand is written at PI of the chair's queue while an entry is free, after
those of its port that stand before it, with tag, block address, virtual address and a fault id that no other held fault of
the chair has, and PI steps (R197, R324). A wake lets the held firing, access or fetch try again, a rejection raises TRANSLATION
at its LSID; of a stage-1 record the service's own walk decides, and a malformed second-stage entry is rejected; an answer to a
fault that no port holds changes nothing but the queue (R197, R325, R332, R405). A word found uncorrectable is poisoned, or the
held token, the decoded block or the window word is, whatever memory holds it, and no byte changes; of Bureau state it is a
machine check (R308, R316, R393). Which faults share a port is the build's, and that an answer which finds no held fault changes
the queue alone is the model's reading (log entry 29). -/
def Obligations.HeldFaultsAreAnswered : Prop :=
  ∀ (s : State) (core : Nat),
    (∀ n h sl i t base lg, (s.core core).held[n]? = some h → s.slot? core h.slot = some sl → sl.inst? h.age = some i →
      sl.strand? i.uid = some t → ringOf (s.chair sl.chair).chfq = some (base, lg) → h.fid = none → sl.isOldest i = true →
      (∀ x ∈ (s.core core).held.take n, Config.memoryPort x.k = Config.memoryPort h.k → (s.core core).eligible x = false) →
      s.ringUsed base < 2 ^ lg → s.MemWf → (s.heldFids sl.chair).length < 2 ^ 32 →
      ∃ u fid, exec (.faultQueueRecord core n) s = .next u ∧ fid ∉ s.heldFids sl.chair ∧ fid < 2 ^ 32 ∧
        (u.core core).held = (s.core core).held.set n { h with fid := some fid } ∧
        u.hbm.read base 8 = (s.hbm.read base 8 + 1) % 2 ^ 64 ∧
        let at_ := base + 64 + 32 * (s.hbm.read base 8 % 2 ^ lg)
        u.hbm.read at_ 8 = t.tag.toNat ∧ u.hbm.read (at_ + 8) 8 = i.ba % 2 ^ 64 ∧ u.hbm.read (at_ + 16) 8 = h.va % 2 ^ 64 ∧
        u.hbm.read (at_ + 24) 8 = (fid * 2 ^ 32 + core * 2 ^ 24 + h.slot * 2 ^ 22 + bnat h.wr * 2 ^ 21 + h.lsid * 2 ^ 16
          + h.stage) % 2 ^ 64) ∧
    (∀ slot sl fid, s.slot? core slot = some sl →
      ((∀ h ∈ (s.core core).held, ¬(h.slot = slot ∧ h.fid = some fid)) →
        ∀ wake, ∃ u, exec (.faultAnswer core slot fid wake) s = .next u ∧
          u = { s with hbm := u.hbm, poison := u.poison, stackErrs := u.stackErrs }) ∧
      (∀ h i t, (s.core core).held.find? (fun h => h.slot = slot && h.fid = some fid) = some h → sl.inst? h.age = some i →
        sl.strand? i.uid = some t →
        let passed := s.passRecord core slot fid
        let nd : Need := if i.words = [] then .fetch else if h.wr then .store else .load
        let may (wake : Bool) : Prop := (h.stage = 1 → passed.stage1Ok sl (!t.priv) nd h.va = wake) ∧
          (h.stage ≠ 1 → wake = true → passed.stage2Bad sl (!t.priv) nd h.va = false)
        let answers (wake : Bool) (now : State → Prop) : Prop := may wake →
          ∃ u, exec (.faultAnswer core slot fid wake) s = .next u ∧ (u.core core).held = (s.core core).held.erase h ∧ now u
        (i.words ≠ [] → (∀ m, h.ret = .fire m → answers true fun u => (u.core core).ready = (s.core core).ready ++ [m]) ∧
          (h.ret = .again → answers true fun u => (u.core core).ready = (s.core core).ready) ∧
          ((s.core core).loadAt slot h.age h.k = none → answers false fun u =>
            u.block? core slot h.age = some { i with faults := i.faults ++ [.access FC.translation h.lsid h.va] })) ∧
        (i.words = [] → (answers true fun u => u.slot? core slot = some { sl with
            insts := sl.insts.filter (·.age ≠ h.age), grants := sl.grants ++ [⟨i.uid, i.ba, i.win, false⟩] }) ∧
          answers false fun u =>
            u.block? core slot h.age = some { i with faults := i.faults ++ [⟨FC.translation, true, 0, h.va, 0⟩] }))) ∧
    (∀ a, a < 0xA000000000 → ∃ u, exec (.poisonDetected (.hbm a)) s = .next u ∧ u.hbm = s.hbm ∧
      ∀ w, w ∈ u.poison ↔ w = a / 8 ∨ w ∈ s.poison) ∧
    (∀ a, core < s.cores.length → a < 0x40000 → ∃ u, exec (.poisonDetected (.localMem core a)) s = .next u ∧
      (u.core core).mem = (s.core core).mem ∧ ∀ w, w ∈ (u.core core).poison ↔ w = a / 8 ∨ w ∈ (s.core core).poison) ∧
    (∀ n t, (s.core core).cab[n]? = some t → ∃ u, exec (.poisonDetected (.cabinet core n)) s = .next u ∧
      (u.core core).cab = (s.core core).cab.set n { t with poison := true }) ∧
    (∀ n t, (s.core core).chest[n]? = some t → ∃ u, exec (.poisonDetected (.chest core n)) s = .next u ∧
      (u.core core).chest = (s.core core).chest.set n { t with poison := true }) ∧
    (∀ n off x key p, s.saves[n]? = some x → off < imageSize → stage2 s x.body.chair (x.area + off) = .ok (key, p) →
      ∃ u, exec (.poisonDetected (.image n off)) s = .next u ∧ u.hbm = s.hbm ∧ ∀ w, w ∈ u.poison ↔ w = key / 8 ∨ w ∈ s.poison) ∧
    (∀ n k d, (s.core core).code[n]? = some d → k < d.words.length + 2 →
      ∃ u va, exec (.poisonDetected (.decoded core n k)) s = .next u ∧ va ≤ d.ba + 8 * k ∧
        (d.poison = none → va = d.ba + 8 * k) ∧ (u.core core).code = (s.core core).code.set n { d with poison := some va }) ∧
    (∀ slot age k i, s.block? core slot age = some i → k < i.words.length →
      ∃ u, exec (.poisonDetected (.window core slot age k)) s = .next u ∧
        u.block? core slot age = some { i with bad := k :: i.bad }) ∧
    exec (.poisonDetected .bureau) s = .next { s with svcCheck := true }

/-! ### Eviction, resume and chair reset -/

/-- A context that holds off a waiting one may be marked for eviction (R361). An eviction takes the whole context off
every core: each of its slots is vacated into a save image that holds its strands, forks and registers and none of its
blocks, and its launch leaves every launch queue, the index of its next root kept (R362, R364, R365). A resume puts
each image back in its slot, the context running again; an image with an uncorrectable word, or one that fails its checks,
aborts it (R370). A chair
reset tears down every context of the chair, answers its requests, drops its packets, reservations, frontiers and
cached translations and code, and returns its control block to the reset values but for EN (R299, R320, R374). That an
eviction is one act is the model's reading (log entry 50). -/
def Obligations.ContextsAreSwitched : Prop :=
  ∀ (s : State),
    (∀ id waiter l w, s.launch? id = some l → s.launch? waiter = some w → id ≠ waiter → l.aborted = false → l.out = false →
      (∃ c < s.cores.length, s.heldOff c waiter id = true) →
      ∃ u, exec (.timeSliceExpiry id waiter) s = .next u ∧ u = { s with launches := u.launches } ∧
        ∀ x ∈ u.launches, x.id = id → x.evict = true) ∧
    (∀ id l, s.launch? id = some l → l.evict = true → l.aborted = false → l.out = false →
      (∀ c i, (c, i) ∈ s.placesOf id → s.evictable c i = true ∧ (s.imagePlace l c).isSome = true) →
      ∃ u, exec (.eviction id) s = .next u ∧
        (∀ c i sl, (c, i) ∈ s.placesOf id → s.slot? c i = some sl → u.slot? c i = none ∧
          ∃ x ∈ u.saves, x.launch = id ∧ x.core = c ∧ x.slot = i ∧
            x.body = { sl with insts := [], grants := [], forks := x.body.forks } ∧
            ∀ r ∈ x.body.forks, ∃ y ∈ sl.forks, r = { y with joined := r.joined }) ∧
        (∀ c, ∀ q ∈ (u.core c).lq, q.launch ≠ id) ∧
        (∀ x ∈ u.launches, x.id = id → x.out = true ∧ x.evict = false ∧ ∀ c < s.cores.length, ∀ q,
          (s.core c).lq.find? (·.launch = id) = some q → (c, q.next) ∈ x.back)) ∧
    (∀ id l, s.launch? id = some l → l.out = true → (∀ x ∈ s.saves, x.launch = id → s.imageFits x = true) →
      ((∀ x ∈ s.saves, x.launch = id → s.imageBad x = false ∧ x.core < s.cores.length ∧ x.slot < (s.core x.core).slots.length) →
        (s.saves.filter (·.launch = id)).Pairwise (fun x y => x.core ≠ y.core) →
        ∃ u, exec (.contextResume id) s = .next u ∧ (∀ x ∈ u.saves, x.launch ≠ id) ∧ (∀ x ∈ u.launches, x.id = id → x.out = false) ∧
          ∀ x ∈ s.saves, x.launch = id → ∃ sl, u.slot? x.core x.slot = some sl ∧
            sl = { x.body with units := sl.units, lmpart := sl.lmpart, chestOk := sl.chestOk, chestHigh := sl.chestHigh }) ∧
      (l.aborted = false → (∃ x ∈ s.saves, x.launch = id ∧ s.imageBad x = true) →
        ∃ u, exec (.contextResume id) s = .next u ∧ u.AbortedWith id FC.uncorrectable)) ∧
    (∀ n, n < s.chairs.length → ∃ u, exec (.chairReset n) s = .next u ∧
      (let c := u.chair n
       c.chctl = BitVec.ofNat 64 (0x100 + bnat (s.chair n).en * 2 ^ 16) ∧ c.chs2 = 0 ∧ c.chseqb = 0 ∧ c.chseqn = 0 ∧ c.chgrant = 0 ∧
       c.chprb = 0 ∧ c.chpol = 0 ∧ c.chtq = 0 ∧ c.chfq = 0 ∧ c.chstop = 0 ∧ (∀ a ∈ c.chasid, a = 0) ∧ (∀ q ∈ c.chcq, q = 0) ∧ c.reqs = [] ∧ c.binds = [] ∧
       ∀ e ∈ c.lt, e.st = .free) ∧
      (∀ a ∈ u.arb, a.chair ≠ n) ∧ (∀ d ∈ u.dressers, d.chair ≠ n) ∧ (∀ f ∈ u.frontiers, f.chair ≠ n) ∧
      (∀ k ∈ u.cores, (∀ d ∈ k.code, d.chair ≠ n) ∧ (∀ e ∈ k.tlb, e.chair ≠ n) ∧ ∀ e ∈ k.ranges, e.chair ≠ n) ∧
      ∀ l ∈ s.contexts n, (∀ x ∈ u.launches, x.id = l.id → x.aborted = true ∧ x.status = FC.serviceAbort) ∧
        ∀ c i, (c, i) ∈ s.placesOf l.id → u.slot? c i = none)

/-! ### The service's writes -/

/-- A service write to a chair's control block takes effect in its own field: EN, PRIMAX, which also lowers every CTXPRI
of the chair above it, NCTX, RST, the bases and counts of the block, its grants, a command queue's place, an ASID
(R70, R293, R299, R300, R322, R340). A write to a counter of an error record or to ALERT clears it whatever it
carries, and CETHR takes its value (R350); PMCTL and PMCNT take theirs (R352). HOLD of a sequence record clears and no
other bit of memory changes (R70). A second-stage entry takes its value; a leaf that names another frame names one
that no other chair holds and that is zero, or that its chair holds already (R312, R332). A frame that no chair holds, that no
access can still reach and no invalidation in progress concerns, is wiped, and nothing else changes (R302, R312). The service
loads a range only where every page of it translates alike (R335). That a leaf to a new frame waits for the frame to be handed
over is the model's reading of R312 (log entry 55). -/
def Obligations.ServiceWritesTakeEffect : Prop :=
  ∀ (s : State) (n : Nat), n < s.chairs.length →
    let c := s.chair n
    let writes (e : Instr) (now : Chair → Prop) : Prop := ∃ u, exec e s = .next u ∧ now (u.chair n) ∧
      (∀ m, m ≠ n → u.chair m = s.chair m) ∧ u.launches = s.launches ∧ ∀ k, (u.core k).mem = (s.core k).mem
    let reg (off : Nat) (v : BitVec 64) (now : Chair → Prop) : Prop := writes (.serviceRegisterWrite n off v) now
    (∀ en, en = false ∨ LifeCycle.chairs s.lcs = true → writes (.chairEnableWrite n en) fun d =>
      d = { c with chctl := d.chctl } ∧ d.en = en ∧ d.primax = c.primax ∧ d.nctx = c.nctx ∧ d.rst = c.rst) ∧
    (∀ p : BitVec 3, (writes (.primaxWrite n p) fun d =>
        d = { c with chctl := d.chctl } ∧ d.primax = p.toNat ∧ d.en = c.en ∧ d.nctx = c.nctx ∧ d.rst = c.rst) ∧
      ∃ u, exec (.primaxWrite n p) s = .next u ∧ ∀ k i sl, s.slot? k i = some sl → u.slot? k i =
        some (if sl.chair = n then { sl with ctxpri := BitVec.ofNat 64 (min sl.pri p.toNat) } else sl)) ∧
    (∀ g on, s.MemWf → g < 4096 → ∃ u, exec (.grantWrite n (.probe g) on) s = .next u ∧ u = { s with hbm := u.hbm } ∧
      bit (u.hbm.get (c.chprb.toNat + g / 8)).toNat (g % 8) = on ∧ ∀ a, a ≠ c.chprb.toNat + g / 8 → u.hbm.get a = s.hbm.get a) ∧
    (∀ g on, s.MemWf → g < 256 → ∃ u, exec (.grantWrite n (.policy g) on) s = .next u ∧ u = { s with hbm := u.hbm } ∧
      bit (u.hbm.get (c.chpol.toNat + g / 8)).toNat (g % 8) = on ∧ ∀ a, a ≠ c.chpol.toNat + g / 8 → u.hbm.get a = s.hbm.get a) ∧
    (∀ on, writes (.grantWrite n .steer on) fun d => d = { c with chgrant := d.chgrant } ∧ d.chgrant.toNat = bnat on) ∧
    (∀ q v, q < 4 → q < c.chcq.length → writes (.chcqWrite n q v) fun d => d = { c with chcq := d.chcq, qs := d.qs } ∧
      d.queue? q = if 6 ≤ v.toNat % 32 ∧ v.toNat % 32 ≤ 16 then some (bits v.toNat 12 40 * 0x1000, v.toNat % 32) else none) ∧
    (∀ v, reg 0x000 v fun d => d = { c with chctl := d.chctl } ∧ d.primax = c.primax ∧ d.en = c.en ∧
      (1 ≤ bits v.toNat 4 5 → bits v.toNat 4 5 ≤ 16 → d.nctx = bits v.toNat 4 5) ∧ d.rst = (c.rst || bit v.toNat 31)) ∧
    (∀ v, reg 0x008 v fun d => d = { c with chs2 := d.chs2 } ∧ bits d.chs2.toNat 12 40 = bits v.toNat 12 40 ∧ bit d.chs2.toNat 0 = bit v.toNat 0) ∧
    (∀ v, reg 0x010 v fun d => d = { c with chseqb := d.chseqb } ∧ bits d.chseqb.toNat 12 40 = bits v.toNat 12 40) ∧
    (∀ v, v.toNat ≤ 2 ^ 20 → reg 0x018 v fun d => d = { c with chseqn := d.chseqn } ∧ d.chseqn = v) ∧
    (∀ v, reg 0x028 v fun d => d = { c with chprb := v }) ∧ (∀ v, reg 0x030 v fun d => d = { c with chpol := v }) ∧
    (∀ v, reg 0x038 v fun d => d = { c with chtq := d.chtq, trapSent := false } ∧ ringOf d.chtq = ringOf v) ∧
    (∀ v, reg 0x040 v fun d => d = { c with chfq := d.chfq } ∧ ringOf d.chfq = ringOf v) ∧
    (∀ v, reg 0x048 v fun d => d = { c with chstop := d.chstop } ∧ bits d.chstop.toNat 14 38 = bits v.toNat 14 38 ∧ bit d.chstop.toNat 0 = bit v.toNat 0) ∧
    (∀ j v, j < 16 → reg (0x100 + 8 * j) v fun d => d = { c with chasid := c.chasid.set j (BitVec.ofNat 64 (v.toNat % 2 ^ 17)) }) ∧
    (∀ f v, ∃ w : ErrRec → ErrRec, (f = .ce → w = fun e => { e with ce := 0 }) ∧ (f = .ue → w = fun e => { e with ue := 0 }) ∧
      (f = .de → w = fun e => { e with de := 0 }) ∧ (f = .cethr → w = fun e => { e with cethr := v.toNat }) ∧
      (f = .alert → w = fun e => { e with alert := false }) ∧
      (∀ k, k < s.cores.length →
        let at_ (x : ErrUnit) (i : Nat) : Prop := ∃ u, exec (.errorCounterWrite x f v) s = .next u ∧
          (u.core k).errs = (s.core k).errs.modify i w
        at_ (.coreLocal k) 0 ∧ at_ (.coreCabinet k) 1 ∧ at_ (.coreCode k) 2) ∧
      (∀ k, k < 128 → exec (.errorCounterWrite (.slice k) f v) s = .next { s with sliceErrs := s.sliceErrs.modify k w }) ∧
      (∀ m, m < 8 → exec (.errorCounterWrite (.stack m) f v) s = .next { s with stackErrs := s.stackErrs.modify m w })) ∧
    (∀ k i v, k < s.cores.length → i < 4 →
      (∃ u, exec (.perfCounterWrite k i true v) s = .next u ∧
        (u.core k).perf = (s.core k).perf.modify i fun p => { p with cnt := BitVec.ofNat 64 (v.toNat % 2 ^ 49) }) ∧
      ∃ u, exec (.perfCounterWrite k i false v) s = .next u ∧
        (u.core k).perf = (s.core k).perf.modify i fun p => { p with ctl := BitVec.ofNat 64 (v.toNat % 2 ^ 16) }) ∧
    (∀ q key p, s.MemWf → q < bits c.chseqn.toNat 0 21 → stage2 s n (c.seqAddr q) = .ok (key, p) →
      ∃ u, exec (.holdClear n q) s = .next u ∧ u = { s with hbm := u.hbm } ∧ u.hbm.get (key + 8) = s.hbm.get (key + 8) &&& 0xFD ∧
        ∀ a, a ≠ key + 8 → u.hbm.get a = s.hbm.get a) ∧
    (∀ hpa v, s.MemWf → inCarve hpa 8 = true → hpa % 8 = 0 →
      (localLeaf s v.toNat = false ∨
        localLeaf s (s.hbm.read hpa 8) = true ∧ bits (s.hbm.read hpa 8) 12 28 = bits v.toNat 12 28 ∨
        ∀ size ∈ [2 ^ 30, 2 ^ 21], s.mayHand n hpa (bits v.toNat 12 28 * 0x1000) size = true) →
      ∃ u, exec (.secondStageTableWrite n hpa v) s = .next u ∧ u = { s with hbm := u.hbm, poison := u.poison } ∧
        u.hbm.read hpa 8 = v.toNat ∧ ∀ a, a < hpa ∨ hpa + 8 ≤ a → u.hbm.get a = s.hbm.get a) ∧
    (∀ a, s.MemWf → s.boot = .running → a % 2 ^ 21 = 0 → a < 0x9E00000000 → s.invalidating = false → s.frameBusy a = false →
      (∀ m, m < s.chairs.length → s.holdsFrame m none a (2 ^ 21) = false) →
      ∃ u, runAct (.wipe a) s = .next u ∧ u = { s with hbm := u.hbm, poison := u.poison } ∧
        (∀ b, u.hbm.get b = if a ≤ b ∧ b < a + 2 ^ 21 then 0 else s.hbm.get b) ∧
        ∀ w, w ∈ u.poison ↔ w ∈ s.poison ∧ (8 * w < a ∨ a + 2 ^ 21 ≤ 8 * w)) ∧
    (∀ k (r : RangeEntry) u, runAct (.rangeLoad k r) s = .next u →
      (u.core k).ranges = addRange (s.core k).ranges r ∧ r.slot = none ∧ ∀ i, i < r.len / 4096 →
        ∃ e, stage1 s k r.chair r.asid (r.va + 4096 * i) = .ok e ∧ e.perm = r.perm ∧ e.gpa + (r.va + 4096 * i - e.va) = r.gpa + 4096 * i)

/-! ### Command queues and tables -/

/-- The Bureau reads each entry of a queue in order and keeps a copy of it; an entry that R323 refuses, a copy that a LOOP
repeats too, and any TABLE_UPDATE of a chair, sets BAD_ENTRY with its KIND; an entry that IF skips is consumed as it is
written (R322, R323, R376, R377). An entry read then acts: LAUNCH and LAUNCH_INDIRECT offer their packet with the map and the
after list read with it, WAIT goes on once its handle has completed or names nothing and frees a launch-table entry, SIGNAL
stores its value, LOOP goes back while its count lasts, IF skips where its word is zero, and BARRIER waits for the launches of
its queue (R320, R345, R377, R378); what an entry cannot read or store where it asks sets BAD_ENTRY too (R377, R385). A TAIL
too far ahead sets OVERFLOW (R322). In the service's own queue any KIND but TABLE_UPDATE is bad, an image with V = 0 empties
its entry, and one that passes the checks of R342 replaces it. The form of the service's own queue is the model's choice (log
entry 25). -/
def Obligations.QueueEntriesAct : Prop :=
  ∀ (s : State) (chair n : Nat) (e : List Word) (base lg : Nat) (key : Nat) (p : Perm),
    let q : QueueId := .chair chair n
    let c := (s.chair chair).cmdq n
    let acts (op : Instr) (now : CmdQ → State → Prop) : Prop := ∃ u, exec op s = .next u ∧ now ((u.chair chair).cmdq n) u
    let past : Nat := (c.pos + 1) % 2 ^ 64
    let status (op : Instr) (code k : Nat) (m : Nat) : Prop := ∃ u, exec op s = .next u ∧
      (∀ j < m, u.hbm.get (key + j) = (s.chair chair).keepHold (base + 16 + j) (s.hbm.get (key + j))
        (BitVec.ofNat 8 ((k * 2 ^ 8 + code) / 256 ^ j))) ∧ ∀ a, a < key ∨ key + m ≤ a → u.hbm.get a = s.hbm.get a
    let kind := entryKind e
    let d := entryDw e
    let op : Instr := match kind with
      | 1 => .cmdLaunch q
      | 2 => .launchIndirect q
      | 3 => .cmdWait q
      | 4 => .signal q
      | 5 => .loopE q
      | 6 => .ifE q
      | 7 => .barrier q
      | 8 => .tableUpdate q
      | _ => .badEntry q
    let stays : Prop := acts op fun x u => x.pos = c.pos ∧ x.skip = c.skip ∧ x.loops = c.loops ∧ x.offered = c.offered ∧ u.arb = s.arb
    s.MemWf → (s.chair chair).queue? n = some (base, lg) → n < (s.chair chair).qs.length → stage2 s chair (base + 16) = .ok (key, p) →
    (∀ fill, s.queueFill chair n = some fill → (∀ x ∈ c.copies, x.1 ≠ c.pos) → 2 ^ lg < fill → status (.commandQueueOverflow q) 1 0 1) ∧
    (∀ r, s.queueEntry chair n = some (e, r) → 0 < c.skip → acts op fun x _ => x.pos = past ∧ x.skip = c.skip - 1) ∧
    (∀ r, s.queueEntry chair n = some (e, r) → c.skip = 0 → entryOk e (2 ^ lg) c.pos = false → stays ∧
      ((∀ y, c.copies.head? = some y → y.1 ≠ c.pos) → status op 2 kind 2)) ∧
    (s.queueEntry chair n = some (e, false) → c.skip = 0 → entryOk e (2 ^ lg) c.pos = true →
      acts op fun x _ => x.pos = c.pos ∧ (c.pos, e) ∈ x.copies) ∧
    (s.queueEntry chair n = some (e, true) → c.skip = 0 → entryOk e (2 ^ lg) c.pos = true →
      let stored : Prop := d 2 = 0 ∨ ∃ k, gpaPlace s chair (d 2) = .ok k
      (∀ v, kind = 1 → c.offered = false → s.arb.length < 256 → gpaLoad s chair (d 1) 64 = .ok v → stored →
        acts op fun x u => x.pos = c.pos ∧ x.offered = true ∧ u.hbm = s.hbm ∧
          u.arb = s.arb ++ [readPacket s chair (dwsOf v 8) (.table n 0 0 (d 2))]) ∧
      (∀ v r, kind = 2 → c.offered = false → s.arb.length < 256 → gpaLoad s chair (d 1) 64 = .ok v → gpaLoad s chair (d 3) 4 = .ok r → stored →
        acts op fun x u => x.pos = c.pos ∧ x.offered = true ∧ u.hbm = s.hbm ∧
          ∃ w, u.arb = s.arb ++ [readPacket s chair w (.table n 0 0 (d 2))] ∧
            pkRoots w = (if r < 2 ^ 24 then r else 0) ∧ ∀ i, i ≠ 2 → w[i]? = (dwsOf v 8)[i]?) ∧
      (∀ x, kind = 1 ∨ kind = 2 → c.offered = false → s.arb.length < 256 → gpaLoad s chair (d 1) 64 = .error x → stays) ∧
      (∀ x, kind = 1 ∨ kind = 2 → c.offered = false → s.arb.length < 256 → d 2 ≠ 0 → gpaPlace s chair (d 2) = .error x → stays) ∧
      (∀ x, kind = 2 → gpaLoad s chair (d 3) 4 = .error x → stays) ∧
      (kind = 3 → s.handleState chair (d 1) = none → acts op fun x u => x.pos = past ∧ u.hbm = s.hbm) ∧
      (∀ w, kind = 3 → s.handleState chair (d 1) = some (some w) → acts op fun x u => x.pos = past ∧ u.hbm = s.hbm ∧
        (bits (d 1) 56 2 = 1 → s.waitsOn chair (d 1) = false → u.handleState chair (d 1) = none)) ∧
      (∀ k, kind = 4 → gpaPlace s chair (d 1) = .ok k → acts op fun x u => x.pos = past ∧
        (∀ j < 8, u.hbm.get (k + j) = (s.chair chair).keepHold (d 1 + j) (s.hbm.get (k + j)) (BitVec.ofNat 8 (d 2 / 256 ^ j))) ∧
        ∀ a, a < k ∨ k + 8 ≤ a → u.hbm.get a = s.hbm.get a) ∧
      (∀ x, kind = 4 → gpaPlace s chair (d 1) = .error x → stays) ∧
      (kind = 5 → loopAcrossIf c c.pos (bits (d 1) 32 16) = false →
        let count := ((c.loops.find? (·.1 = c.pos)).map (·.2)).getD (d 1 % 2 ^ 32)
        (count = 0 → acts op fun x u => x.pos = past ∧ u.hbm = s.hbm ∧ ∀ y ∈ x.loops, y.1 ≠ c.pos) ∧
        (0 < count → acts op fun x u => x.pos = c.pos - bits (d 1) 32 16 ∧ u.hbm = s.hbm ∧ x.loops.find? (·.1 = c.pos) = some (c.pos, count - 1))) ∧
      (kind = 5 → loopAcrossIf c c.pos (bits (d 1) 32 16) = true → stays) ∧
      (∀ v, kind = 6 → gpaLoad s chair (d 1) 8 = .ok v → acts op fun x u => x.pos = past ∧ u.hbm = s.hbm ∧
        x.skip = if v = 0 then d 2 else 0) ∧
      (∀ x, kind = 6 → gpaLoad s chair (d 1) 8 = .error x → stays) ∧
      (kind = 7 → (∀ id ∈ c.launched, s.launch? id = none) → acts op fun x u => x.pos = past ∧ u.hbm = s.hbm ∧ x.launched = [])) ∧
    (s.svcQueue.head? = some e → s.svcStatus = 0 →
      (kind ≠ 8 → ∃ u, exec (.badEntry .service) s = .next u ∧ u.svcStatus = 2 ∧ u.svcBadk = kind ∧ u.svcQueue = s.svcQueue) ∧
      (kind = 8 → d 0 = 8 → bits (d 1) 8 8 = 0 → bits (d 1) 32 32 = 0 → zeroFrom e 3 = true → d 2 % 32 = 0 → inCarve (d 2) 32 = true →
        let idx := bits (d 1) 16 16
        let new : TabEntry := ⟨idx, dwsOf (s.hbm.read (d 2) 32) 4, []⟩
        let updates (now : State → Prop) : Prop := ∃ u, exec (.tableUpdate .service) s = .next u ∧ u.svcStatus = 0 ∧
          u.svcQueue = s.svcQueue.tail ∧ u.hbm = s.hbm ∧ now u
        let refused : Prop := ∃ u, exec (.tableUpdate .service) s = .next u ∧
          u = { s with svcStatus := 2, svcBadk := 8, stackErrs := u.stackErrs }
        let replaced (old now : List TabEntry) (x : TabEntry) : Prop := ∀ y, y ∈ now ↔ y = x ∨ y ∈ old ∧ y.idx ≠ idx
        let emptied (old now : List TabEntry) : Prop := ∀ y, y ∈ now ↔ y ∈ old ∧ y.idx ≠ idx
        (d 1 % 256 = 1 → idx < 4096 →
          (new.valid = false → updates fun u => emptied s.probes u.probes) ∧
          (new.valid = true → vectorOk false (s.probes.filter (·.idx ≠ idx)) new = true →
            updates fun u => replaced s.probes u.probes (copyVector s new)) ∧
          (new.valid = true → vectorOk false (s.probes.filter (·.idx ≠ idx)) new = false → refused)) ∧
        (d 1 % 256 = 2 →
          (new.valid = false → updates fun u => emptied s.steers u.steers) ∧
          (new.valid = true → vectorOk true (s.steers.filter (·.idx ≠ idx)) new = true →
            updates fun u => replaced s.steers u.steers (copyVector s new)) ∧
          (new.valid = true → vectorOk true (s.steers.filter (·.idx ≠ idx)) new = false → refused)) ∧
        (d 1 % 256 = 3 → idx < 256 →
          (new.field 3 63 1 = 0 → updates fun u => emptied s.policies u.policies) ∧
          (new.field 3 63 1 = 1 → policyOk new = true → updates fun u => replaced s.policies u.policies new) ∧
          (new.field 3 63 1 = 1 → policyOk new = false → refused)) ∧
        (d 1 % 256 = 1 ∧ 4096 ≤ idx ∨ d 1 % 256 = 3 ∧ 256 ≤ idx ∨ d 1 % 256 ∉ [1, 2, 3] → refused)))

/-! ### Requests and notices -/

/-- A request that arrives at a chair with EN = 1 is queued while fewer than 256 wait; with EN = 0 it is answered 2, and during a
reset 1 (R374, R380, R382). One that a chair takes up, over ROD after every earlier one of ROD, leaves the request queue and
is answered with its REQID: a WRITE stores its payload where it is mapped, or answers the fault's code and stores nothing; a
READ answers the bytes; a DOORBELL stores TAIL; a LOAD, whose payload is laid out as the model chose (log entry 20), is
placed, and in a second act its chair's decoded blocks under the ASID are discarded and it is answered with its status and
addresses; a RESUME clears OVERFLOW or BAD_ENTRY and the Bureau goes on from HEAD (R150, R379, R381, R382). A request that is
refused, or whose chair's EN is 0, is answered 2, and 1 during a reset, with no effect (R374, R380, R381). Notices go in
order: the record at the head of the chair trap queue, then class X, then abort; CI passes a record once its notice is
acknowledged (R326, R382). That one trap record is outstanding at a time, that RESUME takes HEAD from memory and that a load
is two acts are the model's readings (log entries 51, 53 and 61). -/
def Obligations.RequestsAreAnswered : Prop :=
  ∀ (s : State) (chair n : Nat) (m : ReqMsg),
    let c := s.chair chair
    let s1 : State := s.modChair chair fun c => { c with reqs := c.reqs.eraseIdx n }
    let tag := bits (m.dw 0) 32 32
    let answers (op : Instr) (status : Nat) (data : List Byte → Prop) (now : State → Prop) : Prop :=
      ∃ u d, exec op s = .next u ∧ data d ∧ u.responses = s.responses ++ [⟨chair, tag, status, d⟩] ∧ now u
    let quiet (u : State) : Prop := u.chairs = s1.chairs ∧ u.hbm = s.hbm ∧ u.launches = s.launches
    let taken : Prop := c.reqs[n]? = some m ∧ c.reqTurn n m = true ∧ m.refused c = false ∧ c.en = true ∧ c.rst = false
    s.MemWf → chair < s.chairs.length →
    (s.boot = .running →
      (c.rst = true ∨ c.en = false → ∃ u, runAct (.request chair m) s = .next u ∧ u.chairs = s.chairs ∧
        u.responses = s.responses ++ [⟨chair, tag, if c.rst then 1 else 2, []⟩]) ∧
      (c.rst = false → c.en = true → c.reqs.length < 256 →
        runAct (.request chair m) s = .next (s.modChair chair fun c => { c with reqs := c.reqs ++ [m] }))) ∧
    (c.reqs[n]? = some m → (m.rud = true → c.reqTurn n m = true) ∧
      (m.rud = false → (c.reqTurn n m = true ↔ ∀ y ∈ c.reqs.take n, y.rud = true))) ∧
    (taken → m.kind = 1 →
      (m.asid? c = none → answers (.reqWrite chair n) FC.protection (· = []) quiet) ∧
      (∀ asid, m.asid? c = some asid →
        (∀ x, walkPieces s1 chair asid false .store (pagePieces (m.dw 1) m.len) = .error x →
          answers (.reqWrite chair n) x.code (· = []) quiet) ∧
        (∀ l, walkPieces s1 chair asid false .store (pagePieces (m.dw 1) m.len) = .ok l → (∃ y ∈ l, s.lost y.2.1 = true) →
          answers (.reqWrite chair n) FC.uncorrectable (· = []) quiet) ∧
        (∀ l, walkPieces s1 chair asid false .store (pagePieces (m.dw 1) m.len) = .ok l → (∀ y ∈ l, s.lost y.2.1 = false) →
          answers (.reqWrite chair n) 0 (· = []) fun u => u.chairs = s1.chairs ∧ u.launches = s.launches ∧
            u.hbm = (s1.writePieces chair l (bytesVal m.payload)).hbm ∧
            ∀ gpa key, l = [(gpa, key, m.len)] →
              (∀ j < m.len, u.hbm.get (key + j) = c.keepHold (gpa + j) (s.hbm.get (key + j)) (m.payload.getD j 0)) ∧
              ∀ a, a < key ∨ key + m.len ≤ a → u.hbm.get a = s.hbm.get a))) ∧
    (taken → m.kind = 2 →
      (m.asid? c = none → answers (.reqRead chair n) FC.protection (· = []) quiet) ∧
      (∀ asid, m.asid? c = some asid →
        (∀ x, walkPieces s1 chair asid false .load (pagePieces (m.dw 1) m.len) = .error x →
          answers (.reqRead chair n) x.code (· = []) quiet) ∧
        (∀ l, walkPieces s1 chair asid false .load (pagePieces (m.dw 1) m.len) = .ok l → (∃ y ∈ l, s.poisoned y.2.1 y.2.2 = true) →
          answers (.reqRead chair n) FC.uncorrectable (· = []) quiet) ∧
        (∀ gpa key, walkPieces s1 chair asid false .load (pagePieces (m.dw 1) m.len) = .ok [(gpa, key, m.len)] → s.poisoned key m.len = false →
          answers (.reqRead chair n) 0 (fun d => d = (List.range m.len).map fun i => s.hbm.get (key + i)) quiet))) ∧
    (∀ base lg key, taken → m.kind = 3 → c.queue? (m.dw 1) = some (base, lg) → gpaPlace s1 chair base = .ok key →
      answers (.doorbell chair n) 0 (· = []) fun u => u.chairs = s1.chairs ∧ u.launches = s.launches ∧
        (∀ j < 8, u.hbm.get (key + j) = c.keepHold (base + j) (s.hbm.get (key + j)) (m.payload.getD j 0)) ∧
        ∀ a, a < key ∨ key + 8 ≤ a → u.hbm.get a = s.hbm.get a) ∧
    (∀ base lg x, taken → m.kind = 3 → c.queue? (m.dw 1) = some (base, lg) → gpaPlace s1 chair base = .error x →
      answers (.doorbell chair n) x.code (· = []) quiet) ∧
    (taken → m.kind = 4 →
      let ranges := [(m.pdw 1, m.pdw 2, Need.fetch), (m.pdw 3, m.pdw 4, .store), (m.pdw 5, m.pdw 6, .load)]
      (m.asid? c = none → answers (.loadRequest chair n) FC.protection (· = []) fun u => u.hbm = s.hbm ∧ u.launches = s.launches) ∧
      (∀ asid, m.asid? c = some asid → m.reply = none → (∀ y ∈ c.reqs, y.reply = none) →
        (∀ x, readFiles s1 chair asid m.files = .error x →
          (∀ y ∈ ranges, ∃ l, walkPieces s1 chair asid false y.2.2 (pagePieces y.1 y.2.1) = .ok l) →
          answers (.loadRequest chair n) x.code (· = []) quiet) ∧
        (∀ y x l r, ranges = l ++ y :: r → (∀ z ∈ l, ∃ k, walkPieces s1 chair asid false z.2.2 (pagePieces z.1 z.2.1) = .ok k) →
          walkPieces s1 chair asid false y.2.2 (pagePieces y.1 y.2.1) = .error x → answers (.loadRequest chair n) x.code (· = []) quiet) ∧
        (∀ files, readFiles s1 chair asid m.files = .ok files →
          (∀ y ∈ ranges, ∃ l, walkPieces s1 chair asid false y.2.2 (pagePieces y.1 y.2.1) = .ok l) →
          let result := load files (m.pdw 1, m.pdw 2) (m.pdw 3, m.pdw 4) (m.pdw 5, m.pdw 6)
          ∃ u, exec (.loadRequest chair n) s = .next u ∧ u.responses = s.responses ∧ u.launches = s.launches ∧ u.cores = s.cores ∧
            (u.chair chair).reqs = c.reqs.set n { m with reply := some ((result.status :: result.addrs).flatMap fun v => bytesOf v 8) })) ∧
      ∀ asid reply, m.asid? c = some asid → m.reply = some reply →
        answers (.loadRequest chair n) 0 (· = reply) fun u => u.hbm = s.hbm ∧ u.launches = s.launches ∧
          ∀ k ∈ u.cores, ∀ d ∈ k.code, d.chair = chair → d.asid ≠ asid) ∧
    (∀ base lg key p st head, taken → m.kind = 5 → c.queue? (m.dw 1) = some (base, lg) → m.dw 1 < c.qs.length →
      stage2 s1 chair (base + 16) = .ok (key, p) → gpaLoad s1 chair (base + 16) 8 = .ok st → gpaLoad s1 chair (base + 8) 8 = .ok head →
      (st % 256 = 1 ∨ st % 256 = 2 → answers (.resumeRequest chair n) 0 (· = []) fun u => u.launches = s.launches ∧
        ((u.chair chair).cmdq (m.dw 1)).pos = head ∧ (u.chair chair).reqs = c.reqs.eraseIdx n ∧
        (∀ x ∈ ((u.chair chair).cmdq (m.dw 1)).copies, x.1 ≠ head) ∧
        u.hbm.get key = c.keepHold (base + 16) (s.hbm.get key) 0 ∧ ∀ a, a ≠ key → u.hbm.get a = s.hbm.get a) ∧
      (st % 256 ≠ 1 → st % 256 ≠ 2 → answers (.resumeRequest chair n) 0 (· = []) quiet)) ∧
    (c.reqs[n]? = some m → m.refused c = true ∨ c.en = false ∨ c.rst = true →
      answers (.requestRefused chair n) (if c.rst then 1 else 2) (· = []) quiet) ∧
    (let trap : Prop := ∃ base lg, ringOf c.chtq = some (base, lg) ∧ s.ringUsed base ≠ 0
     let sends (x : Notice) (d : Chair) : Prop := ∃ u, exec (.noticeSend chair) s = .next u ∧
       u.notices = s.notices ++ [(chair, x)] ∧ u.chair chair = d ∧ u.hbm = s.hbm ∧ u.launches = s.launches
     (∀ base lg, ringOf c.chtq = some (base, lg) → s.ringUsed base ≠ 0 → c.trapSent = false →
       sends (.trap (dwsOf (s.hbm.read (base + 64 + 32 * (s.hbm.read (base + 8) 8 % 2 ^ lg)) 32) 4)) { c with trapSent := true }) ∧
     (∀ tag code l r, ¬ trap → c.pendingX = l ++ .classX tag code :: r → (∀ x ∈ l, x.isX = false) →
       sends (.classX tag code) { c with pendingX := c.pendingX.erase (.classX tag code) }) ∧
     (∀ x r, ¬ trap → c.pendingX = x :: r → (∀ z ∈ c.pendingX, z.isX = false) → sends x { c with pendingX := r })) ∧
    (∀ base lg, ringOf c.chtq = some (base, lg) → s.ringUsed base ≠ 0 → c.trapSent = true →
      ∃ u, exec (.noticeAck chair) s = .next u ∧ u.chair chair = { c with trapSent := false } ∧
        u.hbm.read (base + 8) 8 = (s.hbm.read (base + 8) 8 + 1) % 2 ^ 64 ∧ (∀ a, a < base + 8 ∨ base + 16 ≤ a → u.hbm.get a = s.hbm.get a) ∧
        u.notices = s.notices ∧ u.launches = s.launches) ∧
    (∀ r l, s.svcTrap = r :: l → exec .serviceTrapQueueConsume s = .next { s with svcTrap := l, svcCi := (s.svcCi + 1) % 2 ^ 64 })

/-! ### Bring-up, life cycle and links -/

/-- A reset brings a pending life-cycle change into force and boots: an unusable security root of trestle 0, SCRAPPED and a
failing step each stop it where they stand, with no memory wiped before step 3; an image that passes is measured and run, one
that does not leads to recovery (R14, R386, R389). Recovery runs an image that passes and never writes the flash (R387). An
update is written only where its image passes; one interrupted leaves an image that never does; running contexts go on
(R388). A change of life cycle is asked for along the states of R389 alone, and waits for the next reset. A report echoes its
nonce and FWHASH under the identity key's RSASSA-PSS signature with a 32-byte salt; the management port reads the public key
while there is one, and the status always (R390, R391, R394). The shutdown leaves the state before the first boot step, with
every link and port down (R394). A clock and a failed link change nothing else (R16, R383); an unreachable package is known as
such (R385). That bring-up is one act and that a defect is an outside event are the model's readings (log entries 7 and
59). -/
def Obligations.PackageComesUp : Prop :=
  ∀ (s : State),
    (∃ u, exec .boot s = .next u ∧ u.lcs = s.pendingLcs.getD s.lcs ∧ u.pendingLcs = none ∧ u.flash = s.flash ∧
      u.launches = [] ∧ u.probes = [] ∧ u.steers = [] ∧ u.policies = [] ∧
      let early : Prop := s.rootUsable = false ∨ s.failing = some 1 ∨ s.failing = some 2 ∨ u.lcs = .scrapped ∨ s.failing = some 3
      let passes : Prop := imagePasses s.image = true ∧ s.failing ≠ some 4
      (early → u.boot = .stopped ∧ u.hbm = s.hbm) ∧
      (¬ early → u.hbm = [] ∧ u.poison = [] ∧ (∀ c, (u.core c).mem = []) ∧
        (¬ passes → u.boot = .recovery) ∧
        (passes → s.failing = some 5 → u.boot = .stopped) ∧
        (passes → s.failing ≠ some 5 → u.fwhash = Sha.hash s.image) ∧
        (passes → s.failing = some 6 → u.boot = .stopped) ∧
        (passes → s.failing ≠ some 5 → s.failing ≠ some 6 → u.boot = .running ∧ u.pkgid = configuredPkgid))) ∧
    (∀ image, s.boot = .recovery → ∃ u, exec (.networkRecovery image) s = .next u ∧ u.flash = s.flash ∧
      (imagePasses image = true → u.boot = .running ∧ u.fwhash = Sha.hash image) ∧ (imagePasses image = false → u = s)) ∧
    (∀ image whole, s.boot = .running → ∃ u, exec (.firmwareUpdate image whole) s = .next u ∧ u = { s with flash := u.flash } ∧
      (imagePasses image = true → whole = true → u.flash = some image) ∧
      (imagePasses image = true → whole = false → imagePasses u.image = false) ∧
      (imagePasses image = false → u.flash = s.flash)) ∧
    (∀ target, s.boot = .running → ∃ u, exec (.lifeCycleChangeRequest target) s = .next u ∧ u = { s with pendingLcs := u.pendingLcs } ∧
      let steps : List (LifeCycle × LifeCycle) := [(.blank, .manufacture), (.manufacture, .provisioned), (.provisioned, .deployed),
        (.provisioned, .rma), (.deployed, .rma), (.rma, .scrapped)]
      ((s.lcs, target) ∈ steps → u.pendingLcs = some target) ∧ ((s.lcs, target) ∉ steps → u.pendingLcs = s.pendingLcs)) ∧
    (∀ chair nonce key, s.boot = .running → s.lcs = .provisioned ∨ s.lcs = .deployed → chair < 64 → nonce.length = 32 →
      s.fwhash.length = 32 → s.idKey = some key →
      ∃ u body salt, exec (.attestationReport chair nonce) s = .next u ∧ salt.length = 32 ∧
        u = { s with
          freeCtr := u.freeCtr, mgmtOut := s.mgmtOut ++ [body ++ Pss.sign (Config.identityKey key).1 (Config.identityKey key).2.2 body salt] } ∧
        fileVal body 0 4 = 0x54545341 ∧ fileVal body 7 1 = chair ∧ fileVal body 8 8 = s.pkgid.toNat ∧
        (body.drop 16).take 32 = nonce ∧ (body.drop 48).take 32 = s.fwhash) ∧
    (s.boot ≠ .cold →
      (∃ u l, runAct (.management false) s = .next u ∧ u = { s with mgmtOut := s.mgmtOut ++ [l] } ∧ l[0]? = some (BitVec.ofNat 8 (lcsCode s.lcs)) ∧
        l.drop 1 = bytesOf s.pkgid.toNat 8) ∧
      ∀ key, s.boot ≠ .stopped → s.idKey = some key →
        runAct (.management true) s = .next { s with
          mgmtOut := s.mgmtOut ++ [bytesOf (Config.identityKey key).1 384 ++ bytesOf (Config.identityKey key).2.1 384] }) ∧
    (∃ u, exec .thermalShutdown s = .next u ∧ u.boot = .cold ∧ u.flash = s.flash ∧ u.hbm = [] ∧ (∀ c, (u.core c).mem = []) ∧
      u.launches = [] ∧ u.saves = [] ∧ (∀ l, l < 36 → l ∈ u.downLinks) ∧ ∀ q, q < 4 → q ∈ u.downPorts) ∧
    (∀ khz, 0 < khz → exec (.clockThrottle khz) s = .next { s with clockKhz := khz }) ∧
    (∀ pkg, s.boot = .running → pkg < 288 → pkg ≠ bits s.pkgid.toNat 0 9 →
      ∃ u, exec (.packageUnreachable pkg) s = .next u ∧ u = { s with unreachable := u.unreachable } ∧
        ∀ p, p ∈ u.unreachable ↔ p = pkg ∨ p ∈ s.unreachable) ∧
    (∀ link, link < 36 → ∃ u, exec (.linkFailover link) s = .next u ∧ u = { s with downLinks := u.downLinks } ∧
      ∀ l, l ∈ u.downLinks ↔ l = link ∨ l ∈ s.downLinks)
end

