-- ==== Sys2Proof/Laws/State.lean ====
section
/-! SUPPORT. The fields of the state under each update: one lemma a field and update, true by rfl. -/

namespace Sys2Proof.Machine

/-! ### Updates of one core and what is built from them -/

@[simp] theorem State.freeCtr_modCore (s : State) (c : Nat) (f : Core → Core) : (s.modCore c f).freeCtr = s.freeCtr := rfl
@[simp] theorem State.agenda_modCore (s : State) (c : Nat) (f : Core → Core) : (s.modCore c f).agenda = s.agenda := rfl
@[simp] theorem State.site_modCore (s : State) (c : Nat) (f : Core → Core) : (s.modCore c f).site = s.site := rfl
@[simp] theorem State.nextId_modCore (s : State) (c : Nat) (f : Core → Core) : (s.modCore c f).nextId = s.nextId := rfl
@[simp] theorem State.boot_modCore (s : State) (c : Nat) (f : Core → Core) : (s.modCore c f).boot = s.boot := rfl
@[simp] theorem State.lcs_modCore (s : State) (c : Nat) (f : Core → Core) : (s.modCore c f).lcs = s.lcs := rfl
@[simp] theorem State.pendingLcs_modCore (s : State) (c : Nat) (f : Core → Core) : (s.modCore c f).pendingLcs = s.pendingLcs := rfl
@[simp] theorem State.pkgid_modCore (s : State) (c : Nat) (f : Core → Core) : (s.modCore c f).pkgid = s.pkgid := rfl
@[simp] theorem State.fwhash_modCore (s : State) (c : Nat) (f : Core → Core) : (s.modCore c f).fwhash = s.fwhash := rfl
@[simp] theorem State.flash_modCore (s : State) (c : Nat) (f : Core → Core) : (s.modCore c f).flash = s.flash := rfl
@[simp] theorem State.idKey_modCore (s : State) (c : Nat) (f : Core → Core) : (s.modCore c f).idKey = s.idKey := rfl
@[simp] theorem State.clockKhz_modCore (s : State) (c : Nat) (f : Core → Core) : (s.modCore c f).clockKhz = s.clockKhz := rfl
@[simp] theorem State.downLinks_modCore (s : State) (c : Nat) (f : Core → Core) : (s.modCore c f).downLinks = s.downLinks := rfl
@[simp] theorem State.downPorts_modCore (s : State) (c : Nat) (f : Core → Core) : (s.modCore c f).downPorts = s.downPorts := rfl
@[simp] theorem State.rootUsable_modCore (s : State) (c : Nat) (f : Core → Core) : (s.modCore c f).rootUsable = s.rootUsable := rfl
@[simp] theorem State.failing_modCore (s : State) (c : Nat) (f : Core → Core) : (s.modCore c f).failing = s.failing := rfl
@[simp] theorem State.svcCheck_modCore (s : State) (c : Nat) (f : Core → Core) : (s.modCore c f).svcCheck = s.svcCheck := rfl
@[simp] theorem State.waiting_modCore (s : State) (c : Nat) (f : Core → Core) : (s.modCore c f).waiting = s.waiting := rfl
@[simp] theorem State.unreachable_modCore (s : State) (c : Nat) (f : Core → Core) : (s.modCore c f).unreachable = s.unreachable := rfl
@[simp] theorem State.seqNo_modCore (s : State) (c : Nat) (f : Core → Core) : (s.modCore c f).seqNo = s.seqNo := rfl
@[simp] theorem State.arb_modCore (s : State) (c : Nat) (f : Core → Core) : (s.modCore c f).arb = s.arb := rfl
@[simp] theorem State.launches_modCore (s : State) (c : Nat) (f : Core → Core) : (s.modCore c f).launches = s.launches := rfl
@[simp] theorem State.saves_modCore (s : State) (c : Nat) (f : Core → Core) : (s.modCore c f).saves = s.saves := rfl
@[simp] theorem State.hbm_modCore (s : State) (c : Nat) (f : Core → Core) : (s.modCore c f).hbm = s.hbm := rfl
@[simp] theorem State.poison_modCore (s : State) (c : Nat) (f : Core → Core) : (s.modCore c f).poison = s.poison := rfl
@[simp] theorem State.chairs_modCore (s : State) (c : Nat) (f : Core → Core) : (s.modCore c f).chairs = s.chairs := rfl
@[simp] theorem State.dressers_modCore (s : State) (c : Nat) (f : Core → Core) : (s.modCore c f).dressers = s.dressers := rfl
@[simp] theorem State.frontiers_modCore (s : State) (c : Nat) (f : Core → Core) : (s.modCore c f).frontiers = s.frontiers := rfl
@[simp] theorem State.svcTrap_modCore (s : State) (c : Nat) (f : Core → Core) : (s.modCore c f).svcTrap = s.svcTrap := rfl
@[simp] theorem State.svcPi_modCore (s : State) (c : Nat) (f : Core → Core) : (s.modCore c f).svcPi = s.svcPi := rfl
@[simp] theorem State.svcCi_modCore (s : State) (c : Nat) (f : Core → Core) : (s.modCore c f).svcCi = s.svcCi := rfl
@[simp] theorem State.svcQueue_modCore (s : State) (c : Nat) (f : Core → Core) : (s.modCore c f).svcQueue = s.svcQueue := rfl
@[simp] theorem State.svcStatus_modCore (s : State) (c : Nat) (f : Core → Core) : (s.modCore c f).svcStatus = s.svcStatus := rfl
@[simp] theorem State.svcBadk_modCore (s : State) (c : Nat) (f : Core → Core) : (s.modCore c f).svcBadk = s.svcBadk := rfl
@[simp] theorem State.probes_modCore (s : State) (c : Nat) (f : Core → Core) : (s.modCore c f).probes = s.probes := rfl
@[simp] theorem State.steers_modCore (s : State) (c : Nat) (f : Core → Core) : (s.modCore c f).steers = s.steers := rfl
@[simp] theorem State.policies_modCore (s : State) (c : Nat) (f : Core → Core) : (s.modCore c f).policies = s.policies := rfl
@[simp] theorem State.sliceErrs_modCore (s : State) (c : Nat) (f : Core → Core) : (s.modCore c f).sliceErrs = s.sliceErrs := rfl
@[simp] theorem State.stackErrs_modCore (s : State) (c : Nat) (f : Core → Core) : (s.modCore c f).stackErrs = s.stackErrs := rfl
@[simp] theorem State.responses_modCore (s : State) (c : Nat) (f : Core → Core) : (s.modCore c f).responses = s.responses := rfl
@[simp] theorem State.notices_modCore (s : State) (c : Nat) (f : Core → Core) : (s.modCore c f).notices = s.notices := rfl
@[simp] theorem State.mgmtOut_modCore (s : State) (c : Nat) (f : Core → Core) : (s.modCore c f).mgmtOut = s.mgmtOut := rfl

@[simp] theorem State.freeCtr_modSlot (s : State) (c i : Nat) (f : Slot → Slot) : (s.modSlot c i f).freeCtr = s.freeCtr := rfl
@[simp] theorem State.agenda_modSlot (s : State) (c i : Nat) (f : Slot → Slot) : (s.modSlot c i f).agenda = s.agenda := rfl
@[simp] theorem State.site_modSlot (s : State) (c i : Nat) (f : Slot → Slot) : (s.modSlot c i f).site = s.site := rfl
@[simp] theorem State.nextId_modSlot (s : State) (c i : Nat) (f : Slot → Slot) : (s.modSlot c i f).nextId = s.nextId := rfl
@[simp] theorem State.boot_modSlot (s : State) (c i : Nat) (f : Slot → Slot) : (s.modSlot c i f).boot = s.boot := rfl
@[simp] theorem State.lcs_modSlot (s : State) (c i : Nat) (f : Slot → Slot) : (s.modSlot c i f).lcs = s.lcs := rfl
@[simp] theorem State.pendingLcs_modSlot (s : State) (c i : Nat) (f : Slot → Slot) : (s.modSlot c i f).pendingLcs = s.pendingLcs := rfl
@[simp] theorem State.pkgid_modSlot (s : State) (c i : Nat) (f : Slot → Slot) : (s.modSlot c i f).pkgid = s.pkgid := rfl
@[simp] theorem State.fwhash_modSlot (s : State) (c i : Nat) (f : Slot → Slot) : (s.modSlot c i f).fwhash = s.fwhash := rfl
@[simp] theorem State.flash_modSlot (s : State) (c i : Nat) (f : Slot → Slot) : (s.modSlot c i f).flash = s.flash := rfl
@[simp] theorem State.idKey_modSlot (s : State) (c i : Nat) (f : Slot → Slot) : (s.modSlot c i f).idKey = s.idKey := rfl
@[simp] theorem State.clockKhz_modSlot (s : State) (c i : Nat) (f : Slot → Slot) : (s.modSlot c i f).clockKhz = s.clockKhz := rfl
@[simp] theorem State.downLinks_modSlot (s : State) (c i : Nat) (f : Slot → Slot) : (s.modSlot c i f).downLinks = s.downLinks := rfl
@[simp] theorem State.downPorts_modSlot (s : State) (c i : Nat) (f : Slot → Slot) : (s.modSlot c i f).downPorts = s.downPorts := rfl
@[simp] theorem State.rootUsable_modSlot (s : State) (c i : Nat) (f : Slot → Slot) : (s.modSlot c i f).rootUsable = s.rootUsable := rfl
@[simp] theorem State.failing_modSlot (s : State) (c i : Nat) (f : Slot → Slot) : (s.modSlot c i f).failing = s.failing := rfl
@[simp] theorem State.svcCheck_modSlot (s : State) (c i : Nat) (f : Slot → Slot) : (s.modSlot c i f).svcCheck = s.svcCheck := rfl
@[simp] theorem State.waiting_modSlot (s : State) (c i : Nat) (f : Slot → Slot) : (s.modSlot c i f).waiting = s.waiting := rfl
@[simp] theorem State.unreachable_modSlot (s : State) (c i : Nat) (f : Slot → Slot) : (s.modSlot c i f).unreachable = s.unreachable := rfl
@[simp] theorem State.seqNo_modSlot (s : State) (c i : Nat) (f : Slot → Slot) : (s.modSlot c i f).seqNo = s.seqNo := rfl
@[simp] theorem State.arb_modSlot (s : State) (c i : Nat) (f : Slot → Slot) : (s.modSlot c i f).arb = s.arb := rfl
@[simp] theorem State.launches_modSlot (s : State) (c i : Nat) (f : Slot → Slot) : (s.modSlot c i f).launches = s.launches := rfl
@[simp] theorem State.saves_modSlot (s : State) (c i : Nat) (f : Slot → Slot) : (s.modSlot c i f).saves = s.saves := rfl
@[simp] theorem State.hbm_modSlot (s : State) (c i : Nat) (f : Slot → Slot) : (s.modSlot c i f).hbm = s.hbm := rfl
@[simp] theorem State.poison_modSlot (s : State) (c i : Nat) (f : Slot → Slot) : (s.modSlot c i f).poison = s.poison := rfl
@[simp] theorem State.chairs_modSlot (s : State) (c i : Nat) (f : Slot → Slot) : (s.modSlot c i f).chairs = s.chairs := rfl
@[simp] theorem State.dressers_modSlot (s : State) (c i : Nat) (f : Slot → Slot) : (s.modSlot c i f).dressers = s.dressers := rfl
@[simp] theorem State.frontiers_modSlot (s : State) (c i : Nat) (f : Slot → Slot) : (s.modSlot c i f).frontiers = s.frontiers := rfl
@[simp] theorem State.svcTrap_modSlot (s : State) (c i : Nat) (f : Slot → Slot) : (s.modSlot c i f).svcTrap = s.svcTrap := rfl
@[simp] theorem State.svcPi_modSlot (s : State) (c i : Nat) (f : Slot → Slot) : (s.modSlot c i f).svcPi = s.svcPi := rfl
@[simp] theorem State.svcCi_modSlot (s : State) (c i : Nat) (f : Slot → Slot) : (s.modSlot c i f).svcCi = s.svcCi := rfl
@[simp] theorem State.svcQueue_modSlot (s : State) (c i : Nat) (f : Slot → Slot) : (s.modSlot c i f).svcQueue = s.svcQueue := rfl
@[simp] theorem State.svcStatus_modSlot (s : State) (c i : Nat) (f : Slot → Slot) : (s.modSlot c i f).svcStatus = s.svcStatus := rfl
@[simp] theorem State.svcBadk_modSlot (s : State) (c i : Nat) (f : Slot → Slot) : (s.modSlot c i f).svcBadk = s.svcBadk := rfl
@[simp] theorem State.probes_modSlot (s : State) (c i : Nat) (f : Slot → Slot) : (s.modSlot c i f).probes = s.probes := rfl
@[simp] theorem State.steers_modSlot (s : State) (c i : Nat) (f : Slot → Slot) : (s.modSlot c i f).steers = s.steers := rfl
@[simp] theorem State.policies_modSlot (s : State) (c i : Nat) (f : Slot → Slot) : (s.modSlot c i f).policies = s.policies := rfl
@[simp] theorem State.sliceErrs_modSlot (s : State) (c i : Nat) (f : Slot → Slot) : (s.modSlot c i f).sliceErrs = s.sliceErrs := rfl
@[simp] theorem State.stackErrs_modSlot (s : State) (c i : Nat) (f : Slot → Slot) : (s.modSlot c i f).stackErrs = s.stackErrs := rfl
@[simp] theorem State.responses_modSlot (s : State) (c i : Nat) (f : Slot → Slot) : (s.modSlot c i f).responses = s.responses := rfl
@[simp] theorem State.notices_modSlot (s : State) (c i : Nat) (f : Slot → Slot) : (s.modSlot c i f).notices = s.notices := rfl
@[simp] theorem State.mgmtOut_modSlot (s : State) (c i : Nat) (f : Slot → Slot) : (s.modSlot c i f).mgmtOut = s.mgmtOut := rfl

@[simp] theorem State.freeCtr_modInst (s : State) (c i age : Nat) (f : Inst → Inst) : (s.modInst c i age f).freeCtr = s.freeCtr := rfl
@[simp] theorem State.agenda_modInst (s : State) (c i age : Nat) (f : Inst → Inst) : (s.modInst c i age f).agenda = s.agenda := rfl
@[simp] theorem State.site_modInst (s : State) (c i age : Nat) (f : Inst → Inst) : (s.modInst c i age f).site = s.site := rfl
@[simp] theorem State.nextId_modInst (s : State) (c i age : Nat) (f : Inst → Inst) : (s.modInst c i age f).nextId = s.nextId := rfl
@[simp] theorem State.boot_modInst (s : State) (c i age : Nat) (f : Inst → Inst) : (s.modInst c i age f).boot = s.boot := rfl
@[simp] theorem State.lcs_modInst (s : State) (c i age : Nat) (f : Inst → Inst) : (s.modInst c i age f).lcs = s.lcs := rfl
@[simp] theorem State.pendingLcs_modInst (s : State) (c i age : Nat) (f : Inst → Inst) : (s.modInst c i age f).pendingLcs = s.pendingLcs := rfl
@[simp] theorem State.pkgid_modInst (s : State) (c i age : Nat) (f : Inst → Inst) : (s.modInst c i age f).pkgid = s.pkgid := rfl
@[simp] theorem State.fwhash_modInst (s : State) (c i age : Nat) (f : Inst → Inst) : (s.modInst c i age f).fwhash = s.fwhash := rfl
@[simp] theorem State.flash_modInst (s : State) (c i age : Nat) (f : Inst → Inst) : (s.modInst c i age f).flash = s.flash := rfl
@[simp] theorem State.idKey_modInst (s : State) (c i age : Nat) (f : Inst → Inst) : (s.modInst c i age f).idKey = s.idKey := rfl
@[simp] theorem State.clockKhz_modInst (s : State) (c i age : Nat) (f : Inst → Inst) : (s.modInst c i age f).clockKhz = s.clockKhz := rfl
@[simp] theorem State.downLinks_modInst (s : State) (c i age : Nat) (f : Inst → Inst) : (s.modInst c i age f).downLinks = s.downLinks := rfl
@[simp] theorem State.downPorts_modInst (s : State) (c i age : Nat) (f : Inst → Inst) : (s.modInst c i age f).downPorts = s.downPorts := rfl
@[simp] theorem State.rootUsable_modInst (s : State) (c i age : Nat) (f : Inst → Inst) : (s.modInst c i age f).rootUsable = s.rootUsable := rfl
@[simp] theorem State.failing_modInst (s : State) (c i age : Nat) (f : Inst → Inst) : (s.modInst c i age f).failing = s.failing := rfl
@[simp] theorem State.svcCheck_modInst (s : State) (c i age : Nat) (f : Inst → Inst) : (s.modInst c i age f).svcCheck = s.svcCheck := rfl
@[simp] theorem State.waiting_modInst (s : State) (c i age : Nat) (f : Inst → Inst) : (s.modInst c i age f).waiting = s.waiting := rfl
@[simp] theorem State.unreachable_modInst (s : State) (c i age : Nat) (f : Inst → Inst) : (s.modInst c i age f).unreachable = s.unreachable := rfl
@[simp] theorem State.seqNo_modInst (s : State) (c i age : Nat) (f : Inst → Inst) : (s.modInst c i age f).seqNo = s.seqNo := rfl
@[simp] theorem State.arb_modInst (s : State) (c i age : Nat) (f : Inst → Inst) : (s.modInst c i age f).arb = s.arb := rfl
@[simp] theorem State.launches_modInst (s : State) (c i age : Nat) (f : Inst → Inst) : (s.modInst c i age f).launches = s.launches := rfl
@[simp] theorem State.saves_modInst (s : State) (c i age : Nat) (f : Inst → Inst) : (s.modInst c i age f).saves = s.saves := rfl
@[simp] theorem State.hbm_modInst (s : State) (c i age : Nat) (f : Inst → Inst) : (s.modInst c i age f).hbm = s.hbm := rfl
@[simp] theorem State.poison_modInst (s : State) (c i age : Nat) (f : Inst → Inst) : (s.modInst c i age f).poison = s.poison := rfl
@[simp] theorem State.chairs_modInst (s : State) (c i age : Nat) (f : Inst → Inst) : (s.modInst c i age f).chairs = s.chairs := rfl
@[simp] theorem State.dressers_modInst (s : State) (c i age : Nat) (f : Inst → Inst) : (s.modInst c i age f).dressers = s.dressers := rfl
@[simp] theorem State.frontiers_modInst (s : State) (c i age : Nat) (f : Inst → Inst) : (s.modInst c i age f).frontiers = s.frontiers := rfl
@[simp] theorem State.svcTrap_modInst (s : State) (c i age : Nat) (f : Inst → Inst) : (s.modInst c i age f).svcTrap = s.svcTrap := rfl
@[simp] theorem State.svcPi_modInst (s : State) (c i age : Nat) (f : Inst → Inst) : (s.modInst c i age f).svcPi = s.svcPi := rfl
@[simp] theorem State.svcCi_modInst (s : State) (c i age : Nat) (f : Inst → Inst) : (s.modInst c i age f).svcCi = s.svcCi := rfl
@[simp] theorem State.svcQueue_modInst (s : State) (c i age : Nat) (f : Inst → Inst) : (s.modInst c i age f).svcQueue = s.svcQueue := rfl
@[simp] theorem State.svcStatus_modInst (s : State) (c i age : Nat) (f : Inst → Inst) : (s.modInst c i age f).svcStatus = s.svcStatus := rfl
@[simp] theorem State.svcBadk_modInst (s : State) (c i age : Nat) (f : Inst → Inst) : (s.modInst c i age f).svcBadk = s.svcBadk := rfl
@[simp] theorem State.probes_modInst (s : State) (c i age : Nat) (f : Inst → Inst) : (s.modInst c i age f).probes = s.probes := rfl
@[simp] theorem State.steers_modInst (s : State) (c i age : Nat) (f : Inst → Inst) : (s.modInst c i age f).steers = s.steers := rfl
@[simp] theorem State.policies_modInst (s : State) (c i age : Nat) (f : Inst → Inst) : (s.modInst c i age f).policies = s.policies := rfl
@[simp] theorem State.sliceErrs_modInst (s : State) (c i age : Nat) (f : Inst → Inst) : (s.modInst c i age f).sliceErrs = s.sliceErrs := rfl
@[simp] theorem State.stackErrs_modInst (s : State) (c i age : Nat) (f : Inst → Inst) : (s.modInst c i age f).stackErrs = s.stackErrs := rfl
@[simp] theorem State.responses_modInst (s : State) (c i age : Nat) (f : Inst → Inst) : (s.modInst c i age f).responses = s.responses := rfl
@[simp] theorem State.notices_modInst (s : State) (c i age : Nat) (f : Inst → Inst) : (s.modInst c i age f).notices = s.notices := rfl
@[simp] theorem State.mgmtOut_modInst (s : State) (c i age : Nat) (f : Inst → Inst) : (s.modInst c i age f).mgmtOut = s.mgmtOut := rfl

@[simp] theorem State.freeCtr_modStrand (s : State) (c i uid : Nat) (f : Strand → Strand) : (s.modStrand c i uid f).freeCtr = s.freeCtr := rfl
@[simp] theorem State.agenda_modStrand (s : State) (c i uid : Nat) (f : Strand → Strand) : (s.modStrand c i uid f).agenda = s.agenda := rfl
@[simp] theorem State.site_modStrand (s : State) (c i uid : Nat) (f : Strand → Strand) : (s.modStrand c i uid f).site = s.site := rfl
@[simp] theorem State.nextId_modStrand (s : State) (c i uid : Nat) (f : Strand → Strand) : (s.modStrand c i uid f).nextId = s.nextId := rfl
@[simp] theorem State.boot_modStrand (s : State) (c i uid : Nat) (f : Strand → Strand) : (s.modStrand c i uid f).boot = s.boot := rfl
@[simp] theorem State.lcs_modStrand (s : State) (c i uid : Nat) (f : Strand → Strand) : (s.modStrand c i uid f).lcs = s.lcs := rfl
@[simp] theorem State.pendingLcs_modStrand (s : State) (c i uid : Nat) (f : Strand → Strand) : (s.modStrand c i uid f).pendingLcs = s.pendingLcs := rfl
@[simp] theorem State.pkgid_modStrand (s : State) (c i uid : Nat) (f : Strand → Strand) : (s.modStrand c i uid f).pkgid = s.pkgid := rfl
@[simp] theorem State.fwhash_modStrand (s : State) (c i uid : Nat) (f : Strand → Strand) : (s.modStrand c i uid f).fwhash = s.fwhash := rfl
@[simp] theorem State.flash_modStrand (s : State) (c i uid : Nat) (f : Strand → Strand) : (s.modStrand c i uid f).flash = s.flash := rfl
@[simp] theorem State.idKey_modStrand (s : State) (c i uid : Nat) (f : Strand → Strand) : (s.modStrand c i uid f).idKey = s.idKey := rfl
@[simp] theorem State.clockKhz_modStrand (s : State) (c i uid : Nat) (f : Strand → Strand) : (s.modStrand c i uid f).clockKhz = s.clockKhz := rfl
@[simp] theorem State.downLinks_modStrand (s : State) (c i uid : Nat) (f : Strand → Strand) : (s.modStrand c i uid f).downLinks = s.downLinks := rfl
@[simp] theorem State.downPorts_modStrand (s : State) (c i uid : Nat) (f : Strand → Strand) : (s.modStrand c i uid f).downPorts = s.downPorts := rfl
@[simp] theorem State.rootUsable_modStrand (s : State) (c i uid : Nat) (f : Strand → Strand) : (s.modStrand c i uid f).rootUsable = s.rootUsable := rfl
@[simp] theorem State.failing_modStrand (s : State) (c i uid : Nat) (f : Strand → Strand) : (s.modStrand c i uid f).failing = s.failing := rfl
@[simp] theorem State.svcCheck_modStrand (s : State) (c i uid : Nat) (f : Strand → Strand) : (s.modStrand c i uid f).svcCheck = s.svcCheck := rfl
@[simp] theorem State.waiting_modStrand (s : State) (c i uid : Nat) (f : Strand → Strand) : (s.modStrand c i uid f).waiting = s.waiting := rfl
@[simp] theorem State.unreachable_modStrand (s : State) (c i uid : Nat) (f : Strand → Strand) : (s.modStrand c i uid f).unreachable = s.unreachable := rfl
@[simp] theorem State.seqNo_modStrand (s : State) (c i uid : Nat) (f : Strand → Strand) : (s.modStrand c i uid f).seqNo = s.seqNo := rfl
@[simp] theorem State.arb_modStrand (s : State) (c i uid : Nat) (f : Strand → Strand) : (s.modStrand c i uid f).arb = s.arb := rfl
@[simp] theorem State.launches_modStrand (s : State) (c i uid : Nat) (f : Strand → Strand) : (s.modStrand c i uid f).launches = s.launches := rfl
@[simp] theorem State.saves_modStrand (s : State) (c i uid : Nat) (f : Strand → Strand) : (s.modStrand c i uid f).saves = s.saves := rfl
@[simp] theorem State.hbm_modStrand (s : State) (c i uid : Nat) (f : Strand → Strand) : (s.modStrand c i uid f).hbm = s.hbm := rfl
@[simp] theorem State.poison_modStrand (s : State) (c i uid : Nat) (f : Strand → Strand) : (s.modStrand c i uid f).poison = s.poison := rfl
@[simp] theorem State.chairs_modStrand (s : State) (c i uid : Nat) (f : Strand → Strand) : (s.modStrand c i uid f).chairs = s.chairs := rfl
@[simp] theorem State.dressers_modStrand (s : State) (c i uid : Nat) (f : Strand → Strand) : (s.modStrand c i uid f).dressers = s.dressers := rfl
@[simp] theorem State.frontiers_modStrand (s : State) (c i uid : Nat) (f : Strand → Strand) : (s.modStrand c i uid f).frontiers = s.frontiers := rfl
@[simp] theorem State.svcTrap_modStrand (s : State) (c i uid : Nat) (f : Strand → Strand) : (s.modStrand c i uid f).svcTrap = s.svcTrap := rfl
@[simp] theorem State.svcPi_modStrand (s : State) (c i uid : Nat) (f : Strand → Strand) : (s.modStrand c i uid f).svcPi = s.svcPi := rfl
@[simp] theorem State.svcCi_modStrand (s : State) (c i uid : Nat) (f : Strand → Strand) : (s.modStrand c i uid f).svcCi = s.svcCi := rfl
@[simp] theorem State.svcQueue_modStrand (s : State) (c i uid : Nat) (f : Strand → Strand) : (s.modStrand c i uid f).svcQueue = s.svcQueue := rfl
@[simp] theorem State.svcStatus_modStrand (s : State) (c i uid : Nat) (f : Strand → Strand) : (s.modStrand c i uid f).svcStatus = s.svcStatus := rfl
@[simp] theorem State.svcBadk_modStrand (s : State) (c i uid : Nat) (f : Strand → Strand) : (s.modStrand c i uid f).svcBadk = s.svcBadk := rfl
@[simp] theorem State.probes_modStrand (s : State) (c i uid : Nat) (f : Strand → Strand) : (s.modStrand c i uid f).probes = s.probes := rfl
@[simp] theorem State.steers_modStrand (s : State) (c i uid : Nat) (f : Strand → Strand) : (s.modStrand c i uid f).steers = s.steers := rfl
@[simp] theorem State.policies_modStrand (s : State) (c i uid : Nat) (f : Strand → Strand) : (s.modStrand c i uid f).policies = s.policies := rfl
@[simp] theorem State.sliceErrs_modStrand (s : State) (c i uid : Nat) (f : Strand → Strand) : (s.modStrand c i uid f).sliceErrs = s.sliceErrs := rfl
@[simp] theorem State.stackErrs_modStrand (s : State) (c i uid : Nat) (f : Strand → Strand) : (s.modStrand c i uid f).stackErrs = s.stackErrs := rfl
@[simp] theorem State.responses_modStrand (s : State) (c i uid : Nat) (f : Strand → Strand) : (s.modStrand c i uid f).responses = s.responses := rfl
@[simp] theorem State.notices_modStrand (s : State) (c i uid : Nat) (f : Strand → Strand) : (s.modStrand c i uid f).notices = s.notices := rfl
@[simp] theorem State.mgmtOut_modStrand (s : State) (c i uid : Nat) (f : Strand → Strand) : (s.modStrand c i uid f).mgmtOut = s.mgmtOut := rfl

@[simp] theorem State.freeCtr_modErr (s : State) (c n : Nat) (f : ErrRec → ErrRec) : (s.modErr c n f).freeCtr = s.freeCtr := rfl
@[simp] theorem State.agenda_modErr (s : State) (c n : Nat) (f : ErrRec → ErrRec) : (s.modErr c n f).agenda = s.agenda := rfl
@[simp] theorem State.site_modErr (s : State) (c n : Nat) (f : ErrRec → ErrRec) : (s.modErr c n f).site = s.site := rfl
@[simp] theorem State.nextId_modErr (s : State) (c n : Nat) (f : ErrRec → ErrRec) : (s.modErr c n f).nextId = s.nextId := rfl
@[simp] theorem State.boot_modErr (s : State) (c n : Nat) (f : ErrRec → ErrRec) : (s.modErr c n f).boot = s.boot := rfl
@[simp] theorem State.lcs_modErr (s : State) (c n : Nat) (f : ErrRec → ErrRec) : (s.modErr c n f).lcs = s.lcs := rfl
@[simp] theorem State.pendingLcs_modErr (s : State) (c n : Nat) (f : ErrRec → ErrRec) : (s.modErr c n f).pendingLcs = s.pendingLcs := rfl
@[simp] theorem State.pkgid_modErr (s : State) (c n : Nat) (f : ErrRec → ErrRec) : (s.modErr c n f).pkgid = s.pkgid := rfl
@[simp] theorem State.fwhash_modErr (s : State) (c n : Nat) (f : ErrRec → ErrRec) : (s.modErr c n f).fwhash = s.fwhash := rfl
@[simp] theorem State.flash_modErr (s : State) (c n : Nat) (f : ErrRec → ErrRec) : (s.modErr c n f).flash = s.flash := rfl
@[simp] theorem State.idKey_modErr (s : State) (c n : Nat) (f : ErrRec → ErrRec) : (s.modErr c n f).idKey = s.idKey := rfl
@[simp] theorem State.clockKhz_modErr (s : State) (c n : Nat) (f : ErrRec → ErrRec) : (s.modErr c n f).clockKhz = s.clockKhz := rfl
@[simp] theorem State.downLinks_modErr (s : State) (c n : Nat) (f : ErrRec → ErrRec) : (s.modErr c n f).downLinks = s.downLinks := rfl
@[simp] theorem State.downPorts_modErr (s : State) (c n : Nat) (f : ErrRec → ErrRec) : (s.modErr c n f).downPorts = s.downPorts := rfl
@[simp] theorem State.rootUsable_modErr (s : State) (c n : Nat) (f : ErrRec → ErrRec) : (s.modErr c n f).rootUsable = s.rootUsable := rfl
@[simp] theorem State.failing_modErr (s : State) (c n : Nat) (f : ErrRec → ErrRec) : (s.modErr c n f).failing = s.failing := rfl
@[simp] theorem State.svcCheck_modErr (s : State) (c n : Nat) (f : ErrRec → ErrRec) : (s.modErr c n f).svcCheck = s.svcCheck := rfl
@[simp] theorem State.waiting_modErr (s : State) (c n : Nat) (f : ErrRec → ErrRec) : (s.modErr c n f).waiting = s.waiting := rfl
@[simp] theorem State.unreachable_modErr (s : State) (c n : Nat) (f : ErrRec → ErrRec) : (s.modErr c n f).unreachable = s.unreachable := rfl
@[simp] theorem State.seqNo_modErr (s : State) (c n : Nat) (f : ErrRec → ErrRec) : (s.modErr c n f).seqNo = s.seqNo := rfl
@[simp] theorem State.arb_modErr (s : State) (c n : Nat) (f : ErrRec → ErrRec) : (s.modErr c n f).arb = s.arb := rfl
@[simp] theorem State.launches_modErr (s : State) (c n : Nat) (f : ErrRec → ErrRec) : (s.modErr c n f).launches = s.launches := rfl
@[simp] theorem State.saves_modErr (s : State) (c n : Nat) (f : ErrRec → ErrRec) : (s.modErr c n f).saves = s.saves := rfl
@[simp] theorem State.hbm_modErr (s : State) (c n : Nat) (f : ErrRec → ErrRec) : (s.modErr c n f).hbm = s.hbm := rfl
@[simp] theorem State.poison_modErr (s : State) (c n : Nat) (f : ErrRec → ErrRec) : (s.modErr c n f).poison = s.poison := rfl
@[simp] theorem State.chairs_modErr (s : State) (c n : Nat) (f : ErrRec → ErrRec) : (s.modErr c n f).chairs = s.chairs := rfl
@[simp] theorem State.dressers_modErr (s : State) (c n : Nat) (f : ErrRec → ErrRec) : (s.modErr c n f).dressers = s.dressers := rfl
@[simp] theorem State.frontiers_modErr (s : State) (c n : Nat) (f : ErrRec → ErrRec) : (s.modErr c n f).frontiers = s.frontiers := rfl
@[simp] theorem State.svcTrap_modErr (s : State) (c n : Nat) (f : ErrRec → ErrRec) : (s.modErr c n f).svcTrap = s.svcTrap := rfl
@[simp] theorem State.svcPi_modErr (s : State) (c n : Nat) (f : ErrRec → ErrRec) : (s.modErr c n f).svcPi = s.svcPi := rfl
@[simp] theorem State.svcCi_modErr (s : State) (c n : Nat) (f : ErrRec → ErrRec) : (s.modErr c n f).svcCi = s.svcCi := rfl
@[simp] theorem State.svcQueue_modErr (s : State) (c n : Nat) (f : ErrRec → ErrRec) : (s.modErr c n f).svcQueue = s.svcQueue := rfl
@[simp] theorem State.svcStatus_modErr (s : State) (c n : Nat) (f : ErrRec → ErrRec) : (s.modErr c n f).svcStatus = s.svcStatus := rfl
@[simp] theorem State.svcBadk_modErr (s : State) (c n : Nat) (f : ErrRec → ErrRec) : (s.modErr c n f).svcBadk = s.svcBadk := rfl
@[simp] theorem State.probes_modErr (s : State) (c n : Nat) (f : ErrRec → ErrRec) : (s.modErr c n f).probes = s.probes := rfl
@[simp] theorem State.steers_modErr (s : State) (c n : Nat) (f : ErrRec → ErrRec) : (s.modErr c n f).steers = s.steers := rfl
@[simp] theorem State.policies_modErr (s : State) (c n : Nat) (f : ErrRec → ErrRec) : (s.modErr c n f).policies = s.policies := rfl
@[simp] theorem State.sliceErrs_modErr (s : State) (c n : Nat) (f : ErrRec → ErrRec) : (s.modErr c n f).sliceErrs = s.sliceErrs := rfl
@[simp] theorem State.stackErrs_modErr (s : State) (c n : Nat) (f : ErrRec → ErrRec) : (s.modErr c n f).stackErrs = s.stackErrs := rfl
@[simp] theorem State.responses_modErr (s : State) (c n : Nat) (f : ErrRec → ErrRec) : (s.modErr c n f).responses = s.responses := rfl
@[simp] theorem State.notices_modErr (s : State) (c n : Nat) (f : ErrRec → ErrRec) : (s.modErr c n f).notices = s.notices := rfl
@[simp] theorem State.mgmtOut_modErr (s : State) (c n : Nat) (f : ErrRec → ErrRec) : (s.modErr c n f).mgmtOut = s.mgmtOut := rfl

@[simp] theorem State.freeCtr_perfEvent (s : State) (c chair ev n : Nat) : (s.perfEvent c chair ev n).freeCtr = s.freeCtr := rfl
@[simp] theorem State.agenda_perfEvent (s : State) (c chair ev n : Nat) : (s.perfEvent c chair ev n).agenda = s.agenda := rfl
@[simp] theorem State.site_perfEvent (s : State) (c chair ev n : Nat) : (s.perfEvent c chair ev n).site = s.site := rfl
@[simp] theorem State.nextId_perfEvent (s : State) (c chair ev n : Nat) : (s.perfEvent c chair ev n).nextId = s.nextId := rfl
@[simp] theorem State.boot_perfEvent (s : State) (c chair ev n : Nat) : (s.perfEvent c chair ev n).boot = s.boot := rfl
@[simp] theorem State.lcs_perfEvent (s : State) (c chair ev n : Nat) : (s.perfEvent c chair ev n).lcs = s.lcs := rfl
@[simp] theorem State.pendingLcs_perfEvent (s : State) (c chair ev n : Nat) : (s.perfEvent c chair ev n).pendingLcs = s.pendingLcs := rfl
@[simp] theorem State.pkgid_perfEvent (s : State) (c chair ev n : Nat) : (s.perfEvent c chair ev n).pkgid = s.pkgid := rfl
@[simp] theorem State.fwhash_perfEvent (s : State) (c chair ev n : Nat) : (s.perfEvent c chair ev n).fwhash = s.fwhash := rfl
@[simp] theorem State.flash_perfEvent (s : State) (c chair ev n : Nat) : (s.perfEvent c chair ev n).flash = s.flash := rfl
@[simp] theorem State.idKey_perfEvent (s : State) (c chair ev n : Nat) : (s.perfEvent c chair ev n).idKey = s.idKey := rfl
@[simp] theorem State.clockKhz_perfEvent (s : State) (c chair ev n : Nat) : (s.perfEvent c chair ev n).clockKhz = s.clockKhz := rfl
@[simp] theorem State.downLinks_perfEvent (s : State) (c chair ev n : Nat) : (s.perfEvent c chair ev n).downLinks = s.downLinks := rfl
@[simp] theorem State.downPorts_perfEvent (s : State) (c chair ev n : Nat) : (s.perfEvent c chair ev n).downPorts = s.downPorts := rfl
@[simp] theorem State.rootUsable_perfEvent (s : State) (c chair ev n : Nat) : (s.perfEvent c chair ev n).rootUsable = s.rootUsable := rfl
@[simp] theorem State.failing_perfEvent (s : State) (c chair ev n : Nat) : (s.perfEvent c chair ev n).failing = s.failing := rfl
@[simp] theorem State.svcCheck_perfEvent (s : State) (c chair ev n : Nat) : (s.perfEvent c chair ev n).svcCheck = s.svcCheck := rfl
@[simp] theorem State.waiting_perfEvent (s : State) (c chair ev n : Nat) : (s.perfEvent c chair ev n).waiting = s.waiting := rfl
@[simp] theorem State.unreachable_perfEvent (s : State) (c chair ev n : Nat) : (s.perfEvent c chair ev n).unreachable = s.unreachable := rfl
@[simp] theorem State.seqNo_perfEvent (s : State) (c chair ev n : Nat) : (s.perfEvent c chair ev n).seqNo = s.seqNo := rfl
@[simp] theorem State.arb_perfEvent (s : State) (c chair ev n : Nat) : (s.perfEvent c chair ev n).arb = s.arb := rfl
@[simp] theorem State.launches_perfEvent (s : State) (c chair ev n : Nat) : (s.perfEvent c chair ev n).launches = s.launches := rfl
@[simp] theorem State.saves_perfEvent (s : State) (c chair ev n : Nat) : (s.perfEvent c chair ev n).saves = s.saves := rfl
@[simp] theorem State.hbm_perfEvent (s : State) (c chair ev n : Nat) : (s.perfEvent c chair ev n).hbm = s.hbm := rfl
@[simp] theorem State.poison_perfEvent (s : State) (c chair ev n : Nat) : (s.perfEvent c chair ev n).poison = s.poison := rfl
@[simp] theorem State.chairs_perfEvent (s : State) (c chair ev n : Nat) : (s.perfEvent c chair ev n).chairs = s.chairs := rfl
@[simp] theorem State.dressers_perfEvent (s : State) (c chair ev n : Nat) : (s.perfEvent c chair ev n).dressers = s.dressers := rfl
@[simp] theorem State.frontiers_perfEvent (s : State) (c chair ev n : Nat) : (s.perfEvent c chair ev n).frontiers = s.frontiers := rfl
@[simp] theorem State.svcTrap_perfEvent (s : State) (c chair ev n : Nat) : (s.perfEvent c chair ev n).svcTrap = s.svcTrap := rfl
@[simp] theorem State.svcPi_perfEvent (s : State) (c chair ev n : Nat) : (s.perfEvent c chair ev n).svcPi = s.svcPi := rfl
@[simp] theorem State.svcCi_perfEvent (s : State) (c chair ev n : Nat) : (s.perfEvent c chair ev n).svcCi = s.svcCi := rfl
@[simp] theorem State.svcQueue_perfEvent (s : State) (c chair ev n : Nat) : (s.perfEvent c chair ev n).svcQueue = s.svcQueue := rfl
@[simp] theorem State.svcStatus_perfEvent (s : State) (c chair ev n : Nat) : (s.perfEvent c chair ev n).svcStatus = s.svcStatus := rfl
@[simp] theorem State.svcBadk_perfEvent (s : State) (c chair ev n : Nat) : (s.perfEvent c chair ev n).svcBadk = s.svcBadk := rfl
@[simp] theorem State.probes_perfEvent (s : State) (c chair ev n : Nat) : (s.perfEvent c chair ev n).probes = s.probes := rfl
@[simp] theorem State.steers_perfEvent (s : State) (c chair ev n : Nat) : (s.perfEvent c chair ev n).steers = s.steers := rfl
@[simp] theorem State.policies_perfEvent (s : State) (c chair ev n : Nat) : (s.perfEvent c chair ev n).policies = s.policies := rfl
@[simp] theorem State.sliceErrs_perfEvent (s : State) (c chair ev n : Nat) : (s.perfEvent c chair ev n).sliceErrs = s.sliceErrs := rfl
@[simp] theorem State.stackErrs_perfEvent (s : State) (c chair ev n : Nat) : (s.perfEvent c chair ev n).stackErrs = s.stackErrs := rfl
@[simp] theorem State.responses_perfEvent (s : State) (c chair ev n : Nat) : (s.perfEvent c chair ev n).responses = s.responses := rfl
@[simp] theorem State.notices_perfEvent (s : State) (c chair ev n : Nat) : (s.perfEvent c chair ev n).notices = s.notices := rfl
@[simp] theorem State.mgmtOut_perfEvent (s : State) (c chair ev n : Nat) : (s.perfEvent c chair ev n).mgmtOut = s.mgmtOut := rfl

@[simp] theorem State.freeCtr_fillTlb (s : State) (c : Nat) (e : TlbEntry) : (s.fillTlb c e).freeCtr = s.freeCtr := by
  simp only [State.fillTlb]; split <;> rfl
@[simp] theorem State.agenda_fillTlb (s : State) (c : Nat) (e : TlbEntry) : (s.fillTlb c e).agenda = s.agenda := by
  simp only [State.fillTlb]; split <;> rfl
@[simp] theorem State.site_fillTlb (s : State) (c : Nat) (e : TlbEntry) : (s.fillTlb c e).site = s.site := by
  simp only [State.fillTlb]; split <;> rfl
@[simp] theorem State.nextId_fillTlb (s : State) (c : Nat) (e : TlbEntry) : (s.fillTlb c e).nextId = s.nextId := by
  simp only [State.fillTlb]; split <;> rfl
@[simp] theorem State.boot_fillTlb (s : State) (c : Nat) (e : TlbEntry) : (s.fillTlb c e).boot = s.boot := by
  simp only [State.fillTlb]; split <;> rfl
@[simp] theorem State.lcs_fillTlb (s : State) (c : Nat) (e : TlbEntry) : (s.fillTlb c e).lcs = s.lcs := by
  simp only [State.fillTlb]; split <;> rfl
@[simp] theorem State.pendingLcs_fillTlb (s : State) (c : Nat) (e : TlbEntry) : (s.fillTlb c e).pendingLcs = s.pendingLcs := by
  simp only [State.fillTlb]; split <;> rfl
@[simp] theorem State.pkgid_fillTlb (s : State) (c : Nat) (e : TlbEntry) : (s.fillTlb c e).pkgid = s.pkgid := by
  simp only [State.fillTlb]; split <;> rfl
@[simp] theorem State.fwhash_fillTlb (s : State) (c : Nat) (e : TlbEntry) : (s.fillTlb c e).fwhash = s.fwhash := by
  simp only [State.fillTlb]; split <;> rfl
@[simp] theorem State.flash_fillTlb (s : State) (c : Nat) (e : TlbEntry) : (s.fillTlb c e).flash = s.flash := by
  simp only [State.fillTlb]; split <;> rfl
@[simp] theorem State.idKey_fillTlb (s : State) (c : Nat) (e : TlbEntry) : (s.fillTlb c e).idKey = s.idKey := by
  simp only [State.fillTlb]; split <;> rfl
@[simp] theorem State.clockKhz_fillTlb (s : State) (c : Nat) (e : TlbEntry) : (s.fillTlb c e).clockKhz = s.clockKhz := by
  simp only [State.fillTlb]; split <;> rfl
@[simp] theorem State.downLinks_fillTlb (s : State) (c : Nat) (e : TlbEntry) : (s.fillTlb c e).downLinks = s.downLinks := by
  simp only [State.fillTlb]; split <;> rfl
@[simp] theorem State.downPorts_fillTlb (s : State) (c : Nat) (e : TlbEntry) : (s.fillTlb c e).downPorts = s.downPorts := by
  simp only [State.fillTlb]; split <;> rfl
@[simp] theorem State.rootUsable_fillTlb (s : State) (c : Nat) (e : TlbEntry) : (s.fillTlb c e).rootUsable = s.rootUsable := by
  simp only [State.fillTlb]; split <;> rfl
@[simp] theorem State.failing_fillTlb (s : State) (c : Nat) (e : TlbEntry) : (s.fillTlb c e).failing = s.failing := by
  simp only [State.fillTlb]; split <;> rfl
@[simp] theorem State.svcCheck_fillTlb (s : State) (c : Nat) (e : TlbEntry) : (s.fillTlb c e).svcCheck = s.svcCheck := by
  simp only [State.fillTlb]; split <;> rfl
@[simp] theorem State.waiting_fillTlb (s : State) (c : Nat) (e : TlbEntry) : (s.fillTlb c e).waiting = s.waiting := by
  simp only [State.fillTlb]; split <;> rfl
@[simp] theorem State.unreachable_fillTlb (s : State) (c : Nat) (e : TlbEntry) : (s.fillTlb c e).unreachable = s.unreachable := by
  simp only [State.fillTlb]; split <;> rfl
@[simp] theorem State.seqNo_fillTlb (s : State) (c : Nat) (e : TlbEntry) : (s.fillTlb c e).seqNo = s.seqNo := by
  simp only [State.fillTlb]; split <;> rfl
@[simp] theorem State.arb_fillTlb (s : State) (c : Nat) (e : TlbEntry) : (s.fillTlb c e).arb = s.arb := by
  simp only [State.fillTlb]; split <;> rfl
@[simp] theorem State.launches_fillTlb (s : State) (c : Nat) (e : TlbEntry) : (s.fillTlb c e).launches = s.launches := by
  simp only [State.fillTlb]; split <;> rfl
@[simp] theorem State.saves_fillTlb (s : State) (c : Nat) (e : TlbEntry) : (s.fillTlb c e).saves = s.saves := by
  simp only [State.fillTlb]; split <;> rfl
@[simp] theorem State.hbm_fillTlb (s : State) (c : Nat) (e : TlbEntry) : (s.fillTlb c e).hbm = s.hbm := by
  simp only [State.fillTlb]; split <;> rfl
@[simp] theorem State.poison_fillTlb (s : State) (c : Nat) (e : TlbEntry) : (s.fillTlb c e).poison = s.poison := by
  simp only [State.fillTlb]; split <;> rfl
@[simp] theorem State.chairs_fillTlb (s : State) (c : Nat) (e : TlbEntry) : (s.fillTlb c e).chairs = s.chairs := by
  simp only [State.fillTlb]; split <;> rfl
@[simp] theorem State.dressers_fillTlb (s : State) (c : Nat) (e : TlbEntry) : (s.fillTlb c e).dressers = s.dressers := by
  simp only [State.fillTlb]; split <;> rfl
@[simp] theorem State.frontiers_fillTlb (s : State) (c : Nat) (e : TlbEntry) : (s.fillTlb c e).frontiers = s.frontiers := by
  simp only [State.fillTlb]; split <;> rfl
@[simp] theorem State.svcTrap_fillTlb (s : State) (c : Nat) (e : TlbEntry) : (s.fillTlb c e).svcTrap = s.svcTrap := by
  simp only [State.fillTlb]; split <;> rfl
@[simp] theorem State.svcPi_fillTlb (s : State) (c : Nat) (e : TlbEntry) : (s.fillTlb c e).svcPi = s.svcPi := by
  simp only [State.fillTlb]; split <;> rfl
@[simp] theorem State.svcCi_fillTlb (s : State) (c : Nat) (e : TlbEntry) : (s.fillTlb c e).svcCi = s.svcCi := by
  simp only [State.fillTlb]; split <;> rfl
@[simp] theorem State.svcQueue_fillTlb (s : State) (c : Nat) (e : TlbEntry) : (s.fillTlb c e).svcQueue = s.svcQueue := by
  simp only [State.fillTlb]; split <;> rfl
@[simp] theorem State.svcStatus_fillTlb (s : State) (c : Nat) (e : TlbEntry) : (s.fillTlb c e).svcStatus = s.svcStatus := by
  simp only [State.fillTlb]; split <;> rfl
@[simp] theorem State.svcBadk_fillTlb (s : State) (c : Nat) (e : TlbEntry) : (s.fillTlb c e).svcBadk = s.svcBadk := by
  simp only [State.fillTlb]; split <;> rfl
@[simp] theorem State.probes_fillTlb (s : State) (c : Nat) (e : TlbEntry) : (s.fillTlb c e).probes = s.probes := by
  simp only [State.fillTlb]; split <;> rfl
@[simp] theorem State.steers_fillTlb (s : State) (c : Nat) (e : TlbEntry) : (s.fillTlb c e).steers = s.steers := by
  simp only [State.fillTlb]; split <;> rfl
@[simp] theorem State.policies_fillTlb (s : State) (c : Nat) (e : TlbEntry) : (s.fillTlb c e).policies = s.policies := by
  simp only [State.fillTlb]; split <;> rfl
@[simp] theorem State.sliceErrs_fillTlb (s : State) (c : Nat) (e : TlbEntry) : (s.fillTlb c e).sliceErrs = s.sliceErrs := by
  simp only [State.fillTlb]; split <;> rfl
@[simp] theorem State.stackErrs_fillTlb (s : State) (c : Nat) (e : TlbEntry) : (s.fillTlb c e).stackErrs = s.stackErrs := by
  simp only [State.fillTlb]; split <;> rfl
@[simp] theorem State.responses_fillTlb (s : State) (c : Nat) (e : TlbEntry) : (s.fillTlb c e).responses = s.responses := by
  simp only [State.fillTlb]; split <;> rfl
@[simp] theorem State.notices_fillTlb (s : State) (c : Nat) (e : TlbEntry) : (s.fillTlb c e).notices = s.notices := by
  simp only [State.fillTlb]; split <;> rfl
@[simp] theorem State.mgmtOut_fillTlb (s : State) (c : Nat) (e : TlbEntry) : (s.fillTlb c e).mgmtOut = s.mgmtOut := by
  simp only [State.fillTlb]; split <;> rfl

@[simp] theorem State.freeCtr_storeLocal (s : State) (c : Nat) (sl : Slot) (off n v : Nat) : (s.storeLocal c sl off n v).freeCtr = s.freeCtr := rfl
@[simp] theorem State.agenda_storeLocal (s : State) (c : Nat) (sl : Slot) (off n v : Nat) : (s.storeLocal c sl off n v).agenda = s.agenda := rfl
@[simp] theorem State.site_storeLocal (s : State) (c : Nat) (sl : Slot) (off n v : Nat) : (s.storeLocal c sl off n v).site = s.site := rfl
@[simp] theorem State.nextId_storeLocal (s : State) (c : Nat) (sl : Slot) (off n v : Nat) : (s.storeLocal c sl off n v).nextId = s.nextId := rfl
@[simp] theorem State.boot_storeLocal (s : State) (c : Nat) (sl : Slot) (off n v : Nat) : (s.storeLocal c sl off n v).boot = s.boot := rfl
@[simp] theorem State.lcs_storeLocal (s : State) (c : Nat) (sl : Slot) (off n v : Nat) : (s.storeLocal c sl off n v).lcs = s.lcs := rfl
@[simp] theorem State.pendingLcs_storeLocal (s : State) (c : Nat) (sl : Slot) (off n v : Nat) : (s.storeLocal c sl off n v).pendingLcs = s.pendingLcs := rfl
@[simp] theorem State.pkgid_storeLocal (s : State) (c : Nat) (sl : Slot) (off n v : Nat) : (s.storeLocal c sl off n v).pkgid = s.pkgid := rfl
@[simp] theorem State.fwhash_storeLocal (s : State) (c : Nat) (sl : Slot) (off n v : Nat) : (s.storeLocal c sl off n v).fwhash = s.fwhash := rfl
@[simp] theorem State.flash_storeLocal (s : State) (c : Nat) (sl : Slot) (off n v : Nat) : (s.storeLocal c sl off n v).flash = s.flash := rfl
@[simp] theorem State.idKey_storeLocal (s : State) (c : Nat) (sl : Slot) (off n v : Nat) : (s.storeLocal c sl off n v).idKey = s.idKey := rfl
@[simp] theorem State.clockKhz_storeLocal (s : State) (c : Nat) (sl : Slot) (off n v : Nat) : (s.storeLocal c sl off n v).clockKhz = s.clockKhz := rfl
@[simp] theorem State.downLinks_storeLocal (s : State) (c : Nat) (sl : Slot) (off n v : Nat) : (s.storeLocal c sl off n v).downLinks = s.downLinks := rfl
@[simp] theorem State.downPorts_storeLocal (s : State) (c : Nat) (sl : Slot) (off n v : Nat) : (s.storeLocal c sl off n v).downPorts = s.downPorts := rfl
@[simp] theorem State.rootUsable_storeLocal (s : State) (c : Nat) (sl : Slot) (off n v : Nat) : (s.storeLocal c sl off n v).rootUsable = s.rootUsable := rfl
@[simp] theorem State.failing_storeLocal (s : State) (c : Nat) (sl : Slot) (off n v : Nat) : (s.storeLocal c sl off n v).failing = s.failing := rfl
@[simp] theorem State.svcCheck_storeLocal (s : State) (c : Nat) (sl : Slot) (off n v : Nat) : (s.storeLocal c sl off n v).svcCheck = s.svcCheck := rfl
@[simp] theorem State.waiting_storeLocal (s : State) (c : Nat) (sl : Slot) (off n v : Nat) : (s.storeLocal c sl off n v).waiting = s.waiting := rfl
@[simp] theorem State.unreachable_storeLocal (s : State) (c : Nat) (sl : Slot) (off n v : Nat) : (s.storeLocal c sl off n v).unreachable = s.unreachable := rfl
@[simp] theorem State.seqNo_storeLocal (s : State) (c : Nat) (sl : Slot) (off n v : Nat) : (s.storeLocal c sl off n v).seqNo = s.seqNo := rfl
@[simp] theorem State.arb_storeLocal (s : State) (c : Nat) (sl : Slot) (off n v : Nat) : (s.storeLocal c sl off n v).arb = s.arb := rfl
@[simp] theorem State.launches_storeLocal (s : State) (c : Nat) (sl : Slot) (off n v : Nat) : (s.storeLocal c sl off n v).launches = s.launches := rfl
@[simp] theorem State.saves_storeLocal (s : State) (c : Nat) (sl : Slot) (off n v : Nat) : (s.storeLocal c sl off n v).saves = s.saves := rfl
@[simp] theorem State.hbm_storeLocal (s : State) (c : Nat) (sl : Slot) (off n v : Nat) : (s.storeLocal c sl off n v).hbm = s.hbm := rfl
@[simp] theorem State.poison_storeLocal (s : State) (c : Nat) (sl : Slot) (off n v : Nat) : (s.storeLocal c sl off n v).poison = s.poison := rfl
@[simp] theorem State.chairs_storeLocal (s : State) (c : Nat) (sl : Slot) (off n v : Nat) : (s.storeLocal c sl off n v).chairs = s.chairs := rfl
@[simp] theorem State.dressers_storeLocal (s : State) (c : Nat) (sl : Slot) (off n v : Nat) : (s.storeLocal c sl off n v).dressers = s.dressers := rfl
@[simp] theorem State.frontiers_storeLocal (s : State) (c : Nat) (sl : Slot) (off n v : Nat) : (s.storeLocal c sl off n v).frontiers = s.frontiers := rfl
@[simp] theorem State.svcTrap_storeLocal (s : State) (c : Nat) (sl : Slot) (off n v : Nat) : (s.storeLocal c sl off n v).svcTrap = s.svcTrap := rfl
@[simp] theorem State.svcPi_storeLocal (s : State) (c : Nat) (sl : Slot) (off n v : Nat) : (s.storeLocal c sl off n v).svcPi = s.svcPi := rfl
@[simp] theorem State.svcCi_storeLocal (s : State) (c : Nat) (sl : Slot) (off n v : Nat) : (s.storeLocal c sl off n v).svcCi = s.svcCi := rfl
@[simp] theorem State.svcQueue_storeLocal (s : State) (c : Nat) (sl : Slot) (off n v : Nat) : (s.storeLocal c sl off n v).svcQueue = s.svcQueue := rfl
@[simp] theorem State.svcStatus_storeLocal (s : State) (c : Nat) (sl : Slot) (off n v : Nat) : (s.storeLocal c sl off n v).svcStatus = s.svcStatus := rfl
@[simp] theorem State.svcBadk_storeLocal (s : State) (c : Nat) (sl : Slot) (off n v : Nat) : (s.storeLocal c sl off n v).svcBadk = s.svcBadk := rfl
@[simp] theorem State.probes_storeLocal (s : State) (c : Nat) (sl : Slot) (off n v : Nat) : (s.storeLocal c sl off n v).probes = s.probes := rfl
@[simp] theorem State.steers_storeLocal (s : State) (c : Nat) (sl : Slot) (off n v : Nat) : (s.storeLocal c sl off n v).steers = s.steers := rfl
@[simp] theorem State.policies_storeLocal (s : State) (c : Nat) (sl : Slot) (off n v : Nat) : (s.storeLocal c sl off n v).policies = s.policies := rfl
@[simp] theorem State.sliceErrs_storeLocal (s : State) (c : Nat) (sl : Slot) (off n v : Nat) : (s.storeLocal c sl off n v).sliceErrs = s.sliceErrs := rfl
@[simp] theorem State.stackErrs_storeLocal (s : State) (c : Nat) (sl : Slot) (off n v : Nat) : (s.storeLocal c sl off n v).stackErrs = s.stackErrs := rfl
@[simp] theorem State.responses_storeLocal (s : State) (c : Nat) (sl : Slot) (off n v : Nat) : (s.storeLocal c sl off n v).responses = s.responses := rfl
@[simp] theorem State.notices_storeLocal (s : State) (c : Nat) (sl : Slot) (off n v : Nat) : (s.storeLocal c sl off n v).notices = s.notices := rfl
@[simp] theorem State.mgmtOut_storeLocal (s : State) (c : Nat) (sl : Slot) (off n v : Nat) : (s.storeLocal c sl off n v).mgmtOut = s.mgmtOut := rfl

@[simp] theorem State.freeCtr_poisonLocal (s : State) (c : Nat) (sl : Slot) (off n : Nat) : (s.poisonLocal c sl off n).freeCtr = s.freeCtr := rfl
@[simp] theorem State.agenda_poisonLocal (s : State) (c : Nat) (sl : Slot) (off n : Nat) : (s.poisonLocal c sl off n).agenda = s.agenda := rfl
@[simp] theorem State.site_poisonLocal (s : State) (c : Nat) (sl : Slot) (off n : Nat) : (s.poisonLocal c sl off n).site = s.site := rfl
@[simp] theorem State.nextId_poisonLocal (s : State) (c : Nat) (sl : Slot) (off n : Nat) : (s.poisonLocal c sl off n).nextId = s.nextId := rfl
@[simp] theorem State.boot_poisonLocal (s : State) (c : Nat) (sl : Slot) (off n : Nat) : (s.poisonLocal c sl off n).boot = s.boot := rfl
@[simp] theorem State.lcs_poisonLocal (s : State) (c : Nat) (sl : Slot) (off n : Nat) : (s.poisonLocal c sl off n).lcs = s.lcs := rfl
@[simp] theorem State.pendingLcs_poisonLocal (s : State) (c : Nat) (sl : Slot) (off n : Nat) : (s.poisonLocal c sl off n).pendingLcs = s.pendingLcs := rfl
@[simp] theorem State.pkgid_poisonLocal (s : State) (c : Nat) (sl : Slot) (off n : Nat) : (s.poisonLocal c sl off n).pkgid = s.pkgid := rfl
@[simp] theorem State.fwhash_poisonLocal (s : State) (c : Nat) (sl : Slot) (off n : Nat) : (s.poisonLocal c sl off n).fwhash = s.fwhash := rfl
@[simp] theorem State.flash_poisonLocal (s : State) (c : Nat) (sl : Slot) (off n : Nat) : (s.poisonLocal c sl off n).flash = s.flash := rfl
@[simp] theorem State.idKey_poisonLocal (s : State) (c : Nat) (sl : Slot) (off n : Nat) : (s.poisonLocal c sl off n).idKey = s.idKey := rfl
@[simp] theorem State.clockKhz_poisonLocal (s : State) (c : Nat) (sl : Slot) (off n : Nat) : (s.poisonLocal c sl off n).clockKhz = s.clockKhz := rfl
@[simp] theorem State.downLinks_poisonLocal (s : State) (c : Nat) (sl : Slot) (off n : Nat) : (s.poisonLocal c sl off n).downLinks = s.downLinks := rfl
@[simp] theorem State.downPorts_poisonLocal (s : State) (c : Nat) (sl : Slot) (off n : Nat) : (s.poisonLocal c sl off n).downPorts = s.downPorts := rfl
@[simp] theorem State.rootUsable_poisonLocal (s : State) (c : Nat) (sl : Slot) (off n : Nat) : (s.poisonLocal c sl off n).rootUsable = s.rootUsable := rfl
@[simp] theorem State.failing_poisonLocal (s : State) (c : Nat) (sl : Slot) (off n : Nat) : (s.poisonLocal c sl off n).failing = s.failing := rfl
@[simp] theorem State.svcCheck_poisonLocal (s : State) (c : Nat) (sl : Slot) (off n : Nat) : (s.poisonLocal c sl off n).svcCheck = s.svcCheck := rfl
@[simp] theorem State.waiting_poisonLocal (s : State) (c : Nat) (sl : Slot) (off n : Nat) : (s.poisonLocal c sl off n).waiting = s.waiting := rfl
@[simp] theorem State.unreachable_poisonLocal (s : State) (c : Nat) (sl : Slot) (off n : Nat) : (s.poisonLocal c sl off n).unreachable = s.unreachable := rfl
@[simp] theorem State.seqNo_poisonLocal (s : State) (c : Nat) (sl : Slot) (off n : Nat) : (s.poisonLocal c sl off n).seqNo = s.seqNo := rfl
@[simp] theorem State.arb_poisonLocal (s : State) (c : Nat) (sl : Slot) (off n : Nat) : (s.poisonLocal c sl off n).arb = s.arb := rfl
@[simp] theorem State.launches_poisonLocal (s : State) (c : Nat) (sl : Slot) (off n : Nat) : (s.poisonLocal c sl off n).launches = s.launches := rfl
@[simp] theorem State.saves_poisonLocal (s : State) (c : Nat) (sl : Slot) (off n : Nat) : (s.poisonLocal c sl off n).saves = s.saves := rfl
@[simp] theorem State.hbm_poisonLocal (s : State) (c : Nat) (sl : Slot) (off n : Nat) : (s.poisonLocal c sl off n).hbm = s.hbm := rfl
@[simp] theorem State.poison_poisonLocal (s : State) (c : Nat) (sl : Slot) (off n : Nat) : (s.poisonLocal c sl off n).poison = s.poison := rfl
@[simp] theorem State.chairs_poisonLocal (s : State) (c : Nat) (sl : Slot) (off n : Nat) : (s.poisonLocal c sl off n).chairs = s.chairs := rfl
@[simp] theorem State.dressers_poisonLocal (s : State) (c : Nat) (sl : Slot) (off n : Nat) : (s.poisonLocal c sl off n).dressers = s.dressers := rfl
@[simp] theorem State.frontiers_poisonLocal (s : State) (c : Nat) (sl : Slot) (off n : Nat) : (s.poisonLocal c sl off n).frontiers = s.frontiers := rfl
@[simp] theorem State.svcTrap_poisonLocal (s : State) (c : Nat) (sl : Slot) (off n : Nat) : (s.poisonLocal c sl off n).svcTrap = s.svcTrap := rfl
@[simp] theorem State.svcPi_poisonLocal (s : State) (c : Nat) (sl : Slot) (off n : Nat) : (s.poisonLocal c sl off n).svcPi = s.svcPi := rfl
@[simp] theorem State.svcCi_poisonLocal (s : State) (c : Nat) (sl : Slot) (off n : Nat) : (s.poisonLocal c sl off n).svcCi = s.svcCi := rfl
@[simp] theorem State.svcQueue_poisonLocal (s : State) (c : Nat) (sl : Slot) (off n : Nat) : (s.poisonLocal c sl off n).svcQueue = s.svcQueue := rfl
@[simp] theorem State.svcStatus_poisonLocal (s : State) (c : Nat) (sl : Slot) (off n : Nat) : (s.poisonLocal c sl off n).svcStatus = s.svcStatus := rfl
@[simp] theorem State.svcBadk_poisonLocal (s : State) (c : Nat) (sl : Slot) (off n : Nat) : (s.poisonLocal c sl off n).svcBadk = s.svcBadk := rfl
@[simp] theorem State.probes_poisonLocal (s : State) (c : Nat) (sl : Slot) (off n : Nat) : (s.poisonLocal c sl off n).probes = s.probes := rfl
@[simp] theorem State.steers_poisonLocal (s : State) (c : Nat) (sl : Slot) (off n : Nat) : (s.poisonLocal c sl off n).steers = s.steers := rfl
@[simp] theorem State.policies_poisonLocal (s : State) (c : Nat) (sl : Slot) (off n : Nat) : (s.poisonLocal c sl off n).policies = s.policies := rfl
@[simp] theorem State.sliceErrs_poisonLocal (s : State) (c : Nat) (sl : Slot) (off n : Nat) : (s.poisonLocal c sl off n).sliceErrs = s.sliceErrs := rfl
@[simp] theorem State.stackErrs_poisonLocal (s : State) (c : Nat) (sl : Slot) (off n : Nat) : (s.poisonLocal c sl off n).stackErrs = s.stackErrs := rfl
@[simp] theorem State.responses_poisonLocal (s : State) (c : Nat) (sl : Slot) (off n : Nat) : (s.poisonLocal c sl off n).responses = s.responses := rfl
@[simp] theorem State.notices_poisonLocal (s : State) (c : Nat) (sl : Slot) (off n : Nat) : (s.poisonLocal c sl off n).notices = s.notices := rfl
@[simp] theorem State.mgmtOut_poisonLocal (s : State) (c : Nat) (sl : Slot) (off n : Nat) : (s.poisonLocal c sl off n).mgmtOut = s.mgmtOut := rfl

@[simp] theorem State.freeCtr_record (s : State) (c i age : Nat) (x : FaultRec) : (s.record c i age x).freeCtr = s.freeCtr := rfl
@[simp] theorem State.agenda_record (s : State) (c i age : Nat) (x : FaultRec) : (s.record c i age x).agenda = s.agenda := rfl
@[simp] theorem State.site_record (s : State) (c i age : Nat) (x : FaultRec) : (s.record c i age x).site = s.site := rfl
@[simp] theorem State.nextId_record (s : State) (c i age : Nat) (x : FaultRec) : (s.record c i age x).nextId = s.nextId := rfl
@[simp] theorem State.boot_record (s : State) (c i age : Nat) (x : FaultRec) : (s.record c i age x).boot = s.boot := rfl
@[simp] theorem State.lcs_record (s : State) (c i age : Nat) (x : FaultRec) : (s.record c i age x).lcs = s.lcs := rfl
@[simp] theorem State.pendingLcs_record (s : State) (c i age : Nat) (x : FaultRec) : (s.record c i age x).pendingLcs = s.pendingLcs := rfl
@[simp] theorem State.pkgid_record (s : State) (c i age : Nat) (x : FaultRec) : (s.record c i age x).pkgid = s.pkgid := rfl
@[simp] theorem State.fwhash_record (s : State) (c i age : Nat) (x : FaultRec) : (s.record c i age x).fwhash = s.fwhash := rfl
@[simp] theorem State.flash_record (s : State) (c i age : Nat) (x : FaultRec) : (s.record c i age x).flash = s.flash := rfl
@[simp] theorem State.idKey_record (s : State) (c i age : Nat) (x : FaultRec) : (s.record c i age x).idKey = s.idKey := rfl
@[simp] theorem State.clockKhz_record (s : State) (c i age : Nat) (x : FaultRec) : (s.record c i age x).clockKhz = s.clockKhz := rfl
@[simp] theorem State.downLinks_record (s : State) (c i age : Nat) (x : FaultRec) : (s.record c i age x).downLinks = s.downLinks := rfl
@[simp] theorem State.downPorts_record (s : State) (c i age : Nat) (x : FaultRec) : (s.record c i age x).downPorts = s.downPorts := rfl
@[simp] theorem State.rootUsable_record (s : State) (c i age : Nat) (x : FaultRec) : (s.record c i age x).rootUsable = s.rootUsable := rfl
@[simp] theorem State.failing_record (s : State) (c i age : Nat) (x : FaultRec) : (s.record c i age x).failing = s.failing := rfl
@[simp] theorem State.svcCheck_record (s : State) (c i age : Nat) (x : FaultRec) : (s.record c i age x).svcCheck = s.svcCheck := rfl
@[simp] theorem State.waiting_record (s : State) (c i age : Nat) (x : FaultRec) : (s.record c i age x).waiting = s.waiting := rfl
@[simp] theorem State.unreachable_record (s : State) (c i age : Nat) (x : FaultRec) : (s.record c i age x).unreachable = s.unreachable := rfl
@[simp] theorem State.seqNo_record (s : State) (c i age : Nat) (x : FaultRec) : (s.record c i age x).seqNo = s.seqNo := rfl
@[simp] theorem State.arb_record (s : State) (c i age : Nat) (x : FaultRec) : (s.record c i age x).arb = s.arb := rfl
@[simp] theorem State.launches_record (s : State) (c i age : Nat) (x : FaultRec) : (s.record c i age x).launches = s.launches := rfl
@[simp] theorem State.saves_record (s : State) (c i age : Nat) (x : FaultRec) : (s.record c i age x).saves = s.saves := rfl
@[simp] theorem State.hbm_record (s : State) (c i age : Nat) (x : FaultRec) : (s.record c i age x).hbm = s.hbm := rfl
@[simp] theorem State.poison_record (s : State) (c i age : Nat) (x : FaultRec) : (s.record c i age x).poison = s.poison := rfl
@[simp] theorem State.chairs_record (s : State) (c i age : Nat) (x : FaultRec) : (s.record c i age x).chairs = s.chairs := rfl
@[simp] theorem State.dressers_record (s : State) (c i age : Nat) (x : FaultRec) : (s.record c i age x).dressers = s.dressers := rfl
@[simp] theorem State.frontiers_record (s : State) (c i age : Nat) (x : FaultRec) : (s.record c i age x).frontiers = s.frontiers := rfl
@[simp] theorem State.svcTrap_record (s : State) (c i age : Nat) (x : FaultRec) : (s.record c i age x).svcTrap = s.svcTrap := rfl
@[simp] theorem State.svcPi_record (s : State) (c i age : Nat) (x : FaultRec) : (s.record c i age x).svcPi = s.svcPi := rfl
@[simp] theorem State.svcCi_record (s : State) (c i age : Nat) (x : FaultRec) : (s.record c i age x).svcCi = s.svcCi := rfl
@[simp] theorem State.svcQueue_record (s : State) (c i age : Nat) (x : FaultRec) : (s.record c i age x).svcQueue = s.svcQueue := rfl
@[simp] theorem State.svcStatus_record (s : State) (c i age : Nat) (x : FaultRec) : (s.record c i age x).svcStatus = s.svcStatus := rfl
@[simp] theorem State.svcBadk_record (s : State) (c i age : Nat) (x : FaultRec) : (s.record c i age x).svcBadk = s.svcBadk := rfl
@[simp] theorem State.probes_record (s : State) (c i age : Nat) (x : FaultRec) : (s.record c i age x).probes = s.probes := rfl
@[simp] theorem State.steers_record (s : State) (c i age : Nat) (x : FaultRec) : (s.record c i age x).steers = s.steers := rfl
@[simp] theorem State.policies_record (s : State) (c i age : Nat) (x : FaultRec) : (s.record c i age x).policies = s.policies := rfl
@[simp] theorem State.sliceErrs_record (s : State) (c i age : Nat) (x : FaultRec) : (s.record c i age x).sliceErrs = s.sliceErrs := rfl
@[simp] theorem State.stackErrs_record (s : State) (c i age : Nat) (x : FaultRec) : (s.record c i age x).stackErrs = s.stackErrs := rfl
@[simp] theorem State.responses_record (s : State) (c i age : Nat) (x : FaultRec) : (s.record c i age x).responses = s.responses := rfl
@[simp] theorem State.notices_record (s : State) (c i age : Nat) (x : FaultRec) : (s.record c i age x).notices = s.notices := rfl
@[simp] theorem State.mgmtOut_record (s : State) (c i age : Nat) (x : FaultRec) : (s.record c i age x).mgmtOut = s.mgmtOut := rfl

@[simp] theorem State.freeCtr_completeCq (s : State) (c i idx seq : Nat) (w : Word) : (s.completeCq c i idx seq w).freeCtr = s.freeCtr := rfl
@[simp] theorem State.agenda_completeCq (s : State) (c i idx seq : Nat) (w : Word) : (s.completeCq c i idx seq w).agenda = s.agenda := rfl
@[simp] theorem State.site_completeCq (s : State) (c i idx seq : Nat) (w : Word) : (s.completeCq c i idx seq w).site = s.site := rfl
@[simp] theorem State.nextId_completeCq (s : State) (c i idx seq : Nat) (w : Word) : (s.completeCq c i idx seq w).nextId = s.nextId := rfl
@[simp] theorem State.boot_completeCq (s : State) (c i idx seq : Nat) (w : Word) : (s.completeCq c i idx seq w).boot = s.boot := rfl
@[simp] theorem State.lcs_completeCq (s : State) (c i idx seq : Nat) (w : Word) : (s.completeCq c i idx seq w).lcs = s.lcs := rfl
@[simp] theorem State.pendingLcs_completeCq (s : State) (c i idx seq : Nat) (w : Word) : (s.completeCq c i idx seq w).pendingLcs = s.pendingLcs := rfl
@[simp] theorem State.pkgid_completeCq (s : State) (c i idx seq : Nat) (w : Word) : (s.completeCq c i idx seq w).pkgid = s.pkgid := rfl
@[simp] theorem State.fwhash_completeCq (s : State) (c i idx seq : Nat) (w : Word) : (s.completeCq c i idx seq w).fwhash = s.fwhash := rfl
@[simp] theorem State.flash_completeCq (s : State) (c i idx seq : Nat) (w : Word) : (s.completeCq c i idx seq w).flash = s.flash := rfl
@[simp] theorem State.idKey_completeCq (s : State) (c i idx seq : Nat) (w : Word) : (s.completeCq c i idx seq w).idKey = s.idKey := rfl
@[simp] theorem State.clockKhz_completeCq (s : State) (c i idx seq : Nat) (w : Word) : (s.completeCq c i idx seq w).clockKhz = s.clockKhz := rfl
@[simp] theorem State.downLinks_completeCq (s : State) (c i idx seq : Nat) (w : Word) : (s.completeCq c i idx seq w).downLinks = s.downLinks := rfl
@[simp] theorem State.downPorts_completeCq (s : State) (c i idx seq : Nat) (w : Word) : (s.completeCq c i idx seq w).downPorts = s.downPorts := rfl
@[simp] theorem State.rootUsable_completeCq (s : State) (c i idx seq : Nat) (w : Word) : (s.completeCq c i idx seq w).rootUsable = s.rootUsable := rfl
@[simp] theorem State.failing_completeCq (s : State) (c i idx seq : Nat) (w : Word) : (s.completeCq c i idx seq w).failing = s.failing := rfl
@[simp] theorem State.svcCheck_completeCq (s : State) (c i idx seq : Nat) (w : Word) : (s.completeCq c i idx seq w).svcCheck = s.svcCheck := rfl
@[simp] theorem State.waiting_completeCq (s : State) (c i idx seq : Nat) (w : Word) : (s.completeCq c i idx seq w).waiting = s.waiting := rfl
@[simp] theorem State.unreachable_completeCq (s : State) (c i idx seq : Nat) (w : Word) : (s.completeCq c i idx seq w).unreachable = s.unreachable := rfl
@[simp] theorem State.seqNo_completeCq (s : State) (c i idx seq : Nat) (w : Word) : (s.completeCq c i idx seq w).seqNo = s.seqNo := rfl
@[simp] theorem State.arb_completeCq (s : State) (c i idx seq : Nat) (w : Word) : (s.completeCq c i idx seq w).arb = s.arb := rfl
@[simp] theorem State.launches_completeCq (s : State) (c i idx seq : Nat) (w : Word) : (s.completeCq c i idx seq w).launches = s.launches := rfl
@[simp] theorem State.saves_completeCq (s : State) (c i idx seq : Nat) (w : Word) : (s.completeCq c i idx seq w).saves = s.saves := rfl
@[simp] theorem State.hbm_completeCq (s : State) (c i idx seq : Nat) (w : Word) : (s.completeCq c i idx seq w).hbm = s.hbm := rfl
@[simp] theorem State.poison_completeCq (s : State) (c i idx seq : Nat) (w : Word) : (s.completeCq c i idx seq w).poison = s.poison := rfl
@[simp] theorem State.chairs_completeCq (s : State) (c i idx seq : Nat) (w : Word) : (s.completeCq c i idx seq w).chairs = s.chairs := rfl
@[simp] theorem State.dressers_completeCq (s : State) (c i idx seq : Nat) (w : Word) : (s.completeCq c i idx seq w).dressers = s.dressers := rfl
@[simp] theorem State.frontiers_completeCq (s : State) (c i idx seq : Nat) (w : Word) : (s.completeCq c i idx seq w).frontiers = s.frontiers := rfl
@[simp] theorem State.svcTrap_completeCq (s : State) (c i idx seq : Nat) (w : Word) : (s.completeCq c i idx seq w).svcTrap = s.svcTrap := rfl
@[simp] theorem State.svcPi_completeCq (s : State) (c i idx seq : Nat) (w : Word) : (s.completeCq c i idx seq w).svcPi = s.svcPi := rfl
@[simp] theorem State.svcCi_completeCq (s : State) (c i idx seq : Nat) (w : Word) : (s.completeCq c i idx seq w).svcCi = s.svcCi := rfl
@[simp] theorem State.svcQueue_completeCq (s : State) (c i idx seq : Nat) (w : Word) : (s.completeCq c i idx seq w).svcQueue = s.svcQueue := rfl
@[simp] theorem State.svcStatus_completeCq (s : State) (c i idx seq : Nat) (w : Word) : (s.completeCq c i idx seq w).svcStatus = s.svcStatus := rfl
@[simp] theorem State.svcBadk_completeCq (s : State) (c i idx seq : Nat) (w : Word) : (s.completeCq c i idx seq w).svcBadk = s.svcBadk := rfl
@[simp] theorem State.probes_completeCq (s : State) (c i idx seq : Nat) (w : Word) : (s.completeCq c i idx seq w).probes = s.probes := rfl
@[simp] theorem State.steers_completeCq (s : State) (c i idx seq : Nat) (w : Word) : (s.completeCq c i idx seq w).steers = s.steers := rfl
@[simp] theorem State.policies_completeCq (s : State) (c i idx seq : Nat) (w : Word) : (s.completeCq c i idx seq w).policies = s.policies := rfl
@[simp] theorem State.sliceErrs_completeCq (s : State) (c i idx seq : Nat) (w : Word) : (s.completeCq c i idx seq w).sliceErrs = s.sliceErrs := rfl
@[simp] theorem State.stackErrs_completeCq (s : State) (c i idx seq : Nat) (w : Word) : (s.completeCq c i idx seq w).stackErrs = s.stackErrs := rfl
@[simp] theorem State.responses_completeCq (s : State) (c i idx seq : Nat) (w : Word) : (s.completeCq c i idx seq w).responses = s.responses := rfl
@[simp] theorem State.notices_completeCq (s : State) (c i idx seq : Nat) (w : Word) : (s.completeCq c i idx seq w).notices = s.notices := rfl
@[simp] theorem State.mgmtOut_completeCq (s : State) (c i idx seq : Nat) (w : Word) : (s.completeCq c i idx seq w).mgmtOut = s.mgmtOut := rfl

@[simp] theorem State.freeCtr_modArrays (s : State) (c : Nat) (f : List SysArray → List SysArray) : (s.modArrays c f).freeCtr = s.freeCtr := rfl
@[simp] theorem State.agenda_modArrays (s : State) (c : Nat) (f : List SysArray → List SysArray) : (s.modArrays c f).agenda = s.agenda := rfl
@[simp] theorem State.site_modArrays (s : State) (c : Nat) (f : List SysArray → List SysArray) : (s.modArrays c f).site = s.site := rfl
@[simp] theorem State.nextId_modArrays (s : State) (c : Nat) (f : List SysArray → List SysArray) : (s.modArrays c f).nextId = s.nextId := rfl
@[simp] theorem State.boot_modArrays (s : State) (c : Nat) (f : List SysArray → List SysArray) : (s.modArrays c f).boot = s.boot := rfl
@[simp] theorem State.lcs_modArrays (s : State) (c : Nat) (f : List SysArray → List SysArray) : (s.modArrays c f).lcs = s.lcs := rfl
@[simp] theorem State.pendingLcs_modArrays (s : State) (c : Nat) (f : List SysArray → List SysArray) : (s.modArrays c f).pendingLcs = s.pendingLcs := rfl
@[simp] theorem State.pkgid_modArrays (s : State) (c : Nat) (f : List SysArray → List SysArray) : (s.modArrays c f).pkgid = s.pkgid := rfl
@[simp] theorem State.fwhash_modArrays (s : State) (c : Nat) (f : List SysArray → List SysArray) : (s.modArrays c f).fwhash = s.fwhash := rfl
@[simp] theorem State.flash_modArrays (s : State) (c : Nat) (f : List SysArray → List SysArray) : (s.modArrays c f).flash = s.flash := rfl
@[simp] theorem State.idKey_modArrays (s : State) (c : Nat) (f : List SysArray → List SysArray) : (s.modArrays c f).idKey = s.idKey := rfl
@[simp] theorem State.clockKhz_modArrays (s : State) (c : Nat) (f : List SysArray → List SysArray) : (s.modArrays c f).clockKhz = s.clockKhz := rfl
@[simp] theorem State.downLinks_modArrays (s : State) (c : Nat) (f : List SysArray → List SysArray) : (s.modArrays c f).downLinks = s.downLinks := rfl
@[simp] theorem State.downPorts_modArrays (s : State) (c : Nat) (f : List SysArray → List SysArray) : (s.modArrays c f).downPorts = s.downPorts := rfl
@[simp] theorem State.rootUsable_modArrays (s : State) (c : Nat) (f : List SysArray → List SysArray) : (s.modArrays c f).rootUsable = s.rootUsable := rfl
@[simp] theorem State.failing_modArrays (s : State) (c : Nat) (f : List SysArray → List SysArray) : (s.modArrays c f).failing = s.failing := rfl
@[simp] theorem State.svcCheck_modArrays (s : State) (c : Nat) (f : List SysArray → List SysArray) : (s.modArrays c f).svcCheck = s.svcCheck := rfl
@[simp] theorem State.waiting_modArrays (s : State) (c : Nat) (f : List SysArray → List SysArray) : (s.modArrays c f).waiting = s.waiting := rfl
@[simp] theorem State.unreachable_modArrays (s : State) (c : Nat) (f : List SysArray → List SysArray) : (s.modArrays c f).unreachable = s.unreachable := rfl
@[simp] theorem State.seqNo_modArrays (s : State) (c : Nat) (f : List SysArray → List SysArray) : (s.modArrays c f).seqNo = s.seqNo := rfl
@[simp] theorem State.arb_modArrays (s : State) (c : Nat) (f : List SysArray → List SysArray) : (s.modArrays c f).arb = s.arb := rfl
@[simp] theorem State.launches_modArrays (s : State) (c : Nat) (f : List SysArray → List SysArray) : (s.modArrays c f).launches = s.launches := rfl
@[simp] theorem State.saves_modArrays (s : State) (c : Nat) (f : List SysArray → List SysArray) : (s.modArrays c f).saves = s.saves := rfl
@[simp] theorem State.hbm_modArrays (s : State) (c : Nat) (f : List SysArray → List SysArray) : (s.modArrays c f).hbm = s.hbm := rfl
@[simp] theorem State.poison_modArrays (s : State) (c : Nat) (f : List SysArray → List SysArray) : (s.modArrays c f).poison = s.poison := rfl
@[simp] theorem State.chairs_modArrays (s : State) (c : Nat) (f : List SysArray → List SysArray) : (s.modArrays c f).chairs = s.chairs := rfl
@[simp] theorem State.dressers_modArrays (s : State) (c : Nat) (f : List SysArray → List SysArray) : (s.modArrays c f).dressers = s.dressers := rfl
@[simp] theorem State.frontiers_modArrays (s : State) (c : Nat) (f : List SysArray → List SysArray) : (s.modArrays c f).frontiers = s.frontiers := rfl
@[simp] theorem State.svcTrap_modArrays (s : State) (c : Nat) (f : List SysArray → List SysArray) : (s.modArrays c f).svcTrap = s.svcTrap := rfl
@[simp] theorem State.svcPi_modArrays (s : State) (c : Nat) (f : List SysArray → List SysArray) : (s.modArrays c f).svcPi = s.svcPi := rfl
@[simp] theorem State.svcCi_modArrays (s : State) (c : Nat) (f : List SysArray → List SysArray) : (s.modArrays c f).svcCi = s.svcCi := rfl
@[simp] theorem State.svcQueue_modArrays (s : State) (c : Nat) (f : List SysArray → List SysArray) : (s.modArrays c f).svcQueue = s.svcQueue := rfl
@[simp] theorem State.svcStatus_modArrays (s : State) (c : Nat) (f : List SysArray → List SysArray) : (s.modArrays c f).svcStatus = s.svcStatus := rfl
@[simp] theorem State.svcBadk_modArrays (s : State) (c : Nat) (f : List SysArray → List SysArray) : (s.modArrays c f).svcBadk = s.svcBadk := rfl
@[simp] theorem State.probes_modArrays (s : State) (c : Nat) (f : List SysArray → List SysArray) : (s.modArrays c f).probes = s.probes := rfl
@[simp] theorem State.steers_modArrays (s : State) (c : Nat) (f : List SysArray → List SysArray) : (s.modArrays c f).steers = s.steers := rfl
@[simp] theorem State.policies_modArrays (s : State) (c : Nat) (f : List SysArray → List SysArray) : (s.modArrays c f).policies = s.policies := rfl
@[simp] theorem State.sliceErrs_modArrays (s : State) (c : Nat) (f : List SysArray → List SysArray) : (s.modArrays c f).sliceErrs = s.sliceErrs := rfl
@[simp] theorem State.stackErrs_modArrays (s : State) (c : Nat) (f : List SysArray → List SysArray) : (s.modArrays c f).stackErrs = s.stackErrs := rfl
@[simp] theorem State.responses_modArrays (s : State) (c : Nat) (f : List SysArray → List SysArray) : (s.modArrays c f).responses = s.responses := rfl
@[simp] theorem State.notices_modArrays (s : State) (c : Nat) (f : List SysArray → List SysArray) : (s.modArrays c f).notices = s.notices := rfl
@[simp] theorem State.mgmtOut_modArrays (s : State) (c : Nat) (f : List SysArray → List SysArray) : (s.modArrays c f).mgmtOut = s.mgmtOut := rfl

@[simp] theorem State.freeCtr_addInst (s : State) (c i : Nat) (f : Nat → Inst) : (s.addInst c i f).freeCtr = s.freeCtr := rfl
@[simp] theorem State.agenda_addInst (s : State) (c i : Nat) (f : Nat → Inst) : (s.addInst c i f).agenda = s.agenda := rfl
@[simp] theorem State.site_addInst (s : State) (c i : Nat) (f : Nat → Inst) : (s.addInst c i f).site = s.site := rfl
@[simp] theorem State.nextId_addInst (s : State) (c i : Nat) (f : Nat → Inst) : (s.addInst c i f).nextId = s.nextId := rfl
@[simp] theorem State.boot_addInst (s : State) (c i : Nat) (f : Nat → Inst) : (s.addInst c i f).boot = s.boot := rfl
@[simp] theorem State.lcs_addInst (s : State) (c i : Nat) (f : Nat → Inst) : (s.addInst c i f).lcs = s.lcs := rfl
@[simp] theorem State.pendingLcs_addInst (s : State) (c i : Nat) (f : Nat → Inst) : (s.addInst c i f).pendingLcs = s.pendingLcs := rfl
@[simp] theorem State.pkgid_addInst (s : State) (c i : Nat) (f : Nat → Inst) : (s.addInst c i f).pkgid = s.pkgid := rfl
@[simp] theorem State.fwhash_addInst (s : State) (c i : Nat) (f : Nat → Inst) : (s.addInst c i f).fwhash = s.fwhash := rfl
@[simp] theorem State.flash_addInst (s : State) (c i : Nat) (f : Nat → Inst) : (s.addInst c i f).flash = s.flash := rfl
@[simp] theorem State.idKey_addInst (s : State) (c i : Nat) (f : Nat → Inst) : (s.addInst c i f).idKey = s.idKey := rfl
@[simp] theorem State.clockKhz_addInst (s : State) (c i : Nat) (f : Nat → Inst) : (s.addInst c i f).clockKhz = s.clockKhz := rfl
@[simp] theorem State.downLinks_addInst (s : State) (c i : Nat) (f : Nat → Inst) : (s.addInst c i f).downLinks = s.downLinks := rfl
@[simp] theorem State.downPorts_addInst (s : State) (c i : Nat) (f : Nat → Inst) : (s.addInst c i f).downPorts = s.downPorts := rfl
@[simp] theorem State.rootUsable_addInst (s : State) (c i : Nat) (f : Nat → Inst) : (s.addInst c i f).rootUsable = s.rootUsable := rfl
@[simp] theorem State.failing_addInst (s : State) (c i : Nat) (f : Nat → Inst) : (s.addInst c i f).failing = s.failing := rfl
@[simp] theorem State.svcCheck_addInst (s : State) (c i : Nat) (f : Nat → Inst) : (s.addInst c i f).svcCheck = s.svcCheck := rfl
@[simp] theorem State.waiting_addInst (s : State) (c i : Nat) (f : Nat → Inst) : (s.addInst c i f).waiting = s.waiting := rfl
@[simp] theorem State.unreachable_addInst (s : State) (c i : Nat) (f : Nat → Inst) : (s.addInst c i f).unreachable = s.unreachable := rfl
@[simp] theorem State.seqNo_addInst (s : State) (c i : Nat) (f : Nat → Inst) : (s.addInst c i f).seqNo = s.seqNo := rfl
@[simp] theorem State.arb_addInst (s : State) (c i : Nat) (f : Nat → Inst) : (s.addInst c i f).arb = s.arb := rfl
@[simp] theorem State.launches_addInst (s : State) (c i : Nat) (f : Nat → Inst) : (s.addInst c i f).launches = s.launches := rfl
@[simp] theorem State.saves_addInst (s : State) (c i : Nat) (f : Nat → Inst) : (s.addInst c i f).saves = s.saves := rfl
@[simp] theorem State.hbm_addInst (s : State) (c i : Nat) (f : Nat → Inst) : (s.addInst c i f).hbm = s.hbm := rfl
@[simp] theorem State.poison_addInst (s : State) (c i : Nat) (f : Nat → Inst) : (s.addInst c i f).poison = s.poison := rfl
@[simp] theorem State.chairs_addInst (s : State) (c i : Nat) (f : Nat → Inst) : (s.addInst c i f).chairs = s.chairs := rfl
@[simp] theorem State.dressers_addInst (s : State) (c i : Nat) (f : Nat → Inst) : (s.addInst c i f).dressers = s.dressers := rfl
@[simp] theorem State.frontiers_addInst (s : State) (c i : Nat) (f : Nat → Inst) : (s.addInst c i f).frontiers = s.frontiers := rfl
@[simp] theorem State.svcTrap_addInst (s : State) (c i : Nat) (f : Nat → Inst) : (s.addInst c i f).svcTrap = s.svcTrap := rfl
@[simp] theorem State.svcPi_addInst (s : State) (c i : Nat) (f : Nat → Inst) : (s.addInst c i f).svcPi = s.svcPi := rfl
@[simp] theorem State.svcCi_addInst (s : State) (c i : Nat) (f : Nat → Inst) : (s.addInst c i f).svcCi = s.svcCi := rfl
@[simp] theorem State.svcQueue_addInst (s : State) (c i : Nat) (f : Nat → Inst) : (s.addInst c i f).svcQueue = s.svcQueue := rfl
@[simp] theorem State.svcStatus_addInst (s : State) (c i : Nat) (f : Nat → Inst) : (s.addInst c i f).svcStatus = s.svcStatus := rfl
@[simp] theorem State.svcBadk_addInst (s : State) (c i : Nat) (f : Nat → Inst) : (s.addInst c i f).svcBadk = s.svcBadk := rfl
@[simp] theorem State.probes_addInst (s : State) (c i : Nat) (f : Nat → Inst) : (s.addInst c i f).probes = s.probes := rfl
@[simp] theorem State.steers_addInst (s : State) (c i : Nat) (f : Nat → Inst) : (s.addInst c i f).steers = s.steers := rfl
@[simp] theorem State.policies_addInst (s : State) (c i : Nat) (f : Nat → Inst) : (s.addInst c i f).policies = s.policies := rfl
@[simp] theorem State.sliceErrs_addInst (s : State) (c i : Nat) (f : Nat → Inst) : (s.addInst c i f).sliceErrs = s.sliceErrs := rfl
@[simp] theorem State.stackErrs_addInst (s : State) (c i : Nat) (f : Nat → Inst) : (s.addInst c i f).stackErrs = s.stackErrs := rfl
@[simp] theorem State.responses_addInst (s : State) (c i : Nat) (f : Nat → Inst) : (s.addInst c i f).responses = s.responses := rfl
@[simp] theorem State.notices_addInst (s : State) (c i : Nat) (f : Nat → Inst) : (s.addInst c i f).notices = s.notices := rfl
@[simp] theorem State.mgmtOut_addInst (s : State) (c i : Nat) (f : Nat → Inst) : (s.addInst c i f).mgmtOut = s.mgmtOut := rfl

@[simp] theorem State.freeCtr_modChair (s : State) (c : Nat) (f : Chair → Chair) : (s.modChair c f).freeCtr = s.freeCtr := rfl
@[simp] theorem State.agenda_modChair (s : State) (c : Nat) (f : Chair → Chair) : (s.modChair c f).agenda = s.agenda := rfl
@[simp] theorem State.site_modChair (s : State) (c : Nat) (f : Chair → Chair) : (s.modChair c f).site = s.site := rfl
@[simp] theorem State.nextId_modChair (s : State) (c : Nat) (f : Chair → Chair) : (s.modChair c f).nextId = s.nextId := rfl
@[simp] theorem State.boot_modChair (s : State) (c : Nat) (f : Chair → Chair) : (s.modChair c f).boot = s.boot := rfl
@[simp] theorem State.lcs_modChair (s : State) (c : Nat) (f : Chair → Chair) : (s.modChair c f).lcs = s.lcs := rfl
@[simp] theorem State.pendingLcs_modChair (s : State) (c : Nat) (f : Chair → Chair) : (s.modChair c f).pendingLcs = s.pendingLcs := rfl
@[simp] theorem State.pkgid_modChair (s : State) (c : Nat) (f : Chair → Chair) : (s.modChair c f).pkgid = s.pkgid := rfl
@[simp] theorem State.fwhash_modChair (s : State) (c : Nat) (f : Chair → Chair) : (s.modChair c f).fwhash = s.fwhash := rfl
@[simp] theorem State.flash_modChair (s : State) (c : Nat) (f : Chair → Chair) : (s.modChair c f).flash = s.flash := rfl
@[simp] theorem State.idKey_modChair (s : State) (c : Nat) (f : Chair → Chair) : (s.modChair c f).idKey = s.idKey := rfl
@[simp] theorem State.clockKhz_modChair (s : State) (c : Nat) (f : Chair → Chair) : (s.modChair c f).clockKhz = s.clockKhz := rfl
@[simp] theorem State.downLinks_modChair (s : State) (c : Nat) (f : Chair → Chair) : (s.modChair c f).downLinks = s.downLinks := rfl
@[simp] theorem State.downPorts_modChair (s : State) (c : Nat) (f : Chair → Chair) : (s.modChair c f).downPorts = s.downPorts := rfl
@[simp] theorem State.rootUsable_modChair (s : State) (c : Nat) (f : Chair → Chair) : (s.modChair c f).rootUsable = s.rootUsable := rfl
@[simp] theorem State.failing_modChair (s : State) (c : Nat) (f : Chair → Chair) : (s.modChair c f).failing = s.failing := rfl
@[simp] theorem State.svcCheck_modChair (s : State) (c : Nat) (f : Chair → Chair) : (s.modChair c f).svcCheck = s.svcCheck := rfl
@[simp] theorem State.waiting_modChair (s : State) (c : Nat) (f : Chair → Chair) : (s.modChair c f).waiting = s.waiting := rfl
@[simp] theorem State.unreachable_modChair (s : State) (c : Nat) (f : Chair → Chair) : (s.modChair c f).unreachable = s.unreachable := rfl
@[simp] theorem State.seqNo_modChair (s : State) (c : Nat) (f : Chair → Chair) : (s.modChair c f).seqNo = s.seqNo := rfl
@[simp] theorem State.arb_modChair (s : State) (c : Nat) (f : Chair → Chair) : (s.modChair c f).arb = s.arb := rfl
@[simp] theorem State.launches_modChair (s : State) (c : Nat) (f : Chair → Chair) : (s.modChair c f).launches = s.launches := rfl
@[simp] theorem State.saves_modChair (s : State) (c : Nat) (f : Chair → Chair) : (s.modChair c f).saves = s.saves := rfl
@[simp] theorem State.hbm_modChair (s : State) (c : Nat) (f : Chair → Chair) : (s.modChair c f).hbm = s.hbm := rfl
@[simp] theorem State.poison_modChair (s : State) (c : Nat) (f : Chair → Chair) : (s.modChair c f).poison = s.poison := rfl
@[simp] theorem State.cores_modChair (s : State) (c : Nat) (f : Chair → Chair) : (s.modChair c f).cores = s.cores := rfl
@[simp] theorem State.dressers_modChair (s : State) (c : Nat) (f : Chair → Chair) : (s.modChair c f).dressers = s.dressers := rfl
@[simp] theorem State.frontiers_modChair (s : State) (c : Nat) (f : Chair → Chair) : (s.modChair c f).frontiers = s.frontiers := rfl
@[simp] theorem State.svcTrap_modChair (s : State) (c : Nat) (f : Chair → Chair) : (s.modChair c f).svcTrap = s.svcTrap := rfl
@[simp] theorem State.svcPi_modChair (s : State) (c : Nat) (f : Chair → Chair) : (s.modChair c f).svcPi = s.svcPi := rfl
@[simp] theorem State.svcCi_modChair (s : State) (c : Nat) (f : Chair → Chair) : (s.modChair c f).svcCi = s.svcCi := rfl
@[simp] theorem State.svcQueue_modChair (s : State) (c : Nat) (f : Chair → Chair) : (s.modChair c f).svcQueue = s.svcQueue := rfl
@[simp] theorem State.svcStatus_modChair (s : State) (c : Nat) (f : Chair → Chair) : (s.modChair c f).svcStatus = s.svcStatus := rfl
@[simp] theorem State.svcBadk_modChair (s : State) (c : Nat) (f : Chair → Chair) : (s.modChair c f).svcBadk = s.svcBadk := rfl
@[simp] theorem State.probes_modChair (s : State) (c : Nat) (f : Chair → Chair) : (s.modChair c f).probes = s.probes := rfl
@[simp] theorem State.steers_modChair (s : State) (c : Nat) (f : Chair → Chair) : (s.modChair c f).steers = s.steers := rfl
@[simp] theorem State.policies_modChair (s : State) (c : Nat) (f : Chair → Chair) : (s.modChair c f).policies = s.policies := rfl
@[simp] theorem State.sliceErrs_modChair (s : State) (c : Nat) (f : Chair → Chair) : (s.modChair c f).sliceErrs = s.sliceErrs := rfl
@[simp] theorem State.stackErrs_modChair (s : State) (c : Nat) (f : Chair → Chair) : (s.modChair c f).stackErrs = s.stackErrs := rfl
@[simp] theorem State.responses_modChair (s : State) (c : Nat) (f : Chair → Chair) : (s.modChair c f).responses = s.responses := rfl
@[simp] theorem State.notices_modChair (s : State) (c : Nat) (f : Chair → Chair) : (s.modChair c f).notices = s.notices := rfl
@[simp] theorem State.mgmtOut_modChair (s : State) (c : Nat) (f : Chair → Chair) : (s.modChair c f).mgmtOut = s.mgmtOut := rfl

@[simp] theorem State.freeCtr_modLaunch (s : State) (id : Nat) (f : Launch → Launch) : (s.modLaunch id f).freeCtr = s.freeCtr := rfl
@[simp] theorem State.agenda_modLaunch (s : State) (id : Nat) (f : Launch → Launch) : (s.modLaunch id f).agenda = s.agenda := rfl
@[simp] theorem State.site_modLaunch (s : State) (id : Nat) (f : Launch → Launch) : (s.modLaunch id f).site = s.site := rfl
@[simp] theorem State.nextId_modLaunch (s : State) (id : Nat) (f : Launch → Launch) : (s.modLaunch id f).nextId = s.nextId := rfl
@[simp] theorem State.boot_modLaunch (s : State) (id : Nat) (f : Launch → Launch) : (s.modLaunch id f).boot = s.boot := rfl
@[simp] theorem State.lcs_modLaunch (s : State) (id : Nat) (f : Launch → Launch) : (s.modLaunch id f).lcs = s.lcs := rfl
@[simp] theorem State.pendingLcs_modLaunch (s : State) (id : Nat) (f : Launch → Launch) : (s.modLaunch id f).pendingLcs = s.pendingLcs := rfl
@[simp] theorem State.pkgid_modLaunch (s : State) (id : Nat) (f : Launch → Launch) : (s.modLaunch id f).pkgid = s.pkgid := rfl
@[simp] theorem State.fwhash_modLaunch (s : State) (id : Nat) (f : Launch → Launch) : (s.modLaunch id f).fwhash = s.fwhash := rfl
@[simp] theorem State.flash_modLaunch (s : State) (id : Nat) (f : Launch → Launch) : (s.modLaunch id f).flash = s.flash := rfl
@[simp] theorem State.idKey_modLaunch (s : State) (id : Nat) (f : Launch → Launch) : (s.modLaunch id f).idKey = s.idKey := rfl
@[simp] theorem State.clockKhz_modLaunch (s : State) (id : Nat) (f : Launch → Launch) : (s.modLaunch id f).clockKhz = s.clockKhz := rfl
@[simp] theorem State.downLinks_modLaunch (s : State) (id : Nat) (f : Launch → Launch) : (s.modLaunch id f).downLinks = s.downLinks := rfl
@[simp] theorem State.downPorts_modLaunch (s : State) (id : Nat) (f : Launch → Launch) : (s.modLaunch id f).downPorts = s.downPorts := rfl
@[simp] theorem State.rootUsable_modLaunch (s : State) (id : Nat) (f : Launch → Launch) : (s.modLaunch id f).rootUsable = s.rootUsable := rfl
@[simp] theorem State.failing_modLaunch (s : State) (id : Nat) (f : Launch → Launch) : (s.modLaunch id f).failing = s.failing := rfl
@[simp] theorem State.svcCheck_modLaunch (s : State) (id : Nat) (f : Launch → Launch) : (s.modLaunch id f).svcCheck = s.svcCheck := rfl
@[simp] theorem State.waiting_modLaunch (s : State) (id : Nat) (f : Launch → Launch) : (s.modLaunch id f).waiting = s.waiting := rfl
@[simp] theorem State.unreachable_modLaunch (s : State) (id : Nat) (f : Launch → Launch) : (s.modLaunch id f).unreachable = s.unreachable := rfl
@[simp] theorem State.seqNo_modLaunch (s : State) (id : Nat) (f : Launch → Launch) : (s.modLaunch id f).seqNo = s.seqNo := rfl
@[simp] theorem State.arb_modLaunch (s : State) (id : Nat) (f : Launch → Launch) : (s.modLaunch id f).arb = s.arb := rfl
@[simp] theorem State.saves_modLaunch (s : State) (id : Nat) (f : Launch → Launch) : (s.modLaunch id f).saves = s.saves := rfl
@[simp] theorem State.hbm_modLaunch (s : State) (id : Nat) (f : Launch → Launch) : (s.modLaunch id f).hbm = s.hbm := rfl
@[simp] theorem State.poison_modLaunch (s : State) (id : Nat) (f : Launch → Launch) : (s.modLaunch id f).poison = s.poison := rfl
@[simp] theorem State.chairs_modLaunch (s : State) (id : Nat) (f : Launch → Launch) : (s.modLaunch id f).chairs = s.chairs := rfl
@[simp] theorem State.cores_modLaunch (s : State) (id : Nat) (f : Launch → Launch) : (s.modLaunch id f).cores = s.cores := rfl
@[simp] theorem State.dressers_modLaunch (s : State) (id : Nat) (f : Launch → Launch) : (s.modLaunch id f).dressers = s.dressers := rfl
@[simp] theorem State.frontiers_modLaunch (s : State) (id : Nat) (f : Launch → Launch) : (s.modLaunch id f).frontiers = s.frontiers := rfl
@[simp] theorem State.svcTrap_modLaunch (s : State) (id : Nat) (f : Launch → Launch) : (s.modLaunch id f).svcTrap = s.svcTrap := rfl
@[simp] theorem State.svcPi_modLaunch (s : State) (id : Nat) (f : Launch → Launch) : (s.modLaunch id f).svcPi = s.svcPi := rfl
@[simp] theorem State.svcCi_modLaunch (s : State) (id : Nat) (f : Launch → Launch) : (s.modLaunch id f).svcCi = s.svcCi := rfl
@[simp] theorem State.svcQueue_modLaunch (s : State) (id : Nat) (f : Launch → Launch) : (s.modLaunch id f).svcQueue = s.svcQueue := rfl
@[simp] theorem State.svcStatus_modLaunch (s : State) (id : Nat) (f : Launch → Launch) : (s.modLaunch id f).svcStatus = s.svcStatus := rfl
@[simp] theorem State.svcBadk_modLaunch (s : State) (id : Nat) (f : Launch → Launch) : (s.modLaunch id f).svcBadk = s.svcBadk := rfl
@[simp] theorem State.probes_modLaunch (s : State) (id : Nat) (f : Launch → Launch) : (s.modLaunch id f).probes = s.probes := rfl
@[simp] theorem State.steers_modLaunch (s : State) (id : Nat) (f : Launch → Launch) : (s.modLaunch id f).steers = s.steers := rfl
@[simp] theorem State.policies_modLaunch (s : State) (id : Nat) (f : Launch → Launch) : (s.modLaunch id f).policies = s.policies := rfl
@[simp] theorem State.sliceErrs_modLaunch (s : State) (id : Nat) (f : Launch → Launch) : (s.modLaunch id f).sliceErrs = s.sliceErrs := rfl
@[simp] theorem State.stackErrs_modLaunch (s : State) (id : Nat) (f : Launch → Launch) : (s.modLaunch id f).stackErrs = s.stackErrs := rfl
@[simp] theorem State.responses_modLaunch (s : State) (id : Nat) (f : Launch → Launch) : (s.modLaunch id f).responses = s.responses := rfl
@[simp] theorem State.notices_modLaunch (s : State) (id : Nat) (f : Launch → Launch) : (s.modLaunch id f).notices = s.notices := rfl
@[simp] theorem State.mgmtOut_modLaunch (s : State) (id : Nat) (f : Launch → Launch) : (s.modLaunch id f).mgmtOut = s.mgmtOut := rfl

@[simp] theorem State.freeCtr_storeGlobal (s : State) (chair gpa key n v : Nat) : (s.storeGlobal chair gpa key n v).freeCtr = s.freeCtr := rfl
@[simp] theorem State.agenda_storeGlobal (s : State) (chair gpa key n v : Nat) : (s.storeGlobal chair gpa key n v).agenda = s.agenda := rfl
@[simp] theorem State.site_storeGlobal (s : State) (chair gpa key n v : Nat) : (s.storeGlobal chair gpa key n v).site = s.site := rfl
@[simp] theorem State.nextId_storeGlobal (s : State) (chair gpa key n v : Nat) : (s.storeGlobal chair gpa key n v).nextId = s.nextId := rfl
@[simp] theorem State.boot_storeGlobal (s : State) (chair gpa key n v : Nat) : (s.storeGlobal chair gpa key n v).boot = s.boot := rfl
@[simp] theorem State.lcs_storeGlobal (s : State) (chair gpa key n v : Nat) : (s.storeGlobal chair gpa key n v).lcs = s.lcs := rfl
@[simp] theorem State.pendingLcs_storeGlobal (s : State) (chair gpa key n v : Nat) : (s.storeGlobal chair gpa key n v).pendingLcs = s.pendingLcs := rfl
@[simp] theorem State.pkgid_storeGlobal (s : State) (chair gpa key n v : Nat) : (s.storeGlobal chair gpa key n v).pkgid = s.pkgid := rfl
@[simp] theorem State.fwhash_storeGlobal (s : State) (chair gpa key n v : Nat) : (s.storeGlobal chair gpa key n v).fwhash = s.fwhash := rfl
@[simp] theorem State.flash_storeGlobal (s : State) (chair gpa key n v : Nat) : (s.storeGlobal chair gpa key n v).flash = s.flash := rfl
@[simp] theorem State.idKey_storeGlobal (s : State) (chair gpa key n v : Nat) : (s.storeGlobal chair gpa key n v).idKey = s.idKey := rfl
@[simp] theorem State.clockKhz_storeGlobal (s : State) (chair gpa key n v : Nat) : (s.storeGlobal chair gpa key n v).clockKhz = s.clockKhz := rfl
@[simp] theorem State.downLinks_storeGlobal (s : State) (chair gpa key n v : Nat) : (s.storeGlobal chair gpa key n v).downLinks = s.downLinks := rfl
@[simp] theorem State.downPorts_storeGlobal (s : State) (chair gpa key n v : Nat) : (s.storeGlobal chair gpa key n v).downPorts = s.downPorts := rfl
@[simp] theorem State.rootUsable_storeGlobal (s : State) (chair gpa key n v : Nat) : (s.storeGlobal chair gpa key n v).rootUsable = s.rootUsable := rfl
@[simp] theorem State.failing_storeGlobal (s : State) (chair gpa key n v : Nat) : (s.storeGlobal chair gpa key n v).failing = s.failing := rfl
@[simp] theorem State.svcCheck_storeGlobal (s : State) (chair gpa key n v : Nat) : (s.storeGlobal chair gpa key n v).svcCheck = s.svcCheck := rfl
@[simp] theorem State.waiting_storeGlobal (s : State) (chair gpa key n v : Nat) : (s.storeGlobal chair gpa key n v).waiting = s.waiting := rfl
@[simp] theorem State.unreachable_storeGlobal (s : State) (chair gpa key n v : Nat) : (s.storeGlobal chair gpa key n v).unreachable = s.unreachable := rfl
@[simp] theorem State.seqNo_storeGlobal (s : State) (chair gpa key n v : Nat) : (s.storeGlobal chair gpa key n v).seqNo = s.seqNo := rfl
@[simp] theorem State.arb_storeGlobal (s : State) (chair gpa key n v : Nat) : (s.storeGlobal chair gpa key n v).arb = s.arb := rfl
@[simp] theorem State.launches_storeGlobal (s : State) (chair gpa key n v : Nat) : (s.storeGlobal chair gpa key n v).launches = s.launches := rfl
@[simp] theorem State.saves_storeGlobal (s : State) (chair gpa key n v : Nat) : (s.storeGlobal chair gpa key n v).saves = s.saves := rfl
@[simp] theorem State.chairs_storeGlobal (s : State) (chair gpa key n v : Nat) : (s.storeGlobal chair gpa key n v).chairs = s.chairs := rfl
@[simp] theorem State.cores_storeGlobal (s : State) (chair gpa key n v : Nat) : (s.storeGlobal chair gpa key n v).cores = s.cores := rfl
@[simp] theorem State.dressers_storeGlobal (s : State) (chair gpa key n v : Nat) : (s.storeGlobal chair gpa key n v).dressers = s.dressers := rfl
@[simp] theorem State.frontiers_storeGlobal (s : State) (chair gpa key n v : Nat) : (s.storeGlobal chair gpa key n v).frontiers = s.frontiers := rfl
@[simp] theorem State.svcTrap_storeGlobal (s : State) (chair gpa key n v : Nat) : (s.storeGlobal chair gpa key n v).svcTrap = s.svcTrap := rfl
@[simp] theorem State.svcPi_storeGlobal (s : State) (chair gpa key n v : Nat) : (s.storeGlobal chair gpa key n v).svcPi = s.svcPi := rfl
@[simp] theorem State.svcCi_storeGlobal (s : State) (chair gpa key n v : Nat) : (s.storeGlobal chair gpa key n v).svcCi = s.svcCi := rfl
@[simp] theorem State.svcQueue_storeGlobal (s : State) (chair gpa key n v : Nat) : (s.storeGlobal chair gpa key n v).svcQueue = s.svcQueue := rfl
@[simp] theorem State.svcStatus_storeGlobal (s : State) (chair gpa key n v : Nat) : (s.storeGlobal chair gpa key n v).svcStatus = s.svcStatus := rfl
@[simp] theorem State.svcBadk_storeGlobal (s : State) (chair gpa key n v : Nat) : (s.storeGlobal chair gpa key n v).svcBadk = s.svcBadk := rfl
@[simp] theorem State.probes_storeGlobal (s : State) (chair gpa key n v : Nat) : (s.storeGlobal chair gpa key n v).probes = s.probes := rfl
@[simp] theorem State.steers_storeGlobal (s : State) (chair gpa key n v : Nat) : (s.storeGlobal chair gpa key n v).steers = s.steers := rfl
@[simp] theorem State.policies_storeGlobal (s : State) (chair gpa key n v : Nat) : (s.storeGlobal chair gpa key n v).policies = s.policies := rfl
@[simp] theorem State.sliceErrs_storeGlobal (s : State) (chair gpa key n v : Nat) : (s.storeGlobal chair gpa key n v).sliceErrs = s.sliceErrs := rfl
@[simp] theorem State.stackErrs_storeGlobal (s : State) (chair gpa key n v : Nat) : (s.storeGlobal chair gpa key n v).stackErrs = s.stackErrs := rfl
@[simp] theorem State.responses_storeGlobal (s : State) (chair gpa key n v : Nat) : (s.storeGlobal chair gpa key n v).responses = s.responses := rfl
@[simp] theorem State.notices_storeGlobal (s : State) (chair gpa key n v : Nat) : (s.storeGlobal chair gpa key n v).notices = s.notices := rfl
@[simp] theorem State.mgmtOut_storeGlobal (s : State) (chair gpa key n v : Nat) : (s.storeGlobal chair gpa key n v).mgmtOut = s.mgmtOut := rfl

@[simp] theorem State.freeCtr_ueGlobal (s : State) (ws : List Nat) : (s.ueGlobal ws).freeCtr = s.freeCtr := rfl
@[simp] theorem State.agenda_ueGlobal (s : State) (ws : List Nat) : (s.ueGlobal ws).agenda = s.agenda := rfl
@[simp] theorem State.site_ueGlobal (s : State) (ws : List Nat) : (s.ueGlobal ws).site = s.site := rfl
@[simp] theorem State.nextId_ueGlobal (s : State) (ws : List Nat) : (s.ueGlobal ws).nextId = s.nextId := rfl
@[simp] theorem State.boot_ueGlobal (s : State) (ws : List Nat) : (s.ueGlobal ws).boot = s.boot := rfl
@[simp] theorem State.lcs_ueGlobal (s : State) (ws : List Nat) : (s.ueGlobal ws).lcs = s.lcs := rfl
@[simp] theorem State.pendingLcs_ueGlobal (s : State) (ws : List Nat) : (s.ueGlobal ws).pendingLcs = s.pendingLcs := rfl
@[simp] theorem State.pkgid_ueGlobal (s : State) (ws : List Nat) : (s.ueGlobal ws).pkgid = s.pkgid := rfl
@[simp] theorem State.fwhash_ueGlobal (s : State) (ws : List Nat) : (s.ueGlobal ws).fwhash = s.fwhash := rfl
@[simp] theorem State.flash_ueGlobal (s : State) (ws : List Nat) : (s.ueGlobal ws).flash = s.flash := rfl
@[simp] theorem State.idKey_ueGlobal (s : State) (ws : List Nat) : (s.ueGlobal ws).idKey = s.idKey := rfl
@[simp] theorem State.clockKhz_ueGlobal (s : State) (ws : List Nat) : (s.ueGlobal ws).clockKhz = s.clockKhz := rfl
@[simp] theorem State.downLinks_ueGlobal (s : State) (ws : List Nat) : (s.ueGlobal ws).downLinks = s.downLinks := rfl
@[simp] theorem State.downPorts_ueGlobal (s : State) (ws : List Nat) : (s.ueGlobal ws).downPorts = s.downPorts := rfl
@[simp] theorem State.rootUsable_ueGlobal (s : State) (ws : List Nat) : (s.ueGlobal ws).rootUsable = s.rootUsable := rfl
@[simp] theorem State.failing_ueGlobal (s : State) (ws : List Nat) : (s.ueGlobal ws).failing = s.failing := rfl
@[simp] theorem State.svcCheck_ueGlobal (s : State) (ws : List Nat) : (s.ueGlobal ws).svcCheck = s.svcCheck := rfl
@[simp] theorem State.waiting_ueGlobal (s : State) (ws : List Nat) : (s.ueGlobal ws).waiting = s.waiting := rfl
@[simp] theorem State.unreachable_ueGlobal (s : State) (ws : List Nat) : (s.ueGlobal ws).unreachable = s.unreachable := rfl
@[simp] theorem State.seqNo_ueGlobal (s : State) (ws : List Nat) : (s.ueGlobal ws).seqNo = s.seqNo := rfl
@[simp] theorem State.arb_ueGlobal (s : State) (ws : List Nat) : (s.ueGlobal ws).arb = s.arb := rfl
@[simp] theorem State.launches_ueGlobal (s : State) (ws : List Nat) : (s.ueGlobal ws).launches = s.launches := rfl
@[simp] theorem State.saves_ueGlobal (s : State) (ws : List Nat) : (s.ueGlobal ws).saves = s.saves := rfl
@[simp] theorem State.hbm_ueGlobal (s : State) (ws : List Nat) : (s.ueGlobal ws).hbm = s.hbm := rfl
@[simp] theorem State.poison_ueGlobal (s : State) (ws : List Nat) : (s.ueGlobal ws).poison = s.poison := rfl
@[simp] theorem State.chairs_ueGlobal (s : State) (ws : List Nat) : (s.ueGlobal ws).chairs = s.chairs := rfl
@[simp] theorem State.cores_ueGlobal (s : State) (ws : List Nat) : (s.ueGlobal ws).cores = s.cores := rfl
@[simp] theorem State.dressers_ueGlobal (s : State) (ws : List Nat) : (s.ueGlobal ws).dressers = s.dressers := rfl
@[simp] theorem State.frontiers_ueGlobal (s : State) (ws : List Nat) : (s.ueGlobal ws).frontiers = s.frontiers := rfl
@[simp] theorem State.svcTrap_ueGlobal (s : State) (ws : List Nat) : (s.ueGlobal ws).svcTrap = s.svcTrap := rfl
@[simp] theorem State.svcPi_ueGlobal (s : State) (ws : List Nat) : (s.ueGlobal ws).svcPi = s.svcPi := rfl
@[simp] theorem State.svcCi_ueGlobal (s : State) (ws : List Nat) : (s.ueGlobal ws).svcCi = s.svcCi := rfl
@[simp] theorem State.svcQueue_ueGlobal (s : State) (ws : List Nat) : (s.ueGlobal ws).svcQueue = s.svcQueue := rfl
@[simp] theorem State.svcStatus_ueGlobal (s : State) (ws : List Nat) : (s.ueGlobal ws).svcStatus = s.svcStatus := rfl
@[simp] theorem State.svcBadk_ueGlobal (s : State) (ws : List Nat) : (s.ueGlobal ws).svcBadk = s.svcBadk := rfl
@[simp] theorem State.probes_ueGlobal (s : State) (ws : List Nat) : (s.ueGlobal ws).probes = s.probes := rfl
@[simp] theorem State.steers_ueGlobal (s : State) (ws : List Nat) : (s.ueGlobal ws).steers = s.steers := rfl
@[simp] theorem State.policies_ueGlobal (s : State) (ws : List Nat) : (s.ueGlobal ws).policies = s.policies := rfl
@[simp] theorem State.stackErrs_ueGlobal (s : State) (ws : List Nat) : (s.ueGlobal ws).stackErrs = s.stackErrs := rfl
@[simp] theorem State.responses_ueGlobal (s : State) (ws : List Nat) : (s.ueGlobal ws).responses = s.responses := rfl
@[simp] theorem State.notices_ueGlobal (s : State) (ws : List Nat) : (s.ueGlobal ws).notices = s.notices := rfl
@[simp] theorem State.mgmtOut_ueGlobal (s : State) (ws : List Nat) : (s.ueGlobal ws).mgmtOut = s.mgmtOut := rfl

@[simp] theorem State.freeCtr_deGlobal (s : State) (gpa key : Nat) : (s.deGlobal gpa key).freeCtr = s.freeCtr := by
  simp only [State.deGlobal]; split <;> rfl
@[simp] theorem State.agenda_deGlobal (s : State) (gpa key : Nat) : (s.deGlobal gpa key).agenda = s.agenda := by
  simp only [State.deGlobal]; split <;> rfl
@[simp] theorem State.site_deGlobal (s : State) (gpa key : Nat) : (s.deGlobal gpa key).site = s.site := by
  simp only [State.deGlobal]; split <;> rfl
@[simp] theorem State.nextId_deGlobal (s : State) (gpa key : Nat) : (s.deGlobal gpa key).nextId = s.nextId := by
  simp only [State.deGlobal]; split <;> rfl
@[simp] theorem State.boot_deGlobal (s : State) (gpa key : Nat) : (s.deGlobal gpa key).boot = s.boot := by
  simp only [State.deGlobal]; split <;> rfl
@[simp] theorem State.lcs_deGlobal (s : State) (gpa key : Nat) : (s.deGlobal gpa key).lcs = s.lcs := by
  simp only [State.deGlobal]; split <;> rfl
@[simp] theorem State.pendingLcs_deGlobal (s : State) (gpa key : Nat) : (s.deGlobal gpa key).pendingLcs = s.pendingLcs := by
  simp only [State.deGlobal]; split <;> rfl
@[simp] theorem State.pkgid_deGlobal (s : State) (gpa key : Nat) : (s.deGlobal gpa key).pkgid = s.pkgid := by
  simp only [State.deGlobal]; split <;> rfl
@[simp] theorem State.fwhash_deGlobal (s : State) (gpa key : Nat) : (s.deGlobal gpa key).fwhash = s.fwhash := by
  simp only [State.deGlobal]; split <;> rfl
@[simp] theorem State.flash_deGlobal (s : State) (gpa key : Nat) : (s.deGlobal gpa key).flash = s.flash := by
  simp only [State.deGlobal]; split <;> rfl
@[simp] theorem State.idKey_deGlobal (s : State) (gpa key : Nat) : (s.deGlobal gpa key).idKey = s.idKey := by
  simp only [State.deGlobal]; split <;> rfl
@[simp] theorem State.clockKhz_deGlobal (s : State) (gpa key : Nat) : (s.deGlobal gpa key).clockKhz = s.clockKhz := by
  simp only [State.deGlobal]; split <;> rfl
@[simp] theorem State.downLinks_deGlobal (s : State) (gpa key : Nat) : (s.deGlobal gpa key).downLinks = s.downLinks := by
  simp only [State.deGlobal]; split <;> rfl
@[simp] theorem State.downPorts_deGlobal (s : State) (gpa key : Nat) : (s.deGlobal gpa key).downPorts = s.downPorts := by
  simp only [State.deGlobal]; split <;> rfl
@[simp] theorem State.rootUsable_deGlobal (s : State) (gpa key : Nat) : (s.deGlobal gpa key).rootUsable = s.rootUsable := by
  simp only [State.deGlobal]; split <;> rfl
@[simp] theorem State.failing_deGlobal (s : State) (gpa key : Nat) : (s.deGlobal gpa key).failing = s.failing := by
  simp only [State.deGlobal]; split <;> rfl
@[simp] theorem State.svcCheck_deGlobal (s : State) (gpa key : Nat) : (s.deGlobal gpa key).svcCheck = s.svcCheck := by
  simp only [State.deGlobal]; split <;> rfl
@[simp] theorem State.waiting_deGlobal (s : State) (gpa key : Nat) : (s.deGlobal gpa key).waiting = s.waiting := by
  simp only [State.deGlobal]; split <;> rfl
@[simp] theorem State.unreachable_deGlobal (s : State) (gpa key : Nat) : (s.deGlobal gpa key).unreachable = s.unreachable := by
  simp only [State.deGlobal]; split <;> rfl
@[simp] theorem State.seqNo_deGlobal (s : State) (gpa key : Nat) : (s.deGlobal gpa key).seqNo = s.seqNo := by
  simp only [State.deGlobal]; split <;> rfl
@[simp] theorem State.arb_deGlobal (s : State) (gpa key : Nat) : (s.deGlobal gpa key).arb = s.arb := by
  simp only [State.deGlobal]; split <;> rfl
@[simp] theorem State.launches_deGlobal (s : State) (gpa key : Nat) : (s.deGlobal gpa key).launches = s.launches := by
  simp only [State.deGlobal]; split <;> rfl
@[simp] theorem State.saves_deGlobal (s : State) (gpa key : Nat) : (s.deGlobal gpa key).saves = s.saves := by
  simp only [State.deGlobal]; split <;> rfl
@[simp] theorem State.hbm_deGlobal (s : State) (gpa key : Nat) : (s.deGlobal gpa key).hbm = s.hbm := by
  simp only [State.deGlobal]; split <;> rfl
@[simp] theorem State.poison_deGlobal (s : State) (gpa key : Nat) : (s.deGlobal gpa key).poison = s.poison := by
  simp only [State.deGlobal]; split <;> rfl
@[simp] theorem State.chairs_deGlobal (s : State) (gpa key : Nat) : (s.deGlobal gpa key).chairs = s.chairs := by
  simp only [State.deGlobal]; split <;> rfl
@[simp] theorem State.cores_deGlobal (s : State) (gpa key : Nat) : (s.deGlobal gpa key).cores = s.cores := by
  simp only [State.deGlobal]; split <;> rfl
@[simp] theorem State.dressers_deGlobal (s : State) (gpa key : Nat) : (s.deGlobal gpa key).dressers = s.dressers := by
  simp only [State.deGlobal]; split <;> rfl
@[simp] theorem State.frontiers_deGlobal (s : State) (gpa key : Nat) : (s.deGlobal gpa key).frontiers = s.frontiers := by
  simp only [State.deGlobal]; split <;> rfl
@[simp] theorem State.svcTrap_deGlobal (s : State) (gpa key : Nat) : (s.deGlobal gpa key).svcTrap = s.svcTrap := by
  simp only [State.deGlobal]; split <;> rfl
@[simp] theorem State.svcPi_deGlobal (s : State) (gpa key : Nat) : (s.deGlobal gpa key).svcPi = s.svcPi := by
  simp only [State.deGlobal]; split <;> rfl
@[simp] theorem State.svcCi_deGlobal (s : State) (gpa key : Nat) : (s.deGlobal gpa key).svcCi = s.svcCi := by
  simp only [State.deGlobal]; split <;> rfl
@[simp] theorem State.svcQueue_deGlobal (s : State) (gpa key : Nat) : (s.deGlobal gpa key).svcQueue = s.svcQueue := by
  simp only [State.deGlobal]; split <;> rfl
@[simp] theorem State.svcStatus_deGlobal (s : State) (gpa key : Nat) : (s.deGlobal gpa key).svcStatus = s.svcStatus := by
  simp only [State.deGlobal]; split <;> rfl
@[simp] theorem State.svcBadk_deGlobal (s : State) (gpa key : Nat) : (s.deGlobal gpa key).svcBadk = s.svcBadk := by
  simp only [State.deGlobal]; split <;> rfl
@[simp] theorem State.probes_deGlobal (s : State) (gpa key : Nat) : (s.deGlobal gpa key).probes = s.probes := by
  simp only [State.deGlobal]; split <;> rfl
@[simp] theorem State.steers_deGlobal (s : State) (gpa key : Nat) : (s.deGlobal gpa key).steers = s.steers := by
  simp only [State.deGlobal]; split <;> rfl
@[simp] theorem State.policies_deGlobal (s : State) (gpa key : Nat) : (s.deGlobal gpa key).policies = s.policies := by
  simp only [State.deGlobal]; split <;> rfl
@[simp] theorem State.stackErrs_deGlobal (s : State) (gpa key : Nat) : (s.deGlobal gpa key).stackErrs = s.stackErrs := by
  simp only [State.deGlobal]; split <;> rfl
@[simp] theorem State.responses_deGlobal (s : State) (gpa key : Nat) : (s.deGlobal gpa key).responses = s.responses := by
  simp only [State.deGlobal]; split <;> rfl
@[simp] theorem State.notices_deGlobal (s : State) (gpa key : Nat) : (s.deGlobal gpa key).notices = s.notices := by
  simp only [State.deGlobal]; split <;> rfl
@[simp] theorem State.mgmtOut_deGlobal (s : State) (gpa key : Nat) : (s.deGlobal gpa key).mgmtOut = s.mgmtOut := by
  simp only [State.deGlobal]; split <;> rfl

@[simp] theorem State.freeCtr_poisonGlobal (s : State) (gpa key n : Nat) : (s.poisonGlobal gpa key n).freeCtr = s.freeCtr := by
  simp [State.poisonGlobal]
@[simp] theorem State.agenda_poisonGlobal (s : State) (gpa key n : Nat) : (s.poisonGlobal gpa key n).agenda = s.agenda := by
  simp [State.poisonGlobal]
@[simp] theorem State.site_poisonGlobal (s : State) (gpa key n : Nat) : (s.poisonGlobal gpa key n).site = s.site := by
  simp [State.poisonGlobal]
@[simp] theorem State.nextId_poisonGlobal (s : State) (gpa key n : Nat) : (s.poisonGlobal gpa key n).nextId = s.nextId := by
  simp [State.poisonGlobal]
@[simp] theorem State.boot_poisonGlobal (s : State) (gpa key n : Nat) : (s.poisonGlobal gpa key n).boot = s.boot := by
  simp [State.poisonGlobal]
@[simp] theorem State.lcs_poisonGlobal (s : State) (gpa key n : Nat) : (s.poisonGlobal gpa key n).lcs = s.lcs := by
  simp [State.poisonGlobal]
@[simp] theorem State.pendingLcs_poisonGlobal (s : State) (gpa key n : Nat) : (s.poisonGlobal gpa key n).pendingLcs = s.pendingLcs := by
  simp [State.poisonGlobal]
@[simp] theorem State.pkgid_poisonGlobal (s : State) (gpa key n : Nat) : (s.poisonGlobal gpa key n).pkgid = s.pkgid := by
  simp [State.poisonGlobal]
@[simp] theorem State.fwhash_poisonGlobal (s : State) (gpa key n : Nat) : (s.poisonGlobal gpa key n).fwhash = s.fwhash := by
  simp [State.poisonGlobal]
@[simp] theorem State.flash_poisonGlobal (s : State) (gpa key n : Nat) : (s.poisonGlobal gpa key n).flash = s.flash := by
  simp [State.poisonGlobal]
@[simp] theorem State.idKey_poisonGlobal (s : State) (gpa key n : Nat) : (s.poisonGlobal gpa key n).idKey = s.idKey := by
  simp [State.poisonGlobal]
@[simp] theorem State.clockKhz_poisonGlobal (s : State) (gpa key n : Nat) : (s.poisonGlobal gpa key n).clockKhz = s.clockKhz := by
  simp [State.poisonGlobal]
@[simp] theorem State.downLinks_poisonGlobal (s : State) (gpa key n : Nat) : (s.poisonGlobal gpa key n).downLinks = s.downLinks := by
  simp [State.poisonGlobal]
@[simp] theorem State.downPorts_poisonGlobal (s : State) (gpa key n : Nat) : (s.poisonGlobal gpa key n).downPorts = s.downPorts := by
  simp [State.poisonGlobal]
@[simp] theorem State.rootUsable_poisonGlobal (s : State) (gpa key n : Nat) : (s.poisonGlobal gpa key n).rootUsable = s.rootUsable := by
  simp [State.poisonGlobal]
@[simp] theorem State.failing_poisonGlobal (s : State) (gpa key n : Nat) : (s.poisonGlobal gpa key n).failing = s.failing := by
  simp [State.poisonGlobal]
@[simp] theorem State.svcCheck_poisonGlobal (s : State) (gpa key n : Nat) : (s.poisonGlobal gpa key n).svcCheck = s.svcCheck := by
  simp [State.poisonGlobal]
@[simp] theorem State.waiting_poisonGlobal (s : State) (gpa key n : Nat) : (s.poisonGlobal gpa key n).waiting = s.waiting := by
  simp [State.poisonGlobal]
@[simp] theorem State.unreachable_poisonGlobal (s : State) (gpa key n : Nat) : (s.poisonGlobal gpa key n).unreachable = s.unreachable := by
  simp [State.poisonGlobal]
@[simp] theorem State.seqNo_poisonGlobal (s : State) (gpa key n : Nat) : (s.poisonGlobal gpa key n).seqNo = s.seqNo := by
  simp [State.poisonGlobal]
@[simp] theorem State.arb_poisonGlobal (s : State) (gpa key n : Nat) : (s.poisonGlobal gpa key n).arb = s.arb := by
  simp [State.poisonGlobal]
@[simp] theorem State.launches_poisonGlobal (s : State) (gpa key n : Nat) : (s.poisonGlobal gpa key n).launches = s.launches := by
  simp [State.poisonGlobal]
@[simp] theorem State.saves_poisonGlobal (s : State) (gpa key n : Nat) : (s.poisonGlobal gpa key n).saves = s.saves := by
  simp [State.poisonGlobal]
@[simp] theorem State.hbm_poisonGlobal (s : State) (gpa key n : Nat) : (s.poisonGlobal gpa key n).hbm = s.hbm := by
  simp [State.poisonGlobal]
@[simp] theorem State.chairs_poisonGlobal (s : State) (gpa key n : Nat) : (s.poisonGlobal gpa key n).chairs = s.chairs := by
  simp [State.poisonGlobal]
@[simp] theorem State.cores_poisonGlobal (s : State) (gpa key n : Nat) : (s.poisonGlobal gpa key n).cores = s.cores := by
  simp [State.poisonGlobal]
@[simp] theorem State.dressers_poisonGlobal (s : State) (gpa key n : Nat) : (s.poisonGlobal gpa key n).dressers = s.dressers := by
  simp [State.poisonGlobal]
@[simp] theorem State.frontiers_poisonGlobal (s : State) (gpa key n : Nat) : (s.poisonGlobal gpa key n).frontiers = s.frontiers := by
  simp [State.poisonGlobal]
@[simp] theorem State.svcTrap_poisonGlobal (s : State) (gpa key n : Nat) : (s.poisonGlobal gpa key n).svcTrap = s.svcTrap := by
  simp [State.poisonGlobal]
@[simp] theorem State.svcPi_poisonGlobal (s : State) (gpa key n : Nat) : (s.poisonGlobal gpa key n).svcPi = s.svcPi := by
  simp [State.poisonGlobal]
@[simp] theorem State.svcCi_poisonGlobal (s : State) (gpa key n : Nat) : (s.poisonGlobal gpa key n).svcCi = s.svcCi := by
  simp [State.poisonGlobal]
@[simp] theorem State.svcQueue_poisonGlobal (s : State) (gpa key n : Nat) : (s.poisonGlobal gpa key n).svcQueue = s.svcQueue := by
  simp [State.poisonGlobal]
@[simp] theorem State.svcStatus_poisonGlobal (s : State) (gpa key n : Nat) : (s.poisonGlobal gpa key n).svcStatus = s.svcStatus := by
  simp [State.poisonGlobal]
@[simp] theorem State.svcBadk_poisonGlobal (s : State) (gpa key n : Nat) : (s.poisonGlobal gpa key n).svcBadk = s.svcBadk := by
  simp [State.poisonGlobal]
@[simp] theorem State.probes_poisonGlobal (s : State) (gpa key n : Nat) : (s.poisonGlobal gpa key n).probes = s.probes := by
  simp [State.poisonGlobal]
@[simp] theorem State.steers_poisonGlobal (s : State) (gpa key n : Nat) : (s.poisonGlobal gpa key n).steers = s.steers := by
  simp [State.poisonGlobal]
@[simp] theorem State.policies_poisonGlobal (s : State) (gpa key n : Nat) : (s.poisonGlobal gpa key n).policies = s.policies := by
  simp [State.poisonGlobal]
@[simp] theorem State.stackErrs_poisonGlobal (s : State) (gpa key n : Nat) : (s.poisonGlobal gpa key n).stackErrs = s.stackErrs := by
  simp [State.poisonGlobal]
@[simp] theorem State.responses_poisonGlobal (s : State) (gpa key n : Nat) : (s.poisonGlobal gpa key n).responses = s.responses := by
  simp [State.poisonGlobal]
@[simp] theorem State.notices_poisonGlobal (s : State) (gpa key n : Nat) : (s.poisonGlobal gpa key n).notices = s.notices := by
  simp [State.poisonGlobal]
@[simp] theorem State.mgmtOut_poisonGlobal (s : State) (gpa key n : Nat) : (s.poisonGlobal gpa key n).mgmtOut = s.mgmtOut := by
  simp [State.poisonGlobal]

@[simp] theorem State.draw_fst (s : State) (n : Nat) : (s.draw n).1 = Config.freeNat s.freeCtr % n := rfl
@[simp] theorem State.freeCtr_draw (s : State) (n : Nat) : (s.draw n).2.freeCtr = s.freeCtr + 1 := rfl
@[simp] theorem State.agenda_draw (s : State) (n : Nat) : (s.draw n).2.agenda = s.agenda := rfl
@[simp] theorem State.site_draw (s : State) (n : Nat) : (s.draw n).2.site = s.site := rfl
@[simp] theorem State.nextId_draw (s : State) (n : Nat) : (s.draw n).2.nextId = s.nextId := rfl
@[simp] theorem State.boot_draw (s : State) (n : Nat) : (s.draw n).2.boot = s.boot := rfl
@[simp] theorem State.lcs_draw (s : State) (n : Nat) : (s.draw n).2.lcs = s.lcs := rfl
@[simp] theorem State.pendingLcs_draw (s : State) (n : Nat) : (s.draw n).2.pendingLcs = s.pendingLcs := rfl
@[simp] theorem State.pkgid_draw (s : State) (n : Nat) : (s.draw n).2.pkgid = s.pkgid := rfl
@[simp] theorem State.fwhash_draw (s : State) (n : Nat) : (s.draw n).2.fwhash = s.fwhash := rfl
@[simp] theorem State.flash_draw (s : State) (n : Nat) : (s.draw n).2.flash = s.flash := rfl
@[simp] theorem State.idKey_draw (s : State) (n : Nat) : (s.draw n).2.idKey = s.idKey := rfl
@[simp] theorem State.clockKhz_draw (s : State) (n : Nat) : (s.draw n).2.clockKhz = s.clockKhz := rfl
@[simp] theorem State.downLinks_draw (s : State) (n : Nat) : (s.draw n).2.downLinks = s.downLinks := rfl
@[simp] theorem State.downPorts_draw (s : State) (n : Nat) : (s.draw n).2.downPorts = s.downPorts := rfl
@[simp] theorem State.rootUsable_draw (s : State) (n : Nat) : (s.draw n).2.rootUsable = s.rootUsable := rfl
@[simp] theorem State.failing_draw (s : State) (n : Nat) : (s.draw n).2.failing = s.failing := rfl
@[simp] theorem State.svcCheck_draw (s : State) (n : Nat) : (s.draw n).2.svcCheck = s.svcCheck := rfl
@[simp] theorem State.waiting_draw (s : State) (n : Nat) : (s.draw n).2.waiting = s.waiting := rfl
@[simp] theorem State.unreachable_draw (s : State) (n : Nat) : (s.draw n).2.unreachable = s.unreachable := rfl
@[simp] theorem State.seqNo_draw (s : State) (n : Nat) : (s.draw n).2.seqNo = s.seqNo := rfl
@[simp] theorem State.arb_draw (s : State) (n : Nat) : (s.draw n).2.arb = s.arb := rfl
@[simp] theorem State.launches_draw (s : State) (n : Nat) : (s.draw n).2.launches = s.launches := rfl
@[simp] theorem State.saves_draw (s : State) (n : Nat) : (s.draw n).2.saves = s.saves := rfl
@[simp] theorem State.hbm_draw (s : State) (n : Nat) : (s.draw n).2.hbm = s.hbm := rfl
@[simp] theorem State.poison_draw (s : State) (n : Nat) : (s.draw n).2.poison = s.poison := rfl
@[simp] theorem State.chairs_draw (s : State) (n : Nat) : (s.draw n).2.chairs = s.chairs := rfl
@[simp] theorem State.cores_draw (s : State) (n : Nat) : (s.draw n).2.cores = s.cores := rfl
@[simp] theorem State.dressers_draw (s : State) (n : Nat) : (s.draw n).2.dressers = s.dressers := rfl
@[simp] theorem State.frontiers_draw (s : State) (n : Nat) : (s.draw n).2.frontiers = s.frontiers := rfl
@[simp] theorem State.svcTrap_draw (s : State) (n : Nat) : (s.draw n).2.svcTrap = s.svcTrap := rfl
@[simp] theorem State.svcPi_draw (s : State) (n : Nat) : (s.draw n).2.svcPi = s.svcPi := rfl
@[simp] theorem State.svcCi_draw (s : State) (n : Nat) : (s.draw n).2.svcCi = s.svcCi := rfl
@[simp] theorem State.svcQueue_draw (s : State) (n : Nat) : (s.draw n).2.svcQueue = s.svcQueue := rfl
@[simp] theorem State.svcStatus_draw (s : State) (n : Nat) : (s.draw n).2.svcStatus = s.svcStatus := rfl
@[simp] theorem State.svcBadk_draw (s : State) (n : Nat) : (s.draw n).2.svcBadk = s.svcBadk := rfl
@[simp] theorem State.probes_draw (s : State) (n : Nat) : (s.draw n).2.probes = s.probes := rfl
@[simp] theorem State.steers_draw (s : State) (n : Nat) : (s.draw n).2.steers = s.steers := rfl
@[simp] theorem State.policies_draw (s : State) (n : Nat) : (s.draw n).2.policies = s.policies := rfl
@[simp] theorem State.sliceErrs_draw (s : State) (n : Nat) : (s.draw n).2.sliceErrs = s.sliceErrs := rfl
@[simp] theorem State.stackErrs_draw (s : State) (n : Nat) : (s.draw n).2.stackErrs = s.stackErrs := rfl
@[simp] theorem State.responses_draw (s : State) (n : Nat) : (s.draw n).2.responses = s.responses := rfl
@[simp] theorem State.notices_draw (s : State) (n : Nat) : (s.draw n).2.notices = s.notices := rfl
@[simp] theorem State.mgmtOut_draw (s : State) (n : Nat) : (s.draw n).2.mgmtOut = s.mgmtOut := rfl

/-! ### The cores -/

@[simp] theorem State.cores_modCore (s : State) (c : Nat) (f : Core → Core) : (s.modCore c f).cores = s.cores.modify c f := rfl

@[simp] theorem State.core_draw (s : State) (n c : Nat) : (s.draw n).2.core c = s.core c := rfl

@[simp] theorem State.core_modChair (s : State) (n c : Nat) (f : Chair → Chair) : (s.modChair n f).core c = s.core c := rfl

@[simp] theorem State.core_modLaunch (s : State) (n c : Nat) (f : Launch → Launch) : (s.modLaunch n f).core c = s.core c := rfl

@[simp] theorem State.core_storeGlobal (s : State) (chair gpa key n v c : Nat) :
    (s.storeGlobal chair gpa key n v).core c = s.core c := rfl

@[simp] theorem State.chair_modCore (s : State) (c n : Nat) (f : Core → Core) : (s.modCore c f).chair n = s.chair n := rfl

/-- A core that is changed. -/
theorem State.core_modCore (s : State) (c : Nat) (f : Core → Core) (hc : c < s.cores.length) :
    (s.modCore c f).core c = f (s.core c) := by
  simp [State.core, State.modCore, List.getD_eq_getElem?_getD, hc]

/-- A core that is not changed. -/
theorem State.core_modCore_ne (s : State) {c d : Nat} (f : Core → Core) (h : d ≠ c) : (s.modCore c f).core d = s.core d := by
  simp [State.core, State.modCore, List.getD_eq_getElem?_getD, Ne.symm h]

/-- A core whose number names none. -/
theorem State.core_none (s : State) {c : Nat} (h : s.cores.length ≤ c) : s.core c = Core.reset := by
  simp [State.core, List.getD_eq_getElem?_getD, h]

@[simp] theorem State.length_modCore (s : State) (c : Nat) (f : Core → Core) : (s.modCore c f).cores.length = s.cores.length := by
  simp [State.modCore]

/-- A property of every core, where a change of one keeps it. -/
theorem State.forall_modCore {P : Core → Prop} {s : State} (c : Nat) {f : Core → Core} (h : ∀ k ∈ s.cores, P k)
    (hf : ∀ k ∈ s.cores, P (f k)) : ∀ k ∈ (s.modCore c f).cores, P k := by
  intro k hk
  simp only [State.cores_modCore] at hk
  obtain ⟨n, hn, rfl⟩ := List.getElem_of_mem hk
  rw [List.getElem_modify]
  split
  · exact hf _ (List.getElem_mem _)
  · exact h _ (List.getElem_mem _)

/-! ### Slots and blocks in flight -/

@[simp] theorem State.slot?_none (s : State) {c : Nat} (i : Nat) (h : s.cores.length ≤ c) : s.slot? c i = none := by
  rw [State.slot?, s.core_none h]
  match i with
  | 0 | 1 | 2 | 3 => rfl
  | _ + 4 => rfl

/-- A slot that holds a context lies in a core of the package. -/
theorem State.core_lt_of_slot {s : State} {c i : Nat} {sl : Slot} (h : s.slot? c i = some sl) : c < s.cores.length := by
  by_contra hc
  rw [s.slot?_none i (Nat.le_of_not_lt hc)] at h
  cases h

/-- A change of a core that leaves its slots. -/
theorem State.slot?_modCore (s : State) (c d i : Nat) (f : Core → Core) (h : (f (s.core c)).slots = (s.core c).slots) :
    (s.modCore c f).slot? d i = s.slot? d i := by
  by_cases hd : d = c
  · subst hd
    by_cases hc : d < s.cores.length
    · rw [State.slot?, s.core_modCore d f hc, Core.slot?, h]; rfl
    · rw [s.slot?_none i (Nat.le_of_not_lt hc), State.slot?_none _ i (by simpa using Nat.le_of_not_lt hc)]
  · rw [State.slot?, s.core_modCore_ne f hd]; rfl

/-- A slot that is changed. -/
theorem State.slot?_modSlot (s : State) (c i : Nat) (f : Slot → Slot) : (s.modSlot c i f).slot? c i = (s.slot? c i).map f := by
  by_cases hc : c < s.cores.length
  · rw [State.slot?, State.modSlot, s.core_modCore c _ hc]
    simp only [State.slot?, Core.slot?, List.getD_eq_getElem?_getD, List.getElem?_modify]
    cases (s.core c).slots[i]? <;> simp
  · rw [s.slot?_none i (Nat.le_of_not_lt hc), State.slot?_none _ i (by simpa [State.modSlot] using Nat.le_of_not_lt hc)]; rfl

/-- A slot that is not changed. -/
theorem State.slot?_modSlot_ne (s : State) (c : Nat) {i j : Nat} (f : Slot → Slot) (h : j ≠ i) :
    (s.modSlot c i f).slot? c j = s.slot? c j := by
  by_cases hc : c < s.cores.length
  · rw [State.slot?, State.modSlot, s.core_modCore c _ hc]
    simp [State.slot?, Core.slot?, List.getD_eq_getElem?_getD, Ne.symm h]
  · rw [s.slot?_none j (Nat.le_of_not_lt hc), State.slot?_none _ j (by simpa [State.modSlot] using Nat.le_of_not_lt hc)]

@[simp] theorem State.slot?_perfEvent (s : State) (c d i ch ev n : Nat) : (s.perfEvent c ch ev n).slot? d i = s.slot? d i :=
  s.slot?_modCore c d i _ rfl

/-- The blocks in flight where one is changed and keeps its age. -/
theorem find?_inst_map {l : List Inst} {age : Nat} {f : Inst → Inst} (hf : ∀ x, x.age = age → (f x).age = age) :
    (l.map fun x => if x.age = age then f x else x).find? (·.age = age) = (l.find? (·.age = age)).map f := by
  induction l with
  | nil => rfl
  | cons x r ih =>
    by_cases hx : x.age = age
    · simp [hx, hf x hx]
    · simpa [hx] using ih

/-- A block in flight that is changed and keeps its age. -/
theorem State.inst_modInst {s : State} {c i age : Nat} {sl : Slot} {j : Inst} {f : Inst → Inst} (hs : s.slot? c i = some sl)
    (hj : sl.inst? age = some j) (hf : ∀ x, x.age = age → (f x).age = age) :
    ∃ sl', (s.modInst c i age f).slot? c i = some sl' ∧ sl'.inst? age = some (f j) := by
  refine ⟨_, by rw [State.modInst, s.slot?_modSlot, hs]; rfl, ?_⟩
  simp only [Slot.inst?] at hj ⊢
  rw [find?_inst_map hf, hj]; rfl

/-- A core after one of its slots is changed. -/
theorem State.core_modSlot (s : State) (c i : Nat) (f : Slot → Slot) (hc : c < s.cores.length) :
    (s.modSlot c i f).core c = { s.core c with slots := (s.core c).slots.modify i (Option.map f) } := s.core_modCore c _ hc

/-- A core after one of its blocks is changed. -/
theorem State.core_modInst (s : State) (c i age : Nat) (f : Inst → Inst) (hc : c < s.cores.length) :
    (s.modInst c i age f).core c = { s.core c with slots := (s.core c).slots.modify i (Option.map fun sl =>
      { sl with insts := sl.insts.map fun x => if x.age = age then f x else x }) } := s.core_modSlot c i _ hc

/-- A core after an event is counted. -/
theorem State.core_perfEvent (s : State) (c ch ev n : Nat) (hc : c < s.cores.length) :
    (s.perfEvent c ch ev n).core c =
      { s.core c with perf := (s.core c).perf.map fun p => if p.counts ev ch then p.count n else p } := s.core_modCore c _ hc

@[simp] theorem State.length_modSlot (s : State) (c i : Nat) (f : Slot → Slot) : (s.modSlot c i f).cores.length = s.cores.length := by
  simp [State.modSlot]

@[simp] theorem State.length_modInst (s : State) (c i age : Nat) (f : Inst → Inst) :
    (s.modInst c i age f).cores.length = s.cores.length := by simp [State.modInst]

@[simp] theorem State.length_perfEvent (s : State) (c ch ev n : Nat) : (s.perfEvent c ch ev n).cores.length = s.cores.length := by
  simp [State.perfEvent]

end Sys2Proof.Machine
end

