-- ==== Sys2Proof/Laws/Fire.lean ====
section
/-! SUPPORT. What the shared operations of firing answer: `need`, `needSome`, `fire`, `port` and the stations, each said once. -/

namespace Sys2Proof.Machine
open Sys2Proof

/-! ### Enabling -/

@[simp] theorem need_true (k : Out) : need true k = k := rfl

theorem need_of {b : Bool} (h : b = true) (k : Out) : need b k = k := by rw [h]; rfl

@[simp] theorem needSome_some {α : Type} (x : α) (k : α → Out) : needSome (some x) k = k x := rfl

/-- `need` answers a next state only where its condition holds. -/
theorem need_next {b : Bool} {k : Out} {t : State} (h : need b k = .next t) : b = true ∧ k = .next t := by
  cases b
  · exact absurd h (by simp [need])
  · exact ⟨rfl, h⟩

/-- `needSome` answers a next state only where there is a value. -/
theorem needSome_next {α : Type} {o : Option α} {k : α → Out} {t : State} (h : needSome o k = .next t) :
    ∃ x, o = some x ∧ k x = .next t := by
  cases o
  · exact absurd h (by simp [needSome])
  · exact ⟨_, rfl, h⟩

theorem next_inj {s t : State} (h : (Host.Outcome.next s : Out) = .next t) : s = t := by cases h; rfl

/-! ### Firing -/

/-- Where a match is complete, no port holds a reserved tag and its predicate holds, the firing is its body (R36, R37, R79). -/
theorem fire_of_fires {s : State} {c : Ctx} {pr : Pred} (h : s.Fires c pr) (body : Ctx → Out) : fire s pr body = body c := by
  obtain ⟨⟨hc, hb, hp⟩, hr⟩ := h
  simp only [fire, hc, needSome_some, hb, hr, hp]
  rfl

/-- An instruction that never faults takes no notice of tags (R214). -/
theorem fireAny_of_fires {s : State} {c : Ctx} {pr : Pred} (h : s.FiresAny c pr) (body : Ctx → Out) :
    fireAny s pr body = body c := by
  obtain ⟨hc, hb, hp⟩ := h
  simp only [fireAny, hc, needSome_some, hb, hp]
  rfl

/-- A token of a reserved tag on any port raises FORMAT_RESERVED, whatever the predicate says (R79). -/
theorem fire_of_reserved {s : State} {c : Ctx} {pr : Pred} (hc : s.fireCtx = some c) (hb : c.inst.bad.contains c.k = false)
    (hr : c.m.reserved = true) (body : Ctx → Out) : fire s pr body = c.raise FC.formatReserved := by
  simp only [fire, hc, needSome_some, hb, hr]
  rfl

/-- A poisoned window word is consumed by the firing (R316). -/
theorem fire_of_bad {s : State} {c : Ctx} {pr : Pred} (hc : s.fireCtx = some c) (hb : c.inst.bad.contains c.k = true)
    (body : Ctx → Out) : fire s pr body = c.badWord := by
  simp only [fire, hc, needSome_some, hb]
  rfl

/-- A predicate that does not hold consumes the tokens and emits nothing (R37). -/
theorem fire_of_not {s : State} {c : Ctx} {pr : Pred} (hc : s.fireCtx = some c) (hb : c.inst.bad.contains c.k = false)
    (hr : c.m.reserved = false) (hp : predHolds pr c.m.p = false) (body : Ctx → Out) : fire s pr body = .next c.s := by
  simp only [fire, hc, needSome_some, hb, hr, hp]
  rfl

/-- What a firing that answers a next state was: its word was poisoned, a tag reserved, its predicate failed, or its body
answered (R37, R79, R316). -/
theorem fire_next {s t : State} {pr : Pred} {body : Ctx → Out} (h : fire s pr body = .next t) :
    ∃ c, s.fireCtx = some c ∧ (c.badWord = .next t ∨ c.raise FC.formatReserved = .next t ∨ t = c.s
      ∨ s.Fires c pr ∧ body c = .next t) := by
  obtain ⟨c, hc, h⟩ := needSome_next h
  refine ⟨c, hc, ?_⟩
  cases hb : c.inst.bad.contains c.k <;> simp only [hb, if_true, Bool.false_eq_true, if_false] at h
  · cases hr : c.m.reserved <;> simp only [hr, if_true, Bool.false_eq_true, if_false] at h
    · cases hp : predHolds pr c.m.p <;> simp only [hp, if_true, Bool.false_eq_true, if_false] at h
      · exact .inr (.inr (.inl (next_inj h).symm))
      · exact .inr (.inr (.inr ⟨⟨⟨hc, hb, hp⟩, hr⟩, h⟩))
    · exact .inr (.inl h)
  · exact .inl h

/-- What a firing that takes no notice of tags was, where it answers a next state. -/
theorem fireAny_next {s t : State} {pr : Pred} {body : Ctx → Out} (h : fireAny s pr body = .next t) :
    ∃ c, s.fireCtx = some c ∧ (c.badWord = .next t ∨ t = c.s ∨ s.FiresAny c pr ∧ body c = .next t) := by
  obtain ⟨c, hc, h⟩ := needSome_next h
  refine ⟨c, hc, ?_⟩
  cases hb : c.inst.bad.contains c.k <;> simp only [hb, if_true, Bool.false_eq_true, if_false] at h
  · cases hp : predHolds pr c.m.p <;> simp only [hp, if_true, Bool.false_eq_true, if_false] at h
    · exact .inr (.inl (next_inj h).symm)
    · exact .inr (.inr ⟨⟨hc, hb, hp⟩, h⟩)
  · exact .inl h

/-- A port that carries a token is its body. -/
theorem port_of_carries {tok : Option Tok} {d : Datum} (h : Carries tok d) (onNull : Out) (body : Datum → Out) :
    port tok onNull body = body d := by
  obtain ⟨rfl, _⟩ := h
  rfl

@[simp] theorem port_null (onNull : Out) (body : Datum → Out) : port (some none) onNull body = onNull := rfl

/-- A match one of whose ports carries a token of a reserved tag (R79). -/
theorem Match.reserved_of {m : Match} {tok : Option Tok} (h : CarriesReserved tok) (hm : tok ∈ [m.a, m.b, m.p]) :
    m.reserved = true := by
  obtain ⟨d, rfl, hd⟩ := h
  exact List.any_eq_true.mpr ⟨_, hm, hd⟩

/-- What a port that answers a next state carried. -/
theorem port_next {tok : Option Tok} {onNull : Out} {body : Datum → Out} {t : State}
    (h : port tok onNull body = .next t) : onNull = .next t ∨ ∃ d, body d = .next t := by
  unfold port at h
  split at h
  · exact .inr ⟨_, h⟩
  · exact .inl h

theorem station0_of_fires {s : State} {c : Ctx} {pr : Pred} (h : s.Fires c pr) (body : Ctx → Out) :
    station0 s pr body = body c := fire_of_fires h body

/-- Format fields that are no reserved codes let the body run (R79). -/
theorem withFmt_of_ok {fs : List Fmt} (h : ∀ f ∈ fs, f.isReserved = false) (c : Ctx) (k : Out) : withFmt c fs k = k := by
  have : fs.any (·.isReserved) = false := by simpa using h
  simp [withFmt, this]

/-- A reserved format field raises FORMAT_RESERVED whatever the operands (R79, R121). -/
theorem withFmt_of_reserved {fs : List Fmt} {f : Fmt} (hf : f ∈ fs) (h : f.isReserved = true) (c : Ctx) (k : Out) :
    withFmt c fs k = c.raise FC.formatReserved := by
  have : fs.any (·.isReserved) = true := List.any_eq_true.mpr ⟨f, hf, h⟩
  simp [withFmt, this]

@[simp] theorem withFmt_nil (c : Ctx) (k : Out) : withFmt c [] k = k := rfl

theorem station1_of_fires {s : State} {c : Ctx} {pr : Pred} {fs : List Fmt} {a : Datum} (h : s.Fires c pr)
    (hf : ∀ f ∈ fs, f.isReserved = false) (ha : Carries c.m.a a) (ts : List Target) (body : Ctx → Datum → Out) :
    station1 s pr fs ts body = body c a := by
  simp [station1, fire_of_fires h, withFmt_of_ok hf, port_of_carries ha]

theorem station2_of_fires {s : State} {c : Ctx} {pr : Pred} {fs : List Fmt} {a b : Datum} (h : s.Fires c pr)
    (hf : ∀ f ∈ fs, f.isReserved = false) (ha : Carries c.m.a a) (hb : Carries c.m.b b) (ts : List Target)
    (body : Ctx → Datum → Datum → Out) : station2 s pr fs ts body = body c a b := by
  simp [station2, fire_of_fires h, withFmt_of_ok hf, port_of_carries ha, port_of_carries hb]

theorem station3_of_fires {s : State} {c : Ctx} {fs : List Fmt} {a b p : Datum} (h : s.Fires c .always)
    (hf : ∀ f ∈ fs, f.isReserved = false) (ha : Carries c.m.a a) (hb : Carries c.m.b b) (hp : Carries c.m.p p)
    (ts : List Target) (body : Ctx → Datum → Datum → Datum → Out) : station3 s fs ts body = body c a b p := by
  simp [station3, fire_of_fires h, withFmt_of_ok hf, port_of_carries ha, port_of_carries hb, port_of_carries hp]

/-- What a format check that answers a next state was. -/
theorem withFmt_next {c : Ctx} {fs : List Fmt} {k : Out} {t : State} (h : withFmt c fs k = .next t) :
    c.raise FC.formatReserved = .next t ∨ k = .next t := by
  unfold withFmt at h
  split at h
  · exact .inl h
  · exact .inr h

/-- A firing that sends a token answers the state with it sent. -/
@[simp] theorem Ctx.out_eq (c : Ctx) (ts : List Target) (tok : Tok) : c.out ts tok = .next (c.sent ts tok) := rfl

@[simp] theorem Ctx.fault_eq (c : Ctx) (f : FaultRec) : c.fault f = .next (c.faulted f) := rfl

@[simp] theorem Ctx.raise_eq (c : Ctx) (code : Nat) : c.raise code = .next (c.faulted (.plain code)) := rfl

/-! ### Fresh numbers (R168, R215) -/

/-- A fresh number is none of those used. -/
theorem freshFrom_not_mem (used : List Nat) (x : Nat) : freshFrom used x ∉ used := by
  unfold freshFrom
  split
  · rename_i i hi
    have := List.find?_some hi
    simpa using this
  · rename_i hnone
    exfalso
    have hall : ∀ i ∈ List.range (used.length + 1), x + i ∈ used := by
      intro i hi
      have := List.find?_eq_none.mp hnone i hi
      simpa using this
    have hsub : (List.range (used.length + 1)).map (x + ·) ⊆ used := by
      intro y hy
      obtain ⟨i, hi, rfl⟩ := List.mem_map.mp hy
      exact hall i hi
    have hnd : ((List.range (used.length + 1)).map (x + ·)).Nodup :=
      List.Nodup.map (fun a b h => by simpa using h) List.nodup_range
    have := (hnd.subperm hsub).length_le
    simp at this

end Sys2Proof.Machine
end

