-- ==== Sys2Proof/Laws/Frame.lean ====
section
/-! SUPPORT. What a firing leaves as it is (R34): every shared operation of firing keeps the frame `State.FiringKeeps`, said
once an operation. -/

namespace Sys2Proof.Machine
open Sys2Proof

theorem State.FiringKeeps.refl (s : State) : s.FiringKeeps s := ⟨rfl⟩

theorem State.FiringKeeps.trans {s t u : State} (h : s.FiringKeeps t) (k : t.FiringKeeps u) : s.FiringKeeps u :=
  ⟨k.settled.trans h.settled⟩

/-- Changing one member of a list is not seen through a view that does not see the change. -/
theorem List.map_modify_eq {α β : Type} {v : α → β} {f : α → α} (h : ∀ x, v (f x) = v x) (l : List α) (i : Nat) :
    (l.modify i f).map v = l.map v := by
  apply List.ext_getElem?
  intro j
  simp only [List.getElem?_map, List.getElem?_modify]
  split <;> rcases l[j]? with _ | x <;> simp [h]

/-- Changing the members of a list is not seen through a view that does not see the change. -/
theorem List.map_map_eq {α β : Type} {v : α → β} {f : α → α} (h : ∀ x, v (f x) = v x) (l : List α) :
    (l.map f).map v = l.map v := by simp [h]

/-- A change of one core that its settled form does not show. -/
theorem State.keeps_modCore (s : State) (c : Nat) {f : Core → Core} (hf : ∀ k, (f k).settled = k.settled) :
    s.FiringKeeps (s.modCore c f) :=
  ⟨by simp only [State.settled, State.modCore, List.map_modify_eq hf]⟩

/-- A change of one chair that its settled form does not show. -/
theorem State.keeps_modChair (s : State) (c : Nat) {f : Chair → Chair} (hf : ∀ k, (f k).settled = k.settled) :
    s.FiringKeeps (s.modChair c f) :=
  ⟨by simp only [State.settled, State.modChair, List.map_modify_eq hf]⟩

/-- A change of one slot's blocks alone is within the frame. -/
theorem State.keeps_modSlot (s : State) (c i : Nat) {f : Slot → Slot} (hf : ∀ x, (f x).settled = x.settled) :
    s.FiringKeeps (s.modSlot c i f) :=
  s.keeps_modCore c fun k => by
    simp only [Core.settled, List.map_modify_eq (v := Option.map Slot.settled) (f := Option.map f) fun o => by
      rcases o with _ | x <;> simp [hf]]

/-- A change of a block in flight is within the frame. -/
theorem State.keeps_modInst (s : State) (c i age : Nat) (f : Inst → Inst) : s.FiringKeeps (s.modInst c i age f) :=
  s.keeps_modSlot c i fun _ => rfl

theorem State.keeps_record (s : State) (c i age : Nat) (f : FaultRec) : s.FiringKeeps (s.record c i age f) :=
  s.keeps_modInst c i age _

theorem State.keeps_perfEvent (s : State) (c chair ev n : Nat) : s.FiringKeeps (s.perfEvent c chair ev n) :=
  s.keeps_modCore c fun _ => rfl

/-- Counting consumed poison in an error record is within the frame. -/
theorem ErrRec.settled_consume (n : Nat) (e : ErrRec) : (e.consume n).settled = e.settled := rfl

theorem State.keeps_consume (s : State) (c n m : Nat) : s.FiringKeeps (s.modErr c n (·.consume m)) :=
  s.keeps_modCore c fun k => by
    simp only [Core.settled, List.map_modify_eq (ErrRec.settled_consume m)]

/-- Counting the poison of several words changes counts alone. -/
theorem consume_words (p : Nat → List ErrRec → List ErrRec) (hp : ∀ w l, (p w l).map ErrRec.settled = l.map ErrRec.settled)
    (ws : List Nat) (l : List ErrRec) : (ws.foldl (fun l w => p w l) l).map ErrRec.settled = l.map ErrRec.settled := by
  induction ws generalizing l with
  | nil => rfl
  | cons w r ih => rw [List.foldl_cons, ih, hp]

theorem State.keeps_ueGlobal (s : State) (ws : List Nat) : s.FiringKeeps (s.ueGlobal ws) := by
  have := consume_words (fun w l => if (keyPackage (8 * w)).isNone then l.modify (homeSlice (8 * w)) (·.consume 1) else l)
    (fun w l => by split <;> simp only [List.map_modify_eq (ErrRec.settled_consume 1)]) ws s.sliceErrs
  exact ⟨by simp only [State.settled, State.ueGlobal, this]⟩

theorem State.keeps_noteCarve (s : State) (ws : List Nat) : s.FiringKeeps (s.noteCarve ws) := by
  have := consume_words (fun w l => l.modify (homeSlice (8 * w) / 16) (·.consume 1))
    (fun w l => by simp only [List.map_modify_eq (ErrRec.settled_consume 1)]) ws s.stackErrs
  exact ⟨by simp only [State.settled, State.noteCarve, this]⟩

/-- What a failed translation consumed is counted, and nothing else. -/
theorem State.keeps_noteTrans (s : State) (e : TransErr) : s.FiringKeeps (s.noteTrans e) := by
  cases e with
  | poison w => exact s.keeps_ueGlobal _
  | carve w => exact s.keeps_noteCarve _
  | missing _ | malformed | fault _ => exact .refl s

/-- The counter of free values is the model's own. -/
theorem State.keeps_freeCtr (s : State) (n : Nat) : s.FiringKeeps { s with freeCtr := n } := ⟨rfl⟩

theorem State.keeps_draw (s : State) (n : Nat) : s.FiringKeeps (s.draw n).2 := s.keeps_freeCtr _

theorem State.keeps_fillTlb (s : State) (c : Nat) (e : TlbEntry) : s.FiringKeeps (s.fillTlb c e) := by
  simp only [State.fillTlb]
  split
  · exact .refl s
  · exact s.keeps_modCore c fun _ => rfl

theorem State.keeps_toWslot (s : State) (c i age n : Nat) (tok : Tok) : s.FiringKeeps (s.toWslot c i age n tok) := by
  unfold State.toWslot
  split
  · exact .refl s
  · split
    · simp only []
      split
      · exact s.keeps_draw 2
      · exact (State.keeps_draw s 2).trans (State.keeps_modInst _ _ _ _ _)
    · exact s.keeps_modInst _ _ _ _

theorem State.keeps_emit1 (s : State) (c i age : Nat) (t : Target) (tok : Tok) : s.FiringKeeps (s.emit1 c i age t tok) := by
  cases t
  · exact .refl s
  · exact s.keeps_modCore c fun _ => rfl
  · exact s.keeps_toWslot _ _ _ _ _

/-- Sending tokens changes the network and write slots alone. -/
theorem State.keeps_emit (s : State) (c i age : Nat) (ts : List Target) (tok : Tok) : s.FiringKeeps (s.emit c i age ts tok) := by
  induction ts generalizing s with
  | nil => exact .refl s
  | cons t r ih => exact (s.keeps_emit1 c i age t tok).trans (ih _)

/-- A change of an entry that a handle names is within the frame (R320). -/
theorem State.keeps_modHandle (s : State) (chair h : Nat) (f : CqEntry → CqEntry) : s.FiringKeeps (s.modHandle chair h f) := by
  unfold State.modHandle
  split
  · exact s.keeps_modCore _ fun _ => rfl
  · exact s.keeps_modChair _ fun _ => rfl

theorem State.keeps_settleHandle (s : State) (chair h : Nat) : s.FiringKeeps (s.settleHandle chair h) := by
  unfold State.settleHandle
  split
  · exact .refl s
  · exact s.keeps_modHandle _ _ _

theorem State.keeps_readHandle (s : State) (chair h : Nat) : s.FiringKeeps (s.readHandle chair h) :=
  (s.keeps_modHandle _ _ _).trans (State.keeps_settleHandle _ _ _)

/-- Consuming a match keeps the frame (R36). -/
theorem State.fireCtx_keeps {s : State} {c : Ctx} (h : s.fireCtx = some c) : s.FiringKeeps c.s := by
  unfold State.fireCtx at h
  simp only [] at h
  split at h
  · cases h
  · split at h
    · cases h
    · split at h
      · cases h
        refine .trans (.trans ?_ (State.keeps_modInst _ _ _ _ _)) (State.keeps_perfEvent _ _ _ _ _)
        exact State.keeps_modCore _ _ fun _ => rfl
      · cases h

/-! ### Outcomes that keep the frame -/

/-- Every next state of an outcome keeps the frame of `s`. -/
def Out.Keeps (s : State) (o : Out) : Prop := ∀ t, o = .next t → s.FiringKeeps t

theorem Out.Keeps.next {s t : State} (h : s.FiringKeeps t) : Out.Keeps s (.next t) := by
  rintro _ ⟨⟩; exact h

theorem Out.Keeps.need {s : State} {b : Bool} {k : Out} (h : Out.Keeps s k) : Out.Keeps s (need b k) :=
  fun t ht => h t (need_next ht).2

theorem Out.Keeps.needSome {s : State} {α : Type} {o : Option α} {k : α → Out} (h : ∀ x, o = some x → Out.Keeps s (k x)) :
    Out.Keeps s (needSome o k) := fun t ht => by
  obtain ⟨x, hx, hk⟩ := needSome_next ht
  exact h x hx t hk

theorem Out.Keeps.ite {s : State} {p : Prop} [Decidable p] {a b : Out} (ha : Out.Keeps s a) (hb : Out.Keeps s b) :
    Out.Keeps s (if p then a else b) := by split <;> assumption

theorem Out.Keeps.fault {s : State} {c : Ctx} (h : s.FiringKeeps c.s) (f : FaultRec) : Out.Keeps s (c.fault f) :=
  .next (h.trans (State.keeps_record _ _ _ _ _))

theorem Out.Keeps.raise {s : State} {c : Ctx} (h : s.FiringKeeps c.s) (code : Nat) : Out.Keeps s (c.raise code) := .fault h _

theorem Out.Keeps.badWord {s : State} {c : Ctx} (h : s.FiringKeeps c.s) : Out.Keeps s c.badWord :=
  .next ((h.trans (State.keeps_consume _ _ _ _)).trans (State.keeps_record _ _ _ _ _))

theorem Out.Keeps.fire {s : State} {pr : Pred} {body : Ctx → Out} (h : ∀ c, s.FiringKeeps c.s → Out.Keeps s (body c)) :
    Out.Keeps s (fire s pr body) := fun t ht => by
  obtain ⟨c, hc, hb | hr | rfl | ⟨_, hb⟩⟩ := fire_next ht
  · exact Out.Keeps.badWord (State.fireCtx_keeps hc) t hb
  · exact Out.Keeps.raise (State.fireCtx_keeps hc) _ t hr
  · exact State.fireCtx_keeps hc
  · exact h c (State.fireCtx_keeps hc) t hb

theorem Out.Keeps.fireAny {s : State} {pr : Pred} {body : Ctx → Out} (h : ∀ c, s.FiringKeeps c.s → Out.Keeps s (body c)) :
    Out.Keeps s (fireAny s pr body) := fun t ht => by
  obtain ⟨c, hc, hb | rfl | ⟨_, hb⟩⟩ := fireAny_next ht
  · exact Out.Keeps.badWord (State.fireCtx_keeps hc) t hb
  · exact State.fireCtx_keeps hc
  · exact h c (State.fireCtx_keeps hc) t hb

theorem Out.Keeps.out {s : State} {c : Ctx} (h : s.FiringKeeps c.s) (ts : List Target) (tok : Tok) : Out.Keeps s (c.out ts tok) :=
  .next (h.trans (State.keeps_emit _ _ _ _ _ _))

theorem Out.Keeps.port {s : State} {tok : Option Tok} {onNull : Out} {body : Datum → Out}
    (hn : Out.Keeps s onNull) (h : ∀ d, Out.Keeps s (body d)) : Out.Keeps s (port tok onNull body) := fun t ht => by
  rcases port_next ht with h' | ⟨d, h'⟩
  · exact hn t h'
  · exact h d t h'

theorem Out.Keeps.withFmt {s : State} {c : Ctx} (hc : s.FiringKeeps c.s) {fs : List Fmt} {k : Out} (h : Out.Keeps s k) :
    Out.Keeps s (withFmt c fs k) := fun t ht => by
  rcases withFmt_next ht with h' | h'
  · exact Out.Keeps.raise hc _ t h'
  · exact h t h'

theorem Out.Keeps.station0 {s : State} {pr : Pred} {body : Ctx → Out} (h : ∀ c, s.FiringKeeps c.s → Out.Keeps s (body c)) :
    Out.Keeps s (station0 s pr body) := .fire h

theorem Out.Keeps.station1 {s : State} {pr : Pred} {fs : List Fmt} {ts : List Target} {body : Ctx → Datum → Out}
    (h : ∀ c a, s.FiringKeeps c.s → Out.Keeps s (body c a)) : Out.Keeps s (station1 s pr fs ts body) :=
  .fire fun c hc => .withFmt hc (.port (.out hc _ _) fun a => h c a hc)

theorem Out.Keeps.station2 {s : State} {pr : Pred} {fs : List Fmt} {ts : List Target} {body : Ctx → Datum → Datum → Out}
    (h : ∀ c a b, s.FiringKeeps c.s → Out.Keeps s (body c a b)) : Out.Keeps s (station2 s pr fs ts body) :=
  .fire fun c hc => .withFmt hc (.port (.out hc _ _) fun a => .port (.out hc _ _) fun b => h c a b hc)

theorem Out.Keeps.station3 {s : State} {fs : List Fmt} {ts : List Target} {body : Ctx → Datum → Datum → Datum → Out}
    (h : ∀ c a b p, s.FiringKeeps c.s → Out.Keeps s (body c a b p)) : Out.Keeps s (station3 s fs ts body) :=
  .fire fun c hc => .withFmt hc (.port (.out hc _ _) fun a => .port (.out hc _ _) fun b => .port (.out hc _ _) fun p => h c a b p hc)

/-! ### Changes of a firing -/

theorem Ctx.keeps_mod {s : State} {c : Ctx} (h : s.FiringKeeps c.s) (f : Inst → Inst) : s.FiringKeeps (c.mod f).s :=
  h.trans (State.keeps_modInst _ _ _ _ _)

theorem Ctx.keeps_sat {s : State} {c : Ctx} (h : s.FiringKeeps c.s) (lsid : Nat) : s.FiringKeeps (c.sat lsid).s :=
  Ctx.keeps_mod h _

theorem Ctx.keeps_act {s : State} {c : Ctx} (h : s.FiringKeeps c.s) (lsid : Nat) : s.FiringKeeps (c.act lsid).s :=
  Ctx.keeps_mod h _

theorem Ctx.keeps_addStore {s : State} {c : Ctx} (h : s.FiringKeeps c.s) (p : PStore) : s.FiringKeeps (c.addStore p).s :=
  Ctx.keeps_mod h _

theorem Ctx.keeps_addLoad {s : State} {c : Ctx} (h : s.FiringKeeps c.s) (l : PLoad) : s.FiringKeeps (c.addLoad l).s :=
  (Ctx.keeps_mod h _).trans (State.keeps_modCore _ _ fun _ => rfl)

theorem Ctx.keeps_sendChain {s : State} {c : Ctx} (h : s.FiringKeeps c.s) (lsid : Nat) (t : Triple) (p : Option PStore)
    (l : Bool) : s.FiringKeeps (c.sendChain lsid t p l).s := h.trans (State.keeps_modCore _ _ fun _ => rfl)

theorem Out.Keeps.hold {s : State} {c : Ctx} (h : s.FiringKeeps c.s) (stage va lsid : Nat) (wr : Bool) :
    Out.Keeps s (c.hold stage va lsid wr) :=
  .next ((h.trans (State.keeps_perfEvent _ _ _ _ _)).trans (State.keeps_modCore _ _ fun _ => rfl))

theorem Out.Keeps.fails {s : State} {c : Ctx} (h : s.FiringKeeps c.s) (e : TransErr) (lsid va : Nat) (wr : Bool) :
    Out.Keeps s (c.fails e lsid va wr) := by
  have hn : s.FiringKeeps (c.s.noteTrans e) := h.trans (State.keeps_noteTrans _ e)
  simp only [Ctx.fails]
  split
  · exact .hold (c := { c with s := c.s.noteTrans e }) hn _ _ _ _
  · exact .fault (c := { c with s := c.s.noteTrans e }) hn _

theorem Out.Keeps.wait {s : State} {c : Ctx} (h : s.FiringKeeps c.s) (lsid : Nat) (w : Wait) : Out.Keeps s (c.wait lsid w) :=
  .next (Ctx.keeps_mod h _)

theorem Out.Keeps.exit {s : State} {c : Ctx} (h : s.FiringKeeps c.s) (e : ExitRec) : Out.Keeps s (c.exit e) := by
  unfold Ctx.exit
  exact .ite (.next (Ctx.keeps_mod h _)) (.raise (Ctx.keeps_mod h _) _)

theorem Out.Keeps.global {s : State} {c : Ctx} (h : s.FiringKeeps c.s) {nd : Need} {va n lsid : Nat}
    {body : Ctx → Nat × Nat → Out} (hb : ∀ (d : Ctx) p, s.FiringKeeps d.s → Out.Keeps s (body d p)) :
    Out.Keeps s (c.global nd va n lsid body) := by
  unfold Ctx.global
  split
  · exact .fails h _ _ _ _
  · exact .ite (.fault h _) (hb _ _ (h.trans (State.keeps_fillTlb _ _ _)))

theorem Out.Keeps.local {s : State} {c : Ctx} (h : s.FiringKeeps c.s) {off n al lsid : Nat} {body : Ctx → Out}
    (hb : Out.Keeps s (body c)) : Out.Keeps s (c.local off n al lsid body) := by
  unfold Ctx.local
  exact .ite (.fault h _) (.ite (.fault h _) hb)

theorem Out.Keeps.shareLsid {s : State} {c : Ctx} (h : s.FiringKeeps c.s) {lsid : Nat} {asNull act : Ctx → Out}
    (hn : ∀ d : Ctx, s.FiringKeeps d.s → Out.Keeps s (asNull d)) (ha : ∀ d : Ctx, s.FiringKeeps d.s → Out.Keeps s (act d)) :
    Out.Keeps s (c.shareLsid lsid asNull act) := by
  unfold Ctx.shareLsid
  have hd : s.FiringKeeps (c.s.draw 2).2 := h.trans (State.keeps_draw _ _)
  exact .ite (.ite (hn _ hd) (ha _ (Ctx.keeps_mod (c := { c with s := (c.s.draw 2).2 }) hd _))) (ha c h)

theorem Out.Keeps.loadAll {s : State} {c : Ctx} (h : s.FiringKeeps c.s) {n : Nat} {vas : List Nat} {lsid : Nat}
    {body : List LoadPart → Out} (hb : ∀ l, Out.Keeps s (body l)) : Out.Keeps s (c.loadAll n vas lsid body) := by
  unfold Ctx.loadAll
  split
  · exact .fails h _ _ _ _
  · exact hb _

theorem Out.Keeps.engine {s : State} {c : Ctx} (h : s.FiringKeeps c.s) (i : Instr) (ts : List Target) (lsid : Nat)
    (a b : Payload) (nul : Bool) : Out.Keeps s (c.engine i ts lsid a b nul) := by
  unfold Ctx.engine
  have hd : s.FiringKeeps (c.s.draw c.freeEntries.length).2 := h.trans (State.keeps_draw _ _)
  refine .out (Ctx.keeps_mod (Ctx.keeps_sat (c := Ctx.mk _ _ _ _ _ _ _ _ _) ?_ _) _) _ _
  exact hd.trans (State.keeps_modCore _ _ fun _ => rfl)

theorem Out.Keeps.engineWith {s : State} {i : Instr} {pr : Pred} {ts : List Target} {lsid : Nat} {ra rb : Bool}
    {ka kb : Datum → Payload} {check : Ctx → Datum → Datum → (Ctx → Out) → Out}
    (hc : ∀ (c : Ctx) a b k, s.FiringKeeps c.s → (∀ d : Ctx, s.FiringKeeps d.s → Out.Keeps s (k d)) → Out.Keeps s (check c a b k)) :
    Out.Keeps s (engineWith s i pr ts lsid ra rb ka kb check) := by
  unfold Machine.engineWith
  refine .fire fun c h => .need ?_
  have hp : ∀ (r : Bool) (t : Option Tok) (body : Datum → Out), (∀ d, Out.Keeps s (body d)) →
      Out.Keeps s (if r then Machine.port t (c.engine i ts lsid 0 0 true) body else body .zero) := fun r t body hb =>
    .ite (.port (.engine h _ _ _ _ _ _) hb) (hb _)
  exact hp ra _ _ fun a => hp rb _ _ fun b => .shareLsid h (fun d hd => .engine hd _ _ _ _ _ _) fun d hd =>
    hc d a b _ hd fun d hd => .engine hd _ _ _ _ _ _

theorem Out.Keeps.engineOp {s : State} {i : Instr} {pr : Pred} {ts : List Target} {lsid : Nat} {ra rb : Bool}
    {check : Ctx → Datum → Datum → (Ctx → Out) → Out}
    (hc : ∀ (c : Ctx) a b k, s.FiringKeeps c.s → (∀ d : Ctx, s.FiringKeeps d.s → Out.Keeps s (k d)) → Out.Keeps s (check c a b k)) :
    Out.Keeps s (engineOp s i pr ts lsid ra rb check) := .engineWith hc

theorem Out.Keeps.descOp {s : State} {i : Instr} {pr : Pred} {ts : List Target} {lsid : Nat} {rb : Bool} {n al : Nat} :
    Out.Keeps s (descOp s i pr ts lsid rb n al) :=
  .engineOp fun c _ _ _ h hk => .local h (hk c h)

/-! ### Shared operations of single families -/

theorem State.keeps_modArray {s c : State} (h : s.FiringKeeps c) (core : Nat) (arr : SysArray) (f : SysArray → SysArray) :
    s.FiringKeeps (c.modArray core arr f) := h.trans (State.keeps_modCore _ _ fun _ => rfl)

theorem State.keeps_loadChestRange (s : State) (core slot : Nat) : s.FiringKeeps (s.loadChestRange core slot) := by
  unfold State.loadChestRange
  split
  · exact .refl s
  · refine .trans (State.keeps_modSlot _ core slot ?_) (State.keeps_modCore _ _ ?_)
    · exact fun _ => rfl
    · exact fun _ => rfl

theorem State.keeps_withChestRange {s c : State} (h : s.FiringKeeps c) (core slot : Nat) :
    s.FiringKeeps (c.withChestRange core slot) := by
  unfold State.withChestRange
  split
  · exact h
  · exact h.trans (State.keeps_loadChestRange _ _ _)

theorem State.keeps_chestTake {s c : State} (h : s.FiringKeeps c) (core slot age n : Nat) {put : State → State}
    (hp : ∀ d, s.FiringKeeps d → s.FiringKeeps (put d)) : s.FiringKeeps (c.chestTake core slot age n put) := by
  unfold State.chestTake
  have h1 := State.keeps_withChestRange h core slot
  generalize c.withChestRange core slot = d at h1
  simp only []
  split
  · exact h1
  · split
    · exact hp _ (h1.trans (State.keeps_modSlot _ _ _ fun _ => rfl))
    · exact h1.trans (State.keeps_record _ _ _ _ _)

theorem State.keeps_modArrays {s c : State} (h : s.FiringKeeps c) (core : Nat) (f : List SysArray → List SysArray) :
    s.FiringKeeps (c.modArrays core f) := h.trans (State.keeps_modCore _ _ fun _ => rfl)

theorem State.keeps_admitRows {s c : State} (h : s.FiringKeeps c) (core slot r k : Nat) :
    s.FiringKeeps (c.admitRows core slot r k) := by
  unfold State.admitRows
  have h1 := State.keeps_modArrays h core
  simp only []
  split
  · exact h1 _
  · split
    · exact h1 _
    · exact State.keeps_modArrays (State.keeps_chestTake (h1 _) _ _ _ _ fun d hd => State.keeps_modArrays hd _ _) _ _

theorem State.keeps_newTile {s c : State} (h : s.FiringKeeps c) (core slot age : Nat) (fmt : Fmt) (elems : List Nat)
    (src : Option (Nat × Nat)) (lines : List Nat) : s.FiringKeeps (c.newTile core slot age fmt elems src lines).2 := by
  have := h.trans (State.keeps_draw c (2 ^ 64))
  unfold State.newTile
  exact this.trans (State.keeps_modCore _ _ fun _ => rfl)

theorem Out.Keeps.fork {s : State} {c : Ctx} (h : s.FiringKeeps c.s) (f : FFork) (n b : Nat) : Out.Keeps s (c.fork f n b) := by
  have hd := h.trans (State.keeps_draw c.s (2^32))
  exact .out (Ctx.keeps_mod (c := { c with s := (c.s.draw (2^32)).2 }) hd _) _ _

theorem State.keeps_waitcNone {s c : State} (h : s.FiringKeeps c) (a b d : Nat) (e : Bool) (f : List Target) :
    s.FiringKeeps (c.waitcNone a b d e f) := by
  unfold State.waitcNone; split
  · exact h.trans (State.keeps_emit _ _ _ _ _ _)
  · exact h.trans (State.keeps_record _ _ _ _ _)

theorem State.keeps_waitcEmit {s c : State} (h : s.FiringKeeps c) (a b d e f : Nat) (i : Bool) (j : List Target) (k : Word) :
    s.FiringKeeps (c.waitcEmit a b d e f i j k) := by
  unfold State.waitcEmit
  split
  · exact (h.trans (State.keeps_settleHandle _ _ _)).trans (State.keeps_record _ _ _ _ _)
  · exact (h.trans (State.keeps_readHandle _ _ _)).trans (State.keeps_emit _ _ _ _ _ _)

theorem Out.Keeps.config {s : State} {c : Ctx} (h : s.FiringKeeps c.s) (k : KAct) (ts : List Target) (v : Nat) :
    Out.Keeps s (c.config k ts v) := .out (Ctx.keeps_mod h _) _ _

theorem Out.Keeps.moveLanes {s : State} {c : Ctx} (h : s.FiringKeeps c.s) (ts : List Target) (a : Datum) (w : IW)
    (src : Nat → Nat) : Out.Keeps s (Machine.moveLanes c ts a w src) := .out h _ _

theorem Out.Keeps.palRead {s : State} {c : Ctx} (h : s.FiringKeeps c.s) (w l : Nat) {b : Domain → Out}
    (hb : ∀ d, Out.Keeps s (b d)) : Out.Keeps s (c.palRead w l b) := by
  unfold Ctx.palRead
  exact .need (.ite (.fault h _) (hb _))

end Sys2Proof.Machine
end

