-- ==== Sys2Proof/Laws/Memory.lean ====
section
/-! SUPPORT. Laws of memory: what a write leaves to be read, and that every operation keeps the canonical form. -/

namespace Sys2Proof.Machine

theorem Memory.get_nil (a : Nat) : Memory.get [] a = Memory.blank := rfl

theorem Memory.wfFrom_mono {lo lo' : Nat} {m : Memory} (h : Memory.wfFrom lo m = true) (hle : lo' ≤ lo) :
    Memory.wfFrom lo' m = true := by
  cases m with
  | nil => rfl
  | cons c r =>
    obtain ⟨x, b⟩ := c
    simp only [Memory.wfFrom, Bool.and_eq_true, decide_eq_true_eq] at h ⊢
    exact ⟨⟨by omega, h.1.2⟩, h.2⟩

/-- Below the first address of a canonical memory every byte is blank. -/
theorem Memory.get_below {lo : Nat} {m : Memory} (h : Memory.wfFrom lo m = true) {a : Nat} (ha : a < lo) :
    m.get a = Memory.blank := by
  induction m generalizing lo with
  | nil => rfl
  | cons c r ih =>
    obtain ⟨x, b⟩ := c
    simp only [Memory.wfFrom, Bool.and_eq_true, decide_eq_true_eq] at h
    have hne : ¬ x = a := by omega
    simp only [Memory.get, if_neg hne]
    exact ih h.2 (by omega)

/-- Writing a byte keeps the canonical form. -/
theorem Memory.set_wfFrom {lo : Nat} {m : Memory} (h : Memory.wfFrom lo m = true) {a : Nat} (ha : lo ≤ a) (b : Byte) :
    Memory.wfFrom lo (m.set a b) = true := by
  induction m generalizing lo with
  | nil =>
    simp only [Memory.set]
    split <;> simp_all [Memory.wfFrom]
  | cons c r ih =>
    obtain ⟨x, y⟩ := c
    have h' := h
    simp only [Memory.wfFrom, Bool.and_eq_true, decide_eq_true_eq] at h
    simp only [Memory.set]
    split
    · split
      · exact h'
      · simp_all [Memory.wfFrom]
    · split
      · split
        · exact Memory.wfFrom_mono h.2 (by omega)
        · simp_all [Memory.wfFrom]
      · simp only [Memory.wfFrom, Bool.and_eq_true, decide_eq_true_eq]
        exact ⟨h.1, ih h.2 (by omega)⟩

theorem Memory.set_wf {m : Memory} (h : m.wf = true) (a : Nat) (b : Byte) : (m.set a b).wf = true :=
  Memory.set_wfFrom h (Nat.zero_le a) b

/-- Reading after writing one byte (R4): the byte written, and every other byte as before. -/
theorem Memory.get_set {lo : Nat} {m : Memory} (h : Memory.wfFrom lo m = true) (a : Nat) (b : Byte) (x : Nat) :
    (m.set a b).get x = if x = a then b else m.get x := by
  induction m generalizing lo with
  | nil =>
    simp only [Memory.set]
    split <;> rename_i hb <;> simp [Memory.get, hb, eq_comm]
  | cons c r ih =>
    obtain ⟨y, z⟩ := c
    simp only [Memory.wfFrom, Bool.and_eq_true, decide_eq_true_eq] at h
    simp only [Memory.set]
    split
    · rename_i hlt
      have hr : Memory.get r a = Memory.blank := Memory.get_below h.2 (by omega)
      split
      · rename_i hb
        simp only [Memory.get]
        by_cases hx : x = a
        · subst hx; simp [hr, hb]; omega
        · simp [hx]
      · simp only [Memory.get]
        by_cases hx : x = a
        · simp [hx]
        · simp [hx, Ne.symm hx]
    · split
      · rename_i heq
        subst heq
        have hr : Memory.get r a = Memory.blank := Memory.get_below h.2 (by omega)
        split
        · rename_i hb
          simp only [Memory.get]
          by_cases hx : x = a
          · subst hx; simp [hr, hb]
          · simp [hx, Ne.symm hx]
        · simp only [Memory.get]
          by_cases hx : x = a
          · simp [hx]
          · simp [hx, Ne.symm hx]
      · rename_i hne
        simp only [Memory.get, ih h.2]
        by_cases hx : y = x
        · subst hx; simp; omega
        · simp [hx]

theorem Memory.get_set_same {m : Memory} (h : m.wf = true) (a : Nat) (b : Byte) : (m.set a b).get a = b := by
  simp [Memory.get_set h]

theorem Memory.get_set_other {m : Memory} (h : m.wf = true) {a x : Nat} (b : Byte) (hx : x ≠ a) :
    (m.set a b).get x = m.get x := by
  simp [Memory.get_set h, hx]

theorem Memory.write_wf {m : Memory} (h : m.wf = true) (a n v : Nat) : (m.write a n v).wf = true := by
  induction n generalizing m a v with
  | zero => exact h
  | succ n ih => exact ih (Memory.set_wf h _ _) _ _

/-- A byte outside the bytes written reads as before. -/
theorem Memory.get_write_other {m : Memory} (h : m.wf = true) {a n x : Nat} (v : Nat) (hx : x < a ∨ a + n ≤ x) :
    (m.write a n v).get x = m.get x := by
  induction n generalizing m a v with
  | zero => rfl
  | succ n ih =>
    simp only [Memory.write]
    rw [ih (Memory.set_wf h _ _) _ (by omega), Memory.get_set_other h _ (by omega)]

/-- A value written reads back, little-endian (R4). -/
theorem Memory.read_write {m : Memory} (h : m.wf = true) (a n v : Nat) :
    (m.write a n v).read a n = v % 256 ^ n := by
  induction n generalizing m a v with
  | zero => simp [Memory.read, Nat.mod_one]
  | succ n ih =>
    simp only [Memory.write, Memory.read]
    rw [ih (Memory.set_wf h _ _), Memory.get_write_other (Memory.set_wf h _ _) _ (by omega), Memory.get_set_same h]
    have h256 : 256 ^ (n + 1) = 256 * 256 ^ n := by rw [pow_succ, Nat.mul_comm]
    rw [BitVec.toNat_ofNat, h256, Nat.mod_mul]

/-- Dropping entries keeps the canonical form. -/
theorem Memory.filter_wfFrom {lo : Nat} {m : Memory} (p : Host.Cell → Bool) (h : Memory.wfFrom lo m = true) :
    Memory.wfFrom lo (m.filter p) = true := by
  induction m generalizing lo with
  | nil => rfl
  | cons c r ih =>
    obtain ⟨x, b⟩ := c
    simp only [Memory.wfFrom, Bool.and_eq_true, decide_eq_true_eq] at h
    rw [List.filter_cons]
    split
    · simp only [Memory.wfFrom, Bool.and_eq_true, decide_eq_true_eq]
      exact ⟨h.1, ih h.2⟩
    · exact Memory.wfFrom_mono (ih h.2) (by omega)

theorem Memory.filter_wf {m : Memory} (p : Host.Cell → Bool) (h : m.wf = true) : Memory.wf (m.filter p) = true :=
  Memory.filter_wfFrom p h

/-- A store of the chair's side keeps the canonical form. -/
theorem chairBytes_wf (c : Chair) {m : Memory} (h : m.wf = true) (gpa key n v : Nat) :
    (chairBytes c m gpa key n v).wf = true := by
  induction n generalizing m gpa key v with
  | zero => exact h
  | succ n ih => exact ih (Memory.set_wf h _ _) _ _ _

/-- A store of the chair's side leaves every byte outside it as it was. -/
theorem get_chairBytes_other (c : Chair) {m : Memory} (h : m.wf = true) {gpa key n x : Nat} (v : Nat)
    (hx : x < key ∨ key + n ≤ x) : (chairBytes c m gpa key n v).get x = m.get x := by
  induction n generalizing m gpa key v with
  | zero => rfl
  | succ n ih =>
    simp only [chairBytes]
    rw [ih (Memory.set_wf h _ _) _ (by omega), Memory.get_set_other h _ (by omega)]

/-- A local store keeps the canonical form. -/
theorem writeLocalMem_wf {m : Memory} (h : m.wf = true) (sl : Slot) (off n v : Nat) :
    (writeLocalMem m sl off n v).wf = true := by
  induction n generalizing m off v with
  | zero => exact h
  | succ n ih => exact ih (Memory.set_wf h _ _) _ _

/-- A local store leaves every byte that is none of its bytes as it was. -/
theorem get_writeLocalMem_other {m : Memory} (h : m.wf = true) (sl : Slot) {off n x : Nat} (v : Nat)
    (hx : ∀ j < n, x ≠ sl.localAddr (off + j)) : (writeLocalMem m sl off n v).get x = m.get x := by
  induction n generalizing m off v with
  | zero => rfl
  | succ n ih =>
    simp only [writeLocalMem]
    rw [ih (Memory.set_wf h _ _) _ (fun j hj => by have := hx (j + 1) (by omega); rwa [Nat.add_comm j 1, ← Nat.add_assoc] at this),
      Memory.get_set_other h _ (by simpa using hx 0 (by omega))]

/-- Folding wider writes keeps the canonical form. -/
theorem foldl_write_wf {α : Type} (l : List α) (a n v : α → Nat) {m : Memory} (h : m.wf = true) :
    Memory.wf (l.foldl (fun m x => m.write (a x) (n x) (v x)) m) = true := by
  induction l generalizing m with
  | nil => exact h
  | cons x r ih => exact ih (Memory.write_wf h _ _ _)

/-- Folding single-byte writes keeps the canonical form. -/
theorem foldl_set_wf {α : Type} (l : List α) (a : α → Nat) (b : α → Byte) {m : Memory} (h : m.wf = true) :
    Memory.wf (l.foldl (fun m x => m.set (a x) (b x)) m) = true := by
  induction l generalizing m with
  | nil => exact h
  | cons x r ih => exact ih (Memory.set_wf h _ _)

end Sys2Proof.Machine
end

