-- ==== Sys2Proof/Laws/Operation.lean ====
section
/-! SUPPORT. What issue, commit, a discard, an abort and an emission leave: the block's context, its strand, its committed
order, the other cores, the launches, and memory. -/

namespace Sys2Proof.Machine
open Sys2Proof

/-- Memory is the same on both sides, and the cores are as many. -/
structure State.SameMem (a b : State) : Prop where
  hbm : b.hbm = a.hbm
  len : b.cores.length = a.cores.length
  mem : ∀ c, (b.core c).mem = (a.core c).mem

theorem State.SameMem.rfl' (a : State) : a.SameMem a := ⟨rfl, rfl, fun _ => rfl⟩
theorem State.SameMem.trans {a b c : State} (h : a.SameMem b) (g : b.SameMem c) : a.SameMem c :=
  ⟨g.hbm.trans h.hbm, g.len.trans h.len, fun x => (g.mem x).trans (h.mem x)⟩

theorem State.sameMem_modCore (s : State) (c : Nat) {f : Core → Core} (h : ∀ k, (f k).mem = k.mem) : s.SameMem (s.modCore c f) := by
  refine ⟨rfl, by simp, fun d => ?_⟩
  by_cases hd : d = c
  · subst hd
    by_cases hc : d < s.cores.length
    · rw [State.core_modCore _ _ _ hc, h]
    · rw [State.core_none _ (by simpa using hc), State.core_none _ (by simpa using hc)]
  · rw [State.core_modCore_ne _ _ hd]

theorem State.sameMem_modSlot (s : State) (c i : Nat) (f : Slot → Slot) : s.SameMem (s.modSlot c i f) := s.sameMem_modCore c fun _ => rfl

theorem State.sameMem_foldl {α : Type} {f : State → α → State} (h : ∀ (s : State) a, s.SameMem (f s a)) (l : List α) (s : State) : s.SameMem (l.foldl f s) := by
  induction l generalizing s with
  | nil => exact .rfl' s
  | cons a l ih => exact (h s a).trans (ih _)

theorem State.foldl_slot {α : Type} {f : State → α → State} {c i : Nat} (h : ∀ s a, (f s a).slot? c i = s.slot? c i) (l : List α) (s : State) :
    (l.foldl f s).slot? c i = s.slot? c i := by
  induction l generalizing s with
  | nil => rfl
  | cons a l ih => exact (ih _).trans (h s a)

theorem State.slot?_map (s : State) (f : Core → Core) (h : ∀ k, (f k).slots = k.slots) (c i : Nat) :
    ({ s with cores := s.cores.map f } : State).slot? c i = s.slot? c i := by
  simp only [State.slot?, State.core, Core.slot?, List.getD_eq_getElem?_getD, List.getElem?_map]
  cases s.cores[c]? with
  | none => rfl
  | some k => simp [h]

theorem State.sameMem_map (s : State) (f : Core → Core) (h : ∀ k, (f k).mem = k.mem) : s.SameMem { s with cores := s.cores.map f } := by
  refine ⟨rfl, by simp, fun c => ?_⟩
  simp only [State.core, List.getD_eq_getElem?_getD, List.getElem?_map]
  cases s.cores[c]? with
  | none => rfl
  | some k => simp [h]

/-! issue -/

/-- A slot without the crossing counts of its taps, which STAP steps at issue. -/
def Slot.uncounted (sl : Slot) : Slot := { sl with xcnt := [] }

/-- The memory of a core and its slots, but for their crossing counts. -/
def Core.still (k : Core) : Memory × List (Option Slot) := (k.mem, k.slots.map (Option.map Slot.uncounted))

/-- The memory and the slots of every core, but for crossing counts: what the issue of a command leaves as it is. -/
def State.still (s : State) : List (Memory × List (Option Slot)) := s.cores.map Core.still

theorem List.map_modify_same {α β : Type} {g : α → β} {f : α → α} (h : ∀ x, g (f x) = g x) (l : List α) (n : Nat) :
    (l.modify n f).map g = l.map g := by
  induction l generalizing n with
  | nil => cases n <;> rfl
  | cons a l ih => cases n with
    | zero => simp [h]
    | succ n => simp [ih]

theorem State.still_modCore (s : State) (c : Nat) {f : Core → Core} (h : ∀ k, (f k).still = k.still) : (s.modCore c f).still = s.still :=
  List.map_modify_same h _ _

@[simp] theorem State.still_modChair (s : State) (c : Nat) (f : Chair → Chair) : (s.modChair c f).still = s.still := rfl
@[simp] theorem State.still_modErr (s : State) (c n : Nat) (f : ErrRec → ErrRec) : (s.modErr c n f).still = s.still :=
  s.still_modCore _ fun _ => rfl
@[simp] theorem State.still_perfEvent (s : State) (c ch ev n : Nat) : (s.perfEvent c ch ev n).still = s.still :=
  s.still_modCore _ fun _ => rfl
@[simp] theorem State.still_addEng (s : State) (core : Nat) (e : Eng) : (s.addEng core e).still = s.still := s.still_modCore _ fun _ => rfl

theorem State.still_xcnt (s : State) (c i : Nat) (f : Slot → List Nat) : (s.modSlot c i fun x => { x with xcnt := f x }).still = s.still :=
  s.still_modCore _ fun _ => congrArg (Prod.mk _) (List.map_modify_same (fun o => by cases o <;> rfl) _ _)

theorem State.still_foldl {α : Type} {f : State → α → State} (h : ∀ (s : State) a, (f s a).still = s.still) (l : List α) (s : State) :
    (l.foldl f s).still = s.still := by
  induction l generalizing s with
  | nil => rfl
  | cons a l ih => exact (ih _).trans (h s a)

@[simp] theorem State.still_noteUe (s : State) (x : Fail) : (s.noteUe x).still = s.still :=
  (State.still_foldl (fun r _ => r.still_modErr _ _ _) _ _).trans rfl
@[simp] theorem State.still_noteGrant (s : State) (a : Nat) : (s.noteGrant a).still = s.still := rfl
@[simp] theorem State.still_setBinding (s : State) (ch n : Nat) (b : Option Binding) : (s.setBinding ch n b).still = s.still := rfl

@[simp] theorem Eng.still_stop (e : Eng) (s : State) (x : Fail) (n : Nat) : (e.stop s x n).1.still = s.still := s.still_noteUe x

theorem Eng.still_readDesc (e : Eng) (s : State) (core : Nat) (sl : Slot) (n : Nat) {k : Eng → EngOut}
    (h : ∀ e, (k e).1.still = s.still) : (e.readDesc s core sl n k).1.still = s.still := by
  unfold Eng.readDesc
  dsimp only
  split
  · exact e.still_stop _ _ _
  · exact h _

theorem still_evalStap (s : State) (core : Nat) (sl : Slot) (f : FStap) (e : Eng) (key : Nat) : (evalStap s core sl f e key).1.still = s.still := by
  unfold evalStap
  dsimp only
  generalize hs : (if bit e.tap 0 = true then s.noteGrant ((s.chair sl.chair).probeByte (bits e.tap 4 12)) else s) = r
  have hr : r.still = s.still := by rw [← hs]; split <;> rfl
  rw [← hr]
  repeat' split
  all_goals first
    | exact Eng.still_stop _ _ _ _
    | rfl
    | exact (State.still_perfEvent _ _ _ _ _).trans (State.still_xcnt _ _ _ _)

/-- What a command does at issue leaves every slot as it is, but for the crossing counts of its taps. -/
theorem still_startEng (s : State) (core : Nat) (sl : Slot) (e : Eng) : (startEng s core sl e).1.still = s.still := by
  unfold startEng
  split
  case h_1 | h_2 | h_3 | h_6 | h_8 | h_10 | h_13 | h_14 =>
    refine e.still_readDesc _ _ _ _ fun e => ?_
    try dsimp only
    repeat' split
    all_goals first | exact Eng.still_stop _ _ _ _ | rfl
  case h_7 | h_11 | h_12 =>
    simp only [startLaunch, startPatch, startStap]
    repeat' split
    all_goals first | exact Eng.still_stop _ _ _ _ | exact still_evalStap _ _ _ _ _ _ | rfl
  all_goals rfl

/-- Memory of a core set. -/
def memSet (m : Memory) (x : Memory × List (Option Slot)) : Memory × List (Option Slot) := (m, x.2)

theorem State.still_setMem (s : State) (core : Nat) {f : Core → Core} {m : Memory} (h : (f (s.core core)).mem = m)
    (hs : ∀ k, (f k).slots = k.slots) : (s.modCore core f).still = s.still.modify core (memSet m) := by
  refine List.ext_getElem? fun n => ?_
  simp only [State.still, State.modCore, List.getElem?_map, List.getElem?_modify]
  cases hn : s.cores[n]? with
  | none => simp
  | some k =>
    by_cases hc : core = n
    · subst hc
      have : s.core core = k := by simp [State.core, List.getD_eq_getElem?_getD, hn]
      rw [this] at h
      simp [Core.still, memSet, h, hs]
    · simp [hc]

theorem modify_memSet (l : List (Memory × List (Option Slot))) (c : Nat) (a b : Memory) :
    (l.modify c (memSet a)).modify c (memSet b) = l.modify c (memSet b) := by
  rw [List.modify_modify_eq]; rfl

theorem State.still_core (s : State) (core : Nat) : s.still.modify core (memSet (s.core core).mem) = s.still := by
  have := s.still_setMem core (f := id) (m := (s.core core).mem) rfl fun _ => rfl
  rw [← this]
  exact s.still_modCore _ fun _ => rfl

theorem foldl_keeps {α : Type} {P : State → Prop} {f : State → α → State} (h : ∀ s a, P s → P (f s a)) (l : List α) (s : State)
    (hs : P s) : P (l.foldl f s) := by
  induction l generalizing s with
  | nil => exact hs
  | cons a l ih => exact ih _ (h s a hs)

theorem State.still_storeLocal (s : State) (core : Nat) (sl : Slot) (off n v : Nat) :
    ∃ m, (s.storeLocal core sl off n v).still = s.still.modify core (memSet m) := by
  refine ⟨writeLocalMem (s.core core).mem sl off n v, State.still_setMem _ _ ?_ ?_⟩
  · rfl
  · intro _; rfl

theorem State.still_withMemory (s t : State) (core : Nat) :
    (s.withMemory t core).still = s.still.modify core (memSet (t.core core).mem) := by
  refine State.still_setMem s _ ?_ ?_
  · rfl
  · intro _; rfl

theorem State.still_seeing (s : State) (core : Nat) (sl : Slot) (ps : List PStore) :
    ∃ m, (s.seeing core sl ps).still = s.still.modify core (memSet m) := by
  refine foldl_keeps (P := fun r => ∃ m, r.still = s.still.modify core (memSet m)) (fun r p hr => ?_) _ _
    ⟨_, (s.still_core core).symm⟩
  obtain ⟨m, hm⟩ := hr
  split
  · obtain ⟨m', h⟩ := r.still_storeLocal core sl p.va p.bytes p.data.toNat
    exact ⟨m', by rw [h, hm, modify_memSet]⟩
  · split
    · split
      · exact ⟨m, hm⟩
      · exact ⟨m, hm⟩
    · exact ⟨m, hm⟩

theorem State.drawPart_snd (s : State) (l : List PStore) : ∃ n, (s.drawPart l).2 = { s with freeCtr := n } := by
  induction l generalizing s with
  | nil => exact ⟨s.freeCtr, rfl⟩
  | cons p l ih =>
    obtain ⟨n, h⟩ := ih (s.draw 2).2
    exact ⟨n, h⟩

theorem State.seenBy_snd (s : State) (sl : Slot) (e : Eng) : ∃ n, (s.seenBy sl e).2 = { s with freeCtr := n } := by
  unfold State.seenBy
  split
  · exact ⟨s.freeCtr, rfl⟩
  · exact s.drawPart_snd _

theorem State.still_issueEng (s : State) (core : Nat) (sl : Slot) (e : Eng) :
    (s.issueEng core sl e).1.still = s.still ∧ (s.issueEng core sl e).1.hbm = s.hbm := by
  obtain ⟨n, h⟩ := s.seenBy_snd sl e
  unfold State.issueEng
  generalize s.seenBy sl e = q at h
  obtain ⟨ps, r⟩ := q
  have hr : r = { s with freeCtr := n } := h
  subst hr
  obtain ⟨m, hm⟩ := ({ s with freeCtr := n } : State).still_seeing core sl ps
  refine ⟨(State.still_withMemory _ _ core).trans ?_, rfl⟩
  rw [still_startEng, hm, modify_memSet]
  exact s.still_core core

/-- The issue of a command leaves every slot as it is, but for the crossing counts of its taps. -/
theorem State.still_issue (s : State) (core slot : Nat) (sl : Slot) (i : Inst) (t : Strand) (p : PEng) :
    (s.issue core slot sl i t p).still = s.still := by
  unfold State.issue State.issueOrHold
  dsimp only
  split
  · rw [State.still_perfEvent, State.still_addEng, (State.still_issueEng _ _ _ _).1]; rfl
  · rw [State.still_addEng]; rfl

theorem State.still_slot (s : State) (c i : Nat) :
    (s.slot? c i).map Slot.uncounted = (s.still.getD c Core.reset.still).2.getD i none := by
  rw [State.still, List.getD_map, Core.still]
  exact (List.getD_map _ none (Option.map Slot.uncounted)).symm

theorem State.slot_of_still {s u : State} (h : u.still = s.still) {c i : Nat} {sl : Slot} (hs : s.slot? c i = some sl) :
    ∃ x, u.slot? c i = some { sl with xcnt := x } := by
  have h' := u.still_slot c i
  rw [h, ← s.still_slot, hs] at h'
  cases hu : u.slot? c i with
  | none => rw [hu] at h'; cases h'
  | some x =>
    rw [hu] at h'
    have h2 : x.uncounted = sl.uncounted := Option.some.inj h'
    refine ⟨x.xcnt, congrArg some ?_⟩
    have := congrArg (fun y : Slot => { y with xcnt := x.xcnt }) h2
    exact this

theorem State.sameMem_of_still {s u : State} (h : u.still = s.still) (hb : u.hbm = s.hbm) : s.SameMem u := by
  refine ⟨hb, by simpa [State.still] using congrArg List.length h, fun c => ?_⟩
  have := congrArg (fun l => (l.getD c Core.reset.still).1) h
  simp only [State.still, List.getD_map] at this
  exact this

theorem State.hbm_counted (s : State) (core : Nat) (e : Eng) (ch ev n : Nat) : ((s.addEng core e).perfEvent core ch ev n).hbm = s.hbm := rfl

theorem State.issue_hbm (s : State) (core slot : Nat) (sl : Slot) (i : Inst) (t : Strand) (p : PEng) :
    (s.issue core slot sl i t p).hbm = s.hbm := by
  unfold State.issue State.issueOrHold
  dsimp only
  split
  · rw [State.hbm_counted, (State.still_issueEng _ _ _ _).2]
  · rfl

theorem State.sameMem_issue (s : State) (core slot : Nat) (sl : Slot) (i : Inst) (t : Strand) (p : PEng) :
    s.SameMem (s.issue core slot sl i t p) :=
  State.sameMem_of_still (s.still_issue _ _ _ _ _ _) (s.issue_hbm _ _ _ _ _ _)

/-! discard -/
theorem State.slot?_withDressers (s : State) (d : List DEntry) (c i : Nat) : ({ s with dressers := d } : State).slot? c i = s.slot? c i := rfl
theorem State.SameMem.withDressers {a b : State} (h : a.SameMem b) (d : List DEntry) : a.SameMem { b with dressers := d } := ⟨h.hbm, h.len, h.mem⟩

/-- What discards may take from a context: blocks, grants, and fork records that a discarded block has joined. -/
structure Slot.Thin (a b : Slot) : Prop where
  rest : ({ b with insts := [], grants := [], forks := [] } : Slot) = { a with insts := [], grants := [], forks := [] }
  insts : ∀ j ∈ b.insts, j ∈ a.insts
  forks : ∀ r ∈ a.forks, r.joined = [] → r ∈ b.forks
  known : ∀ r ∈ b.forks, ∃ q ∈ a.forks, r = { q with joined := r.joined }

theorem Slot.Thin.rfl' (a : Slot) : a.Thin a := ⟨rfl, fun _ h => h, fun _ h _ => h, fun r h => ⟨r, h, rfl⟩⟩
theorem Slot.Thin.trans {a b c : Slot} (h : a.Thin b) (g : b.Thin c) : a.Thin c :=
  ⟨g.rest.trans h.rest, fun j hj => h.insts j (g.insts j hj), fun r hr h0 => g.forks r (h.forks r hr h0) h0,
    fun r hr => by
      obtain ⟨q, hq, e⟩ := g.known r hr
      obtain ⟨p, hp, e'⟩ := h.known q hq
      exact ⟨p, hp, by rw [e, e']⟩⟩

theorem Slot.thin_unjoin (sl : Slot) (age : Nat) : sl.Thin (sl.unjoin age) := by
  refine ⟨rfl, fun _ h => h, fun r hr h0 => ?_, fun r hr => ?_⟩
  · simp only [Slot.unjoin, List.mem_map, List.mem_filter]
    exact ⟨r, ⟨hr, by simp [h0]⟩, by cases r; simp_all⟩
  · obtain ⟨q, hq, e⟩ := List.mem_map.mp hr
    exact ⟨q, List.mem_of_mem_filter hq, by rw [← e]⟩

theorem State.settleHandle_keeps (s : State) (chair h : Nat) :
    (∀ c i, (s.settleHandle chair h).slot? c i = s.slot? c i) ∧ s.SameMem (s.settleHandle chair h) := by
  unfold State.settleHandle State.modHandle
  split
  · exact ⟨fun _ _ => rfl, .rfl' s⟩
  · dsimp only
    split
    · exact ⟨fun _ _ => State.slot?_modCore _ _ _ _ _ rfl, s.sameMem_modCore _ fun _ => rfl⟩
    · exact ⟨fun _ _ => rfl, rfl, rfl, fun _ => rfl⟩

theorem State.settleWaits_keeps (s : State) (chair : Nat) (l : List Inst) :
    (∀ c i, (s.settleWaits chair l).slot? c i = s.slot? c i) ∧ s.SameMem (s.settleWaits chair l) := by
  refine foldl_keeps (P := fun r => (∀ c i, r.slot? c i = s.slot? c i) ∧ s.SameMem r) (fun r i hr => ?_) _ _ ⟨fun _ _ => rfl, .rfl' s⟩
  refine foldl_keeps (P := fun r => (∀ c i, r.slot? c i = s.slot? c i) ∧ s.SameMem r) (fun r w hr => ?_) _ _ hr
  split
  · obtain ⟨h1, h2⟩ := r.settleHandle_keeps chair ‹_›
    exact ⟨fun c i => (h1 c i).trans (hr.1 c i), hr.2.trans h2⟩
  · exact hr

theorem State.discard_slot {s : State} {core slot age : Nat} {sl : Slot} (h : s.slot? core slot = some sl) :
    ∃ sl', (s.discard core slot age).slot? core slot = some sl' ∧ sl.Thin sl' := by
  unfold State.discard
  rw [h]; dsimp only
  split
  · exact ⟨sl, h, .rfl' sl⟩
  · rw [State.slot?_perfEvent]
    refine ⟨({ sl with insts := sl.insts.filter (·.age ≠ age) } : Slot).unjoin age, ?_, ?_⟩
    · rw [(State.settleWaits_keeps _ _ _).1, State.slot?_modSlot, State.slot?_withDressers, State.slot?_modCore _ _ _ _ _ rfl, h]; rfl
    · obtain ⟨h1, h2, h3, h4⟩ := Slot.thin_unjoin { sl with insts := sl.insts.filter (·.age ≠ age) } age
      exact ⟨h1, fun j hj => List.mem_of_mem_filter (h2 j hj), h3, h4⟩

theorem State.sameMem_discard (s : State) (core slot age : Nat) : s.SameMem (s.discard core slot age) := by
  unfold State.discard
  split
  · exact .rfl' s
  · split
    · exact .rfl' s
    · refine (((State.sameMem_modCore _ _ ?_).withDressers _).trans (State.sameMem_modSlot _ _ _ _)).trans
        ((State.settleWaits_keeps _ _ _).2.trans (State.sameMem_modCore _ _ ?_)) <;> (intro _; rfl)

theorem State.discardFrom_slot {s : State} {core slot uid age : Nat} {sl : Slot} (h : s.slot? core slot = some sl) :
    ∃ sl', (s.discardFrom core slot uid age).slot? core slot = some sl' ∧ sl.Thin sl' := by
  unfold State.discardFrom
  rw [h]; dsimp only
  have key : ∀ (l : List Inst) (s : State) (sl : Slot), s.slot? core slot = some sl →
      ∃ sl', (l.foldl (fun s i => s.discard core slot i.age) s).slot? core slot = some sl' ∧ sl.Thin sl' := by
    intro l
    induction l with
    | nil => exact fun s sl h => ⟨sl, h, .rfl' sl⟩
    | cons a l ih =>
      intro s sl h
      obtain ⟨x, h1, h2⟩ := State.discard_slot (age := a.age) h
      obtain ⟨y, h3, h4⟩ := ih _ _ h1
      exact ⟨y, h3, h2.trans h4⟩
  obtain ⟨x, h1, h2⟩ := key _ s sl h
  refine ⟨{ x with grants := x.grants.filter (·.uid ≠ uid) }, ?_, h2.trans ⟨rfl, fun _ h => h, fun _ h _ => h, fun r h => ⟨r, h, rfl⟩⟩⟩
  rw [State.slot?_modSlot, h1]; rfl

theorem State.sameMem_discardFrom (s : State) (core slot uid age : Nat) : s.SameMem (s.discardFrom core slot uid age) := by
  unfold State.discardFrom
  split
  · exact .rfl' s
  · exact (State.sameMem_foldl (fun s i => State.sameMem_discard s _ _ _) _ _).trans (State.sameMem_modSlot _ _ _ _)

theorem State.dropCode_slot (s : State) (core : Nat) (sl : Slot) (sc : Scope) (c i : Nat) : (s.dropCode core sl sc).slot? c i = s.slot? c i := by
  unfold State.dropCode
  dsimp only
  split
  · exact State.slot?_modCore _ _ _ _ _ rfl
  · exact State.slot?_modCore _ _ _ _ _ rfl
  · refine State.slot?_map s _ ?_ _ _; intro _; rfl

theorem State.sameMem_dropCode (s : State) (core : Nat) (sl : Slot) (sc : Scope) : s.SameMem (s.dropCode core sl sc) := by
  unfold State.dropCode
  dsimp only
  split
  · exact State.sameMem_modCore _ _ fun _ => rfl
  · exact State.sameMem_modCore _ _ fun _ => rfl
  · exact s.sameMem_map _ fun _ => rfl


/-! csr writes -/
theorem find?_strand_map {l : List Strand} {uid : Nat} {f : Strand → Strand} (hf : ∀ x, (f x).uid = x.uid) :
    (l.map fun x => if x.uid = uid then f x else x).find? (·.uid = uid) = (l.find? (·.uid = uid)).map f := by
  induction l with
  | nil => rfl
  | cons a l ih =>
    by_cases h : a.uid = uid
    · have : (f a).uid = uid := (hf a).trans h
      simp [h, this]
    · simp only [List.map_cons, h, if_false]
      rw [List.find?_cons_of_neg (by simpa using h), List.find?_cons_of_neg (by simpa using h), ih]

theorem State.modStrand_slot {s : State} {c i uid : Nat} {sl : Slot} (h : s.slot? c i = some sl) (f : Strand → Strand) :
    (s.modStrand c i uid f).slot? c i = some { sl with strands := sl.strands.map fun x => if x.uid = uid then f x else x } := by
  rw [State.modStrand, State.slot?_modSlot, h]; rfl

/-- What the CSR and tap writes of a block keep. -/
structure Slot.CsrKeeps (a b : Slot) (uid : Nat) : Prop where
  insts : b.insts = a.insts
  post : b.post = a.post
  forks : b.forks = a.forks
  ending : b.ending = a.ending
  strand : (a.strand? uid).isSome → (b.strand? uid).isSome
  chair : b.chair = a.chair

theorem State.csrWrite_slot {s : State} {core slot uid : Nat} {sl : Slot} (h : s.slot? core slot = some sl) (c : Csr) (v : Word) :
    ∃ sl', (s.csrWrite core slot uid c v).slot? core slot = some sl' ∧ sl.CsrKeeps sl' uid := by
  have hr : sl.CsrKeeps sl uid := ⟨rfl, rfl, rfl, rfl, id, rfl⟩
  have hm : ∀ f : Slot → Slot, (s.modSlot core slot f).slot? core slot = some (f sl) := fun f => by rw [State.slot?_modSlot, h]; rfl
  have hst : ∀ f : Strand → Strand, (∀ x, (f x).uid = x.uid) → ∃ sl', (s.modStrand core slot uid f).slot? core slot = some sl' ∧ sl.CsrKeeps sl' uid := by
    intro f hf
    refine ⟨_, State.modStrand_slot h f, rfl, rfl, rfl, rfl, ?_, rfl⟩
    intro hx
    simp only [Slot.strand?] at hx ⊢
    rw [find?_strand_map hf]; simpa using hx
  unfold State.csrWrite
  rw [h]
  cases c
  case ctxpri => exact ⟨_, hm _, rfl, rfl, rfl, rfl, id, rfl⟩
  case cabq => exact ⟨_, hm _, rfl, rfl, rfl, rfl, id, rfl⟩
  case trapv => exact ⟨_, hm _, rfl, rfl, rfl, rfl, id, rfl⟩
  case traps => exact hst _ fun _ => rfl
  case trapba => exact hst _ fun _ => rfl
  all_goals exact ⟨sl, h, hr⟩

theorem State.sameMem_csrWrite (s : State) (core slot uid : Nat) (c : Csr) (v : Word) : s.SameMem (s.csrWrite core slot uid c v) := by
  unfold State.csrWrite
  split
  · exact .rfl' s
  · dsimp only
    split
    all_goals first | exact State.sameMem_modSlot _ _ _ _ | exact .rfl' s

theorem State.csrWrites_slot {s : State} {core slot uid : Nat} {sl : Slot} (h : s.slot? core slot = some sl) (i : Inst) :
    ∃ sl', (s.csrWrites core slot uid i).slot? core slot = some sl' ∧ sl.CsrKeeps sl' uid ∧
      ((∀ k c v, (k, KAct.csr c v) ∉ i.actsInOrder) → sl'.strands = sl.strands) := by
  unfold State.csrWrites
  generalize i.actsInOrder = l
  induction l generalizing s sl with
  | nil => exact ⟨sl, h, ⟨rfl, rfl, rfl, rfl, id, rfl⟩, fun _ => rfl⟩
  | cons a l ih =>
    simp only [List.foldl_cons]
    obtain ⟨k, a⟩ := a
    have base : ∀ (s1 : State) (sl1 : Slot), s1.slot? core slot = some sl1 → sl.CsrKeeps sl1 uid →
        ((∀ c v, a ≠ KAct.csr c v) → sl1.strands = sl.strands) → 
        ∃ sl', (l.foldl (fun s a => match a.2 with
          | .csr c v => s.csrWrite core slot uid c v
          | .tapcfg n v => s.modSlot core slot fun x => { x with taps := x.taps.set n v, xcnt := x.xcnt.set n 0 }
          | _ => s) s1).slot? core slot = some sl' ∧ sl.CsrKeeps sl' uid ∧
        ((∀ k' c v, (k', KAct.csr c v) ∉ (k, a) :: l) → sl'.strands = sl.strands) := by
      intro s1 sl1 h1 h2 h3
      obtain ⟨sl', h4, h5, h6⟩ := ih h1
      refine ⟨sl', h4, ⟨h5.insts.trans h2.insts, h5.post.trans h2.post, h5.forks.trans h2.forks, h5.ending.trans h2.ending, fun h => h5.strand (h2.strand h), h5.chair.trans h2.chair⟩, ?_⟩
      intro hno
      rw [h6 fun k' c v hm => hno k' c v (List.mem_cons_of_mem _ hm), h3]
      intro c v he
      exact hno k c v (by rw [he]; exact List.mem_cons_self)
    cases a
    case csr c v =>
      obtain ⟨x, h1, h2⟩ := State.csrWrite_slot (uid := uid) h c v
      exact base _ x h1 h2 fun hn => absurd rfl (hn c v)
    case tapcfg n v =>
      refine base _ { sl with taps := sl.taps.set n v, xcnt := sl.xcnt.set n 0 } ?_ ⟨rfl, rfl, rfl, rfl, id, rfl⟩ fun _ => rfl
      show (State.modSlot _ _ _ _).slot? core slot = _
      rw [State.slot?_modSlot, h]; rfl
    all_goals exact base s sl h ⟨rfl, rfl, rfl, rfl, id, rfl⟩ fun _ => rfl

theorem State.sameMem_csrWrites (s : State) (core slot uid : Nat) (i : Inst) : s.SameMem (s.csrWrites core slot uid i) := by
  refine State.sameMem_foldl (fun s a => ?_) _ _
  split
  · exact State.sameMem_csrWrite _ _ _ _ _ _
  · exact State.sameMem_modSlot _ _ _ _
  · exact .rfl' s

/-! strand acts -/
theorem State.strandActs_slot {s : State} {core slot : Nat} {sl : Slot} (h : s.slot? core slot = some sl) (i : Inst) (t : Strand) :
    ∃ sl', (s.strandActs core slot i t).slot? core slot = some sl' ∧ sl' = { sl with forks := sl'.forks } := by
  unfold State.strandActs
  generalize i.actsInOrder = l
  induction l generalizing s sl with
  | nil => exact ⟨sl, h, rfl⟩
  | cons a l ih =>
    simp only [List.foldl_cons]
    obtain ⟨k, a⟩ := a
    have base : ∀ (s1 : State) (sl1 : Slot), s1.slot? core slot = some sl1 → sl1 = { sl with forks := sl1.forks } → 
        ∃ sl', (l.foldl (fun s a => match a.2 with
          | .fork n b ba h =>
            let spawn := match i.instr a.1 with | some (.spawn _) => true | _ => false
            s.modSlot core slot fun sl => sl.addFork t spawn n b ba h
          | .contribute v => match i.instr a.1 with
            | some (.redt f) => s.modSlot core slot fun sl => sl.contribute t f.op v
            | _ => s
          | .release h => s.modSlot core slot fun sl =>
              { sl with forks := sl.forks.filter fun r => !(decide (r.handle = h) && r.joined.head? == some i.age) }
          | _ => s) s1).slot? core slot = some sl' ∧ sl' = { sl with forks := sl'.forks } := by
      intro s1 sl1 h1 h2
      obtain ⟨sl', h3, h4⟩ := ih h1
      exact ⟨sl', h3, by rw [h4, h2]⟩
    have hm : ∀ f : Slot → Slot, (s.modSlot core slot f).slot? core slot = some (f sl) := fun f => by rw [State.slot?_modSlot, h]; rfl
    cases a
    case fork n b ba hd => exact base _ _ (hm _) rfl
    case release hd => exact base _ _ (hm _) rfl
    case contribute v =>
      dsimp only
      split
      · exact base _ _ (hm _) rfl
      · exact base s sl h rfl
    all_goals exact base s sl h rfl

theorem State.sameMem_strandActs (s : State) (core slot : Nat) (i : Inst) (t : Strand) : s.SameMem (s.strandActs core slot i t) := by
  refine State.sameMem_foldl (fun s a => ?_) _ _
  split
  · exact State.sameMem_modSlot _ _ _ _
  · split
    · exact State.sameMem_modSlot _ _ _ _
    · exact .rfl' s
  · exact State.sameMem_modSlot _ _ _ _
  · exact .rfl' s

/-! the checks -/
theorem State.rewalks_known {s : State} {core : Nat} {sl : Slot} {user : Bool} {l : List PStore}
    (h : ∀ p ∈ l, p.loc = true ∨ p.phys.isSome = true) : s.rewalks core sl user l = (s, none, l) := by
  induction l with
  | nil => rfl
  | cons p l ih =>
    have hp : (p.loc || p.phys.isSome) = true := by simpa using h p List.mem_cons_self
    simp only [State.rewalks, State.rewalk, hp, if_true, ih fun q hq => h q (List.mem_cons_of_mem _ hq)]

theorem State.mapDressers_id {s : State} {f : DEntry → DEntry} (h : ∀ d ∈ s.dressers, f d = d) : { s with dressers := s.dressers.map f } = s := by
  have : s.dressers.map f = s.dressers := by
    conv => rhs; rw [← List.map_id s.dressers]
    exact List.map_congr_left h
  rw [this]

theorem State.commitChain_none {s : State} {core slot age : Nat} (h : s.reservations core slot age = []) (ps : List PStore) :
    s.commitChain core slot age ps = s := by
  unfold State.commitChain
  refine State.mapDressers_id fun d hd => ?_
  rw [if_neg]
  intro hh
  have : d ∈ s.reservations core slot age := by
    simp only [State.reservations, List.mem_filter, Bool.and_eq_true, decide_eq_true_eq]
    exact ⟨hd, ⟨hh.1, hh.2.1⟩, hh.2.2⟩
  rw [h] at this; exact absurd this List.not_mem_nil

theorem Inst.mem_storesInOrder {i : Inst} {p : PStore} : p ∈ i.storesInOrder ↔ p ∈ i.stores ∧ p.lsid < 32 := by
  simp only [Inst.storesInOrder, List.mem_flatMap, List.mem_range, List.mem_filter, decide_eq_true_eq]
  constructor
  · rintro ⟨l, h1, h2, h3⟩; exact ⟨h2, h3 ▸ h1⟩
  · rintro ⟨h1, h2⟩; exact ⟨_, h2, h1, rfl⟩

theorem applyWs_uid (t : Strand) (i : Inst) : (applyWs t i).uid = t.uid := by
  unfold applyWs
  generalize i.ws = l
  induction l generalizing t with
  | nil => rfl
  | cons a l ih =>
    simp only [List.foldl_cons, ih]
    split
    · cases ‹RegName› <;> rfl
    · rfl
theorem applyWs_fork (t : Strand) (i : Inst) : (applyWs t i).fork = t.fork ∧ (applyWs t i).iter = t.iter ∧ (applyWs t i).tag = t.tag ∧ (applyWs t i).traps = t.traps := by
  unfold applyWs
  generalize i.ws = l
  induction l generalizing t with
  | nil => exact ⟨rfl, rfl, rfl, rfl⟩
  | cons a l ih =>
    simp only [List.foldl_cons, ih]
    split
    · cases ‹RegName› <;> exact ⟨rfl, rfl, rfl, rfl⟩
    · exact ⟨rfl, rfl, rfl, rfl⟩

theorem State.sameMem_perfEvent (s : State) (c ch ev n : Nat) : s.SameMem (s.perfEvent c ch ev n) := s.sameMem_modCore _ fun _ => rfl

theorem State.promote_keeps (s : State) (core slot uid : Nat) :
    (∀ c i, (s.promote core slot uid).slot? c i = s.slot? c i) ∧ s.SameMem (s.promote core slot uid) := by
  unfold State.promote
  split
  · exact ⟨fun _ _ => State.slot?_modCore _ _ _ _ _ rfl, s.sameMem_modCore _ fun _ => rfl⟩
  · exact ⟨fun _ _ => rfl, .rfl' s⟩

theorem State.countRows_keeps (s : State) (core slot chair age : Nat) :
    (∀ c i, (s.countRows core slot chair age).slot? c i = s.slot? c i) ∧ s.SameMem (s.countRows core slot chair age)
      ∧ (s.countRows core slot chair age).chairs = s.chairs := by
  refine foldl_keeps (P := fun r => (∀ c i, r.slot? c i = s.slot? c i) ∧ s.SameMem r ∧ r.chairs = s.chairs) (fun r a hr => ?_) _ _
    ⟨fun _ _ => rfl, .rfl' s, rfl⟩
  split
  · exact ⟨fun c i => by rw [State.slot?_perfEvent, State.slot?_perfEvent, hr.1],
      (hr.2.1.trans (State.sameMem_perfEvent _ _ _ _ _)).trans (State.sameMem_perfEvent _ _ _ _ _), hr.2.2⟩
  · exact hr

/-- From step 4 on: the block leaves, and what R32 discards; nothing else of its context changes. -/
theorem State.commit_tail {s : State} {core slot : Nat} {x sl : Slot} {i : Inst} (h : s.slot? core slot = some x) (codes : List OrderMark)
    (keep : Bool) :
    let s1 := s.modCore core (·.dropBlock slot i.age)
    let s2 := s1.modSlot core slot fun x => { x with insts := x.insts.filter (·.age ≠ i.age) }
    let s3 := codes.foldl (fun s f => s.dropCode core sl f.sc) s2
    let s4 := if keep then s3 else s3.discardFrom core slot i.uid i.age
    let u := (s4.promote core slot i.uid).perfEvent core sl.chair 0x02 1
    s.SameMem u ∧ ∃ sl', u.slot? core slot = some sl' ∧ sl'.inst? i.age = none ∧ x.Thin sl' := by
  intro s1 s2 s3 s4 u
  have m1 : s.SameMem s1 := State.sameMem_modCore _ _ fun _ => rfl
  have h1 : s1.slot? core slot = some x := by rw [State.slot?_modCore _ _ _ _ _ rfl, h]
  have m2 : s.SameMem s2 := m1.trans (State.sameMem_modSlot _ _ _ _)
  have h2 : s2.slot? core slot = some { x with insts := x.insts.filter (·.age ≠ i.age) } := by rw [State.slot?_modSlot, h1]; rfl
  have m3 : s.SameMem s3 := m2.trans (State.sameMem_foldl (fun s a => State.sameMem_dropCode s _ _ _) _ _)
  have h3 : s3.slot? core slot = some { x with insts := x.insts.filter (·.age ≠ i.age) } := by
    rw [← h2]; exact State.foldl_slot (fun s a => State.dropCode_slot _ _ _ _ _ _) _ _
  obtain ⟨y, h4, ht⟩ : ∃ y, s4.slot? core slot = some y ∧ Slot.Thin { x with insts := x.insts.filter (·.age ≠ i.age) } y := by
    by_cases hk : keep
    · simp only [s4, hk, if_true]; exact ⟨_, h3, .rfl' _⟩
    · simp only [s4, hk]; exact State.discardFrom_slot h3
  have m4 : s.SameMem s4 := by
    by_cases hk : keep
    · simp only [s4, hk, if_true]; exact m3
    · simp only [s4, hk]; exact m3.trans (State.sameMem_discardFrom _ _ _ _ _)
  obtain ⟨p1, p2⟩ := s4.promote_keeps core slot i.uid
  refine ⟨(m4.trans p2).trans (State.sameMem_modCore _ _ fun _ => rfl), y, by rw [State.slot?_perfEvent, p1, h4], ?_, ?_⟩
  · refine List.find?_eq_none.mpr fun j hj => ?_
    simpa using (List.mem_filter.mp (ht.insts j hj)).2
  · exact ⟨ht.rest, fun j hj => (List.mem_filter.mp (ht.insts j hj)).1, ht.forks, ht.known⟩

theorem Inst.actsInOrder_one {i : Inst} {k : Nat} {x : KAct} (hk : k < 128) (h : i.kacts = [(k, x)]) : i.actsInOrder = [(k, x)] := by
  unfold Inst.actsInOrder
  rw [h]
  have : ∀ n, k < n → (List.range n).flatMap (fun j => [(k, x)].filter (·.1 = j)) = [(k, x)] := by
    intro n
    induction n with
    | zero => intro h; omega
    | succ n ih =>
      intro h
      rw [List.range_succ, List.flatMap_append]
      by_cases hn : k = n
      · subst hn
        rw [List.flatMap_eq_nil_iff.mpr (fun j hj => by simp [(List.mem_range.mp hj).ne'])]
        simp
      · rw [ih (by omega)]; simp [hn]
  exact this 128 hk

theorem Inst.mem_actsInOrder {i : Inst} {a : Nat × KAct} (h : a ∈ i.actsInOrder) : a ∈ i.kacts := by
  simp only [Inst.actsInOrder, List.mem_flatMap] at h
  obtain ⟨_, _, h⟩ := h
  exact List.mem_of_mem_filter h

/-- What steps 2 to 5 of a commit leave: memory as it was, and of the block's context what its CSR writes, forks and exit make
of it; `slC` is the context after step 2, `slD` after step 3. -/
theorem State.commit_leaves {s : State} {core slot : Nat} {sl : Slot} {i : Inst} {t : Strand} {e : ExitRec}
    (hs : s.slot? core slot = some sl) (ht : sl.strand? i.uid = some t) (he : i.exits = [e]) :
    let u := s.commit core slot sl i
    s.SameMem u ∧ ∃ (slC : Slot) (t4 : Strand) (slD slE sl' : Slot),
      u.slot? core slot = some sl' ∧ sl'.inst? i.age = none ∧ slE.Thin sl' ∧
      slD = ({ slC with forks := slD.forks, xcnt := slD.xcnt } : Slot) ∧
      slC.post = sl.post ∧ slC.forks = sl.forks ∧ slC.ending = sl.ending ∧ slC.strand? i.uid = some t4 ∧
      ((∀ k c v, (k, KAct.csr c v) ∉ i.kacts) → t4 = i.regsAfter t) ∧
      (∀ t', t4.exitTo i e = some t' → slE = { slD with strands := slD.strands.map fun (x : Strand) => if x.uid = i.uid then t' else x }) ∧
      (t4.exitTo i e = none → slE = slD.endStrand t4) ∧
      (∀ k < 128, ∀ c v, i.kacts = [(k, .csr c v)] → (c = .trapv → slC.trapv = BitVec.ofNat 64 (v.toNat / 16 * 16)) ∧
        (c = .ctxpri → slC.ctxpri = BitVec.ofNat 64 (min (v.toNat % 8) (bits (s.chair sl.chair).chctl.toNat 0 3))) ∧
        (c = .cabq → slC.cabq = BitVec.ofNat 64 (max 8 (min 128 (v.toNat % 256))))) ∧
      (∀ k < 128, ∀ n v, i.kacts = [(k, .tapcfg n v)] → slC.taps = sl.taps.set n v ∧ slC.xcnt = sl.xcnt.set n 0) ∧
      (i.engs = [] → slD.xcnt = slC.xcnt) ∧
      (∀ k < 128, ∀ n b ba h, i.kacts = [(k, .fork n b ba h)] → ∃ spawn, slD.forks = (slC.addFork t4 spawn n b ba h).forks) := by
  intro u
  obtain ⟨c1, c2, c3⟩ := s.countRows_keeps core slot sl.chair i.age
  let s1 := s.countRows core slot sl.chair i.age
  have h1 : s1.slot? core slot = some sl := (c1 _ _).trans hs
  let s3 := s1.modStrand core slot i.uid fun t => i.regsAfter t
  have h3 := State.modStrand_slot (uid := i.uid) h1 fun t => i.regsAfter t
  obtain ⟨slC, h4, h5, h6⟩ := State.csrWrites_slot (uid := i.uid) h3 i
  have hst : (Slot.strand? { sl with strands := sl.strands.map fun x => if x.uid = i.uid then i.regsAfter x else x } i.uid) = some (i.regsAfter t) := by
    simp only [Slot.strand?] at ht ⊢
    rw [find?_strand_map (f := i.regsAfter) fun x => applyWs_uid x i, ht]; rfl
  obtain ⟨t4, ht4⟩ := Option.isSome_iff_exists.mp (h5.strand (by rw [hst]; rfl))
  let s4 := s3.csrWrites core slot i.uid i
  let s5 := s4.modArrays core fun _ => (s4.config3 core slot i).arrays
  have h7 : s5.slot? core slot = some slC := by
    show (State.modCore _ _ _).slot? core slot = _
    rw [State.slot?_modCore _ _ _ _ _ rfl]; exact h4
  let s6 := i.engsInOrder.foldl (fun s p => s.issue core slot sl i t4 p) s5
  have k6 : s6.still = s5.still := State.still_foldl (fun s a => State.still_issue _ _ _ _ _ _ _) _ _
  obtain ⟨xc, h8⟩ := State.slot_of_still k6 h7
  obtain ⟨slD, h9, h10⟩ := State.strandActs_slot h8 i t4
  let s7 := s6.strandActs core slot i t4
  have m7 : s.SameMem s7 :=
    (((((c2.trans (State.sameMem_modSlot _ _ _ _ : s1.SameMem s3)).trans
      (State.sameMem_csrWrites _ _ _ _ _ : s3.SameMem s4)).trans (State.sameMem_modCore _ _ (fun _ => rfl) : s4.SameMem s5)).trans
      (State.sameMem_foldl (fun s a => State.sameMem_issue _ _ _ _ _ _ _) _ _ : s5.SameMem s6)).trans (State.sameMem_strandActs _ _ _ _ _))
  let s8 := match t4.exitTo i e with
      | some t => s7.modStrand core slot i.uid fun _ => t
      | none => s7.modSlot core slot (·.endStrand t4)
  let slE : Slot := match t4.exitTo i e with
      | some t => { slD with strands := slD.strands.map fun (x : Strand) => if x.uid = i.uid then t else x }
      | none => slD.endStrand t4
  have h11 : s8.slot? core slot = some slE := by
    simp only [s8, slE]
    cases t4.exitTo i e with
    | some t => exact State.modStrand_slot h9 _
    | none => dsimp only; rw [State.slot?_modSlot]; exact congrArg _ h9
  have m8 : s7.SameMem s8 := by
    simp only [s8]; split <;> exact State.sameMem_modSlot _ _ _ _
  let codes := i.fences.filter (·.kind = .codeK)
  let keep := decide ((t4.exitTo i e).map (·.ba.toNat) = i.next ∧ codes.isEmpty = true)
  obtain ⟨m9, sl', h12, h13, h14⟩ := State.commit_tail (sl := sl) (i := i) h11 codes keep
  have hcommit : u = (State.promote (if keep = true then
      codes.foldl (fun s f => s.dropCode core sl f.sc) ((s8.modCore core (·.dropBlock slot i.age)).modSlot core slot fun x => { x with insts := x.insts.filter (·.age ≠ i.age) })
      else (codes.foldl (fun s f => s.dropCode core sl f.sc) ((s8.modCore core (·.dropBlock slot i.age)).modSlot core slot fun x => { x with insts := x.insts.filter (·.age ≠ i.age) })).discardFrom core slot i.uid i.age)
        core slot i.uid).perfEvent core sl.chair 0x02 1 := by
    show s.commit core slot sl i = _
    unfold State.commit
    dsimp only
    have e1 : ((s5.slot? core slot).bind fun x => x.strand? i.uid) = some t4 := by rw [h7]; exact ht4
    have e2 : i.exits.head? = some e := by rw [he]; rfl
    erw [e1, e2]
    simp only [keep, decide_eq_true_eq]
    rfl
  rw [← hcommit] at m9 h12
  refine ⟨(m7.trans m8).trans m9, slC, t4, slD, slE, sl', h12, h13, h14, ?_, h5.post, h5.forks, h5.ending, ht4, ?_, ?_, ?_, ?_, ?_, ?_, ?_⟩
  · rw [h10]
  · intro hno
    have hst2 := h6 fun k c v hm => hno k c v (Inst.mem_actsInOrder hm)
    have : slC.strand? i.uid = some (i.regsAfter t) := by
      rw [← hst]; simp only [Slot.strand?, hst2]
    rw [this] at ht4
    exact (Option.some.inj ht4).symm
  · intro t' h'
    simp only [slE, h']
  · intro h'
    simp only [slE, h']
  · intro k hk c v hka
    have ha : i.actsInOrder = [(k, .csr c v)] := Inst.actsInOrder_one hk hka
    have hx : s4.slot? core slot = some slC := h4
    have hcs : s4 = s3.csrWrite core slot i.uid c v := by
      show State.csrWrites _ _ _ _ _ = _
      rw [State.csrWrites, ha]; rfl
    have h3' : s3.slot? core slot = some _ := h3
    have hch : s3.chair sl.chair = s.chair sl.chair := by
      show s1.chairs.getD _ _ = s.chairs.getD _ _; rw [c3]
    refine ⟨?_, ?_, ?_⟩ <;> (rintro rfl; rw [hcs] at hx; simp only [State.csrWrite, h3', State.slot?_modSlot, Option.map_some, Option.some.injEq] at hx; rw [← hx]; try rw [hch])
  · intro k hk n v hka
    have ha : i.actsInOrder = [(k, .tapcfg n v)] := Inst.actsInOrder_one hk hka
    have hx : s4.slot? core slot = some slC := h4
    have hcs : s4 = s3.modSlot core slot fun x => { x with taps := x.taps.set n v, xcnt := x.xcnt.set n 0 } := by
      show State.csrWrites _ _ _ _ _ = _
      rw [State.csrWrites, ha]; rfl
    have h3' : s3.slot? core slot = some _ := h3
    rw [hcs, State.slot?_modSlot, h3'] at hx
    simp only [Option.map_some, Option.some.injEq] at hx
    rw [← hx]; exact ⟨rfl, rfl⟩
  · intro he
    have h6 : s6 = s5 := by
      have : i.engsInOrder = [] := by simp [Inst.engsInOrder, he]
      simp only [s6, this, List.foldl_nil]
    rw [h6, h7] at h8
    rw [h10, Option.some.inj h8]
  · intro k hk n b ba h hka
    have ha : i.actsInOrder = [(k, .fork n b ba h)] := Inst.actsInOrder_one hk hka
    have h9' : s7.slot? core slot = some slD := h9
    have hsa : ∃ sp, s7 = s6.modSlot core slot fun sl => sl.addFork t4 sp n b ba h := by
      have : s7 = s6.strandActs core slot i t4 := rfl
      rw [this, State.strandActs, ha]; exact ⟨_, rfl⟩
    obtain ⟨sp, hsa⟩ := hsa
    rw [hsa, State.slot?_modSlot, h8] at h9'
    simp only [Option.map_some, Option.some.injEq] at h9'
    exact ⟨sp, by rw [← h9']; rfl⟩

theorem State.settleWaits_chctl (s : State) (chair : Nat) (l : List Inst) (n : Nat) : ((s.settleWaits chair l).chair n).chctl = (s.chair n).chctl := by
  refine foldl_keeps (P := fun r => (r.chair n).chctl = (s.chair n).chctl) (fun r i hr => ?_) _ _ rfl
  refine foldl_keeps (P := fun r => (r.chair n).chctl = (s.chair n).chctl) (fun r w hr => ?_) _ _ hr
  rw [← hr]
  split
  · unfold State.settleHandle State.modHandle
    split
    · rfl
    · dsimp only
      split
      · rfl
      · simp only [State.chair, State.modChair, List.getD_eq_getElem?_getD, List.getElem?_modify]
        cases r.chairs[n]? with
        | none => rfl
        | some c => simp only [Option.map_eq_map, Option.map_some, Option.getD_some]; split <;> rfl
  · rfl

/-- What the first act of a commit leaves: the committed order of the context has the block's stores and fences, and the block
stands as one whose commit has begun. -/
theorem State.beginCommit_slot {s : State} {core slot : Nat} {sl : Slot} {i : Inst} (hs : s.slot? core slot = some sl) (ps : List PStore) :
    (s.beginCommit core slot i ps).slot? core slot = some { sl with
      post := sl.post ++ i.postOf, insts := sl.insts.map fun (x : Inst) => if x.age = i.age then
        { x with stores := [], waits := [], committing := true } else x } ∧
    s.SameMem (s.beginCommit core slot i ps) ∧ ∀ n, ((s.beginCommit core slot i ps).chair n).chctl = (s.chair n).chctl := by
  let s2 := (s.commitChain core slot i.age ps).modCore core fun k => k.dropTraffic slot i.age
  let s3 := s2.modSlot core slot fun x => { x with post := x.post ++ i.postOf }
  let s4 := s3.modInst core slot i.age fun x => { x with stores := [], waits := [], committing := true }
  have h2 : s2.slot? core slot = some sl := (State.slot?_modCore _ _ _ _ _ rfl).trans hs
  have h3 : s3.slot? core slot = some { sl with post := sl.post ++ i.postOf } := by rw [State.slot?_modSlot, h2]; rfl
  have h4 : s4.slot? core slot = some { sl with
      post := sl.post ++ i.postOf, insts := sl.insts.map fun (x : Inst) => if x.age = i.age then
        { x with stores := [], waits := [], committing := true } else x } := by
    show (State.modSlot _ _ _ _).slot? core slot = _
    rw [State.slot?_modSlot, h3]; rfl
  have m4 : s.SameMem s4 := (((⟨rfl, rfl, fun _ => rfl⟩ : s.SameMem (s.commitChain core slot i.age ps)).trans
    (State.sameMem_modCore _ _ fun _ => rfl : State.SameMem _ s2)).trans (State.sameMem_modSlot _ _ _ _)).trans (State.sameMem_modSlot _ _ _ _)
  have hb : s.beginCommit core slot i ps = s4.settleWaits sl.chair [i] := by
    show (match s4.slot? core slot with | some sl => _ | none => _) = _
    rw [h4]
  obtain ⟨k1, k2⟩ := s4.settleWaits_keeps sl.chair [i]
  rw [hb]
  exact ⟨(k1 _ _).trans h4, m4.trans k2, fun n => s4.settleWaits_chctl _ _ n⟩


/-! ### Discards and aborts -/

theorem trapsOf_toNat (f : FaultRec) (p : Bool) : (trapsOf f p).toNat = f.val % 2 ^ 24 * 2 ^ 40 + bnat f.locs * 2 ^ 23 + f.loc % 2 ^ 7 * 2 ^ 16
    + bnat p * 2 ^ 12 + 2 ^ 11 + 2 ^ 10 + f.code % 2 ^ 8 := by
  have h1 : bnat f.locs ≤ 1 := by unfold bnat; split <;> omega
  have h2 : bnat p ≤ 1 := by unfold bnat; split <;> omega
  unfold trapsOf
  rw [BitVec.toNat_ofNat, Nat.mod_eq_of_lt]
  omega

/-- Of the cores only one changes, but for completion entries, and no launch. -/
structure State.OnCore (c : Nat) (a b : State) : Prop where
  other : ∀ d, d ≠ c → b.core d = { a.core d with cq := (b.core d).cq }
  len : b.cores.length = a.cores.length
  launches : b.launches = a.launches
  saves : b.saves = a.saves

theorem State.OnCore.rfl' (c : Nat) (a : State) : a.OnCore c a := ⟨fun _ _ => rfl, rfl, rfl, rfl⟩
theorem State.OnCore.trans {n : Nat} {a b c : State} (h : State.OnCore n a b) (g : State.OnCore n b c) : State.OnCore n a c :=
  ⟨fun d hd => by rw [g.other d hd, h.other d hd], g.len.trans h.len, g.launches.trans h.launches, g.saves.trans h.saves⟩
theorem State.OnCore.slot {c : Nat} {a b : State} (h : State.OnCore c a b) {d : Nat} (hd : d ≠ c) (j : Nat) : b.slot? d j = a.slot? d j := by
  unfold State.slot?; rw [h.other d hd]; rfl
theorem State.onCore_modCore (s : State) (c : Nat) (f : Core → Core) : State.OnCore c s (s.modCore c f) :=
  ⟨fun _ hd => by rw [State.core_modCore_ne _ _ hd], by simp, rfl, rfl⟩
theorem State.onCore_foldl {α : Type} {c : Nat} {f : State → α → State} (h : ∀ (s : State) a, State.OnCore c s (f s a)) (l : List α) (s : State) :
    State.OnCore c s (l.foldl f s) := by
  induction l generalizing s with
  | nil => exact .rfl' c s
  | cons a l ih => exact (h s a).trans (ih _)
theorem State.OnCore.dressers {c : Nat} {a b : State} (h : State.OnCore c a b) (d : List DEntry) : State.OnCore c a { b with dressers := d } := ⟨h.other, h.len, h.launches, h.saves⟩

theorem State.onCore_settleHandle (s : State) (chair h c : Nat) : State.OnCore c s (s.settleHandle chair h) := by
  unfold State.settleHandle State.modHandle
  split
  · exact .rfl' _ s
  · dsimp only
    split
    · refine ⟨fun d _ => ?_, by simp, rfl, rfl⟩
      by_cases hd : d = bits h 48 8
      · subst hd
        by_cases hc : bits h 48 8 < s.cores.length
        · rw [State.core_modCore _ _ _ hc]
        · rw [State.core_none _ (by simpa using hc), State.core_none _ (by simpa using hc)]
      · rw [State.core_modCore_ne _ _ hd]
    · exact ⟨fun _ _ => rfl, rfl, rfl, rfl⟩

theorem State.onCore_discard (s : State) (core slot age : Nat) : State.OnCore core s (s.discard core slot age) := by
  unfold State.discard
  split
  · exact .rfl' _ s
  · split
    · exact .rfl' _ s
    · refine (((State.OnCore.dressers (State.onCore_modCore _ _ _) _).trans (State.onCore_modCore _ _ _)).trans
        (State.onCore_foldl (fun s i => State.onCore_foldl (fun s w => ?_) _ _) _ _)).trans (State.onCore_modCore _ _ _)
      split
      · exact s.onCore_settleHandle _ _ _
      · exact .rfl' _ s

theorem State.onCore_discardFrom (s : State) (core slot uid age : Nat) : State.OnCore core s (s.discardFrom core slot uid age) := by
  unfold State.discardFrom
  split
  · exact .rfl' _ s
  · exact (State.onCore_foldl (fun s i => State.onCore_discard s _ _ _) _ _).trans (State.onCore_modCore _ _ _)

theorem State.applyStore_keeps (s : State) (core : Nat) (sl : Slot) (p : PStore) :
    State.OnCore core s (s.applyStore core sl p).1 ∧ ∀ c j, (s.applyStore core sl p).1.slot? c j = s.slot? c j := by
  unfold State.applyStore
  dsimp only
  repeat' split
  all_goals first
    | exact ⟨State.onCore_modCore _ _ _, fun _ _ => State.slot?_modCore _ _ _ _ _ rfl⟩
    | exact ⟨⟨fun _ _ => rfl, rfl, rfl, rfl⟩, fun _ _ => rfl⟩

theorem State.freeBytes_keeps (s : State) (core : Nat) (sl : Slot) (off n : Nat) :
    State.OnCore core s (s.freeBytes core sl off n) ∧ ∀ c j, (s.freeBytes core sl off n).slot? c j = s.slot? c j := by
  induction n generalizing s off with
  | zero => exact ⟨.rfl' _ s, fun _ _ => rfl⟩
  | succ n ih =>
    unfold State.freeBytes
    dsimp only
    refine ⟨State.OnCore.trans ?_ (ih _ _).1, fun c j => ((ih _ _).2 c j).trans ?_⟩
    · split
      · exact ⟨fun _ _ => rfl, rfl, rfl, rfl⟩
      · have h0 : State.OnCore core s ((s.draw 2).2.draw 256).2 := ⟨fun _ _ => rfl, rfl, rfl, rfl⟩
        exact h0.trans (State.onCore_modCore _ _ _)
    · split
      · rfl
      · exact State.slot?_modCore _ _ _ _ _ rfl

theorem Eng.freeOut_keeps (e : Eng) (s : State) (core : Nat) (sl : Slot) :
    State.OnCore core s (e.freeOut s core sl) ∧ ∀ c j, (e.freeOut s core sl).slot? c j = s.slot? c j := by
  refine foldl_keeps (P := fun r => State.OnCore core s r ∧ ∀ c j, r.slot? c j = s.slot? c j) (fun r k hr => ?_) _ _
    ⟨.rfl' _ s, fun _ _ => rfl⟩
  obtain ⟨a, b⟩ := State.freeBytes_keeps r core sl (bits (e.dw 3) 18 18 + k * e.dh * e.outSize) (e.dh * e.outSize)
  dsimp only
  split
  · obtain ⟨a', b'⟩ := State.freeBytes_keeps (r.freeBytes core sl (bits (e.dw 3) 18 18 + k * e.dh * e.outSize) (e.dh * e.outSize)) core sl
      (bits (e.dw 3) 0 18 + 4 * k) 4
    exact ⟨(hr.1.trans a).trans a', fun c j => by rw [b', b, hr.2]⟩
  · exact ⟨hr.1.trans a, fun c j => by rw [b, hr.2]⟩

theorem State.stopEng_keeps (s : State) (core : Nat) (e : Eng) (a b : Nat) :
    State.OnCore core s (s.stopEng core e a b) ∧ ∀ c j, (s.stopEng core e a b).slot? c j = s.slot? c j :=
  ⟨(State.onCore_modCore _ _ _).trans (State.onCore_modCore _ _ _),
    fun _ _ => (State.slot?_modCore _ _ _ _ _ rfl).trans (State.slot?_modCore _ _ _ _ _ rfl)⟩

/-- An abort of a slot changes its core alone, and leaves the slot stopped and empty. -/
theorem State.abortSlot_keeps (s : State) (core slot : Nat) (reset : Bool) : State.OnCore core s (s.abortSlot core slot reset) ∧
    ∀ sl, s.slot? core slot = some sl → ∃ x, (s.abortSlot core slot reset).slot? core slot = some x ∧ x.strands = [] ∧ x.insts = [] ∧
      x.forks = [] ∧ x.post = [] ∧ x.stopped = true := by
  unfold State.abortSlot
  split
  · rename_i h
    exact ⟨.rfl' _ s, fun sl hs => by rw [h] at hs; cases hs⟩
  rename_i sl hsl
  dsimp only
  let s1 := sl.insts.foldl (fun (s : State) i => s.discard core slot i.age) s
  let s2 := s1.applyAll core slot sl
  let s3 : State := { s2 with dressers := s2.dressers.filter fun d => !(d.core = core && d.slot = slot) }
  let held := (s3.core core).engs.filter fun e => decide (e.slot = slot) && e.held
  let s4 := held.foldl (fun s e => if isLaunch e.instr then s.stopEng core e FC.serviceAbort 0 else s) s3
  let s5 := s4.modCore core fun k => { k with engs := k.engs.filter fun e => !(e.slot = slot && e.held) }
  let s6 := ((s5.core core).engs.filter (·.slot = slot)).foldl (fun s e =>
      if reset && isScatter e.instr then s.stopEng core e FC.scatterAbandoned e.count
      else if reset || stoppedByAbort e.instr then
        let s := if isAttn e.instr then e.freeOut s core sl else s
        s.stopEng core e FC.serviceAbort 0
      else s) s5
  obtain ⟨y, h1⟩ : ∃ y, s1.slot? core slot = some y := by
    have key : ∀ (l : List Inst) (s : State) (sl : Slot), s.slot? core slot = some sl →
        ∃ sl', (l.foldl (fun s i => s.discard core slot i.age) s).slot? core slot = some sl' := by
      intro l
      induction l with
      | nil => exact fun s sl h => ⟨sl, h⟩
      | cons a l ih =>
        intro s sl h
        obtain ⟨x, h1, h2⟩ := State.discard_slot (age := a.age) h
        exact ih _ _ h1
    exact key _ _ _ hsl
  have o1 : State.OnCore core s s1 := State.onCore_foldl (fun s (i : Inst) => State.onCore_discard s core slot i.age) _ _
  have k2 : State.OnCore core s1 s2 ∧ s2.slot? core slot = some { y with post := [] } := by
    have k : State.OnCore core s1 (sl.post.foldl (fun s p => match p.act with | .store st => (s.applyStore core sl st).1 | _ => s) s1) ∧
        ∀ c j, (sl.post.foldl (fun s p => match p.act with | .store st => (s.applyStore core sl st).1 | _ => s) s1).slot? c j = s1.slot? c j := by
      refine foldl_keeps (P := fun r => State.OnCore core s1 r ∧ ∀ c j, r.slot? c j = s1.slot? c j) (fun r p hr => ?_) _ _
        ⟨.rfl' _ s1, fun _ _ => rfl⟩
      split
      · obtain ⟨a, b⟩ := r.applyStore_keeps core sl ‹_›
        exact ⟨hr.1.trans a, fun c j => (b c j).trans (hr.2 c j)⟩
      · exact hr
    refine ⟨k.1.trans (State.onCore_modCore _ _ _), ?_⟩
    show (State.modSlot _ _ _ _).slot? core slot = _
    rw [State.slot?_modSlot]; exact congrArg _ ((k.2 _ _).trans h1)
  have k3 : State.OnCore core s s3 := (o1.trans k2.1).dressers _
  have k4 : State.OnCore core s3 s4 ∧ ∀ c j, s4.slot? c j = s3.slot? c j := by
    refine foldl_keeps (P := fun r => State.OnCore core s3 r ∧ ∀ c j, r.slot? c j = s3.slot? c j) (fun r e hr => ?_) _ _
      ⟨.rfl' _ s3, fun _ _ => rfl⟩
    split
    · obtain ⟨a, b⟩ := r.stopEng_keeps core e FC.serviceAbort 0
      exact ⟨hr.1.trans a, fun c j => (b c j).trans (hr.2 c j)⟩
    · exact hr
  have k6 : State.OnCore core s5 s6 ∧ ∀ c j, s6.slot? c j = s5.slot? c j := by
    refine foldl_keeps (P := fun r => State.OnCore core s5 r ∧ ∀ c j, r.slot? c j = s5.slot? c j) (fun r e hr => ?_) _ _
      ⟨.rfl' _ s5, fun _ _ => rfl⟩
    split
    · obtain ⟨a, b⟩ := r.stopEng_keeps core e FC.scatterAbandoned e.count
      exact ⟨hr.1.trans a, fun c j => (b c j).trans (hr.2 c j)⟩
    · split
      · have hq : ∀ q : State, State.OnCore core s5 q ∧ (∀ c j, q.slot? c j = s5.slot? c j) →
            State.OnCore core s5 (q.stopEng core e FC.serviceAbort 0) ∧ ∀ c j, (q.stopEng core e FC.serviceAbort 0).slot? c j = s5.slot? c j := by
          intro q hq
          obtain ⟨a, b⟩ := q.stopEng_keeps core e FC.serviceAbort 0
          exact ⟨hq.1.trans a, fun c j => (b c j).trans (hq.2 c j)⟩
        refine hq _ ?_
        split
        · obtain ⟨a, b⟩ := e.freeOut_keeps r core sl
          exact ⟨hr.1.trans a, fun c j => (b c j).trans (hr.2 c j)⟩
        · exact hr
      · exact hr
  refine ⟨((((k3.trans k4.1).trans (State.onCore_modCore s4 core _ : State.OnCore core s4 s5)).trans k6.1).trans
    (State.onCore_modCore s6 core _)).trans (State.onCore_modCore _ core _), fun _ _ => ?_⟩
  rw [State.slot?_modSlot, State.slot?_modCore _ _ _ _ _ rfl]
  have h6 : s6.slot? core slot = some { y with post := [] } := by
    rw [k6.2, show s5.slot? core slot = s4.slot? core slot from State.slot?_modCore _ _ _ _ _ rfl, k4.2]; exact k2.2
  refine ⟨{ y with post := [], strands := [], forks := [], insts := [], grants := [], ending := [], stopped := true }, ?_, rfl, rfl, rfl, rfl, rfl⟩
  show Option.map _ (s6.slot? core slot) = _
  rw [h6]; rfl

theorem State.answerLaunch_slot (s : State) (chair : Nat) (src : LaunchFrom) (st c i : Nat) : (s.answerLaunch chair src st).slot? c i = s.slot? c i
    ∧ (s.answerLaunch chair src st).launches = s.launches := by
  unfold State.answerLaunch
  repeat' split
  all_goals first | exact ⟨rfl, rfl⟩ | exact ⟨State.slot?_modCore _ _ _ _ _ rfl, rfl⟩

theorem State.finishLaunch_slot (s : State) (id c i : Nat) : (s.finishLaunch id).slot? c i = s.slot? c i ∧ (∀ l ∈ (s.finishLaunch id).launches, l ∈ s.launches) := by
  unfold State.finishLaunch
  split
  · exact ⟨rfl, fun _ h => h⟩
  · split
    · obtain ⟨a, b⟩ := State.answerLaunch_slot { s with launches := s.launches.filter (·.id ≠ id) } (‹Launch›).chair (‹Launch›).src (‹Launch›).status c i
      exact ⟨a, fun l h => by rw [b] at h; exact List.mem_of_mem_filter h⟩
    · exact ⟨rfl, fun _ h => h⟩

theorem State.finishLaunch_saves (s : State) (id : Nat) : ∀ x ∈ (s.finishLaunch id).saves, ∃ y ∈ s.saves, x.launch = y.launch := by
  unfold State.finishLaunch
  split
  · exact fun x h => ⟨x, h, rfl⟩
  · split
    · unfold State.answerLaunch
      split
      · exact fun x h => ⟨x, h, rfl⟩
      · split
        · exact fun x h => ⟨x, h, rfl⟩
        · intro x h
          simp only [List.mem_map] at h
          obtain ⟨y, hy, rfl⟩ := h
          exact ⟨y, hy, by split <;> rfl⟩
      · exact fun x h => ⟨x, h, rfl⟩
    · exact fun x h => ⟨x, h, rfl⟩

/-- the fold of an abort over the cores -/
theorem abort_fold (id : Nat) (n : Nat) (s : State) :
    let f := fun (s : State) ci => match (s.core ci).slotOf id with | some i => s.abortSlot ci i false | none => s
    let u := (List.range n).foldl f s
    u.launches = s.launches ∧ u.saves = s.saves ∧ (∀ c, n ≤ c → ∀ j, u.slot? c j = s.slot? c j) ∧
    ∀ c < n, ∀ j, (s.core c).slotOf id = some j → ∃ x, u.slot? c j = some x ∧ x.strands = [] ∧ x.insts = [] ∧ x.forks = [] ∧ x.post = [] ∧ x.stopped = true := by
  intro f
  have hf : ∀ (s : State) ci, State.OnCore ci s (f s ci) := by
    intro s ci; simp only [f]; split
    · exact (State.abortSlot_keeps _ _ _ _).1
    · exact .rfl' _ _
  induction n with
  | zero => exact ⟨rfl, rfl, fun _ _ _ => rfl, fun c h => by omega⟩
  | succ n ih =>
    intro u
    obtain ⟨h1, h2, h3, h4⟩ := ih
    have hu : u = f ((List.range n).foldl f s) n := by simp only [u, List.range_succ, List.foldl_append, List.foldl_cons, List.foldl_nil]
    have g := hf ((List.range n).foldl f s) n
    rw [← hu] at g
    refine ⟨g.launches.trans h1, g.saves.trans h2, fun c hc j => (g.slot (by omega) j).trans (h3 c (by omega) j), fun c hc j hj => ?_⟩
    by_cases hn : c = n
    · subst hn
      have hj' : (((List.range c).foldl f s).core c).slotOf id = some j := by
        rw [← hj]; unfold Core.slotOf; congr 1; funext j
        have := h3 c (Nat.le_refl _) j
        unfold State.slot? at this
        rw [this]
      have hsl : ∃ sl, ((List.range c).foldl f s).slot? c j = some sl := by
        have := List.find?_some hj'
        show ∃ sl, (((List.range c).foldl f s).core c).slot? j = some sl
        split at this
        · exact ⟨_, ‹_›⟩
        · exact absurd this (by simp)
      obtain ⟨sl, hsl⟩ := hsl
      rw [hu]
      simp only [f]
      rw [hj']
      exact (State.abortSlot_keeps _ _ _ false).2 _ hsl
    · obtain ⟨x, hx, hr⟩ := h4 c (by omega) j hj
      exact ⟨x, (g.slot hn j).trans hx, hr⟩

theorem abort_facts {s : State} {id code : Nat} {l : Launch} (h : s.launch? id = some l) (ha : l.aborted = false) :
    (s.abort id code).AbortedWith id code ∧ ∀ c j, (s.core c).slotOf id = some j → ∃ x, (s.abort id code).slot? c j = some x ∧
      x.strands = [] ∧ x.insts = [] ∧ x.forks = [] ∧ x.post = [] ∧ x.stopped = true := by
  unfold State.abort
  rw [h]
  dsimp only
  rw [ha]
  simp only [Bool.false_eq_true, if_false]
  generalize hM : (s.modLaunch id fun x => { x with aborted := true, status := code, out := false }) = M
  have hMl : ∀ x ∈ M.launches, x.id = id → x.aborted = true ∧ x.status = code := by
    intro x hx hid
    rw [← hM] at hx
    simp only [State.modLaunch, List.mem_map] at hx
    obtain ⟨y, hy, rfl⟩ := hx
    split at hid
    · rename_i h; simp [h]
    · rename_i h; exact absurd hid h
  have hMc : M.cores = s.cores := by rw [← hM]; rfl
  generalize hB : ({ M with saves := M.saves.filter (·.launch ≠ id), arb := _, dressers := _, cores := _, chairs := _ } : State) = B
  have hBl : B.launches = M.launches := by rw [← hB]
  have hBs : B.saves = M.saves.filter (·.launch ≠ id) := by rw [← hB]
  have hBc : ∀ c, (B.core c).slotOf id = (s.core c).slotOf id := by
    intro c
    have : ∀ i, (B.core c).slot? i = (s.core c).slot? i := by
      intro i
      rw [← hB]
      have := State.slot?_map M (fun k => { k with lq := k.lq.filter (·.launch ≠ id) }) (fun _ => rfl) c i
      exact this.trans (by show (M.cores.getD _ _).slot? _ = _; rw [hMc]; rfl)
    simp only [Core.slotOf, this]
  have hlen : B.cores.length = s.cores.length := by rw [← hB]; simp [hMc]
  have final : ∀ F : State, (F.launches = B.launches ∧ F.saves = B.saves ∧ (∀ c, M.cores.length ≤ c → ∀ j, F.slot? c j = B.slot? c j) ∧
    ∀ c < M.cores.length, ∀ j, (B.core c).slotOf id = some j → ∃ x, F.slot? c j = some x ∧ x.strands = [] ∧ x.insts = [] ∧ x.forks = [] ∧ x.post = [] ∧ x.stopped = true) →
    (F.finishLaunch id).AbortedWith id code ∧ ∀ c j, (s.core c).slotOf id = some j → ∃ x, (F.finishLaunch id).slot? c j = some x ∧
      x.strands = [] ∧ x.insts = [] ∧ x.forks = [] ∧ x.post = [] ∧ x.stopped = true := by
    rintro F ⟨k1, k2, k3, k4⟩
    refine ⟨⟨fun x hx hid => ?_, fun x hx => ?_⟩, fun c j hj => ?_⟩
    · exact hMl x (by rw [← hBl, ← k1]; exact (State.finishLaunch_slot F id 0 0).2 x hx) hid
    · obtain ⟨y, hy, e⟩ := State.finishLaunch_saves F id x hx
      rw [e]
      rw [k2, hBs] at hy
      simpa using (List.mem_filter.mp hy).2
    · have hc : c < M.cores.length := by
        rw [hMc]
        by_contra hc
        rw [State.core_none _ (by omega)] at hj
        have := List.find?_some hj
        have e : ∀ j, Core.reset.slot? j = none := by
          intro j; simp only [Core.slot?, Core.reset, List.getD_eq_getElem?_getD, List.getElem?_replicate]; split <;> rfl
        rw [e] at this; exact absurd this (by simp)
      obtain ⟨x, hx, hr⟩ := k4 c hc j (by rw [hBc]; exact hj)
      exact ⟨x, (State.finishLaunch_slot F id c j).1.trans hx, hr⟩
  refine final _ ?_
  rw [List.length_map]
  exact abort_fold id M.cores.length B

/-! ### Emission -/

theorem State.modInst_net (s : State) (core slot age : Nat) (f : Inst → Inst) :
    ((s.modInst core slot age f).core core).net = (s.core core).net := by
  by_cases hc : core < s.cores.length
  · rw [State.core_modInst _ _ _ _ _ hc]
  · rw [State.core_none _ (by simpa using hc), State.core_none _ (by simpa using hc)]

theorem State.toWslot_core (s : State) (core slot age n : Nat) (tok : Tok) :
    ((s.toWslot core slot age n tok).core core).net = (s.core core).net ∧
      (s.toWslot core slot age n tok).cores.length = s.cores.length := by
  unfold State.toWslot
  split
  · exact ⟨rfl, rfl⟩
  · split
    · dsimp only [State.draw]
      by_cases hx : Config.freeNat s.freeCtr % 2 = 0
      · rw [if_pos hx]; exact ⟨rfl, rfl⟩
      · rw [if_neg hx]; exact ⟨State.modInst_net _ _ _ _ _, by simp⟩
    · exact ⟨State.modInst_net _ _ _ _ _, by simp⟩

theorem State.emit1_core (s : State) (core slot age : Nat) (t : Target) (tok : Tok) :
    ∃ l, ((s.emit1 core slot age t tok).core core).net = (s.core core).net ++ l ∧ (core < s.cores.length →
      ∀ q n, t = .port q n → l = [⟨slot, age, n.toNat, q, tok, false⟩]) ∧ (s.emit1 core slot age t tok).cores.length = s.cores.length := by
  cases t with
  | none => exact ⟨[], (List.append_nil _).symm, fun _ _ _ h => (by cases h), rfl⟩
  | port p n =>
    by_cases hc : core < s.cores.length
    · refine ⟨_, by rw [State.emit1, State.core_modCore _ _ _ hc], fun _ q m h => ?_, by simp [State.emit1]⟩
      cases h; rfl
    · refine ⟨[], ?_, fun h => absurd h hc, by simp [State.emit1]⟩
      rw [State.core_none _ (by simpa [State.emit1] using hc), State.core_none _ (by simpa using hc)]; rfl
  | wslot n =>
    exact ⟨[], by rw [List.append_nil]; exact (State.toWslot_core s core slot age n.toNat tok).1, fun _ _ _ h => (by cases h),
      (State.toWslot_core s core slot age n.toNat tok).2⟩

/-- An emission sends its token to every port among its targets (R100). -/
theorem State.emit_sent {s : State} {core : Nat} (hc : core < s.cores.length) (slot age : Nat) (ts : List Target) (tok : Tok) :
    (s.emit core slot age ts tok).SentTo core slot age ts tok := by
  have key : ∀ (ts : List Target) (s : State), core < s.cores.length →
      (∃ l, ((s.emit core slot age ts tok).core core).net = (s.core core).net ++ l) ∧
      ∀ q n, Target.port q n ∈ ts → ⟨slot, age, n.toNat, q, tok, false⟩ ∈ ((s.emit core slot age ts tok).core core).net := by
    intro ts
    induction ts with
    | nil => exact fun s _ => ⟨⟨[], (List.append_nil _).symm⟩, fun _ _ h => absurd h List.not_mem_nil⟩
    | cons t ts ih =>
      intro s hc
      obtain ⟨l, h1, h2, h3⟩ := State.emit1_core s core slot age t tok
      obtain ⟨⟨l', h4⟩, h5⟩ := ih (s.emit1 core slot age t tok) (by omega)
      refine ⟨⟨l ++ l', ?_⟩, fun q n h => ?_⟩
      · show ((State.emit (s.emit1 core slot age t tok) core slot age ts tok).core core).net = _
        rw [h4, h1, List.append_assoc]
      · rcases List.mem_cons.mp h with h | h
        · show _ ∈ ((State.emit (s.emit1 core slot age t tok) core slot age ts tok).core core).net
          rw [h4, h1, h2 hc q n h.symm]; simp
        · exact h5 q n h
  exact (key ts s hc).2


/-! ### Accesses -/

/-- Every memory as it was. -/
def State.MemAs (s t : State) : Prop := t.hbm = s.hbm ∧ ∀ c, (t.core c).mem = (s.core c).mem
theorem State.MemAs.trans {a b c : State} (h : a.MemAs b) (g : b.MemAs c) : a.MemAs c := ⟨g.1.trans h.1, fun x => (g.2 x).trans (h.2 x)⟩
theorem State.SameMem.memAs {s t : State} (h : s.SameMem t) : s.MemAs t := ⟨h.hbm, h.mem⟩
theorem State.FiringKeeps.memAs {s t : State} (h : s.FiringKeeps t) : s.MemAs t := by
  have h1 := congrArg State.hbm h.settled
  refine ⟨h1, fun c => ?_⟩
  have h2 := congrArg (fun l : List Core => (l.getD c Core.reset.settled).mem) (congrArg State.cores h.settled)
  simp only [State.settled, List.getD_map] at h2
  exact h2
theorem State.FiringKeeps.slots {s t : State} (h : s.FiringKeeps t) (c i : Nat) :
    (t.slot? c i).map Slot.settled = (s.slot? c i).map Slot.settled := by
  have h2 := congrArg (fun l : List Core => (l.getD c Core.reset.settled).slots.getD i none) (congrArg State.cores h.settled)
  have g : ∀ u : State, (u.settled.cores.getD c Core.reset.settled).slots.getD i none = (u.slot? c i).map Slot.settled := by
    intro u
    show ((u.cores.map Core.settled).getD c _).slots.getD i none = _
    rw [List.getD_map]
    exact List.getD_map _ none (Option.map Slot.settled)
  exact (g t).symm.trans (h2.trans (g s))
theorem State.memAs_modCore (s : State) (c : Nat) {f : Core → Core} (h : ∀ k, (f k).mem = k.mem) : s.MemAs (s.modCore c f) := (s.sameMem_modCore c h).memAs

theorem State.modInst_loads (s : State) (core slot age : Nat) (f : Inst → Inst) :
    ((s.modInst core slot age f).core core).loads = (s.core core).loads := by
  by_cases hc : core < s.cores.length
  · rw [State.core_modInst _ _ _ _ _ hc]
  · rw [State.core_none _ (by simpa using hc), State.core_none _ (by simpa using hc)]

theorem State.emit_loads (s : State) (core slot age : Nat) (ts : List Target) (tok : Tok) :
    ((s.emit core slot age ts tok).core core).loads = (s.core core).loads := by
  unfold State.emit
  induction ts generalizing s with
  | nil => rfl
  | cons t ts ih =>
    simp only [List.foldl_cons]
    rw [ih]
    cases t with
    | none => rfl
    | port p n =>
      by_cases hc : core < s.cores.length
      · rw [State.emit1, State.core_modCore _ _ _ hc]
      · rw [State.core_none _ (by simpa [State.emit1] using hc), State.core_none _ (by simpa using hc)]
    | wslot n =>
      show ((s.toWslot core slot age n.toNat tok).core core).loads = _
      unfold State.toWslot
      split
      · rfl
      · split
        · dsimp only [State.draw]
          by_cases hx : Config.freeNat s.freeCtr % 2 = 0
          · rw [if_pos hx]; rfl
          · rw [if_neg hx]; exact State.modInst_loads _ _ _ _ _
        · exact State.modInst_loads _ _ _ _ _

theorem State.keeps_dropLoad (s : State) (core : Nat) (l : PLoad) : s.FiringKeeps (s.dropLoad core l) := s.keeps_modCore _ fun _ => rfl

theorem State.keeps_loadReturn (s : State) (core chair : Nat) (l : PLoad) : s.FiringKeeps (s.loadReturn core chair l) := by
  unfold State.loadReturn
  dsimp only
  split
  · exact s.keeps_dropLoad _ _
  · split
    · exact (State.keeps_newTile (s.keeps_dropLoad _ _) _ _ _ _ _ _ _).trans (State.keeps_emit _ _ _ _ _ _)
    · exact (s.keeps_dropLoad _ _).trans (State.keeps_emit _ _ _ _ _ _)

theorem State.keeps_loadFault (s : State) (core : Nat) (l : PLoad) (a b : Nat) : s.FiringKeeps (s.loadFault core l a b) :=
  (s.keeps_dropLoad _ _).trans (State.keeps_record _ _ _ _ _)

theorem State.keeps_loadHeld (s : State) (core chair : Nat) (l : PLoad) (a b : Nat) : s.FiringKeeps (s.loadHeld core chair l a b) :=
  (s.keeps_perfEvent _ _ _ _).trans (State.keeps_modCore _ _ fun _ => rfl)

theorem State.keeps_countConsumed (s : State) (core : Nat) (sl : Slot) (l : PLoad) (p : LoadPart) (e : TransErr) :
    s.FiringKeeps (s.countConsumed core sl l p e) := by
  unfold State.countConsumed
  repeat' split
  · exact s.keeps_noteTrans _
  · exact s.keeps_consume _ _ _
  · exact s.keeps_ueGlobal _
  · exact .refl _

theorem State.keeps_loadSettle (s : State) (core chair n : Nat) (l : PLoad) : s.FiringKeeps (s.loadSettle core chair n l) := by
  unfold State.loadSettle
  repeat' split
  · exact s.keeps_loadFault _ _ _ _
  · exact s.keeps_loadReturn _ _ _
  · exact s.keeps_modCore _ fun _ => rfl

theorem State.keeps_loadGets (s : State) (core n : Nat) (sl : Slot) (i : Inst) (l : PLoad) (done : List LoadPart) :
    s.FiringKeeps (s.loadGets core n sl i l done) :=
  ((s.keeps_modInst _ _ _ _).trans (State.keeps_loadSettle _ _ _ _ _)).trans (State.keeps_modCore _ _ fun _ => rfl)

/-- Performing a load changes nothing but what firings change: no memory, no register, no committed store. -/
theorem State.keeps_loadPerform (s : State) (core n : Nat) (sl : Slot) (i : Inst) (user : Bool) (l : PLoad) (pick : List LoadPart) :
    s.FiringKeeps (s.loadPerform core n sl i user l pick) := by
  unfold State.loadPerform
  split
  · dsimp only
    split
    · exact (s.keeps_countConsumed _ _ _ _ _).trans (State.keeps_loadHeld _ _ _ _ _ _)
    · unfold State.loadFails
      split
      · exact (s.keeps_countConsumed _ _ _ _ _).trans (State.keeps_loadSettle _ _ _ _ _)
      · exact (s.keeps_countConsumed _ _ _ _ _).trans (State.keeps_loadFault _ _ _ _ _)
  · exact s.keeps_loadGets _ _ _ _ _ _

theorem get_chairBytes_in (c : Chair) {m : Memory} (h : m.wf = true) (gpa key n v j : Nat) (hj : j < n) :
    (chairBytes c m gpa key n v).get (key + j) = c.keepHold (gpa + j) (m.get (key + j)) (BitVec.ofNat 8 (v / 256 ^ j)) := by
  induction n generalizing m gpa key v j with
  | zero => omega
  | succ n ih =>
    simp only [chairBytes]
    cases j with
    | zero =>
      rw [get_chairBytes_other c (Memory.set_wf h _ _) _ (by omega)]
      simp only [Nat.add_zero, Memory.get_set_same h, Nat.pow_zero, Nat.div_one]
    | succ j =>
      have := ih (Memory.set_wf h key (c.keepHold gpa (m.get key) (BitVec.ofNat 8 v))) (gpa + 1) (key + 1) (v / 256) j (by omega)
      rw [show key + (j + 1) = key + 1 + j by omega, show gpa + (j + 1) = gpa + 1 + j by omega, this, Memory.get_set_other h _ (by omega),
        Nat.div_div_eq_div_mul, Nat.pow_succ, Nat.mul_comm]

theorem get_writeLocalMem_in {m : Memory} (h : m.wf = true) (sl : Slot) (off n v j : Nat) (hj : j < n)
    (hd : ∀ i < n, ∀ k < n, sl.localAddr (off + i) = sl.localAddr (off + k) → i = k) :
    (writeLocalMem m sl off n v).get (sl.localAddr (off + j)) = BitVec.ofNat 8 (v / 256 ^ j) := by
  induction n generalizing m off v j with
  | zero => omega
  | succ n ih =>
    simp only [writeLocalMem]
    cases j with
    | zero =>
      rw [get_writeLocalMem_other (Memory.set_wf h _ _) sl _ (fun i hi he => ?_)]
      · simp only [Nat.add_zero, Memory.get_set_same h, Nat.pow_zero, Nat.div_one]
      · have := hd 0 (by omega) (i + 1) (by omega) (by rw [show off + (i + 1) = off + 1 + i by omega]; exact he)
        omega
    | succ j =>
      have := ih (Memory.set_wf h (sl.localAddr off) (BitVec.ofNat 8 v)) (off + 1) (v / 256) j (by omega) (fun i hi k hk he => by
        have := hd (i + 1) (by omega) (k + 1) (by omega) (by rw [show off + (i + 1) = off + 1 + i by omega, show off + (k + 1) = off + 1 + k by omega]; exact he)
        omega)
      rw [show off + (j + 1) = off + 1 + j by omega, this, Nat.div_div_eq_div_mul, Nat.pow_succ, Nat.mul_comm]


/-! ### Chains and emissions -/

theorem State.frontier_key (s : State) (chair chain : Nat) : (s.frontier chair chain).chair = chair ∧ (s.frontier chair chain).chain = chain := by
  unfold State.frontier
  cases h : s.frontiers.find? fun f => decide (f.chair = chair) && decide (f.chain = chain) with
  | none => exact ⟨rfl, rfl⟩
  | some f => have := List.find?_some h; simp at this; exact this

theorem frontier_of {s : State} {f : Frontier} {l : List Frontier} (h : s.frontiers = f :: l) : s.frontier f.chair f.chain = f := by
  simp [State.frontier, h]

theorem State.applyChainStore_same (s : State) (d : DEntry) : (s.applyChainStore d).dressers = s.dressers ∧ (s.applyChainStore d).frontiers = s.frontiers := by
  unfold State.applyChainStore
  repeat' split
  all_goals exact ⟨rfl, rfl⟩

theorem State.step_eq (s : State) (chair chain : Nat) (t : Triple) : (s.frontier chair chain).step t = ⟨chair, chain, t.own, t.succ⟩ := by
  obtain ⟨a, b⟩ := s.frontier_key chair chain
  unfold Frontier.step
  rw [a, b]

theorem State.dresserIsHeld {s : State} {core slot age k : Nat} (h : ∀ h ∈ (s.core core).held, ¬(h.slot = slot ∧ h.age = age ∧ h.k = k)) :
    (s.core core).held.any (fun h => h.slot = slot && h.age = age && h.k = k) = false := by
  simp only [List.any_eq_false, Bool.and_eq_true, decide_eq_true_eq]
  exact fun x hx hh => h x hx ⟨hh.1.1, hh.1.2, hh.2⟩

theorem State.emit_dressers (s : State) (core slot age : Nat) (ts : List Target) (tok : Tok) :
    (s.emit core slot age ts tok).dressers = s.dressers ∧ (s.emit core slot age ts tok).frontiers = s.frontiers :=
  have h := (State.keeps_emit s core slot age ts tok).settled
  ⟨show (State.settled _).dressers = s.settled.dressers by rw [h], show (State.settled _).frontiers = s.settled.frontiers by rw [h]⟩

theorem State.emit1_block {s : State} {core slot age : Nat} {j : Inst} (h : s.block? core slot age = some j) (t : Target) (tok : Tok) :
    ∃ j', (s.emit1 core slot age t tok).block? core slot age = some j' ∧ j'.sat = j.sat ∧ j'.faults = j.faults ∧ j'.waits = j.waits ∧ j'.kacts = j.kacts := by
  have hm : ∀ (s : State), s.block? core slot age = some j → ∀ f : Inst → Inst, (∀ x, (f x).age = x.age) → (s.modInst core slot age f).block? core slot age = some (f j) := by
    intro s h f hf
    unfold State.block? at h ⊢
    cases hs : s.slot? core slot with
    | none => rw [hs] at h; exact absurd h (by simp)
    | some sl =>
      rw [hs] at h
      obtain ⟨sl2, q1, q2⟩ := State.inst_modInst (f := f) hs (by simpa using h) fun x hx => (hf x).trans hx
      rw [q1]; exact q2
  cases t with
  | none => exact ⟨j, h, rfl, rfl, rfl, rfl⟩
  | port p n =>
    refine ⟨j, ?_, rfl, rfl, rfl, rfl⟩
    unfold State.block? at h ⊢
    rw [State.emit1, State.slot?_modCore _ _ _ _ _ rfl]; exact h
  | wslot n =>
    show ∃ j', (s.toWslot core slot age n.toNat tok).block? core slot age = some j' ∧ _
    unfold State.toWslot
    have h' : ((s.slot? core slot).bind (·.inst? age)) = some j := h
    rw [h']
    dsimp only
    split
    · by_cases hx : (s.draw 2).1 = 0
      · rw [if_pos hx]; exact ⟨j, h, rfl, rfl, rfl, rfl⟩
      · rw [if_neg hx]; exact ⟨_, hm { s with freeCtr := s.freeCtr + 1 } h _ (fun _ => rfl), rfl, rfl, rfl, rfl⟩
    · exact ⟨_, hm s h _ (fun _ => rfl), rfl, rfl, rfl, rfl⟩

/-- An emission leaves what its block has recorded besides its write slots. -/
theorem State.emit_block {s : State} {core slot age : Nat} {j : Inst} (h : s.block? core slot age = some j) (ts : List Target) (tok : Tok) :
    ∃ j', (s.emit core slot age ts tok).block? core slot age = some j' ∧ j'.sat = j.sat ∧ j'.faults = j.faults ∧ j'.waits = j.waits ∧ j'.kacts = j.kacts := by
  unfold State.emit
  induction ts generalizing s j with
  | nil => exact ⟨j, h, rfl, rfl, rfl, rfl⟩
  | cons t ts ih =>
    obtain ⟨j1, h1, a, b, c, d⟩ := State.emit1_block h t tok
    obtain ⟨j2, h2, a', b', c', d'⟩ := ih h1
    exact ⟨j2, h2, a'.trans a, b'.trans b, c'.trans c, d'.trans d⟩

theorem State.block_modInst {s : State} {core slot age : Nat} {j : Inst} (h : s.block? core slot age = some j) {f : Inst → Inst} (hf : ∀ x, (f x).age = x.age) :
    (s.modInst core slot age f).block? core slot age = some (f j) := by
  unfold State.block? at h ⊢
  cases hs : s.slot? core slot with
  | none => rw [hs] at h; exact absurd h (by simp)
  | some sl =>
    rw [hs] at h
    obtain ⟨sl2, q1, q2⟩ := State.inst_modInst (f := f) hs (by simpa using h) fun x hx => (hf x).trans hx
    rw [q1]; exact q2

/-- A single-range load that leaves its port. -/
theorem State.loadReturn_one {s : State} {core chair : Nat} {l : PLoad} {sl : Slot} {i : Inst} {x : Instr} {p : LoadPart} {v : Nat}
    (hs : s.slot? core l.slot = some sl) (hi : sl.inst? l.age = some i) (hx : i.instr l.k = some x)
    (hform : l.form = .zext ∨ l.form = .sext ∨ l.form = .vector) :
    s.loadReturn core chair { l with parts := [{ p with got := some v }] } =
      State.emit (s.dropLoad core l) core l.slot l.age (instrTargets x) (l.form.token p.bytes v) := by
  have hsl : ((s.dropLoad core { l with parts := [{ p with got := some v }] }).slot? core l.slot).bind
      (fun sl => (sl.inst? l.age).bind (·.instr l.k)) = some x := by
    rw [State.dropLoad, State.slot?_modCore _ _ _ _ _ rfl, hs]; simp [hi, hx]
  have htok : loadToken { l with parts := [{ p with got := some v }] } = l.form.token p.bytes v := by
    rcases hform with h | h | h <;> simp [loadToken, LoadForm.token, h]
  unfold State.loadReturn
  dsimp only
  rw [hsl, ← htok]
  rcases hform with h | h | h <;> (rw [h]; rfl)

theorem performPart_of {s : State} {core : Nat} {sl : Slot} {i : Inst} {user : Bool} {l : PLoad} {p : LoadPart} {v : Nat}
    (hb : s.Bytes core sl i l.lsid l.loc p v) : performPart s core sl i user l p = .ok { p with got := some v } := by
  unfold performPart
  rcases hb with ⟨h1, h2, h3⟩ | ⟨h1, gpa, key, h2, h3, h4⟩
  · rw [h1]; simp only [if_true, h2, Bool.false_eq_true, if_false, h3]; rw [h1]
  · have hp : s.partPlace core sl user p = .ok (gpa, key) := by unfold State.partPlace; rw [h2]
    rw [h1]; simp only [Bool.false_eq_true, if_false, hp, h3, h4]
    cases p; simp_all


/-! ### Handles -/

/-- What an emission changes of a core and nothing else of it. -/
theorem State.emit_core (s : State) (core slot age : Nat) (ts : List Target) (tok : Tok) :
    (s.emit core slot age ts tok).cores.length = s.cores.length ∧ (s.emit core slot age ts tok).chairs = s.chairs ∧
    ∀ c, ∃ n sl, (s.emit core slot age ts tok).core c = { s.core c with net := n, slots := sl } := by
  unfold State.emit
  induction ts generalizing s with
  | nil => exact ⟨rfl, rfl, fun c => ⟨_, _, rfl⟩⟩
  | cons t ts ih =>
    have h1 : (s.emit1 core slot age t tok).cores.length = s.cores.length ∧ (s.emit1 core slot age t tok).chairs = s.chairs ∧
        ∀ c, ∃ n sl, (s.emit1 core slot age t tok).core c = { s.core c with net := n, slots := sl } := by
      have hmc : ∀ (s : State) (f : Core → Core), (∀ k, ∃ n sl, f k = { k with net := n, slots := sl }) →
          ∀ c, ∃ n sl, (s.modCore core f).core c = { s.core c with net := n, slots := sl } := by
        intro s f hf c
        by_cases hd : c = core
        · subst hd
          by_cases hc : c < s.cores.length
          · rw [State.core_modCore _ _ _ hc]; exact hf _
          · rw [State.core_none _ (by simpa using hc), State.core_none _ (by simpa using hc)]; exact ⟨_, _, rfl⟩
        · rw [State.core_modCore_ne _ _ hd]; exact ⟨_, _, rfl⟩
      cases t with
      | none => exact ⟨rfl, rfl, fun c => ⟨_, _, rfl⟩⟩
      | port p n => exact ⟨by simp [State.emit1], rfl, hmc s _ fun k => ⟨_, _, rfl⟩⟩
      | wslot n =>
        refine ⟨(State.toWslot_core s core slot age n.toNat tok).2, ?_, ?_⟩
        · show (s.toWslot core slot age n.toNat tok).chairs = _
          unfold State.toWslot; split
          · rfl
          · split
            · dsimp only; split <;> rfl
            · rfl
        · show ∀ c, ∃ a b, (s.toWslot core slot age n.toNat tok).core c = _
          unfold State.toWslot; split
          · exact fun c => ⟨_, _, rfl⟩
          · split
            · dsimp only
              by_cases hx : (s.draw 2).1 = 0
              · rw [if_pos hx]; exact fun c => ⟨_, _, rfl⟩
              · rw [if_neg hx]; exact hmc { s with freeCtr := s.freeCtr + 1 } _ fun k => ⟨_, _, rfl⟩
            · exact hmc s _ fun k => ⟨_, _, rfl⟩
    obtain ⟨a, b, c⟩ := ih (s.emit1 core slot age t tok)
    refine ⟨a.trans h1.1, b.trans h1.2.1, fun x => ?_⟩
    obtain ⟨n, sl, e⟩ := c x
    obtain ⟨n', sl', e'⟩ := h1.2.2 x
    exact ⟨n, sl, by simp only [List.foldl_cons, e, e']⟩

/-- An emission leaves what a handle names. -/
theorem State.handleState_emit (s : State) (core slot age : Nat) (ts : List Target) (tok : Tok) (chair h : Nat) :
    (s.emit core slot age ts tok).handleState chair h = s.handleState chair h := by
  obtain ⟨a, b, c⟩ := State.emit_core s core slot age ts tok
  have hk := State.keeps_emit s core slot age ts tok
  have hcq : ∀ x, ((s.emit core slot age ts tok).core x).cq = (s.core x).cq := fun x => by obtain ⟨n, sl, e⟩ := c x; rw [e]
  have hch : ∀ n, (s.emit core slot age ts tok).chair n = s.chair n := fun n => by simp only [State.chair, b]
  have hsl : ∀ x j, ((s.emit core slot age ts tok).slot? x j).map (·.chair) = (s.slot? x j).map (·.chair) := by
    intro x j
    have := congrArg (Option.map (·.chair)) (hk.slots x j)
    simpa [Option.map_map, Function.comp_def, Slot.settled] using this
  unfold State.handleState State.entry?
  simp only [hcq, hch]
  have e := hsl (bits h 48 8) (bits h 46 2)
  split
  · rfl
  · split
    · generalize (s.emit core slot age ts tok).slot? (bits h 48 8) (bits h 46 2) = o1 at e
      generalize s.slot? (bits h 48 8) (bits h 46 2) = o2 at e
      cases o1 <;> cases o2
      · rfl
      · cases e
      · cases e
      · rename_i x y
        have e' : x.chair = y.chair := Option.some.inj e
        simp only [Option.bind_some, e']
    · rfl
    · rfl

theorem findEntry_modEntry (l : List CqEntry) (slot idx seq : Nat) {f : CqEntry → CqEntry}
    (hf : ∀ e, (f e).slot = e.slot ∧ (f e).idx = e.idx ∧ (f e).seq = e.seq) :
    findEntry (modEntry l slot idx seq f) slot idx seq = (findEntry l slot idx seq).map f := by
  unfold findEntry modEntry
  induction l with
  | nil => rfl
  | cons e l ih =>
    obtain ⟨h1, h2, h3⟩ := hf e
    by_cases h : e.slot = slot ∧ e.idx = idx ∧ e.seq = seq
    · simp [h, h1, h2, h3]
    · have hk : (decide (e.slot = slot) && decide (e.idx = idx) && decide (e.seq = seq)) = false := by
        rw [Bool.eq_false_iff]; simpa [and_assoc] using h
      rw [List.map_cons, if_neg h, List.find?_cons, hk, List.find?_cons, hk]
      exact ih

theorem State.chair_modChair_same {s : State} {n : Nat} (f : Chair → Chair) (h : n < s.chairs.length) : (s.modChair n f).chair n = f (s.chair n) := by
  simp [State.chair, State.modChair, List.getD_eq_getElem?_getD, List.getElem?_eq_getElem h]

/-- A change of the entry that a handle names changes that entry. -/
theorem State.entry_modHandle (s : State) (chair h : Nat) {f : CqEntry → CqEntry}
    (hf : ∀ e, (f e).slot = e.slot ∧ (f e).idx = e.idx ∧ (f e).seq = e.seq) :
    (s.modHandle chair h f).entry? chair h = (s.entry? chair h).map f := by
  unfold State.entry? State.modHandle
  split
  · rfl
  by_cases h0 : bits h 56 2 = 0
  · simp only [h0, if_true]
    rw [State.slot?_modCore _ _ _ _ _ rfl]
    cases hs : s.slot? (bits h 48 8) (bits h 46 2) with
    | none => rfl
    | some sl =>
      have hc : bits h 48 8 < s.cores.length := by
        by_contra hc
        rw [State.slot?_none _ _ (by omega)] at hs; cases hs
      simp only [Option.bind_some]
      split
      · rw [State.core_modCore _ _ _ hc]; exact findEntry_modEntry _ _ _ _ hf
      · rfl
  · simp only [h0, if_false]
    split
    · rename_i g; exact absurd g h0
    · split
      · by_cases hc : chair < s.chairs.length
        · rw [State.chair_modChair_same _ hc]; exact findEntry_modEntry _ _ _ _ hf
        · have g : ∀ u : State, u.chairs.length = s.chairs.length → u.chair chair = Chair.reset := fun u hu => by
            simp only [State.chair, List.getD_eq_getElem?_getD]
            rw [List.getElem?_eq_none (by omega)]; rfl
          rw [g _ (by simp [State.modChair]), g s rfl]; rfl
      · rfl
    · rfl

theorem List.any_modify_same {α : Type} {p : α → Bool} {f : α → α} (h : ∀ x, p (f x) = p x) (l : List α) (n : Nat) :
    (l.modify n f).any p = l.any p := by
  induction l generalizing n with
  | nil => cases n <;> rfl
  | cons a l ih => cases n with
    | zero => simp [h]
    | succ n => simp [ih]

/-- A completion whose word has been read names nothing any more, once no WAITC waits for it (R320). -/
theorem State.handleState_read {s : State} {chair h : Nat} {w : Word} (hw : s.handleState chair h = some (some w))
    (hn : s.waitsOn chair h = false) : (s.readHandle chair h).handleState chair h = none := by
  have hn' : ∀ f, (s.modHandle chair h f).waitsOn chair h = false := by
    intro f
    rw [← hn]
    unfold State.modHandle
    dsimp only
    split
    · refine List.any_modify_same ?_ _ _
      intro _; rfl
    · rfl
  unfold State.readHandle State.settleHandle
  rw [hn']
  simp only [Bool.false_eq_true, if_false]
  unfold State.handleState at hw ⊢
  rw [State.entry_modHandle, State.entry_modHandle]
  · cases he : s.entry? chair h with
    | none => rfl
    | some e =>
      rw [he] at hw
      simp only [Option.bind_some, Option.map_some] at hw ⊢
      cases hst : e.st <;> simp_all [CqEntry.shown]
  · intro e; split <;> exact ⟨rfl, rfl, rfl⟩
  · intro e; split <;> exact ⟨rfl, rfl, rfl⟩

/-! ### Packets -/

theorem State.setQueueStatus_rest (s : State) (chair n v : Nat) (k : Option Nat) :
    (s.setQueueStatus chair n v k).chairs = s.chairs ∧ (s.setQueueStatus chair n v k).launches = s.launches ∧
    (s.setQueueStatus chair n v k).seqNo = s.seqNo ∧ (s.setQueueStatus chair n v k).arb = s.arb ∧
    (s.setQueueStatus chair n v k).frontiers = s.frontiers ∧ (s.setQueueStatus chair n v k).cores = s.cores ∧
    (s.setQueueStatus chair n v k).nextId = s.nextId := by
  unfold State.setQueueStatus
  split
  · exact ⟨rfl, rfl, rfl, rfl, rfl, rfl, rfl⟩
  · split
    · exact ⟨rfl, rfl, rfl, rfl, rfl, rfl, rfl⟩
    · split <;> exact ⟨rfl, rfl, rfl, rfl, rfl, rfl, rfl⟩

theorem State.takeUp_same (s : State) (chair : Nat) (src : LaunchFrom) :
    (s.takeUp chair src).2.launches = s.launches ∧ (s.takeUp chair src).2.seqNo = s.seqNo ∧ (s.takeUp chair src).2.arb = s.arb ∧
    (s.takeUp chair src).2.frontiers = s.frontiers ∧ (s.takeUp chair src).2.cores = s.cores ∧
    (s.takeUp chair src).1.priv = src.priv ∧ (s.takeUp chair src).2.nextId = s.nextId := by
  cases src with
  | device a b c d e f => exact ⟨rfl, rfl, rfl, rfl, rfl, rfl, rfl⟩
  | remote p => exact ⟨rfl, rfl, rfl, rfl, rfl, rfl, rfl⟩
  | table q a b st =>
    simp only [State.takeUp]
    generalize freeIdx (s.chair chair).lt 0 4096 = fr
    split
    · exact ⟨rfl, rfl, rfl, rfl, rfl, rfl, rfl⟩
    · split
      · exact ⟨rfl, rfl, rfl, rfl, rfl, rfl, rfl⟩
      · obtain ⟨-, h1, h2, h3, h4, h5, h6⟩ := State.setQueueStatus_rest ((((s.draw fr.length).2.modChair chair fun c =>
          { c with lt := (allocEntry ((s.draw fr.length).2.chair chair).lt 0 (fr.getD (s.draw fr.length).1 0) (decide (st = 0))).2 }).ueGlobal
            (‹Fail› : Fail).words).noteCarve (‹Fail› : Fail).carve) chair q 2 (some ((((s.draw fr.length).2.modChair chair fun c =>
          { c with lt := (allocEntry ((s.draw fr.length).2.chair chair).lt 0 (fr.getD (s.draw fr.length).1 0) (decide (st = 0))).2 }).chair chair).entryKindAt q))
        exact ⟨h1, h2, h3, h4, h5, rfl, h6⟩

theorem State.takeUp_device (s : State) (chair a b c d e : Nat) (f : Bool) : s.takeUp chair (.device a b c d e f) = (.device a b c d e f, s) := rfl

theorem readVa_zero (s : State) (chair asid : Nat) (user : Bool) (va : Nat) : readVa s chair asid user va 0 = .ok 0 := by
  simp [readVa, pagePieces, walkPieces, readPieces]

theorem readMap_home (s : State) (chair asid : Nat) (user : Bool) (p : List Word) (h : pkDw p 6 = 0) :
    readMap s chair asid user p = .ok [(0, pkRoots p)] := by
  simp [readMap, h]

theorem State.table_takeUp {s : State} {chair : Nat} (q a b d : Nat) (hc : chair < s.chairs.length) (hne : freeIdx (s.chair chair).lt 0 4096 ≠ []) :
    ∃ idx seq st, (s.takeUp chair (.table q a b d)).1 = .table q idx seq st ∧ idx ∈ freeIdx (s.chair chair).lt 0 4096 ∧
      (∃ l, ((s.takeUp chair (.table q a b d)).2.chair chair).lt = ⟨0, idx, seq, .pending, 0, decide (d = 0)⟩ :: l) ∧
      (s.takeUp chair (.table q a b d)).2.chairs.length = s.chairs.length := by
  have hmem : (freeIdx (s.chair chair).lt 0 4096).getD (Config.freeNat s.freeCtr % (freeIdx (s.chair chair).lt 0 4096).length) 0 ∈ freeIdx (s.chair chair).lt 0 4096 := by
    have hl : Config.freeNat s.freeCtr % (freeIdx (s.chair chair).lt 0 4096).length < (freeIdx (s.chair chair).lt 0 4096).length :=
      Nat.mod_lt _ (List.length_pos_iff.mpr hne)
    rw [List.getD_eq_getElem?_getD, List.getElem?_eq_getElem hl, Option.getD_some]
    exact List.getElem_mem _
  simp only [State.takeUp]
  refine ⟨_, _, _, rfl, hmem, ?_, ?_⟩
  · have key : ∀ X : State, X.chairs = ((s.draw (freeIdx (s.chair chair).lt 0 4096).length).2.modChair chair fun c => { c with lt := (allocEntry ((s.draw (freeIdx (s.chair chair).lt 0 4096).length).2.chair chair).lt 0 ((freeIdx (s.chair chair).lt 0 4096).getD (Config.freeNat s.freeCtr % (freeIdx (s.chair chair).lt 0 4096).length) 0) (decide (d = 0))).2 }).chairs → 
      ∃ l, (X.chair chair).lt = ⟨0, ((freeIdx (s.chair chair).lt 0 4096).getD (Config.freeNat s.freeCtr % (freeIdx (s.chair chair).lt 0 4096).length) 0), (allocEntry ((s.draw (freeIdx (s.chair chair).lt 0 4096).length).2.chair chair).lt 0 ((freeIdx (s.chair chair).lt 0 4096).getD (Config.freeNat s.freeCtr % (freeIdx (s.chair chair).lt 0 4096).length) 0) (decide (d = 0))).1, .pending, 0, decide (d = 0)⟩ :: l := by
      intro X hX
      have : X.chair chair = ((s.draw (freeIdx (s.chair chair).lt 0 4096).length).2.modChair chair fun c => { c with lt := (allocEntry ((s.draw (freeIdx (s.chair chair).lt 0 4096).length).2.chair chair).lt 0 ((freeIdx (s.chair chair).lt 0 4096).getD (Config.freeNat s.freeCtr % (freeIdx (s.chair chair).lt 0 4096).length) 0) (decide (d = 0))).2 }).chair chair := by
        simp only [State.chair, hX]
      rw [this, State.chair_modChair_same _ (by exact hc)]
      exact ⟨_, rfl⟩
    refine key _ ?_
    split
    · rfl
    · split
      · rfl
      · exact (State.setQueueStatus_rest _ _ _ _ _).1
  · split
    · simp [State.modChair, State.draw]
    · split
      · simp [State.modChair, State.draw, State.storeGlobal]
      · rw [(State.setQueueStatus_rest _ _ _ _ _).1]; simp [State.modChair, State.draw, State.ueGlobal, State.noteCarve]


/-! ### Slots given up -/

theorem get_zeroBytes (m : Memory) (a n x : Nat) : (zeroBytes m a n).get x = if a ≤ x ∧ x < a + n then 0 else m.get x := by
  unfold zeroBytes
  induction m with
  | nil => simp [Memory.get, Memory.blank]
  | cons c r ih =>
    obtain ⟨y, b⟩ := c
    rw [List.filter_cons]
    by_cases hy : a ≤ y ∧ y < a + n
    · have : (!(decide (a ≤ y) && decide (y < a + n))) = false := by simp [hy.1, hy.2]
      simp only [this, Bool.false_eq_true, if_false]
      rw [ih]
      by_cases hx : a ≤ x ∧ x < a + n
      · simp [hx]
      · rw [if_neg hx, if_neg hx]
        have hne : y ≠ x := by rintro rfl; exact hx hy
        simp [Memory.get, hne]
    · have : (!(decide (a ≤ y) && decide (y < a + n))) = true := by
        simp only [Bool.not_eq_true', Bool.and_eq_false_iff, decide_eq_false_iff_not]
        by_cases h : a ≤ y
        · exact .inr fun h2 => hy ⟨h, h2⟩
        · exact .inl h
      simp only [this, if_true]
      by_cases hyx : y = x
      · subst hyx; rw [if_neg hy]; simp [Memory.get]
      · simp only [Memory.get, hyx, if_false]; exact ih

theorem get_zeroUnits (l : List Nat) (m : Memory) (x : Nat) :
    Memory.get (l.foldl (fun m u => zeroBytes m (u * 0x4000) 0x4000) m) x = if (∃ n ∈ l, n * 0x4000 ≤ x ∧ x < (n + 1) * 0x4000) then 0 else m.get x := by
  induction l generalizing m with
  | nil => simp
  | cons u l ih =>
    simp only [List.foldl_cons]
    rw [ih, get_zeroBytes]
    by_cases h1 : ∃ n ∈ l, n * 0x4000 ≤ x ∧ x < (n + 1) * 0x4000
    · have h2 : ∃ n ∈ u :: l, n * 0x4000 ≤ x ∧ x < (n + 1) * 0x4000 := by obtain ⟨n, a, b⟩ := h1; exact ⟨n, List.mem_cons_of_mem _ a, b⟩
      rw [if_pos h1, if_pos h2]
    · rw [if_neg h1]
      by_cases hu : u * 0x4000 ≤ x ∧ x < u * 0x4000 + 0x4000
      · rw [if_pos hu, if_pos ⟨u, List.mem_cons_self, hu.1, by omega⟩]
      · rw [if_neg hu, if_neg]
        rintro ⟨n, hn, h3⟩
        rcases List.mem_cons.mp hn with rfl | hn
        · exact hu ⟨h3.1, by omega⟩
        · exact h1 ⟨n, hn, h3⟩

theorem State.chestFree_cores (s : State) (sl : Slot) (area va n : Nat) :
    (s.chestFree sl area va n).cores = s.cores ∧ (s.chestFree sl area va n).launches = s.launches := by
  induction n generalizing s va with
  | zero => exact ⟨rfl, rfl⟩
  | succ n ih =>
    unfold State.chestFree
    dsimp only
    refine ⟨(ih _ _).1.trans ?_, (ih _ _).2.trans ?_⟩ <;> (split <;> rfl)

theorem State.finishLaunch_core (s : State) (id c : Nat) : ∃ q, (s.finishLaunch id).core c = { s.core c with cq := q } := by
  have h0 : ∀ r : State, (r.core c = s.core c) → ∀ n a b e w, ∃ q, (r.completeCq n a b e w).core c = { s.core c with cq := q } := by
    intro r hr n a b e w
    rw [← hr]
    unfold State.completeCq
    by_cases hcc : c = n
    · subst hcc
      by_cases hlt : c < r.cores.length
      · rw [State.core_modCore _ _ _ hlt]; exact ⟨_, rfl⟩
      · rw [State.core_none _ (by simpa using hlt), State.core_none _ (by simpa using hlt)]; exact ⟨_, rfl⟩
    · rw [State.core_modCore_ne _ _ hcc]; exact ⟨_, rfl⟩
  unfold State.finishLaunch State.answerLaunch
  dsimp only
  repeat' split
  all_goals first | exact ⟨_, rfl⟩ | exact h0 _ rfl _ _ _ _ _

theorem poolTake_root (pool : List (Bool × Nat)) (chair ctx idx : Nat) (h : idx < 256) :
    poolTake pool (rootTag chair ctx idx) idx = pool.modify idx fun x => (true, x.2 + 1) := by
  have hn : (rootTag chair ctx idx).toNat = (chair * 2 ^ 58 + ctx * 2 ^ 54 + 2 ^ 51 + idx * 2 ^ 40) % 2 ^ 64 := by
    unfold rootTag; rw [BitVec.toNat_ofNat]
  have hd : bits (rootTag chair ctx idx).toNat 51 3 = 1 := by rw [hn]; simp only [bits]; omega
  have hf : bits (rootTag chair ctx idx).toNat 40 8 = idx := by rw [hn]; simp only [bits]; omega
  have : tagFields (rootTag chair ctx idx) = [idx] := by
    unfold tagFields; rw [hd]; simp [hf]
  unfold poolTake
  rw [this, show [idx].eraseDups = [idx] from rfl]
  simp only [List.foldl_cons, List.foldl_nil, decide_true, Bool.or_true]

end Sys2Proof.Machine
end

