-- ==== Sys2Proof/Laws/Switch.lean ====
section
/-! SUPPORT. What eviction, resume and chair reset leave of the slots of a package. -/

namespace Sys2Proof.Machine
open Sys2Proof

/-! ### No act of a tear-down makes a slot -/

/-- Each slot of `b` is the same context's slot in `a`. -/
def State.SlotsOf (a b : State) : Prop :=
  ∀ c i y, b.slot? c i = some y → ∃ x, a.slot? c i = some x ∧ y.launch = x.launch

theorem State.SlotsOf.rfl' (a : State) : a.SlotsOf a := fun _ _ y h => ⟨y, h, rfl⟩

theorem State.SlotsOf.trans {a b c : State} (h : a.SlotsOf b) (g : b.SlotsOf c) : a.SlotsOf c := fun n i y hy => by
  obtain ⟨x, hx, e⟩ := g n i y hy
  obtain ⟨z, hz, f⟩ := h n i x hx
  exact ⟨z, hz, e.trans f⟩

theorem State.SlotsOf.of_eq {a b : State} (h : ∀ c i, b.slot? c i = a.slot? c i) : a.SlotsOf b := fun c i y hy => ⟨y, (h c i) ▸ hy, rfl⟩

theorem State.SlotsOf.foldl {α : Type} {f : State → α → State} (h : ∀ s a, State.SlotsOf s (f s a)) (l : List α) (s : State) :
    s.SlotsOf (l.foldl f s) := by
  induction l generalizing s with
  | nil => exact .rfl' s
  | cons a l ih => exact (h s a).trans (ih _)

theorem State.slot?_of_cores {a b : State} (h : b.cores = a.cores) (c i : Nat) : b.slot? c i = a.slot? c i := by
  simp only [State.slot?, State.core, h]

theorem State.SlotsOf.cores {a b : State} (h : b.cores = a.cores) : a.SlotsOf b := .of_eq (State.slot?_of_cores h)

theorem Core.reset_slot? (i : Nat) : Core.reset.slot? i = none := by
  simp only [Core.slot?, Core.reset, List.getD_eq_getElem?_getD, List.getElem?_replicate]; split <;> rfl

theorem State.slotsOf_modSlot (s : State) (c i : Nat) {f : Slot → Slot} (h : ∀ x, (f x).launch = x.launch) : s.SlotsOf (s.modSlot c i f) := by
  intro d j y hy
  by_cases hd : d = c ∧ j = i
  · obtain ⟨rfl, rfl⟩ := hd
    rw [State.slot?_modSlot] at hy
    cases hx : s.slot? d j with
    | none => rw [hx] at hy; cases hy
    | some x => rw [hx] at hy; cases hy; exact ⟨x, rfl, h x⟩
  · refine ⟨y, ?_, rfl⟩
    by_cases hc : d = c
    · subst hc
      have hj : j ≠ i := fun e => hd ⟨rfl, e⟩
      by_cases hlt : d < s.cores.length
      · have : (s.modSlot d i f).core d = { s.core d with slots := (s.core d).slots.modify i (·.map f) } := State.core_modCore _ _ _ hlt
        simp only [State.slot?, this, Core.slot?, List.getD_eq_getElem?_getD] at hy ⊢
        rw [List.getElem?_modify_ne] at hy
        · exact hy
        · exact fun e => hj e.symm
      · have : (s.modSlot d i f).core d = Core.reset := State.core_none _ (by simpa [State.modSlot] using hlt)
        simp only [State.slot?, this, Core.reset_slot?] at hy
        cases hy
    · have : (s.modSlot c i f).core d = s.core d := State.core_modCore_ne _ _ hc
      simpa only [State.slot?, this] using hy

theorem State.slotsOf_modCore (s : State) (c : Nat) {f : Core → Core} (h : ∀ k, (f k).slots = k.slots) : s.SlotsOf (s.modCore c f) :=
  .of_eq fun _ _ => State.slot?_modCore _ _ _ _ _ (h _)

theorem State.slotsOf_discard (s : State) (core slot age : Nat) : s.SlotsOf (s.discard core slot age) := by
  unfold State.discard
  split
  · exact .rfl' s
  · split
    · exact .rfl' s
    · rename_i sl _ _ i _
      dsimp only
      refine State.SlotsOf.trans ?_ (State.slotsOf_modCore _ _ (by intro _; rfl))
      refine State.SlotsOf.trans ?_ (State.SlotsOf.of_eq (State.settleWaits_keeps _ _ _).1)
      refine State.SlotsOf.trans ?_ (State.slotsOf_modSlot _ _ _ (by intro _; rfl))
      refine State.SlotsOf.trans ?_ (State.SlotsOf.cores rfl)
      exact State.slotsOf_modCore _ _ (by intro _; rfl)

theorem State.slotsOf_stopEng (s : State) (core : Nat) (e : Eng) (a b : Nat) : s.SlotsOf (s.stopEng core e a b) :=
  .of_eq (s.stopEng_keeps core e a b).2

theorem State.slotsOf_applyAll (s : State) (core slot : Nat) (sl : Slot) : s.SlotsOf (s.applyAll core slot sl) := by
  refine State.SlotsOf.trans (State.SlotsOf.foldl (fun s p => ?_) _ _) (State.slotsOf_modSlot _ _ _ fun _ => rfl)
  split
  · exact .of_eq (s.applyStore_keeps core sl _).2
  · exact .rfl' s

theorem State.slotsOf_abortSlot (s : State) (core slot : Nat) (r : Bool) : s.SlotsOf (s.abortSlot core slot r) := by
  unfold State.abortSlot
  split
  · exact .rfl' s
  rename_i sl _
  dsimp only
  refine State.SlotsOf.trans ?_ (State.slotsOf_modSlot _ _ _ fun _ => rfl)
  refine State.SlotsOf.trans ?_ (State.slotsOf_modCore _ _ (by intro _; rfl))
  refine State.SlotsOf.trans ?_ (State.SlotsOf.foldl (fun s e => ?_) _ _)
  · refine State.SlotsOf.trans ?_ (State.slotsOf_modCore _ _ (by intro _; rfl))
    refine State.SlotsOf.trans ?_ (State.SlotsOf.foldl (fun s e => ?_) _ _)
    · refine State.SlotsOf.trans ?_ (State.SlotsOf.cores rfl)
      exact (State.SlotsOf.foldl (fun s (i : Inst) => State.slotsOf_discard s core slot i.age) sl.insts s).trans
        (State.slotsOf_applyAll _ _ _ _)
    · split
      · exact State.slotsOf_stopEng _ _ _ _ _
      · exact .rfl' _
  · split
    · exact State.slotsOf_stopEng _ _ _ _ _
    · split
      · refine State.SlotsOf.trans ?_ (State.slotsOf_stopEng _ _ _ _ _)
        split
        · exact .of_eq (e.freeOut_keeps s core sl).2
        · exact .rfl' _
      · exact .rfl' _

/-- Vacating leaves every other slot, and no slot there. -/
theorem State.vacate_slot (s : State) (core slot : Nat) (sl : Slot) :
    (s.vacate core slot sl).slot? core slot = none ∧ s.SlotsOf (s.vacate core slot sl) ∧
    (∀ c, c ≠ core → (s.vacate core slot sl).core c = s.core c) ∧ (s.vacate core slot sl).cores.length = s.cores.length ∧
    (s.vacate core slot sl).launches = s.launches := by
  generalize hV : (s.modCore core fun k =>
    { k with slots := k.slots.set slot none,
             mem := sl.units.foldl (fun m u => zeroBytes m (u * 0x4000) 0x4000) k.mem,
             poison := k.poison.filter fun w => !sl.units.contains (w / 0x800),
             arrays := k.arrays.filter (·.slot ≠ slot),
             tiles := k.tiles.filter (·.slot ≠ slot),
             palette := k.palette.map fun d => if d.owner = some slot then .reset else d,
             ranges := k.ranges.filter (·.slot ≠ some slot) }) = V
  have hU : s.vacate core slot sl = V.chestFree sl (((V.launch? sl.launch).map (·.chestGpa)).getD 0) (sl.chestShare core) (128 * sl.chestHigh) := by rw [← hV]; rfl
  obtain ⟨h1, h2⟩ := State.chestFree_cores V sl (((V.launch? sl.launch).map (·.chestGpa)).getD 0) (sl.chestShare core) (128 * sl.chestHigh)
  rw [← hU] at h1 h2
  have hc : ∀ c, (s.vacate core slot sl).core c = V.core c := fun c => by simp only [State.core, h1]
  have hVs : ∀ i, V.slot? core i = if i = slot then none else s.slot? core i := by
    intro i
    by_cases hlt : core < s.cores.length
    · rw [← hV]
      simp only [State.slot?]
      rw [State.core_modCore _ _ _ hlt]
      simp only [Core.slot?, List.getD_eq_getElem?_getD, List.getElem?_set]
      by_cases hi : slot = i
      · rw [if_pos hi, if_pos hi.symm]; split <;> rfl
      · rw [if_neg hi, if_neg fun e => hi e.symm]
    · rw [← hV]
      simp only [State.slot?]
      rw [State.core_none _ (by simpa using hlt), State.core_none _ (by simpa using hlt), Core.reset_slot?]; simp
  have hVo : ∀ c, c ≠ core → V.core c = s.core c := fun c h => by rw [← hV]; exact State.core_modCore_ne _ _ h
  refine ⟨?_, fun c i y hy => ⟨y, ?_, rfl⟩, fun c h => (hc c).trans (hVo c h), by rw [h1, ← hV]; simp, by rw [h2, ← hV]; rfl⟩
  · show ((s.vacate core slot sl).core core).slot? slot = none
    rw [hc]; exact (hVs slot).trans (if_pos rfl)
  · have hy' : (V.core c).slot? i = some y := by rw [← hc]; exact hy
    by_cases hcc : c = core
    · subst hcc
      have := hVs i
      rw [State.slot?, hy'] at this
      split at this
      · cases this
      · exact this.symm
    · rw [hVo c hcc] at hy'; exact hy'

theorem State.slotsOf_finishLaunch (s : State) (id : Nat) : s.SlotsOf (s.finishLaunch id) :=
  .of_eq fun c i => (State.finishLaunch_slot s id c i).1

theorem State.chestFree_saves (s : State) (sl : Slot) (area va n : Nat) : (s.chestFree sl area va n).saves = s.saves := by
  induction n generalizing s va with
  | zero => rfl
  | succ n ih =>
    unfold State.chestFree
    dsimp only
    refine (ih _ _).trans ?_
    split <;> rfl

theorem State.discards_slot {s : State} {core slot : Nat} {sl : Slot} (h : s.slot? core slot = some sl) (l : List Inst) :
    ∃ y, (l.foldl (fun (s : State) i => s.discard core slot i.age) s).slot? core slot = some y ∧ sl.Thin y := by
  induction l generalizing s sl with
  | nil => exact ⟨sl, h, .rfl' sl⟩
  | cons a l ih =>
    obtain ⟨x, h1, h2⟩ := State.discard_slot (age := a.age) h
    obtain ⟨y, h3, h4⟩ := ih h1
    exact ⟨y, h3, h2.trans h4⟩

theorem State.writeImage_keeps (s : State) (core : Nat) (sl : Slot) (area key : Nat) (words : List (Nat × Word)) :
    (s.writeImage core sl area key words).cores = s.cores ∧ (s.writeImage core sl area key words).saves = s.saves ∧
    (s.writeImage core sl area key words).launches = s.launches := by
  unfold State.writeImage State.poisonImage
  refine foldl_keeps (P := fun r => r.cores = s.cores ∧ r.saves = s.saves ∧ r.launches = s.launches) (fun r w hr => ?_) _ _ ⟨rfl, rfl, rfl⟩
  unfold State.poisonGlobal State.deGlobal
  split <;> exact hr

/-- What an eviction leaves of one slot: it is vacated, and its image holds it without its blocks. -/
theorem State.evictSlot_slot {s : State} {l : Launch} {core slot : Nat} {sl : Slot} (h : s.slot? core slot = some sl) :
    (s.evictSlot l core slot).slot? core slot = none ∧
    (∀ c, c ≠ core → (s.evictSlot l core slot).core c = { s.core c with cq := ((s.evictSlot l core slot).core c).cq }) ∧
    (s.evictSlot l core slot).cores.length = s.cores.length ∧ (s.evictSlot l core slot).launches = s.launches ∧
    ∃ x, (s.evictSlot l core slot).saves = s.saves ++ [x] ∧ x.launch = l.id ∧ x.core = core ∧ x.slot = slot ∧
      sl.Thin x.body ∧ x.body.insts = [] ∧ x.body.grants = [] := by
  obtain ⟨y, hy, ht⟩ := State.discards_slot h sl.insts
  have ho : State.OnCore core s (sl.insts.foldl (fun (s : State) i => s.discard core slot i.age) s) :=
    State.onCore_foldl (fun s i => State.onCore_discard s core slot i.age) sl.insts s
  unfold State.evictSlot
  rw [h]
  dsimp only
  generalize sl.insts.foldl (fun (s : State) i => s.discard core slot i.age) s = s1 at hy ho ⊢
  have hm : (s1.modSlot core slot fun x => { x with grants := [], insts := [] }).slot? core slot = some { y with grants := [], insts := [] } := by
    rw [State.slot?_modSlot, hy]; rfl
  have ho2 : State.OnCore core s (s1.modSlot core slot fun x => { x with grants := [], insts := [] }) :=
    ho.trans (State.onCore_modCore s1 core _)
  generalize s1.modSlot core slot (fun x => { x with grants := [], insts := [] }) = s2 at hm ho2 ⊢
  rw [hm]
  dsimp only
  generalize (s2.imagePlace l core).getD (0, 0) = place
  obtain ⟨w1, w2, w3⟩ := s2.writeImage_keeps core { y with grants := [], insts := [] } place.1 place.2
    (s2.imageOf l (s2.saveImage l core slot { y with grants := [], insts := [] } place.1))
  generalize hs3 : s2.writeImage core { y with grants := [], insts := [] } place.1 place.2
    (s2.imageOf l (s2.saveImage l core slot { y with grants := [], insts := [] } place.1)) = sw at w1 w2 w3 ⊢
  generalize hs3 : ({ sw with saves := _, dressers := _ } : State) = s3
  have h3c : s3.cores = s2.cores := by rw [← hs3]; exact w1
  have h3s : s3.saves = s2.saves ++ [s2.saveImage l core slot { y with grants := [], insts := [] } place.1] := by rw [← hs3, ← w2]
  have h3l : s3.launches = s2.launches := by rw [← hs3]; exact w3
  generalize hs4 : s3.modCore core _ = s4
  have h4 : State.OnCore core s3 s4 := by rw [← hs4]; exact State.onCore_modCore _ _ _
  obtain ⟨v1, v2, v3, v4, v5⟩ := State.vacate_slot s4 core slot { y with grants := [], insts := [] }
  refine ⟨v1, fun c hc => ?_, ?_, ?_, s2.saveImage l core slot { y with grants := [], insts := [] } place.1, ?_, rfl, rfl, rfl, ?_, rfl, rfl⟩
  · have : s3.core c = s2.core c := by simp only [State.core, h3c]
    rw [v3 c hc, h4.other c hc, this, ho2.other c hc]
  · rw [v4, h4.len, h3c, ho2.len]
  · rw [v5, h4.launches, h3l, ho2.launches]
  · unfold State.vacate
    rw [State.chestFree_saves]
    show s4.saves = _
    rw [h4.saves, h3s, ho2.saves]
  · exact ⟨ht.rest, fun _ h => absurd h List.not_mem_nil, ht.forks, ht.known⟩

/-- What an eviction leaves of every slot of a context. -/
theorem State.evictSlots (l : Launch) (ps : List (Nat × Nat)) (hd : (ps.map (·.1)).Nodup) (s : State) (hp : ∀ p ∈ ps, ∃ sl, s.slot? p.1 p.2 = some sl) :
    let u := ps.foldl (fun s p => s.evictSlot l p.1 p.2) s
    u.launches = s.launches ∧ u.cores.length = s.cores.length ∧ (∀ x ∈ s.saves, x ∈ u.saves) ∧
    (∀ c, c ∉ ps.map (·.1) → u.core c = { s.core c with cq := (u.core c).cq }) ∧
    ∀ p ∈ ps, ∀ sl, s.slot? p.1 p.2 = some sl → u.slot? p.1 p.2 = none ∧
      ∃ x ∈ u.saves, x.launch = l.id ∧ x.core = p.1 ∧ x.slot = p.2 ∧ sl.Thin x.body ∧ x.body.insts = [] ∧ x.body.grants = [] := by
  induction ps generalizing s with
  | nil => exact ⟨rfl, rfl, fun _ h => h, fun _ _ => rfl, fun p hp => absurd hp List.not_mem_nil⟩
  | cons q ps ih =>
    intro u
    obtain ⟨sq, hq⟩ := hp q List.mem_cons_self
    obtain ⟨a1, a2, a3, a4, x, a5, a6⟩ := State.evictSlot_slot (l := l) hq
    rw [List.map_cons, List.nodup_cons] at hd
    have hne : ∀ p ∈ ps, p.1 ≠ q.1 := fun p hp e => hd.1 (List.mem_map.mpr ⟨p, hp, e⟩)
    have hs : ∀ p ∈ ps, (s.evictSlot l q.1 q.2).slot? p.1 p.2 = s.slot? p.1 p.2 := fun p hp' => by
      unfold State.slot?; rw [a2 p.1 (hne p hp')]; rfl
    obtain ⟨b1, b2, b3, b4, b5⟩ := ih hd.2 (s.evictSlot l q.1 q.2) fun p hp' => by
      rw [hs p hp']; exact hp p (List.mem_cons_of_mem _ hp')
    have hu : u = ps.foldl (fun s p => s.evictSlot l p.1 p.2) (s.evictSlot l q.1 q.2) := rfl
    rw [← hu] at b1 b2 b3 b4 b5
    refine ⟨b1.trans a4, b2.trans a3, fun y hy => b3 y (by rw [a5]; exact List.mem_append_left _ hy), fun c hc => ?_, fun p hp' sl hsl => ?_⟩
    · rw [List.map_cons, List.mem_cons, not_or] at hc
      rw [b4 c hc.2, a2 c hc.1]
    · rcases List.mem_cons.mp hp' with rfl | hp'
      · rw [hq] at hsl
        cases hsl
        refine ⟨?_, x, b3 x (by rw [a5]; exact List.mem_append_right _ List.mem_cons_self), a6⟩
        unfold State.slot? at a1 ⊢; rw [b4 p.1 hd.1]; exact a1
      · exact b5 p hp' sl (by rw [hs p hp']; exact hsl)

/-- The places of a launch lie on distinct cores, and each holds a slot of it. -/
theorem State.placesOf_facts (s : State) (id : Nat) :
    ((s.placesOf id).map (·.1)).Nodup ∧ (∀ c i, (c, i) ∈ s.placesOf id ↔ (s.core c).slotOf id = some i) ∧
    ∀ p ∈ s.placesOf id, ∃ sl, s.slot? p.1 p.2 = some sl ∧ sl.launch = id := by
  have hm : ∀ c i, (c, i) ∈ s.placesOf id ↔ (s.core c).slotOf id = some i := by
    intro c i
    unfold State.placesOf
    rw [List.mem_filterMap]
    constructor
    · rintro ⟨d, -, hd⟩
      obtain ⟨j, hj, e⟩ := Option.map_eq_some_iff.mp hd
      cases e
      exact hj
    · intro h
      refine ⟨c, ?_, by rw [h]; rfl⟩
      rw [List.mem_range]
      by_contra hc
      rw [State.core_none _ (by omega)] at h
      have := List.find?_some h
      rw [Core.reset_slot?] at this
      exact absurd this (by simp)
  refine ⟨?_, hm, fun p hp => ?_⟩
  · unfold State.placesOf
    have : ((List.range s.cores.length).filterMap fun c => ((s.core c).slotOf id).map fun i => (c, i)).map (·.1) =
        (List.range s.cores.length).filter fun c => ((s.core c).slotOf id).isSome := by
      induction List.range s.cores.length with
      | nil => rfl
      | cons a l ih =>
        rw [List.filterMap_cons, List.filter_cons]
        cases (s.core a).slotOf id with
        | none => simpa using ih
        | some j => simp [ih]
    rw [this]
    exact List.nodup_range.filter _
  · have h := (hm p.1 p.2).mp hp
    have := List.find?_some h
    show ∃ sl, (s.core p.1).slot? p.2 = some sl ∧ _
    split at this
    · exact ⟨_, ‹_›, by simpa using this⟩
    · exact absurd this (by simp)

/-! ### Resume -/

/-- Slots, launches and images are as before. -/
structure State.KeepsSlots (a b : State) : Prop where
  len : b.cores.length = a.cores.length
  slots : ∀ c, (b.core c).slots = (a.core c).slots
  launches : b.launches = a.launches
  saves : b.saves = a.saves

theorem State.KeepsSlots.trans {a b c : State} (h : State.KeepsSlots a b) (g : State.KeepsSlots b c) : State.KeepsSlots a c :=
  ⟨g.len.trans h.len, fun d => (g.slots d).trans (h.slots d), g.launches.trans h.launches, g.saves.trans h.saves⟩

theorem State.KeepsSlots.cores {a b : State} (h : b.cores = a.cores) (hl : b.launches = a.launches) (hs : b.saves = a.saves) :
    State.KeepsSlots a b :=
  ⟨by rw [h], fun _ => by simp only [State.core, h], hl, hs⟩

theorem State.keepsSlots_modCore (s : State) (c : Nat) {f : Core → Core} (h : ∀ k, (f k).slots = k.slots) : State.KeepsSlots s (s.modCore c f) := by
  refine ⟨by simp, fun d => ?_, rfl, rfl⟩
  by_cases hd : d = c
  · subst hd
    by_cases hc : d < s.cores.length
    · rw [State.core_modCore _ _ _ hc, h]
    · rw [State.core_none _ (by simpa using hc), State.core_none _ (by simpa using hc)]
  · rw [State.core_modCore_ne _ _ hd]

theorem State.KeepsSlots.slot {a b : State} (h : State.KeepsSlots a b) (c i : Nat) : b.slot? c i = a.slot? c i := by
  simp only [State.slot?, Core.slot?, h.slots]

theorem restoreTiles_cores (s : State) (sl : Slot) (user : Bool) (l : List WTile) :
    (restoreTiles s sl user l).1.cores = s.cores ∧ (restoreTiles s sl user l).1.launches = s.launches ∧ (restoreTiles s sl user l).1.saves = s.saves := by
  induction l generalizing s with
  | nil => exact ⟨rfl, rfl, rfl⟩
  | cons t l ih =>
    unfold restoreTiles
    split
    · exact ih s
    · split
      · exact ⟨rfl, rfl, rfl⟩
      · exact ih (s.draw 2).2

theorem State.keepsSlots_restoreArray (s : State) (core : Nat) (sl : Slot) (user : Bool) (a : SysArray) :
    State.KeepsSlots s (s.restoreArray core sl user a) := by
  obtain ⟨h1, h2, h3⟩ := restoreTiles_cores s sl user a.tiles
  unfold State.restoreArray
  split
  · rename_i t tiles ht
    rw [ht] at h1 h2 h3
    refine State.KeepsSlots.trans (.cores h1 h2 h3) ?_
    exact State.keepsSlots_modCore _ _ fun _ => rfl
  · rename_i t e ht
    rw [ht] at h1 h2 h3
    refine State.KeepsSlots.trans (.cores h1 h2 h3) ?_
    have hc : State.KeepsSlots ((t.ueGlobal e.words).noteCarve e.carve) (t.noteUe e) :=
      foldl_keeps (P := State.KeepsSlots ((t.ueGlobal e.words).noteCarve e.carve))
        (fun r (n : Nat × Nat) hr => hr.trans (State.keepsSlots_modCore r n.1 (f := fun k => { k with errs := k.errs.modify 0 (·.consume n.2) }) fun _ => rfl))
        e.local_ _ (.cores rfl rfl rfl)
    refine State.KeepsSlots.trans (State.KeepsSlots.trans ?_ hc) (.cores rfl rfl rfl)
    unfold State.noteCarve State.ueGlobal
    exact .cores rfl rfl rfl

/-- What a resume leaves of one slot: the image's, with the units it has now. -/
theorem State.restoreImage_slot {s : State} {l : Launch} {x : SaveImage} (hc : x.core < s.cores.length) (hs : x.slot < (s.core x.core).slots.length) :
    (∃ sl, (s.restoreImage l x).slot? x.core x.slot = some sl ∧
      sl = { x.body with units := sl.units, lmpart := sl.lmpart, chestOk := sl.chestOk, chestHigh := sl.chestHigh }) ∧
    (∀ c, c ≠ x.core → ((s.restoreImage l x).core c).slots = (s.core c).slots) ∧ (s.restoreImage l x).cores.length = s.cores.length ∧
    (s.restoreImage l x).launches = s.launches ∧ (s.restoreImage l x).saves = s.saves := by
  unfold State.restoreImage
  dsimp only
  generalize hs1 : s.modCore x.core _ = s1
  obtain ⟨y, hy, hb⟩ : ∃ y, s1.slot? x.core x.slot = some y ∧
      y = { x.body with units := y.units, lmpart := y.lmpart, chestOk := y.chestOk, chestHigh := y.chestHigh } := by
    rw [← hs1]
    simp only [State.slot?]
    rw [State.core_modCore _ _ _ hc]
    simp only [Core.slot?, List.getD_eq_getElem?_getD, List.getElem?_set_self hs]
    exact ⟨_, rfl, rfl⟩
  have h1 : State.OnCore x.core s s1 := by rw [← hs1]; exact State.onCore_modCore _ _ _
  have k : ∀ (sl : Slot) (u : Bool), State.KeepsSlots s1 (x.arrays.foldl (fun s a => s.restoreArray x.core sl u a) (s1.restorePartition x sl)) := fun sl u =>
    foldl_keeps (P := State.KeepsSlots s1) (fun r a hr => hr.trans (r.keepsSlots_restoreArray _ _ _ _)) _ _ (State.keepsSlots_modCore _ _ fun _ => rfl)
  specialize k { x.body with
    units := (s.core x.core).freeUnits.take (bits x.body.lmpart.toNat 0 5), chestHigh := 0,
    lmpart := BitVec.ofNat 64 (((s.core x.core).freeUnits.take (bits x.body.lmpart.toNat 0 5)).headD 0 * 2 ^ 8 + bits x.body.lmpart.toNat 0 5) } (!l.priv)
  generalize x.arrays.foldl _ _ = s2 at k ⊢
  generalize hs3 : ({ s2 with dressers := _ } : State) = s3
  have k3 : State.KeepsSlots s1 s3 := k.trans (by rw [← hs3]; exact .cores rfl rfl rfl)
  have hy3 : s3.slot? x.core x.slot = some y := (k3.slot _ _).trans hy
  have hf : ∀ u : State, u = s3.loadChestRange x.core x.slot → (∃ z, u.slot? x.core x.slot = some z ∧
      z = { y with chestOk := z.chestOk }) ∧ State.OnCore x.core s3 u := by
    rintro u rfl
    unfold State.loadChestRange
    rw [hy3]
    dsimp only
    refine ⟨⟨{ y with chestOk := chestUsable s3 x.core y x.slot }, ?_, rfl⟩, (State.onCore_modCore _ _ _).trans (State.onCore_modCore _ _ _)⟩
    rw [State.slot?_modCore _ _ _ _ _ rfl, State.slot?_modSlot, hy3]
    rfl
  obtain ⟨⟨z, hz, ez⟩, hu⟩ := hf _ rfl
  refine ⟨⟨z, hz, ?_⟩, fun c hcc => ?_, ?_, ?_, ?_⟩
  · rw [ez, hb]
  · rw [hu.other c hcc]
    show (s3.core c).slots = _
    rw [k3.slots c, h1.other c hcc]
  · rw [hu.len, k3.len, h1.len]
  · rw [hu.launches, k3.launches, h1.launches]
  · rw [hu.saves, k3.saves, h1.saves]

theorem State.restoreImages (l : Launch) (xs : List SaveImage) (hd : xs.Pairwise fun x y => x.core ≠ y.core) (s : State)
    (hp : ∀ x ∈ xs, x.core < s.cores.length ∧ x.slot < (s.core x.core).slots.length) :
    let u := xs.foldl (fun s x => s.restoreImage l x) s
    u.launches = s.launches ∧ u.saves = s.saves ∧ (∀ c, (∀ x ∈ xs, x.core ≠ c) → (u.core c).slots = (s.core c).slots) ∧
    ∀ x ∈ xs, ∃ sl, u.slot? x.core x.slot = some sl ∧
      sl = { x.body with units := sl.units, lmpart := sl.lmpart, chestOk := sl.chestOk, chestHigh := sl.chestHigh } := by
  induction xs generalizing s with
  | nil => exact ⟨rfl, rfl, fun _ _ => rfl, fun p hp => absurd hp List.not_mem_nil⟩
  | cons q ps ih =>
    intro u
    obtain ⟨hq1, hq2⟩ := hp q List.mem_cons_self
    obtain ⟨a1, a2, a3, a4, a5⟩ := State.restoreImage_slot (l := l) hq1 hq2
    rw [List.pairwise_cons] at hd
    obtain ⟨b1, b2, b3, b4⟩ := ih hd.2 (s.restoreImage l q) fun p hp' => by
      rw [a3, a2 p.core fun e => hd.1 p hp' e.symm]; exact hp p (List.mem_cons_of_mem _ hp')
    have hu : u = ps.foldl (fun s p => s.restoreImage l p) (s.restoreImage l q) := rfl
    rw [← hu] at b1 b2 b3 b4
    refine ⟨b1.trans a4, b2.trans a5, fun c hc => ?_, fun x hx => ?_⟩
    · rw [b3 c fun x hx => hc x (List.mem_cons_of_mem _ hx), a2 c fun e => hc q List.mem_cons_self e.symm]
    · rcases List.mem_cons.mp hx with rfl | hx
      · unfold State.slot? Core.slot? at a1 ⊢
        rw [b3 x.core fun y hy e => hd.1 y hy e.symm]
        exact a1
      · exact b4 x hx

/-! ### Chair reset -/

theorem State.resetSlot_slot (s : State) (core slot : Nat) :
    (s.resetSlot core slot).slot? core slot = none ∧ s.SlotsOf (s.resetSlot core slot) ∧
    (s.resetSlot core slot).launches = s.launches := by
  have ha := State.slotsOf_abortSlot s core slot true
  have ho := (State.abortSlot_keeps s core slot true).1
  unfold State.resetSlot
  dsimp only
  generalize s.abortSlot core slot true = t at ha ho ⊢
  split
  · exact ⟨‹_›, ha, ho.launches⟩
  · rename_i sl _
    obtain ⟨v1, v2, -, -, v5⟩ := State.vacate_slot (t.modCore core fun k => { k with cq := k.cq.map fun (e : CqEntry) =>
      if e.slot = slot then { e with st := .free } else e }) core slot sl
    refine ⟨v1, (ha.trans ?_).trans v2, ?_⟩
    · refine State.slotsOf_modCore _ _ ?_
      intro _; rfl
    · rw [v5]; exact ho.launches

theorem State.resetSlots (ps : List (Nat × Nat)) (s : State) :
    let u := ps.foldl (fun s p => s.resetSlot p.1 p.2) s
    s.SlotsOf u ∧ u.launches = s.launches ∧ ∀ p ∈ ps, u.slot? p.1 p.2 = none := by
  induction ps generalizing s with
  | nil => exact ⟨.rfl' s, rfl, fun p hp => absurd hp List.not_mem_nil⟩
  | cons q ps ih =>
    intro u
    obtain ⟨a1, a2, a4⟩ := State.resetSlot_slot s q.1 q.2
    obtain ⟨b1, b2, b3⟩ := ih (s.resetSlot q.1 q.2)
    refine ⟨a2.trans b1, b2.trans a4, fun p hp => ?_⟩
    rcases List.mem_cons.mp hp with rfl | hp
    · cases h : u.slot? p.1 p.2 with
      | none => rfl
      | some y =>
        obtain ⟨x, hx, -⟩ := b1 p.1 p.2 y h
        rw [a1] at hx; cases hx
    · exact b3 p hp

/-- Every launch of an id stands aborted by the service. -/
def State.TornDown (id : Nat) (s : State) : Prop := ∀ x ∈ s.launches, x.id = id → x.aborted = true ∧ x.status = FC.serviceAbort

theorem State.resetLaunch_facts (s : State) (l : Launch) :
    s.SlotsOf (s.resetLaunch l) ∧ (s.resetLaunch l).TornDown l.id ∧ (∀ id, s.TornDown id → (s.resetLaunch l).TornDown id) ∧
    ∀ p ∈ s.placesOf l.id, (s.resetLaunch l).slot? p.1 p.2 = none := by
  unfold State.resetLaunch
  dsimp only
  generalize h1 : (s.modLaunch l.id fun x => { x with aborted := true, status := FC.serviceAbort, out := false }) = s1
  have t1 : s1.TornDown l.id := by
    intro x hx hid
    rw [← h1] at hx
    simp only [State.modLaunch, List.mem_map] at hx
    obtain ⟨y, hy, rfl⟩ := hx
    split at hid
    · rename_i h; simp [h]
    · rename_i h; exact absurd hid h
  have t2 : ∀ id, s.TornDown id → s1.TornDown id := by
    intro id ht x hx hid
    rw [← h1] at hx
    simp only [State.modLaunch, List.mem_map] at hx
    obtain ⟨y, hy, rfl⟩ := hx
    split at hid
    · rename_i h; simp [h]
    · rename_i h; rw [if_neg h]; exact ht y hy hid
  have c1 : s1.cores = s.cores := by rw [← h1]; rfl
  generalize h2 : ({ s1 with saves := _, cores := _, chairs := _ } : State) = s2
  have e2 : ∀ c i, s2.slot? c i = s.slot? c i := by
    intro c i
    rw [← h2]
    exact (State.slot?_map s1 (fun k => { k with lq := k.lq.filter (·.launch ≠ l.id) }) (fun _ => rfl) c i).trans (State.slot?_of_cores c1 c i)
  have l2 : s2.launches = s1.launches := by rw [← h2]
  have hp : ∀ p, p ∈ s2.placesOf l.id ↔ p ∈ s.placesOf l.id := by
    rintro ⟨c, i⟩
    rw [(State.placesOf_facts s2 l.id).2.1, (State.placesOf_facts s l.id).2.1]
    have : ∀ j, (s2.core c).slot? j = (s.core c).slot? j := fun j => e2 c j
    simp only [Core.slotOf, this]
  obtain ⟨r1, r2, r3⟩ := State.resetSlots (s2.placesOf l.id) s2
  have q : ∀ id, s1.TornDown id → (((s2.placesOf l.id).foldl (fun s p => s.resetSlot p.1 p.2) s2).finishLaunch l.id).TornDown id := by
    intro id ht x hx hid
    have := (State.finishLaunch_slot _ l.id 0 0).2 x hx
    rw [r2, l2] at this
    exact ht x this hid
  refine ⟨((State.SlotsOf.of_eq e2).trans r1).trans (State.slotsOf_finishLaunch _ _), q _ t1, fun id h => q id (t2 id h), fun p hpp => ?_⟩
  rw [(State.finishLaunch_slot _ _ _ _).1]
  exact r3 p ((hp p).mpr hpp)

/-- What the tear-down of several contexts leaves. -/
theorem State.resetLaunches (ls : List Launch) (s : State) :
    let u := ls.foldl (fun s l => s.resetLaunch l) s
    s.SlotsOf u ∧ (∀ id, s.TornDown id → u.TornDown id) ∧ ∀ l ∈ ls, u.TornDown l.id ∧ ∀ p ∈ s.placesOf l.id, u.slot? p.1 p.2 = none := by
  induction ls generalizing s with
  | nil => exact ⟨.rfl' s, fun _ h => h, fun p hp => absurd hp List.not_mem_nil⟩
  | cons q ps ih =>
    intro u
    obtain ⟨a1, a2, a3, a4⟩ := State.resetLaunch_facts s q
    obtain ⟨b1, b2, b3⟩ := ih (s.resetLaunch q)
    have gone : ∀ p : Nat × Nat, (s.resetLaunch q).slot? p.1 p.2 = none → u.slot? p.1 p.2 = none := by
      intro p h0
      cases h : u.slot? p.1 p.2 with
      | none => rfl
      | some y =>
        obtain ⟨x, hx, -⟩ := b1 p.1 p.2 y h
        rw [h0] at hx; cases hx
    refine ⟨a1.trans b1, fun id h => b2 id (a3 id h), fun l hl => ?_⟩
    rcases List.mem_cons.mp hl with rfl | hl
    · exact ⟨b2 _ a2, fun p hp => gone p (a4 p hp)⟩
    · refine ⟨(b3 l hl).1, fun p hp => ?_⟩
      cases h0 : (s.resetLaunch q).slot? p.1 p.2 with
      | none => exact gone p h0
      | some y =>
        refine (b3 l hl).2 p ?_
        rw [show p = (p.1, p.2) from rfl, (State.placesOf_facts _ l.id).2.1] at hp ⊢
        obtain ⟨x, hx, e⟩ := a1 p.1 p.2 y h0
        obtain ⟨h4, hpred⟩ := List.find?_eq_some_iff_getElem.mp hp
        unfold Core.slotOf
        refine List.find?_eq_some_iff_getElem.mpr ⟨?_, ?_⟩
        · have : (s.core p.1).slot? p.2 = some x := hx
          rw [this] at h4
          have h0' : ((s.resetLaunch q).core p.1).slot? p.2 = some y := h0
          rw [h0']
          simpa [e] using h4
        · obtain ⟨n, hn, he, hlt⟩ := hpred
          refine ⟨n, hn, he, fun j hj => ?_⟩
          have := hlt j hj
          cases hz : ((s.resetLaunch q).core p.1).slot? (List.range 4)[j] with
          | none => simp
          | some z =>
            obtain ⟨w, hw, ew⟩ := a1 p.1 _ z hz
            have hw' : (s.core p.1).slot? (List.range 4)[j] = some w := hw
            rw [hw'] at this
            simpa [ew] using this

/-- The arbiter's packets and CHCTL of every chair are as before. -/
structure State.SameBoard (a b : State) : Prop where
  arb : b.arb = a.arb
  len : b.chairs.length = a.chairs.length
  chctl : ∀ n, (b.chair n).chctl = (a.chair n).chctl

theorem State.SameBoard.trans {a b c : State} (h : a.SameBoard b) (g : b.SameBoard c) : a.SameBoard c :=
  ⟨g.arb.trans h.arb, g.len.trans h.len, fun n => (g.chctl n).trans (h.chctl n)⟩

theorem State.SameBoard.of_eq {a b : State} (h : b.arb = a.arb) (hc : b.chairs = a.chairs) : a.SameBoard b :=
  ⟨h, by rw [hc], fun n => by simp only [State.chair, hc]⟩

theorem State.SameBoard.foldl {α : Type} {f : State → α → State} (h : ∀ s a, State.SameBoard s (f s a)) (l : List α) (s : State) :
    s.SameBoard (l.foldl f s) := by
  induction l generalizing s with
  | nil => exact .of_eq rfl rfl
  | cons a l ih => exact (h s a).trans (ih _)

theorem State.sameBoard_modCore (s : State) (c : Nat) (f : Core → Core) : s.SameBoard (s.modCore c f) := .of_eq rfl rfl

theorem State.sameBoard_modChair (s : State) (n : Nat) {f : Chair → Chair} (h : ∀ c, (f c).chctl = c.chctl) : s.SameBoard (s.modChair n f) := by
  refine ⟨rfl, by simp [State.modChair], fun m => ?_⟩
  simp only [State.chair, State.modChair, List.getD_eq_getElem?_getD, List.getElem?_modify]
  by_cases hm : n = m
  · subst hm
    cases s.chairs[n]? with
    | none => rfl
    | some c => simp [h]
  · simp [hm]

theorem State.sameBoard_settleWaits (s : State) (chair : Nat) (l : List Inst) : s.SameBoard (s.settleWaits chair l) := by
  refine State.SameBoard.foldl (fun r i => State.SameBoard.foldl (fun r w => ?_) _ _) _ _
  split
  · unfold State.settleHandle State.modHandle
    split
    · exact .of_eq rfl rfl
    · dsimp only
      split
      · exact .of_eq rfl rfl
      · exact State.sameBoard_modChair _ _ fun _ => rfl
  · exact .of_eq rfl rfl

theorem State.sameBoard_discard (s : State) (core slot age : Nat) : s.SameBoard (s.discard core slot age) := by
  unfold State.discard
  split
  · exact .of_eq rfl rfl
  · split
    · exact .of_eq rfl rfl
    · dsimp only
      refine State.SameBoard.trans ?_ (State.sameBoard_modCore _ _ _)
      refine State.SameBoard.trans ?_ (State.sameBoard_settleWaits _ _ _)
      exact .of_eq rfl rfl

theorem State.sameBoard_applyStore (s : State) (core : Nat) (sl : Slot) (p : PStore) : s.SameBoard (s.applyStore core sl p).1 := by
  unfold State.applyStore
  split
  · exact .of_eq rfl rfl
  · split
    · exact .of_eq rfl rfl
    · dsimp only
      split <;> exact .of_eq rfl rfl

theorem State.sameBoard_freeBytes (s : State) (core : Nat) (sl : Slot) (off n : Nat) : s.SameBoard (s.freeBytes core sl off n) := by
  induction n generalizing s off with
  | zero => exact .of_eq rfl rfl
  | succ n ih =>
    unfold State.freeBytes
    dsimp only
    refine State.SameBoard.trans ?_ (ih _ _)
    split <;> exact .of_eq rfl rfl

theorem Eng.sameBoard_freeOut (e : Eng) (s : State) (core : Nat) (sl : Slot) : s.SameBoard (e.freeOut s core sl) := by
  refine State.SameBoard.foldl (fun r k => ?_) _ _
  dsimp only
  split
  · exact (State.sameBoard_freeBytes _ _ _ _ _).trans (State.sameBoard_freeBytes _ _ _ _ _)
  · exact State.sameBoard_freeBytes _ _ _ _ _

theorem State.sameBoard_applyAll (s : State) (core slot : Nat) (sl : Slot) : s.SameBoard (s.applyAll core slot sl) := by
  unfold State.applyAll
  refine State.SameBoard.trans (State.SameBoard.foldl (fun s p => ?_) _ _) (State.sameBoard_modCore _ _ _)
  split
  · exact State.sameBoard_applyStore _ _ _ _
  · exact .of_eq rfl rfl

theorem State.sameBoard_abortSlot (s : State) (core slot : Nat) (r : Bool) : s.SameBoard (s.abortSlot core slot r) := by
  unfold State.abortSlot
  split
  · exact .of_eq rfl rfl
  · rename_i sl _
    dsimp only
    refine State.SameBoard.trans ?_ (State.sameBoard_modCore _ _ _)
    refine State.SameBoard.trans ?_ (State.sameBoard_modCore _ _ _)
    refine State.SameBoard.trans ?_ (State.SameBoard.foldl (fun s e => ?_) _ _)
    · refine State.SameBoard.trans ?_ (State.sameBoard_modCore _ _ _)
      refine State.SameBoard.trans ?_ (State.SameBoard.foldl (fun s e => ?_) _ _)
      · exact ((State.SameBoard.foldl (fun s (i : Inst) => State.sameBoard_discard s core slot i.age) sl.insts s).trans
          (State.sameBoard_applyAll _ core slot sl)).trans (.of_eq rfl rfl)
      · split <;> exact .of_eq rfl rfl
    · split
      · exact .of_eq rfl rfl
      · split
        · refine State.SameBoard.trans (b := if isAttn e.instr = true then e.freeOut s core sl else s) ?_ (.of_eq rfl rfl)
          split
          · exact e.sameBoard_freeOut s core sl
          · exact .of_eq rfl rfl
        · exact .of_eq rfl rfl

theorem State.sameBoard_chestFree (s : State) (sl : Slot) (area va n : Nat) : s.SameBoard (s.chestFree sl area va n) := by
  induction n generalizing s va with
  | zero => exact .of_eq rfl rfl
  | succ n ih =>
    unfold State.chestFree
    dsimp only
    refine State.SameBoard.trans ?_ (ih _ _)
    split <;> exact .of_eq rfl rfl

theorem State.sameBoard_resetSlot (s : State) (core slot : Nat) : s.SameBoard (s.resetSlot core slot) := by
  unfold State.resetSlot
  dsimp only
  refine State.SameBoard.trans (State.sameBoard_abortSlot s core slot true) ?_
  split
  · exact .of_eq rfl rfl
  · unfold State.vacate
    dsimp only
    refine State.SameBoard.trans ?_ (State.sameBoard_chestFree _ _ _ _ _)
    exact .of_eq rfl rfl

theorem State.sameBoard_finishLaunch (s : State) (id : Nat) : s.SameBoard (s.finishLaunch id) := by
  unfold State.finishLaunch
  split
  · exact .of_eq rfl rfl
  · split
    · unfold State.answerLaunch
      split
      · refine State.SameBoard.trans ?_ (State.sameBoard_modChair _ _ ?_)
        · exact .of_eq rfl rfl
        · intro _; rfl
      · split <;> exact .of_eq rfl rfl
      · exact .of_eq rfl rfl
    · exact .of_eq rfl rfl

theorem State.sameBoard_resetLaunch (s : State) (l : Launch) : s.SameBoard (s.resetLaunch l) := by
  unfold State.resetLaunch
  dsimp only
  generalize h1 : (s.modLaunch l.id fun x => { x with aborted := true, status := FC.serviceAbort, out := false }) = s1
  have e1 : s.SameBoard s1 := by rw [← h1]; exact .of_eq rfl rfl
  generalize h2 : ({ s1 with saves := _, cores := _, chairs := _ } : State) = s2
  have e2 : s1.SameBoard s2 := by
    rw [← h2]
    have := State.sameBoard_modChair s1 l.chair (f := fun c => { c with pendingX := c.pendingX ++ [Notice.abort l.ctx FC.serviceAbort] }) fun _ => rfl
    exact this.trans (.of_eq rfl rfl)
  exact ((e1.trans e2).trans (State.SameBoard.foldl (f := fun (s : State) (p : Nat × Nat) => s.resetSlot p.1 p.2) (fun s p => State.sameBoard_resetSlot s p.1 p.2)
    (s2.placesOf l.id) s2)).trans (State.sameBoard_finishLaunch _ _)

end Sys2Proof.Machine
end

