-- ==== Sys2Proof/Laws/Bureau.lean ====
section
/-! SUPPORT. What the Bureau's and the service's acts leave: the chairs, launches and cores, and the fields of CHCTL. -/

namespace Sys2Proof.Machine
open Sys2Proof

theorem chair_modChair_ne (s : State) {n m : Nat} (f : Chair → Chair) (h : m ≠ n) : (s.modChair n f).chair m = s.chair m := by
  simp [State.chair, State.modChair, List.getD_eq_getElem?_getD, List.getElem?_modify, Ne.symm h]

/-- Chairs, launches and cores are as on the left. -/
structure State.Same (a b : State) : Prop where
  chairs : b.chairs = a.chairs
  launches : b.launches = a.launches
  cores : b.cores = a.cores

theorem State.Same.rfl' (a : State) : a.Same a := ⟨rfl, rfl, rfl⟩
theorem State.Same.trans {a b c : State} (h : a.Same b) (g : b.Same c) : a.Same c :=
  ⟨g.chairs.trans h.chairs, g.launches.trans h.launches, g.cores.trans h.cores⟩

theorem same_setQueueStatus (s : State) (a b c : Nat) (d : Option Nat) : s.Same (s.setQueueStatus a b c d) := by
  unfold State.setQueueStatus
  split
  · exact .rfl' s
  · split
    · exact .rfl' s
    · split <;> exact ⟨rfl, rfl, rfl⟩

theorem same_foldl {α : Type} {f : State → α → State} (h : ∀ s a, State.Same s (f s a)) (l : List α) (s : State) : s.Same (l.foldl f s) := by
  induction l generalizing s with
  | nil => exact .rfl' s
  | cons a l ih => exact (h s a).trans (ih _)

theorem same_gpaTry (s : State) (a b c d : Nat) : s.Same (s.gpaTry a b c d) := by
  unfold State.gpaTry gpaStore
  split
  · rename_i t h
    split at h <;> cases h
    exact ⟨rfl, rfl, rfl⟩
  · exact .rfl' s

theorem same_placeRing (s : State) (d : Nat) : s.Same (s.placeRing d) := by
  unfold State.placeRing
  split
  · exact .rfl' s
  · simp only [State.hpaWrite]; exact ⟨rfl, rfl, rfl⟩

/-- An act that changes one chair's block and nothing of the others. -/
theorem writes_of {s t : State} {n : Nat} (hn : n < s.chairs.length) {e : Instr} (f : Chair → Chair)
    (hx : exec e s = .next t) (hs : (s.modChair n f).Same t) :
    ∃ u, exec e s = .next u ∧ u.chair n = f (s.chair n) ∧ (∀ m, m ≠ n → u.chair m = s.chair m) ∧ u.launches = s.launches ∧
      ∀ k, (u.core k).mem = (s.core k).mem := by
  have hc : ∀ m, t.chair m = (s.modChair n f).chair m := fun m => by simp only [State.chair, hs.chairs]
  refine ⟨t, hx, ?_, fun m hm => ?_, hs.launches, fun k => ?_⟩
  · rw [hc, State.chair_modChair_same f hn]
  · rw [hc, chair_modChair_ne _ _ hm]
  · have : t.core k = s.core k := by simp only [State.core, hs.cores]; rfl
    rw [this]

theorem bit_word (x i : Nat) (h : i < 64) : bit (BitVec.ofNat 64 x).toNat i = bit x i := by
  rw [BitVec.toNat_ofNat]
  unfold bit bits
  congr 1
  rw [show (2 : Nat) ^ 64 = 2 ^ i * (2 * 2 ^ (63 - i)) by rw [← Nat.mul_assoc, ← Nat.pow_succ, ← Nat.pow_add]; congr 1; omega, Nat.mod_mul_right_div_self]
  exact Nat.mod_mul_right_mod _ 2 _

theorem bit_eq_iff {x y i : Nat} (h : bits x i 1 = bits y i 1) : bit x i = bit y i := by unfold bit; rw [h]

/-- The fields of CHCTL after one of them is replaced. -/
theorem en_field (w : Nat) (hw : w < 2 ^ 64) (b : Bool) :
    let x := putField w 16 1 (bnat b)
    x < 2 ^ 64 ∧ bit x 16 = b ∧ bits x 0 3 = bits w 0 3 ∧ bits x 4 5 = bits w 4 5 ∧ bit x 31 = bit w 31 := by
  intro x
  have hb : bnat b < 2 := by cases b <;> decide
  have hx : x = w / 2 ^ 17 * 2 ^ 17 + bnat b * 2 ^ 16 + w % 2 ^ 16 := by simp only [x, putField]; omega
  refine ⟨by omega, ?_, ?_, ?_, bit_eq_iff ?_⟩
  · have : bits x 16 1 = bnat b := by simp only [bits]; omega
    unfold bit; rw [this]; cases b <;> rfl
  all_goals simp only [bits]; omega

theorem rst_field (w v nctx : Nat) (hw : w < 2 ^ 64) (hn : nctx < 32) :
    let x := putField w 4 5 nctx
    let y := if bit v 31 then putField x 31 1 1 else x
    y < 2 ^ 64 ∧ bits y 0 3 = bits w 0 3 ∧ bit y 16 = bit w 16 ∧ bits y 4 5 = nctx ∧ bit y 31 = (bit w 31 || bit v 31) := by
  intro x y
  have hx : x = w / 2 ^ 9 * 2 ^ 9 + nctx * 2 ^ 4 + w % 2 ^ 4 := by simp only [x, putField]; omega
  by_cases hv : bit v 31 = true
  · have hy : y = x / 2 ^ 32 * 2 ^ 32 + 2 ^ 31 + x % 2 ^ 31 := by simp only [y, hv, if_true, putField]; omega
    refine ⟨by omega, ?_, bit_eq_iff ?_, ?_, ?_⟩
    · simp only [bits]; omega
    · simp only [bits]; omega
    · simp only [bits]; omega
    · have : bits y 31 1 = 1 := by simp only [bits]; omega
      rw [hv, Bool.or_true]; unfold bit; rw [this]; rfl
  · have hy : y = x := by simp only [y]; rw [if_neg hv]
    refine ⟨by omega, ?_, bit_eq_iff ?_, ?_, ?_⟩
    · simp only [bits]; omega
    · simp only [bits]; omega
    · simp only [bits]; omega
    · have : bit v 31 = false := by simpa using hv
      rw [this, Bool.or_false]; refine bit_eq_iff ?_
      simp only [bits]; omega

theorem pri_field (w p : Nat) (hw : w < 2 ^ 64) (hp : p < 8) :
    let x := putField w 0 3 p
    x < 2 ^ 64 ∧ bits x 0 3 = p ∧ bit x 16 = bit w 16 ∧ bits x 4 5 = bits w 4 5 ∧ bit x 31 = bit w 31 := by
  intro x
  have hx : x = w / 2 ^ 3 * 2 ^ 3 + p := by simp only [x, putField]; omega
  refine ⟨by omega, ?_, bit_eq_iff ?_, ?_, bit_eq_iff ?_⟩
  all_goals simp only [bits]; omega

theorem keepBits_field (v a b m : Nat) (hv : v < 2 ^ 64) (hb : b = a + m) (hb64 : b ≤ 64) : keepBits v a b < 2 ^ 64 ∧ keepBits v a b / 2 ^ a = bits v a m := by
  unfold keepBits bits
  subst hb
  have h1 : v % 2 ^ (a + m) / 2 ^ a = v / 2 ^ a % 2 ^ m := by
    rw [Nat.pow_add, Nat.mod_mul_right_div_self]
  refine ⟨?_, ?_⟩
  · have : v % 2 ^ (a + m) / 2 ^ a * 2 ^ a ≤ v % 2 ^ (a + m) := Nat.div_mul_le_self _ _
    have h2 : v % 2 ^ (a + m) ≤ v := Nat.mod_le _ _
    omega
  · rw [Nat.mul_div_cancel _ (Nat.two_pow_pos a), h1]

theorem mod_lit (x : Nat) (h : x < 2 ^ 64) : x % 2 ^ 64 = x := Nat.mod_eq_of_lt h


end Sys2Proof.Machine
end

