-- ==== Sys2Proof/Laws/Encode.lean ====
section
/-! SUPPORT. Encoding against decoding: fields and words, each field's code both ways, and each layout both ways. -/

namespace Sys2Proof

theorem pack_lt : ∀ l : List (Nat × Nat), pack l < 2 ^ (l.map Prod.fst).sum
  | [] => by simp [pack]
  | (n, v) :: r => by
    have h := pack_lt r
    have hv : v % 2 ^ n < 2 ^ n := Nat.mod_lt _ (by positivity)
    simp only [pack, List.map_cons, List.sum_cons, pow_add]
    nlinarith

theorem fields_add_mul : ∀ (ns : List Nat) (a b : Nat), fields ns (a * 2 ^ ns.sum + b) = fields ns b
  | [], _, _ => rfl
  | n :: ns, a, b => by
    simp only [fields, List.sum_cons, pow_add]
    have h : a * (2 ^ n * 2 ^ ns.sum) + b = (a * 2 ^ n) * 2 ^ ns.sum + b := by ring
    rw [h, fields_add_mul ns (a * 2 ^ n) b, Nat.add_comm, Nat.add_mul_div_right _ _ (by positivity), Nat.add_mul_mod_self_right]

theorem fields_pack : ∀ l : List (Nat × Nat), fields (l.map Prod.fst) (pack l) = l.map fun x => x.2 % 2 ^ x.1
  | [] => rfl
  | (n, v) :: r => by
    have h := pack_lt r
    simp only [pack, List.map_cons, fields]
    rw [fields_add_mul, fields_pack r, Nat.add_comm, Nat.add_mul_div_right _ _ (by positivity), Nat.div_eq_of_lt h, Nat.zero_add, Nat.mod_mod]

theorem pack_fields : ∀ (ns : List Nat) (w : Nat), w < 2 ^ ns.sum → pack (ns.zip (fields ns w)) = w
  | [], w, h => by simp at h; simp [pack, fields, h]
  | n :: ns, w, h => by
    have e := Nat.div_add_mod w (2 ^ ns.sum)
    have hz : (ns.zip (fields ns w)).map Prod.fst = ns := by
      have : (fields ns w).length = ns.length := by
        clear h e
        induction ns with
        | nil => rfl
        | cons n ns ih => simp [fields, ih]
      exact List.map_fst_zip (by omega)
    have hf : fields ns w = fields ns (w % 2 ^ ns.sum) := by
      conv_lhs => rw [← e, Nat.mul_comm, fields_add_mul]
    have hd : w / 2 ^ ns.sum < 2 ^ n := by
      rw [Nat.div_lt_iff_lt_mul (by positivity), ← pow_add]; simpa using h
    simp only [fields, List.zip_cons_cons, pack, hz, Nat.mod_eq_of_lt hd]
    rw [hf, pack_fields ns _ (Nat.mod_lt _ (by positivity)), Nat.mul_comm, e]


/-! ### Codes of fields -/

@[simp] theorem Pred.ofCode_code (x : Pred) : Pred.ofCode (x.code % 4) = some x := by cases x <;> rfl

theorem Pred.code_of {c : Nat} {x : Pred} (h : Pred.ofCode c = some x) : x.code = c := by
  unfold Pred.ofCode at h
  split at h <;> simp_all <;> subst h <;> rfl

@[simp] theorem Fmt.ofCode_code (x : Fmt) : Fmt.ofCode (x.code % 8) = some x := by cases x <;> rfl

theorem Fmt.code_of {c : Nat} {x : Fmt} (h : Fmt.ofCode c = some x) : x.code = c := by
  unfold Fmt.ofCode at h
  split at h <;> simp_all <;> subst h <;> rfl

@[simp] theorem IW.ofCode_code3 (x : IW) : IW.ofCode (x.code % 8) = some x := by cases x <;> rfl
@[simp] theorem IW.ofCode_code2 (x : IW) : IW.ofCode (x.code % 4) = some x := by cases x <;> rfl

theorem IW.code_of {c : Nat} {x : IW} (h : IW.ofCode c = some x) : x.code = c := by
  unfold IW.ofCode at h
  split at h <;> simp_all <;> subst h <;> rfl

@[simp] theorem Rm.ofCode_code (x : Rm) : Rm.ofCode (x.code % 4) = some x := by cases x <;> rfl

theorem Rm.code_of {c : Nat} {x : Rm} (h : Rm.ofCode c = some x) : x.code = c := by
  unfold Rm.ofCode at h
  split at h <;> simp_all <;> subst h <;> rfl

@[simp] theorem Scope.ofCode_code (x : Scope) : Scope.ofCode (x.code % 8) = some x := by cases x <;> rfl

theorem Scope.code_of {c : Nat} {x : Scope} (h : Scope.ofCode c = some x) : x.code = c := by
  unfold Scope.ofCode at h
  split at h <;> simp_all <;> subst h <;> rfl

@[simp] theorem AmoOp.ofCode_code (x : AmoOp) : AmoOp.ofCode (x.code % 16) = some x := by cases x <;> rfl

theorem AmoOp.code_of {c : Nat} {x : AmoOp} (h : AmoOp.ofCode c = some x) : x.code = c := by
  unfold AmoOp.ofCode at h
  split at h <;> simp_all <;> subst h <;> rfl

@[simp] theorem AmoOrd.ofCode_code (x : AmoOrd) : AmoOrd.ofCode (x.code % 4) = some x := by cases x <;> rfl

theorem AmoOrd.code_of {c : Nat} {x : AmoOrd} (h : AmoOrd.ofCode c = some x) : x.code = c := by
  unfold AmoOrd.ofCode at h
  split at h <;> simp_all <;> subst h <;> rfl

@[simp] theorem FenceKind.ofCode_code (x : FenceKind) : FenceKind.ofCode (x.code % 4) = some x := by cases x <;> rfl

theorem FenceKind.code_of {c : Nat} {x : FenceKind} (h : FenceKind.ofCode c = some x) : x.code = c := by
  unfold FenceKind.ofCode at h
  split at h <;> simp_all <;> subst h <;> rfl

@[simp] theorem Link.ofCode_code (x : Link) : Link.ofCode (x.code % 4) = some x := by cases x <;> rfl

theorem Link.code_of {c : Nat} {x : Link} (h : Link.ofCode c = some x) : x.code = c := by
  unfold Link.ofCode at h
  split at h <;> simp_all <;> subst h <;> rfl

@[simp] theorem VRedOp.ofCode_code (x : VRedOp) : VRedOp.ofCode (x.code % 32) = some x := by cases x <;> rfl

theorem VRedOp.code_of {c : Nat} {x : VRedOp} (h : VRedOp.ofCode c = some x) : x.code = c := by
  unfold VRedOp.ofCode at h
  split at h <;> simp_all <;> subst h <;> rfl

@[simp] theorem Rel.ofCode_code (x : Rel) : Rel.ofCode (x.code % 32) = some x := by cases x <;> rfl

theorem Rel.code_of {c : Nat} {x : Rel} (h : Rel.ofCode c = some x) : x.code = c := by
  unfold Rel.ofCode at h
  split at h <;> simp_all <;> subst h <;> rfl

@[simp] theorem MaskCond.ofCode_code (x : MaskCond) : MaskCond.ofCode (x.code % 32) = some x := by cases x <;> rfl

theorem MaskCond.code_of {c : Nat} {x : MaskCond} (h : MaskCond.ofCode c = some x) : x.code = c := by
  unfold MaskCond.ofCode at h
  split at h <;> simp_all <;> subst h <;> rfl

@[simp] theorem CvtForm.ofCode_code (x : CvtForm) : CvtForm.ofCode (x.code % 32) = some x := by cases x <;> rfl

theorem CvtForm.code_of {c : Nat} {x : CvtForm} (h : CvtForm.ofCode c = some x) : x.code = c := by
  unfold CvtForm.ofCode at h
  split at h <;> simp_all <;> subst h <;> rfl

@[simp] theorem IntRed.ofCode_code (x : IntRed) : IntRed.ofCode (x.code % 16) = some x := by cases x <;> rfl

theorem IntRed.code_of {c : Nat} {x : IntRed} (h : IntRed.ofCode c = some x) : x.code = c := by
  unfold IntRed.ofCode at h
  split at h <;> simp_all <;> subst h <;> rfl

@[simp] theorem boolOfCode_bnat1 (b : Bool) : boolOfCode (bnat b % 2) = some b := by cases b <;> rfl
@[simp] theorem boolOfCode_bnat2 (b : Bool) : boolOfCode (bnat b % 4) = some b := by cases b <;> rfl
@[simp] theorem boolOfCode_bnat3 (b : Bool) : boolOfCode (bnat b % 8) = some b := by cases b <;> rfl
@[simp] theorem boolOfCode_bnat5 (b : Bool) : boolOfCode (bnat b % 32) = some b := by cases b <;> rfl

theorem boolOfCode_of {c : Nat} {b : Bool} (h : boolOfCode c = some b) : bnat b = c := by
  unfold boolOfCode at h
  split at h <;> simp_all <;> subst h <;> rfl

@[simp] theorem farOfCode_bnat (b : Bool) : farOfCode ((2 + bnat b) % 8) = some b := by cases b <;> rfl

theorem farOfCode_of {c : Nat} {b : Bool} (h : farOfCode c = some b) : (2 + bnat b) = c := by
  unfold farOfCode at h
  split at h <;> simp_all <;> subst h <;> rfl

@[simp] theorem repOfCode_bnat (b : Bool) : repOfCode ((3 * bnat b) % 8) = some b := by cases b <;> rfl

theorem repOfCode_of {c : Nat} {b : Bool} (h : repOfCode c = some b) : (3 * bnat b) = c := by
  unfold repOfCode at h
  split at h <;> simp_all <;> subst h <;> rfl

@[simp] theorem stwOfCode_bnat (b : Bool) : stwOfCode ((1 + bnat b) % 8) = some b := by cases b <;> rfl

theorem stwOfCode_of {c : Nat} {b : Bool} (h : stwOfCode c = some b) : (1 + bnat b) = c := by
  unfold stwOfCode at h
  split at h <;> simp_all <;> subst h <;> rfl

@[simp] theorem Target.ofCode_code (t : Target) : Target.ofCode (t.code % 1024) = some t := by
  have key : ∀ k j i, k < 4 → j < 2 → i < 128 → fields [2, 1, 7] ((k * 256 + j * 128 + i) % 1024) = [k, j, i] := by
    intro k j i hk hj hi
    have h0 : (k * 256 + j * 128 + i) % 1024 = k * 256 + j * 128 + i := by omega
    simp only [fields, List.sum_cons, List.sum_nil, h0, List.cons.injEq, and_true]
    refine ⟨?_, ?_, ?_⟩ <;> omega
  rcases t with _ | ⟨q, s⟩ | n
  · rfl
  · have hs := s.isLt
    cases q
    · have := key 1 0 s.toNat (by omega) (by omega) (by omega)
      simp only [Nat.zero_mul, Nat.add_zero, Nat.one_mul] at this
      simp [Target.code, Target.ofCode, this]
    · have := key 2 0 s.toNat (by omega) (by omega) (by omega)
      simp only [Nat.zero_mul, Nat.add_zero] at this
      simp [Target.code, Target.ofCode, this]
    · have := key 3 0 s.toNat (by omega) (by omega) (by omega)
      simp only [Nat.zero_mul, Nat.add_zero] at this
      simp [Target.code, Target.ofCode, this]
  · have hn := n.isLt
    have := key 1 1 n.toNat (by omega) (by omega) (by omega)
    simp only [Nat.one_mul] at this
    simp [Target.code, Target.ofCode, this, hn]

theorem Target.code_of {c : Nat} {t : Target} (h : Target.ofCode c = some t) : t.code % 1024 = c % 1024 := by
  unfold Target.ofCode at h
  split at h <;> try (rename_i heq; simp only [fields, List.sum_cons, List.sum_nil, List.cons.injEq, and_true] at heq)
  · cases h; simp only [Target.code]; omega
  · obtain ⟨h1, h2, rfl⟩ := heq; cases h; simp only [Target.code, BitVec.toNat_ofNat]; omega
  · obtain ⟨h1, h2, rfl⟩ := heq; cases h; simp only [Target.code, BitVec.toNat_ofNat]; omega
  · obtain ⟨h1, h2, rfl⟩ := heq; cases h; simp only [Target.code, BitVec.toNat_ofNat]; omega
  · obtain ⟨h1, h2, rfl⟩ := heq
    split at h
    · cases h; simp only [Target.code, BitVec.toNat_ofNat]; omega
    · cases h
  · cases h

@[simp] theorem MemMode.ofCode_code (m : MemMode) : MemMode.ofCode (m.code % 8388608) = some m := by
  rcases m with d | d | ⟨l, d⟩
  · have hd := d.isLt
    have h1 : d.toNat % 8388608 = d.toNat := by omega
    have h2 : d.toNat / 2 ^ (21 + 0) % 2 ^ 2 = 0 := by omega
    have h3 : d.toNat / 2 ^ 0 % 2 ^ 21 = d.toNat := by omega
    simp only [MemMode.code, MemMode.ofCode, fields, List.sum_cons, List.sum_nil, h1, h2, h3]; simp
  · have hd := d.isLt
    have h1 : (2 ^ 21 + d.toNat) % 8388608 = 2 ^ 21 + d.toNat := by omega
    have h2 : (2 ^ 21 + d.toNat) / 2 ^ (21 + 0) % 2 ^ 2 = 1 := by omega
    have h3 : (2 ^ 21 + d.toNat) / 2 ^ 0 % 2 ^ 21 = d.toNat := by omega
    simp only [MemMode.code, MemMode.ofCode, fields, List.sum_cons, List.sum_nil, h1, h2, h3]; simp
  · have hd := d.isLt
    have hl : l.code < 4 := by cases l <;> decide
    have h1 : (2 * 2 ^ 21 + l.code * 2 ^ 19 + d.toNat) % 8388608 = 2 * 2 ^ 21 + l.code * 2 ^ 19 + d.toNat := by omega
    have h2 : (2 * 2 ^ 21 + l.code * 2 ^ 19 + d.toNat) / 2 ^ (21 + 0) % 2 ^ 2 = 2 := by omega
    have h3 : (2 * 2 ^ 21 + l.code * 2 ^ 19 + d.toNat) / 2 ^ 0 % 2 ^ 21 = l.code * 2 ^ 19 + d.toNat := by omega
    have h4 : (l.code * 2 ^ 19 + d.toNat) / 2 ^ 19 = l.code := by omega
    have h5 : Link.ofCode l.code = some l := by cases l <;> rfl
    have h6 : BitVec.ofNat 19 (l.code * 2 ^ 19 + d.toNat) = d := by
      apply BitVec.eq_of_toNat_eq; rw [BitVec.toNat_ofNat, Nat.mul_add_mod_self_right, Nat.mod_eq_of_lt hd]
    simp only [MemMode.code, MemMode.ofCode, fields, List.sum_cons, List.sum_nil, h1, h2, h3, h4, h5, h6, Option.map_some]

theorem MemMode.code_of {c : Nat} {m : MemMode} (h : MemMode.ofCode c = some m) : m.code % 8388608 = c % 8388608 := by
  have e0 : c / 2 ^ (21 + 0) % 2 ^ 2 = c / 2097152 % 4 := rfl
  have e1 : c / 2 ^ 0 % 2 ^ 21 = c % 2097152 := by simp
  have key : ∀ d : Nat, (BitVec.ofNat 21 d).toNat = d % 2097152 := fun _ => BitVec.toNat_ofNat ..
  have key2 : ∀ d : Nat, (BitVec.ofNat 19 d).toNat = d % 524288 := fun _ => BitVec.toNat_ofNat ..
  unfold MemMode.ofCode at h
  simp only [fields, List.sum_cons, List.sum_nil, e0, e1] at h
  split at h
  · rename_i heq
    obtain ⟨h1, h2⟩ := List.cons.inj heq
    obtain ⟨h2, -⟩ := List.cons.inj h2
    cases h
    simp only [MemMode.code, key]
    omega
  · rename_i heq
    obtain ⟨h1, h2⟩ := List.cons.inj heq
    obtain ⟨h2, -⟩ := List.cons.inj h2
    cases h
    simp only [MemMode.code, key]
    omega
  · rename_i heq
    obtain ⟨h1, h2⟩ := List.cons.inj heq
    obtain ⟨h2, -⟩ := List.cons.inj h2
    rw [Option.map_eq_some_iff] at h
    obtain ⟨l, hl, rfl⟩ := h
    have := Link.code_of hl
    simp only [MemMode.code, key2]
    omega
  · cases h

@[simp] theorem RegName.ofCode_code (r : RegName) : RegName.ofCode (r.code % 1024) = some r := by
  rcases r with n | n | _ | _ | _ | _ <;> try rfl
  · have hn := n.isLt
    have h1 : n.toNat % 1024 = n.toNat := by omega
    have h2 : n.toNat < 32 := by omega
    simp only [RegName.code, RegName.ofCode, h1, if_pos h2]; simp
  · have hn := n.isLt
    have h1 : (32 + n.toNat) % 1024 = 32 + n.toNat := by omega
    have h2 : ¬ 32 + n.toNat < 32 := by omega
    have h3 : 32 + n.toNat < 40 := by omega
    have h4 : 32 + n.toNat - 32 = n.toNat := by omega
    simp only [RegName.code, RegName.ofCode, h1, if_neg h2, if_pos h3, h4]; simp

theorem RegName.code_of {c : Nat} {r : RegName} (h : RegName.ofCode c = some r) : r.code = c := by
  unfold RegName.ofCode at h
  split at h
  · cases h; simp only [RegName.code, BitVec.toNat_ofNat]; omega
  · split at h
    · cases h; simp only [RegName.code, BitVec.toNat_ofNat]; omega
    · split at h <;> cases h <;> rfl

@[simp] theorem Csr.ofCode_code (r : Csr) : Csr.ofCode (r.code % 1024) = some r := by
  cases r with
  | tap n =>
    have hn := n.isLt
    have h1 : (0x20 + n.toNat) % 1024 = 0x20 + n.toNat := by omega
    simp only [Csr.code, Csr.ofCode, h1]
    split <;> first | omega | skip
    have h4 : 0x20 + n.toNat - 0x20 = n.toNat := by omega
    rw [if_pos (by omega), h4]; simp
  | _ => rfl

theorem Csr.code_of {c : Nat} {r : Csr} (h : Csr.ofCode c = some r) : r.code = c := by
  unfold Csr.ofCode at h
  split at h <;> try (cases h; rfl)
  split at h
  · cases h; simp only [Csr.code, BitVec.toNat_ofNat]; omega
  · cases h

@[simp] theorem ShufForm.ofCode_code (r : ShufForm) : ShufForm.ofCode (r.code % 32) = some r := by
  cases r with
  | rotate n =>
    have hn := n.isLt
    have h1 : n.toNat % 32 = n.toNat := by omega
    have h2 : n.toNat < 16 := by omega
    simp only [ShufForm.code, ShufForm.ofCode, h1, if_pos h2]; simp
  | reverse => rfl

theorem ShufForm.code_of {c : Nat} {r : ShufForm} (h : ShufForm.ofCode c = some r) : r.code = c := by
  unfold ShufForm.ofCode at h
  split at h
  · cases h; simp only [ShufForm.code, BitVec.toNat_ofNat]; omega
  · split at h
    · cases h; simp [ShufForm.code, *]
    · cases h

@[simp] theorem RedOp.ofCode_code (o : RedOp) : RedOp.ofCode (o.w % 8) (o.rm % 4) (o.opr % 16) = some o := by
  rcases o with ⟨a, b⟩ | r | _ | _
  · cases a <;> cases b <;> rfl
  · cases r <;> rfl
  · rfl
  · rfl

theorem RedOp.code_of {w rm opr : Nat} {o : RedOp} (h : RedOp.ofCode w rm opr = some o) :
    o.w = w ∧ o.rm = rm ∧ o.opr = opr := by
  unfold RedOp.ofCode at h
  split at h
  · split at h
    · rw [Option.map_eq_some_iff] at h
      obtain ⟨r, hr, rfl⟩ := h
      exact ⟨by simp [RedOp.w, *], Rm.code_of hr, rfl⟩
    · cases h
  · split at h
    · cases h; rename_i h1; exact ⟨h1.1.symm, h1.2.symm, rfl⟩
    · cases h
  · split at h
    · cases h; rename_i h1; exact ⟨h1.1.symm, h1.2.symm, rfl⟩
    · cases h
  · split at h
    · rw [Option.bind_eq_some_iff] at h
      obtain ⟨a, ha, h⟩ := h
      rw [Option.map_eq_some_iff] at h
      obtain ⟨b, hb, rfl⟩ := h
      rename_i h1
      exact ⟨IW.code_of hb, h1.symm, IntRed.code_of ha⟩
    · cases h

/-! ### Layouts -/

@[simp] theorem BitVec.ofNat_mod_2 (x : BitVec 2) : BitVec.ofNat 2 (x.toNat % 4) = x := by
  have := x.isLt; apply BitVec.eq_of_toNat_eq; rw [BitVec.toNat_ofNat]; omega

@[simp] theorem BitVec.ofNat_mod_3 (x : BitVec 3) : BitVec.ofNat 3 (x.toNat % 8) = x := by
  have := x.isLt; apply BitVec.eq_of_toNat_eq; rw [BitVec.toNat_ofNat]; omega

@[simp] theorem BitVec.ofNat_mod_4 (x : BitVec 4) : BitVec.ofNat 4 (x.toNat % 16) = x := by
  have := x.isLt; apply BitVec.eq_of_toNat_eq; rw [BitVec.toNat_ofNat]; omega

@[simp] theorem BitVec.ofNat_mod_5 (x : BitVec 5) : BitVec.ofNat 5 (x.toNat % 32) = x := by
  have := x.isLt; apply BitVec.eq_of_toNat_eq; rw [BitVec.toNat_ofNat]; omega

@[simp] theorem BitVec.ofNat_mod_6 (x : BitVec 6) : BitVec.ofNat 6 (x.toNat % 64) = x := by
  have := x.isLt; apply BitVec.eq_of_toNat_eq; rw [BitVec.toNat_ofNat]; omega

@[simp] theorem BitVec.ofNat_mod_8 (x : BitVec 8) : BitVec.ofNat 8 (x.toNat % 256) = x := by
  have := x.isLt; apply BitVec.eq_of_toNat_eq; rw [BitVec.toNat_ofNat]; omega

@[simp] theorem BitVec.ofNat_mod_10 (x : BitVec 10) : BitVec.ofNat 10 (x.toNat % 1024) = x := by
  have := x.isLt; apply BitVec.eq_of_toNat_eq; rw [BitVec.toNat_ofNat]; omega

@[simp] theorem BitVec.ofNat_mod_12 (x : BitVec 12) : BitVec.ofNat 12 (x.toNat % 4096) = x := by
  have := x.isLt; apply BitVec.eq_of_toNat_eq; rw [BitVec.toNat_ofNat]; omega

@[simp] theorem BitVec.ofNat_mod_16 (x : BitVec 16) : BitVec.ofNat 16 (x.toNat % 65536) = x := by
  have := x.isLt; apply BitVec.eq_of_toNat_eq; rw [BitVec.toNat_ofNat]; omega

@[simp] theorem BitVec.ofNat_mod_20 (x : BitVec 20) : BitVec.ofNat 20 (x.toNat % 1048576) = x := by
  have := x.isLt; apply BitVec.eq_of_toNat_eq; rw [BitVec.toNat_ofNat]; omega

@[simp] theorem BitVec.ofNat_mod_21 (x : BitVec 21) : BitVec.ofNat 21 (x.toNat % 2097152) = x := by
  have := x.isLt; apply BitVec.eq_of_toNat_eq; rw [BitVec.toNat_ofNat]; omega

@[simp] theorem BitVec.ofNat_mod_24 (x : BitVec 24) : BitVec.ofNat 24 (x.toNat % 16777216) = x := by
  have := x.isLt; apply BitVec.eq_of_toNat_eq; rw [BitVec.toNat_ofNat]; omega

@[simp] theorem BitVec.ofNat_mod_28 (x : BitVec 28) : BitVec.ofNat 28 (x.toNat % 268435456) = x := by
  have := x.isLt; apply BitVec.eq_of_toNat_eq; rw [BitVec.toNat_ofNat]; omega

@[simp] theorem BitVec.ofNat_mod_31 (x : BitVec 31) : BitVec.ofNat 31 (x.toNat % 2147483648) = x := by
  have := x.isLt; apply BitVec.eq_of_toNat_eq; rw [BitVec.toNat_ofNat]; omega

@[simp] theorem BitVec.ofNat_mod_44 (x : BitVec 44) : BitVec.ofNat 44 (x.toNat % 17592186044416) = x := by
  have := x.isLt; apply BitVec.eq_of_toNat_eq; rw [BitVec.toNat_ofNat]; omega

theorem FP.dec_enc (f : FP) : FP.dec f.enc = some f := by
  have h := fields_pack [(2, f.pr.code), (10, f.t0.code), (10, f.t1.code), (34, 0)]
  simp only [List.map_cons, List.map_nil] at h
  simp only [FP.dec, FP.enc, h]
  simp

theorem FP.enc_lt (f : FP) : f.enc < 2 ^ 56 := pack_lt [(2, f.pr.code), (10, f.t0.code), (10, f.t1.code), (34, 0)]

theorem FP.enc_of_dec {w : Nat} {f : FP} (hw : w < 2 ^ 56) (h : FP.dec w = some f) : f.enc = w := by
  have hp := pack_fields [2, 10, 10, 34] w hw
  unfold FP.dec at h
  split at h
  · rename_i heq
    simp only [Option.bind_eq_some_iff] at h
    obtain ⟨pr, h0, t0, h1, t1, h2, hf⟩ := h
    cases hf
    rw [heq] at hp
    rw [← hp]
    simp [FP.enc, pack, List.zip, List.zipWith, Pred.code_of h0, Target.code_of h1, Target.code_of h2]
  · cases h

theorem FSel.dec_enc (f : FSel) : FSel.dec f.enc = some f := by
  have h := fields_pack [(2, 0), (10, f.t0.code), (10, f.t1.code), (34, 0)]
  simp only [List.map_cons, List.map_nil] at h
  simp only [FSel.dec, FSel.enc, h]
  simp

theorem FSel.enc_lt (f : FSel) : f.enc < 2 ^ 56 := pack_lt [(2, 0), (10, f.t0.code), (10, f.t1.code), (34, 0)]

theorem FSel.enc_of_dec {w : Nat} {f : FSel} (hw : w < 2 ^ 56) (h : FSel.dec w = some f) : f.enc = w := by
  have hp := pack_fields [2, 10, 10, 34] w hw
  unfold FSel.dec at h
  split at h
  · rename_i heq
    simp only [Option.bind_eq_some_iff] at h
    obtain ⟨t0, h0, t1, h1, hf⟩ := h
    cases hf
    rw [heq] at hp
    rw [← hp]
    simp [FSel.enc, pack, List.zip, List.zipWith, Target.code_of h0, Target.code_of h1]
  · cases h

theorem FMov4.dec_enc (f : FMov4) : FMov4.dec f.enc = some f := by
  have h := fields_pack [(2, f.pr.code), (10, f.t0.code), (10, f.t1.code), (10, f.t2.code), (10, f.t3.code), (14, 0)]
  simp only [List.map_cons, List.map_nil] at h
  simp only [FMov4.dec, FMov4.enc, h]
  simp

theorem FMov4.enc_lt (f : FMov4) : f.enc < 2 ^ 56 := pack_lt [(2, f.pr.code), (10, f.t0.code), (10, f.t1.code), (10, f.t2.code), (10, f.t3.code), (14, 0)]

theorem FMov4.enc_of_dec {w : Nat} {f : FMov4} (hw : w < 2 ^ 56) (h : FMov4.dec w = some f) : f.enc = w := by
  have hp := pack_fields [2, 10, 10, 10, 10, 14] w hw
  unfold FMov4.dec at h
  split at h
  · rename_i heq
    simp only [Option.bind_eq_some_iff] at h
    obtain ⟨pr, h0, t0, h1, t1, h2, t2, h3, t3, h4, hf⟩ := h
    cases hf
    rw [heq] at hp
    rw [← hp]
    simp [FMov4.enc, pack, List.zip, List.zipWith, Pred.code_of h0, Target.code_of h1, Target.code_of h2, Target.code_of h3, Target.code_of h4]
  · cases h

theorem FLimm.dec_enc (f : FLimm) : FLimm.dec f.enc = some f := by
  have h := fields_pack [(2, f.pr.code), (10, f.t0.code), (44, f.imm.toNat)]
  simp only [List.map_cons, List.map_nil] at h
  simp only [FLimm.dec, FLimm.enc, h]
  simp

theorem FLimm.enc_lt (f : FLimm) : f.enc < 2 ^ 56 := pack_lt [(2, f.pr.code), (10, f.t0.code), (44, f.imm.toNat)]

theorem FLimm.enc_of_dec {w : Nat} {f : FLimm} (hw : w < 2 ^ 56) (h : FLimm.dec w = some f) : f.enc = w := by
  have hp := pack_fields [2, 10, 44] w hw
  unfold FLimm.dec at h
  split at h
  · rename_i heq
    simp only [Option.bind_eq_some_iff] at h
    obtain ⟨pr, h0, t0, h1, hf⟩ := h
    cases hf
    rw [heq] at hp
    rw [← hp]
    simp [FLimm.enc, pack, List.zip, List.zipWith, Pred.code_of h0, Target.code_of h1]
  · cases h

theorem FOrhi.dec_enc (f : FOrhi) : FOrhi.dec f.enc = some f := by
  have h := fields_pack [(2, f.pr.code), (10, f.t0.code), (10, f.t1.code), (3, 3), (11, 0), (20, f.imm.toNat)]
  simp only [List.map_cons, List.map_nil] at h
  simp only [FOrhi.dec, FOrhi.enc, h]
  simp

theorem FOrhi.enc_lt (f : FOrhi) : f.enc < 2 ^ 56 := pack_lt [(2, f.pr.code), (10, f.t0.code), (10, f.t1.code), (3, 3), (11, 0), (20, f.imm.toNat)]

theorem FOrhi.enc_of_dec {w : Nat} {f : FOrhi} (hw : w < 2 ^ 56) (h : FOrhi.dec w = some f) : f.enc = w := by
  have hp := pack_fields [2, 10, 10, 3, 11, 20] w hw
  unfold FOrhi.dec at h
  split at h
  · rename_i heq
    simp only [Option.bind_eq_some_iff] at h
    obtain ⟨pr, h0, t0, h1, t1, h2, hf⟩ := h
    cases hf
    rw [heq] at hp
    rw [← hp]
    simp [FOrhi.enc, pack, List.zip, List.zipWith, Pred.code_of h0, Target.code_of h1, Target.code_of h2]
  · cases h

theorem FRead.dec_enc (f : FRead) : FRead.dec f.enc = some f := by
  have h := fields_pack [(2, f.pr.code), (10, f.t0.code), (10, f.t1.code), (10, f.reg.code), (24, 0)]
  simp only [List.map_cons, List.map_nil] at h
  simp only [FRead.dec, FRead.enc, h]
  simp

theorem FRead.enc_lt (f : FRead) : f.enc < 2 ^ 56 := pack_lt [(2, f.pr.code), (10, f.t0.code), (10, f.t1.code), (10, f.reg.code), (24, 0)]

theorem FRead.enc_of_dec {w : Nat} {f : FRead} (hw : w < 2 ^ 56) (h : FRead.dec w = some f) : f.enc = w := by
  have hp := pack_fields [2, 10, 10, 10, 24] w hw
  unfold FRead.dec at h
  split at h
  · rename_i heq
    simp only [Option.bind_eq_some_iff] at h
    obtain ⟨pr, h0, t0, h1, t1, h2, reg, h3, hf⟩ := h
    cases hf
    rw [heq] at hp
    rw [← hp]
    simp [FRead.enc, pack, List.zip, List.zipWith, Pred.code_of h0, Target.code_of h1, Target.code_of h2, RegName.code_of h3]
  · cases h

theorem FBr.dec_enc (f : FBr) : FBr.dec f.enc = some f := by
  have h := fields_pack [(2, f.pr.code), (20, 0), (3, f.exit.toNat), (31, f.offs.toNat)]
  simp only [List.map_cons, List.map_nil] at h
  simp only [FBr.dec, FBr.enc, h]
  simp

theorem FBr.enc_lt (f : FBr) : f.enc < 2 ^ 56 := pack_lt [(2, f.pr.code), (20, 0), (3, f.exit.toNat), (31, f.offs.toNat)]

theorem FBr.enc_of_dec {w : Nat} {f : FBr} (hw : w < 2 ^ 56) (h : FBr.dec w = some f) : f.enc = w := by
  have hp := pack_fields [2, 20, 3, 31] w hw
  unfold FBr.dec at h
  split at h
  · rename_i heq
    simp only [Option.bind_eq_some_iff] at h
    obtain ⟨pr, h0, hf⟩ := h
    cases hf
    rw [heq] at hp
    rw [← hp]
    simp [FBr.enc, pack, List.zip, List.zipWith, Pred.code_of h0]
  · cases h

theorem FExit.dec_enc (f : FExit) : FExit.dec f.enc = some f := by
  have h := fields_pack [(2, f.pr.code), (20, 0), (3, f.exit.toNat), (31, 0)]
  simp only [List.map_cons, List.map_nil] at h
  simp only [FExit.dec, FExit.enc, h]
  simp

theorem FExit.enc_lt (f : FExit) : f.enc < 2 ^ 56 := pack_lt [(2, f.pr.code), (20, 0), (3, f.exit.toNat), (31, 0)]

theorem FExit.enc_of_dec {w : Nat} {f : FExit} (hw : w < 2 ^ 56) (h : FExit.dec w = some f) : f.enc = w := by
  have hp := pack_fields [2, 20, 3, 31] w hw
  unfold FExit.dec at h
  split at h
  · rename_i heq
    simp only [Option.bind_eq_some_iff] at h
    obtain ⟨pr, h0, hf⟩ := h
    cases hf
    rw [heq] at hp
    rw [← hp]
    simp [FExit.enc, pack, List.zip, List.zipWith, Pred.code_of h0]
  · cases h

theorem FTrap.dec_enc (f : FTrap) : FTrap.dec f.enc = some f := by
  have h := fields_pack [(2, f.pr.code), (30, 0), (24, f.val.toNat)]
  simp only [List.map_cons, List.map_nil] at h
  simp only [FTrap.dec, FTrap.enc, h]
  simp

theorem FTrap.enc_lt (f : FTrap) : f.enc < 2 ^ 56 := pack_lt [(2, f.pr.code), (30, 0), (24, f.val.toNat)]

theorem FTrap.enc_of_dec {w : Nat} {f : FTrap} (hw : w < 2 ^ 56) (h : FTrap.dec w = some f) : f.enc = w := by
  have hp := pack_fields [2, 30, 24] w hw
  unfold FTrap.dec at h
  split at h
  · rename_i heq
    simp only [Option.bind_eq_some_iff] at h
    obtain ⟨pr, h0, hf⟩ := h
    cases hf
    rw [heq] at hp
    rw [← hp]
    simp [FTrap.enc, pack, List.zip, List.zipWith, Pred.code_of h0]
  · cases h

theorem FPr.dec_enc (f : FPr) : FPr.dec f.enc = some f := by
  have h := fields_pack [(2, f.pr.code), (54, 0)]
  simp only [List.map_cons, List.map_nil] at h
  simp only [FPr.dec, FPr.enc, h]
  simp

theorem FPr.enc_lt (f : FPr) : f.enc < 2 ^ 56 := pack_lt [(2, f.pr.code), (54, 0)]

theorem FPr.enc_of_dec {w : Nat} {f : FPr} (hw : w < 2 ^ 56) (h : FPr.dec w = some f) : f.enc = w := by
  have hp := pack_fields [2, 54] w hw
  unfold FPr.dec at h
  split at h
  · rename_i heq
    simp only [Option.bind_eq_some_iff] at h
    obtain ⟨pr, h0, hf⟩ := h
    cases hf
    rw [heq] at hp
    rw [← hp]
    simp [FPr.enc, pack, List.zip, List.zipWith, Pred.code_of h0]
  · cases h

theorem FCsr.dec_enc (f : FCsr) : FCsr.dec f.enc = some f := by
  have h := fields_pack [(2, f.pr.code), (10, f.t0.code), (10, f.t1.code), (10, f.csr.code), (24, 0)]
  simp only [List.map_cons, List.map_nil] at h
  simp only [FCsr.dec, FCsr.enc, h]
  simp

theorem FCsr.enc_lt (f : FCsr) : f.enc < 2 ^ 56 := pack_lt [(2, f.pr.code), (10, f.t0.code), (10, f.t1.code), (10, f.csr.code), (24, 0)]

theorem FCsr.enc_of_dec {w : Nat} {f : FCsr} (hw : w < 2 ^ 56) (h : FCsr.dec w = some f) : f.enc = w := by
  have hp := pack_fields [2, 10, 10, 10, 24] w hw
  unfold FCsr.dec at h
  split at h
  · rename_i heq
    simp only [Option.bind_eq_some_iff] at h
    obtain ⟨pr, h0, t0, h1, t1, h2, csr, h3, hf⟩ := h
    cases hf
    rw [heq] at hp
    rw [← hp]
    simp [FCsr.enc, pack, List.zip, List.zipWith, Pred.code_of h0, Target.code_of h1, Target.code_of h2, Csr.code_of h3]
  · cases h

theorem FFork.dec_enc (f : FFork) : FFork.dec f.enc = some f := by
  have h := fields_pack [(2, f.pr.code), (10, f.t0.code), (10, f.t1.code), (3, 0), (31, f.offs.toNat)]
  simp only [List.map_cons, List.map_nil] at h
  simp only [FFork.dec, FFork.enc, h]
  simp

theorem FFork.enc_lt (f : FFork) : f.enc < 2 ^ 56 := pack_lt [(2, f.pr.code), (10, f.t0.code), (10, f.t1.code), (3, 0), (31, f.offs.toNat)]

theorem FFork.enc_of_dec {w : Nat} {f : FFork} (hw : w < 2 ^ 56) (h : FFork.dec w = some f) : f.enc = w := by
  have hp := pack_fields [2, 10, 10, 3, 31] w hw
  unfold FFork.dec at h
  split at h
  · rename_i heq
    simp only [Option.bind_eq_some_iff] at h
    obtain ⟨pr, h0, t0, h1, t1, h2, hf⟩ := h
    cases hf
    rw [heq] at hp
    rw [← hp]
    simp [FFork.enc, pack, List.zip, List.zipWith, Pred.code_of h0, Target.code_of h1, Target.code_of h2]
  · cases h

theorem FRedt.dec_enc (f : FRedt) : FRedt.dec f.enc = some f := by
  have h := fields_pack [(2, f.pr.code), (10, f.t0.code), (10, f.t1.code), (3, f.op.w), (2, f.op.rm), (1, bnat f.collect), (4, f.op.opr), (24, 0)]
  simp only [List.map_cons, List.map_nil] at h
  simp only [FRedt.dec, FRedt.enc, h]
  simp

theorem FRedt.enc_lt (f : FRedt) : f.enc < 2 ^ 56 := pack_lt [(2, f.pr.code), (10, f.t0.code), (10, f.t1.code), (3, f.op.w), (2, f.op.rm), (1, bnat f.collect), (4, f.op.opr), (24, 0)]

theorem FRedt.enc_of_dec {w : Nat} {f : FRedt} (hw : w < 2 ^ 56) (h : FRedt.dec w = some f) : f.enc = w := by
  have hp := pack_fields [2, 10, 10, 3, 2, 1, 4, 24] w hw
  unfold FRedt.dec at h
  split at h
  · rename_i heq
    simp only [Option.bind_eq_some_iff] at h
    obtain ⟨pr, h0, t0, h1, t1, h2, collect, h3, op, h4, hf⟩ := h
    cases hf
    rw [heq] at hp
    rw [← hp]
    simp [FRedt.enc, pack, List.zip, List.zipWith, Pred.code_of h0, Target.code_of h1, Target.code_of h2, boolOfCode_of h3, RedOp.code_of h4]
  · cases h

theorem FWaitc.dec_enc (f : FWaitc) : FWaitc.dec f.enc = some f := by
  have h := fields_pack [(2, f.pr.code), (10, f.t0.code), (10, f.t1.code), (3, 3 * bnat f.report), (31, 0)]
  simp only [List.map_cons, List.map_nil] at h
  simp only [FWaitc.dec, FWaitc.enc, h]
  simp

theorem FWaitc.enc_lt (f : FWaitc) : f.enc < 2 ^ 56 := pack_lt [(2, f.pr.code), (10, f.t0.code), (10, f.t1.code), (3, 3 * bnat f.report), (31, 0)]

theorem FWaitc.enc_of_dec {w : Nat} {f : FWaitc} (hw : w < 2 ^ 56) (h : FWaitc.dec w = some f) : f.enc = w := by
  have hp := pack_fields [2, 10, 10, 3, 31] w hw
  unfold FWaitc.dec at h
  split at h
  · rename_i heq
    simp only [Option.bind_eq_some_iff] at h
    obtain ⟨pr, h0, t0, h1, t1, h2, report, h3, hf⟩ := h
    cases hf
    rw [heq] at hp
    rw [← hp]
    simp [FWaitc.enc, pack, List.zip, List.zipWith, Pred.code_of h0, Target.code_of h1, Target.code_of h2, repOfCode_of h3]
  · cases h

theorem FA.dec_enc (f : FA) : FA.dec f.enc = some f := by
  have h := fields_pack [(2, f.pr.code), (10, f.t0.code), (10, f.t1.code), (3, f.w.code), (31, 0)]
  simp only [List.map_cons, List.map_nil] at h
  simp only [FA.dec, FA.enc, h]
  simp

theorem FA.enc_lt (f : FA) : f.enc < 2 ^ 56 := pack_lt [(2, f.pr.code), (10, f.t0.code), (10, f.t1.code), (3, f.w.code), (31, 0)]

theorem FA.enc_of_dec {w : Nat} {f : FA} (hw : w < 2 ^ 56) (h : FA.dec w = some f) : f.enc = w := by
  have hp := pack_fields [2, 10, 10, 3, 31] w hw
  unfold FA.dec at h
  split at h
  · rename_i heq
    simp only [Option.bind_eq_some_iff] at h
    obtain ⟨pr, h0, t0, h1, t1, h2, w, h3, hf⟩ := h
    cases hf
    rw [heq] at hp
    rw [← hp]
    simp [FA.enc, pack, List.zip, List.zipWith, Pred.code_of h0, Target.code_of h1, Target.code_of h2, IW.code_of h3]
  · cases h

theorem FI.dec_enc (f : FI) : FI.dec f.enc = some f := by
  have h := fields_pack [(2, f.pr.code), (10, f.t0.code), (10, f.t1.code), (3, f.w.code), (31, f.imm.toNat)]
  simp only [List.map_cons, List.map_nil] at h
  simp only [FI.dec, FI.enc, h]
  simp

theorem FI.enc_lt (f : FI) : f.enc < 2 ^ 56 := pack_lt [(2, f.pr.code), (10, f.t0.code), (10, f.t1.code), (3, f.w.code), (31, f.imm.toNat)]

theorem FI.enc_of_dec {w : Nat} {f : FI} (hw : w < 2 ^ 56) (h : FI.dec w = some f) : f.enc = w := by
  have hp := pack_fields [2, 10, 10, 3, 31] w hw
  unfold FI.dec at h
  split at h
  · rename_i heq
    simp only [Option.bind_eq_some_iff] at h
    obtain ⟨pr, h0, t0, h1, t1, h2, w, h3, hf⟩ := h
    cases hf
    rw [heq] at hp
    rw [← hp]
    simp [FI.enc, pack, List.zip, List.zipWith, Pred.code_of h0, Target.code_of h1, Target.code_of h2, IW.code_of h3]
  · cases h

theorem FFtest.dec_enc (f : FFtest) : FFtest.dec f.enc = some f := by
  have h := fields_pack [(2, f.pr.code), (10, f.t0.code), (10, f.t1.code), (3, f.fmt.code), (21, 0), (10, f.cls.toNat)]
  simp only [List.map_cons, List.map_nil] at h
  simp only [FFtest.dec, FFtest.enc, h]
  simp

theorem FFtest.enc_lt (f : FFtest) : f.enc < 2 ^ 56 := pack_lt [(2, f.pr.code), (10, f.t0.code), (10, f.t1.code), (3, f.fmt.code), (21, 0), (10, f.cls.toNat)]

theorem FFtest.enc_of_dec {w : Nat} {f : FFtest} (hw : w < 2 ^ 56) (h : FFtest.dec w = some f) : f.enc = w := by
  have hp := pack_fields [2, 10, 10, 3, 21, 10] w hw
  unfold FFtest.dec at h
  split at h
  · rename_i heq
    simp only [Option.bind_eq_some_iff] at h
    obtain ⟨pr, h0, t0, h1, t1, h2, fmt, h3, hf⟩ := h
    cases hf
    rw [heq] at hp
    rw [← hp]
    simp [FFtest.enc, pack, List.zip, List.zipWith, Pred.code_of h0, Target.code_of h1, Target.code_of h2, Fmt.code_of h3]
  · cases h

theorem FAgen.dec_enc (f : FAgen) : FAgen.dec f.enc = some f := by
  have h := fields_pack [(2, f.pr.code), (10, f.t0.code), (10, f.t1.code), (3, f.w.code), (3, f.sh.toNat), (28, f.offs.toNat)]
  simp only [List.map_cons, List.map_nil] at h
  simp only [FAgen.dec, FAgen.enc, h]
  simp

theorem FAgen.enc_lt (f : FAgen) : f.enc < 2 ^ 56 := pack_lt [(2, f.pr.code), (10, f.t0.code), (10, f.t1.code), (3, f.w.code), (3, f.sh.toNat), (28, f.offs.toNat)]

theorem FAgen.enc_of_dec {w : Nat} {f : FAgen} (hw : w < 2 ^ 56) (h : FAgen.dec w = some f) : f.enc = w := by
  have hp := pack_fields [2, 10, 10, 3, 3, 28] w hw
  unfold FAgen.dec at h
  split at h
  · rename_i heq
    simp only [Option.bind_eq_some_iff] at h
    obtain ⟨pr, h0, t0, h1, t1, h2, w, h3, hf⟩ := h
    cases hf
    rw [heq] at hp
    rw [← hp]
    simp [FAgen.enc, pack, List.zip, List.zipWith, Pred.code_of h0, Target.code_of h1, Target.code_of h2, IW.code_of h3]
  · cases h

theorem FCvtif.dec_enc (f : FCvtif) : FCvtif.dec f.enc = some f := by
  have h := fields_pack [(2, f.pr.code), (10, f.t0.code), (10, f.t1.code), (3, f.fmt.code), (2, f.rm.code), (2, 0), (1, bnat f.uns), (2, f.sw.code), (24, 0)]
  simp only [List.map_cons, List.map_nil] at h
  simp only [FCvtif.dec, FCvtif.enc, h]
  simp

theorem FCvtif.enc_lt (f : FCvtif) : f.enc < 2 ^ 56 := pack_lt [(2, f.pr.code), (10, f.t0.code), (10, f.t1.code), (3, f.fmt.code), (2, f.rm.code), (2, 0), (1, bnat f.uns), (2, f.sw.code), (24, 0)]

theorem FCvtif.enc_of_dec {w : Nat} {f : FCvtif} (hw : w < 2 ^ 56) (h : FCvtif.dec w = some f) : f.enc = w := by
  have hp := pack_fields [2, 10, 10, 3, 2, 2, 1, 2, 24] w hw
  unfold FCvtif.dec at h
  split at h
  · rename_i heq
    simp only [Option.bind_eq_some_iff] at h
    obtain ⟨pr, h0, t0, h1, t1, h2, fmt, h3, rm, h4, uns, h5, sw, h6, hf⟩ := h
    cases hf
    rw [heq] at hp
    rw [← hp]
    simp [FCvtif.enc, pack, List.zip, List.zipWith, Pred.code_of h0, Target.code_of h1, Target.code_of h2, Fmt.code_of h3, Rm.code_of h4, boolOfCode_of h5, IW.code_of h6]
  · cases h

theorem FCvtfi.dec_enc (f : FCvtfi) : FCvtfi.dec f.enc = some f := by
  have h := fields_pack [(2, f.pr.code), (10, f.t0.code), (10, f.t1.code), (3, f.w.code), (2, f.rm.code), (2, 0), (1, bnat f.uns), (26, 0)]
  simp only [List.map_cons, List.map_nil] at h
  simp only [FCvtfi.dec, FCvtfi.enc, h]
  simp

theorem FCvtfi.enc_lt (f : FCvtfi) : f.enc < 2 ^ 56 := pack_lt [(2, f.pr.code), (10, f.t0.code), (10, f.t1.code), (3, f.w.code), (2, f.rm.code), (2, 0), (1, bnat f.uns), (26, 0)]

theorem FCvtfi.enc_of_dec {w : Nat} {f : FCvtfi} (hw : w < 2 ^ 56) (h : FCvtfi.dec w = some f) : f.enc = w := by
  have hp := pack_fields [2, 10, 10, 3, 2, 2, 1, 26] w hw
  unfold FCvtfi.dec at h
  split at h
  · rename_i heq
    simp only [Option.bind_eq_some_iff] at h
    obtain ⟨pr, h0, t0, h1, t1, h2, w, h3, rm, h4, uns, h5, hf⟩ := h
    cases hf
    rw [heq] at hp
    rw [← hp]
    simp [FCvtfi.enc, pack, List.zip, List.zipWith, Pred.code_of h0, Target.code_of h1, Target.code_of h2, IW.code_of h3, Rm.code_of h4, boolOfCode_of h5]
  · cases h

theorem FF.dec_enc (f : FF) : FF.dec f.enc = some f := by
  have h := fields_pack [(2, f.pr.code), (10, f.t0.code), (10, f.t1.code), (3, f.fmt.code), (31, 0)]
  simp only [List.map_cons, List.map_nil] at h
  simp only [FF.dec, FF.enc, h]
  simp

theorem FF.enc_lt (f : FF) : f.enc < 2 ^ 56 := pack_lt [(2, f.pr.code), (10, f.t0.code), (10, f.t1.code), (3, f.fmt.code), (31, 0)]

theorem FF.enc_of_dec {w : Nat} {f : FF} (hw : w < 2 ^ 56) (h : FF.dec w = some f) : f.enc = w := by
  have hp := pack_fields [2, 10, 10, 3, 31] w hw
  unfold FF.dec at h
  split at h
  · rename_i heq
    simp only [Option.bind_eq_some_iff] at h
    obtain ⟨pr, h0, t0, h1, t1, h2, fmt, h3, hf⟩ := h
    cases hf
    rw [heq] at hp
    rw [← hp]
    simp [FF.enc, pack, List.zip, List.zipWith, Pred.code_of h0, Target.code_of h1, Target.code_of h2, Fmt.code_of h3]
  · cases h

theorem FLd.dec_enc (f : FLd) : FLd.dec f.enc = some f := by
  have h := fields_pack [(2, f.pr.code), (10, f.t0.code), (10, f.t1.code), (3, f.w.code), (5, f.lsid.toNat), (3, f.sc.code), (23, f.mode.code)]
  simp only [List.map_cons, List.map_nil] at h
  simp only [FLd.dec, FLd.enc, h]
  simp

theorem FLd.enc_lt (f : FLd) : f.enc < 2 ^ 56 := pack_lt [(2, f.pr.code), (10, f.t0.code), (10, f.t1.code), (3, f.w.code), (5, f.lsid.toNat), (3, f.sc.code), (23, f.mode.code)]

theorem FLd.enc_of_dec {w : Nat} {f : FLd} (hw : w < 2 ^ 56) (h : FLd.dec w = some f) : f.enc = w := by
  have hp := pack_fields [2, 10, 10, 3, 5, 3, 23] w hw
  unfold FLd.dec at h
  split at h
  · rename_i heq
    simp only [Option.bind_eq_some_iff] at h
    obtain ⟨pr, h0, t0, h1, t1, h2, w, h3, sc, h4, mode, h5, hf⟩ := h
    cases hf
    rw [heq] at hp
    rw [← hp]
    simp [FLd.enc, pack, List.zip, List.zipWith, Pred.code_of h0, Target.code_of h1, Target.code_of h2, IW.code_of h3, Scope.code_of h4, MemMode.code_of h5]
  · cases h

theorem FLdv.dec_enc (f : FLdv) : FLdv.dec f.enc = some f := by
  have h := fields_pack [(2, f.pr.code), (10, f.t0.code), (10, f.t1.code), (3, 4), (5, f.lsid.toNat), (3, f.sc.code), (23, f.mode.code)]
  simp only [List.map_cons, List.map_nil] at h
  simp only [FLdv.dec, FLdv.enc, h]
  simp

theorem FLdv.enc_lt (f : FLdv) : f.enc < 2 ^ 56 := pack_lt [(2, f.pr.code), (10, f.t0.code), (10, f.t1.code), (3, 4), (5, f.lsid.toNat), (3, f.sc.code), (23, f.mode.code)]

theorem FLdv.enc_of_dec {w : Nat} {f : FLdv} (hw : w < 2 ^ 56) (h : FLdv.dec w = some f) : f.enc = w := by
  have hp := pack_fields [2, 10, 10, 3, 5, 3, 23] w hw
  unfold FLdv.dec at h
  split at h
  · rename_i heq
    simp only [Option.bind_eq_some_iff] at h
    obtain ⟨pr, h0, t0, h1, t1, h2, sc, h3, mode, h4, hf⟩ := h
    cases hf
    rw [heq] at hp
    rw [← hp]
    simp [FLdv.enc, pack, List.zip, List.zipWith, Pred.code_of h0, Target.code_of h1, Target.code_of h2, Scope.code_of h3, MemMode.code_of h4]
  · cases h

theorem FSt.dec_enc (f : FSt) : FSt.dec f.enc = some f := by
  have h := fields_pack [(2, f.pr.code), (20, 0), (3, f.w.code), (5, f.lsid.toNat), (3, f.sc.code), (23, f.mode.code)]
  simp only [List.map_cons, List.map_nil] at h
  simp only [FSt.dec, FSt.enc, h]
  simp

theorem FSt.enc_lt (f : FSt) : f.enc < 2 ^ 56 := pack_lt [(2, f.pr.code), (20, 0), (3, f.w.code), (5, f.lsid.toNat), (3, f.sc.code), (23, f.mode.code)]

theorem FSt.enc_of_dec {w : Nat} {f : FSt} (hw : w < 2 ^ 56) (h : FSt.dec w = some f) : f.enc = w := by
  have hp := pack_fields [2, 20, 3, 5, 3, 23] w hw
  unfold FSt.dec at h
  split at h
  · rename_i heq
    simp only [Option.bind_eq_some_iff] at h
    obtain ⟨pr, h0, w, h1, sc, h2, mode, h3, hf⟩ := h
    cases hf
    rw [heq] at hp
    rw [← hp]
    simp [FSt.enc, pack, List.zip, List.zipWith, Pred.code_of h0, IW.code_of h1, Scope.code_of h2, MemMode.code_of h3]
  · cases h

theorem FStv.dec_enc (f : FStv) : FStv.dec f.enc = some f := by
  have h := fields_pack [(2, f.pr.code), (20, 0), (3, 4), (5, f.lsid.toNat), (3, f.sc.code), (23, f.mode.code)]
  simp only [List.map_cons, List.map_nil] at h
  simp only [FStv.dec, FStv.enc, h]
  simp

theorem FStv.enc_lt (f : FStv) : f.enc < 2 ^ 56 := pack_lt [(2, f.pr.code), (20, 0), (3, 4), (5, f.lsid.toNat), (3, f.sc.code), (23, f.mode.code)]

theorem FStv.enc_of_dec {w : Nat} {f : FStv} (hw : w < 2 ^ 56) (h : FStv.dec w = some f) : f.enc = w := by
  have hp := pack_fields [2, 20, 3, 5, 3, 23] w hw
  unfold FStv.dec at h
  split at h
  · rename_i heq
    simp only [Option.bind_eq_some_iff] at h
    obtain ⟨pr, h0, sc, h1, mode, h2, hf⟩ := h
    cases hf
    rw [heq] at hp
    rw [← hp]
    simp [FStv.enc, pack, List.zip, List.zipWith, Pred.code_of h0, Scope.code_of h1, MemMode.code_of h2]
  · cases h

theorem FLdl.dec_enc (f : FLdl) : FLdl.dec f.enc = some f := by
  have h := fields_pack [(2, f.pr.code), (10, f.t0.code), (10, f.t1.code), (3, f.w.code), (5, f.lsid.toNat), (3, bnat f.core), (2, 0), (21, f.disp.toNat)]
  simp only [List.map_cons, List.map_nil] at h
  simp only [FLdl.dec, FLdl.enc, h]
  simp

theorem FLdl.enc_lt (f : FLdl) : f.enc < 2 ^ 56 := pack_lt [(2, f.pr.code), (10, f.t0.code), (10, f.t1.code), (3, f.w.code), (5, f.lsid.toNat), (3, bnat f.core), (2, 0), (21, f.disp.toNat)]

theorem FLdl.enc_of_dec {w : Nat} {f : FLdl} (hw : w < 2 ^ 56) (h : FLdl.dec w = some f) : f.enc = w := by
  have hp := pack_fields [2, 10, 10, 3, 5, 3, 2, 21] w hw
  unfold FLdl.dec at h
  split at h
  · rename_i heq
    simp only [Option.bind_eq_some_iff] at h
    obtain ⟨pr, h0, t0, h1, t1, h2, w, h3, core, h4, hf⟩ := h
    cases hf
    rw [heq] at hp
    rw [← hp]
    simp [FLdl.enc, pack, List.zip, List.zipWith, Pred.code_of h0, Target.code_of h1, Target.code_of h2, IW.code_of h3, boolOfCode_of h4]
  · cases h

theorem FLdvl.dec_enc (f : FLdvl) : FLdvl.dec f.enc = some f := by
  have h := fields_pack [(2, f.pr.code), (10, f.t0.code), (10, f.t1.code), (3, 4), (5, f.lsid.toNat), (3, bnat f.core), (2, 0), (21, f.disp.toNat)]
  simp only [List.map_cons, List.map_nil] at h
  simp only [FLdvl.dec, FLdvl.enc, h]
  simp

theorem FLdvl.enc_lt (f : FLdvl) : f.enc < 2 ^ 56 := pack_lt [(2, f.pr.code), (10, f.t0.code), (10, f.t1.code), (3, 4), (5, f.lsid.toNat), (3, bnat f.core), (2, 0), (21, f.disp.toNat)]

theorem FLdvl.enc_of_dec {w : Nat} {f : FLdvl} (hw : w < 2 ^ 56) (h : FLdvl.dec w = some f) : f.enc = w := by
  have hp := pack_fields [2, 10, 10, 3, 5, 3, 2, 21] w hw
  unfold FLdvl.dec at h
  split at h
  · rename_i heq
    simp only [Option.bind_eq_some_iff] at h
    obtain ⟨pr, h0, t0, h1, t1, h2, core, h3, hf⟩ := h
    cases hf
    rw [heq] at hp
    rw [← hp]
    simp [FLdvl.enc, pack, List.zip, List.zipWith, Pred.code_of h0, Target.code_of h1, Target.code_of h2, boolOfCode_of h3]
  · cases h

theorem FStl.dec_enc (f : FStl) : FStl.dec f.enc = some f := by
  have h := fields_pack [(2, f.pr.code), (20, 0), (3, f.w.code), (5, f.lsid.toNat), (3, bnat f.core), (2, 0), (21, f.disp.toNat)]
  simp only [List.map_cons, List.map_nil] at h
  simp only [FStl.dec, FStl.enc, h]
  simp

theorem FStl.enc_lt (f : FStl) : f.enc < 2 ^ 56 := pack_lt [(2, f.pr.code), (20, 0), (3, f.w.code), (5, f.lsid.toNat), (3, bnat f.core), (2, 0), (21, f.disp.toNat)]

theorem FStl.enc_of_dec {w : Nat} {f : FStl} (hw : w < 2 ^ 56) (h : FStl.dec w = some f) : f.enc = w := by
  have hp := pack_fields [2, 20, 3, 5, 3, 2, 21] w hw
  unfold FStl.dec at h
  split at h
  · rename_i heq
    simp only [Option.bind_eq_some_iff] at h
    obtain ⟨pr, h0, w, h1, core, h2, hf⟩ := h
    cases hf
    rw [heq] at hp
    rw [← hp]
    simp [FStl.enc, pack, List.zip, List.zipWith, Pred.code_of h0, IW.code_of h1, boolOfCode_of h2]
  · cases h

theorem FStvl.dec_enc (f : FStvl) : FStvl.dec f.enc = some f := by
  have h := fields_pack [(2, f.pr.code), (20, 0), (3, 4), (5, f.lsid.toNat), (3, bnat f.core), (2, 0), (21, f.disp.toNat)]
  simp only [List.map_cons, List.map_nil] at h
  simp only [FStvl.dec, FStvl.enc, h]
  simp

theorem FStvl.enc_lt (f : FStvl) : f.enc < 2 ^ 56 := pack_lt [(2, f.pr.code), (20, 0), (3, 4), (5, f.lsid.toNat), (3, bnat f.core), (2, 0), (21, f.disp.toNat)]

theorem FStvl.enc_of_dec {w : Nat} {f : FStvl} (hw : w < 2 ^ 56) (h : FStvl.dec w = some f) : f.enc = w := by
  have hp := pack_fields [2, 20, 3, 5, 3, 2, 21] w hw
  unfold FStvl.dec at h
  split at h
  · rename_i heq
    simp only [Option.bind_eq_some_iff] at h
    obtain ⟨pr, h0, core, h1, hf⟩ := h
    cases hf
    rw [heq] at hp
    rw [← hp]
    simp [FStvl.enc, pack, List.zip, List.zipWith, Pred.code_of h0, boolOfCode_of h1]
  · cases h

theorem FChnop.dec_enc (f : FChnop) : FChnop.dec f.enc = some f := by
  have h := fields_pack [(2, f.pr.code), (20, 0), (3, 0), (5, f.lsid.toNat), (3, 0), (2, 2), (2, f.link.code), (19, 0)]
  simp only [List.map_cons, List.map_nil] at h
  simp only [FChnop.dec, FChnop.enc, h]
  simp

theorem FChnop.enc_lt (f : FChnop) : f.enc < 2 ^ 56 := pack_lt [(2, f.pr.code), (20, 0), (3, 0), (5, f.lsid.toNat), (3, 0), (2, 2), (2, f.link.code), (19, 0)]

theorem FChnop.enc_of_dec {w : Nat} {f : FChnop} (hw : w < 2 ^ 56) (h : FChnop.dec w = some f) : f.enc = w := by
  have hp := pack_fields [2, 20, 3, 5, 3, 2, 2, 19] w hw
  unfold FChnop.dec at h
  split at h
  · rename_i heq
    simp only [Option.bind_eq_some_iff] at h
    obtain ⟨pr, h0, link, h1, hf⟩ := h
    cases hf
    rw [heq] at hp
    rw [← hp]
    simp [FChnop.enc, pack, List.zip, List.zipWith, Pred.code_of h0, Link.code_of h1]
  · cases h

theorem FPref.dec_enc (f : FPref) : FPref.dec f.enc = some f := by
  have h := fields_pack [(2, f.pr.code), (10, f.t0.code), (10, f.t1.code), (3, 0), (5, f.lsid.toNat), (5, 0), (21, f.disp.toNat)]
  simp only [List.map_cons, List.map_nil] at h
  simp only [FPref.dec, FPref.enc, h]
  simp

theorem FPref.enc_lt (f : FPref) : f.enc < 2 ^ 56 := pack_lt [(2, f.pr.code), (10, f.t0.code), (10, f.t1.code), (3, 0), (5, f.lsid.toNat), (5, 0), (21, f.disp.toNat)]

theorem FPref.enc_of_dec {w : Nat} {f : FPref} (hw : w < 2 ^ 56) (h : FPref.dec w = some f) : f.enc = w := by
  have hp := pack_fields [2, 10, 10, 3, 5, 5, 21] w hw
  unfold FPref.dec at h
  split at h
  · rename_i heq
    simp only [Option.bind_eq_some_iff] at h
    obtain ⟨pr, h0, t0, h1, t1, h2, hf⟩ := h
    cases hf
    rw [heq] at hp
    rw [← hp]
    simp [FPref.enc, pack, List.zip, List.zipWith, Pred.code_of h0, Target.code_of h1, Target.code_of h2]
  · cases h

theorem FWaitg.dec_enc (f : FWaitg) : FWaitg.dec f.enc = some f := by
  have h := fields_pack [(2, f.pr.code), (10, f.t0.code), (10, f.t1.code), (3, 0), (5, f.lsid.toNat), (3, f.sc.code), (2, 0), (21, f.disp.toNat)]
  simp only [List.map_cons, List.map_nil] at h
  simp only [FWaitg.dec, FWaitg.enc, h]
  simp

theorem FWaitg.enc_lt (f : FWaitg) : f.enc < 2 ^ 56 := pack_lt [(2, f.pr.code), (10, f.t0.code), (10, f.t1.code), (3, 0), (5, f.lsid.toNat), (3, f.sc.code), (2, 0), (21, f.disp.toNat)]

theorem FWaitg.enc_of_dec {w : Nat} {f : FWaitg} (hw : w < 2 ^ 56) (h : FWaitg.dec w = some f) : f.enc = w := by
  have hp := pack_fields [2, 10, 10, 3, 5, 3, 2, 21] w hw
  unfold FWaitg.dec at h
  split at h
  · rename_i heq
    simp only [Option.bind_eq_some_iff] at h
    obtain ⟨pr, h0, t0, h1, t1, h2, sc, h3, hf⟩ := h
    cases hf
    rw [heq] at hp
    rw [← hp]
    simp [FWaitg.enc, pack, List.zip, List.zipWith, Pred.code_of h0, Target.code_of h1, Target.code_of h2, Scope.code_of h3]
  · cases h

theorem FAmo.dec_enc (f : FAmo) : FAmo.dec f.enc = some f := by
  have h := fields_pack [(2, f.pr.code), (10, f.t0.code), (10, f.t1.code), (3, f.w.code), (5, f.lsid.toNat), (3, f.sc.code), (2, f.ord.code), (4, f.op.code), (17, 0)]
  simp only [List.map_cons, List.map_nil] at h
  simp only [FAmo.dec, FAmo.enc, h]
  simp

theorem FAmo.enc_lt (f : FAmo) : f.enc < 2 ^ 56 := pack_lt [(2, f.pr.code), (10, f.t0.code), (10, f.t1.code), (3, f.w.code), (5, f.lsid.toNat), (3, f.sc.code), (2, f.ord.code), (4, f.op.code), (17, 0)]

theorem FAmo.enc_of_dec {w : Nat} {f : FAmo} (hw : w < 2 ^ 56) (h : FAmo.dec w = some f) : f.enc = w := by
  have hp := pack_fields [2, 10, 10, 3, 5, 3, 2, 4, 17] w hw
  unfold FAmo.dec at h
  split at h
  · rename_i heq
    simp only [Option.bind_eq_some_iff] at h
    obtain ⟨pr, h0, t0, h1, t1, h2, w, h3, sc, h4, ord, h5, op, h6, hf⟩ := h
    cases hf
    rw [heq] at hp
    rw [← hp]
    simp [FAmo.enc, pack, List.zip, List.zipWith, Pred.code_of h0, Target.code_of h1, Target.code_of h2, IW.code_of h3, Scope.code_of h4, AmoOrd.code_of h5, AmoOp.code_of h6]
  · cases h

theorem FAmol.dec_enc (f : FAmol) : FAmol.dec f.enc = some f := by
  have h := fields_pack [(2, f.pr.code), (10, f.t0.code), (10, f.t1.code), (3, f.w.code), (5, f.lsid.toNat), (3, bnat f.core), (2, f.ord.code), (4, f.op.code), (17, 0)]
  simp only [List.map_cons, List.map_nil] at h
  simp only [FAmol.dec, FAmol.enc, h]
  simp

theorem FAmol.enc_lt (f : FAmol) : f.enc < 2 ^ 56 := pack_lt [(2, f.pr.code), (10, f.t0.code), (10, f.t1.code), (3, f.w.code), (5, f.lsid.toNat), (3, bnat f.core), (2, f.ord.code), (4, f.op.code), (17, 0)]

theorem FAmol.enc_of_dec {w : Nat} {f : FAmol} (hw : w < 2 ^ 56) (h : FAmol.dec w = some f) : f.enc = w := by
  have hp := pack_fields [2, 10, 10, 3, 5, 3, 2, 4, 17] w hw
  unfold FAmol.dec at h
  split at h
  · rename_i heq
    simp only [Option.bind_eq_some_iff] at h
    obtain ⟨pr, h0, t0, h1, t1, h2, w, h3, core, h4, ord, h5, op, h6, hf⟩ := h
    cases hf
    rw [heq] at hp
    rw [← hp]
    simp [FAmol.enc, pack, List.zip, List.zipWith, Pred.code_of h0, Target.code_of h1, Target.code_of h2, IW.code_of h3, boolOfCode_of h4, AmoOrd.code_of h5, AmoOp.code_of h6]
  · cases h

theorem FFence.dec_enc (f : FFence) : FFence.dec f.enc = some f := by
  have h := fields_pack [(2, f.pr.code), (10, f.t0.code), (10, f.t1.code), (3, 0), (5, f.lsid.toNat), (3, f.sc.code), (2, f.kind.code), (21, 0)]
  simp only [List.map_cons, List.map_nil] at h
  simp only [FFence.dec, FFence.enc, h]
  simp

theorem FFence.enc_lt (f : FFence) : f.enc < 2 ^ 56 := pack_lt [(2, f.pr.code), (10, f.t0.code), (10, f.t1.code), (3, 0), (5, f.lsid.toNat), (3, f.sc.code), (2, f.kind.code), (21, 0)]

theorem FFence.enc_of_dec {w : Nat} {f : FFence} (hw : w < 2 ^ 56) (h : FFence.dec w = some f) : f.enc = w := by
  have hp := pack_fields [2, 10, 10, 3, 5, 3, 2, 21] w hw
  unfold FFence.dec at h
  split at h
  · rename_i heq
    simp only [Option.bind_eq_some_iff] at h
    obtain ⟨pr, h0, t0, h1, t1, h2, sc, h3, kind, h4, hf⟩ := h
    cases hf
    rw [heq] at hp
    rw [← hp]
    simp [FFence.enc, pack, List.zip, List.zipWith, Pred.code_of h0, Target.code_of h1, Target.code_of h2, Scope.code_of h3, FenceKind.code_of h4]
  · cases h

theorem FGath.dec_enc (f : FGath) : FGath.dec f.enc = some f := by
  have h := fields_pack [(2, f.pr.code), (10, f.t0.code), (10, f.t1.code), (3, f.w.code), (5, f.lsid.toNat), (3, f.sc.code), (15, 0), (8, f.lanes.toNat)]
  simp only [List.map_cons, List.map_nil] at h
  simp only [FGath.dec, FGath.enc, h]
  simp

theorem FGath.enc_lt (f : FGath) : f.enc < 2 ^ 56 := pack_lt [(2, f.pr.code), (10, f.t0.code), (10, f.t1.code), (3, f.w.code), (5, f.lsid.toNat), (3, f.sc.code), (15, 0), (8, f.lanes.toNat)]

theorem FGath.enc_of_dec {w : Nat} {f : FGath} (hw : w < 2 ^ 56) (h : FGath.dec w = some f) : f.enc = w := by
  have hp := pack_fields [2, 10, 10, 3, 5, 3, 15, 8] w hw
  unfold FGath.dec at h
  split at h
  · rename_i heq
    simp only [Option.bind_eq_some_iff] at h
    obtain ⟨pr, h0, t0, h1, t1, h2, w, h3, sc, h4, hf⟩ := h
    cases hf
    rw [heq] at hp
    rw [← hp]
    simp [FGath.enc, pack, List.zip, List.zipWith, Pred.code_of h0, Target.code_of h1, Target.code_of h2, IW.code_of h3, Scope.code_of h4]
  · cases h

theorem FScat.dec_enc (f : FScat) : FScat.dec f.enc = some f := by
  have h := fields_pack [(2, f.pr.code), (10, f.t0.code), (10, f.t1.code), (3, f.w.code), (5, f.lsid.toNat), (3, f.sc.code), (1, bnat f.rel), (14, 0), (8, f.lanes.toNat)]
  simp only [List.map_cons, List.map_nil] at h
  simp only [FScat.dec, FScat.enc, h]
  simp

theorem FScat.enc_lt (f : FScat) : f.enc < 2 ^ 56 := pack_lt [(2, f.pr.code), (10, f.t0.code), (10, f.t1.code), (3, f.w.code), (5, f.lsid.toNat), (3, f.sc.code), (1, bnat f.rel), (14, 0), (8, f.lanes.toNat)]

theorem FScat.enc_of_dec {w : Nat} {f : FScat} (hw : w < 2 ^ 56) (h : FScat.dec w = some f) : f.enc = w := by
  have hp := pack_fields [2, 10, 10, 3, 5, 3, 1, 14, 8] w hw
  unfold FScat.dec at h
  split at h
  · rename_i heq
    simp only [Option.bind_eq_some_iff] at h
    obtain ⟨pr, h0, t0, h1, t1, h2, w, h3, sc, h4, rel, h5, hf⟩ := h
    cases hf
    rw [heq] at hp
    rw [← hp]
    simp [FScat.enc, pack, List.zip, List.zipWith, Pred.code_of h0, Target.code_of h1, Target.code_of h2, IW.code_of h3, Scope.code_of h4, boolOfCode_of h5]
  · cases h

theorem FScata.dec_enc (f : FScata) : FScata.dec f.enc = some f := by
  have h := fields_pack [(2, f.pr.code), (10, f.t0.code), (10, f.t1.code), (3, f.w.code), (5, f.lsid.toNat), (3, f.sc.code), (1, bnat f.rel), (10, 0), (4, f.op.code), (8, f.lanes.toNat)]
  simp only [List.map_cons, List.map_nil] at h
  simp only [FScata.dec, FScata.enc, h]
  simp

theorem FScata.enc_lt (f : FScata) : f.enc < 2 ^ 56 := pack_lt [(2, f.pr.code), (10, f.t0.code), (10, f.t1.code), (3, f.w.code), (5, f.lsid.toNat), (3, f.sc.code), (1, bnat f.rel), (10, 0), (4, f.op.code), (8, f.lanes.toNat)]

theorem FScata.enc_of_dec {w : Nat} {f : FScata} (hw : w < 2 ^ 56) (h : FScata.dec w = some f) : f.enc = w := by
  have hp := pack_fields [2, 10, 10, 3, 5, 3, 1, 10, 4, 8] w hw
  unfold FScata.dec at h
  split at h
  · rename_i heq
    simp only [Option.bind_eq_some_iff] at h
    obtain ⟨pr, h0, t0, h1, t1, h2, w, h3, sc, h4, rel, h5, op, h6, hf⟩ := h
    cases hf
    rw [heq] at hp
    rw [← hp]
    simp [FScata.enc, pack, List.zip, List.zipWith, Pred.code_of h0, Target.code_of h1, Target.code_of h2, IW.code_of h3, Scope.code_of h4, boolOfCode_of h5, AmoOp.code_of h6]
  · cases h

theorem FE.dec_enc (f : FE) : FE.dec f.enc = some f := by
  have h := fields_pack [(2, f.pr.code), (10, f.t0.code), (10, f.t1.code), (3, 0), (5, f.lsid.toNat), (3, f.sc.code), (1, bnat f.rel), (22, 0)]
  simp only [List.map_cons, List.map_nil] at h
  simp only [FE.dec, FE.enc, h]
  simp

theorem FE.enc_lt (f : FE) : f.enc < 2 ^ 56 := pack_lt [(2, f.pr.code), (10, f.t0.code), (10, f.t1.code), (3, 0), (5, f.lsid.toNat), (3, f.sc.code), (1, bnat f.rel), (22, 0)]

theorem FE.enc_of_dec {w : Nat} {f : FE} (hw : w < 2 ^ 56) (h : FE.dec w = some f) : f.enc = w := by
  have hp := pack_fields [2, 10, 10, 3, 5, 3, 1, 22] w hw
  unfold FE.dec at h
  split at h
  · rename_i heq
    simp only [Option.bind_eq_some_iff] at h
    obtain ⟨pr, h0, t0, h1, t1, h2, sc, h3, rel, h4, hf⟩ := h
    cases hf
    rw [heq] at hp
    rw [← hp]
    simp [FE.enc, pack, List.zip, List.zipWith, Pred.code_of h0, Target.code_of h1, Target.code_of h2, Scope.code_of h3, boolOfCode_of h4]
  · cases h

theorem FSynci.dec_enc (f : FSynci) : FSynci.dec f.enc = some f := by
  have h := fields_pack [(2, f.pr.code), (10, f.t0.code), (10, f.t1.code), (3, 0), (5, f.lsid.toNat), (3, bnat f.core), (23, 0)]
  simp only [List.map_cons, List.map_nil] at h
  simp only [FSynci.dec, FSynci.enc, h]
  simp

theorem FSynci.enc_lt (f : FSynci) : f.enc < 2 ^ 56 := pack_lt [(2, f.pr.code), (10, f.t0.code), (10, f.t1.code), (3, 0), (5, f.lsid.toNat), (3, bnat f.core), (23, 0)]

theorem FSynci.enc_of_dec {w : Nat} {f : FSynci} (hw : w < 2 ^ 56) (h : FSynci.dec w = some f) : f.enc = w := by
  have hp := pack_fields [2, 10, 10, 3, 5, 3, 23] w hw
  unfold FSynci.dec at h
  split at h
  · rename_i heq
    simp only [Option.bind_eq_some_iff] at h
    obtain ⟨pr, h0, t0, h1, t1, h2, core, h3, hf⟩ := h
    cases hf
    rw [heq] at hp
    rw [← hp]
    simp [FSynci.enc, pack, List.zip, List.zipWith, Pred.code_of h0, Target.code_of h1, Target.code_of h2, boolOfCode_of h3]
  · cases h

theorem FInv.dec_enc (f : FInv) : FInv.dec f.enc = some f := by
  have h := fields_pack [(2, f.pr.code), (10, f.t0.code), (10, f.t1.code), (3, 0), (5, f.lsid.toNat), (3, 2 + bnat f.pod), (7, 0), (16, f.asid.toNat)]
  simp only [List.map_cons, List.map_nil] at h
  simp only [FInv.dec, FInv.enc, h]
  simp

theorem FInv.enc_lt (f : FInv) : f.enc < 2 ^ 56 := pack_lt [(2, f.pr.code), (10, f.t0.code), (10, f.t1.code), (3, 0), (5, f.lsid.toNat), (3, 2 + bnat f.pod), (7, 0), (16, f.asid.toNat)]

theorem FInv.enc_of_dec {w : Nat} {f : FInv} (hw : w < 2 ^ 56) (h : FInv.dec w = some f) : f.enc = w := by
  have hp := pack_fields [2, 10, 10, 3, 5, 3, 7, 16] w hw
  unfold FInv.dec at h
  split at h
  · rename_i heq
    simp only [Option.bind_eq_some_iff] at h
    obtain ⟨pr, h0, t0, h1, t1, h2, pod, h3, hf⟩ := h
    cases hf
    rw [heq] at hp
    rw [← hp]
    simp [FInv.enc, pack, List.zip, List.zipWith, Pred.code_of h0, Target.code_of h1, Target.code_of h2, farOfCode_of h3]
  · cases h

theorem FTfetch.dec_enc (f : FTfetch) : FTfetch.dec f.enc = some f := by
  have h := fields_pack [(2, f.pr.code), (10, f.t0.code), (10, f.t1.code), (3, f.fmt.code), (5, f.lsid.toNat), (3, f.sc.code), (11, 0), (12, f.stride.toNat)]
  simp only [List.map_cons, List.map_nil] at h
  simp only [FTfetch.dec, FTfetch.enc, h]
  simp

theorem FTfetch.enc_lt (f : FTfetch) : f.enc < 2 ^ 56 := pack_lt [(2, f.pr.code), (10, f.t0.code), (10, f.t1.code), (3, f.fmt.code), (5, f.lsid.toNat), (3, f.sc.code), (11, 0), (12, f.stride.toNat)]

theorem FTfetch.enc_of_dec {w : Nat} {f : FTfetch} (hw : w < 2 ^ 56) (h : FTfetch.dec w = some f) : f.enc = w := by
  have hp := pack_fields [2, 10, 10, 3, 5, 3, 11, 12] w hw
  unfold FTfetch.dec at h
  split at h
  · rename_i heq
    simp only [Option.bind_eq_some_iff] at h
    obtain ⟨pr, h0, t0, h1, t1, h2, fmt, h3, sc, h4, hf⟩ := h
    cases hf
    rw [heq] at hp
    rw [← hp]
    simp [FTfetch.enc, pack, List.zip, List.zipWith, Pred.code_of h0, Target.code_of h1, Target.code_of h2, Fmt.code_of h3, Scope.code_of h4]
  · cases h

theorem FFar.dec_enc (f : FFar) : FFar.dec f.enc = some f := by
  have h := fields_pack [(2, f.pr.code), (10, f.t0.code), (10, f.t1.code), (3, 0), (5, f.lsid.toNat), (3, 2 + bnat f.pod), (1, bnat f.rel), (22, 0)]
  simp only [List.map_cons, List.map_nil] at h
  simp only [FFar.dec, FFar.enc, h]
  simp

theorem FFar.enc_lt (f : FFar) : f.enc < 2 ^ 56 := pack_lt [(2, f.pr.code), (10, f.t0.code), (10, f.t1.code), (3, 0), (5, f.lsid.toNat), (3, 2 + bnat f.pod), (1, bnat f.rel), (22, 0)]

theorem FFar.enc_of_dec {w : Nat} {f : FFar} (hw : w < 2 ^ 56) (h : FFar.dec w = some f) : f.enc = w := by
  have hp := pack_fields [2, 10, 10, 3, 5, 3, 1, 22] w hw
  unfold FFar.dec at h
  split at h
  · rename_i heq
    simp only [Option.bind_eq_some_iff] at h
    obtain ⟨pr, h0, t0, h1, t1, h2, pod, h3, rel, h4, hf⟩ := h
    cases hf
    rw [heq] at hp
    rw [← hp]
    simp [FFar.enc, pack, List.zip, List.zipWith, Pred.code_of h0, Target.code_of h1, Target.code_of h2, farOfCode_of h3, boolOfCode_of h4]
  · cases h

theorem FBnd.dec_enc (f : FBnd) : FBnd.dec f.enc = some f := by
  have h := fields_pack [(2, f.pr.code), (10, f.t0.code), (10, f.t1.code), (3, 0), (5, f.lsid.toNat), (3, f.sc.code), (1, bnat f.rel), (8, f.bnum.toNat), (14, 0)]
  simp only [List.map_cons, List.map_nil] at h
  simp only [FBnd.dec, FBnd.enc, h]
  simp

theorem FBnd.enc_lt (f : FBnd) : f.enc < 2 ^ 56 := pack_lt [(2, f.pr.code), (10, f.t0.code), (10, f.t1.code), (3, 0), (5, f.lsid.toNat), (3, f.sc.code), (1, bnat f.rel), (8, f.bnum.toNat), (14, 0)]

theorem FBnd.enc_of_dec {w : Nat} {f : FBnd} (hw : w < 2 ^ 56) (h : FBnd.dec w = some f) : f.enc = w := by
  have hp := pack_fields [2, 10, 10, 3, 5, 3, 1, 8, 14] w hw
  unfold FBnd.dec at h
  split at h
  · rename_i heq
    simp only [Option.bind_eq_some_iff] at h
    obtain ⟨pr, h0, t0, h1, t1, h2, sc, h3, rel, h4, hf⟩ := h
    cases hf
    rw [heq] at hp
    rw [← hp]
    simp [FBnd.enc, pack, List.zip, List.zipWith, Pred.code_of h0, Target.code_of h1, Target.code_of h2, Scope.code_of h3, boolOfCode_of h4]
  · cases h

theorem FDom.dec_enc (f : FDom) : FDom.dec f.enc = some f := by
  have h := fields_pack [(2, f.pr.code), (10, f.t0.code), (10, f.t1.code), (3, 0), (5, f.lsid.toNat), (3, f.sc.code), (1, bnat f.rel), (3, f.dom.toNat), (19, 0)]
  simp only [List.map_cons, List.map_nil] at h
  simp only [FDom.dec, FDom.enc, h]
  simp

theorem FDom.enc_lt (f : FDom) : f.enc < 2 ^ 56 := pack_lt [(2, f.pr.code), (10, f.t0.code), (10, f.t1.code), (3, 0), (5, f.lsid.toNat), (3, f.sc.code), (1, bnat f.rel), (3, f.dom.toNat), (19, 0)]

theorem FDom.enc_of_dec {w : Nat} {f : FDom} (hw : w < 2 ^ 56) (h : FDom.dec w = some f) : f.enc = w := by
  have hp := pack_fields [2, 10, 10, 3, 5, 3, 1, 3, 19] w hw
  unfold FDom.dec at h
  split at h
  · rename_i heq
    simp only [Option.bind_eq_some_iff] at h
    obtain ⟨pr, h0, t0, h1, t1, h2, sc, h3, rel, h4, hf⟩ := h
    cases hf
    rw [heq] at hp
    rw [← hp]
    simp [FDom.enc, pack, List.zip, List.zipWith, Pred.code_of h0, Target.code_of h1, Target.code_of h2, Scope.code_of h3, boolOfCode_of h4]
  · cases h

theorem FPwr.dec_enc (f : FPwr) : FPwr.dec f.enc = some f := by
  have h := fields_pack [(2, f.pr.code), (10, f.t0.code), (10, f.t1.code), (3, 0), (5, f.lsid.toNat), (3, f.sc.code), (1, bnat f.rel), (20, 0), (2, bnat f.res)]
  simp only [List.map_cons, List.map_nil] at h
  simp only [FPwr.dec, FPwr.enc, h]
  simp

theorem FPwr.enc_lt (f : FPwr) : f.enc < 2 ^ 56 := pack_lt [(2, f.pr.code), (10, f.t0.code), (10, f.t1.code), (3, 0), (5, f.lsid.toNat), (3, f.sc.code), (1, bnat f.rel), (20, 0), (2, bnat f.res)]

theorem FPwr.enc_of_dec {w : Nat} {f : FPwr} (hw : w < 2 ^ 56) (h : FPwr.dec w = some f) : f.enc = w := by
  have hp := pack_fields [2, 10, 10, 3, 5, 3, 1, 20, 2] w hw
  unfold FPwr.dec at h
  split at h
  · rename_i heq
    simp only [Option.bind_eq_some_iff] at h
    obtain ⟨pr, h0, t0, h1, t1, h2, sc, h3, rel, h4, res, h5, hf⟩ := h
    cases hf
    rw [heq] at hp
    rw [← hp]
    simp [FPwr.enc, pack, List.zip, List.zipWith, Pred.code_of h0, Target.code_of h1, Target.code_of h2, Scope.code_of h3, boolOfCode_of h4, boolOfCode_of h5]
  · cases h

theorem FFeed.dec_enc (f : FFeed) : FFeed.dec f.enc = some f := by
  have h := fields_pack [(2, f.pr.code), (10, f.t0.code), (10, f.t1.code), (3, 0), (5, f.lsid.toNat), (3, f.sc.code), (1, bnat f.rel), (3, f.dom.toNat), (9, 0), (6, f.cnt.toNat), (4, f.ch.toNat)]
  simp only [List.map_cons, List.map_nil] at h
  simp only [FFeed.dec, FFeed.enc, h]
  simp

theorem FFeed.enc_lt (f : FFeed) : f.enc < 2 ^ 56 := pack_lt [(2, f.pr.code), (10, f.t0.code), (10, f.t1.code), (3, 0), (5, f.lsid.toNat), (3, f.sc.code), (1, bnat f.rel), (3, f.dom.toNat), (9, 0), (6, f.cnt.toNat), (4, f.ch.toNat)]

theorem FFeed.enc_of_dec {w : Nat} {f : FFeed} (hw : w < 2 ^ 56) (h : FFeed.dec w = some f) : f.enc = w := by
  have hp := pack_fields [2, 10, 10, 3, 5, 3, 1, 3, 9, 6, 4] w hw
  unfold FFeed.dec at h
  split at h
  · rename_i heq
    simp only [Option.bind_eq_some_iff] at h
    obtain ⟨pr, h0, t0, h1, t1, h2, sc, h3, rel, h4, hf⟩ := h
    cases hf
    rw [heq] at hp
    rw [← hp]
    simp [FFeed.enc, pack, List.zip, List.zipWith, Pred.code_of h0, Target.code_of h1, Target.code_of h2, Scope.code_of h3, boolOfCode_of h4]
  · cases h

theorem FPrd.dec_enc (f : FPrd) : FPrd.dec f.enc = some f := by
  have h := fields_pack [(2, f.pr.code), (10, f.t0.code), (10, f.t1.code), (3, 0), (5, f.lsid.toNat), (25, 0), (1, bnat f.alt)]
  simp only [List.map_cons, List.map_nil] at h
  simp only [FPrd.dec, FPrd.enc, h]
  simp

theorem FPrd.enc_lt (f : FPrd) : f.enc < 2 ^ 56 := pack_lt [(2, f.pr.code), (10, f.t0.code), (10, f.t1.code), (3, 0), (5, f.lsid.toNat), (25, 0), (1, bnat f.alt)]

theorem FPrd.enc_of_dec {w : Nat} {f : FPrd} (hw : w < 2 ^ 56) (h : FPrd.dec w = some f) : f.enc = w := by
  have hp := pack_fields [2, 10, 10, 3, 5, 25, 1] w hw
  unfold FPrd.dec at h
  split at h
  · rename_i heq
    simp only [Option.bind_eq_some_iff] at h
    obtain ⟨pr, h0, t0, h1, t1, h2, alt, h3, hf⟩ := h
    cases hf
    rw [heq] at hp
    rw [← hp]
    simp [FPrd.enc, pack, List.zip, List.zipWith, Pred.code_of h0, Target.code_of h1, Target.code_of h2, boolOfCode_of h3]
  · cases h

theorem FTap.dec_enc (f : FTap) : FTap.dec f.enc = some f := by
  have h := fields_pack [(2, f.pr.code), (10, f.t0.code), (10, f.t1.code), (7, 0), (3, f.tap.toNat), (24, 0)]
  simp only [List.map_cons, List.map_nil] at h
  simp only [FTap.dec, FTap.enc, h]
  simp

theorem FTap.enc_lt (f : FTap) : f.enc < 2 ^ 56 := pack_lt [(2, f.pr.code), (10, f.t0.code), (10, f.t1.code), (7, 0), (3, f.tap.toNat), (24, 0)]

theorem FTap.enc_of_dec {w : Nat} {f : FTap} (hw : w < 2 ^ 56) (h : FTap.dec w = some f) : f.enc = w := by
  have hp := pack_fields [2, 10, 10, 7, 3, 24] w hw
  unfold FTap.dec at h
  split at h
  · rename_i heq
    simp only [Option.bind_eq_some_iff] at h
    obtain ⟨pr, h0, t0, h1, t1, h2, hf⟩ := h
    cases hf
    rw [heq] at hp
    rw [← hp]
    simp [FTap.enc, pack, List.zip, List.zipWith, Pred.code_of h0, Target.code_of h1, Target.code_of h2]
  · cases h

theorem FStap.dec_enc (f : FStap) : FStap.dec f.enc = some f := by
  have h := fields_pack [(2, f.pr.code), (10, f.t0.code), (10, f.t1.code), (3, 1 + bnat f.bf16), (5, f.lsid.toNat), (3, f.sc.code), (1, bnat f.rel), (3, f.tap.toNat), (19, 0)]
  simp only [List.map_cons, List.map_nil] at h
  simp only [FStap.dec, FStap.enc, h]
  simp

theorem FStap.enc_lt (f : FStap) : f.enc < 2 ^ 56 := pack_lt [(2, f.pr.code), (10, f.t0.code), (10, f.t1.code), (3, 1 + bnat f.bf16), (5, f.lsid.toNat), (3, f.sc.code), (1, bnat f.rel), (3, f.tap.toNat), (19, 0)]

theorem FStap.enc_of_dec {w : Nat} {f : FStap} (hw : w < 2 ^ 56) (h : FStap.dec w = some f) : f.enc = w := by
  have hp := pack_fields [2, 10, 10, 3, 5, 3, 1, 3, 19] w hw
  unfold FStap.dec at h
  split at h
  · rename_i heq
    simp only [Option.bind_eq_some_iff] at h
    obtain ⟨pr, h0, t0, h1, t1, h2, bf16, h3, sc, h4, rel, h5, hf⟩ := h
    cases hf
    rw [heq] at hp
    rw [← hp]
    simp [FStap.enc, pack, List.zip, List.zipWith, Pred.code_of h0, Target.code_of h1, Target.code_of h2, stwOfCode_of h3, Scope.code_of h4, boolOfCode_of h5]
  · cases h

theorem FSmpl.dec_enc (f : FSmpl) : FSmpl.dec f.enc = some f := by
  have h := fields_pack [(2, f.pr.code), (10, f.t0.code), (10, f.t1.code), (3, 0), (5, f.lsid.toNat), (3, f.sc.code), (1, bnat f.rel), (1, bnat f.ver), (21, 0)]
  simp only [List.map_cons, List.map_nil] at h
  simp only [FSmpl.dec, FSmpl.enc, h]
  simp

theorem FSmpl.enc_lt (f : FSmpl) : f.enc < 2 ^ 56 := pack_lt [(2, f.pr.code), (10, f.t0.code), (10, f.t1.code), (3, 0), (5, f.lsid.toNat), (3, f.sc.code), (1, bnat f.rel), (1, bnat f.ver), (21, 0)]

theorem FSmpl.enc_of_dec {w : Nat} {f : FSmpl} (hw : w < 2 ^ 56) (h : FSmpl.dec w = some f) : f.enc = w := by
  have hp := pack_fields [2, 10, 10, 3, 5, 3, 1, 1, 21] w hw
  unfold FSmpl.dec at h
  split at h
  · rename_i heq
    simp only [Option.bind_eq_some_iff] at h
    obtain ⟨pr, h0, t0, h1, t1, h2, sc, h3, rel, h4, ver, h5, hf⟩ := h
    cases hf
    rw [heq] at hp
    rw [← hp]
    simp [FSmpl.enc, pack, List.zip, List.zipWith, Pred.code_of h0, Target.code_of h1, Target.code_of h2, Scope.code_of h3, boolOfCode_of h4, boolOfCode_of h5]
  · cases h

theorem FSeqrd.dec_enc (f : FSeqrd) : FSeqrd.dec f.enc = some f := by
  have h := fields_pack [(2, f.pr.code), (10, f.t0.code), (10, f.t1.code), (3, 0), (5, f.lsid.toNat), (3, f.sc.code), (20, 0), (3, f.dw.toNat)]
  simp only [List.map_cons, List.map_nil] at h
  simp only [FSeqrd.dec, FSeqrd.enc, h]
  simp

theorem FSeqrd.enc_lt (f : FSeqrd) : f.enc < 2 ^ 56 := pack_lt [(2, f.pr.code), (10, f.t0.code), (10, f.t1.code), (3, 0), (5, f.lsid.toNat), (3, f.sc.code), (20, 0), (3, f.dw.toNat)]

theorem FSeqrd.enc_of_dec {w : Nat} {f : FSeqrd} (hw : w < 2 ^ 56) (h : FSeqrd.dec w = some f) : f.enc = w := by
  have hp := pack_fields [2, 10, 10, 3, 5, 3, 20, 3] w hw
  unfold FSeqrd.dec at h
  split at h
  · rename_i heq
    simp only [Option.bind_eq_some_iff] at h
    obtain ⟨pr, h0, t0, h1, t1, h2, sc, h3, hf⟩ := h
    cases hf
    rw [heq] at hp
    rw [← hp]
    simp [FSeqrd.enc, pack, List.zip, List.zipWith, Pred.code_of h0, Target.code_of h1, Target.code_of h2, Scope.code_of h3]
  · cases h

theorem FV.dec_enc (f : FV) : FV.dec f.enc = some f := by
  have h := fields_pack [(2, f.pr.code), (10, f.t0.code), (10, f.t1.code), (3, f.fmt.code), (2, f.rm.code), (29, 0)]
  simp only [List.map_cons, List.map_nil] at h
  simp only [FV.dec, FV.enc, h]
  simp

theorem FV.enc_lt (f : FV) : f.enc < 2 ^ 56 := pack_lt [(2, f.pr.code), (10, f.t0.code), (10, f.t1.code), (3, f.fmt.code), (2, f.rm.code), (29, 0)]

theorem FV.enc_of_dec {w : Nat} {f : FV} (hw : w < 2 ^ 56) (h : FV.dec w = some f) : f.enc = w := by
  have hp := pack_fields [2, 10, 10, 3, 2, 29] w hw
  unfold FV.dec at h
  split at h
  · rename_i heq
    simp only [Option.bind_eq_some_iff] at h
    obtain ⟨pr, h0, t0, h1, t1, h2, fmt, h3, rm, h4, hf⟩ := h
    cases hf
    rw [heq] at hp
    rw [← hp]
    simp [FV.enc, pack, List.zip, List.zipWith, Pred.code_of h0, Target.code_of h1, Target.code_of h2, Fmt.code_of h3, Rm.code_of h4]
  · cases h

theorem FV3.dec_enc (f : FV3) : FV3.dec f.enc = some f := by
  have h := fields_pack [(2, 0), (10, f.t0.code), (10, f.t1.code), (3, f.fmt.code), (2, f.rm.code), (29, 0)]
  simp only [List.map_cons, List.map_nil] at h
  simp only [FV3.dec, FV3.enc, h]
  simp

theorem FV3.enc_lt (f : FV3) : f.enc < 2 ^ 56 := pack_lt [(2, 0), (10, f.t0.code), (10, f.t1.code), (3, f.fmt.code), (2, f.rm.code), (29, 0)]

theorem FV3.enc_of_dec {w : Nat} {f : FV3} (hw : w < 2 ^ 56) (h : FV3.dec w = some f) : f.enc = w := by
  have hp := pack_fields [2, 10, 10, 3, 2, 29] w hw
  unfold FV3.dec at h
  split at h
  · rename_i heq
    simp only [Option.bind_eq_some_iff] at h
    obtain ⟨t0, h0, t1, h1, fmt, h2, rm, h3, hf⟩ := h
    cases hf
    rw [heq] at hp
    rw [← hp]
    simp [FV3.enc, pack, List.zip, List.zipWith, Target.code_of h0, Target.code_of h1, Fmt.code_of h2, Rm.code_of h3]
  · cases h

theorem FVcmp.dec_enc (f : FVcmp) : FVcmp.dec f.enc = some f := by
  have h := fields_pack [(2, f.pr.code), (10, f.t0.code), (10, f.t1.code), (3, f.fmt.code), (2, 0), (5, f.cc.code), (24, 0)]
  simp only [List.map_cons, List.map_nil] at h
  simp only [FVcmp.dec, FVcmp.enc, h]
  simp

theorem FVcmp.enc_lt (f : FVcmp) : f.enc < 2 ^ 56 := pack_lt [(2, f.pr.code), (10, f.t0.code), (10, f.t1.code), (3, f.fmt.code), (2, 0), (5, f.cc.code), (24, 0)]

theorem FVcmp.enc_of_dec {w : Nat} {f : FVcmp} (hw : w < 2 ^ 56) (h : FVcmp.dec w = some f) : f.enc = w := by
  have hp := pack_fields [2, 10, 10, 3, 2, 5, 24] w hw
  unfold FVcmp.dec at h
  split at h
  · rename_i heq
    simp only [Option.bind_eq_some_iff] at h
    obtain ⟨pr, h0, t0, h1, t1, h2, fmt, h3, cc, h4, hf⟩ := h
    cases hf
    rw [heq] at hp
    rw [← hp]
    simp [FVcmp.enc, pack, List.zip, List.zipWith, Pred.code_of h0, Target.code_of h1, Target.code_of h2, Fmt.code_of h3, Rel.code_of h4]
  · cases h

theorem FVred.dec_enc (f : FVred) : FVred.dec f.enc = some f := by
  have h := fields_pack [(2, f.pr.code), (10, f.t0.code), (10, f.t1.code), (3, f.fmt.code), (2, f.rm.code), (5, f.op.code), (24, 0)]
  simp only [List.map_cons, List.map_nil] at h
  simp only [FVred.dec, FVred.enc, h]
  simp

theorem FVred.enc_lt (f : FVred) : f.enc < 2 ^ 56 := pack_lt [(2, f.pr.code), (10, f.t0.code), (10, f.t1.code), (3, f.fmt.code), (2, f.rm.code), (5, f.op.code), (24, 0)]

theorem FVred.enc_of_dec {w : Nat} {f : FVred} (hw : w < 2 ^ 56) (h : FVred.dec w = some f) : f.enc = w := by
  have hp := pack_fields [2, 10, 10, 3, 2, 5, 24] w hw
  unfold FVred.dec at h
  split at h
  · rename_i heq
    simp only [Option.bind_eq_some_iff] at h
    obtain ⟨pr, h0, t0, h1, t1, h2, fmt, h3, rm, h4, op, h5, hf⟩ := h
    cases hf
    rw [heq] at hp
    rw [← hp]
    simp [FVred.enc, pack, List.zip, List.zipWith, Pred.code_of h0, Target.code_of h1, Target.code_of h2, Fmt.code_of h3, Rm.code_of h4, VRedOp.code_of h5]
  · cases h

theorem FVcvt.dec_enc (f : FVcvt) : FVcvt.dec f.enc = some f := by
  have h := fields_pack [(2, f.pr.code), (10, f.t0.code), (10, f.t1.code), (3, f.fmt.code), (2, f.rm.code), (5, f.form.code), (24, 0)]
  simp only [List.map_cons, List.map_nil] at h
  simp only [FVcvt.dec, FVcvt.enc, h]
  simp

theorem FVcvt.enc_lt (f : FVcvt) : f.enc < 2 ^ 56 := pack_lt [(2, f.pr.code), (10, f.t0.code), (10, f.t1.code), (3, f.fmt.code), (2, f.rm.code), (5, f.form.code), (24, 0)]

theorem FVcvt.enc_of_dec {w : Nat} {f : FVcvt} (hw : w < 2 ^ 56) (h : FVcvt.dec w = some f) : f.enc = w := by
  have hp := pack_fields [2, 10, 10, 3, 2, 5, 24] w hw
  unfold FVcvt.dec at h
  split at h
  · rename_i heq
    simp only [Option.bind_eq_some_iff] at h
    obtain ⟨pr, h0, t0, h1, t1, h2, fmt, h3, rm, h4, form, h5, hf⟩ := h
    cases hf
    rw [heq] at hp
    rw [← hp]
    simp [FVcvt.enc, pack, List.zip, List.zipWith, Pred.code_of h0, Target.code_of h1, Target.code_of h2, Fmt.code_of h3, Rm.code_of h4, CvtForm.code_of h5]
  · cases h

theorem FVpack.dec_enc (f : FVpack) : FVpack.dec f.enc = some f := by
  have h := fields_pack [(2, f.pr.code), (10, f.t0.code), (10, f.t1.code), (3, f.fmt.code), (2, f.rm.code), (3, 0), (2, f.q.toNat), (24, 0)]
  simp only [List.map_cons, List.map_nil] at h
  simp only [FVpack.dec, FVpack.enc, h]
  simp

theorem FVpack.enc_lt (f : FVpack) : f.enc < 2 ^ 56 := pack_lt [(2, f.pr.code), (10, f.t0.code), (10, f.t1.code), (3, f.fmt.code), (2, f.rm.code), (3, 0), (2, f.q.toNat), (24, 0)]

theorem FVpack.enc_of_dec {w : Nat} {f : FVpack} (hw : w < 2 ^ 56) (h : FVpack.dec w = some f) : f.enc = w := by
  have hp := pack_fields [2, 10, 10, 3, 2, 3, 2, 24] w hw
  unfold FVpack.dec at h
  split at h
  · rename_i heq
    simp only [Option.bind_eq_some_iff] at h
    obtain ⟨pr, h0, t0, h1, t1, h2, fmt, h3, rm, h4, hf⟩ := h
    cases hf
    rw [heq] at hp
    rw [← hp]
    simp [FVpack.enc, pack, List.zip, List.zipWith, Pred.code_of h0, Target.code_of h1, Target.code_of h2, Fmt.code_of h3, Rm.code_of h4]
  · cases h

theorem FVunpk.dec_enc (f : FVunpk) : FVunpk.dec f.enc = some f := by
  have h := fields_pack [(2, f.pr.code), (10, f.t0.code), (10, f.t1.code), (3, f.fmt.code), (2, f.rm.code), (3, f.sf.code), (2, f.q.toNat), (24, 0)]
  simp only [List.map_cons, List.map_nil] at h
  simp only [FVunpk.dec, FVunpk.enc, h]
  simp

theorem FVunpk.enc_lt (f : FVunpk) : f.enc < 2 ^ 56 := pack_lt [(2, f.pr.code), (10, f.t0.code), (10, f.t1.code), (3, f.fmt.code), (2, f.rm.code), (3, f.sf.code), (2, f.q.toNat), (24, 0)]

theorem FVunpk.enc_of_dec {w : Nat} {f : FVunpk} (hw : w < 2 ^ 56) (h : FVunpk.dec w = some f) : f.enc = w := by
  have hp := pack_fields [2, 10, 10, 3, 2, 3, 2, 24] w hw
  unfold FVunpk.dec at h
  split at h
  · rename_i heq
    simp only [Option.bind_eq_some_iff] at h
    obtain ⟨pr, h0, t0, h1, t1, h2, fmt, h3, rm, h4, sf, h5, hf⟩ := h
    cases hf
    rw [heq] at hp
    rw [← hp]
    simp [FVunpk.enc, pack, List.zip, List.zipWith, Pred.code_of h0, Target.code_of h1, Target.code_of h2, Fmt.code_of h3, Rm.code_of h4, Fmt.code_of h5]
  · cases h

theorem FVmm.dec_enc (f : FVmm) : FVmm.dec f.enc = some f := by
  have h := fields_pack [(2, f.pr.code), (10, f.t0.code), (10, f.t1.code), (3, f.w.code), (2, 0), (5, bnat f.uns), (24, 0)]
  simp only [List.map_cons, List.map_nil] at h
  simp only [FVmm.dec, FVmm.enc, h]
  simp

theorem FVmm.enc_lt (f : FVmm) : f.enc < 2 ^ 56 := pack_lt [(2, f.pr.code), (10, f.t0.code), (10, f.t1.code), (3, f.w.code), (2, 0), (5, bnat f.uns), (24, 0)]

theorem FVmm.enc_of_dec {w : Nat} {f : FVmm} (hw : w < 2 ^ 56) (h : FVmm.dec w = some f) : f.enc = w := by
  have hp := pack_fields [2, 10, 10, 3, 2, 5, 24] w hw
  unfold FVmm.dec at h
  split at h
  · rename_i heq
    simp only [Option.bind_eq_some_iff] at h
    obtain ⟨pr, h0, t0, h1, t1, h2, w, h3, uns, h4, hf⟩ := h
    cases hf
    rw [heq] at hp
    rw [← hp]
    simp [FVmm.enc, pack, List.zip, List.zipWith, Pred.code_of h0, Target.code_of h1, Target.code_of h2, IW.code_of h3, boolOfCode_of h4]
  · cases h

theorem FVsel.dec_enc (f : FVsel) : FVsel.dec f.enc = some f := by
  have h := fields_pack [(2, 0), (10, f.t0.code), (10, f.t1.code), (3, f.w.code), (31, 0)]
  simp only [List.map_cons, List.map_nil] at h
  simp only [FVsel.dec, FVsel.enc, h]
  simp

theorem FVsel.enc_lt (f : FVsel) : f.enc < 2 ^ 56 := pack_lt [(2, 0), (10, f.t0.code), (10, f.t1.code), (3, f.w.code), (31, 0)]

theorem FVsel.enc_of_dec {w : Nat} {f : FVsel} (hw : w < 2 ^ 56) (h : FVsel.dec w = some f) : f.enc = w := by
  have hp := pack_fields [2, 10, 10, 3, 31] w hw
  unfold FVsel.dec at h
  split at h
  · rename_i heq
    simp only [Option.bind_eq_some_iff] at h
    obtain ⟨t0, h0, t1, h1, w, h2, hf⟩ := h
    cases hf
    rw [heq] at hp
    rw [← hp]
    simp [FVsel.enc, pack, List.zip, List.zipWith, Target.code_of h0, Target.code_of h1, IW.code_of h2]
  · cases h

theorem FVmask.dec_enc (f : FVmask) : FVmask.dec f.enc = some f := by
  have h := fields_pack [(2, f.pr.code), (10, f.t0.code), (10, f.t1.code), (3, f.w.code), (2, 0), (5, f.cond.code), (24, 0)]
  simp only [List.map_cons, List.map_nil] at h
  simp only [FVmask.dec, FVmask.enc, h]
  simp

theorem FVmask.enc_lt (f : FVmask) : f.enc < 2 ^ 56 := pack_lt [(2, f.pr.code), (10, f.t0.code), (10, f.t1.code), (3, f.w.code), (2, 0), (5, f.cond.code), (24, 0)]

theorem FVmask.enc_of_dec {w : Nat} {f : FVmask} (hw : w < 2 ^ 56) (h : FVmask.dec w = some f) : f.enc = w := by
  have hp := pack_fields [2, 10, 10, 3, 2, 5, 24] w hw
  unfold FVmask.dec at h
  split at h
  · rename_i heq
    simp only [Option.bind_eq_some_iff] at h
    obtain ⟨pr, h0, t0, h1, t1, h2, w, h3, cond, h4, hf⟩ := h
    cases hf
    rw [heq] at hp
    rw [← hp]
    simp [FVmask.enc, pack, List.zip, List.zipWith, Pred.code_of h0, Target.code_of h1, Target.code_of h2, IW.code_of h3, MaskCond.code_of h4]
  · cases h

theorem FVx.dec_enc (f : FVx) : FVx.dec f.enc = some f := by
  have h := fields_pack [(2, f.pr.code), (10, f.t0.code), (10, f.t1.code), (3, f.w.code), (2, 0), (5, f.x.toNat), (24, 0)]
  simp only [List.map_cons, List.map_nil] at h
  simp only [FVx.dec, FVx.enc, h]
  simp

theorem FVx.enc_lt (f : FVx) : f.enc < 2 ^ 56 := pack_lt [(2, f.pr.code), (10, f.t0.code), (10, f.t1.code), (3, f.w.code), (2, 0), (5, f.x.toNat), (24, 0)]

theorem FVx.enc_of_dec {w : Nat} {f : FVx} (hw : w < 2 ^ 56) (h : FVx.dec w = some f) : f.enc = w := by
  have hp := pack_fields [2, 10, 10, 3, 2, 5, 24] w hw
  unfold FVx.dec at h
  split at h
  · rename_i heq
    simp only [Option.bind_eq_some_iff] at h
    obtain ⟨pr, h0, t0, h1, t1, h2, w, h3, hf⟩ := h
    cases hf
    rw [heq] at hp
    rw [← hp]
    simp [FVx.enc, pack, List.zip, List.zipWith, Pred.code_of h0, Target.code_of h1, Target.code_of h2, IW.code_of h3]
  · cases h

theorem FVshuf.dec_enc (f : FVshuf) : FVshuf.dec f.enc = some f := by
  have h := fields_pack [(2, f.pr.code), (10, f.t0.code), (10, f.t1.code), (3, f.w.code), (2, 0), (5, f.form.code), (24, 0)]
  simp only [List.map_cons, List.map_nil] at h
  simp only [FVshuf.dec, FVshuf.enc, h]
  simp

theorem FVshuf.enc_lt (f : FVshuf) : f.enc < 2 ^ 56 := pack_lt [(2, f.pr.code), (10, f.t0.code), (10, f.t1.code), (3, f.w.code), (2, 0), (5, f.form.code), (24, 0)]

theorem FVshuf.enc_of_dec {w : Nat} {f : FVshuf} (hw : w < 2 ^ 56) (h : FVshuf.dec w = some f) : f.enc = w := by
  have hp := pack_fields [2, 10, 10, 3, 2, 5, 24] w hw
  unfold FVshuf.dec at h
  split at h
  · rename_i heq
    simp only [Option.bind_eq_some_iff] at h
    obtain ⟨pr, h0, t0, h1, t1, h2, w, h3, form, h4, hf⟩ := h
    cases hf
    rw [heq] at hp
    rw [← hp]
    simp [FVshuf.enc, pack, List.zip, List.zipWith, Pred.code_of h0, Target.code_of h1, Target.code_of h2, IW.code_of h3, ShufForm.code_of h4]
  · cases h

theorem FT.dec_enc (f : FT) : FT.dec f.enc = some f := by
  have h := fields_pack [(2, f.pr.code), (10, f.t0.code), (10, f.t1.code), (3, f.fmt.code), (4, f.row0.toNat), (3, f.col0.toNat), (4, f.nrow.toNat), (3, f.ncol.toNat), (17, 0)]
  simp only [List.map_cons, List.map_nil] at h
  simp only [FT.dec, FT.enc, h]
  simp

theorem FT.enc_lt (f : FT) : f.enc < 2 ^ 56 := pack_lt [(2, f.pr.code), (10, f.t0.code), (10, f.t1.code), (3, f.fmt.code), (4, f.row0.toNat), (3, f.col0.toNat), (4, f.nrow.toNat), (3, f.ncol.toNat), (17, 0)]

theorem FT.enc_of_dec {w : Nat} {f : FT} (hw : w < 2 ^ 56) (h : FT.dec w = some f) : f.enc = w := by
  have hp := pack_fields [2, 10, 10, 3, 4, 3, 4, 3, 17] w hw
  unfold FT.dec at h
  split at h
  · rename_i heq
    simp only [Option.bind_eq_some_iff] at h
    obtain ⟨pr, h0, t0, h1, t1, h2, fmt, h3, hf⟩ := h
    cases hf
    rw [heq] at hp
    rw [← hp]
    simp [FT.enc, pack, List.zip, List.zipWith, Pred.code_of h0, Target.code_of h1, Target.code_of h2, Fmt.code_of h3]
  · cases h

theorem FWload.dec_enc (f : FWload) : FWload.dec f.enc = some f := by
  have h := fields_pack [(2, f.pr.code), (10, f.t0.code), (10, f.t1.code), (3, f.fmt.code), (4, f.row0.toNat), (3, f.col0.toNat), (24, 0)]
  simp only [List.map_cons, List.map_nil] at h
  simp only [FWload.dec, FWload.enc, h]
  simp

theorem FWload.enc_lt (f : FWload) : f.enc < 2 ^ 56 := pack_lt [(2, f.pr.code), (10, f.t0.code), (10, f.t1.code), (3, f.fmt.code), (4, f.row0.toNat), (3, f.col0.toNat), (24, 0)]

theorem FWload.enc_of_dec {w : Nat} {f : FWload} (hw : w < 2 ^ 56) (h : FWload.dec w = some f) : f.enc = w := by
  have hp := pack_fields [2, 10, 10, 3, 4, 3, 24] w hw
  unfold FWload.dec at h
  split at h
  · rename_i heq
    simp only [Option.bind_eq_some_iff] at h
    obtain ⟨pr, h0, t0, h1, t1, h2, fmt, h3, hf⟩ := h
    cases hf
    rw [heq] at hp
    rw [← hp]
    simp [FWload.enc, pack, List.zip, List.zipWith, Pred.code_of h0, Target.code_of h1, Target.code_of h2, Fmt.code_of h3]
  · cases h

theorem FTmul.dec_enc (f : FTmul) : FTmul.dec f.enc = some f := by
  have h := fields_pack [(2, f.pr.code), (10, f.t0.code), (10, f.t1.code), (3, f.fmt.code), (4, f.row0.toNat), (27, 0)]
  simp only [List.map_cons, List.map_nil] at h
  simp only [FTmul.dec, FTmul.enc, h]
  simp

theorem FTmul.enc_lt (f : FTmul) : f.enc < 2 ^ 56 := pack_lt [(2, f.pr.code), (10, f.t0.code), (10, f.t1.code), (3, f.fmt.code), (4, f.row0.toNat), (27, 0)]

theorem FTmul.enc_of_dec {w : Nat} {f : FTmul} (hw : w < 2 ^ 56) (h : FTmul.dec w = some f) : f.enc = w := by
  have hp := pack_fields [2, 10, 10, 3, 4, 27] w hw
  unfold FTmul.dec at h
  split at h
  · rename_i heq
    simp only [Option.bind_eq_some_iff] at h
    obtain ⟨pr, h0, t0, h1, t1, h2, fmt, h3, hf⟩ := h
    cases hf
    rw [heq] at hp
    rw [← hp]
    simp [FTmul.enc, pack, List.zip, List.zipWith, Pred.code_of h0, Target.code_of h1, Target.code_of h2, Fmt.code_of h3]
  · cases h

end Sys2Proof
end

