-- ==== Sys2Proof/Laws/Step.lean ====
section
/-! SUPPORT. The step: what the head of the agenda makes of it, said once. -/

namespace Sys2Proof.Machine
open Sys2Proof

/-- Where the head of the agenda is enabled, the step is its act. -/
theorem step_of_act {s t : State} {x : Agendum} {rest : List Agendum} (ha : s.agenda = x :: rest)
    (h : runAct x { s with agenda := rest } = .next t) : step s = .next t := by
  unfold step nextAct
  rw [ha]
  dsimp only
  rw [h]

/-- Where the head of the agenda is not enabled, the step is an act of the package's own. -/
theorem step_of_none {s : State} {x : Agendum} {rest : List Agendum} (ha : s.agenda = x :: rest)
    (h : ∀ t, runAct x { s with agenda := rest } ≠ .next t) : step s = autonomousStep s := by
  unfold step nextAct
  rw [ha]
  dsimp only
  split
  · rename_i t ht
    exact absurd ht (h t)
  · rfl

/-- With no agenda, the step is an act of the package's own. -/
theorem step_of_nil {s : State} (ha : s.agenda = []) : step s = autonomousStep s := by
  unfold step nextAct
  rw [ha]

end Sys2Proof.Machine
end

