-- ==== Sys2Proof/Laws/MemWf.lean ====
section
/-! SUPPORT. Every operation keeps every memory in canonical form: one lemma an operation, each from those it calls. -/

namespace Sys2Proof.Machine
open Sys2Proof

/-! ### Combinators -/

/-- A state whose HBM and cores are those of another. -/
theorem State.memWf_mk {s : State} (h : s.MemWf) {a1 a2 a3 a4 a5 a6 a7 a8 a9 a10 a11 a12 a13 a14 a15 a16 a17 a18 a19 a20
    a21 a22 a23 a24 a25 a26 a27 a28 a29 a30 a31 a32 a33 a34 a35 a36 a37 a38 a39 a40 a41} : State.MemWf
    ⟨a1, a2, a3, a4, a5, a6, a7, a8, a9, a10, a11, a12, a13, a14, a15, a16, a17, a18, a19, a20, a21, s.hbm, a22, a23, s.cores,
      a24, a25, a26, a27, a28, a29, a30, a31, a32, a33, a34, a35, a36, a37, a38, a39, a40, a41⟩ := h

theorem State.memWf_iff {s : State} : s.MemWf ↔ s.hbm.wf = true ∧ ∀ c, (s.core c).mem.wf = true := by
  constructor
  · refine fun h => ⟨h.1, fun c => ?_⟩
    by_cases hc : c < s.cores.length
    · exact h.2 _ (by simp [State.core, List.getD_eq_getElem?_getD, hc])
    · rw [s.core_none (Nat.le_of_not_lt hc)]; rfl
  · refine fun h => ⟨h.1, fun k hk => ?_⟩
    obtain ⟨n, hn, rfl⟩ := List.getElem_of_mem hk
    have := h.2 n
    simpa [State.core, List.getD_eq_getElem?_getD, hn] using this

/-- A firing keeps it (R34). -/
theorem State.FiringKeeps.memWf {s t : State} (k : s.FiringKeeps t) (h : s.MemWf) : t.MemWf := by
  obtain ⟨k1, k2⟩ := k.memAs
  rw [State.memWf_iff] at h ⊢
  exact ⟨k1 ▸ h.1, fun c => by rw [k2 c]; exact h.2 c⟩

theorem State.memWf_modCore {s : State} (h : s.MemWf) {c : Nat} {f : Core → Core}
    (hf : ∀ k, k.mem.wf = true → (f k).mem.wf = true) : (s.modCore c f).MemWf :=
  ⟨h.1, State.forall_modCore c h.2 fun k hk => hf k (h.2 k hk)⟩

/-- A state whose HBM is another's, and whose cores are its cores, each changed. -/
theorem State.memWf_mkMap {s : State} (h : s.MemWf) {f : Core → Core} (hf : ∀ k, k.mem.wf = true → (f k).mem.wf = true)
    {a1 a2 a3 a4 a5 a6 a7 a8 a9 a10 a11 a12 a13 a14 a15 a16 a17 a18 a19 a20
    a21 a22 a23 a24 a25 a26 a27 a28 a29 a30 a31 a32 a33 a34 a35 a36 a37 a38 a39 a40 a41} : State.MemWf
    ⟨a1, a2, a3, a4, a5, a6, a7, a8, a9, a10, a11, a12, a13, a14, a15, a16, a17, a18, a19, a20, a21, s.hbm, a22, a23, s.cores.map f,
      a24, a25, a26, a27, a28, a29, a30, a31, a32, a33, a34, a35, a36, a37, a38, a39, a40, a41⟩ := by
  refine ⟨h.1, fun k hk => ?_⟩
  obtain ⟨x, hx, rfl⟩ := List.mem_map.mp hk
  exact hf x (h.2 x hx)

/-- A state whose cores are those of another, and whose HBM is in canonical form. -/
theorem State.memWf_mkHbm {s : State} (h : s.MemWf) {m : Memory} (hm : m.wf = true)
    {a1 a2 a3 a4 a5 a6 a7 a8 a9 a10 a11 a12 a13 a14 a15 a16 a17 a18 a19 a20
    a21 a22 a23 a24 a25 a26 a27 a28 a29 a30 a31 a32 a33 a34 a35 a36 a37 a38 a39 a40 a41} : State.MemWf
    ⟨a1, a2, a3, a4, a5, a6, a7, a8, a9, a10, a11, a12, a13, a14, a15, a16, a17, a18, a19, a20, a21, m, a22, a23, s.cores,
      a24, a25, a26, a27, a28, a29, a30, a31, a32, a33, a34, a35, a36, a37, a38, a39, a40, a41⟩ := ⟨hm, h.2⟩

theorem foldl_memWf {α : Type} {f : State → α → State} {l : List α} {s : State} (h : s.MemWf)
    (hf : ∀ t x, t.MemWf → (f t x).MemWf) : (l.foldl f s).MemWf := by
  induction l generalizing s with
  | nil => exact h
  | cons x r ih => exact ih (hf s x h)

/-- Every next state of an outcome has every memory in canonical form. -/
def Out.Wf (o : Out) : Prop := ∀ t, o = .next t → t.MemWf

theorem Out.wf_next {s : State} (h : s.MemWf) : Out.Wf (.next s) := by rintro _ ⟨⟩; exact h

theorem Out.wf_fault {f : Fault} : Out.Wf (.fault f) := fun _ h => by cases h

theorem Out.wf_need {b : Bool} {k : Out} (h : Out.Wf k) : Out.Wf (need b k) := fun t ht => h t (need_next ht).2

theorem Out.wf_needSome {α : Type} {o : Option α} {k : α → Out} (h : ∀ x, Out.Wf (k x)) : Out.Wf (needSome o k) := fun t ht => by
  obtain ⟨x, _, hk⟩ := needSome_next ht
  exact h x t hk

/-! ### Memory itself -/

theorem State.hpaWrite_memWf {s : State} (h : s.MemWf) (a n v : Nat) : (s.hpaWrite a n v).MemWf :=
  ⟨Memory.write_wf h.1 a n v, h.2⟩

theorem State.setBitmap_memWf {s : State} (h : s.MemWf) (base n : Nat) (on : Bool) : (s.setBitmap base n on).MemWf :=
  ⟨Memory.set_wf h.1 _ _, h.2⟩

theorem State.storeGlobal_memWf {s : State} (h : s.MemWf) (chair gpa key n v : Nat) : (s.storeGlobal chair gpa key n v).MemWf :=
  ⟨chairBytes_wf _ h.1 gpa key n v, h.2⟩

theorem State.storeLocal_memWf {s : State} (h : s.MemWf) (core : Nat) (sl : Slot) (off n v : Nat) :
    (s.storeLocal core sl off n v).MemWf :=
  State.memWf_modCore h fun _ hk => writeLocalMem_wf hk sl off n v

/-! ### Operations -/

theorem State.emit_memWf {s : State} (h : s.MemWf) (core slot age : Nat) (ts : List Target) (tok : Tok) :
    (s.emit core slot age ts tok).MemWf := (State.keeps_emit s core slot age ts tok).memWf h

theorem State.waitcNone_memWf {s : State} (h : s.MemWf) (core slot age : Nat) (report : Bool) (ts : List Target) :
    (s.waitcNone core slot age report ts).MemWf := (State.keeps_waitcNone (.refl s) core slot age report ts).memWf h

theorem State.waitcEmit_memWf {s : State} (h : s.MemWf) (core slot age chair n : Nat) (report : Bool) (ts : List Target) (w : Word) :
    (s.waitcEmit core slot age chair n report ts w).MemWf :=
  (State.keeps_waitcEmit (.refl s) core slot age chair n report ts w).memWf h

theorem State.fillTlb_memWf {s : State} (h : s.MemWf) (core : Nat) (e : TlbEntry) : (s.fillTlb core e).MemWf :=
  (State.keeps_fillTlb s core e).memWf h

theorem State.admitRows_memWf {s : State} (h : s.MemWf) (core slot r k : Nat) : (s.admitRows core slot r k).MemWf :=
  (State.keeps_admitRows (.refl s) core slot r k).memWf h

theorem State.loadChestRange_memWf {s : State} (h : s.MemWf) (core slot : Nat) : (s.loadChestRange core slot).MemWf := by
  unfold State.loadChestRange State.modSlot
  simp only []
  split
  · exact h
  · refine State.memWf_modCore (State.memWf_modCore h ?_) ?_ <;> exact fun _ hk => hk

theorem State.chestTake_memWf {s : State} (h : s.MemWf) (core slot age n : Nat) {put : State → State}
    (hp : ∀ t, t.MemWf → (put t).MemWf) : (s.chestTake core slot age n put).MemWf := by
  have h1 : (s.withChestRange core slot).MemWf := by
    unfold State.withChestRange
    split
    · exact h
    · exact State.loadChestRange_memWf h core slot
  unfold State.chestTake
  generalize s.withChestRange core slot = d at h1
  simp only []
  split
  · exact h1
  · split
    · exact hp _ (State.memWf_modCore h1 fun _ hk => hk)
    · exact (State.keeps_record _ _ _ _ _).memWf h1

theorem State.reset_memWf : State.reset.MemWf := by
  refine ⟨rfl, fun k hk => ?_⟩
  have : k = Core.reset := List.eq_of_mem_replicate hk
  subst this
  rfl

theorem State.draw_memWf {s : State} (h : s.MemWf) (n : Nat) :
    (State.draw s n).2.MemWf := by
  unfold State.draw
  try simp only []
  repeat' first
    | (with_reducible first
        | assumption)
    | (with_reducible first | refine State.memWf_modCore ?_ (fun _ hk => hk) | refine State.memWf_mkMap ?_ ?_)
    | exact fun _ hk => hk | split | (fail_if_no_progress with_reducible refine State.memWf_mk ?_)

theorem State.modSlot_memWf {s : State} (h : s.MemWf) (c : Nat) (i : Nat) (f : Slot → Slot) :
    (State.modSlot s c i f).MemWf := by
  unfold State.modSlot
  try simp only []
  repeat' first
    | (with_reducible first
        | assumption)
    | (with_reducible first | refine State.memWf_modCore ?_ (fun _ hk => hk) | refine State.memWf_mkMap ?_ ?_)
    | exact fun _ hk => hk | split | (fail_if_no_progress with_reducible refine State.memWf_mk ?_)

theorem State.modInst_memWf {s : State} (h : s.MemWf) (c : Nat) (i : Nat) (age : Nat) (f : Inst → Inst) :
    (State.modInst s c i age f).MemWf := by
  unfold State.modInst
  try simp only []
  repeat' first
    | (with_reducible first
        | assumption | apply State.modSlot_memWf)
    | (with_reducible first | refine State.memWf_modCore ?_ (fun _ hk => hk) | refine State.memWf_mkMap ?_ ?_)
    | exact fun _ hk => hk | split | (fail_if_no_progress with_reducible refine State.memWf_mk ?_)

theorem State.modStrand_memWf {s : State} (h : s.MemWf) (c : Nat) (i : Nat) (uid : Nat) (f : Strand → Strand) :
    (State.modStrand s c i uid f).MemWf := by
  unfold State.modStrand
  try simp only []
  repeat' first
    | (with_reducible first
        | assumption | apply State.modSlot_memWf)
    | (with_reducible first | refine State.memWf_modCore ?_ (fun _ hk => hk) | refine State.memWf_mkMap ?_ ?_)
    | exact fun _ hk => hk | split | (fail_if_no_progress with_reducible refine State.memWf_mk ?_)

theorem State.modChair_memWf {s : State} (h : s.MemWf) (c : Nat) (f : Chair → Chair) :
    (State.modChair s c f).MemWf := by
  unfold State.modChair
  try simp only []
  repeat' first
    | (with_reducible first
        | assumption)
    | (with_reducible first | refine State.memWf_modCore ?_ (fun _ hk => hk) | refine State.memWf_mkMap ?_ ?_)
    | exact fun _ hk => hk | split | (fail_if_no_progress with_reducible refine State.memWf_mk ?_)

theorem State.modLaunch_memWf {s : State} (h : s.MemWf) (id : Nat) (f : Launch → Launch) :
    (State.modLaunch s id f).MemWf := by
  unfold State.modLaunch
  try simp only []
  repeat' first
    | (with_reducible first
        | assumption)
    | (with_reducible first | refine State.memWf_modCore ?_ (fun _ hk => hk) | refine State.memWf_mkMap ?_ ?_)
    | exact fun _ hk => hk | split | (fail_if_no_progress with_reducible refine State.memWf_mk ?_)

theorem State.modErr_memWf {s : State} (h : s.MemWf) (c : Nat) (n : Nat) (f : ErrRec → ErrRec) :
    (State.modErr s c n f).MemWf := by
  unfold State.modErr
  try simp only []
  repeat' first
    | (with_reducible first
        | assumption)
    | (with_reducible first | refine State.memWf_modCore ?_ (fun _ hk => hk) | refine State.memWf_mkMap ?_ ?_)
    | exact fun _ hk => hk | split | (fail_if_no_progress with_reducible refine State.memWf_mk ?_)

theorem State.ueGlobal_memWf {s : State} (h : s.MemWf) (ws : List Nat) :
    (State.ueGlobal s ws).MemWf := by
  unfold State.ueGlobal
  try simp only []
  repeat' first
    | (with_reducible first
        | assumption)
    | (refine foldl_memWf ?_ (fun _ _ _ => ?_))
    | (with_reducible first | refine State.memWf_modCore ?_ (fun _ hk => hk) | refine State.memWf_mkMap ?_ ?_)
    | exact fun _ hk => hk | split | (fail_if_no_progress with_reducible refine State.memWf_mk ?_)

theorem State.deGlobal_memWf {s : State} (h : s.MemWf) (gpa : Nat) (key : Nat) :
    (State.deGlobal s gpa key).MemWf := by
  unfold State.deGlobal
  try simp only []
  repeat' first
    | (with_reducible first
        | assumption)
    | (with_reducible first | refine State.memWf_modCore ?_ (fun _ hk => hk) | refine State.memWf_mkMap ?_ ?_)
    | exact fun _ hk => hk | split | (fail_if_no_progress with_reducible refine State.memWf_mk ?_)

theorem State.noteCarve_memWf {s : State} (h : s.MemWf) (ws : List Nat) :
    (State.noteCarve s ws).MemWf := by
  unfold State.noteCarve
  try simp only []
  repeat' first
    | (with_reducible first
        | assumption)
    | (refine foldl_memWf ?_ (fun _ _ _ => ?_))
    | (with_reducible first | refine State.memWf_modCore ?_ (fun _ hk => hk) | refine State.memWf_mkMap ?_ ?_)
    | exact fun _ hk => hk | split | (fail_if_no_progress with_reducible refine State.memWf_mk ?_)

theorem State.perfEvent_memWf {s : State} (h : s.MemWf) (c : Nat) (chair : Nat) (ev : Nat) (n : Nat) :
    (State.perfEvent s c chair ev n).MemWf := by
  unfold State.perfEvent
  try simp only []
  repeat' first
    | (with_reducible first
        | assumption)
    | (with_reducible first | refine State.memWf_modCore ?_ (fun _ hk => hk) | refine State.memWf_mkMap ?_ ?_)
    | exact fun _ hk => hk | split | (fail_if_no_progress with_reducible refine State.memWf_mk ?_)

theorem State.noteTrans_memWf {s : State} (h : s.MemWf) (e : TransErr) : (s.noteTrans e).MemWf := by
  unfold State.noteTrans
  split <;> exact h

theorem State.poisonGlobal_memWf {s : State} (h : s.MemWf) (gpa : Nat) (key : Nat) (n : Nat) :
    (State.poisonGlobal s gpa key n).MemWf := by
  unfold State.poisonGlobal
  try simp only []
  repeat' first
    | (with_reducible first
        | assumption | apply State.deGlobal_memWf)
    | (with_reducible first | refine State.memWf_modCore ?_ (fun _ hk => hk) | refine State.memWf_mkMap ?_ ?_)
    | exact fun _ hk => hk | split | (fail_if_no_progress with_reducible refine State.memWf_mk ?_)

theorem State.ueLocal_memWf {s : State} (h : s.MemWf) (core : Nat) (sl : Slot) (off : Nat) (n : Nat) :
    (State.ueLocal s core sl off n).MemWf := by
  unfold State.ueLocal
  try simp only []
  repeat' first
    | (with_reducible first
        | assumption | apply State.modErr_memWf)
    | (with_reducible first | refine State.memWf_modCore ?_ (fun _ hk => hk) | refine State.memWf_mkMap ?_ ?_)
    | exact fun _ hk => hk | split | (fail_if_no_progress with_reducible refine State.memWf_mk ?_)

theorem State.poisonLocal_memWf {s : State} (h : s.MemWf) (core : Nat) (sl : Slot) (off : Nat) (n : Nat) :
    (State.poisonLocal s core sl off n).MemWf := by
  unfold State.poisonLocal
  try simp only []
  repeat' first
    | (with_reducible first
        | assumption | apply State.modErr_memWf)
    | (with_reducible first | refine State.memWf_modCore ?_ (fun _ hk => hk) | refine State.memWf_mkMap ?_ ?_)
    | exact fun _ hk => hk | split | (fail_if_no_progress with_reducible refine State.memWf_mk ?_)

theorem State.record_memWf {s : State} (h : s.MemWf) (core : Nat) (slot : Nat) (age : Nat) (f : FaultRec) :
    (State.record s core slot age f).MemWf := by
  unfold State.record
  try simp only []
  repeat' first
    | (with_reducible first
        | assumption | apply State.modInst_memWf)
    | (with_reducible first | refine State.memWf_modCore ?_ (fun _ hk => hk) | refine State.memWf_mkMap ?_ ?_)
    | exact fun _ hk => hk | split | (fail_if_no_progress with_reducible refine State.memWf_mk ?_)

theorem State.modHandle_memWf {s : State} (h : s.MemWf) (chair : Nat) (h : Nat) (f : CqEntry → CqEntry) :
    (State.modHandle s chair h f).MemWf := by
  unfold State.modHandle
  try simp only []
  repeat' first
    | (with_reducible first
        | assumption | apply State.modChair_memWf)
    | (with_reducible first | refine State.memWf_modCore ?_ (fun _ hk => hk) | refine State.memWf_mkMap ?_ ?_)
    | exact fun _ hk => hk | split | (fail_if_no_progress with_reducible refine State.memWf_mk ?_)

theorem State.settleHandle_memWf {s : State} (h : s.MemWf) (chair : Nat) (h : Nat) :
    (State.settleHandle s chair h).MemWf := by
  unfold State.settleHandle
  try simp only []
  repeat' first
    | (with_reducible first
        | assumption | apply State.modHandle_memWf)
    | (with_reducible first | refine State.memWf_modCore ?_ (fun _ hk => hk) | refine State.memWf_mkMap ?_ ?_)
    | exact fun _ hk => hk | split | (fail_if_no_progress with_reducible refine State.memWf_mk ?_)

theorem State.readHandle_memWf {s : State} (h : s.MemWf) (chair : Nat) (h : Nat) :
    (State.readHandle s chair h).MemWf := by
  unfold State.readHandle
  try simp only []
  repeat' first
    | (with_reducible first
        | assumption | apply State.modHandle_memWf | apply State.settleHandle_memWf)
    | (with_reducible first | refine State.memWf_modCore ?_ (fun _ hk => hk) | refine State.memWf_mkMap ?_ ?_)
    | exact fun _ hk => hk | split | (fail_if_no_progress with_reducible refine State.memWf_mk ?_)

theorem State.completeCq_memWf {s : State} (h : s.MemWf) (core : Nat) (slot : Nat) (idx : Nat) (seq : Nat) (w : Word) :
    (State.completeCq s core slot idx seq w).MemWf := by
  unfold State.completeCq
  try simp only []
  repeat' first
    | (with_reducible first
        | assumption)
    | (with_reducible first | refine State.memWf_modCore ?_ (fun _ hk => hk) | refine State.memWf_mkMap ?_ ?_)
    | exact fun _ hk => hk | split | (fail_if_no_progress with_reducible refine State.memWf_mk ?_)

theorem State.toWslot_memWf {s : State} (h : s.MemWf) (core : Nat) (slot : Nat) (age : Nat) (n : Nat) (tok : Tok) :
    (State.toWslot s core slot age n tok).MemWf := by
  unfold State.toWslot
  try simp only []
  repeat' first
    | (with_reducible first
        | assumption | apply State.draw_memWf | apply State.modInst_memWf)
    | (with_reducible first | refine State.memWf_modCore ?_ (fun _ hk => hk) | refine State.memWf_mkMap ?_ ?_)
    | exact fun _ hk => hk | split | (fail_if_no_progress with_reducible refine State.memWf_mk ?_)

theorem State.emit1_memWf {s : State} (h : s.MemWf) (core : Nat) (slot : Nat) (age : Nat) (t : Target) (tok : Tok) :
    (State.emit1 s core slot age t tok).MemWf := by
  unfold State.emit1
  try simp only []
  repeat' first
    | (with_reducible first
        | assumption | apply State.toWslot_memWf)
    | (with_reducible first | refine State.memWf_modCore ?_ (fun _ hk => hk) | refine State.memWf_mkMap ?_ ?_)
    | exact fun _ hk => hk | split | (fail_if_no_progress with_reducible refine State.memWf_mk ?_)

theorem State.withChestRange_memWf {s : State} (h : s.MemWf) (core : Nat) (slot : Nat) :
    (State.withChestRange s core slot).MemWf := by
  unfold State.withChestRange
  try simp only []
  repeat' first
    | (with_reducible first
        | assumption | apply State.loadChestRange_memWf)
    | (with_reducible first | refine State.memWf_modCore ?_ (fun _ hk => hk) | refine State.memWf_mkMap ?_ ?_)
    | exact fun _ hk => hk | split | (fail_if_no_progress with_reducible refine State.memWf_mk ?_)

theorem State.modArrays_memWf {s : State} (h : s.MemWf) (core : Nat) (f : List SysArray → List SysArray) :
    (State.modArrays s core f).MemWf := by
  unfold State.modArrays
  try simp only []
  repeat' first
    | (with_reducible first
        | assumption)
    | (with_reducible first | refine State.memWf_modCore ?_ (fun _ hk => hk) | refine State.memWf_mkMap ?_ ?_)
    | exact fun _ hk => hk | split | (fail_if_no_progress with_reducible refine State.memWf_mk ?_)

theorem State.modArray_memWf {s : State} (h : s.MemWf) (core : Nat) (a : SysArray) (f : SysArray → SysArray) :
    (State.modArray s core a f).MemWf := by
  unfold State.modArray
  try simp only []
  repeat' first
    | (with_reducible first
        | assumption | apply State.modArrays_memWf)
    | (with_reducible first | refine State.memWf_modCore ?_ (fun _ hk => hk) | refine State.memWf_mkMap ?_ ?_)
    | exact fun _ hk => hk | split | (fail_if_no_progress with_reducible refine State.memWf_mk ?_)

theorem State.countRows_memWf {s : State} (h : s.MemWf) (core : Nat) (slot : Nat) (chair : Nat) (age : Nat) :
    (State.countRows s core slot chair age).MemWf := by
  unfold State.countRows
  try simp only []
  repeat' first
    | (with_reducible first
        | assumption | apply State.perfEvent_memWf)
    | (refine foldl_memWf ?_ (fun _ _ _ => ?_))
    | (with_reducible first | refine State.memWf_modCore ?_ (fun _ hk => hk) | refine State.memWf_mkMap ?_ ?_)
    | exact fun _ hk => hk | split | (fail_if_no_progress with_reducible refine State.memWf_mk ?_)

theorem State.newTile_memWf {s : State} (h : s.MemWf) (core : Nat) (slot : Nat) (age : Nat) (fmt : Fmt) (elems : List Nat) (src : Option (Nat × Nat)) (lines : List Nat) :
    (State.newTile s core slot age fmt elems src lines).2.MemWf := by
  unfold State.newTile
  try simp only []
  repeat' first
    | (with_reducible first
        | assumption | apply State.draw_memWf)
    | (with_reducible first | refine State.memWf_modCore ?_ (fun _ hk => hk) | refine State.memWf_mkMap ?_ ?_)
    | exact fun _ hk => hk | split | (fail_if_no_progress with_reducible refine State.memWf_mk ?_)

theorem State.spill_memWf {s : State} (h : s.MemWf) (core : Nat) (t : NetTok) :
    (State.spill s core t).MemWf := by
  unfold State.spill
  try simp only []
  repeat' first
    | (with_reducible first
        | assumption | refine State.chestTake_memWf ?_ _ _ _ _ (fun _ _ => ?_) | apply State.perfEvent_memWf)
    | (with_reducible first | refine State.memWf_modCore ?_ (fun _ hk => hk) | refine State.memWf_mkMap ?_ ?_)
    | exact fun _ hk => hk | split | (fail_if_no_progress with_reducible refine State.memWf_mk ?_)

theorem State.arrive_memWf {s : State} (h : s.MemWf) (core : Nat) (t : NetTok) :
    (State.arrive s core t).MemWf := by
  unfold State.arrive
  try simp only []
  repeat' first
    | (with_reducible first
        | assumption | apply State.draw_memWf | apply State.modErr_memWf | apply State.record_memWf
        | apply State.spill_memWf)
    | (with_reducible first | refine State.memWf_modCore ?_ (fun _ hk => hk) | refine State.memWf_mkMap ?_ ?_)
    | exact fun _ hk => hk | split | (fail_if_no_progress with_reducible refine State.memWf_mk ?_)

theorem State.swapIn_memWf {s : State} (h : s.MemWf) (core : Nat) (t : NetTok) :
    (State.swapIn s core t).MemWf := by
  unfold State.swapIn
  try simp only []
  repeat' first
    | (with_reducible first
        | assumption | apply State.spill_memWf | apply State.arrive_memWf)
    | (with_reducible first | refine State.memWf_modCore ?_ (fun _ hk => hk) | refine State.memWf_mkMap ?_ ?_)
    | exact fun _ hk => hk | split | (fail_if_no_progress with_reducible refine State.memWf_mk ?_)

theorem execTokenArrival_memWf {s : State} (h : s.MemWf) (core : Nat) (n : Nat) :
    Out.Wf (execTokenArrival core n s) := by
  unfold execTokenArrival
  try simp only []
  repeat' first
    | (with_reducible first
        | assumption | refine Out.wf_next ?_ | refine Out.wf_need ?_ | refine Out.wf_needSome (fun _ => ?_)
        | apply State.arrive_memWf)
    | exact Out.wf_fault
    | (with_reducible first | refine State.memWf_modCore ?_ (fun _ hk => hk) | refine State.memWf_mkMap ?_ ?_)
    | exact fun _ hk => hk | split | (fail_if_no_progress with_reducible refine State.memWf_mk ?_)

theorem execChestInjection_memWf {s : State} (h : s.MemWf) (core : Nat) (n : Nat) :
    Out.Wf (execChestInjection core n s) := by
  unfold execChestInjection
  try simp only []
  repeat' first
    | (with_reducible first
        | assumption | refine Out.wf_next ?_ | refine Out.wf_need ?_ | refine Out.wf_needSome (fun _ => ?_)
        | apply State.arrive_memWf)
    | exact Out.wf_fault
    | (with_reducible first | refine State.memWf_modCore ?_ (fun _ hk => hk) | refine State.memWf_mkMap ?_ ?_)
    | exact fun _ hk => hk | split | (fail_if_no_progress with_reducible refine State.memWf_mk ?_)

theorem execSwap_memWf {s : State} (h : s.MemWf) (core : Nat) (row : Nat) (set : Nat) :
    Out.Wf (execSwap core row set s) := by
  unfold execSwap
  try simp only []
  repeat' first
    | (with_reducible first
        | assumption | refine Out.wf_next ?_ | refine Out.wf_need ?_ | refine Out.wf_needSome (fun _ => ?_)
        | apply State.perfEvent_memWf | apply State.spill_memWf | apply State.swapIn_memWf)
    | exact Out.wf_fault
    | (with_reducible first | refine State.memWf_modCore ?_ (fun _ hk => hk) | refine State.memWf_mkMap ?_ ?_)
    | exact fun _ hk => hk | split | (fail_if_no_progress with_reducible refine State.memWf_mk ?_)

theorem execQuotaSwap_memWf {s : State} (h : s.MemWf) (core : Nat) (slot : Nat) (row : Nat) (n : Nat) :
    Out.Wf (execQuotaSwap core slot row n s) := by
  unfold execQuotaSwap
  try simp only []
  repeat' first
    | (with_reducible first
        | assumption | refine Out.wf_next ?_ | refine Out.wf_need ?_ | refine Out.wf_needSome (fun _ => ?_)
        | apply State.perfEvent_memWf | apply State.spill_memWf | apply State.swapIn_memWf)
    | (refine foldl_memWf ?_ (fun _ _ _ => ?_)) | exact Out.wf_fault
    | (with_reducible first | refine State.memWf_modCore ?_ (fun _ hk => hk) | refine State.memWf_mkMap ?_ ?_)
    | exact fun _ hk => hk | split | (fail_if_no_progress with_reducible refine State.memWf_mk ?_)

theorem State.addInst_memWf {s : State} (h : s.MemWf) (core : Nat) (slot : Nat) (f : Nat → Inst) :
    (State.addInst s core slot f).MemWf := by
  unfold State.addInst
  try simp only []
  repeat' first
    | (with_reducible first
        | assumption | apply State.modSlot_memWf)
    | (with_reducible first | refine State.memWf_modCore ?_ (fun _ hk => hk) | refine State.memWf_mkMap ?_ ?_)
    | exact fun _ hk => hk | split | (fail_if_no_progress with_reducible refine State.memWf_mk ?_)

theorem execWindowGrant_memWf {s : State} (h : s.MemWf) (core : Nat) (slot : Nat) (uid : Nat) (ba : Nat) :
    Out.Wf (execWindowGrant core slot uid ba s) := by
  unfold execWindowGrant
  try simp only []
  repeat' first
    | (with_reducible first
        | assumption | refine Out.wf_next ?_ | refine Out.wf_need ?_ | refine Out.wf_needSome (fun _ => ?_)
        | apply State.modSlot_memWf | apply State.modInst_memWf)
    | exact Out.wf_fault
    | (with_reducible first | refine State.memWf_modCore ?_ (fun _ hk => hk) | refine State.memWf_mkMap ?_ ?_)
    | exact fun _ hk => hk | split | (fail_if_no_progress with_reducible refine State.memWf_mk ?_)

theorem State.fetchWords_memWf {s : State} (h : s.MemWf) (chair : Nat) (l : List (Nat × Nat)) : (s.fetchWords chair l).2.MemWf := by
  induction l generalizing s with
  | nil => exact h
  | cons p r ih =>
    unfold State.fetchWords
    simp only []
    exact ih (by split <;> [exact State.draw_memWf h 2; exact h])

theorem execBlockFetch_memWf {s : State} (h : s.MemWf) (core : Nat) (slot : Nat) :
    Out.Wf (execBlockFetch core slot s) := by
  unfold execBlockFetch
  try simp only []
  repeat' first
    | (with_reducible first
        | assumption | refine Out.wf_next ?_ | refine Out.wf_need ?_ | refine Out.wf_needSome (fun _ => ?_)
        | refine State.fetchWords_memWf_eq (by assumption) ?_ | apply State.modSlot_memWf | apply State.modErr_memWf
        | apply State.perfEvent_memWf | apply State.noteTrans_memWf | apply State.addInst_memWf
        | apply State.fetchWords_memWf)
    | exact Out.wf_fault
    | (with_reducible first | refine State.memWf_modCore ?_ (fun _ hk => hk) | refine State.memWf_mkMap ?_ ?_)
    | exact fun _ hk => hk | split | (fail_if_no_progress with_reducible refine State.memWf_mk ?_)

theorem execBlockMapping_memWf {s : State} (h : s.MemWf) (core : Nat) (slot : Nat) :
    Out.Wf (execBlockMapping core slot s) := by
  unfold execBlockMapping
  try simp only []
  repeat' first
    | (with_reducible first
        | assumption | refine Out.wf_next ?_ | refine Out.wf_need ?_ | refine Out.wf_needSome (fun _ => ?_)
        | apply State.modSlot_memWf | apply State.addInst_memWf)
    | exact Out.wf_fault
    | (with_reducible first | refine State.memWf_modCore ?_ (fun _ hk => hk) | refine State.memWf_mkMap ?_ ?_)
    | exact fun _ hk => hk | split | (fail_if_no_progress with_reducible refine State.memWf_mk ?_)

theorem execDecodedBlockEviction_memWf {s : State} (h : s.MemWf) (core : Nat) (n : Nat) :
    Out.Wf (execDecodedBlockEviction core n s) := by
  unfold execDecodedBlockEviction
  try simp only []
  repeat' first
    | (with_reducible first
        | assumption | refine Out.wf_next ?_ | refine Out.wf_need ?_ | refine Out.wf_needSome (fun _ => ?_))
    | exact Out.wf_fault
    | (with_reducible first | refine State.memWf_modCore ?_ (fun _ hk => hk) | refine State.memWf_mkMap ?_ ?_)
    | exact fun _ hk => hk | split | (fail_if_no_progress with_reducible refine State.memWf_mk ?_)

theorem execL1TlbEntryDrop_memWf {s : State} (h : s.MemWf) (core : Nat) (n : Nat) :
    Out.Wf (execL1TlbEntryDrop core n s) := by
  unfold execL1TlbEntryDrop
  try simp only []
  repeat' first
    | (with_reducible first
        | assumption | refine Out.wf_next ?_ | refine Out.wf_need ?_ | refine Out.wf_needSome (fun _ => ?_))
    | exact Out.wf_fault
    | (with_reducible first | refine State.memWf_modCore ?_ (fun _ hk => hk) | refine State.memWf_mkMap ?_ ?_)
    | exact fun _ hk => hk | split | (fail_if_no_progress with_reducible refine State.memWf_mk ?_)

theorem State.dropLoad_memWf {s : State} (h : s.MemWf) (core : Nat) (l : PLoad) :
    (State.dropLoad s core l).MemWf := by
  unfold State.dropLoad
  try simp only []
  repeat' first
    | (with_reducible first
        | assumption)
    | (with_reducible first | refine State.memWf_modCore ?_ (fun _ hk => hk) | refine State.memWf_mkMap ?_ ?_)
    | exact fun _ hk => hk | split | (fail_if_no_progress with_reducible refine State.memWf_mk ?_)

theorem State.loadReturn_memWf {s : State} (h : s.MemWf) (core : Nat) (chair : Nat) (l : PLoad) :
    (State.loadReturn s core chair l).MemWf := by
  unfold State.loadReturn
  try simp only []
  repeat' first
    | (with_reducible first
        | assumption | apply State.emit_memWf | apply State.newTile_memWf | apply State.dropLoad_memWf)
    | (with_reducible first | refine State.memWf_modCore ?_ (fun _ hk => hk) | refine State.memWf_mkMap ?_ ?_)
    | exact fun _ hk => hk | split | (fail_if_no_progress with_reducible refine State.memWf_mk ?_)

theorem State.loadFault_memWf {s : State} (h : s.MemWf) (core : Nat) (l : PLoad) (code : Nat) (va : Nat) :
    (State.loadFault s core l code va).MemWf := by
  unfold State.loadFault
  try simp only []
  repeat' first
    | (with_reducible first
        | assumption | apply State.record_memWf | apply State.dropLoad_memWf)
    | (with_reducible first | refine State.memWf_modCore ?_ (fun _ hk => hk) | refine State.memWf_mkMap ?_ ?_)
    | exact fun _ hk => hk | split | (fail_if_no_progress with_reducible refine State.memWf_mk ?_)

theorem State.loadHeld_memWf {s : State} (h : s.MemWf) (core : Nat) (chair : Nat) (l : PLoad) (st : Nat) (va : Nat) :
    (State.loadHeld s core chair l st va).MemWf := by
  unfold State.loadHeld
  try simp only []
  repeat' first
    | (with_reducible first
        | assumption | apply State.perfEvent_memWf)
    | (with_reducible first | refine State.memWf_modCore ?_ (fun _ hk => hk) | refine State.memWf_mkMap ?_ ?_)
    | exact fun _ hk => hk | split | (fail_if_no_progress with_reducible refine State.memWf_mk ?_)

theorem State.countConsumed_memWf {s : State} (h : s.MemWf) (core : Nat) (sl : Slot) (l : PLoad) (p : LoadPart) (e : TransErr) :
    (State.countConsumed s core sl l p e).MemWf := by
  unfold State.countConsumed
  try simp only []
  repeat' first
    | (with_reducible first
        | assumption | apply State.ueGlobal_memWf | apply State.noteTrans_memWf | apply State.ueLocal_memWf)
    | (with_reducible first | refine State.memWf_modCore ?_ (fun _ hk => hk) | refine State.memWf_mkMap ?_ ?_)
    | exact fun _ hk => hk | split | (fail_if_no_progress with_reducible refine State.memWf_mk ?_)

theorem State.dropPre_memWf {s : State} (h : s.MemWf) (core : Nat) :
    (State.dropPre s core).MemWf := by
  unfold State.dropPre
  try simp only []
  repeat' first
    | (with_reducible first
        | assumption)
    | (with_reducible first | refine State.memWf_modCore ?_ (fun _ hk => hk) | refine State.memWf_mkMap ?_ ?_)
    | exact fun _ hk => hk | split | (fail_if_no_progress with_reducible refine State.memWf_mk ?_)

theorem State.dropPreOf_memWf {s : State} (h : s.MemWf) (core : Nat) (slot : Nat) (sl : Slot) (uid : Nat) :
    (State.dropPreOf s core slot sl uid).MemWf := by
  unfold State.dropPreOf
  try simp only []
  repeat' first
    | (with_reducible first
        | assumption)
    | (with_reducible first | refine State.memWf_modCore ?_ (fun _ hk => hk) | refine State.memWf_mkMap ?_ ?_)
    | exact fun _ hk => hk | split | (fail_if_no_progress with_reducible refine State.memWf_mk ?_)

theorem State.pickParts_memWf {s : State} (h : s.MemWf) (l : PLoad) : (s.pickParts l).2.MemWf := by
  unfold State.pickParts
  simp only []
  split <;> exact h

theorem State.loadSettle_memWf {s : State} (h : s.MemWf) (core : Nat) (chair : Nat) (n : Nat) (l : PLoad) :
    (State.loadSettle s core chair n l).MemWf := by
  unfold State.loadSettle
  try simp only []
  repeat' first
    | (with_reducible first
        | assumption | apply State.loadReturn_memWf | apply State.loadFault_memWf)
    | (with_reducible first | refine State.memWf_modCore ?_ (fun _ hk => hk) | refine State.memWf_mkMap ?_ ?_)
    | exact fun _ hk => hk | split | (fail_if_no_progress with_reducible refine State.memWf_mk ?_)

theorem State.loadFails_memWf {s : State} (h : s.MemWf) (core : Nat) (chair : Nat) (n : Nat) (l : PLoad) (code : Nat) (va : Nat) :
    (State.loadFails s core chair n l code va).MemWf := by
  unfold State.loadFails
  try simp only []
  repeat' first
    | (with_reducible first
        | assumption | apply State.loadFault_memWf | apply State.loadSettle_memWf)
    | (with_reducible first | refine State.memWf_modCore ?_ (fun _ hk => hk) | refine State.memWf_mkMap ?_ ?_)
    | exact fun _ hk => hk | split | (fail_if_no_progress with_reducible refine State.memWf_mk ?_)

theorem State.loadGets_memWf {s : State} (h : s.MemWf) (core : Nat) (n : Nat) (sl : Slot) (i : Inst) (l : PLoad) (done : List LoadPart) :
    (State.loadGets s core n sl i l done).MemWf := by
  unfold State.loadGets
  try simp only []
  repeat' first
    | (with_reducible first
        | assumption | apply State.modInst_memWf | apply State.dropPreOf_memWf | apply State.loadSettle_memWf)
    | (with_reducible first | refine State.memWf_modCore ?_ (fun _ hk => hk) | refine State.memWf_mkMap ?_ ?_)
    | exact fun _ hk => hk | split | (fail_if_no_progress with_reducible refine State.memWf_mk ?_)

theorem State.loadPerform_memWf {s : State} (h : s.MemWf) (core : Nat) (n : Nat) (sl : Slot) (i : Inst) (user : Bool) (l : PLoad) (pick : List LoadPart) :
    (State.loadPerform s core n sl i user l pick).MemWf := by
  unfold State.loadPerform
  try simp only []
  repeat' first
    | (with_reducible first
        | assumption | apply State.loadHeld_memWf | apply State.countConsumed_memWf | apply State.loadFails_memWf
        | apply State.loadGets_memWf)
    | (with_reducible first | refine State.memWf_modCore ?_ (fun _ hk => hk) | refine State.memWf_mkMap ?_ ?_)
    | exact fun _ hk => hk | split | (fail_if_no_progress with_reducible refine State.memWf_mk ?_)

theorem State.loadPreread_memWf {s : State} (h : s.MemWf) (core : Nat) (n : Nat) (sl : Slot) (i : Inst) (user : Bool) (l : PLoad) :
    Out.Wf (State.loadPreread s core n sl i user l) := by
  unfold State.loadPreread
  try simp only []
  repeat' first
    | (with_reducible first
        | assumption | refine Out.wf_next ?_ | refine Out.wf_need ?_ | refine Out.wf_needSome (fun _ => ?_))
    | exact Out.wf_fault
    | (with_reducible first | refine State.memWf_modCore ?_ (fun _ hk => hk) | refine State.memWf_mkMap ?_ ?_)
    | exact fun _ hk => hk | split | (fail_if_no_progress with_reducible refine State.memWf_mk ?_)

theorem execLoadPerformed_memWf {s : State} (h : s.MemWf) (core n : Nat) : Out.Wf (execLoadPerformed core n s) := by
  refine Out.wf_needSome fun l => Out.wf_needSome fun sl => Out.wf_needSome fun i => Out.wf_needSome fun t => ?_
  dsimp only
  split
  · have h1 : (if l.pre.isEmpty then (0, s) else s.draw 2).2.MemWf := by split <;> [exact h; exact State.draw_memWf h 2]
    generalize (if l.pre.isEmpty then (0, s) else s.draw 2) = x at h1
    split
    · exact Out.wf_next (State.loadGets_memWf h1 _ _ _ _ _ _)
    · exact Out.wf_next (State.loadPerform_memWf (State.pickParts_memWf h1 _) _ _ _ _ _ _ _)
  · exact Out.wf_need (State.loadPreread_memWf h _ _ _ _ _ _)

theorem State.applyStore_memWf {s : State} (h : s.MemWf) (core : Nat) (sl : Slot) (p : PStore) :
    (State.applyStore s core sl p).1.MemWf := by
  unfold State.applyStore
  try simp only []
  repeat' first
    | (with_reducible first
        | assumption | apply State.storeGlobal_memWf | apply State.storeLocal_memWf | apply State.modErr_memWf)
    | (with_reducible first | refine State.memWf_modCore ?_ (fun _ hk => hk) | refine State.memWf_mkMap ?_ ?_)
    | exact fun _ hk => hk | split | (fail_if_no_progress with_reducible refine State.memWf_mk ?_)

theorem State.amoReturn_memWf {s : State} (h : s.MemWf) (core : Nat) (slot : Nat) (age : Nat) (p : PStore) (old : Nat) :
    (State.amoReturn s core slot age p old).MemWf := by
  unfold State.amoReturn
  try simp only []
  repeat' first
    | (with_reducible first
        | assumption | apply State.modInst_memWf)
    | (with_reducible first | refine State.memWf_modCore ?_ (fun _ hk => hk) | refine State.memWf_mkMap ?_ ?_)
    | exact fun _ hk => hk | split | (fail_if_no_progress with_reducible refine State.memWf_mk ?_)

theorem State.amoFault_memWf {s : State} (h : s.MemWf) (core : Nat) (slot : Nat) (age : Nat) (sl : Slot) (p : PStore) :
    (State.amoFault s core slot age sl p).MemWf := by
  unfold State.amoFault
  try simp only []
  repeat' first
    | (with_reducible first
        | assumption | apply State.ueGlobal_memWf | apply State.ueLocal_memWf | apply State.record_memWf)
    | (with_reducible first | refine State.memWf_modCore ?_ (fun _ hk => hk) | refine State.memWf_mkMap ?_ ?_)
    | exact fun _ hk => hk | split | (fail_if_no_progress with_reducible refine State.memWf_mk ?_)

theorem execStoreApplied_memWf {s : State} (h : s.MemWf) (core : Nat) (slot : Nat) (n : Nat) :
    Out.Wf (execStoreApplied core slot n s) := by
  unfold execStoreApplied
  try simp only []
  repeat' first
    | (with_reducible first
        | assumption | refine Out.wf_next ?_ | refine Out.wf_need ?_ | refine Out.wf_needSome (fun _ => ?_)
        | apply State.modSlot_memWf | apply State.dropPre_memWf | apply State.applyStore_memWf
        | apply State.amoReturn_memWf | apply State.amoFault_memWf)
    | exact Out.wf_fault
    | (with_reducible first | refine State.memWf_modCore ?_ (fun _ hk => hk) | refine State.memWf_mkMap ?_ ?_)
    | exact fun _ hk => hk | split | (fail_if_no_progress with_reducible refine State.memWf_mk ?_)

theorem State.endWait_memWf {s : State} (h : s.MemWf) (core : Nat) (slot : Nat) (age : Nat) (k : Nat) :
    (State.endWait s core slot age k).MemWf := by
  unfold State.endWait
  try simp only []
  repeat' first
    | (with_reducible first
        | assumption | apply State.modInst_memWf)
    | (with_reducible first | refine State.memWf_modCore ?_ (fun _ hk => hk) | refine State.memWf_mkMap ?_ ?_)
    | exact fun _ hk => hk | split | (fail_if_no_progress with_reducible refine State.memWf_mk ?_)

theorem forkWait_memWf {s : State} (h : s.MemWf) (core : Nat) (slot : Nat) (age : Nat) (k : Nat) (sl : Slot) (i : Inst) (h : Nat) (ts : List Target) (val : ForkRec → Datum) :
    Out.Wf (forkWait s core slot age k sl i h ts val) := by
  unfold forkWait
  try simp only []
  repeat' first
    | (with_reducible first
        | assumption | refine Out.wf_next ?_ | refine Out.wf_need ?_ | refine Out.wf_needSome (fun _ => ?_)
        | apply State.emit_memWf | apply State.modSlot_memWf | apply State.modInst_memWf | apply State.endWait_memWf)
    | exact Out.wf_fault
    | (with_reducible first | refine State.memWf_modCore ?_ (fun _ hk => hk) | refine State.memWf_mkMap ?_ ?_)
    | exact fun _ hk => hk | split | (fail_if_no_progress with_reducible refine State.memWf_mk ?_)

theorem execJoinSatisfied_memWf {s : State} (h : s.MemWf) (core : Nat) (slot : Nat) (age : Nat) (k : Nat) :
    Out.Wf (execJoinSatisfied core slot age k s) := by
  unfold execJoinSatisfied
  try simp only []
  repeat' first
    | (with_reducible first
        | assumption | refine Out.wf_next ?_ | refine Out.wf_need ?_ | refine Out.wf_needSome (fun _ => ?_)
        | apply forkWait_memWf)
    | exact Out.wf_fault
    | (with_reducible first | refine State.memWf_modCore ?_ (fun _ hk => hk) | refine State.memWf_mkMap ?_ ?_)
    | exact fun _ hk => hk | split | (fail_if_no_progress with_reducible refine State.memWf_mk ?_)

theorem execRedtCollectSatisfied_memWf {s : State} (h : s.MemWf) (core : Nat) (slot : Nat) (age : Nat) (k : Nat) :
    Out.Wf (execRedtCollectSatisfied core slot age k s) := by
  unfold execRedtCollectSatisfied
  try simp only []
  repeat' first
    | (with_reducible first
        | assumption | refine Out.wf_next ?_ | refine Out.wf_need ?_ | refine Out.wf_needSome (fun _ => ?_)
        | apply forkWait_memWf)
    | exact Out.wf_fault
    | (with_reducible first | refine State.memWf_modCore ?_ (fun _ hk => hk) | refine State.memWf_mkMap ?_ ?_)
    | exact fun _ hk => hk | split | (fail_if_no_progress with_reducible refine State.memWf_mk ?_)

theorem execWaitcSatisfied_memWf {s : State} (h : s.MemWf) (core : Nat) (slot : Nat) (age : Nat) (k : Nat) :
    Out.Wf (execWaitcSatisfied core slot age k s) := by
  unfold execWaitcSatisfied
  try simp only []
  repeat' first
    | (with_reducible first
        | assumption | refine Out.wf_next ?_ | refine Out.wf_need ?_ | refine Out.wf_needSome (fun _ => ?_)
        | apply State.waitcNone_memWf | apply State.waitcEmit_memWf | apply State.endWait_memWf)
    | exact Out.wf_fault
    | (with_reducible first | refine State.memWf_modCore ?_ (fun _ hk => hk) | refine State.memWf_mkMap ?_ ?_)
    | exact fun _ hk => hk | split | (fail_if_no_progress with_reducible refine State.memWf_mk ?_)

theorem execWaitgSatisfied_memWf {s : State} (h : s.MemWf) (core : Nat) (slot : Nat) (age : Nat) (k : Nat) :
    Out.Wf (execWaitgSatisfied core slot age k s) := by
  unfold execWaitgSatisfied
  try simp only []
  repeat' first
    | (with_reducible first
        | assumption | refine Out.wf_next ?_ | refine Out.wf_need ?_ | refine Out.wf_needSome (fun _ => ?_)
        | apply State.emit_memWf | apply State.ueLocal_memWf | apply State.record_memWf | apply State.endWait_memWf)
    | exact Out.wf_fault
    | (with_reducible first | refine State.memWf_modCore ?_ (fun _ hk => hk) | refine State.memWf_mkMap ?_ ?_)
    | exact fun _ hk => hk | split | (fail_if_no_progress with_reducible refine State.memWf_mk ?_)

theorem execFenceEmission_memWf {s : State} (h : s.MemWf) (core : Nat) (slot : Nat) (age : Nat) (k : Nat) :
    Out.Wf (execFenceEmission core slot age k s) := by
  unfold execFenceEmission
  try simp only []
  repeat' first
    | (with_reducible first
        | assumption | refine Out.wf_next ?_ | refine Out.wf_need ?_ | refine Out.wf_needSome (fun _ => ?_)
        | apply State.emit_memWf | apply State.endWait_memWf)
    | exact Out.wf_fault
    | (with_reducible first | refine State.memWf_modCore ?_ (fun _ hk => hk) | refine State.memWf_mkMap ?_ ?_)
    | exact fun _ hk => hk | split | (fail_if_no_progress with_reducible refine State.memWf_mk ?_)

theorem execIterationEnd_memWf {s : State} (h : s.MemWf) (core : Nat) (slot : Nat) (uid : Nat) :
    Out.Wf (execIterationEnd core slot uid s) := by
  unfold execIterationEnd
  try simp only []
  repeat' first
    | (with_reducible first
        | assumption | refine Out.wf_next ?_ | refine Out.wf_need ?_ | refine Out.wf_needSome (fun _ => ?_)
        | apply State.modSlot_memWf)
    | exact Out.wf_fault
    | (with_reducible first | refine State.memWf_modCore ?_ (fun _ hk => hk) | refine State.memWf_mkMap ?_ ?_)
    | exact fun _ hk => hk | split | (fail_if_no_progress with_reducible refine State.memWf_mk ?_)

theorem State.settleWaits_memWf {s : State} (h : s.MemWf) (chair : Nat) (is : List Inst) :
    (State.settleWaits s chair is).MemWf := by
  unfold State.settleWaits
  try simp only []
  repeat' first
    | (with_reducible first
        | assumption | apply State.settleHandle_memWf)
    | (refine foldl_memWf ?_ (fun _ _ _ => ?_))
    | (with_reducible first | refine State.memWf_modCore ?_ (fun _ hk => hk) | refine State.memWf_mkMap ?_ ?_)
    | exact fun _ hk => hk | split | (fail_if_no_progress with_reducible refine State.memWf_mk ?_)

theorem State.discard_memWf {s : State} (h : s.MemWf) (core slot age : Nat) : (s.discard core slot age).MemWf := by
  unfold State.discard
  split
  · exact h
  · split
    · exact h
    · refine State.perfEvent_memWf (State.settleWaits_memWf (State.modSlot_memWf ?_ _ _ _) _ _) _ _ _ _
      refine State.memWf_mk (State.memWf_modCore h ?_)
      exact fun _ hk => hk

theorem State.discardFrom_memWf {s : State} (h : s.MemWf) (core : Nat) (slot : Nat) (uid : Nat) (age : Nat) :
    (State.discardFrom s core slot uid age).MemWf := by
  unfold State.discardFrom
  try simp only []
  repeat' first
    | (with_reducible first
        | assumption | apply State.modSlot_memWf | apply State.discard_memWf)
    | (refine foldl_memWf ?_ (fun _ _ _ => ?_))
    | (with_reducible first | refine State.memWf_modCore ?_ (fun _ hk => hk) | refine State.memWf_mkMap ?_ ?_)
    | exact fun _ hk => hk | split | (fail_if_no_progress with_reducible refine State.memWf_mk ?_)

theorem State.noteGrant_memWf {s : State} (h : s.MemWf) (a : Nat) :
    (State.noteGrant s a).MemWf := by
  unfold State.noteGrant
  try simp only []
  repeat' first
    | (with_reducible first
        | assumption | apply State.noteCarve_memWf)
    | (with_reducible first | refine State.memWf_modCore ?_ (fun _ hk => hk) | refine State.memWf_mkMap ?_ ?_)
    | exact fun _ hk => hk | split | (fail_if_no_progress with_reducible refine State.memWf_mk ?_)

theorem State.noteTaps_memWf {s : State} (h : s.MemWf) (sl : Slot) (i : Inst) :
    (State.noteTaps s sl i).MemWf := by
  unfold State.noteTaps
  try simp only []
  repeat' first
    | (with_reducible first
        | assumption | apply State.noteGrant_memWf)
    | (refine foldl_memWf ?_ (fun _ _ _ => ?_))
    | (with_reducible first | refine State.memWf_modCore ?_ (fun _ hk => hk) | refine State.memWf_mkMap ?_ ?_)
    | exact fun _ hk => hk | split | (fail_if_no_progress with_reducible refine State.memWf_mk ?_)

theorem State.applyDirect_memWf {s : State} (h : s.MemWf) (core slot age : Nat) (sl : Slot) (l : List PStore) :
    (s.applyDirect core slot age sl l).MemWf := by
  induction l generalizing s with
  | nil => exact h
  | cons p r ih =>
    unfold State.applyDirect
    exact ih (State.amoReturn_memWf (State.applyStore_memWf h _ _ _) _ _ _ _ _)

theorem State.csrWrite_memWf {s : State} (h : s.MemWf) (core : Nat) (slot : Nat) (uid : Nat) (c : Csr) (v : Word) :
    (State.csrWrite s core slot uid c v).MemWf := by
  unfold State.csrWrite
  try simp only []
  repeat' first
    | (with_reducible first
        | assumption | apply State.modSlot_memWf | apply State.modStrand_memWf)
    | (with_reducible first | refine State.memWf_modCore ?_ (fun _ hk => hk) | refine State.memWf_mkMap ?_ ?_)
    | exact fun _ hk => hk | split | (fail_if_no_progress with_reducible refine State.memWf_mk ?_)

theorem State.csrWrites_memWf {s : State} (h : s.MemWf) (core : Nat) (slot : Nat) (uid : Nat) (i : Inst) :
    (State.csrWrites s core slot uid i).MemWf := by
  unfold State.csrWrites
  try simp only []
  repeat' first
    | (with_reducible first
        | assumption | apply State.modSlot_memWf | apply State.csrWrite_memWf)
    | (refine foldl_memWf ?_ (fun _ _ _ => ?_))
    | (with_reducible first | refine State.memWf_modCore ?_ (fun _ hk => hk) | refine State.memWf_mkMap ?_ ?_)
    | exact fun _ hk => hk | split | (fail_if_no_progress with_reducible refine State.memWf_mk ?_)

theorem State.strandActs_memWf {s : State} (h : s.MemWf) (core : Nat) (slot : Nat) (i : Inst) (t : Strand) :
    (State.strandActs s core slot i t).MemWf := by
  unfold State.strandActs
  try simp only []
  repeat' first
    | (with_reducible first
        | assumption | apply State.modSlot_memWf)
    | (refine foldl_memWf ?_ (fun _ _ _ => ?_))
    | (with_reducible first | refine State.memWf_modCore ?_ (fun _ hk => hk) | refine State.memWf_mkMap ?_ ?_)
    | exact fun _ hk => hk | split | (fail_if_no_progress with_reducible refine State.memWf_mk ?_)

theorem State.dropCode_memWf {s : State} (h : s.MemWf) (core : Nat) (sl : Slot) (sc : Scope) :
    (State.dropCode s core sl sc).MemWf := by
  unfold State.dropCode
  try simp only []
  repeat' first
    | (with_reducible first
        | assumption)
    | (with_reducible first | refine State.memWf_modCore ?_ (fun _ hk => hk) | refine State.memWf_mkMap ?_ ?_)
    | exact fun _ hk => hk | split | (fail_if_no_progress with_reducible refine State.memWf_mk ?_)

theorem State.rewalks_memWf {s : State} (h : s.MemWf) (core : Nat) (sl : Slot) (user : Bool) (l : List PStore) :
    (s.rewalks core sl user l).1.MemWf := by
  induction l generalizing s with
  | nil => exact h
  | cons p r ih =>
    unfold State.rewalks
    split
    · exact h
    · exact ih (by split <;> [exact State.fillTlb_memWf h _ _; exact h])

theorem State.rewalks_memWf_eq {s t : State} {core : Nat} {sl : Slot} {user : Bool} {l r : List PStore}
    {o : Option (PStore × TransErr)} (he : s.rewalks core sl user l = (t, o, r)) (h : s.MemWf) : t.MemWf := by
  have := State.rewalks_memWf h core sl user l
  rw [he] at this
  exact this

theorem State.commitChain_memWf {s : State} (h : s.MemWf) (core : Nat) (slot : Nat) (age : Nat) (ps : List PStore) :
    (State.commitChain s core slot age ps).MemWf := by
  unfold State.commitChain
  try simp only []
  repeat' first
    | (with_reducible first
        | assumption)
    | (with_reducible first | refine State.memWf_modCore ?_ (fun _ hk => hk) | refine State.memWf_mkMap ?_ ?_)
    | exact fun _ hk => hk | split | (fail_if_no_progress with_reducible refine State.memWf_mk ?_)

theorem State.beginCommit_memWf {s : State} (h : s.MemWf) (core slot : Nat) (i : Inst) (ps : List PStore) :
    (s.beginCommit core slot i ps).MemWf := by
  have h1 : ((s.commitChain core slot i.age ps).modCore core fun k => k.dropTraffic slot i.age).MemWf :=
    State.memWf_modCore (State.commitChain_memWf h _ _ _ _) fun _ hk => hk
  have h2 := State.modInst_memWf (State.modSlot_memWf h1 core slot fun x => { x with post := x.post ++ i.postOf }) core slot i.age
    fun x => { x with stores := [], waits := [], committing := true }
  unfold State.beginCommit
  simp only []
  split
  · exact State.settleWaits_memWf h2 _ _
  · exact h2

theorem execIncompleteBlock_memWf {s : State} (h : s.MemWf) (core : Nat) (slot : Nat) (age : Nat) :
    Out.Wf (execIncompleteBlock core slot age s) := by
  unfold execIncompleteBlock
  try simp only []
  repeat' first
    | (with_reducible first
        | assumption | refine Out.wf_next ?_ | refine Out.wf_need ?_ | refine Out.wf_needSome (fun _ => ?_)
        | apply State.record_memWf)
    | exact Out.wf_fault
    | (with_reducible first | refine State.memWf_modCore ?_ (fun _ hk => hk) | refine State.memWf_mkMap ?_ ?_)
    | exact fun _ hk => hk | split | (fail_if_no_progress with_reducible refine State.memWf_mk ?_)

theorem State.setFrontier_memWf {s : State} (h : s.MemWf) (f : Frontier) :
    (State.setFrontier s f).MemWf := by
  unfold State.setFrontier
  try simp only []
  repeat' first
    | (with_reducible first
        | assumption)
    | (with_reducible first | refine State.memWf_modCore ?_ (fun _ hk => hk) | refine State.memWf_mkMap ?_ ?_)
    | exact fun _ hk => hk | split | (fail_if_no_progress with_reducible refine State.memWf_mk ?_)

theorem State.applyChainLoad_memWf {s : State} (h : s.MemWf) (core slot age k : Nat) (f : Frontier) (t : Triple)
    {drop : State → State} (hd : ∀ u, u.MemWf → (drop u).MemWf) : Out.Wf (s.applyChainLoad core slot age k f t drop) := by
  unfold State.applyChainLoad
  simp only []
  repeat' first
    | exact Out.wf_fault
    | (with_reducible first
        | assumption | refine Out.wf_next ?_ | refine Out.wf_need ?_ | refine Out.wf_needSome (fun _ => ?_)
        | apply State.modInst_memWf | apply State.loadReturn_memWf | apply State.loadFault_memWf | apply State.loadHeld_memWf
        | apply State.countConsumed_memWf | apply State.draw_memWf | apply State.setFrontier_memWf
        | refine State.memWf_modCore ?_ (fun _ hk => hk) | refine hd _ ?_)
    | split

theorem execChainArrival_memWf {s : State} (h : s.MemWf) (core : Nat) (n : Nat) :
    Out.Wf (execChainArrival core n s) := by
  unfold execChainArrival
  try simp only []
  repeat' first
    | (with_reducible first
        | assumption | refine Out.wf_next ?_ | refine Out.wf_need ?_ | refine Out.wf_needSome (fun _ => ?_)
        | apply State.record_memWf | apply State.loadFault_memWf
        | refine State.applyChainLoad_memWf ?_ _ _ _ _ _ _ (fun _ _ => ?_))
    | exact Out.wf_fault
    | (with_reducible first | refine State.memWf_modCore ?_ (fun _ hk => hk) | refine State.memWf_mkMap ?_ ?_)
    | exact fun _ hk => hk | split | (fail_if_no_progress with_reducible refine State.memWf_mk ?_)

theorem State.applyChainStore_memWf {s : State} (h : s.MemWf) (d : DEntry) :
    (State.applyChainStore s d).MemWf := by
  unfold State.applyChainStore
  try simp only []
  repeat' first
    | (with_reducible first
        | assumption | apply State.storeGlobal_memWf | apply State.modErr_memWf)
    | (with_reducible first | refine State.memWf_modCore ?_ (fun _ hk => hk) | refine State.memWf_mkMap ?_ ?_)
    | exact fun _ hk => hk | split | (fail_if_no_progress with_reducible refine State.memWf_mk ?_)

theorem execDresserApplication_memWf {s : State} (h : s.MemWf) (n : Nat) :
    Out.Wf (execDresserApplication n s) := by
  unfold execDresserApplication
  try simp only []
  repeat' first
    | (with_reducible first
        | assumption | refine Out.wf_next ?_ | refine Out.wf_need ?_ | refine Out.wf_needSome (fun _ => ?_)
        | apply State.dropPre_memWf | apply State.setFrontier_memWf
        | refine State.applyChainLoad_memWf ?_ _ _ _ _ _ _ (fun _ _ => ?_) | apply State.applyChainStore_memWf)
    | exact Out.wf_fault
    | (with_reducible first | refine State.memWf_modCore ?_ (fun _ hk => hk) | refine State.memWf_mkMap ?_ ?_)
    | exact fun _ hk => hk | split | (fail_if_no_progress with_reducible refine State.memWf_mk ?_)

theorem State.noteUe_memWf {s : State} (h : s.MemWf) (x : Fail) :
    (State.noteUe s x).MemWf := by
  unfold State.noteUe
  try simp only []
  repeat' first
    | (with_reducible first
        | assumption | apply State.modErr_memWf | apply State.ueGlobal_memWf | apply State.noteCarve_memWf)
    | (refine foldl_memWf ?_ (fun _ _ _ => ?_))
    | (with_reducible first | refine State.memWf_modCore ?_ (fun _ hk => hk) | refine State.memWf_mkMap ?_ ?_)
    | exact fun _ hk => hk | split | (fail_if_no_progress with_reducible refine State.memWf_mk ?_)

theorem State.writePieces_memWf {s : State} (h : s.MemWf) (chair : Nat) (l : List (Nat × Nat × Nat)) (v : Nat) :
    (s.writePieces chair l v).MemWf := by
  induction l generalizing s v with
  | nil => exact h
  | cons p r ih => exact ih (State.storeGlobal_memWf h _ _ _ _ _) _

theorem writeVa_memWf {s t : State} {chair asid : Nat} {user : Bool} {va n v : Nat} (he : writeVa s chair asid user va n v = .ok t)
    (h : s.MemWf) : t.MemWf := by
  unfold writeVa at he
  split at he
  · cases he
  · split at he
    · cases he
    · cases he
      exact State.writePieces_memWf h _ _ _

theorem poisonVa_memWf {s : State} (h : s.MemWf) (chair : Nat) (asid : Nat) (user : Bool) (va : Nat) (n : Nat) :
    (poisonVa s chair asid user va n).MemWf := by
  unfold poisonVa
  try simp only []
  repeat' first
    | (with_reducible first
        | assumption | apply State.poisonGlobal_memWf)
    | (refine foldl_memWf ?_ (fun _ _ _ => ?_))
    | (with_reducible first | refine State.memWf_modCore ?_ (fun _ hk => hk) | refine State.memWf_mkMap ?_ ?_)
    | exact fun _ hk => hk | split | (fail_if_no_progress with_reducible refine State.memWf_mk ?_)

theorem State.answerLaunch_memWf {s : State} (h : s.MemWf) (chair : Nat) (src : LaunchFrom) (status : Nat) :
    (State.answerLaunch s chair src status).MemWf := by
  unfold State.answerLaunch
  try simp only []
  repeat' first
    | (with_reducible first
        | assumption | apply State.modChair_memWf | apply State.completeCq_memWf)
    | (with_reducible first | refine State.memWf_modCore ?_ (fun _ hk => hk) | refine State.memWf_mkMap ?_ ?_)
    | exact fun _ hk => hk | split | (fail_if_no_progress with_reducible refine State.memWf_mk ?_)

theorem State.setQueueStatus_memWf {s : State} (h : s.MemWf) (chair : Nat) (n : Nat) (status : Nat) (badk : Option Nat) :
    (State.setQueueStatus s chair n status badk).MemWf := by
  unfold State.setQueueStatus
  try simp only []
  repeat' first
    | (with_reducible first
        | assumption | apply State.storeGlobal_memWf)
    | (with_reducible first | refine State.memWf_modCore ?_ (fun _ hk => hk) | refine State.memWf_mkMap ?_ ?_)
    | exact fun _ hk => hk | split | (fail_if_no_progress with_reducible refine State.memWf_mk ?_)

theorem State.takeUp_memWf {s : State} (h : s.MemWf) (chair : Nat) (src : LaunchFrom) : (s.takeUp chair src).2.MemWf := by
  unfold State.takeUp
  split
  · have h1 := State.modChair_memWf (State.draw_memWf h (freeIdx (s.chair chair).lt 0 4096).length) chair
    simp only []
    split
    · exact h1 _
    · split
      · exact State.storeGlobal_memWf (h1 _) _ _ _ _ _
      · exact State.setQueueStatus_memWf (State.noteCarve_memWf (State.ueGlobal_memWf (h1 _) _) _) _ _ _ _
  · exact h

theorem State.passPacket_memWf {s : State} (h : s.MemWf) (chair : Nat) (id : Option Nat) (src : LaunchFrom) :
    (State.passPacket s chair id src).MemWf := by
  unfold State.passPacket
  try simp only []
  repeat' first
    | (with_reducible first
        | assumption | apply State.modChair_memWf)
    | (with_reducible first | refine State.memWf_modCore ?_ (fun _ hk => hk) | refine State.memWf_mkMap ?_ ?_)
    | exact fun _ hk => hk | split | (fail_if_no_progress with_reducible refine State.memWf_mk ?_)

theorem State.refuseLaunch_memWf {s : State} (h : s.MemWf) (chair : Nat) (e : ArbEntry) (x : Fail) :
    (State.refuseLaunch s chair e x).MemWf := by
  unfold State.refuseLaunch
  try simp only []
  repeat' first
    | (with_reducible first
        | assumption | apply State.noteUe_memWf | apply State.answerLaunch_memWf | apply State.takeUp_memWf
        | apply State.passPacket_memWf)
    | (with_reducible first | refine State.memWf_modCore ?_ (fun _ hk => hk) | refine State.memWf_mkMap ?_ ?_)
    | exact fun _ hk => hk | split | (fail_if_no_progress with_reducible refine State.memWf_mk ?_)

theorem State.drawArea_memWf {s : State} (h : s.MemWf)  :
    (State.drawArea s).2.MemWf := by
  unfold State.drawArea
  try simp only []
  repeat' first
    | (with_reducible first
        | assumption | apply State.draw_memWf)
    | (with_reducible first | refine State.memWf_modCore ?_ (fun _ hk => hk) | refine State.memWf_mkMap ?_ ?_)
    | exact fun _ hk => hk | split | (fail_if_no_progress with_reducible refine State.memWf_mk ?_)

theorem State.acceptLaunch_memWf {s : State} (h : s.MemWf) (chair : Nat) (e : ArbEntry) (ctx : Nat) (runs : List (Nat × Nat)) :
    (State.acceptLaunch s chair e ctx runs).MemWf := by
  unfold State.acceptLaunch
  try simp only []
  repeat' first
    | (with_reducible first
        | assumption | apply State.setFrontier_memWf | apply State.takeUp_memWf | apply State.passPacket_memWf
        | apply State.drawArea_memWf)
    | (with_reducible first | refine State.memWf_modCore ?_ (fun _ hk => hk) | refine State.memWf_mkMap ?_ ?_)
    | exact fun _ hk => hk | split | (fail_if_no_progress with_reducible refine State.memWf_mk ?_)

theorem execContextSlotTake_memWf {s : State} (h : s.MemWf) (core : Nat) :
    Out.Wf (execContextSlotTake core s) := by
  unfold execContextSlotTake
  try simp only []
  repeat' first
    | (with_reducible first
        | assumption | refine Out.wf_next ?_ | refine Out.wf_need ?_ | refine Out.wf_needSome (fun _ => ?_)
        | apply State.loadChestRange_memWf)
    | exact Out.wf_fault
    | (with_reducible first | refine State.memWf_modCore ?_ (fun _ hk => hk) | refine State.memWf_mkMap ?_ ?_)
    | exact fun _ hk => hk | split | (fail_if_no_progress with_reducible refine State.memWf_mk ?_)

theorem execRootAdmission_memWf {s : State} (h : s.MemWf) (core : Nat) (idx : Nat) :
    Out.Wf (execRootAdmission core idx s) := by
  unfold execRootAdmission
  try simp only []
  repeat' first
    | (with_reducible first
        | assumption | refine Out.wf_next ?_ | refine Out.wf_need ?_ | refine Out.wf_needSome (fun _ => ?_)
        | apply State.modSlot_memWf)
    | exact Out.wf_fault
    | (with_reducible first | refine State.memWf_modCore ?_ (fun _ hk => hk) | refine State.memWf_mkMap ?_ ?_)
    | exact fun _ hk => hk | split | (fail_if_no_progress with_reducible refine State.memWf_mk ?_)

theorem execIterationStart_memWf {s : State} (h : s.MemWf) (core : Nat) (slot : Nat) (rec : Nat) (idx : Nat) :
    Out.Wf (execIterationStart core slot rec idx s) := by
  unfold execIterationStart
  try simp only []
  repeat' first
    | (with_reducible first
        | assumption | refine Out.wf_next ?_ | refine Out.wf_need ?_ | refine Out.wf_needSome (fun _ => ?_)
        | apply State.modSlot_memWf | apply State.perfEvent_memWf)
    | exact Out.wf_fault
    | (with_reducible first | refine State.memWf_modCore ?_ (fun _ hk => hk) | refine State.memWf_mkMap ?_ ?_)
    | exact fun _ hk => hk | split | (fail_if_no_progress with_reducible refine State.memWf_mk ?_)

theorem State.chestFree_memWf {s : State} (h : s.MemWf) (sl : Slot) (area va n : Nat) : (s.chestFree sl area va n).MemWf := by
  induction n generalizing s va with
  | zero => exact h
  | succ n ih =>
    refine ih ?_ _
    repeat' first | assumption | split | apply State.storeGlobal_memWf | apply State.draw_memWf

theorem zeroUnits_wf (units : List Nat) {m : Memory} (h : m.wf = true) :
    Memory.wf (units.foldl (fun m u => zeroBytes m (u * 0x4000) 0x4000) m) = true := by
  induction units generalizing m with
  | nil => exact h
  | cons u r ih => exact ih (Memory.filter_wf _ h)

theorem State.vacate_memWf {s : State} (h : s.MemWf) (core slot : Nat) (sl : Slot) : (s.vacate core slot sl).MemWf :=
  State.chestFree_memWf (State.memWf_modCore h fun _ hk => zeroUnits_wf sl.units hk) _ _ _ _

theorem State.finishLaunch_memWf {s : State} (h : s.MemWf) (id : Nat) :
    (State.finishLaunch s id).MemWf := by
  unfold State.finishLaunch
  try simp only []
  repeat' first
    | (with_reducible first
        | assumption | apply State.answerLaunch_memWf)
    | (with_reducible first | refine State.memWf_modCore ?_ (fun _ hk => hk) | refine State.memWf_mkMap ?_ ?_)
    | exact fun _ hk => hk | split | (fail_if_no_progress with_reducible refine State.memWf_mk ?_)

theorem execLaunchDispatch_memWf {s : State} (h : s.MemWf) (canvas : Nat) :
    Out.Wf (execLaunchDispatch canvas s) := by
  unfold execLaunchDispatch
  try simp only []
  repeat' first
    | (with_reducible first
        | assumption | refine Out.wf_next ?_ | refine Out.wf_need ?_ | refine Out.wf_needSome (fun _ => ?_)
        | apply State.modLaunch_memWf | apply State.finishLaunch_memWf)
    | (refine foldl_memWf ?_ (fun _ _ _ => ?_)) | exact Out.wf_fault
    | (with_reducible first | refine State.memWf_modCore ?_ (fun _ hk => hk) | refine State.memWf_mkMap ?_ ?_)
    | exact fun _ hk => hk | split | (fail_if_no_progress with_reducible refine State.memWf_mk ?_)

theorem execSlotRelease_memWf {s : State} (h : s.MemWf) (core : Nat) (slot : Nat) :
    Out.Wf (execSlotRelease core slot s) := by
  unfold execSlotRelease
  try simp only []
  repeat' first
    | (with_reducible first
        | assumption | refine Out.wf_next ?_ | refine Out.wf_need ?_ | refine Out.wf_needSome (fun _ => ?_)
        | apply State.vacate_memWf | apply State.finishLaunch_memWf)
    | exact Out.wf_fault
    | (with_reducible first | refine State.memWf_modCore ?_ (fun _ hk => hk) | refine State.memWf_mkMap ?_ ?_)
    | exact fun _ hk => hk | split | (fail_if_no_progress with_reducible refine State.memWf_mk ?_)

theorem State.stopEng_memWf {s : State} (h : s.MemWf) (core : Nat) (e : Eng) (status : Nat) (count : Nat) :
    (State.stopEng s core e status count).MemWf := by
  unfold State.stopEng
  try simp only []
  repeat' first
    | (with_reducible first
        | assumption | apply State.completeCq_memWf)
    | (with_reducible first | refine State.memWf_modCore ?_ (fun _ hk => hk) | refine State.memWf_mkMap ?_ ?_)
    | exact fun _ hk => hk | split | (fail_if_no_progress with_reducible refine State.memWf_mk ?_)

theorem State.applyAll_memWf {s : State} (h : s.MemWf) (core : Nat) (slot : Nat) (sl : Slot) :
    (State.applyAll s core slot sl).MemWf := by
  unfold State.applyAll
  try simp only []
  repeat' first
    | (with_reducible first
        | assumption | apply State.modSlot_memWf | apply State.applyStore_memWf)
    | (refine foldl_memWf ?_ (fun _ _ _ => ?_))
    | (with_reducible first | refine State.memWf_modCore ?_ (fun _ hk => hk) | refine State.memWf_mkMap ?_ ?_)
    | exact fun _ hk => hk | split | (fail_if_no_progress with_reducible refine State.memWf_mk ?_)

theorem State.freeBytes_memWf {s : State} (h : s.MemWf) (core : Nat) (sl : Slot) (off n : Nat) : (s.freeBytes core sl off n).MemWf := by
  induction n generalizing s off with
  | zero => exact h
  | succ n ih =>
    unfold State.freeBytes
    refine ih ?_ _
    split
    · exact h
    · exact State.storeLocal_memWf h _ _ _ _ _

theorem Eng.freeOut_memWf {s : State} (h : s.MemWf) (e : Eng) (core : Nat) (sl : Slot) :
    (Eng.freeOut e s core sl).MemWf := by
  unfold Eng.freeOut
  try simp only []
  repeat' first
    | (with_reducible first
        | assumption | apply State.freeBytes_memWf)
    | (refine foldl_memWf ?_ (fun _ _ _ => ?_))
    | (with_reducible first | refine State.memWf_modCore ?_ (fun _ hk => hk) | refine State.memWf_mkMap ?_ ?_)
    | exact fun _ hk => hk | split | (fail_if_no_progress with_reducible refine State.memWf_mk ?_)

theorem State.abortSlot_memWf {s : State} (h : s.MemWf) (core : Nat) (slot : Nat) (reset : Bool) :
    (State.abortSlot s core slot reset).MemWf := by
  unfold State.abortSlot
  try simp only []
  repeat' first
    | (with_reducible first
        | assumption | apply State.modSlot_memWf | apply State.discard_memWf | apply State.stopEng_memWf
        | apply State.applyAll_memWf | apply Eng.freeOut_memWf)
    | (refine foldl_memWf ?_ (fun _ _ _ => ?_))
    | (with_reducible first | refine State.memWf_modCore ?_ (fun _ hk => hk) | refine State.memWf_mkMap ?_ ?_)
    | exact fun _ hk => hk | split | (fail_if_no_progress with_reducible refine State.memWf_mk ?_)

theorem State.abort_memWf {s : State} (h : s.MemWf) (id : Nat) (code : Nat) :
    (State.abort s id code).MemWf := by
  unfold State.abort
  try simp only []
  repeat' first
    | (with_reducible first
        | assumption | apply State.modLaunch_memWf | apply State.finishLaunch_memWf | apply State.abortSlot_memWf)
    | (refine foldl_memWf ?_ (fun _ _ _ => ?_))
    | (with_reducible first | refine State.memWf_modCore ?_ (fun _ hk => hk) | refine State.memWf_mkMap ?_ ?_)
    | exact fun _ hk => hk | split | (fail_if_no_progress with_reducible refine State.memWf_mk ?_)

theorem execContextAbort_memWf {s : State} (h : s.MemWf) (launch : Nat) :
    Out.Wf (execContextAbort launch s) := by
  unfold execContextAbort
  try simp only []
  repeat' first
    | (with_reducible first
        | assumption | refine Out.wf_next ?_ | refine Out.wf_need ?_ | refine Out.wf_needSome (fun _ => ?_)
        | apply State.abort_memWf)
    | exact Out.wf_fault
    | (with_reducible first | refine State.memWf_modCore ?_ (fun _ hk => hk) | refine State.memWf_mkMap ?_ ?_)
    | exact fun _ hk => hk | split | (fail_if_no_progress with_reducible refine State.memWf_mk ?_)

theorem execFaultTaken_memWf {s : State} (h : s.MemWf) (core : Nat) (slot : Nat) (age : Nat) (n : Nat) :
    Out.Wf (execFaultTaken core slot age n s) := by
  unfold execFaultTaken
  try simp only []
  repeat' first
    | (with_reducible first
        | assumption | refine Out.wf_next ?_ | refine Out.wf_need ?_ | refine Out.wf_needSome (fun _ => ?_)
        | apply State.modStrand_memWf | apply State.modErr_memWf | apply State.discardFrom_memWf | apply State.abort_memWf)
    | exact Out.wf_fault
    | (with_reducible first | refine State.memWf_modCore ?_ (fun _ hk => hk) | refine State.memWf_mkMap ?_ ?_)
    | exact fun _ hk => hk | split | (fail_if_no_progress with_reducible refine State.memWf_mk ?_)

theorem State.noteRing_memWf {s : State} (h : s.MemWf) (base : Nat) :
    (State.noteRing s base).MemWf := by
  unfold State.noteRing
  try simp only []
  repeat' first
    | (with_reducible first
        | assumption | apply State.noteCarve_memWf)
    | (with_reducible first | refine State.memWf_modCore ?_ (fun _ hk => hk) | refine State.memWf_mkMap ?_ ?_)
    | exact fun _ hk => hk | split | (fail_if_no_progress with_reducible refine State.memWf_mk ?_)

theorem State.ringPush_memWf {s : State} (h : s.MemWf) (base n : Nat) (dws : List Word) : (s.ringPush base n dws).MemWf := by
  unfold State.ringPush
  exact State.hpaWrite_memWf (foldl_memWf h fun _ _ ht => State.hpaWrite_memWf ht _ _ _) _ _ _

theorem State.ringPop_memWf {s : State} (h : s.MemWf) (base : Nat) :
    (State.ringPop s base).MemWf := by
  unfold State.ringPop
  try simp only []
  repeat' first
    | (with_reducible first
        | assumption | apply State.hpaWrite_memWf)
    | (with_reducible first | refine State.memWf_modCore ?_ (fun _ hk => hk) | refine State.memWf_mkMap ?_ ?_)
    | exact fun _ hk => hk | split | (fail_if_no_progress with_reducible refine State.memWf_mk ?_)

theorem execFaultQueueRecord_memWf {s : State} (h : s.MemWf) (core : Nat) (n : Nat) :
    Out.Wf (execFaultQueueRecord core n s) := by
  unfold execFaultQueueRecord
  try simp only []
  repeat' first
    | (with_reducible first
        | assumption | refine Out.wf_next ?_ | refine Out.wf_need ?_ | refine Out.wf_needSome (fun _ => ?_)
        | apply State.draw_memWf | apply State.noteRing_memWf | apply State.ringPush_memWf)
    | exact Out.wf_fault
    | (with_reducible first | refine State.memWf_modCore ?_ (fun _ hk => hk) | refine State.memWf_mkMap ?_ ?_)
    | exact fun _ hk => hk | split | (fail_if_no_progress with_reducible refine State.memWf_mk ?_)

theorem State.passRecord_memWf {s : State} (h : s.MemWf) (core : Nat) (slot : Nat) (fid : Nat) :
    (State.passRecord s core slot fid).MemWf := by
  unfold State.passRecord
  try simp only []
  repeat' first
    | (with_reducible first
        | assumption | apply State.noteRing_memWf | apply State.ringPop_memWf)
    | (with_reducible first | refine State.memWf_modCore ?_ (fun _ hk => hk) | refine State.memWf_mkMap ?_ ?_)
    | exact fun _ hk => hk | split | (fail_if_no_progress with_reducible refine State.memWf_mk ?_)

theorem execFaultAnswer_memWf {s : State} (h : s.MemWf) (core : Nat) (slot : Nat) (fid : Nat) (wake : Bool) :
    Out.Wf (execFaultAnswer core slot fid wake s) := by
  unfold execFaultAnswer
  try simp only []
  repeat' first
    | (with_reducible first
        | assumption | refine Out.wf_next ?_ | refine Out.wf_need ?_ | refine Out.wf_needSome (fun _ => ?_)
        | apply State.modSlot_memWf | apply State.record_memWf | apply State.loadFails_memWf
        | apply State.passRecord_memWf)
    | exact Out.wf_fault
    | (with_reducible first | refine State.memWf_modCore ?_ (fun _ hk => hk) | refine State.memWf_mkMap ?_ ?_)
    | exact fun _ hk => hk | split | (fail_if_no_progress with_reducible refine State.memWf_mk ?_)

theorem State.modUnit_memWf {s : State} (h : s.MemWf) (u : ErrUnit) (f : ErrRec → ErrRec) :
    (State.modUnit s u f).MemWf := by
  unfold State.modUnit
  try simp only []
  repeat' first
    | (with_reducible first
        | assumption | apply State.modErr_memWf)
    | (with_reducible first | refine State.memWf_modCore ?_ (fun _ hk => hk) | refine State.memWf_mkMap ?_ ?_)
    | exact fun _ hk => hk | split | (fail_if_no_progress with_reducible refine State.memWf_mk ?_)

theorem State.corrected_memWf {s : State} (h : s.MemWf) (u : ErrUnit) (loc : Nat) :
    (State.corrected s u loc).MemWf := by
  unfold State.corrected
  try simp only []
  repeat' first
    | (with_reducible first
        | assumption | apply State.modUnit_memWf)
    | (with_reducible first | refine State.memWf_modCore ?_ (fun _ hk => hk) | refine State.memWf_mkMap ?_ ?_)
    | exact fun _ hk => hk | split | (fail_if_no_progress with_reducible refine State.memWf_mk ?_)

theorem State.poisonHbm_memWf {s : State} (h : s.MemWf) (a : Nat) :
    (State.poisonHbm s a).MemWf := by
  unfold State.poisonHbm
  try simp only []
  repeat' first
    | (with_reducible first
        | assumption)
    | (with_reducible first | refine State.memWf_modCore ?_ (fun _ hk => hk) | refine State.memWf_mkMap ?_ ?_)
    | exact fun _ hk => hk | split | (fail_if_no_progress with_reducible refine State.memWf_mk ?_)

theorem execPoisonDetected_memWf {s : State} (h : s.MemWf) (site : PoisonSite) :
    Out.Wf (execPoisonDetected site s) := by
  unfold execPoisonDetected
  try simp only []
  repeat' first
    | (with_reducible first
        | assumption | refine Out.wf_next ?_ | refine Out.wf_need ?_ | refine Out.wf_needSome (fun _ => ?_)
        | apply State.modInst_memWf | apply State.modErr_memWf | apply State.poisonHbm_memWf)
    | exact Out.wf_fault
    | (with_reducible first | refine State.memWf_modCore ?_ (fun _ hk => hk) | refine State.memWf_mkMap ?_ ?_)
    | exact fun _ hk => hk | split | (fail_if_no_progress with_reducible refine State.memWf_mk ?_)

theorem Eng.stop_memWf {s : State} (h : s.MemWf) (e : Eng) (x : Fail) (count : Nat) :
    (Eng.stop e s x count).1.MemWf := by
  unfold Eng.stop
  try simp only []
  repeat' first
    | (with_reducible first
        | assumption | apply State.noteUe_memWf)
    | (with_reducible first | refine State.memWf_modCore ?_ (fun _ hk => hk) | refine State.memWf_mkMap ?_ ?_)
    | exact fun _ hk => hk | split | (fail_if_no_progress with_reducible refine State.memWf_mk ?_)

theorem Eng.readDesc_memWf {s : State} (h : s.MemWf) (e : Eng) (core : Nat) (sl : Slot) (n : Nat) {k : Eng → EngOut}
    (hk : ∀ e, (k e).1.MemWf) : (e.readDesc s core sl n k).1.MemWf := by
  unfold Eng.readDesc
  simp only []
  split
  · exact Eng.stop_memWf h e _ _
  · exact hk _

theorem State.engineActed_memWf {s : State} (h : s.MemWf)  :
    (State.engineActed s).MemWf := by
  unfold State.engineActed
  try simp only []
  repeat' first
    | (with_reducible first
        | assumption)
    | (with_reducible first | refine State.memWf_modCore ?_ (fun _ hk => hk) | refine State.memWf_mkMap ?_ ?_)
    | exact fun _ hk => hk | split | (fail_if_no_progress with_reducible refine State.memWf_mk ?_)

theorem State.raiseSync_memWf {s t : State} {core : Nat} {sl : Slot} {off : Nat} (he : s.raiseSync core sl off = .ok t) (h : s.MemWf) :
    t.MemWf := by
  unfold State.raiseSync at he
  split at he <;> cases he
  exact State.storeLocal_memWf h _ _ _ _ _

theorem startCopy_memWf {s : State} (h : s.MemWf) (core : Nat) (sl : Slot) (e : Eng) :
    (startCopy s core sl e).1.MemWf := by
  unfold startCopy
  try simp only []
  repeat' first
    | (with_reducible first
        | assumption | refine Eng.readDesc_memWf ?_ _ _ _ _ (fun _ => ?_))
    | (with_reducible first | refine State.memWf_modCore ?_ (fun _ hk => hk) | refine State.memWf_mkMap ?_ ?_)
    | exact fun _ hk => hk | split | (fail_if_no_progress with_reducible refine State.memWf_mk ?_)

theorem Eng.writeDst_memWf {e : Eng} {s t : State} {sl : Slot} {off n v : Nat} (he : e.writeDst s sl off n v = .ok t)
    (h : s.MemWf) : t.MemWf := by
  unfold Eng.writeDst at he
  split at he
  · split at he
    · cases he
    · cases he
      exact State.storeLocal_memWf h _ _ _ _ _
  · exact writeVa_memWf he h

theorem Eng.poisonDst_memWf {s : State} (h : s.MemWf) (e : Eng) (sl : Slot) (off : Nat) (n : Nat) :
    (Eng.poisonDst e s sl off n).MemWf := by
  unfold Eng.poisonDst
  try simp only []
  repeat' first
    | (with_reducible first
        | assumption | apply State.poisonLocal_memWf | apply poisonVa_memWf)
    | (with_reducible first | refine State.memWf_modCore ?_ (fun _ hk => hk) | refine State.memWf_mkMap ?_ ?_)
    | exact fun _ hk => hk | split | (fail_if_no_progress with_reducible refine State.memWf_mk ?_)

theorem Eng.srcFail_memWf {s : State} (h : s.MemWf) (e : Eng) (sl : Slot) (off : Nat) (n : Nat) (x : Fail) (count : Nat) :
    (Eng.srcFail e s sl off n x count).1.MemWf := by
  unfold Eng.srcFail
  try simp only []
  repeat' first
    | (with_reducible first
        | assumption | apply Eng.stop_memWf | apply Eng.poisonDst_memWf)
    | (with_reducible first | refine State.memWf_modCore ?_ (fun _ hk => hk) | refine State.memWf_mkMap ?_ ?_)
    | exact fun _ hk => hk | split | (fail_if_no_progress with_reducible refine State.memWf_mk ?_)

theorem State.raiseFor_memWf {s t : State} {core : Nat} {sl : Slot} {e : Eng} (he : s.raiseFor core sl e = .ok t) (h : s.MemWf) :
    t.MemWf := by
  unfold State.raiseFor at he
  split at he
  · split at he
    · exact State.raiseSync_memWf he h
    · cases he; exact h
  · cases he; exact h

theorem unitCopy_memWf {s : State} (h : s.MemWf) (core : Nat) (sl : Slot) (e : Eng) (k : Nat) :
    (unitCopy s core sl e k).1.MemWf := by
  unfold unitCopy
  try simp only []
  repeat' first
    | (with_reducible first
        | assumption | apply Eng.stop_memWf | refine Eng.writeDst_memWf (by assumption) ?_ | apply Eng.srcFail_memWf
        | refine State.raiseFor_memWf (by assumption) ?_)
    | (with_reducible first | refine State.memWf_modCore ?_ (fun _ hk => hk) | refine State.memWf_mkMap ?_ ?_)
    | exact fun _ hk => hk | split | (fail_if_no_progress with_reducible refine State.memWf_mk ?_)

theorem Eng.keep1_memWf {s : State} (h : s.MemWf) (e : Eng) (core : Nat) (sl : Slot) (i x n : Nat) :
    (e.keep1 s core sl i x n).1.MemWf := by
  unfold Eng.keep1
  split
  · exact h
  · rename_i s1 h1
    have w1 := Eng.writeDst_memWf h1 h
    split
    · exact w1
    · rename_i s2 h2
      have w2 : s2.MemWf := by
        split at h2
        · cases h2; exact w1
        · exact writeVa_memWf h2 w1
      split
      · exact w2
      · rename_i s3 h3
        split at h3
        · exact State.raiseFor_memWf h3 w2
        · cases h3; exact w2

theorem Eng.keep_memWf (e : Eng) {s : State} (h : s.MemWf) (core : Nat) (sl : Slot) (l : List (Nat × Nat)) (n : Nat) :
    (e.keep s core sl l n).1.MemWf := by
  induction l generalizing s n with
  | nil => exact h
  | cons p r ih =>
    have h1 := Eng.keep1_memWf h e core sl p.1 p.2 n
    unfold Eng.keep
    split <;> rename_i hx <;> rw [hx] at h1
    · exact h1
    · exact ih h1 _

theorem Eng.keep_memWf_eq {e : Eng} {s t : State} {core : Nat} {sl : Slot} {l : List (Nat × Nat)} {n m : Nat} {o : Option Fail}
    (he : e.keep s core sl l n = (t, m, o)) (h : s.MemWf) : t.MemWf := by
  have := Eng.keep_memWf e h core sl l n
  rw [he] at this
  exact this

theorem unitComp_memWf {s : State} (h : s.MemWf) (core : Nat) (sl : Slot) (e : Eng) (k : Nat) :
    (unitComp s core sl e k).1.MemWf := by
  unfold unitComp
  try simp only []
  repeat' first
    | (with_reducible first
        | assumption | apply Eng.stop_memWf | apply Eng.srcFail_memWf | refine State.raiseFor_memWf (by assumption) ?_
        | refine Eng.keep_memWf_eq (by assumption) ?_)
    | (with_reducible first | refine State.memWf_modCore ?_ (fun _ hk => hk) | refine State.memWf_mkMap ?_ ?_)
    | exact fun _ hk => hk | split | (fail_if_no_progress with_reducible refine State.memWf_mk ?_)

theorem startScatter_memWf {s : State} (h : s.MemWf) (e : Eng) :
    (startScatter s e).1.MemWf := by
  unfold startScatter
  try simp only []
  repeat' first
    | (with_reducible first
        | assumption)
    | (with_reducible first | refine State.memWf_modCore ?_ (fun _ hk => hk) | refine State.memWf_mkMap ?_ ?_)
    | exact fun _ hk => hk | split | (fail_if_no_progress with_reducible refine State.memWf_mk ?_)

theorem unitScatter_memWf {s : State} (h : s.MemWf) (sl : Slot) (e : Eng) (k : Nat) :
    (unitScatter s sl e k).1.MemWf := by
  unfold unitScatter
  try simp only []
  repeat' first
    | (with_reducible first
        | assumption | apply State.storeGlobal_memWf | apply Eng.stop_memWf)
    | (with_reducible first | refine State.memWf_modCore ?_ (fun _ hk => hk) | refine State.memWf_mkMap ?_ ?_)
    | exact fun _ hk => hk | split | (fail_if_no_progress with_reducible refine State.memWf_mk ?_)

theorem unitSynci_memWf {s : State} (h : s.MemWf) (core : Nat) (sl : Slot) (e : Eng) :
    (unitSynci s core sl e).1.MemWf := by
  unfold unitSynci
  try simp only []
  repeat' first
    | (with_reducible first
        | assumption | apply State.storeLocal_memWf | apply Eng.stop_memWf)
    | (with_reducible first | refine State.memWf_modCore ?_ (fun _ hk => hk) | refine State.memWf_mkMap ?_ ?_)
    | exact fun _ hk => hk | split | (fail_if_no_progress with_reducible refine State.memWf_mk ?_)

theorem unitInv_memWf {s : State} (h : s.MemWf) (sl : Slot) (e : Eng) : (unitInv s sl e).1.MemWf := by
  unfold unitInv
  simp only []
  split
  · exact h
  · refine State.memWf_mkMap (State.memWf_mk h) ?_
    exact fun _ hk => hk

theorem startKvapp_memWf {s : State} (h : s.MemWf) (core : Nat) (sl : Slot) (e : Eng) :
    (startKvapp s core sl e).1.MemWf := by
  unfold startKvapp
  try simp only []
  repeat' first
    | (with_reducible first
        | assumption | apply Eng.stop_memWf | refine Eng.readDesc_memWf ?_ _ _ _ _ (fun _ => ?_))
    | (with_reducible first | refine State.memWf_modCore ?_ (fun _ hk => hk) | refine State.memWf_mkMap ?_ ?_)
    | exact fun _ hk => hk | split | (fail_if_no_progress with_reducible refine State.memWf_mk ?_)

theorem unitKvapp_memWf {s : State} (h : s.MemWf) (core : Nat) (sl : Slot) (e : Eng) (k : Nat) :
    (unitKvapp s core sl e k).1.MemWf := by
  unfold unitKvapp
  try simp only []
  repeat' first
    | (with_reducible first
        | assumption | refine writeVa_memWf (by assumption) ?_ | apply poisonVa_memWf | apply Eng.stop_memWf)
    | (with_reducible first | refine State.memWf_modCore ?_ (fun _ hk => hk) | refine State.memWf_mkMap ?_ ?_)
    | exact fun _ hk => hk | split | (fail_if_no_progress with_reducible refine State.memWf_mk ?_)

theorem startLaunch_memWf {s : State} (h : s.MemWf) (core : Nat) (sl : Slot) (e : Eng) :
    (startLaunch s core sl e).1.MemWf := by
  unfold startLaunch
  try simp only []
  repeat' first
    | (with_reducible first
        | assumption | apply Eng.stop_memWf)
    | (with_reducible first | refine State.memWf_modCore ?_ (fun _ hk => hk) | refine State.memWf_mkMap ?_ ?_)
    | exact fun _ hk => hk | split | (fail_if_no_progress with_reducible refine State.memWf_mk ?_)

theorem State.setBinding_memWf {s : State} (h : s.MemWf) (chair : Nat) (n : Nat) (b : Option Binding) :
    (State.setBinding s chair n b).MemWf := by
  unfold State.setBinding
  try simp only []
  repeat' first
    | (with_reducible first
        | assumption | apply State.modChair_memWf)
    | (with_reducible first | refine State.memWf_modCore ?_ (fun _ hk => hk) | refine State.memWf_mkMap ?_ ?_)
    | exact fun _ hk => hk | split | (fail_if_no_progress with_reducible refine State.memWf_mk ?_)

theorem startBind_memWf {s : State} (h : s.MemWf) (core : Nat) (sl : Slot) (e : Eng) :
    (startBind s core sl e).1.MemWf := by
  unfold startBind
  try simp only []
  repeat' first
    | (with_reducible first
        | assumption | apply Eng.stop_memWf | refine Eng.readDesc_memWf ?_ _ _ _ _ (fun _ => ?_)
        | apply State.setBinding_memWf)
    | (with_reducible first | refine State.memWf_modCore ?_ (fun _ hk => hk) | refine State.memWf_mkMap ?_ ?_)
    | exact fun _ hk => hk | split | (fail_if_no_progress with_reducible refine State.memWf_mk ?_)

theorem startUnbind_memWf {s : State} (h : s.MemWf) (sl : Slot) (e : Eng) :
    (startUnbind s sl e).1.MemWf := by
  unfold startUnbind
  try simp only []
  repeat' first
    | (with_reducible first
        | assumption | apply State.setBinding_memWf)
    | (with_reducible first | refine State.memWf_modCore ?_ (fun _ hk => hk) | refine State.memWf_mkMap ?_ ?_)
    | exact fun _ hk => hk | split | (fail_if_no_progress with_reducible refine State.memWf_mk ?_)

theorem startAttn_memWf {s : State} (h : s.MemWf) (core : Nat) (sl : Slot) (e : Eng) :
    (startAttn s core sl e).1.MemWf := by
  unfold startAttn
  try simp only []
  repeat' first
    | (with_reducible first
        | assumption | apply Eng.stop_memWf | refine Eng.readDesc_memWf ?_ _ _ _ _ (fun _ => ?_))
    | (with_reducible first | refine State.memWf_modCore ?_ (fun _ hk => hk) | refine State.memWf_mkMap ?_ ?_)
    | exact fun _ hk => hk | split | (fail_if_no_progress with_reducible refine State.memWf_mk ?_)

theorem Eng.rowSet_memWf {s : State} (h : s.MemWf) (e : Eng) (r : Nat) :
    (Eng.rowSet e s r).2.2.MemWf := by
  unfold Eng.rowSet
  try simp only []
  repeat' first
    | (with_reducible first
        | assumption | apply State.draw_memWf)
    | (with_reducible first | refine State.memWf_modCore ?_ (fun _ hk => hk) | refine State.memWf_mkMap ?_ ?_)
    | exact fun _ hk => hk | split | (fail_if_no_progress with_reducible refine State.memWf_mk ?_)

theorem Eng.kept_memWf {s : State} (h : s.MemWf) (e : Eng) (b : Binding) (score : Nat) (r : Nat) (j : Nat) (qlo : Nat) (qhi : Nat) :
    (Eng.kept e s b score r j qlo qhi).2.MemWf := by
  unfold Eng.kept
  try simp only []
  repeat' first
    | (with_reducible first
        | assumption | apply State.draw_memWf | apply Eng.rowSet_memWf)
    | (with_reducible first | refine State.memWf_modCore ?_ (fun _ hk => hk) | refine State.memWf_mkMap ?_ ?_)
    | exact fun _ hk => hk | split | (fail_if_no_progress with_reducible refine State.memWf_mk ?_)

theorem mergeFree_memWf (plain : Bool) (n : Nat) {s : State} (h : s.MemWf) (l : List Leaf) : (mergeFree plain n s l).2.MemWf := by
  induction n generalizing s l with
  | zero => exact h
  | succ n ih =>
    unfold mergeFree
    simp only []
    repeat' first | assumption | split | apply ih | apply State.draw_memWf

theorem Eng.leaves_memWf (e : Eng) (sl : Slot) (b : Binding) (r qlo qhi n j : Nat) {s : State} (h : s.MemWf) :
    (e.leaves sl b r qlo qhi n j s).2.MemWf := by
  induction n generalizing s j with
  | zero => exact h
  | succ n ih =>
    unfold Eng.leaves
    simp only []
    split
    · exact h
    · split
      · exact h
      · exact h
      · split
        · rename_i hx
          refine (congrArg (fun x => State.MemWf x.2) hx).mp ?_
          exact ih _ (Eng.kept_memWf h e b _ r j qlo qhi)
        · rename_i hx
          refine (congrArg (fun x => State.MemWf x.2) hx).mp ?_
          exact ih _ (Eng.kept_memWf h e b _ r j qlo qhi)

theorem Eng.leaves_memWf_eq {e : Eng} {sl : Slot} {b : Binding} {r qlo qhi n j : Nat} {s t : State}
    {x : Except Fail (List (Option Leaf))} (he : e.leaves sl b r qlo qhi n j s = (x, t)) (h : s.MemWf) : t.MemWf := by
  have := Eng.leaves_memWf e sl b r qlo qhi n j h
  rw [he] at this
  exact this

theorem AttnRow.result_memWf {s : State} (h : s.MemWf) (row : AttnRow) (b : Binding) :
    (AttnRow.result row b s).2.MemWf := by
  unfold AttnRow.result
  try simp only []
  repeat' first
    | (with_reducible first
        | assumption | apply mergeFree_memWf)
    | (refine foldl_memWf ?_ (fun _ _ _ => ?_))
    | (with_reducible first | refine State.memWf_modCore ?_ (fun _ hk => hk) | refine State.memWf_mkMap ?_ ?_)
    | exact fun _ hk => hk | split | (fail_if_no_progress with_reducible refine State.memWf_mk ?_)

theorem Eng.block_memWf {s : State} (h : s.MemWf) (e : Eng) (sl : Slot) (b : Binding) (r : Nat) (row : AttnRow) :
    (e.block s sl b r row).2.MemWf := by
  have := Eng.leaves_memWf e sl b r row.qlo row.qhi (min b.kbs (e.len - row.next * b.kbs)) (row.next * b.kbs) h
  unfold Eng.block
  simp only []
  split <;> rename_i hx <;> rw [hx] at this <;> exact this

theorem Eng.block_memWf_eq {e : Eng} {s t : State} {sl : Slot} {b : Binding} {r : Nat} {row : AttnRow} {x : Except Fail (Option Leaf)}
    (he : e.block s sl b r row = (x, t)) (h : s.MemWf) : t.MemWf := by
  have := Eng.block_memWf h e sl b r row
  rw [he] at this
  exact this

theorem Eng.rowBounds_memWf {s : State} (h : s.MemWf) (e : Eng) (r : Nat) (row : AttnRow) :
    (Eng.rowBounds e s r row).2.MemWf := by
  unfold Eng.rowBounds
  try simp only []
  repeat' first
    | (with_reducible first
        | assumption | apply Eng.rowSet_memWf)
    | (with_reducible first | refine State.memWf_modCore ?_ (fun _ hk => hk) | refine State.memWf_mkMap ?_ ?_)
    | exact fun _ hk => hk | split | (fail_if_no_progress with_reducible refine State.memWf_mk ?_)

theorem Eng.writeRow_memWf {s : State} (h : s.MemWf) (e : Eng) (core : Nat) (sl : Slot) (b : Binding) (r : Nat) (x : Option Leaf) :
    (Eng.writeRow e s core sl b r x).MemWf := by
  unfold Eng.writeRow
  try simp only []
  repeat' first
    | (with_reducible first
        | assumption | apply State.storeLocal_memWf)
    | (with_reducible first | refine State.memWf_modCore ?_ (fun _ hk => hk) | refine State.memWf_mkMap ?_ ?_)
    | exact fun _ hk => hk | split | (fail_if_no_progress with_reducible refine State.memWf_mk ?_)

theorem unitAttn_memWf {s : State} (h : s.MemWf) (core : Nat) (sl : Slot) (e : Eng) (r : Nat) :
    (unitAttn s core sl e r).1.MemWf := by
  unfold unitAttn
  try simp only []
  repeat' first
    | (with_reducible first
        | assumption | apply Eng.freeOut_memWf | apply Eng.stop_memWf | apply AttnRow.result_memWf
        | refine Eng.block_memWf_eq (by assumption) ?_ | apply Eng.rowBounds_memWf | apply Eng.writeRow_memWf)
    | (with_reducible first | refine State.memWf_modCore ?_ (fun _ hk => hk) | refine State.memWf_mkMap ?_ ?_)
    | exact fun _ hk => hk | split | (fail_if_no_progress with_reducible refine State.memWf_mk ?_)

theorem State.setDomain_memWf {s : State} (h : s.MemWf) (core : Nat) (d : Nat) (x : Domain) :
    (State.setDomain s core d x).MemWf := by
  unfold State.setDomain
  try simp only []
  repeat' first
    | (with_reducible first
        | assumption)
    | (with_reducible first | refine State.memWf_modCore ?_ (fun _ hk => hk) | refine State.memWf_mkMap ?_ ?_)
    | exact fun _ hk => hk | split | (fail_if_no_progress with_reducible refine State.memWf_mk ?_)

theorem owned_memWf {s : State} (h : s.MemWf) (core : Nat) (e : Eng) {body : Domain → EngOut} (hb : ∀ d, (body d).1.MemWf) :
    (owned s core e body).1.MemWf := by
  unfold owned
  simp only []
  split
  · first | exact hb _ | exact h
  · first | exact hb _ | exact h

theorem unitPdom_memWf {s : State} (h : s.MemWf) (core : Nat) (e : Eng) :
    (unitPdom s core e).1.MemWf := by
  unfold unitPdom
  try simp only []
  repeat' first
    | (with_reducible first
        | assumption | apply State.setDomain_memWf)
    | (with_reducible first | refine State.memWf_modCore ?_ (fun _ hk => hk) | refine State.memWf_mkMap ?_ ?_)
    | exact fun _ hk => hk | split | (fail_if_no_progress with_reducible refine State.memWf_mk ?_)

theorem unitPwr_memWf {s : State} (h : s.MemWf) (core : Nat) (f : FPwr) (e : Eng) :
    (unitPwr s core f e).1.MemWf := by
  unfold unitPwr
  try simp only []
  repeat' first
    | (with_reducible first
        | assumption | apply State.setDomain_memWf | refine owned_memWf ?_ _ _ (fun _ => ?_))
    | (with_reducible first | refine State.memWf_modCore ?_ (fun _ hk => hk) | refine State.memWf_mkMap ?_ ?_)
    | exact fun _ hk => hk | split | (fail_if_no_progress with_reducible refine State.memWf_mk ?_)

theorem unitPfeed_memWf {s : State} (h : s.MemWf) (core : Nat) (f : FFeed) (e : Eng) :
    (unitPfeed s core f e).1.MemWf := by
  unfold unitPfeed
  try simp only []
  repeat' first
    | (with_reducible first
        | assumption | apply State.setDomain_memWf | refine owned_memWf ?_ _ _ (fun _ => ?_))
    | (with_reducible first | refine State.memWf_modCore ?_ (fun _ hk => hk) | refine State.memWf_mkMap ?_ ?_)
    | exact fun _ hk => hk | split | (fail_if_no_progress with_reducible refine State.memWf_mk ?_)

theorem unitPstep_memWf {s : State} (h : s.MemWf) (core : Nat) (e : Eng) :
    (unitPstep s core e).1.MemWf := by
  unfold unitPstep
  try simp only []
  repeat' first
    | (with_reducible first
        | assumption | apply State.setDomain_memWf)
    | (with_reducible first | refine State.memWf_modCore ?_ (fun _ hk => hk) | refine State.memWf_mkMap ?_ ?_)
    | exact fun _ hk => hk | split | (fail_if_no_progress with_reducible refine State.memWf_mk ?_)

theorem unitPsave_memWf {s : State} (h : s.MemWf) (core : Nat) (sl : Slot) (e : Eng) :
    (unitPsave s core sl e).1.MemWf := by
  unfold unitPsave
  try simp only []
  repeat' first
    | (with_reducible first
        | assumption | apply State.storeLocal_memWf | refine owned_memWf ?_ _ _ (fun _ => ?_))
    | (with_reducible first | refine State.memWf_modCore ?_ (fun _ hk => hk) | refine State.memWf_mkMap ?_ ?_)
    | exact fun _ hk => hk | split | (fail_if_no_progress with_reducible refine State.memWf_mk ?_)

theorem unitPrest_memWf {s : State} (h : s.MemWf) (core : Nat) (sl : Slot) (e : Eng) :
    (unitPrest s core sl e).1.MemWf := by
  unfold unitPrest
  try simp only []
  repeat' first
    | (with_reducible first
        | assumption | apply Eng.stop_memWf | apply State.setDomain_memWf | refine owned_memWf ?_ _ _ (fun _ => ?_))
    | (with_reducible first | refine State.memWf_modCore ?_ (fun _ hk => hk) | refine State.memWf_mkMap ?_ ?_)
    | exact fun _ hk => hk | split | (fail_if_no_progress with_reducible refine State.memWf_mk ?_)

theorem startPatch_memWf {s : State} (h : s.MemWf) (sl : Slot) (e : Eng) :
    (startPatch s sl e).1.MemWf := by
  unfold startPatch
  try simp only []
  repeat' first
    | (with_reducible first
        | assumption | apply Eng.stop_memWf)
    | (with_reducible first | refine State.memWf_modCore ?_ (fun _ hk => hk) | refine State.memWf_mkMap ?_ ?_)
    | exact fun _ hk => hk | split | (fail_if_no_progress with_reducible refine State.memWf_mk ?_)

theorem unitPatch_memWf {s : State} (h : s.MemWf) (core : Nat) (e : Eng) :
    (unitPatch s core e).1.MemWf := by
  unfold unitPatch
  try simp only []
  repeat' first
    | (with_reducible first
        | assumption | apply State.setDomain_memWf | refine owned_memWf ?_ _ _ (fun _ => ?_))
    | (refine foldl_memWf ?_ (fun _ _ _ => ?_))
    | (with_reducible first | refine State.memWf_modCore ?_ (fun _ hk => hk) | refine State.memWf_mkMap ?_ ?_)
    | exact fun _ hk => hk | split | (fail_if_no_progress with_reducible refine State.memWf_mk ?_)

theorem evalStap_memWf {s : State} (h : s.MemWf) (core : Nat) (sl : Slot) (f : FStap) (e : Eng) (key : Nat) :
    (evalStap s core sl f e key).1.MemWf := by
  unfold evalStap
  try simp only []
  repeat' first
    | (with_reducible first
        | assumption | apply State.modSlot_memWf | apply State.perfEvent_memWf | apply State.noteGrant_memWf
        | apply Eng.stop_memWf)
    | (with_reducible first | refine State.memWf_modCore ?_ (fun _ hk => hk) | refine State.memWf_mkMap ?_ ?_)
    | exact fun _ hk => hk | split | (fail_if_no_progress with_reducible refine State.memWf_mk ?_)

theorem startStap_memWf {s : State} (h : s.MemWf) (core : Nat) (sl : Slot) (f : FStap) (e : Eng) :
    (startStap s core sl f e).1.MemWf := by
  unfold startStap
  try simp only []
  repeat' first
    | (with_reducible first
        | assumption | apply Eng.stop_memWf | apply evalStap_memWf)
    | (with_reducible first | refine State.memWf_modCore ?_ (fun _ hk => hk) | refine State.memWf_mkMap ?_ ?_)
    | exact fun _ hk => hk | split | (fail_if_no_progress with_reducible refine State.memWf_mk ?_)

theorem State.chairTrap_memWf {s : State} (h : s.MemWf) (chair : Nat) (rec : List Word) :
    (State.chairTrap s chair rec).MemWf := by
  unfold State.chairTrap
  try simp only []
  repeat' first
    | (with_reducible first
        | assumption | apply State.hpaWrite_memWf | apply State.noteRing_memWf | apply State.ringPush_memWf)
    | (with_reducible first | refine State.memWf_modCore ?_ (fun _ hk => hk) | refine State.memWf_mkMap ?_ ?_)
    | exact fun _ hk => hk | split | (fail_if_no_progress with_reducible refine State.memWf_mk ?_)

theorem State.setHold_memWf {s : State} (h : s.MemWf) (key : Nat) : (s.setHold key).MemWf :=
  State.memWf_mkHbm h (Memory.set_wf h.1 _ _)

theorem unitStap_memWf {s : State} (h : s.MemWf) (core : Nat) (sl : Slot) (f : FStap) (e : Eng) (k : Nat) :
    (unitStap s core sl f e k).1.MemWf := by
  unfold unitStap
  try simp only []
  repeat' first
    | (with_reducible first
        | assumption | apply State.noteUe_memWf | refine writeVa_memWf (by assumption) ?_ | apply State.chairTrap_memWf
        | apply State.setHold_memWf)
    | (with_reducible first | refine State.memWf_modCore ?_ (fun _ hk => hk) | refine State.memWf_mkMap ?_ ?_)
    | exact fun _ hk => hk | split | (fail_if_no_progress with_reducible refine State.memWf_mk ?_)

theorem startSmpl_memWf {s : State} (h : s.MemWf) (core : Nat) (sl : Slot) (f : FSmpl) (e : Eng) :
    (startSmpl s core sl f e).1.MemWf := by
  unfold startSmpl
  try simp only []
  repeat' first
    | (with_reducible first
        | assumption | apply State.noteGrant_memWf | apply Eng.stop_memWf
        | refine Eng.readDesc_memWf ?_ _ _ _ _ (fun _ => ?_))
    | (with_reducible first | refine State.memWf_modCore ?_ (fun _ hk => hk) | refine State.memWf_mkMap ?_ ?_)
    | exact fun _ hk => hk | split | (fail_if_no_progress with_reducible refine State.memWf_mk ?_)

theorem State.noteBitmap_memWf {s : State} (h : s.MemWf) (bmap : Nat) :
    (State.noteBitmap s bmap).MemWf := by
  unfold State.noteBitmap
  try simp only []
  repeat' first
    | (with_reducible first
        | assumption | apply State.noteCarve_memWf)
    | (with_reducible first | refine State.memWf_modCore ?_ (fun _ hk => hk) | refine State.memWf_mkMap ?_ ?_)
    | exact fun _ hk => hk | split | (fail_if_no_progress with_reducible refine State.memWf_mk ?_)

theorem smplResult_memWf {s : State} (h : s.MemWf) (core : Nat) (sl : Slot) (f : FSmpl) (e : Eng) :
    (smplResult s core sl f e).1.MemWf := by
  unfold smplResult
  try simp only []
  repeat' first
    | (with_reducible first
        | assumption | apply State.storeLocal_memWf | apply State.noteBitmap_memWf)
    | (with_reducible first | refine State.memWf_modCore ?_ (fun _ hk => hk) | refine State.memWf_mkMap ?_ ?_)
    | exact fun _ hk => hk | split | (fail_if_no_progress with_reducible refine State.memWf_mk ?_)

theorem unitSmpl_memWf {s : State} (h : s.MemWf) (core : Nat) (sl : Slot) (f : FSmpl) (e : Eng) (k : Nat) :
    (unitSmpl s core sl f e k).1.MemWf := by
  unfold unitSmpl
  try simp only []
  repeat' first
    | (with_reducible first
        | assumption | apply Eng.stop_memWf | apply smplResult_memWf)
    | (with_reducible first | refine State.memWf_modCore ?_ (fun _ hk => hk) | refine State.memWf_mkMap ?_ ?_)
    | exact fun _ hk => hk | split | (fail_if_no_progress with_reducible refine State.memWf_mk ?_)

theorem startSeqc_memWf {s : State} (h : s.MemWf) (core : Nat) (sl : Slot) (e : Eng) :
    (startSeqc s core sl e).1.MemWf := by
  unfold startSeqc
  try simp only []
  repeat' first
    | (with_reducible first
        | assumption | apply Eng.stop_memWf | refine Eng.readDesc_memWf ?_ _ _ _ _ (fun _ => ?_))
    | (with_reducible first | refine State.memWf_modCore ?_ (fun _ hk => hk) | refine State.memWf_mkMap ?_ ?_)
    | exact fun _ hk => hk | split | (fail_if_no_progress with_reducible refine State.memWf_mk ?_)

theorem commitTokens_memWf {s : State} (h : s.MemWf) (key : Nat) (stops : List Nat) (e : Eng) : (commitTokens s key stops e).1.MemWf := by
  unfold commitTokens
  refine State.memWf_mkHbm h ?_
  repeat' first | exact Memory.write_wf h.1 _ _ _ | apply Memory.write_wf | apply Memory.set_wf | split

theorem actSeqc_memWf {s : State} (h : s.MemWf) (chair : Nat) (key : Nat) (e : Eng) :
    (actSeqc s chair key e).1.MemWf := by
  unfold actSeqc
  try simp only []
  repeat' first
    | (with_reducible first
        | assumption | apply Eng.stop_memWf | apply commitTokens_memWf)
    | (with_reducible first | refine State.memWf_modCore ?_ (fun _ hk => hk) | refine State.memWf_mkMap ?_ ?_)
    | exact fun _ hk => hk | split | (fail_if_no_progress with_reducible refine State.memWf_mk ?_)

theorem execSeqcRetire_memWf {s : State} (h : s.MemWf) (core : Nat) (uid : Nat) :
    Out.Wf (execSeqcRetire core uid s) := by
  unfold execSeqcRetire
  try simp only []
  repeat' first
    | (with_reducible first
        | assumption | refine Out.wf_next ?_ | refine Out.wf_need ?_ | refine Out.wf_needSome (fun _ => ?_)
        | apply State.noteUe_memWf | apply State.engineActed_memWf | apply actSeqc_memWf)
    | exact Out.wf_fault
    | (with_reducible first | refine State.memWf_modCore ?_ (fun _ hk => hk) | refine State.memWf_mkMap ?_ ?_)
    | exact fun _ hk => hk | split | (fail_if_no_progress with_reducible refine State.memWf_mk ?_)

theorem startEng_memWf {s : State} (h : s.MemWf) (core : Nat) (sl : Slot) (e : Eng) :
    (startEng s core sl e).1.MemWf := by
  unfold startEng
  try simp only []
  repeat' first
    | (with_reducible first
        | assumption | apply startCopy_memWf | apply startScatter_memWf | apply startKvapp_memWf | apply startLaunch_memWf
        | apply startBind_memWf | apply startUnbind_memWf | apply startAttn_memWf | apply startPatch_memWf
        | apply startStap_memWf | apply startSmpl_memWf | apply startSeqc_memWf)
    | (with_reducible first | refine State.memWf_modCore ?_ (fun _ hk => hk) | refine State.memWf_mkMap ?_ ?_)
    | exact fun _ hk => hk | split | (fail_if_no_progress with_reducible refine State.memWf_mk ?_)

theorem unitEng_memWf {s : State} (h : s.MemWf) (core : Nat) (sl : Slot) (e : Eng) (k : Nat) :
    (unitEng s core sl e k).1.MemWf := by
  unfold unitEng
  try simp only []
  repeat' first
    | (with_reducible first
        | assumption | apply unitCopy_memWf | apply unitComp_memWf | apply unitScatter_memWf | apply unitSynci_memWf
        | apply unitInv_memWf | apply unitKvapp_memWf | apply unitAttn_memWf | apply unitPdom_memWf | apply unitPwr_memWf
        | apply unitPfeed_memWf | apply unitPstep_memWf | apply unitPsave_memWf | apply unitPrest_memWf
        | apply unitPatch_memWf | apply unitStap_memWf | apply unitSmpl_memWf)
    | (with_reducible first | refine State.memWf_modCore ?_ (fun _ hk => hk) | refine State.memWf_mkMap ?_ ?_)
    | exact fun _ hk => hk | split | (fail_if_no_progress with_reducible refine State.memWf_mk ?_)

theorem State.dropRoots_memWf {s : State} (h : s.MemWf) (chair : Nat) (e : Eng) :
    (State.dropRoots s chair e).MemWf := by
  unfold State.dropRoots
  try simp only []
  repeat' first
    | (with_reducible first
        | assumption)
    | (with_reducible first | refine State.memWf_modCore ?_ (fun _ hk => hk) | refine State.memWf_mkMap ?_ ?_)
    | exact fun _ hk => hk | split | (fail_if_no_progress with_reducible refine State.memWf_mk ?_)

theorem State.setEng_memWf {s : State} (h : s.MemWf) (core : Nat) (e : Eng) :
    (State.setEng s core e).MemWf := by
  unfold State.setEng
  try simp only []
  repeat' first
    | (with_reducible first
        | assumption)
    | (with_reducible first | refine State.memWf_modCore ?_ (fun _ hk => hk) | refine State.memWf_mkMap ?_ ?_)
    | exact fun _ hk => hk | split | (fail_if_no_progress with_reducible refine State.memWf_mk ?_)

theorem State.dropEng_memWf {s : State} (h : s.MemWf) (core : Nat) (e : Eng) :
    (State.dropEng s core e).MemWf := by
  unfold State.dropEng
  try simp only []
  repeat' first
    | (with_reducible first
        | assumption)
    | (with_reducible first | refine State.memWf_modCore ?_ (fun _ hk => hk) | refine State.memWf_mkMap ?_ ?_)
    | exact fun _ hk => hk | split | (fail_if_no_progress with_reducible refine State.memWf_mk ?_)

theorem State.finishEng_memWf {s : State} (h : s.MemWf) (core : Nat) (e : Eng) :
    (State.finishEng s core e).MemWf := by
  unfold State.finishEng
  try simp only []
  repeat' first
    | (with_reducible first
        | assumption | apply State.draw_memWf | apply State.completeCq_memWf | apply State.dropEng_memWf)
    | (with_reducible first | refine State.memWf_modCore ?_ (fun _ hk => hk) | refine State.memWf_mkMap ?_ ?_)
    | exact fun _ hk => hk | split | (fail_if_no_progress with_reducible refine State.memWf_mk ?_)

theorem finish_memWf {s : State} (h : s.MemWf) (core : Nat) (sl : Slot) (e : Eng) :
    Out.Wf (finish s core sl e) := by
  unfold finish
  try simp only []
  repeat' first
    | (with_reducible first
        | assumption | refine Out.wf_next ?_ | refine Out.wf_need ?_ | refine Out.wf_needSome (fun _ => ?_)
        | apply State.dropRoots_memWf | apply State.dropEng_memWf | apply State.finishEng_memWf)
    | exact Out.wf_fault
    | (with_reducible first | refine State.memWf_modCore ?_ (fun _ hk => hk) | refine State.memWf_mkMap ?_ ?_)
    | exact fun _ hk => hk | split | (fail_if_no_progress with_reducible refine State.memWf_mk ?_)

theorem execEngineCompletion_memWf {s : State} (h : s.MemWf) (core : Nat) (uid : Nat) (act : EngAct) :
    Out.Wf (execEngineCompletion core uid act s) := by
  unfold execEngineCompletion
  try simp only []
  repeat' first
    | (with_reducible first
        | assumption | refine Out.wf_next ?_ | refine Out.wf_need ?_ | refine Out.wf_needSome (fun _ => ?_)
        | apply State.engineActed_memWf | apply unitEng_memWf | apply State.setEng_memWf | apply finish_memWf)
    | exact Out.wf_fault
    | (with_reducible first | refine State.memWf_modCore ?_ (fun _ hk => hk) | refine State.memWf_mkMap ?_ ?_)
    | exact fun _ hk => hk | split | (fail_if_no_progress with_reducible refine State.memWf_mk ?_)

theorem State.seeing_memWf {s : State} (h : s.MemWf) (core : Nat) (sl : Slot) (ps : List PStore) :
    (State.seeing s core sl ps).MemWf := by
  unfold State.seeing
  try simp only []
  repeat' first
    | (with_reducible first
        | assumption | apply State.storeGlobal_memWf | apply State.storeLocal_memWf)
    | (refine foldl_memWf ?_ (fun _ _ _ => ?_))
    | (with_reducible first | refine State.memWf_modCore ?_ (fun _ hk => hk) | refine State.memWf_mkMap ?_ ?_)
    | exact fun _ hk => hk | split | (fail_if_no_progress with_reducible refine State.memWf_mk ?_)

theorem State.withMemory_memWf {s t : State} (h : s.MemWf) (ht : t.MemWf) (core : Nat) : (s.withMemory t core).MemWf :=
  ⟨ht.1, State.forall_modCore core h.2 fun _ _ => (State.memWf_iff.mp ht).2 core⟩

theorem State.drawPart_memWf {s : State} (h : s.MemWf) (l : List PStore) : (s.drawPart l).2.MemWf := by
  induction l generalizing s with
  | nil => exact h
  | cons p r ih => exact ih (State.draw_memWf h 2)

theorem State.seenBy_memWf {s : State} (h : s.MemWf) (sl : Slot) (e : Eng) :
    (State.seenBy s sl e).2.MemWf := by
  unfold State.seenBy
  try simp only []
  repeat' first
    | (with_reducible first
        | assumption | apply State.drawPart_memWf)
    | (with_reducible first | refine State.memWf_modCore ?_ (fun _ hk => hk) | refine State.memWf_mkMap ?_ ?_)
    | exact fun _ hk => hk | split | (fail_if_no_progress with_reducible refine State.memWf_mk ?_)

theorem State.issueEng_memWf {s : State} (h : s.MemWf) (core : Nat) (sl : Slot) (e : Eng) :
    (State.issueEng s core sl e).1.MemWf := by
  unfold State.issueEng
  try simp only []
  repeat' first
    | (with_reducible first
        | assumption | apply startEng_memWf | apply State.seeing_memWf | apply State.withMemory_memWf
        | apply State.seenBy_memWf)
    | (with_reducible first | refine State.memWf_modCore ?_ (fun _ hk => hk) | refine State.memWf_mkMap ?_ ?_)
    | exact fun _ hk => hk | split | (fail_if_no_progress with_reducible refine State.memWf_mk ?_)

theorem State.addEng_memWf {s : State} (h : s.MemWf) (core : Nat) (e : Eng) :
    (State.addEng s core e).MemWf := by
  unfold State.addEng
  try simp only []
  repeat' first
    | (with_reducible first
        | assumption)
    | (with_reducible first | refine State.memWf_modCore ?_ (fun _ hk => hk) | refine State.memWf_mkMap ?_ ?_)
    | exact fun _ hk => hk | split | (fail_if_no_progress with_reducible refine State.memWf_mk ?_)

theorem State.issueOrHold_memWf {s : State} (h : s.MemWf) (core : Nat) (sl : Slot) (e : Eng) :
    (State.issueOrHold s core sl e).MemWf := by
  unfold State.issueOrHold
  try simp only []
  repeat' first
    | (with_reducible first
        | assumption | apply State.perfEvent_memWf | apply State.issueEng_memWf | apply State.addEng_memWf)
    | (with_reducible first | refine State.memWf_modCore ?_ (fun _ hk => hk) | refine State.memWf_mkMap ?_ ?_)
    | exact fun _ hk => hk | split | (fail_if_no_progress with_reducible refine State.memWf_mk ?_)

theorem State.issue_memWf {s : State} (h : s.MemWf) (core : Nat) (slot : Nat) (sl : Slot) (i : Inst) (t : Strand) (p : PEng) :
    (State.issue s core slot sl i t p).MemWf := by
  unfold State.issue
  try simp only []
  repeat' first
    | (with_reducible first
        | assumption | apply State.issueOrHold_memWf)
    | (with_reducible first | refine State.memWf_modCore ?_ (fun _ hk => hk) | refine State.memWf_mkMap ?_ ?_)
    | exact fun _ hk => hk | split | (fail_if_no_progress with_reducible refine State.memWf_mk ?_)

theorem execHeldCommandIssue_memWf {s : State} (h : s.MemWf) (core : Nat) :
    Out.Wf (execHeldCommandIssue core s) := by
  unfold execHeldCommandIssue
  try simp only []
  repeat' first
    | (with_reducible first
        | assumption | refine Out.wf_next ?_ | refine Out.wf_need ?_ | refine Out.wf_needSome (fun _ => ?_)
        | apply State.dropEng_memWf | apply State.issueEng_memWf | apply State.issueOrHold_memWf)
    | exact Out.wf_fault
    | (with_reducible first | refine State.memWf_modCore ?_ (fun _ hk => hk) | refine State.memWf_mkMap ?_ ?_)
    | exact fun _ hk => hk | split | (fail_if_no_progress with_reducible refine State.memWf_mk ?_)

theorem State.promote_memWf {s : State} (h : s.MemWf) (core : Nat) (slot : Nat) (uid : Nat) :
    (State.promote s core slot uid).MemWf := by
  unfold State.promote
  try simp only []
  repeat' first
    | (with_reducible first
        | assumption)
    | (with_reducible first | refine State.memWf_modCore ?_ (fun _ hk => hk) | refine State.memWf_mkMap ?_ ?_)
    | exact fun _ hk => hk | split | (fail_if_no_progress with_reducible refine State.memWf_mk ?_)

theorem State.commit_memWf {s : State} (h : s.MemWf) (core slot : Nat) (sl : Slot) (i : Inst) : (s.commit core slot sl i).MemWf := by
  unfold State.commit
  simp only []
  repeat' first
    | (with_reducible first
        | assumption | apply State.perfEvent_memWf | apply State.discardFrom_memWf | apply State.dropCode_memWf
        | apply State.modSlot_memWf | apply State.modStrand_memWf | apply State.strandActs_memWf | apply State.issue_memWf
        | apply State.modArrays_memWf | apply State.csrWrites_memWf | apply State.countRows_memWf | apply State.promote_memWf
        | refine foldl_memWf ?_ (fun _ _ _ => ?_) | refine State.memWf_modCore ?_ ?_)
    | exact fun _ hk => hk | split

theorem State.commitNow_memWf {s : State} (h : s.MemWf) (core : Nat) (slot : Nat) (age : Nat) :
    (State.commitNow s core slot age).MemWf := by
  unfold State.commitNow
  try simp only []
  repeat' first
    | (with_reducible first
        | assumption | apply State.record_memWf | apply State.commit_memWf)
    | (with_reducible first | refine State.memWf_modCore ?_ (fun _ hk => hk) | refine State.memWf_mkMap ?_ ?_)
    | exact fun _ hk => hk | split | (fail_if_no_progress with_reducible refine State.memWf_mk ?_)

theorem State.commitDirect_memWf {s : State} (h : s.MemWf) (core : Nat) (slot : Nat) (sl : Slot) (i : Inst) (ps : List PStore) :
    (State.commitDirect s core slot sl i ps).MemWf := by
  unfold State.commitDirect
  try simp only []
  repeat' first
    | (with_reducible first
        | assumption | apply State.modSlot_memWf | apply State.record_memWf | apply State.dropPre_memWf
        | apply State.applyDirect_memWf | apply State.beginCommit_memWf | apply State.commitNow_memWf)
    | (with_reducible first | refine State.memWf_modCore ?_ (fun _ hk => hk) | refine State.memWf_mkMap ?_ ?_)
    | exact fun _ hk => hk | split | (fail_if_no_progress with_reducible refine State.memWf_mk ?_)

theorem State.commitFirst_memWf {s : State} (h : s.MemWf) (core : Nat) (slot : Nat) (sl : Slot) (t : Strand) (i : Inst) (ps : List PStore) :
    Out.Wf (State.commitFirst s core slot sl t i ps) := by
  unfold State.commitFirst
  try simp only []
  repeat' first
    | (with_reducible first
        | assumption | refine Out.wf_next ?_ | refine Out.wf_need ?_ | refine Out.wf_needSome (fun _ => ?_)
        | apply State.modInst_memWf | apply State.amoFault_memWf | apply State.noteTaps_memWf
        | apply State.beginCommit_memWf | apply State.commitNow_memWf | apply State.commitDirect_memWf)
    | exact Out.wf_fault
    | (with_reducible first | refine State.memWf_modCore ?_ (fun _ hk => hk) | refine State.memWf_mkMap ?_ ?_)
    | exact fun _ hk => hk | split | (fail_if_no_progress with_reducible refine State.memWf_mk ?_)

theorem execBlockCommit_memWf {s : State} (h : s.MemWf) (core : Nat) (slot : Nat) (age : Nat) :
    Out.Wf (execBlockCommit core slot age s) := by
  unfold execBlockCommit
  try simp only []
  repeat' first
    | (with_reducible first
        | assumption | refine Out.wf_next ?_ | refine Out.wf_need ?_ | refine Out.wf_needSome (fun _ => ?_)
        | apply State.perfEvent_memWf | apply State.noteTrans_memWf | apply State.record_memWf
        | refine State.rewalks_memWf_eq (by assumption) ?_ | apply State.commitNow_memWf | apply State.commitFirst_memWf)
    | exact Out.wf_fault
    | (with_reducible first | refine State.memWf_modCore ?_ (fun _ hk => hk) | refine State.memWf_mkMap ?_ ?_)
    | exact fun _ hk => hk | split | (fail_if_no_progress with_reducible refine State.memWf_mk ?_)

theorem State.poisonImage_memWf {s : State} (h : s.MemWf) (core : Nat) (sl : Slot) (area : Nat) (key : Nat) :
    (State.poisonImage s core sl area key).MemWf := by
  unfold State.poisonImage
  try simp only []
  repeat' first
    | (with_reducible first
        | assumption | apply State.poisonGlobal_memWf)
    | (refine foldl_memWf ?_ (fun _ _ _ => ?_))
    | (with_reducible first | refine State.memWf_modCore ?_ (fun _ hk => hk) | refine State.memWf_mkMap ?_ ?_)
    | exact fun _ hk => hk | split | (fail_if_no_progress with_reducible refine State.memWf_mk ?_)

theorem State.writeImage_memWf {s : State} (h : s.MemWf) (core : Nat) (sl : Slot) (area key : Nat) (words : List (Nat × Word)) :
    (s.writeImage core sl area key words).MemWf := by
  unfold State.writeImage
  refine State.poisonImage_memWf (State.memWf_mkHbm h ?_) _ _ _ _
  refine foldl_set_wf _ _ _ (foldl_write_wf _ _ _ _ (Memory.filter_wf _ h.1))

theorem execTimeSliceExpiry_memWf {s : State} (h : s.MemWf) (launch : Nat) (waiter : Nat) :
    Out.Wf (execTimeSliceExpiry launch waiter s) := by
  unfold execTimeSliceExpiry
  try simp only []
  repeat' first
    | (with_reducible first
        | assumption | refine Out.wf_next ?_ | refine Out.wf_need ?_ | refine Out.wf_needSome (fun _ => ?_)
        | apply State.modLaunch_memWf)
    | exact Out.wf_fault
    | (with_reducible first | refine State.memWf_modCore ?_ (fun _ hk => hk) | refine State.memWf_mkMap ?_ ?_)
    | exact fun _ hk => hk | split | (fail_if_no_progress with_reducible refine State.memWf_mk ?_)

theorem State.evictSlot_memWf {s : State} (h : s.MemWf) (l : Launch) (core slot : Nat) : (s.evictSlot l core slot).MemWf := by
  unfold State.evictSlot
  split
  · exact h
  · rename_i sl _
    simp only []
    have h1 : (sl.insts.foldl (fun (s : State) i => s.discard core slot i.age) s).MemWf :=
      foldl_memWf h fun _ _ ht => State.discard_memWf ht _ _ _
    split
    · exact State.modSlot_memWf h1 _ _ _
    · refine State.vacate_memWf (State.memWf_modCore (State.memWf_mk (State.writeImage_memWf (State.modSlot_memWf h1 _ _ _) _ _ _ _ _)) ?_) _ _ _
      exact fun _ hk => hk

theorem execEviction_memWf {s : State} (h : s.MemWf) (launch : Nat) :
    Out.Wf (execEviction launch s) := by
  unfold execEviction
  try simp only []
  repeat' first
    | (with_reducible first
        | assumption | refine Out.wf_next ?_ | refine Out.wf_need ?_ | refine Out.wf_needSome (fun _ => ?_)
        | apply State.modLaunch_memWf | apply State.evictSlot_memWf)
    | (refine foldl_memWf ?_ (fun _ _ _ => ?_)) | exact Out.wf_fault
    | (with_reducible first | refine State.memWf_modCore ?_ (fun _ hk => hk) | refine State.memWf_mkMap ?_ ?_)
    | exact fun _ hk => hk | split | (fail_if_no_progress with_reducible refine State.memWf_mk ?_)

theorem State.restorePartition_memWf {s : State} (h : s.MemWf) (x : SaveImage) (sl : Slot) : (s.restorePartition x sl).MemWf :=
  State.memWf_modCore h fun _ hk => foldl_set_wf _ _ _ hk

theorem restoreTiles_memWf {s : State} (h : s.MemWf) (sl : Slot) (user : Bool) (l : List WTile) :
    (restoreTiles s sl user l).1.MemWf := by
  induction l generalizing s with
  | nil => exact h
  | cons t r ih =>
    unfold restoreTiles
    split
    · exact ih h
    · split
      · exact h
      · exact ih (State.draw_memWf h 2)

theorem restoreTiles_memWf_eq {s t : State} {sl : Slot} {user : Bool} {l : List WTile} {x : Except Fail (List WTile)}
    (he : restoreTiles s sl user l = (t, x)) (h : s.MemWf) : t.MemWf := by
  have := restoreTiles_memWf h sl user l
  rw [he] at this
  exact this

theorem State.restoreArray_memWf {s : State} (h : s.MemWf) (core : Nat) (sl : Slot) (user : Bool) (a : SysArray) :
    (State.restoreArray s core sl user a).MemWf := by
  unfold State.restoreArray
  try simp only []
  repeat' first
    | (with_reducible first
        | assumption | apply State.modChair_memWf | apply State.modArrays_memWf | apply State.noteUe_memWf
        | refine restoreTiles_memWf_eq (by assumption) ?_)
    | (with_reducible first | refine State.memWf_modCore ?_ (fun _ hk => hk) | refine State.memWf_mkMap ?_ ?_)
    | exact fun _ hk => hk | split | (fail_if_no_progress with_reducible refine State.memWf_mk ?_)

theorem State.restoreImage_memWf {s : State} (h : s.MemWf) (l : Launch) (x : SaveImage) : (s.restoreImage l x).MemWf := by
  unfold State.restoreImage
  simp only []
  refine State.loadChestRange_memWf (State.memWf_mk (foldl_memWf (State.restorePartition_memWf ?_ _ _)
    fun t a ht => State.restoreArray_memWf ht _ _ _ a)) _ _
  exact State.memWf_modCore h fun _ hk => hk

theorem State.ueImages_memWf {s : State} (h : s.MemWf) (l : List SaveImage) :
    (State.ueImages s l).MemWf := by
  unfold State.ueImages
  try simp only []
  repeat' first
    | (with_reducible first
        | assumption | apply State.ueGlobal_memWf)
    | (with_reducible first | refine State.memWf_modCore ?_ (fun _ hk => hk) | refine State.memWf_mkMap ?_ ?_)
    | exact fun _ hk => hk | split | (fail_if_no_progress with_reducible refine State.memWf_mk ?_)

theorem execContextResume_memWf {s : State} (h : s.MemWf) (launch : Nat) :
    Out.Wf (execContextResume launch s) := by
  unfold execContextResume
  try simp only []
  repeat' first
    | (with_reducible first
        | assumption | refine Out.wf_next ?_ | refine Out.wf_need ?_ | refine Out.wf_needSome (fun _ => ?_)
        | apply State.modLaunch_memWf | apply State.abort_memWf | apply State.restoreImage_memWf
        | apply State.ueImages_memWf)
    | (refine foldl_memWf ?_ (fun _ _ _ => ?_)) | exact Out.wf_fault
    | (with_reducible first | refine State.memWf_modCore ?_ (fun _ hk => hk) | refine State.memWf_mkMap ?_ ?_)
    | exact fun _ hk => hk | split | (fail_if_no_progress with_reducible refine State.memWf_mk ?_)

theorem State.stopQueues_memWf {s : State} (h : s.MemWf) (chair : Nat) :
    (State.stopQueues s chair).MemWf := by
  unfold State.stopQueues
  try simp only []
  repeat' first
    | (with_reducible first
        | assumption | apply State.setQueueStatus_memWf)
    | (refine foldl_memWf ?_ (fun _ _ _ => ?_))
    | (with_reducible first | refine State.memWf_modCore ?_ (fun _ hk => hk) | refine State.memWf_mkMap ?_ ?_)
    | exact fun _ hk => hk | split | (fail_if_no_progress with_reducible refine State.memWf_mk ?_)

theorem State.respond_memWf {s : State} (h : s.MemWf) (chair : Nat) (m : ReqMsg) (status : Nat) (data : List Byte) :
    (State.respond s chair m status data).MemWf := by
  unfold State.respond
  try simp only []
  repeat' first
    | (with_reducible first
        | assumption)
    | (with_reducible first | refine State.memWf_modCore ?_ (fun _ hk => hk) | refine State.memWf_mkMap ?_ ?_)
    | exact fun _ hk => hk | split | (fail_if_no_progress with_reducible refine State.memWf_mk ?_)

theorem State.resetSlot_memWf {s : State} (h : s.MemWf) (core : Nat) (slot : Nat) :
    (State.resetSlot s core slot).MemWf := by
  unfold State.resetSlot
  try simp only []
  repeat' first
    | (with_reducible first
        | assumption | apply State.vacate_memWf | apply State.abortSlot_memWf)
    | (with_reducible first | refine State.memWf_modCore ?_ (fun _ hk => hk) | refine State.memWf_mkMap ?_ ?_)
    | exact fun _ hk => hk | split | (fail_if_no_progress with_reducible refine State.memWf_mk ?_)

theorem State.resetLaunch_memWf {s : State} (h : s.MemWf) (l : Launch) :
    (State.resetLaunch s l).MemWf := by
  unfold State.resetLaunch
  try simp only []
  repeat' first
    | (with_reducible first
        | assumption | apply State.modLaunch_memWf | apply State.finishLaunch_memWf | apply State.abort_memWf
        | apply State.resetSlot_memWf)
    | (refine foldl_memWf ?_ (fun _ _ _ => ?_))
    | (with_reducible first | refine State.memWf_modCore ?_ (fun _ hk => hk) | refine State.memWf_mkMap ?_ ?_)
    | exact fun _ hk => hk | split | (fail_if_no_progress with_reducible refine State.memWf_mk ?_)

theorem execChairReset_memWf {s : State} (h : s.MemWf) (chair : Nat) :
    Out.Wf (execChairReset chair s) := by
  unfold execChairReset
  try simp only []
  repeat' first
    | (with_reducible first
        | assumption | refine Out.wf_next ?_ | refine Out.wf_need ?_ | refine Out.wf_needSome (fun _ => ?_)
        | apply State.modChair_memWf | apply State.setQueueStatus_memWf | apply State.stopQueues_memWf
        | apply State.respond_memWf | apply State.resetLaunch_memWf)
    | (refine foldl_memWf ?_ (fun _ _ _ => ?_)) | exact Out.wf_fault
    | (with_reducible first | refine State.memWf_modCore ?_ (fun _ hk => hk) | refine State.memWf_mkMap ?_ ?_)
    | exact fun _ hk => hk | split | (fail_if_no_progress with_reducible refine State.memWf_mk ?_)

theorem execChairEnableWrite_memWf {s : State} (h : s.MemWf) (chair : Nat) (en : Bool) :
    Out.Wf (execChairEnableWrite chair en s) := by
  unfold execChairEnableWrite
  try simp only []
  repeat' first
    | (with_reducible first
        | assumption | refine Out.wf_next ?_ | refine Out.wf_need ?_ | refine Out.wf_needSome (fun _ => ?_)
        | apply State.modChair_memWf | apply State.setQueueStatus_memWf | apply State.stopQueues_memWf)
    | (refine foldl_memWf ?_ (fun _ _ _ => ?_)) | exact Out.wf_fault
    | (with_reducible first | refine State.memWf_modCore ?_ (fun _ hk => hk) | refine State.memWf_mkMap ?_ ?_)
    | exact fun _ hk => hk | split | (fail_if_no_progress with_reducible refine State.memWf_mk ?_)

theorem execPrimaxWrite_memWf {s : State} (h : s.MemWf) (chair : Nat) (primax : BitVec 3) :
    Out.Wf (execPrimaxWrite chair primax s) := by
  unfold execPrimaxWrite
  try simp only []
  repeat' first
    | (with_reducible first
        | assumption | refine Out.wf_next ?_ | refine Out.wf_need ?_ | refine Out.wf_needSome (fun _ => ?_)
        | apply State.modChair_memWf)
    | exact Out.wf_fault
    | (with_reducible first | refine State.memWf_modCore ?_ (fun _ hk => hk) | refine State.memWf_mkMap ?_ ?_)
    | exact fun _ hk => hk | split | (fail_if_no_progress with_reducible refine State.memWf_mk ?_)

theorem execGrantWrite_memWf {s : State} (h : s.MemWf) (chair : Nat) (kind : GrantKind) (on : Bool) :
    Out.Wf (execGrantWrite chair kind on s) := by
  unfold execGrantWrite
  try simp only []
  repeat' first
    | (with_reducible first
        | assumption | refine Out.wf_next ?_ | refine Out.wf_need ?_ | refine Out.wf_needSome (fun _ => ?_)
        | apply State.setBitmap_memWf | apply State.modChair_memWf)
    | exact Out.wf_fault
    | (with_reducible first | refine State.memWf_modCore ?_ (fun _ hk => hk) | refine State.memWf_mkMap ?_ ?_)
    | exact fun _ hk => hk | split | (fail_if_no_progress with_reducible refine State.memWf_mk ?_)

theorem gpaStore_memWf {s t : State} {chair gpa n v : Nat} (he : gpaStore s chair gpa n v = .ok t) (h : s.MemWf) : t.MemWf := by
  unfold gpaStore at he
  split at he <;> cases he
  exact State.storeGlobal_memWf h _ _ _ _ _

theorem State.gpaTry_memWf {s : State} (h : s.MemWf) (chair : Nat) (gpa : Nat) (n : Nat) (v : Nat) :
    (State.gpaTry s chair gpa n v).MemWf := by
  unfold State.gpaTry
  try simp only []
  repeat' first
    | (with_reducible first
        | assumption | refine gpaStore_memWf (by assumption) ?_)
    | (with_reducible first | refine State.memWf_modCore ?_ (fun _ hk => hk) | refine State.memWf_mkMap ?_ ?_)
    | exact fun _ hk => hk | split | (fail_if_no_progress with_reducible refine State.memWf_mk ?_)

theorem execChcqWrite_memWf {s : State} (h : s.MemWf) (chair : Nat) (n : Nat) (v : BitVec 64) :
    Out.Wf (execChcqWrite chair n v s) := by
  unfold execChcqWrite
  try simp only []
  repeat' first
    | (with_reducible first
        | assumption | refine Out.wf_next ?_ | refine Out.wf_need ?_ | refine Out.wf_needSome (fun _ => ?_)
        | apply State.modChair_memWf | apply State.gpaTry_memWf)
    | exact Out.wf_fault
    | (with_reducible first | refine State.memWf_modCore ?_ (fun _ hk => hk) | refine State.memWf_mkMap ?_ ?_)
    | exact fun _ hk => hk | split | (fail_if_no_progress with_reducible refine State.memWf_mk ?_)

theorem State.placeRing_memWf {s : State} (h : s.MemWf) (desc : Nat) :
    (State.placeRing s desc).MemWf := by
  unfold State.placeRing
  try simp only []
  repeat' first
    | (with_reducible first
        | assumption | apply State.hpaWrite_memWf)
    | (with_reducible first | refine State.memWf_modCore ?_ (fun _ hk => hk) | refine State.memWf_mkMap ?_ ?_)
    | exact fun _ hk => hk | split | (fail_if_no_progress with_reducible refine State.memWf_mk ?_)

theorem execServiceRegisterWrite_memWf {s : State} (h : s.MemWf) (chair : Nat) (off : Nat) (v : BitVec 64) :
    Out.Wf (execServiceRegisterWrite chair off v s) := by
  unfold execServiceRegisterWrite
  try simp only []
  repeat' first
    | (with_reducible first
        | assumption | refine Out.wf_next ?_ | refine Out.wf_need ?_ | refine Out.wf_needSome (fun _ => ?_)
        | apply State.modChair_memWf | apply State.stopQueues_memWf | apply State.placeRing_memWf)
    | exact Out.wf_fault
    | (with_reducible first | refine State.memWf_modCore ?_ (fun _ hk => hk) | refine State.memWf_mkMap ?_ ?_)
    | exact fun _ hk => hk | split | (fail_if_no_progress with_reducible refine State.memWf_mk ?_)

theorem execErrorCounterWrite_memWf {s : State} (h : s.MemWf) (u : ErrUnit) (f : ErrField) (v : BitVec 16) :
    Out.Wf (execErrorCounterWrite u f v s) := by
  unfold execErrorCounterWrite
  try simp only []
  repeat' first
    | (with_reducible first
        | assumption | refine Out.wf_next ?_ | refine Out.wf_need ?_ | refine Out.wf_needSome (fun _ => ?_)
        | apply State.modErr_memWf)
    | exact Out.wf_fault
    | (with_reducible first | refine State.memWf_modCore ?_ (fun _ hk => hk) | refine State.memWf_mkMap ?_ ?_)
    | exact fun _ hk => hk | split | (fail_if_no_progress with_reducible refine State.memWf_mk ?_)

theorem execPerfCounterWrite_memWf {s : State} (h : s.MemWf) (core : Nat) (i : Nat) (cnt : Bool) (v : BitVec 64) :
    Out.Wf (execPerfCounterWrite core i cnt v s) := by
  unfold execPerfCounterWrite
  try simp only []
  repeat' first
    | (with_reducible first
        | assumption | refine Out.wf_next ?_ | refine Out.wf_need ?_ | refine Out.wf_needSome (fun _ => ?_))
    | exact Out.wf_fault
    | (with_reducible first | refine State.memWf_modCore ?_ (fun _ hk => hk) | refine State.memWf_mkMap ?_ ?_)
    | exact fun _ hk => hk | split | (fail_if_no_progress with_reducible refine State.memWf_mk ?_)

theorem State.modQ_memWf {s : State} (h : s.MemWf) (chair : Nat) (n : Nat) (f : CmdQ → CmdQ) :
    (State.modQ s chair n f).MemWf := by
  unfold State.modQ
  try simp only []
  repeat' first
    | (with_reducible first
        | assumption | apply State.modChair_memWf)
    | (with_reducible first | refine State.memWf_modCore ?_ (fun _ hk => hk) | refine State.memWf_mkMap ?_ ?_)
    | exact fun _ hk => hk | split | (fail_if_no_progress with_reducible refine State.memWf_mk ?_)

theorem State.readEntry_memWf {s : State} (h : s.MemWf) (chair : Nat) (n : Nat) (e : List Word) :
    (State.readEntry s chair n e).MemWf := by
  unfold State.readEntry
  try simp only []
  repeat' first
    | (with_reducible first
        | assumption | apply State.gpaTry_memWf | apply State.modQ_memWf)
    | (with_reducible first | refine State.memWf_modCore ?_ (fun _ hk => hk) | refine State.memWf_mkMap ?_ ?_)
    | exact fun _ hk => hk | split | (fail_if_no_progress with_reducible refine State.memWf_mk ?_)

theorem State.passEntry_memWf {s : State} (h : s.MemWf) (chair : Nat) (n : Nat) :
    (State.passEntry s chair n).MemWf := by
  unfold State.passEntry
  try simp only []
  repeat' first
    | (with_reducible first
        | assumption | apply State.modQ_memWf)
    | (with_reducible first | refine State.memWf_modCore ?_ (fun _ hk => hk) | refine State.memWf_mkMap ?_ ?_)
    | exact fun _ hk => hk | split | (fail_if_no_progress with_reducible refine State.memWf_mk ?_)

theorem State.badEntry_memWf {s : State} (h : s.MemWf) (chair : Nat) (n : Nat) (kind : Nat) :
    (State.badEntry s chair n kind).MemWf := by
  unfold State.badEntry
  try simp only []
  repeat' first
    | (with_reducible first
        | assumption | apply State.setQueueStatus_memWf | apply State.gpaTry_memWf | apply State.modQ_memWf)
    | (with_reducible first | refine State.memWf_modCore ?_ (fun _ hk => hk) | refine State.memWf_mkMap ?_ ?_)
    | exact fun _ hk => hk | split | (fail_if_no_progress with_reducible refine State.memWf_mk ?_)

theorem entryAct_memWf {s : State} (h : s.MemWf) (q : QueueId) (kinds : Nat → Bool) {body : Nat → Nat → List Word → Out}
    (hb : ∀ c n e, Out.Wf (body c n e)) : Out.Wf (entryAct s q kinds body) := by
  unfold entryAct
  simp only []
  repeat' first
    | with_reducible assumption | exact Out.wf_fault | (with_reducible refine Out.wf_next ?_) | (with_reducible refine Out.wf_need ?_)
    | (with_reducible refine Out.wf_needSome (fun _ => ?_)) | (with_reducible apply State.modQ_memWf)
    | (with_reducible apply State.readEntry_memWf) | (with_reducible apply State.passEntry_memWf)
    | (with_reducible apply State.badEntry_memWf) | (with_reducible exact hb _ _ _) | split

theorem offerPacket_memWf {s : State} (h : s.MemWf) (chair : Nat) (n : Nat) (e : List Word) (roots : Option Nat) :
    Out.Wf (offerPacket s chair n e roots) := by
  unfold offerPacket
  try simp only []
  repeat' first
    | (with_reducible first
        | assumption | refine Out.wf_next ?_ | refine Out.wf_need ?_ | refine Out.wf_needSome (fun _ => ?_)
        | apply State.noteUe_memWf | apply State.modQ_memWf | apply State.badEntry_memWf)
    | exact Out.wf_fault
    | (with_reducible first | refine State.memWf_modCore ?_ (fun _ hk => hk) | refine State.memWf_mkMap ?_ ?_)
    | exact fun _ hk => hk | split | (fail_if_no_progress with_reducible refine State.memWf_mk ?_)

theorem State.dropPacket_memWf {s : State} (h : s.MemWf) (chair : Nat) (n : Nat) (e : ArbEntry) :
    (State.dropPacket s chair n e).MemWf := by
  unfold State.dropPacket
  try simp only []
  repeat' first
    | (with_reducible first
        | assumption | apply State.modQ_memWf | apply State.badEntry_memWf)
    | (with_reducible first | refine State.memWf_modCore ?_ (fun _ hk => hk) | refine State.memWf_mkMap ?_ ?_)
    | exact fun _ hk => hk | split | (fail_if_no_progress with_reducible refine State.memWf_mk ?_)

theorem execLaunchAcceptance_memWf {s : State} (h : s.MemWf) (chair : Nat) :
    Out.Wf (execLaunchAcceptance chair s) := by
  unfold execLaunchAcceptance
  try simp only []
  repeat' first
    | (with_reducible first
        | assumption | refine Out.wf_next ?_ | refine Out.wf_need ?_ | refine Out.wf_needSome (fun _ => ?_)
        | apply State.noteUe_memWf | apply State.refuseLaunch_memWf | apply State.acceptLaunch_memWf
        | apply State.dropPacket_memWf)
    | exact Out.wf_fault
    | (with_reducible first | refine State.memWf_modCore ?_ (fun _ hk => hk) | refine State.memWf_mkMap ?_ ?_)
    | exact fun _ hk => hk | split | (fail_if_no_progress with_reducible refine State.memWf_mk ?_)

theorem execCmdLaunch_memWf {s : State} (h : s.MemWf) (q : QueueId) :
    Out.Wf (execCmdLaunch q s) := by
  unfold execCmdLaunch
  try simp only []
  repeat' first
    | (with_reducible first
        | assumption | refine Out.wf_next ?_ | refine Out.wf_need ?_ | refine Out.wf_needSome (fun _ => ?_)
        | refine entryAct_memWf ?_ _ _ (fun _ _ _ => ?_) | apply offerPacket_memWf)
    | exact Out.wf_fault
    | (with_reducible first | refine State.memWf_modCore ?_ (fun _ hk => hk) | refine State.memWf_mkMap ?_ ?_)
    | exact fun _ hk => hk | split | (fail_if_no_progress with_reducible refine State.memWf_mk ?_)

theorem execLaunchIndirect_memWf {s : State} (h : s.MemWf) (q : QueueId) :
    Out.Wf (execLaunchIndirect q s) := by
  unfold execLaunchIndirect
  try simp only []
  repeat' first
    | (with_reducible first
        | assumption | refine Out.wf_next ?_ | refine Out.wf_need ?_ | refine Out.wf_needSome (fun _ => ?_)
        | apply State.noteUe_memWf | apply State.badEntry_memWf | refine entryAct_memWf ?_ _ _ (fun _ _ _ => ?_)
        | apply offerPacket_memWf)
    | exact Out.wf_fault
    | (with_reducible first | refine State.memWf_modCore ?_ (fun _ hk => hk) | refine State.memWf_mkMap ?_ ?_)
    | exact fun _ hk => hk | split | (fail_if_no_progress with_reducible refine State.memWf_mk ?_)

theorem execCmdWait_memWf {s : State} (h : s.MemWf) (q : QueueId) :
    Out.Wf (execCmdWait q s) := by
  unfold execCmdWait
  try simp only []
  repeat' first
    | (with_reducible first
        | assumption | refine Out.wf_next ?_ | refine Out.wf_need ?_ | refine Out.wf_needSome (fun _ => ?_)
        | apply State.readHandle_memWf | apply State.passEntry_memWf | refine entryAct_memWf ?_ _ _ (fun _ _ _ => ?_))
    | exact Out.wf_fault
    | (with_reducible first | refine State.memWf_modCore ?_ (fun _ hk => hk) | refine State.memWf_mkMap ?_ ?_)
    | exact fun _ hk => hk | split | (fail_if_no_progress with_reducible refine State.memWf_mk ?_)

theorem execSignal_memWf {s : State} (h : s.MemWf) (q : QueueId) :
    Out.Wf (execSignal q s) := by
  unfold execSignal
  try simp only []
  repeat' first
    | (with_reducible first
        | assumption | refine Out.wf_next ?_ | refine Out.wf_need ?_ | refine Out.wf_needSome (fun _ => ?_)
        | apply State.noteUe_memWf | refine gpaStore_memWf (by assumption) ?_ | apply State.passEntry_memWf
        | apply State.badEntry_memWf | refine entryAct_memWf ?_ _ _ (fun _ _ _ => ?_))
    | exact Out.wf_fault
    | (with_reducible first | refine State.memWf_modCore ?_ (fun _ hk => hk) | refine State.memWf_mkMap ?_ ?_)
    | exact fun _ hk => hk | split | (fail_if_no_progress with_reducible refine State.memWf_mk ?_)

theorem execLoopE_memWf {s : State} (h : s.MemWf) (q : QueueId) :
    Out.Wf (execLoopE q s) := by
  unfold execLoopE
  try simp only []
  repeat' first
    | (with_reducible first
        | assumption | refine Out.wf_next ?_ | refine Out.wf_need ?_ | refine Out.wf_needSome (fun _ => ?_)
        | apply State.modQ_memWf | apply State.passEntry_memWf | apply State.badEntry_memWf
        | refine entryAct_memWf ?_ _ _ (fun _ _ _ => ?_))
    | exact Out.wf_fault
    | (with_reducible first | refine State.memWf_modCore ?_ (fun _ hk => hk) | refine State.memWf_mkMap ?_ ?_)
    | exact fun _ hk => hk | split | (fail_if_no_progress with_reducible refine State.memWf_mk ?_)

theorem execIfE_memWf {s : State} (h : s.MemWf) (q : QueueId) :
    Out.Wf (execIfE q s) := by
  unfold execIfE
  try simp only []
  repeat' first
    | (with_reducible first
        | assumption | refine Out.wf_next ?_ | refine Out.wf_need ?_ | refine Out.wf_needSome (fun _ => ?_)
        | apply State.noteUe_memWf | apply State.modQ_memWf | apply State.passEntry_memWf | apply State.badEntry_memWf
        | refine entryAct_memWf ?_ _ _ (fun _ _ _ => ?_))
    | exact Out.wf_fault
    | (with_reducible first | refine State.memWf_modCore ?_ (fun _ hk => hk) | refine State.memWf_mkMap ?_ ?_)
    | exact fun _ hk => hk | split | (fail_if_no_progress with_reducible refine State.memWf_mk ?_)

theorem execBarrier_memWf {s : State} (h : s.MemWf) (q : QueueId) :
    Out.Wf (execBarrier q s) := by
  unfold execBarrier
  try simp only []
  repeat' first
    | (with_reducible first
        | assumption | refine Out.wf_next ?_ | refine Out.wf_need ?_ | refine Out.wf_needSome (fun _ => ?_)
        | apply State.modQ_memWf | apply State.passEntry_memWf | refine entryAct_memWf ?_ _ _ (fun _ _ _ => ?_))
    | exact Out.wf_fault
    | (with_reducible first | refine State.memWf_modCore ?_ (fun _ hk => hk) | refine State.memWf_mkMap ?_ ?_)
    | exact fun _ hk => hk | split | (fail_if_no_progress with_reducible refine State.memWf_mk ?_)

theorem execCommandQueueOverflow_memWf {s : State} (h : s.MemWf) (q : QueueId) :
    Out.Wf (execCommandQueueOverflow q s) := by
  unfold execCommandQueueOverflow
  try simp only []
  repeat' first
    | (with_reducible first
        | assumption | refine Out.wf_next ?_ | refine Out.wf_need ?_ | refine Out.wf_needSome (fun _ => ?_)
        | apply State.setQueueStatus_memWf)
    | exact Out.wf_fault
    | (with_reducible first | refine State.memWf_modCore ?_ (fun _ hk => hk) | refine State.memWf_mkMap ?_ ?_)
    | exact fun _ hk => hk | split | (fail_if_no_progress with_reducible refine State.memWf_mk ?_)

theorem execBadEntry_memWf {s : State} (h : s.MemWf) (q : QueueId) :
    Out.Wf (execBadEntry q s) := by
  unfold execBadEntry
  try simp only []
  repeat' first
    | (with_reducible first
        | assumption | refine Out.wf_next ?_ | refine Out.wf_need ?_ | refine Out.wf_needSome (fun _ => ?_)
        | refine entryAct_memWf ?_ _ _ (fun _ _ _ => ?_))
    | exact Out.wf_fault
    | (with_reducible first | refine State.memWf_modCore ?_ (fun _ hk => hk) | refine State.memWf_mkMap ?_ ?_)
    | exact fun _ hk => hk | split | (fail_if_no_progress with_reducible refine State.memWf_mk ?_)

theorem State.noteBytes_memWf {s : State} (h : s.MemWf) (a : Nat) (n : Nat) :
    (State.noteBytes s a n).MemWf := by
  unfold State.noteBytes
  try simp only []
  repeat' first
    | (with_reducible first
        | assumption | apply State.noteCarve_memWf)
    | (with_reducible first | refine State.memWf_modCore ?_ (fun _ hk => hk) | refine State.memWf_mkMap ?_ ?_)
    | exact fun _ hk => hk | split | (fail_if_no_progress with_reducible refine State.memWf_mk ?_)

theorem execTableUpdate_memWf {s : State} (h : s.MemWf) (q : QueueId) :
    Out.Wf (execTableUpdate q s) := by
  unfold execTableUpdate
  try simp only []
  repeat' first
    | (with_reducible first
        | assumption | refine Out.wf_next ?_ | refine Out.wf_need ?_ | refine Out.wf_needSome (fun _ => ?_)
        | refine entryAct_memWf ?_ _ _ (fun _ _ _ => ?_) | apply State.noteBytes_memWf)
    | exact Out.wf_fault
    | (with_reducible first | refine State.memWf_modCore ?_ (fun _ hk => hk) | refine State.memWf_mkMap ?_ ?_)
    | exact fun _ hk => hk | split | (fail_if_no_progress with_reducible refine State.memWf_mk ?_)

theorem arriveRequest_memWf {s : State} (h : s.MemWf) (chair : Nat) (m : ReqMsg) :
    Out.Wf (arriveRequest chair m s) := by
  unfold arriveRequest
  try simp only []
  repeat' first
    | (with_reducible first
        | assumption | refine Out.wf_next ?_ | refine Out.wf_need ?_ | refine Out.wf_needSome (fun _ => ?_)
        | apply State.modChair_memWf | apply State.respond_memWf)
    | exact Out.wf_fault
    | (with_reducible first | refine State.memWf_modCore ?_ (fun _ hk => hk) | refine State.memWf_mkMap ?_ ?_)
    | exact fun _ hk => hk | split | (fail_if_no_progress with_reducible refine State.memWf_mk ?_)

theorem reqAct_memWf {s : State} (h : s.MemWf) (chair n kind : Nat) {body : State → ReqMsg → Out}
    (hb : ∀ t m, t.MemWf → Out.Wf (body t m)) : Out.Wf (reqAct s chair n kind body) := by
  unfold reqAct
  exact Out.wf_needSome fun _ => Out.wf_need (hb _ _ (State.modChair_memWf h _ _))

theorem execReqWrite_memWf {s : State} (h : s.MemWf) (chair : Nat) (n : Nat) :
    Out.Wf (execReqWrite chair n s) := by
  unfold execReqWrite
  try simp only []
  repeat' first
    | (with_reducible first
        | assumption | refine Out.wf_next ?_ | refine Out.wf_need ?_ | refine Out.wf_needSome (fun _ => ?_)
        | apply State.noteUe_memWf | refine writeVa_memWf (by assumption) ?_ | apply State.respond_memWf
        | refine reqAct_memWf ?_ _ _ _ (fun _ _ _ => ?_))
    | exact Out.wf_fault
    | (with_reducible first | refine State.memWf_modCore ?_ (fun _ hk => hk) | refine State.memWf_mkMap ?_ ?_)
    | exact fun _ hk => hk | split | (fail_if_no_progress with_reducible refine State.memWf_mk ?_)

theorem execReqRead_memWf {s : State} (h : s.MemWf) (chair : Nat) (n : Nat) :
    Out.Wf (execReqRead chair n s) := by
  unfold execReqRead
  try simp only []
  repeat' first
    | (with_reducible first
        | assumption | refine Out.wf_next ?_ | refine Out.wf_need ?_ | refine Out.wf_needSome (fun _ => ?_)
        | apply State.noteUe_memWf | apply State.respond_memWf | refine reqAct_memWf ?_ _ _ _ (fun _ _ _ => ?_))
    | exact Out.wf_fault
    | (with_reducible first | refine State.memWf_modCore ?_ (fun _ hk => hk) | refine State.memWf_mkMap ?_ ?_)
    | exact fun _ hk => hk | split | (fail_if_no_progress with_reducible refine State.memWf_mk ?_)

theorem execDoorbell_memWf {s : State} (h : s.MemWf) (chair : Nat) (n : Nat) :
    Out.Wf (execDoorbell chair n s) := by
  unfold execDoorbell
  try simp only []
  repeat' first
    | (with_reducible first
        | assumption | refine Out.wf_next ?_ | refine Out.wf_need ?_ | refine Out.wf_needSome (fun _ => ?_)
        | apply State.noteUe_memWf | apply State.respond_memWf | refine gpaStore_memWf (by assumption) ?_
        | refine reqAct_memWf ?_ _ _ _ (fun _ _ _ => ?_))
    | exact Out.wf_fault
    | (with_reducible first | refine State.memWf_modCore ?_ (fun _ hk => hk) | refine State.memWf_mkMap ?_ ?_)
    | exact fun _ hk => hk | split | (fail_if_no_progress with_reducible refine State.memWf_mk ?_)

theorem execResumeRequest_memWf {s : State} (h : s.MemWf) (chair : Nat) (n : Nat) :
    Out.Wf (execResumeRequest chair n s) := by
  unfold execResumeRequest
  try simp only []
  repeat' first
    | (with_reducible first
        | assumption | refine Out.wf_next ?_ | refine Out.wf_need ?_ | refine Out.wf_needSome (fun _ => ?_)
        | apply State.noteUe_memWf | apply State.setQueueStatus_memWf | apply State.respond_memWf | apply State.modQ_memWf
        | refine reqAct_memWf ?_ _ _ _ (fun _ _ _ => ?_))
    | exact Out.wf_fault
    | (with_reducible first | refine State.memWf_modCore ?_ (fun _ hk => hk) | refine State.memWf_mkMap ?_ ?_)
    | exact fun _ hk => hk | split | (fail_if_no_progress with_reducible refine State.memWf_mk ?_)

theorem execRequestRefused_memWf {s : State} (h : s.MemWf) (chair : Nat) (n : Nat) :
    Out.Wf (execRequestRefused chair n s) := by
  unfold execRequestRefused
  try simp only []
  repeat' first
    | (with_reducible first
        | assumption | refine Out.wf_next ?_ | refine Out.wf_need ?_ | refine Out.wf_needSome (fun _ => ?_)
        | apply State.modChair_memWf | apply State.respond_memWf)
    | exact Out.wf_fault
    | (with_reducible first | refine State.memWf_modCore ?_ (fun _ hk => hk) | refine State.memWf_mkMap ?_ ?_)
    | exact fun _ hk => hk | split | (fail_if_no_progress with_reducible refine State.memWf_mk ?_)

theorem execNoticeSend_memWf {s : State} (h : s.MemWf) (chair : Nat) :
    Out.Wf (execNoticeSend chair s) := by
  unfold execNoticeSend
  try simp only []
  repeat' first
    | (with_reducible first
        | assumption | refine Out.wf_next ?_ | refine Out.wf_need ?_ | refine Out.wf_needSome (fun _ => ?_)
        | apply State.modChair_memWf | apply State.noteRing_memWf | apply State.noteBytes_memWf)
    | exact Out.wf_fault
    | (with_reducible first | refine State.memWf_modCore ?_ (fun _ hk => hk) | refine State.memWf_mkMap ?_ ?_)
    | exact fun _ hk => hk | split | (fail_if_no_progress with_reducible refine State.memWf_mk ?_)

theorem execNoticeAck_memWf {s : State} (h : s.MemWf) (chair : Nat) :
    Out.Wf (execNoticeAck chair s) := by
  unfold execNoticeAck
  try simp only []
  repeat' first
    | (with_reducible first
        | assumption | refine Out.wf_next ?_ | refine Out.wf_need ?_ | refine Out.wf_needSome (fun _ => ?_)
        | apply State.modChair_memWf | apply State.noteRing_memWf | apply State.ringPop_memWf)
    | exact Out.wf_fault
    | (with_reducible first | refine State.memWf_modCore ?_ (fun _ hk => hk) | refine State.memWf_mkMap ?_ ?_)
    | exact fun _ hk => hk | split | (fail_if_no_progress with_reducible refine State.memWf_mk ?_)

theorem execServiceTrapQueueConsume_memWf {s : State} (h : s.MemWf)  :
    Out.Wf (execServiceTrapQueueConsume s) := by
  unfold execServiceTrapQueueConsume
  try simp only []
  repeat' first
    | (with_reducible first
        | assumption | refine Out.wf_next ?_ | refine Out.wf_need ?_ | refine Out.wf_needSome (fun _ => ?_))
    | exact Out.wf_fault
    | (with_reducible first | refine State.memWf_modCore ?_ (fun _ hk => hk) | refine State.memWf_mkMap ?_ ?_)
    | exact fun _ hk => hk | split | (fail_if_no_progress with_reducible refine State.memWf_mk ?_)

theorem execHoldClear_memWf {s : State} (h : s.MemWf) (chair seq : Nat) : Out.Wf (execHoldClear chair seq s) := by
  unfold execHoldClear
  refine Out.wf_need ?_
  split
  · exact Out.wf_fault
  · exact Out.wf_next (State.memWf_mkHbm h (Memory.set_wf h.1 _ _))

theorem execSecondStageTableWrite_memWf {s : State} (h : s.MemWf) (chair : Nat) (hpa : Nat) (v : BitVec 64) :
    Out.Wf (execSecondStageTableWrite chair hpa v s) := by
  unfold execSecondStageTableWrite
  try simp only []
  repeat' first
    | (with_reducible first
        | assumption | refine Out.wf_next ?_ | refine Out.wf_need ?_ | refine Out.wf_needSome (fun _ => ?_)
        | apply State.hpaWrite_memWf)
    | exact Out.wf_fault
    | (with_reducible first | refine State.memWf_modCore ?_ (fun _ hk => hk) | refine State.memWf_mkMap ?_ ?_)
    | exact fun _ hk => hk | split | (fail_if_no_progress with_reducible refine State.memWf_mk ?_)

theorem wipeFrame_memWf {s : State} (h : s.MemWf) (a : Nat) : Out.Wf (wipeFrame a s) :=
  Out.wf_need (Out.wf_next (State.memWf_mkHbm h (Memory.filter_wf _ h.1)))

theorem reserveArea_memWf {s : State} (h : s.MemWf) (chair : Nat) (gpa : Nat) :
    Out.Wf (reserveArea chair gpa s) := by
  unfold reserveArea
  try simp only []
  repeat' first
    | (with_reducible first
        | assumption | refine Out.wf_next ?_ | refine Out.wf_need ?_ | refine Out.wf_needSome (fun _ => ?_)
        | apply State.modChair_memWf)
    | exact Out.wf_fault
    | (with_reducible first | refine State.memWf_modCore ?_ (fun _ hk => hk) | refine State.memWf_mkMap ?_ ?_)
    | exact fun _ hk => hk | split | (fail_if_no_progress with_reducible refine State.memWf_mk ?_)

theorem loadRange_memWf {s : State} (h : s.MemWf) (core : Nat) (r : RangeEntry) :
    Out.Wf (loadRange core r s) := by
  unfold loadRange
  try simp only []
  repeat' first
    | (with_reducible first
        | assumption | refine Out.wf_next ?_ | refine Out.wf_need ?_ | refine Out.wf_needSome (fun _ => ?_))
    | exact Out.wf_fault
    | (with_reducible first | refine State.memWf_modCore ?_ (fun _ hk => hk) | refine State.memWf_mkMap ?_ ?_)
    | exact fun _ hk => hk | split | (fail_if_no_progress with_reducible refine State.memWf_mk ?_)

theorem arriveForwarded_memWf {s : State} (h : s.MemWf) (chair : Nat) (p : List Word) (runs : List (Nat × Nat)) (priv : Bool) :
    Out.Wf (arriveForwarded chair p runs priv s) := by
  unfold arriveForwarded
  try simp only []
  repeat' first
    | (with_reducible first
        | assumption | refine Out.wf_next ?_ | refine Out.wf_need ?_ | refine Out.wf_needSome (fun _ => ?_))
    | exact Out.wf_fault
    | (with_reducible first | refine State.memWf_modCore ?_ (fun _ hk => hk) | refine State.memWf_mkMap ?_ ?_)
    | exact fun _ hk => hk | split | (fail_if_no_progress with_reducible refine State.memWf_mk ?_)

theorem correctError_memWf {s : State} (h : s.MemWf) (u : ErrUnit) (loc : Nat) :
    Out.Wf (correctError u loc s) := by
  unfold correctError
  try simp only []
  repeat' first
    | (with_reducible first
        | assumption | refine Out.wf_next ?_ | refine Out.wf_need ?_ | refine Out.wf_needSome (fun _ => ?_)
        | apply State.corrected_memWf)
    | exact Out.wf_fault
    | (with_reducible first | refine State.memWf_modCore ?_ (fun _ hk => hk) | refine State.memWf_mkMap ?_ ?_)
    | exact fun _ hk => hk | split | (fail_if_no_progress with_reducible refine State.memWf_mk ?_)

theorem State.loaderPut_memWf {s : State} (h : s.MemWf) (chair : Nat) (asid : Nat) (nd : Need) (va : Nat) (bs : List Byte) :
    (State.loaderPut s chair asid nd va bs).MemWf := by
  unfold State.loaderPut
  try simp only []
  repeat' first
    | (with_reducible first
        | assumption | apply State.writePieces_memWf)
    | (with_reducible first | refine State.memWf_modCore ?_ (fun _ hk => hk) | refine State.memWf_mkMap ?_ ?_)
    | exact fun _ hk => hk | split | (fail_if_no_progress with_reducible refine State.memWf_mk ?_)

theorem State.loaderPutSome_memWf {s : State} (h : s.MemWf) (chair : Nat) (asid : Nat) (nd : Need) (mask : Nat) (p : Placed) :
    (State.loaderPutSome s chair asid nd mask p).MemWf := by
  unfold State.loaderPutSome
  try simp only []
  repeat' first
    | (with_reducible first
        | assumption | apply State.loaderPut_memWf)
    | (refine foldl_memWf ?_ (fun _ _ _ => ?_))
    | (with_reducible first | refine State.memWf_modCore ?_ (fun _ hk => hk) | refine State.memWf_mkMap ?_ ?_)
    | exact fun _ hk => hk | split | (fail_if_no_progress with_reducible refine State.memWf_mk ?_)

theorem State.beginLoad_memWf {s : State} (h : s.MemWf) (chair : Nat) (asid : Nat) (n : Nat) (m : ReqMsg) (l : Load) (needOf : Placed → Need) :
    (State.beginLoad s chair asid n m l needOf).MemWf := by
  unfold State.beginLoad
  try simp only []
  repeat' first
    | (with_reducible first
        | assumption | apply State.modChair_memWf | apply State.loaderPut_memWf | apply State.loaderPutSome_memWf)
    | (refine foldl_memWf ?_ (fun _ _ _ => ?_))
    | (with_reducible first | refine State.memWf_modCore ?_ (fun _ hk => hk) | refine State.memWf_mkMap ?_ ?_)
    | exact fun _ hk => hk | split | (fail_if_no_progress with_reducible refine State.memWf_mk ?_)

theorem State.endLoad_memWf {s : State} (h : s.MemWf) (chair : Nat) (asid : Nat) (m : ReqMsg) (reply : List Byte) :
    (State.endLoad s chair asid m reply).MemWf := by
  unfold State.endLoad
  try simp only []
  repeat' first
    | (with_reducible first
        | assumption | apply State.modChair_memWf | apply State.respond_memWf)
    | (with_reducible first | refine State.memWf_modCore ?_ (fun _ hk => hk) | refine State.memWf_mkMap ?_ ?_)
    | exact fun _ hk => hk | split | (fail_if_no_progress with_reducible refine State.memWf_mk ?_)

theorem execLoadRequest_memWf {s : State} (h : s.MemWf) (chair : Nat) (n : Nat) :
    Out.Wf (execLoadRequest chair n s) := by
  unfold execLoadRequest
  try simp only []
  repeat' first
    | (with_reducible first
        | assumption | refine Out.wf_next ?_ | refine Out.wf_need ?_ | refine Out.wf_needSome (fun _ => ?_)
        | apply State.modChair_memWf | apply State.noteUe_memWf | apply State.respond_memWf
        | refine reqAct_memWf ?_ _ _ _ (fun _ _ _ => ?_) | apply State.beginLoad_memWf | apply State.endLoad_memWf)
    | exact Out.wf_fault
    | (with_reducible first | refine State.memWf_modCore ?_ (fun _ hk => hk) | refine State.memWf_mkMap ?_ ?_)
    | exact fun _ hk => hk | split | (fail_if_no_progress with_reducible refine State.memWf_mk ?_)

theorem State.afterReset_memWf {s : State} (h : s.MemWf) : s.afterReset.MemWf := by
  refine ⟨h.1, fun k hk => ?_⟩
  obtain ⟨c, -, rfl⟩ := List.mem_map.mp hk
  exact (State.memWf_iff.mp h).2 c

theorem State.wiped_memWf {s : State} (_h : s.MemWf) : s.wiped.MemWf := ⟨rfl, State.reset_memWf.2⟩

theorem State.runImage_memWf {s : State} (h : s.MemWf) (image : List Byte) :
    (State.runImage s image).MemWf := by
  unfold State.runImage
  try simp only []
  repeat' first
    | (with_reducible first
        | assumption)
    | (with_reducible first | refine State.memWf_modCore ?_ (fun _ hk => hk) | refine State.memWf_mkMap ?_ ?_)
    | exact fun _ hk => hk | split | (fail_if_no_progress with_reducible refine State.memWf_mk ?_)

theorem execBoot_memWf {s : State} (h : s.MemWf)  :
    Out.Wf (execBoot s) := by
  unfold execBoot
  try simp only []
  repeat' first
    | (with_reducible first
        | assumption | refine Out.wf_next ?_ | refine Out.wf_need ?_ | refine Out.wf_needSome (fun _ => ?_)
        | apply State.afterReset_memWf | apply State.wiped_memWf | apply State.runImage_memWf)
    | exact Out.wf_fault
    | (with_reducible first | refine State.memWf_modCore ?_ (fun _ hk => hk) | refine State.memWf_mkMap ?_ ?_)
    | exact fun _ hk => hk | split | (fail_if_no_progress with_reducible refine State.memWf_mk ?_)

theorem execNetworkRecovery_memWf {s : State} (h : s.MemWf) (image : List Byte) :
    Out.Wf (execNetworkRecovery image s) := by
  unfold execNetworkRecovery
  try simp only []
  repeat' first
    | (with_reducible first
        | assumption | refine Out.wf_next ?_ | refine Out.wf_need ?_ | refine Out.wf_needSome (fun _ => ?_)
        | apply State.runImage_memWf)
    | exact Out.wf_fault
    | (with_reducible first | refine State.memWf_modCore ?_ (fun _ hk => hk) | refine State.memWf_mkMap ?_ ?_)
    | exact fun _ hk => hk | split | (fail_if_no_progress with_reducible refine State.memWf_mk ?_)

theorem execFirmwareUpdate_memWf {s : State} (h : s.MemWf) (image : List Byte) (whole : Bool) :
    Out.Wf (execFirmwareUpdate image whole s) := by
  unfold execFirmwareUpdate
  try simp only []
  repeat' first
    | (with_reducible first
        | assumption | refine Out.wf_next ?_ | refine Out.wf_need ?_ | refine Out.wf_needSome (fun _ => ?_))
    | exact Out.wf_fault
    | (with_reducible first | refine State.memWf_modCore ?_ (fun _ hk => hk) | refine State.memWf_mkMap ?_ ?_)
    | exact fun _ hk => hk | split | (fail_if_no_progress with_reducible refine State.memWf_mk ?_)

theorem execLifeCycleChangeRequest_memWf {s : State} (h : s.MemWf) (target : LifeCycle) :
    Out.Wf (execLifeCycleChangeRequest target s) := by
  unfold execLifeCycleChangeRequest
  try simp only []
  repeat' first
    | (with_reducible first
        | assumption | refine Out.wf_next ?_ | refine Out.wf_need ?_ | refine Out.wf_needSome (fun _ => ?_))
    | exact Out.wf_fault
    | (with_reducible first | refine State.memWf_modCore ?_ (fun _ hk => hk) | refine State.memWf_mkMap ?_ ?_)
    | exact fun _ hk => hk | split | (fail_if_no_progress with_reducible refine State.memWf_mk ?_)

theorem execAttestationReport_memWf {s : State} (h : s.MemWf) (chair : Nat) (nonce : List Byte) :
    Out.Wf (execAttestationReport chair nonce s) := by
  unfold execAttestationReport
  try simp only []
  repeat' first
    | (with_reducible first
        | assumption | refine Out.wf_next ?_ | refine Out.wf_need ?_ | refine Out.wf_needSome (fun _ => ?_)
        | apply State.draw_memWf)
    | exact Out.wf_fault
    | (with_reducible first | refine State.memWf_modCore ?_ (fun _ hk => hk) | refine State.memWf_mkMap ?_ ?_)
    | exact fun _ hk => hk | split | (fail_if_no_progress with_reducible refine State.memWf_mk ?_)

theorem readManagement_memWf {s : State} (h : s.MemWf) (key : Bool) :
    Out.Wf (readManagement key s) := by
  unfold readManagement
  try simp only []
  repeat' first
    | (with_reducible first
        | assumption | refine Out.wf_next ?_ | refine Out.wf_need ?_ | refine Out.wf_needSome (fun _ => ?_))
    | exact Out.wf_fault
    | (with_reducible first | refine State.memWf_modCore ?_ (fun _ hk => hk) | refine State.memWf_mkMap ?_ ?_)
    | exact fun _ hk => hk | split | (fail_if_no_progress with_reducible refine State.memWf_mk ?_)

theorem noteDefect_memWf {s : State} (h : s.MemWf) (rootUsable : Bool) (step : Option Nat) :
    Out.Wf (noteDefect rootUsable step s) := by
  unfold noteDefect
  try simp only []
  repeat' first
    | (with_reducible first
        | assumption | refine Out.wf_next ?_ | refine Out.wf_need ?_ | refine Out.wf_needSome (fun _ => ?_))
    | exact Out.wf_fault
    | (with_reducible first | refine State.memWf_modCore ?_ (fun _ hk => hk) | refine State.memWf_mkMap ?_ ?_)
    | exact fun _ hk => hk | split | (fail_if_no_progress with_reducible refine State.memWf_mk ?_)

theorem execThermalShutdown_memWf {s : State} (h : s.MemWf)  :
    Out.Wf (execThermalShutdown s) := by
  unfold execThermalShutdown
  try simp only []
  repeat' first
    | (with_reducible first
        | assumption | refine Out.wf_next ?_ | refine Out.wf_need ?_ | refine Out.wf_needSome (fun _ => ?_)
        | apply State.afterReset_memWf | apply State.wiped_memWf)
    | exact Out.wf_fault
    | (with_reducible first | refine State.memWf_modCore ?_ (fun _ hk => hk) | refine State.memWf_mkMap ?_ ?_)
    | exact fun _ hk => hk | split | (fail_if_no_progress with_reducible refine State.memWf_mk ?_)

theorem execClockThrottle_memWf {s : State} (h : s.MemWf) (khz : Nat) :
    Out.Wf (execClockThrottle khz s) := by
  unfold execClockThrottle
  try simp only []
  repeat' first
    | (with_reducible first
        | assumption | refine Out.wf_next ?_ | refine Out.wf_need ?_ | refine Out.wf_needSome (fun _ => ?_))
    | exact Out.wf_fault
    | (with_reducible first | refine State.memWf_modCore ?_ (fun _ hk => hk) | refine State.memWf_mkMap ?_ ?_)
    | exact fun _ hk => hk | split | (fail_if_no_progress with_reducible refine State.memWf_mk ?_)

theorem execPackageUnreachable_memWf {s : State} (h : s.MemWf) (pkg : Nat) :
    Out.Wf (execPackageUnreachable pkg s) := by
  unfold execPackageUnreachable
  try simp only []
  repeat' first
    | (with_reducible first
        | assumption | refine Out.wf_next ?_ | refine Out.wf_need ?_ | refine Out.wf_needSome (fun _ => ?_))
    | exact Out.wf_fault
    | (with_reducible first | refine State.memWf_modCore ?_ (fun _ hk => hk) | refine State.memWf_mkMap ?_ ?_)
    | exact fun _ hk => hk | split | (fail_if_no_progress with_reducible refine State.memWf_mk ?_)

theorem execLinkFailover_memWf {s : State} (h : s.MemWf) (link : Nat) :
    Out.Wf (execLinkFailover link s) := by
  unfold execLinkFailover
  try simp only []
  repeat' first
    | (with_reducible first
        | assumption | refine Out.wf_next ?_ | refine Out.wf_need ?_ | refine Out.wf_needSome (fun _ => ?_))
    | exact Out.wf_fault
    | (with_reducible first | refine State.memWf_modCore ?_ (fun _ hk => hk) | refine State.memWf_mkMap ?_ ?_)
    | exact fun _ hk => hk | split | (fail_if_no_progress with_reducible refine State.memWf_mk ?_)

theorem arriveServiceEntry_memWf {s : State} (h : s.MemWf) (e : List Word) :
    Out.Wf (arriveServiceEntry e s) := by
  unfold arriveServiceEntry
  try simp only []
  repeat' first
    | (with_reducible first
        | assumption | refine Out.wf_next ?_ | refine Out.wf_need ?_ | refine Out.wf_needSome (fun _ => ?_))
    | exact Out.wf_fault
    | (with_reducible first | refine State.memWf_modCore ?_ (fun _ hk => hk) | refine State.memWf_mkMap ?_ ?_)
    | exact fun _ hk => hk | split | (fail_if_no_progress with_reducible refine State.memWf_mk ?_)


/-! ### The device as a whole -/

/-- Every operation of the device keeps every memory in canonical form. -/
theorem exec_memWf_of_operation {i : Instr} (hi : i.code = none) {s : State} (h : s.MemWf) : Out.Wf (exec i s) := by
  cases i <;> try (cases hi; done)
  · exact execLaunchAcceptance_memWf h _
  · exact execLaunchDispatch_memWf h _
  · exact execRootAdmission_memWf h _ _
  · exact execContextSlotTake_memWf h _
  · exact execSlotRelease_memWf h _ _
  · exact execIterationStart_memWf h _ _ _ _
  · exact execIterationEnd_memWf h _ _ _
  · exact execWindowGrant_memWf h _ _ _ _
  · exact execBlockFetch_memWf h _ _
  · exact execBlockMapping_memWf h _ _
  · exact execTokenArrival_memWf h _ _
  · exact execChestInjection_memWf h _ _
  · exact execSwap_memWf h _ _ _
  · exact execQuotaSwap_memWf h _ _ _ _
  · exact execBlockCommit_memWf h _ _ _
  · exact execIncompleteBlock_memWf h _ _ _
  · exact execFaultTaken_memWf h _ _ _ _
  · exact execContextAbort_memWf h _
  · exact execFaultQueueRecord_memWf h _ _
  · exact execFaultAnswer_memWf h _ _ _ _
  · exact execLoadPerformed_memWf h _ _
  · exact execStoreApplied_memWf h _ _ _
  · exact execPoisonDetected_memWf h _
  · exact execChainArrival_memWf h _ _
  · exact execDresserApplication_memWf h _
  · exact execJoinSatisfied_memWf h _ _ _ _
  · exact execRedtCollectSatisfied_memWf h _ _ _ _
  · exact execWaitcSatisfied_memWf h _ _ _ _
  · exact execWaitgSatisfied_memWf h _ _ _ _
  · exact execFenceEmission_memWf h _ _ _ _
  · exact execSeqcRetire_memWf h _ _
  · exact execEngineCompletion_memWf h _ _ _
  · exact execHeldCommandIssue_memWf h _
  · exact execEviction_memWf h _
  · exact execContextResume_memWf h _
  · exact execTimeSliceExpiry_memWf h _ _
  · exact execChairReset_memWf h _
  · exact execChairEnableWrite_memWf h _ _
  · exact execPrimaxWrite_memWf h _ _
  · exact execGrantWrite_memWf h _ _ _
  · exact execChcqWrite_memWf h _ _ _
  · exact execServiceRegisterWrite_memWf h _ _ _
  · exact execErrorCounterWrite_memWf h _ _ _
  · exact execPerfCounterWrite_memWf h _ _ _ _
  · exact execCmdLaunch_memWf h _
  · exact execLaunchIndirect_memWf h _
  · exact execCmdWait_memWf h _
  · exact execSignal_memWf h _
  · exact execLoopE_memWf h _
  · exact execIfE_memWf h _
  · exact execBarrier_memWf h _
  · exact execTableUpdate_memWf h _
  · exact execReqWrite_memWf h _ _
  · exact execReqRead_memWf h _ _
  · exact execDoorbell_memWf h _ _
  · exact execLoadRequest_memWf h _ _
  · exact execResumeRequest_memWf h _ _
  · exact execNoticeSend_memWf h _
  · exact execNoticeAck_memWf h _
  · exact execNetworkRecovery_memWf h _
  · exact execFirmwareUpdate_memWf h _ _
  · exact execLifeCycleChangeRequest_memWf h _
  · exact execPackageUnreachable_memWf h _
  · exact execHoldClear_memWf h _ _
  · exact execSecondStageTableWrite_memWf h _ _ _
  · exact execCommandQueueOverflow_memWf h _
  · exact execBadEntry_memWf h _
  · exact execRequestRefused_memWf h _ _
  · exact execL1TlbEntryDrop_memWf h _ _
  · exact execDecodedBlockEviction_memWf h _ _
  · exact execLinkFailover_memWf h _
  · exact execClockThrottle_memWf h _
  · exact execAttestationReport_memWf h _ _
  · exact execBoot_memWf h
  · exact execThermalShutdown_memWf h
  · exact execServiceTrapQueueConsume_memWf h

end Sys2Proof.Machine
end

