-- ==== Sys2Proof/Laws/Parse.lean ====
section
/-! SUPPORT. Words against `parse`: a word is its OP and the bits below, and what `parse` spells has those as its code. -/

namespace Sys2Proof

theorem split_word {a b : Nat} (ha : a < 256) (hb : b < 2 ^ 56) :
    a * 2 ^ 56 + b < 2 ^ 64 ∧ (a * 2 ^ 56 + b) / 2 ^ 56 = a ∧ (a * 2 ^ 56 + b) % 2 ^ 56 = b := by
  refine ⟨?_, ?_, ?_⟩
  · calc a * 2 ^ 56 + b < a * 2 ^ 56 + 2 ^ 56 := by gcongr
      _ = (a + 1) * 2 ^ 56 := by ring
      _ ≤ 256 * 2 ^ 56 := by gcongr; exact ha
      _ = 2 ^ 64 := by norm_num
  · rw [Nat.add_comm, Nat.add_mul_div_right _ _ (by positivity), Nat.div_eq_of_lt hb, Nat.zero_add]
  · rw [Nat.mul_add_mod_self_right, Nat.mod_eq_of_lt hb]

/-- The OP and the bits below of a word put together. -/
theorem parse_word {a b : Nat} (ha : a < 256) (hb : b < 2 ^ 56) : parse ((BitVec.ofNat 64 (a * 2 ^ 56 + b)).toNat / 2 ^ 56)
    ((BitVec.ofNat 64 (a * 2 ^ 56 + b)).toNat % 2 ^ 56) = parse a b := by
  obtain ⟨h4, h6, h7⟩ := split_word ha hb
  rw [BitVec.toNat_ofNat, Nat.mod_eq_of_lt h4, h6, h7]

/-- What parses and is well-formed decodes. -/
theorem decode_of_parse {w : Word} {s : SlotWord} (h : parse (w.toNat / 2 ^ 56) (w.toNat % 2 ^ 56) = some (some s))
    (hw : s.wellFormed = true) : decode w = .ok s := by
  unfold decode
  rw [h]
  dsimp only
  rw [if_pos hw]

/-- What decodes parses and is well-formed. -/
theorem parse_of_decode {w : Word} {s : SlotWord} (h : decode w = .ok s) :
    parse (w.toNat / 2 ^ 56) (w.toNat % 2 ^ 56) = some (some s) ∧ s.wellFormed = true := by
  unfold decode at h
  split at h
  · cases h
  · cases h
  · split at h
    · cases h
      exact ⟨‹_›, ‹_›⟩
    · cases h

/-- One row of `parse`. -/
theorem code_of_parse_of {α : Type} {i : α → Instr} {op v : Nat} {dec : Nat → Option α} {enc : α → Nat} {j : Instr}
    (hd : ∀ f, dec v = some f → enc f = v) (hc : ∀ f, (i f).code = some (op, enc f))
    (h : some ((dec v).map fun f => SlotWord.instr (i f)) = some (some (SlotWord.instr j))) : j.code = some (op, v) := by
  rw [Option.some.injEq, Option.map_eq_some_iff] at h
  obtain ⟨f, hf, hj⟩ := h
  cases hj
  rw [hc, hd f hf]

set_option maxRecDepth 20000 in
/-- An instruction that `parse` spells has the OP and the bits as its code. -/
theorem code_of_parse {op v : Nat} {j : Instr} (hv : v < 2 ^ 56) (h : parse op v = some (some (.instr j))) :
    j.code = some (op, v) := by
  unfold parse at h
  split at h
  · split at h <;> cases h
  · split at h
    · rw [Option.some.injEq, Option.bind_eq_some_iff] at h
      obtain ⟨r, -, h⟩ := h
      cases h
    · cases h
  · exact code_of_parse_of (fun f => FRead.enc_of_dec hv) (fun _ => rfl) h
  · exact code_of_parse_of (fun f => FP.enc_of_dec hv) (fun _ => rfl) h
  · exact code_of_parse_of (fun f => FMov4.enc_of_dec hv) (fun _ => rfl) h
  · exact code_of_parse_of (fun f => FLimm.enc_of_dec hv) (fun _ => rfl) h
  · exact code_of_parse_of (fun f => FOrhi.enc_of_dec hv) (fun _ => rfl) h
  · exact code_of_parse_of (fun f => FP.enc_of_dec hv) (fun _ => rfl) h
  · exact code_of_parse_of (fun f => FSel.enc_of_dec hv) (fun _ => rfl) h
  · exact code_of_parse_of (fun f => FBr.enc_of_dec hv) (fun _ => rfl) h
  · exact code_of_parse_of (fun f => FExit.enc_of_dec hv) (fun _ => rfl) h
  · exact code_of_parse_of (fun f => FBr.enc_of_dec hv) (fun _ => rfl) h
  · exact code_of_parse_of (fun f => FExit.enc_of_dec hv) (fun _ => rfl) h
  · exact code_of_parse_of (fun f => FTrap.enc_of_dec hv) (fun _ => rfl) h
  · exact code_of_parse_of (fun f => FExit.enc_of_dec hv) (fun _ => rfl) h
  · exact code_of_parse_of (fun f => FCsr.enc_of_dec hv) (fun _ => rfl) h
  · exact code_of_parse_of (fun f => FCsr.enc_of_dec hv) (fun _ => rfl) h
  · exact code_of_parse_of (fun f => FCsr.enc_of_dec hv) (fun _ => rfl) h
  · exact code_of_parse_of (fun f => FPr.enc_of_dec hv) (fun _ => rfl) h
  · exact code_of_parse_of (fun f => FFork.enc_of_dec hv) (fun _ => rfl) h
  · exact code_of_parse_of (fun f => FFork.enc_of_dec hv) (fun _ => rfl) h
  · exact code_of_parse_of (fun f => FExit.enc_of_dec hv) (fun _ => rfl) h
  · exact code_of_parse_of (fun f => FP.enc_of_dec hv) (fun _ => rfl) h
  · exact code_of_parse_of (fun f => FRedt.enc_of_dec hv) (fun _ => rfl) h
  · exact code_of_parse_of (fun f => FFar.enc_of_dec hv) (fun _ => rfl) h
  · exact code_of_parse_of (fun f => FWaitc.enc_of_dec hv) (fun _ => rfl) h
  · exact code_of_parse_of (fun f => FA.enc_of_dec hv) (fun _ => rfl) h
  · exact code_of_parse_of (fun f => FA.enc_of_dec hv) (fun _ => rfl) h
  · exact code_of_parse_of (fun f => FA.enc_of_dec hv) (fun _ => rfl) h
  · exact code_of_parse_of (fun f => FA.enc_of_dec hv) (fun _ => rfl) h
  · exact code_of_parse_of (fun f => FA.enc_of_dec hv) (fun _ => rfl) h
  · exact code_of_parse_of (fun f => FA.enc_of_dec hv) (fun _ => rfl) h
  · exact code_of_parse_of (fun f => FI.enc_of_dec hv) (fun _ => rfl) h
  · exact code_of_parse_of (fun f => FI.enc_of_dec hv) (fun _ => rfl) h
  · exact code_of_parse_of (fun f => FI.enc_of_dec hv) (fun _ => rfl) h
  · exact code_of_parse_of (fun f => FI.enc_of_dec hv) (fun _ => rfl) h
  · exact code_of_parse_of (fun f => FI.enc_of_dec hv) (fun _ => rfl) h
  · exact code_of_parse_of (fun f => FI.enc_of_dec hv) (fun _ => rfl) h
  · exact code_of_parse_of (fun f => FI.enc_of_dec hv) (fun _ => rfl) h
  · exact code_of_parse_of (fun f => FI.enc_of_dec hv) (fun _ => rfl) h
  · exact code_of_parse_of (fun f => FFtest.enc_of_dec hv) (fun _ => rfl) h
  · exact code_of_parse_of (fun f => FA.enc_of_dec hv) (fun _ => rfl) h
  · exact code_of_parse_of (fun f => FA.enc_of_dec hv) (fun _ => rfl) h
  · exact code_of_parse_of (fun f => FA.enc_of_dec hv) (fun _ => rfl) h
  · exact code_of_parse_of (fun f => FA.enc_of_dec hv) (fun _ => rfl) h
  · exact code_of_parse_of (fun f => FA.enc_of_dec hv) (fun _ => rfl) h
  · exact code_of_parse_of (fun f => FA.enc_of_dec hv) (fun _ => rfl) h
  · exact code_of_parse_of (fun f => FA.enc_of_dec hv) (fun _ => rfl) h
  · exact code_of_parse_of (fun f => FA.enc_of_dec hv) (fun _ => rfl) h
  · exact code_of_parse_of (fun f => FA.enc_of_dec hv) (fun _ => rfl) h
  · exact code_of_parse_of (fun f => FA.enc_of_dec hv) (fun _ => rfl) h
  · exact code_of_parse_of (fun f => FA.enc_of_dec hv) (fun _ => rfl) h
  · exact code_of_parse_of (fun f => FA.enc_of_dec hv) (fun _ => rfl) h
  · exact code_of_parse_of (fun f => FA.enc_of_dec hv) (fun _ => rfl) h
  · exact code_of_parse_of (fun f => FA.enc_of_dec hv) (fun _ => rfl) h
  · exact code_of_parse_of (fun f => FA.enc_of_dec hv) (fun _ => rfl) h
  · exact code_of_parse_of (fun f => FA.enc_of_dec hv) (fun _ => rfl) h
  · exact code_of_parse_of (fun f => FA.enc_of_dec hv) (fun _ => rfl) h
  · exact code_of_parse_of (fun f => FA.enc_of_dec hv) (fun _ => rfl) h
  · exact code_of_parse_of (fun f => FA.enc_of_dec hv) (fun _ => rfl) h
  · exact code_of_parse_of (fun f => FA.enc_of_dec hv) (fun _ => rfl) h
  · exact code_of_parse_of (fun f => FA.enc_of_dec hv) (fun _ => rfl) h
  · exact code_of_parse_of (fun f => FA.enc_of_dec hv) (fun _ => rfl) h
  · exact code_of_parse_of (fun f => FA.enc_of_dec hv) (fun _ => rfl) h
  · exact code_of_parse_of (fun f => FA.enc_of_dec hv) (fun _ => rfl) h
  · exact code_of_parse_of (fun f => FA.enc_of_dec hv) (fun _ => rfl) h
  · exact code_of_parse_of (fun f => FA.enc_of_dec hv) (fun _ => rfl) h
  · exact code_of_parse_of (fun f => FA.enc_of_dec hv) (fun _ => rfl) h
  · exact code_of_parse_of (fun f => FA.enc_of_dec hv) (fun _ => rfl) h
  · exact code_of_parse_of (fun f => FI.enc_of_dec hv) (fun _ => rfl) h
  · exact code_of_parse_of (fun f => FI.enc_of_dec hv) (fun _ => rfl) h
  · exact code_of_parse_of (fun f => FI.enc_of_dec hv) (fun _ => rfl) h
  · exact code_of_parse_of (fun f => FI.enc_of_dec hv) (fun _ => rfl) h
  · exact code_of_parse_of (fun f => FI.enc_of_dec hv) (fun _ => rfl) h
  · exact code_of_parse_of (fun f => FI.enc_of_dec hv) (fun _ => rfl) h
  · exact code_of_parse_of (fun f => FI.enc_of_dec hv) (fun _ => rfl) h
  · exact code_of_parse_of (fun f => FI.enc_of_dec hv) (fun _ => rfl) h
  · exact code_of_parse_of (fun f => FAgen.enc_of_dec hv) (fun _ => rfl) h
  · exact code_of_parse_of (fun f => FCvtif.enc_of_dec hv) (fun _ => rfl) h
  · exact code_of_parse_of (fun f => FCvtfi.enc_of_dec hv) (fun _ => rfl) h
  · exact code_of_parse_of (fun f => FF.enc_of_dec hv) (fun _ => rfl) h
  · exact code_of_parse_of (fun f => FF.enc_of_dec hv) (fun _ => rfl) h
  · exact code_of_parse_of (fun f => FF.enc_of_dec hv) (fun _ => rfl) h
  · exact code_of_parse_of (fun f => FF.enc_of_dec hv) (fun _ => rfl) h
  · exact code_of_parse_of (fun f => FF.enc_of_dec hv) (fun _ => rfl) h
  · exact code_of_parse_of (fun f => FF.enc_of_dec hv) (fun _ => rfl) h
  · exact code_of_parse_of (fun f => FLd.enc_of_dec hv) (fun _ => rfl) h
  · exact code_of_parse_of (fun f => FLd.enc_of_dec hv) (fun _ => rfl) h
  · exact code_of_parse_of (fun f => FSt.enc_of_dec hv) (fun _ => rfl) h
  · exact code_of_parse_of (fun f => FLdv.enc_of_dec hv) (fun _ => rfl) h
  · exact code_of_parse_of (fun f => FStv.enc_of_dec hv) (fun _ => rfl) h
  · exact code_of_parse_of (fun f => FLdl.enc_of_dec hv) (fun _ => rfl) h
  · exact code_of_parse_of (fun f => FStl.enc_of_dec hv) (fun _ => rfl) h
  · exact code_of_parse_of (fun f => FLdvl.enc_of_dec hv) (fun _ => rfl) h
  · exact code_of_parse_of (fun f => FStvl.enc_of_dec hv) (fun _ => rfl) h
  · exact code_of_parse_of (fun f => FChnop.enc_of_dec hv) (fun _ => rfl) h
  · exact code_of_parse_of (fun f => FAmo.enc_of_dec hv) (fun _ => rfl) h
  · exact code_of_parse_of (fun f => FAmol.enc_of_dec hv) (fun _ => rfl) h
  · exact code_of_parse_of (fun f => FFence.enc_of_dec hv) (fun _ => rfl) h
  · exact code_of_parse_of (fun f => FGath.enc_of_dec hv) (fun _ => rfl) h
  · exact code_of_parse_of (fun f => FScat.enc_of_dec hv) (fun _ => rfl) h
  · exact code_of_parse_of (fun f => FScata.enc_of_dec hv) (fun _ => rfl) h
  · exact code_of_parse_of (fun f => FE.enc_of_dec hv) (fun _ => rfl) h
  · exact code_of_parse_of (fun f => FE.enc_of_dec hv) (fun _ => rfl) h
  · exact code_of_parse_of (fun f => FE.enc_of_dec hv) (fun _ => rfl) h
  · exact code_of_parse_of (fun f => FPref.enc_of_dec hv) (fun _ => rfl) h
  · exact code_of_parse_of (fun f => FSynci.enc_of_dec hv) (fun _ => rfl) h
  · exact code_of_parse_of (fun f => FWaitg.enc_of_dec hv) (fun _ => rfl) h
  · exact code_of_parse_of (fun f => FInv.enc_of_dec hv) (fun _ => rfl) h
  · exact code_of_parse_of (fun f => FInv.enc_of_dec hv) (fun _ => rfl) h
  · exact code_of_parse_of (fun f => FTfetch.enc_of_dec hv) (fun _ => rfl) h
  · exact code_of_parse_of (fun f => FFar.enc_of_dec hv) (fun _ => rfl) h
  · exact code_of_parse_of (fun f => FV.enc_of_dec hv) (fun _ => rfl) h
  · exact code_of_parse_of (fun f => FV.enc_of_dec hv) (fun _ => rfl) h
  · exact code_of_parse_of (fun f => FV.enc_of_dec hv) (fun _ => rfl) h
  · exact code_of_parse_of (fun f => FV3.enc_of_dec hv) (fun _ => rfl) h
  · exact code_of_parse_of (fun f => FV3.enc_of_dec hv) (fun _ => rfl) h
  · exact code_of_parse_of (fun f => FV.enc_of_dec hv) (fun _ => rfl) h
  · exact code_of_parse_of (fun f => FV.enc_of_dec hv) (fun _ => rfl) h
  · exact code_of_parse_of (fun f => FV.enc_of_dec hv) (fun _ => rfl) h
  · exact code_of_parse_of (fun f => FV.enc_of_dec hv) (fun _ => rfl) h
  · exact code_of_parse_of (fun f => FV.enc_of_dec hv) (fun _ => rfl) h
  · exact code_of_parse_of (fun f => FF.enc_of_dec hv) (fun _ => rfl) h
  · exact code_of_parse_of (fun f => FF.enc_of_dec hv) (fun _ => rfl) h
  · exact code_of_parse_of (fun f => FV.enc_of_dec hv) (fun _ => rfl) h
  · exact code_of_parse_of (fun f => FV.enc_of_dec hv) (fun _ => rfl) h
  · exact code_of_parse_of (fun f => FVcmp.enc_of_dec hv) (fun _ => rfl) h
  · exact code_of_parse_of (fun f => FVsel.enc_of_dec hv) (fun _ => rfl) h
  · exact code_of_parse_of (fun f => FVred.enc_of_dec hv) (fun _ => rfl) h
  · exact code_of_parse_of (fun f => FVred.enc_of_dec hv) (fun _ => rfl) h
  · exact code_of_parse_of (fun f => FV.enc_of_dec hv) (fun _ => rfl) h
  · exact code_of_parse_of (fun f => FVx.enc_of_dec hv) (fun _ => rfl) h
  · exact code_of_parse_of (fun f => FVx.enc_of_dec hv) (fun _ => rfl) h
  · exact code_of_parse_of (fun f => FVx.enc_of_dec hv) (fun _ => rfl) h
  · exact code_of_parse_of (fun f => FA.enc_of_dec hv) (fun _ => rfl) h
  · exact code_of_parse_of (fun f => FVshuf.enc_of_dec hv) (fun _ => rfl) h
  · exact code_of_parse_of (fun f => FVcvt.enc_of_dec hv) (fun _ => rfl) h
  · exact code_of_parse_of (fun f => FF.enc_of_dec hv) (fun _ => rfl) h
  · exact code_of_parse_of (fun f => FA.enc_of_dec hv) (fun _ => rfl) h
  · exact code_of_parse_of (fun f => FA.enc_of_dec hv) (fun _ => rfl) h
  · exact code_of_parse_of (fun f => FA.enc_of_dec hv) (fun _ => rfl) h
  · exact code_of_parse_of (fun f => FA.enc_of_dec hv) (fun _ => rfl) h
  · exact code_of_parse_of (fun f => FA.enc_of_dec hv) (fun _ => rfl) h
  · exact code_of_parse_of (fun f => FA.enc_of_dec hv) (fun _ => rfl) h
  · exact code_of_parse_of (fun f => FA.enc_of_dec hv) (fun _ => rfl) h
  · exact code_of_parse_of (fun f => FA.enc_of_dec hv) (fun _ => rfl) h
  · exact code_of_parse_of (fun f => FA.enc_of_dec hv) (fun _ => rfl) h
  · exact code_of_parse_of (fun f => FVmm.enc_of_dec hv) (fun _ => rfl) h
  · exact code_of_parse_of (fun f => FVmm.enc_of_dec hv) (fun _ => rfl) h
  · exact code_of_parse_of (fun f => FVpack.enc_of_dec hv) (fun _ => rfl) h
  · exact code_of_parse_of (fun f => FVunpk.enc_of_dec hv) (fun _ => rfl) h
  · exact code_of_parse_of (fun f => FVmask.enc_of_dec hv) (fun _ => rfl) h
  · exact code_of_parse_of (fun f => FT.enc_of_dec hv) (fun _ => rfl) h
  · exact code_of_parse_of (fun f => FWload.enc_of_dec hv) (fun _ => rfl) h
  · exact code_of_parse_of (fun f => FT.enc_of_dec hv) (fun _ => rfl) h
  · exact code_of_parse_of (fun f => FT.enc_of_dec hv) (fun _ => rfl) h
  · exact code_of_parse_of (fun f => FT.enc_of_dec hv) (fun _ => rfl) h
  · exact code_of_parse_of (fun f => FT.enc_of_dec hv) (fun _ => rfl) h
  · exact code_of_parse_of (fun f => FTmul.enc_of_dec hv) (fun _ => rfl) h
  · exact code_of_parse_of (fun f => FBnd.enc_of_dec hv) (fun _ => rfl) h
  · exact code_of_parse_of (fun f => FBnd.enc_of_dec hv) (fun _ => rfl) h
  · exact code_of_parse_of (fun f => FBnd.enc_of_dec hv) (fun _ => rfl) h
  · exact code_of_parse_of (fun f => FE.enc_of_dec hv) (fun _ => rfl) h
  · exact code_of_parse_of (fun f => FDom.enc_of_dec hv) (fun _ => rfl) h
  · exact code_of_parse_of (fun f => FPwr.enc_of_dec hv) (fun _ => rfl) h
  · exact code_of_parse_of (fun f => FPrd.enc_of_dec hv) (fun _ => rfl) h
  · exact code_of_parse_of (fun f => FPrd.enc_of_dec hv) (fun _ => rfl) h
  · exact code_of_parse_of (fun f => FDom.enc_of_dec hv) (fun _ => rfl) h
  · exact code_of_parse_of (fun f => FDom.enc_of_dec hv) (fun _ => rfl) h
  · exact code_of_parse_of (fun f => FDom.enc_of_dec hv) (fun _ => rfl) h
  · exact code_of_parse_of (fun f => FFeed.enc_of_dec hv) (fun _ => rfl) h
  · exact code_of_parse_of (fun f => FTap.enc_of_dec hv) (fun _ => rfl) h
  · exact code_of_parse_of (fun f => FStap.enc_of_dec hv) (fun _ => rfl) h
  · exact code_of_parse_of (fun f => FTap.enc_of_dec hv) (fun _ => rfl) h
  · exact code_of_parse_of (fun f => FSmpl.enc_of_dec hv) (fun _ => rfl) h
  · exact code_of_parse_of (fun f => FE.enc_of_dec hv) (fun _ => rfl) h
  · exact code_of_parse_of (fun f => FSeqrd.enc_of_dec hv) (fun _ => rfl) h
  · cases h

end Sys2Proof
end

