-- ==== Sys2Proof/Laws/PerInstr.lean ====
section
/-! SUPPORT. Per-instruction families. `Encoding`: the OP and the fields of an instruction are those that `parse` reads back
as it. An operation of the device has no word, and nothing is said of it. -/

namespace Sys2Proof.Laws.Encoding

/-- An instruction's OP is a byte, its fields fill the 56 bits below, and the two spell the instruction (R98, R122). -/
def Statement (i : Instr) : Prop :=
  ∀ c, i.code = some c → c.1 < 256 ∧ c.2 < 2 ^ 56 ∧ parse c.1 c.2 = some (some (.instr i))


/-- The statement from its parts: the OP, the layout's bound and round trip, and the row of `parse`. -/
theorem statement_of {α : Type} {i : α → Instr} {op w : Nat} {dec : Nat → Option α} (f : α) (hc : (i f).code = some (op, w))
    (ho : op < 256) (hw : w < 2 ^ 56) (hd : dec w = some f)
    (hp : ∀ v, parse op v = some ((dec v).map fun x => .instr (i x))) : Statement (i f) := by
  intro c h
  rw [hc] at h
  cases h
  exact ⟨ho, hw, by rw [hp, hd]; rfl⟩

theorem read (f : FRead) : Statement (.read f) :=
  statement_of (i := .read) f rfl (by decide) (FRead.enc_lt f) (FRead.dec_enc f) fun _ => rfl

theorem mov (f : FP) : Statement (.mov f) :=
  statement_of (i := .mov) f rfl (by decide) (FP.enc_lt f) (FP.dec_enc f) fun _ => rfl

theorem mov4 (f : FMov4) : Statement (.mov4 f) :=
  statement_of (i := .mov4) f rfl (by decide) (FMov4.enc_lt f) (FMov4.dec_enc f) fun _ => rfl

theorem limm (f : FLimm) : Statement (.limm f) :=
  statement_of (i := .limm) f rfl (by decide) (FLimm.enc_lt f) (FLimm.dec_enc f) fun _ => rfl

theorem orhi (f : FOrhi) : Statement (.orhi f) :=
  statement_of (i := .orhi) f rfl (by decide) (FOrhi.enc_lt f) (FOrhi.dec_enc f) fun _ => rfl

theorem nullI (f : FP) : Statement (.nullI f) :=
  statement_of (i := .nullI) f rfl (by decide) (FP.enc_lt f) (FP.dec_enc f) fun _ => rfl

theorem sel (f : FSel) : Statement (.sel f) :=
  statement_of (i := .sel) f rfl (by decide) (FSel.enc_lt f) (FSel.dec_enc f) fun _ => rfl

theorem br (f : FBr) : Statement (.br f) :=
  statement_of (i := .br) f rfl (by decide) (FBr.enc_lt f) (FBr.dec_enc f) fun _ => rfl

theorem bri (f : FExit) : Statement (.bri f) :=
  statement_of (i := .bri) f rfl (by decide) (FExit.enc_lt f) (FExit.dec_enc f) fun _ => rfl

theorem call (f : FBr) : Statement (.call f) :=
  statement_of (i := .call) f rfl (by decide) (FBr.enc_lt f) (FBr.dec_enc f) fun _ => rfl

theorem ret (f : FExit) : Statement (.ret f) :=
  statement_of (i := .ret) f rfl (by decide) (FExit.enc_lt f) (FExit.dec_enc f) fun _ => rfl

theorem trap (f : FTrap) : Statement (.trap f) :=
  statement_of (i := .trap) f rfl (by decide) (FTrap.enc_lt f) (FTrap.dec_enc f) fun _ => rfl

theorem rett (f : FExit) : Statement (.rett f) :=
  statement_of (i := .rett) f rfl (by decide) (FExit.enc_lt f) (FExit.dec_enc f) fun _ => rfl

theorem csrr (f : FCsr) : Statement (.csrr f) :=
  statement_of (i := .csrr) f rfl (by decide) (FCsr.enc_lt f) (FCsr.dec_enc f) fun _ => rfl

theorem csrw (f : FCsr) : Statement (.csrw f) :=
  statement_of (i := .csrw) f rfl (by decide) (FCsr.enc_lt f) (FCsr.dec_enc f) fun _ => rfl

theorem csrx (f : FCsr) : Statement (.csrx f) :=
  statement_of (i := .csrx) f rfl (by decide) (FCsr.enc_lt f) (FCsr.dec_enc f) fun _ => rfl

theorem brk (f : FPr) : Statement (.brk f) :=
  statement_of (i := .brk) f rfl (by decide) (FPr.enc_lt f) (FPr.dec_enc f) fun _ => rfl

theorem fork (f : FFork) : Statement (.fork f) :=
  statement_of (i := .fork) f rfl (by decide) (FFork.enc_lt f) (FFork.dec_enc f) fun _ => rfl

theorem spawn (f : FFork) : Statement (.spawn f) :=
  statement_of (i := .spawn) f rfl (by decide) (FFork.enc_lt f) (FFork.dec_enc f) fun _ => rfl

theorem endI (f : FExit) : Statement (.endI f) :=
  statement_of (i := .endI) f rfl (by decide) (FExit.enc_lt f) (FExit.dec_enc f) fun _ => rfl

theorem join (f : FP) : Statement (.join f) :=
  statement_of (i := .join) f rfl (by decide) (FP.enc_lt f) (FP.dec_enc f) fun _ => rfl

theorem redt (f : FRedt) : Statement (.redt f) :=
  statement_of (i := .redt) f rfl (by decide) (FRedt.enc_lt f) (FRedt.dec_enc f) fun _ => rfl

theorem launch (f : FFar) : Statement (.launch f) :=
  statement_of (i := .launch) f rfl (by decide) (FFar.enc_lt f) (FFar.dec_enc f) fun _ => rfl

theorem waitc (f : FWaitc) : Statement (.waitc f) :=
  statement_of (i := .waitc) f rfl (by decide) (FWaitc.enc_lt f) (FWaitc.dec_enc f) fun _ => rfl

theorem teq (f : FA) : Statement (.teq f) :=
  statement_of (i := .teq) f rfl (by decide) (FA.enc_lt f) (FA.dec_enc f) fun _ => rfl

theorem tne (f : FA) : Statement (.tne f) :=
  statement_of (i := .tne) f rfl (by decide) (FA.enc_lt f) (FA.dec_enc f) fun _ => rfl

theorem tlt (f : FA) : Statement (.tlt f) :=
  statement_of (i := .tlt) f rfl (by decide) (FA.enc_lt f) (FA.dec_enc f) fun _ => rfl

theorem tle (f : FA) : Statement (.tle f) :=
  statement_of (i := .tle) f rfl (by decide) (FA.enc_lt f) (FA.dec_enc f) fun _ => rfl

theorem tltu (f : FA) : Statement (.tltu f) :=
  statement_of (i := .tltu) f rfl (by decide) (FA.enc_lt f) (FA.dec_enc f) fun _ => rfl

theorem tleu (f : FA) : Statement (.tleu f) :=
  statement_of (i := .tleu) f rfl (by decide) (FA.enc_lt f) (FA.dec_enc f) fun _ => rfl

theorem teqi (f : FI) : Statement (.teqi f) :=
  statement_of (i := .teqi) f rfl (by decide) (FI.enc_lt f) (FI.dec_enc f) fun _ => rfl

theorem tnei (f : FI) : Statement (.tnei f) :=
  statement_of (i := .tnei) f rfl (by decide) (FI.enc_lt f) (FI.dec_enc f) fun _ => rfl

theorem tlti (f : FI) : Statement (.tlti f) :=
  statement_of (i := .tlti) f rfl (by decide) (FI.enc_lt f) (FI.dec_enc f) fun _ => rfl

theorem tlei (f : FI) : Statement (.tlei f) :=
  statement_of (i := .tlei) f rfl (by decide) (FI.enc_lt f) (FI.dec_enc f) fun _ => rfl

theorem tgti (f : FI) : Statement (.tgti f) :=
  statement_of (i := .tgti) f rfl (by decide) (FI.enc_lt f) (FI.dec_enc f) fun _ => rfl

theorem tgei (f : FI) : Statement (.tgei f) :=
  statement_of (i := .tgei) f rfl (by decide) (FI.enc_lt f) (FI.dec_enc f) fun _ => rfl

theorem tltui (f : FI) : Statement (.tltui f) :=
  statement_of (i := .tltui) f rfl (by decide) (FI.enc_lt f) (FI.dec_enc f) fun _ => rfl

theorem tgtui (f : FI) : Statement (.tgtui f) :=
  statement_of (i := .tgtui) f rfl (by decide) (FI.enc_lt f) (FI.dec_enc f) fun _ => rfl

theorem ftest (f : FFtest) : Statement (.ftest f) :=
  statement_of (i := .ftest) f rfl (by decide) (FFtest.enc_lt f) (FFtest.dec_enc f) fun _ => rfl

theorem add (f : FA) : Statement (.add f) :=
  statement_of (i := .add) f rfl (by decide) (FA.enc_lt f) (FA.dec_enc f) fun _ => rfl

theorem sub (f : FA) : Statement (.sub f) :=
  statement_of (i := .sub) f rfl (by decide) (FA.enc_lt f) (FA.dec_enc f) fun _ => rfl

theorem mul (f : FA) : Statement (.mul f) :=
  statement_of (i := .mul) f rfl (by decide) (FA.enc_lt f) (FA.dec_enc f) fun _ => rfl

theorem mulh (f : FA) : Statement (.mulh f) :=
  statement_of (i := .mulh) f rfl (by decide) (FA.enc_lt f) (FA.dec_enc f) fun _ => rfl

theorem mulhu (f : FA) : Statement (.mulhu f) :=
  statement_of (i := .mulhu) f rfl (by decide) (FA.enc_lt f) (FA.dec_enc f) fun _ => rfl

theorem div (f : FA) : Statement (.div f) :=
  statement_of (i := .div) f rfl (by decide) (FA.enc_lt f) (FA.dec_enc f) fun _ => rfl

theorem divu (f : FA) : Statement (.divu f) :=
  statement_of (i := .divu) f rfl (by decide) (FA.enc_lt f) (FA.dec_enc f) fun _ => rfl

theorem rem (f : FA) : Statement (.rem f) :=
  statement_of (i := .rem) f rfl (by decide) (FA.enc_lt f) (FA.dec_enc f) fun _ => rfl

theorem remu (f : FA) : Statement (.remu f) :=
  statement_of (i := .remu) f rfl (by decide) (FA.enc_lt f) (FA.dec_enc f) fun _ => rfl

theorem andI (f : FA) : Statement (.andI f) :=
  statement_of (i := .andI) f rfl (by decide) (FA.enc_lt f) (FA.dec_enc f) fun _ => rfl

theorem orI (f : FA) : Statement (.orI f) :=
  statement_of (i := .orI) f rfl (by decide) (FA.enc_lt f) (FA.dec_enc f) fun _ => rfl

theorem xorI (f : FA) : Statement (.xorI f) :=
  statement_of (i := .xorI) f rfl (by decide) (FA.enc_lt f) (FA.dec_enc f) fun _ => rfl

theorem andn (f : FA) : Statement (.andn f) :=
  statement_of (i := .andn) f rfl (by decide) (FA.enc_lt f) (FA.dec_enc f) fun _ => rfl

theorem shl (f : FA) : Statement (.shl f) :=
  statement_of (i := .shl) f rfl (by decide) (FA.enc_lt f) (FA.dec_enc f) fun _ => rfl

theorem shr (f : FA) : Statement (.shr f) :=
  statement_of (i := .shr) f rfl (by decide) (FA.enc_lt f) (FA.dec_enc f) fun _ => rfl

theorem sra (f : FA) : Statement (.sra f) :=
  statement_of (i := .sra) f rfl (by decide) (FA.enc_lt f) (FA.dec_enc f) fun _ => rfl

theorem rotl (f : FA) : Statement (.rotl f) :=
  statement_of (i := .rotl) f rfl (by decide) (FA.enc_lt f) (FA.dec_enc f) fun _ => rfl

theorem min (f : FA) : Statement (.min f) :=
  statement_of (i := .min) f rfl (by decide) (FA.enc_lt f) (FA.dec_enc f) fun _ => rfl

theorem max (f : FA) : Statement (.max f) :=
  statement_of (i := .max) f rfl (by decide) (FA.enc_lt f) (FA.dec_enc f) fun _ => rfl

theorem minu (f : FA) : Statement (.minu f) :=
  statement_of (i := .minu) f rfl (by decide) (FA.enc_lt f) (FA.dec_enc f) fun _ => rfl

theorem maxu (f : FA) : Statement (.maxu f) :=
  statement_of (i := .maxu) f rfl (by decide) (FA.enc_lt f) (FA.dec_enc f) fun _ => rfl

theorem clz (f : FA) : Statement (.clz f) :=
  statement_of (i := .clz) f rfl (by decide) (FA.enc_lt f) (FA.dec_enc f) fun _ => rfl

theorem ctz (f : FA) : Statement (.ctz f) :=
  statement_of (i := .ctz) f rfl (by decide) (FA.enc_lt f) (FA.dec_enc f) fun _ => rfl

theorem popc (f : FA) : Statement (.popc f) :=
  statement_of (i := .popc) f rfl (by decide) (FA.enc_lt f) (FA.dec_enc f) fun _ => rfl

theorem abs (f : FA) : Statement (.abs f) :=
  statement_of (i := .abs) f rfl (by decide) (FA.enc_lt f) (FA.dec_enc f) fun _ => rfl

theorem neg (f : FA) : Statement (.neg f) :=
  statement_of (i := .neg) f rfl (by decide) (FA.enc_lt f) (FA.dec_enc f) fun _ => rfl

theorem sext (f : FA) : Statement (.sext f) :=
  statement_of (i := .sext) f rfl (by decide) (FA.enc_lt f) (FA.dec_enc f) fun _ => rfl

theorem zext (f : FA) : Statement (.zext f) :=
  statement_of (i := .zext) f rfl (by decide) (FA.enc_lt f) (FA.dec_enc f) fun _ => rfl

theorem addi (f : FI) : Statement (.addi f) :=
  statement_of (i := .addi) f rfl (by decide) (FI.enc_lt f) (FI.dec_enc f) fun _ => rfl

theorem muli (f : FI) : Statement (.muli f) :=
  statement_of (i := .muli) f rfl (by decide) (FI.enc_lt f) (FI.dec_enc f) fun _ => rfl

theorem andimm (f : FI) : Statement (.andimm f) :=
  statement_of (i := .andimm) f rfl (by decide) (FI.enc_lt f) (FI.dec_enc f) fun _ => rfl

theorem orimm (f : FI) : Statement (.orimm f) :=
  statement_of (i := .orimm) f rfl (by decide) (FI.enc_lt f) (FI.dec_enc f) fun _ => rfl

theorem xorimm (f : FI) : Statement (.xorimm f) :=
  statement_of (i := .xorimm) f rfl (by decide) (FI.enc_lt f) (FI.dec_enc f) fun _ => rfl

theorem shli (f : FI) : Statement (.shli f) :=
  statement_of (i := .shli) f rfl (by decide) (FI.enc_lt f) (FI.dec_enc f) fun _ => rfl

theorem shri (f : FI) : Statement (.shri f) :=
  statement_of (i := .shri) f rfl (by decide) (FI.enc_lt f) (FI.dec_enc f) fun _ => rfl

theorem srai (f : FI) : Statement (.srai f) :=
  statement_of (i := .srai) f rfl (by decide) (FI.enc_lt f) (FI.dec_enc f) fun _ => rfl

theorem agen (f : FAgen) : Statement (.agen f) :=
  statement_of (i := .agen) f rfl (by decide) (FAgen.enc_lt f) (FAgen.dec_enc f) fun _ => rfl

theorem cvtif (f : FCvtif) : Statement (.cvtif f) :=
  statement_of (i := .cvtif) f rfl (by decide) (FCvtif.enc_lt f) (FCvtif.dec_enc f) fun _ => rfl

theorem cvtfi (f : FCvtfi) : Statement (.cvtfi f) :=
  statement_of (i := .cvtfi) f rfl (by decide) (FCvtfi.enc_lt f) (FCvtfi.dec_enc f) fun _ => rfl

theorem fadd (f : FF) : Statement (.fadd f) :=
  statement_of (i := .fadd) f rfl (by decide) (FF.enc_lt f) (FF.dec_enc f) fun _ => rfl

theorem fsub (f : FF) : Statement (.fsub f) :=
  statement_of (i := .fsub) f rfl (by decide) (FF.enc_lt f) (FF.dec_enc f) fun _ => rfl

theorem fmul (f : FF) : Statement (.fmul f) :=
  statement_of (i := .fmul) f rfl (by decide) (FF.enc_lt f) (FF.dec_enc f) fun _ => rfl

theorem fdiv (f : FF) : Statement (.fdiv f) :=
  statement_of (i := .fdiv) f rfl (by decide) (FF.enc_lt f) (FF.dec_enc f) fun _ => rfl

theorem fmin (f : FF) : Statement (.fmin f) :=
  statement_of (i := .fmin) f rfl (by decide) (FF.enc_lt f) (FF.dec_enc f) fun _ => rfl

theorem fmax (f : FF) : Statement (.fmax f) :=
  statement_of (i := .fmax) f rfl (by decide) (FF.enc_lt f) (FF.dec_enc f) fun _ => rfl

theorem ld (f : FLd) : Statement (.ld f) :=
  statement_of (i := .ld) f rfl (by decide) (FLd.enc_lt f) (FLd.dec_enc f) fun _ => rfl

theorem lds (f : FLd) : Statement (.lds f) :=
  statement_of (i := .lds) f rfl (by decide) (FLd.enc_lt f) (FLd.dec_enc f) fun _ => rfl

theorem st (f : FSt) : Statement (.st f) :=
  statement_of (i := .st) f rfl (by decide) (FSt.enc_lt f) (FSt.dec_enc f) fun _ => rfl

theorem ldv (f : FLdv) : Statement (.ldv f) :=
  statement_of (i := .ldv) f rfl (by decide) (FLdv.enc_lt f) (FLdv.dec_enc f) fun _ => rfl

theorem stv (f : FStv) : Statement (.stv f) :=
  statement_of (i := .stv) f rfl (by decide) (FStv.enc_lt f) (FStv.dec_enc f) fun _ => rfl

theorem ldl (f : FLdl) : Statement (.ldl f) :=
  statement_of (i := .ldl) f rfl (by decide) (FLdl.enc_lt f) (FLdl.dec_enc f) fun _ => rfl

theorem stl (f : FStl) : Statement (.stl f) :=
  statement_of (i := .stl) f rfl (by decide) (FStl.enc_lt f) (FStl.dec_enc f) fun _ => rfl

theorem ldvl (f : FLdvl) : Statement (.ldvl f) :=
  statement_of (i := .ldvl) f rfl (by decide) (FLdvl.enc_lt f) (FLdvl.dec_enc f) fun _ => rfl

theorem stvl (f : FStvl) : Statement (.stvl f) :=
  statement_of (i := .stvl) f rfl (by decide) (FStvl.enc_lt f) (FStvl.dec_enc f) fun _ => rfl

theorem chnop (f : FChnop) : Statement (.chnop f) :=
  statement_of (i := .chnop) f rfl (by decide) (FChnop.enc_lt f) (FChnop.dec_enc f) fun _ => rfl

theorem amo (f : FAmo) : Statement (.amo f) :=
  statement_of (i := .amo) f rfl (by decide) (FAmo.enc_lt f) (FAmo.dec_enc f) fun _ => rfl

theorem amol (f : FAmol) : Statement (.amol f) :=
  statement_of (i := .amol) f rfl (by decide) (FAmol.enc_lt f) (FAmol.dec_enc f) fun _ => rfl

theorem fence (f : FFence) : Statement (.fence f) :=
  statement_of (i := .fence) f rfl (by decide) (FFence.enc_lt f) (FFence.dec_enc f) fun _ => rfl

theorem gath (f : FGath) : Statement (.gath f) :=
  statement_of (i := .gath) f rfl (by decide) (FGath.enc_lt f) (FGath.dec_enc f) fun _ => rfl

theorem scat (f : FScat) : Statement (.scat f) :=
  statement_of (i := .scat) f rfl (by decide) (FScat.enc_lt f) (FScat.dec_enc f) fun _ => rfl

theorem scata (f : FScata) : Statement (.scata f) :=
  statement_of (i := .scata) f rfl (by decide) (FScata.enc_lt f) (FScata.dec_enc f) fun _ => rfl

theorem xcopy (f : FE) : Statement (.xcopy f) :=
  statement_of (i := .xcopy) f rfl (by decide) (FE.enc_lt f) (FE.dec_enc f) fun _ => rfl

theorem xfill (f : FE) : Statement (.xfill f) :=
  statement_of (i := .xfill) f rfl (by decide) (FE.enc_lt f) (FE.dec_enc f) fun _ => rfl

theorem xcomp (f : FE) : Statement (.xcomp f) :=
  statement_of (i := .xcomp) f rfl (by decide) (FE.enc_lt f) (FE.dec_enc f) fun _ => rfl

theorem pref (f : FPref) : Statement (.pref f) :=
  statement_of (i := .pref) f rfl (by decide) (FPref.enc_lt f) (FPref.dec_enc f) fun _ => rfl

theorem synci (f : FSynci) : Statement (.synci f) :=
  statement_of (i := .synci) f rfl (by decide) (FSynci.enc_lt f) (FSynci.dec_enc f) fun _ => rfl

theorem waitg (f : FWaitg) : Statement (.waitg f) :=
  statement_of (i := .waitg) f rfl (by decide) (FWaitg.enc_lt f) (FWaitg.dec_enc f) fun _ => rfl

theorem invr (f : FInv) : Statement (.invr f) :=
  statement_of (i := .invr) f rfl (by decide) (FInv.enc_lt f) (FInv.dec_enc f) fun _ => rfl

theorem inva (f : FInv) : Statement (.inva f) :=
  statement_of (i := .inva) f rfl (by decide) (FInv.enc_lt f) (FInv.dec_enc f) fun _ => rfl

theorem tfetch (f : FTfetch) : Statement (.tfetch f) :=
  statement_of (i := .tfetch) f rfl (by decide) (FTfetch.enc_lt f) (FTfetch.dec_enc f) fun _ => rfl

theorem kvapp (f : FFar) : Statement (.kvapp f) :=
  statement_of (i := .kvapp) f rfl (by decide) (FFar.enc_lt f) (FFar.dec_enc f) fun _ => rfl

theorem vadd (f : FV) : Statement (.vadd f) :=
  statement_of (i := .vadd) f rfl (by decide) (FV.enc_lt f) (FV.dec_enc f) fun _ => rfl

theorem vsub (f : FV) : Statement (.vsub f) :=
  statement_of (i := .vsub) f rfl (by decide) (FV.enc_lt f) (FV.dec_enc f) fun _ => rfl

theorem vmul (f : FV) : Statement (.vmul f) :=
  statement_of (i := .vmul) f rfl (by decide) (FV.enc_lt f) (FV.dec_enc f) fun _ => rfl

theorem vfma (f : FV3) : Statement (.vfma f) :=
  statement_of (i := .vfma) f rfl (by decide) (FV3.enc_lt f) (FV3.dec_enc f) fun _ => rfl

theorem vfms (f : FV3) : Statement (.vfms f) :=
  statement_of (i := .vfms) f rfl (by decide) (FV3.enc_lt f) (FV3.dec_enc f) fun _ => rfl

theorem vdiv (f : FV) : Statement (.vdiv f) :=
  statement_of (i := .vdiv) f rfl (by decide) (FV.enc_lt f) (FV.dec_enc f) fun _ => rfl

theorem vsqrt (f : FV) : Statement (.vsqrt f) :=
  statement_of (i := .vsqrt) f rfl (by decide) (FV.enc_lt f) (FV.dec_enc f) fun _ => rfl

theorem vrsq (f : FV) : Statement (.vrsq f) :=
  statement_of (i := .vrsq) f rfl (by decide) (FV.enc_lt f) (FV.dec_enc f) fun _ => rfl

theorem vmin (f : FV) : Statement (.vmin f) :=
  statement_of (i := .vmin) f rfl (by decide) (FV.enc_lt f) (FV.dec_enc f) fun _ => rfl

theorem vmax (f : FV) : Statement (.vmax f) :=
  statement_of (i := .vmax) f rfl (by decide) (FV.enc_lt f) (FV.dec_enc f) fun _ => rfl

theorem vabs (f : FF) : Statement (.vabs f) :=
  statement_of (i := .vabs) f rfl (by decide) (FF.enc_lt f) (FF.dec_enc f) fun _ => rfl

theorem vneg (f : FF) : Statement (.vneg f) :=
  statement_of (i := .vneg) f rfl (by decide) (FF.enc_lt f) (FF.dec_enc f) fun _ => rfl

theorem vexp2 (f : FV) : Statement (.vexp2 f) :=
  statement_of (i := .vexp2) f rfl (by decide) (FV.enc_lt f) (FV.dec_enc f) fun _ => rfl

theorem vlog2 (f : FV) : Statement (.vlog2 f) :=
  statement_of (i := .vlog2) f rfl (by decide) (FV.enc_lt f) (FV.dec_enc f) fun _ => rfl

theorem vcmp (f : FVcmp) : Statement (.vcmp f) :=
  statement_of (i := .vcmp) f rfl (by decide) (FVcmp.enc_lt f) (FVcmp.dec_enc f) fun _ => rfl

theorem vsel (f : FVsel) : Statement (.vsel f) :=
  statement_of (i := .vsel) f rfl (by decide) (FVsel.enc_lt f) (FVsel.dec_enc f) fun _ => rfl

theorem vred (f : FVred) : Statement (.vred f) :=
  statement_of (i := .vred) f rfl (by decide) (FVred.enc_lt f) (FVred.dec_enc f) fun _ => rfl

theorem vscan (f : FVred) : Statement (.vscan f) :=
  statement_of (i := .vscan) f rfl (by decide) (FVred.enc_lt f) (FVred.dec_enc f) fun _ => rfl

theorem vdot (f : FV) : Statement (.vdot f) :=
  statement_of (i := .vdot) f rfl (by decide) (FV.enc_lt f) (FV.dec_enc f) fun _ => rfl

theorem vbcast (f : FVx) : Statement (.vbcast f) :=
  statement_of (i := .vbcast) f rfl (by decide) (FVx.enc_lt f) (FVx.dec_enc f) fun _ => rfl

theorem vext (f : FVx) : Statement (.vext f) :=
  statement_of (i := .vext) f rfl (by decide) (FVx.enc_lt f) (FVx.dec_enc f) fun _ => rfl

theorem vins (f : FVx) : Statement (.vins f) :=
  statement_of (i := .vins) f rfl (by decide) (FVx.enc_lt f) (FVx.dec_enc f) fun _ => rfl

theorem vperm (f : FA) : Statement (.vperm f) :=
  statement_of (i := .vperm) f rfl (by decide) (FA.enc_lt f) (FA.dec_enc f) fun _ => rfl

theorem vshuf (f : FVshuf) : Statement (.vshuf f) :=
  statement_of (i := .vshuf) f rfl (by decide) (FVshuf.enc_lt f) (FVshuf.dec_enc f) fun _ => rfl

theorem vcvt (f : FVcvt) : Statement (.vcvt f) :=
  statement_of (i := .vcvt) f rfl (by decide) (FVcvt.enc_lt f) (FVcvt.dec_enc f) fun _ => rfl

theorem vscale (f : FF) : Statement (.vscale f) :=
  statement_of (i := .vscale) f rfl (by decide) (FF.enc_lt f) (FF.dec_enc f) fun _ => rfl

theorem viadd (f : FA) : Statement (.viadd f) :=
  statement_of (i := .viadd) f rfl (by decide) (FA.enc_lt f) (FA.dec_enc f) fun _ => rfl

theorem visub (f : FA) : Statement (.visub f) :=
  statement_of (i := .visub) f rfl (by decide) (FA.enc_lt f) (FA.dec_enc f) fun _ => rfl

theorem vimul (f : FA) : Statement (.vimul f) :=
  statement_of (i := .vimul) f rfl (by decide) (FA.enc_lt f) (FA.dec_enc f) fun _ => rfl

theorem viand (f : FA) : Statement (.viand f) :=
  statement_of (i := .viand) f rfl (by decide) (FA.enc_lt f) (FA.dec_enc f) fun _ => rfl

theorem vior (f : FA) : Statement (.vior f) :=
  statement_of (i := .vior) f rfl (by decide) (FA.enc_lt f) (FA.dec_enc f) fun _ => rfl

theorem vixor (f : FA) : Statement (.vixor f) :=
  statement_of (i := .vixor) f rfl (by decide) (FA.enc_lt f) (FA.dec_enc f) fun _ => rfl

theorem vishl (f : FA) : Statement (.vishl f) :=
  statement_of (i := .vishl) f rfl (by decide) (FA.enc_lt f) (FA.dec_enc f) fun _ => rfl

theorem vishr (f : FA) : Statement (.vishr f) :=
  statement_of (i := .vishr) f rfl (by decide) (FA.enc_lt f) (FA.dec_enc f) fun _ => rfl

theorem visra (f : FA) : Statement (.visra f) :=
  statement_of (i := .visra) f rfl (by decide) (FA.enc_lt f) (FA.dec_enc f) fun _ => rfl

theorem vimin (f : FVmm) : Statement (.vimin f) :=
  statement_of (i := .vimin) f rfl (by decide) (FVmm.enc_lt f) (FVmm.dec_enc f) fun _ => rfl

theorem vimax (f : FVmm) : Statement (.vimax f) :=
  statement_of (i := .vimax) f rfl (by decide) (FVmm.enc_lt f) (FVmm.dec_enc f) fun _ => rfl

theorem vpack (f : FVpack) : Statement (.vpack f) :=
  statement_of (i := .vpack) f rfl (by decide) (FVpack.enc_lt f) (FVpack.dec_enc f) fun _ => rfl

theorem vunpk (f : FVunpk) : Statement (.vunpk f) :=
  statement_of (i := .vunpk) f rfl (by decide) (FVunpk.enc_lt f) (FVunpk.dec_enc f) fun _ => rfl

theorem vmask (f : FVmask) : Statement (.vmask f) :=
  statement_of (i := .vmask) f rfl (by decide) (FVmask.enc_lt f) (FVmask.dec_enc f) fun _ => rfl

theorem syscfg (f : FT) : Statement (.syscfg f) :=
  statement_of (i := .syscfg) f rfl (by decide) (FT.enc_lt f) (FT.dec_enc f) fun _ => rfl

theorem wload (f : FWload) : Statement (.wload f) :=
  statement_of (i := .wload) f rfl (by decide) (FWload.enc_lt f) (FWload.dec_enc f) fun _ => rfl

theorem mma (f : FT) : Statement (.mma f) :=
  statement_of (i := .mma) f rfl (by decide) (FT.enc_lt f) (FT.dec_enc f) fun _ => rfl

theorem drain (f : FT) : Statement (.drain f) :=
  statement_of (i := .drain) f rfl (by decide) (FT.enc_lt f) (FT.dec_enc f) fun _ => rfl

theorem sysrel (f : FT) : Statement (.sysrel f) :=
  statement_of (i := .sysrel) f rfl (by decide) (FT.enc_lt f) (FT.dec_enc f) fun _ => rfl

theorem route (f : FT) : Statement (.route f) :=
  statement_of (i := .route) f rfl (by decide) (FT.enc_lt f) (FT.dec_enc f) fun _ => rfl

theorem tmul (f : FTmul) : Statement (.tmul f) :=
  statement_of (i := .tmul) f rfl (by decide) (FTmul.enc_lt f) (FTmul.dec_enc f) fun _ => rfl

theorem bind (f : FBnd) : Statement (.bind f) :=
  statement_of (i := .bind) f rfl (by decide) (FBnd.enc_lt f) (FBnd.dec_enc f) fun _ => rfl

theorem unbind (f : FBnd) : Statement (.unbind f) :=
  statement_of (i := .unbind) f rfl (by decide) (FBnd.enc_lt f) (FBnd.dec_enc f) fun _ => rfl

theorem attn (f : FBnd) : Statement (.attn f) :=
  statement_of (i := .attn) f rfl (by decide) (FBnd.enc_lt f) (FBnd.dec_enc f) fun _ => rfl

theorem patch (f : FE) : Statement (.patch f) :=
  statement_of (i := .patch) f rfl (by decide) (FE.enc_lt f) (FE.dec_enc f) fun _ => rfl

theorem pdom (f : FDom) : Statement (.pdom f) :=
  statement_of (i := .pdom) f rfl (by decide) (FDom.enc_lt f) (FDom.dec_enc f) fun _ => rfl

theorem pwr (f : FPwr) : Statement (.pwr f) :=
  statement_of (i := .pwr) f rfl (by decide) (FPwr.enc_lt f) (FPwr.dec_enc f) fun _ => rfl

theorem prd (f : FPrd) : Statement (.prd f) :=
  statement_of (i := .prd) f rfl (by decide) (FPrd.enc_lt f) (FPrd.dec_enc f) fun _ => rfl

theorem prdv (f : FPrd) : Statement (.prdv f) :=
  statement_of (i := .prdv) f rfl (by decide) (FPrd.enc_lt f) (FPrd.dec_enc f) fun _ => rfl

theorem pstep (f : FDom) : Statement (.pstep f) :=
  statement_of (i := .pstep) f rfl (by decide) (FDom.enc_lt f) (FDom.dec_enc f) fun _ => rfl

theorem psave (f : FDom) : Statement (.psave f) :=
  statement_of (i := .psave) f rfl (by decide) (FDom.enc_lt f) (FDom.dec_enc f) fun _ => rfl

theorem prest (f : FDom) : Statement (.prest f) :=
  statement_of (i := .prest) f rfl (by decide) (FDom.enc_lt f) (FDom.dec_enc f) fun _ => rfl

theorem pfeed (f : FFeed) : Statement (.pfeed f) :=
  statement_of (i := .pfeed) f rfl (by decide) (FFeed.enc_lt f) (FFeed.dec_enc f) fun _ => rfl

theorem tapcfg (f : FTap) : Statement (.tapcfg f) :=
  statement_of (i := .tapcfg) f rfl (by decide) (FTap.enc_lt f) (FTap.dec_enc f) fun _ => rfl

theorem stap (f : FStap) : Statement (.stap f) :=
  statement_of (i := .stap) f rfl (by decide) (FStap.enc_lt f) (FStap.dec_enc f) fun _ => rfl

theorem tapst (f : FTap) : Statement (.tapst f) :=
  statement_of (i := .tapst) f rfl (by decide) (FTap.enc_lt f) (FTap.dec_enc f) fun _ => rfl

theorem smpl (f : FSmpl) : Statement (.smpl f) :=
  statement_of (i := .smpl) f rfl (by decide) (FSmpl.enc_lt f) (FSmpl.dec_enc f) fun _ => rfl

theorem seqc (f : FE) : Statement (.seqc f) :=
  statement_of (i := .seqc) f rfl (by decide) (FE.enc_lt f) (FE.dec_enc f) fun _ => rfl

theorem seqrd (f : FSeqrd) : Statement (.seqrd f) :=
  statement_of (i := .seqrd) f rfl (by decide) (FSeqrd.enc_lt f) (FSeqrd.dec_enc f) fun _ => rfl

theorem launchAcceptance (chair : Nat) : Statement (.launchAcceptance chair) := by
  rintro _ ⟨⟩

theorem launchDispatch (canvas : Nat) : Statement (.launchDispatch canvas) := by
  rintro _ ⟨⟩

theorem rootAdmission (core idx : Nat) : Statement (.rootAdmission core idx) := by
  rintro _ ⟨⟩

theorem contextSlotTake (core : Nat) : Statement (.contextSlotTake core) := by
  rintro _ ⟨⟩

theorem slotRelease (core slot : Nat) : Statement (.slotRelease core slot) := by
  rintro _ ⟨⟩

theorem iterationStart (core slot rec idx : Nat) : Statement (.iterationStart core slot rec idx) := by
  rintro _ ⟨⟩

theorem iterationEnd (core slot uid : Nat) : Statement (.iterationEnd core slot uid) := by
  rintro _ ⟨⟩

theorem windowGrant (core slot uid ba : Nat) : Statement (.windowGrant core slot uid ba) := by
  rintro _ ⟨⟩

theorem blockFetch (core slot : Nat) : Statement (.blockFetch core slot) := by
  rintro _ ⟨⟩

theorem blockMapping (core slot : Nat) : Statement (.blockMapping core slot) := by
  rintro _ ⟨⟩

theorem tokenArrival (core n : Nat) : Statement (.tokenArrival core n) := by
  rintro _ ⟨⟩

theorem chestInjection (core n : Nat) : Statement (.chestInjection core n) := by
  rintro _ ⟨⟩

theorem swap (core row set : Nat) : Statement (.swap core row set) := by
  rintro _ ⟨⟩

theorem quotaSwap (core slot row n : Nat) : Statement (.quotaSwap core slot row n) := by
  rintro _ ⟨⟩

theorem blockCommit (core slot age : Nat) : Statement (.blockCommit core slot age) := by
  rintro _ ⟨⟩

theorem incompleteBlock (core slot age : Nat) : Statement (.incompleteBlock core slot age) := by
  rintro _ ⟨⟩

theorem faultTaken (core slot age n : Nat) : Statement (.faultTaken core slot age n) := by
  rintro _ ⟨⟩

theorem contextAbort (launch : Nat) : Statement (.contextAbort launch) := by
  rintro _ ⟨⟩

theorem faultQueueRecord (core n : Nat) : Statement (.faultQueueRecord core n) := by
  rintro _ ⟨⟩

theorem faultAnswer (core slot fid : Nat) (wake : Bool) : Statement (.faultAnswer core slot fid wake) := by
  rintro _ ⟨⟩

theorem loadPerformed (core n : Nat) : Statement (.loadPerformed core n) := by
  rintro _ ⟨⟩

theorem storeApplied (core slot n : Nat) : Statement (.storeApplied core slot n) := by
  rintro _ ⟨⟩

theorem poisonDetected (site : PoisonSite) : Statement (.poisonDetected site) := by
  rintro _ ⟨⟩

theorem chainArrival (core n : Nat) : Statement (.chainArrival core n) := by
  rintro _ ⟨⟩

theorem dresserApplication (n : Nat) : Statement (.dresserApplication n) := by
  rintro _ ⟨⟩

theorem joinSatisfied (core slot age k : Nat) : Statement (.joinSatisfied core slot age k) := by
  rintro _ ⟨⟩

theorem redtCollectSatisfied (core slot age k : Nat) : Statement (.redtCollectSatisfied core slot age k) := by
  rintro _ ⟨⟩

theorem waitcSatisfied (core slot age k : Nat) : Statement (.waitcSatisfied core slot age k) := by
  rintro _ ⟨⟩

theorem waitgSatisfied (core slot age k : Nat) : Statement (.waitgSatisfied core slot age k) := by
  rintro _ ⟨⟩

theorem fenceEmission (core slot age k : Nat) : Statement (.fenceEmission core slot age k) := by
  rintro _ ⟨⟩

theorem seqcRetire (core uid : Nat) : Statement (.seqcRetire core uid) := by
  rintro _ ⟨⟩

theorem engineCompletion (core uid : Nat) (act : EngAct) : Statement (.engineCompletion core uid act) := by
  rintro _ ⟨⟩

theorem heldCommandIssue (core : Nat) : Statement (.heldCommandIssue core) := by
  rintro _ ⟨⟩

theorem eviction (launch : Nat) : Statement (.eviction launch) := by
  rintro _ ⟨⟩

theorem contextResume (launch : Nat) : Statement (.contextResume launch) := by
  rintro _ ⟨⟩

theorem timeSliceExpiry (launch waiter : Nat) : Statement (.timeSliceExpiry launch waiter) := by
  rintro _ ⟨⟩

theorem chairReset (chair : Nat) : Statement (.chairReset chair) := by
  rintro _ ⟨⟩

theorem chairEnableWrite (chair : Nat) (en : Bool) : Statement (.chairEnableWrite chair en) := by
  rintro _ ⟨⟩

theorem primaxWrite (chair : Nat) (primax : BitVec 3) : Statement (.primaxWrite chair primax) := by
  rintro _ ⟨⟩

theorem grantWrite (chair : Nat) (kind : GrantKind) (on : Bool) : Statement (.grantWrite chair kind on) := by
  rintro _ ⟨⟩

theorem chcqWrite (chair n : Nat) (v : BitVec 64) : Statement (.chcqWrite chair n v) := by
  rintro _ ⟨⟩

theorem serviceRegisterWrite (chair off : Nat) (v : BitVec 64) : Statement (.serviceRegisterWrite chair off v) := by
  rintro _ ⟨⟩

theorem errorCounterWrite (unit : ErrUnit) (field : ErrField) (v : BitVec 16) : Statement (.errorCounterWrite unit field v) := by
  rintro _ ⟨⟩

theorem perfCounterWrite (core i : Nat) (cnt : Bool) (v : BitVec 64) : Statement (.perfCounterWrite core i cnt v) := by
  rintro _ ⟨⟩

theorem cmdLaunch (q : QueueId) : Statement (.cmdLaunch q) := by
  rintro _ ⟨⟩

theorem launchIndirect (q : QueueId) : Statement (.launchIndirect q) := by
  rintro _ ⟨⟩

theorem cmdWait (q : QueueId) : Statement (.cmdWait q) := by
  rintro _ ⟨⟩

theorem signal (q : QueueId) : Statement (.signal q) := by
  rintro _ ⟨⟩

theorem loopE (q : QueueId) : Statement (.loopE q) := by
  rintro _ ⟨⟩

theorem ifE (q : QueueId) : Statement (.ifE q) := by
  rintro _ ⟨⟩

theorem barrier (q : QueueId) : Statement (.barrier q) := by
  rintro _ ⟨⟩

theorem tableUpdate (q : QueueId) : Statement (.tableUpdate q) := by
  rintro _ ⟨⟩

theorem reqWrite (chair n : Nat) : Statement (.reqWrite chair n) := by
  rintro _ ⟨⟩

theorem reqRead (chair n : Nat) : Statement (.reqRead chair n) := by
  rintro _ ⟨⟩

theorem doorbell (chair n : Nat) : Statement (.doorbell chair n) := by
  rintro _ ⟨⟩

theorem loadRequest (chair n : Nat) : Statement (.loadRequest chair n) := by
  rintro _ ⟨⟩

theorem resumeRequest (chair n : Nat) : Statement (.resumeRequest chair n) := by
  rintro _ ⟨⟩

theorem noticeSend (chair : Nat) : Statement (.noticeSend chair) := by
  rintro _ ⟨⟩

theorem noticeAck (chair : Nat) : Statement (.noticeAck chair) := by
  rintro _ ⟨⟩

theorem boot : Statement (.boot) := by
  rintro _ ⟨⟩

theorem networkRecovery (image : List (BitVec 8)) : Statement (.networkRecovery image) := by
  rintro _ ⟨⟩

theorem firmwareUpdate (image : List (BitVec 8)) (whole : Bool) : Statement (.firmwareUpdate image whole) := by
  rintro _ ⟨⟩

theorem lifeCycleChangeRequest (target : LifeCycle) : Statement (.lifeCycleChangeRequest target) := by
  rintro _ ⟨⟩

theorem attestationReport (chair : Nat) (nonce : List (BitVec 8)) : Statement (.attestationReport chair nonce) := by
  rintro _ ⟨⟩

theorem thermalShutdown : Statement (.thermalShutdown) := by
  rintro _ ⟨⟩

theorem clockThrottle (khz : Nat) : Statement (.clockThrottle khz) := by
  rintro _ ⟨⟩

theorem packageUnreachable (pkg : Nat) : Statement (.packageUnreachable pkg) := by
  rintro _ ⟨⟩

theorem linkFailover (link : Nat) : Statement (.linkFailover link) := by
  rintro _ ⟨⟩

theorem holdClear (chair seq : Nat) : Statement (.holdClear chair seq) := by
  rintro _ ⟨⟩

theorem secondStageTableWrite (chair hpa : Nat) (v : BitVec 64) : Statement (.secondStageTableWrite chair hpa v) := by
  rintro _ ⟨⟩

theorem commandQueueOverflow (q : QueueId) : Statement (.commandQueueOverflow q) := by
  rintro _ ⟨⟩

theorem badEntry (q : QueueId) : Statement (.badEntry q) := by
  rintro _ ⟨⟩

theorem requestRefused (chair n : Nat) : Statement (.requestRefused chair n) := by
  rintro _ ⟨⟩

theorem serviceTrapQueueConsume : Statement (.serviceTrapQueueConsume) := by
  rintro _ ⟨⟩

theorem l1TlbEntryDrop (core n : Nat) : Statement (.l1TlbEntryDrop core n) := by
  rintro _ ⟨⟩

theorem decodedBlockEviction (core n : Nat) : Statement (.decodedBlockEviction core n) := by
  rintro _ ⟨⟩

end Sys2Proof.Laws.Encoding
end

