-- ==== Sys2Proof/Laws/Values.lean ====
section
/-! SUPPORT. The numbers of operands and results: sign views, wrapping, sign extension (R4, R7, R81). -/

namespace Sys2Proof
open Sys2Proof

theorem bnat_eq_ite (b : Bool) : bnat b = if b then 1 else 0 := rfl

/-- A signed view is the value modulo the width. -/
theorem sint_emod (x n : Nat) : sint x n % (2 ^ n : Int) = ((x % 2 ^ n : Nat) : Int) := by
  simp only [sint]
  have hx : ((x % 2 ^ n : Nat) : Int) % (2 ^ n : Int) = ((x % 2 ^ n : Nat) : Int) := by
    push_cast
    exact Int.emod_emod_of_dvd _ (dvd_refl _)
  split
  · exact hx
  · rw [← hx]
    push_cast
    simp

/-- Wrapping is the integer modulo 2^n. -/
theorem wrapN_eq (x : Int) (n : Nat) : wrapN x n = (x % 2 ^ n).toNat := by simp [wrapN]

theorem wrapN_lt (x : Int) (n : Nat) : wrapN x n < 2 ^ n := by
  rw [wrapN_eq]
  have h := Int.emod_lt_of_pos x (show (0 : Int) < 2 ^ n by positivity)
  have h0 := Int.emod_nonneg x (show (2 ^ n : Int) ≠ 0 by positivity)
  have : ((x % 2 ^ n).toNat : Int) < ((2 ^ n : Nat) : Int) := by
    rw [Int.toNat_of_nonneg h0]; push_cast; exact h
  exact_mod_cast this

/-- Wrapping a signed view gives the pattern back. -/
theorem wrapN_sint (x n : Nat) : wrapN (sint x n) n = x % 2 ^ n := by
  rw [wrapN_eq, sint_emod, Int.toNat_natCast]

theorem wrapN_sint_of_lt {x n : Nat} (h : x < 2 ^ n) : wrapN (sint x n) n = x := by
  rw [wrapN_sint, Nat.mod_eq_of_lt h]

/-- Wrapping depends on the value modulo 2^n alone. -/
theorem wrapN_congr {x y : Int} {n : Nat} (h : x % 2 ^ n = y % 2 ^ n) : wrapN x n = wrapN y n := by
  rw [wrapN_eq, wrapN_eq, h]

/-- The signed view of a bit vector is its integer. -/
theorem sint_bitVec {n : Nat} (v : BitVec n) : sint v.toNat n = v.toInt := by
  rcases n with _ | n
  · have : v.toNat = 0 := by have := v.isLt; simp at this; exact this
    simp [sint, this, BitVec.toInt]
  · simp only [sint, BitVec.toInt_eq_toNat_cond, Nat.mod_eq_of_lt v.isLt, Nat.add_sub_cancel]
    have : 2 ^ (n + 1) = 2 * 2 ^ n := by ring
    split <;> split <;> omega

/-- Sign extension of a bit vector's pattern to 64 bits. -/
theorem sextN_bitVec {n : Nat} (v : BitVec n) : sextN v.toNat n = (v.signExtend 64).toNat := by
  rw [sextN, sint_bitVec, wrapN_eq]
  have : (v.signExtend 64) = BitVec.ofInt 64 v.toInt := rfl
  rw [this, BitVec.toNat_ofInt]
  norm_num

end Sys2Proof

namespace Sys2Proof.Machine
open Sys2Proof

/-- An operand of width w lies below 2^w. -/
theorem Datum.uintOf_lt (d : Datum) (w : Nat) : d.uintOf w < 2 ^ w := by
  unfold Datum.uintOf
  split
  · exact Nat.mod_lt _ (by positivity)
  · exact wrapN_lt _ _

theorem Datum.u64_lt (d : Datum) : d.u64 < 2 ^ 64 := d.uintOf_lt 64

/-- The pattern of an operand's signed view. -/
theorem Datum.wrapN_sintOf (d : Datum) (w : Nat) : wrapN (d.sintOf w) w = d.uintOf w :=
  wrapN_sint_of_lt (d.uintOf_lt w)

/-- A bitwise operation on two signed views is the operation on the operands' patterns (R180). -/
theorem bitOp_sintOf (op : Nat → Nat → Nat) (w : Nat) (a b : Datum) :
    bitOp op w (a.sintOf w) (b.sintOf w) = (op (a.uintOf w) (b.uintOf w) : Nat) := by
  simp [bitOp, Datum.wrapN_sintOf]

/-- NOT of a signed view is the complement of its pattern (R180). -/
theorem Datum.wrapN_not (d : Datum) (w : Nat) : wrapN (-(d.sintOf w) - 1) w = 2 ^ w - 1 - d.uintOf w := by
  have hlt := d.uintOf_lt w
  have hpos : 0 < 2 ^ w := by positivity
  have key : wrapN (-(d.sintOf w) - 1) w = wrapN ((2 ^ w - 1 - d.uintOf w : Nat) : Int) w := by
    apply wrapN_congr
    have h := sint_emod (d.uintOf w) w
    rw [Nat.mod_eq_of_lt hlt] at h
    have hcast : ((2 ^ w - 1 - d.uintOf w : Nat) : Int) = (2 : Int) ^ w - 1 - (d.uintOf w : Int) := by
      have : d.uintOf w ≤ 2 ^ w - 1 := by omega
      push_cast [Nat.cast_sub this, Nat.cast_sub (Nat.one_le_two_pow (n := w))]
      ring
    rw [hcast, ← h, show d.sintOf w = sint (d.uintOf w) w from rfl]
    generalize sint (d.uintOf w) w = z
    apply Int.emod_eq_emod_iff_emod_sub_eq_zero.mpr
    have hz := Int.mul_ediv_add_emod z (2 ^ w)
    have : -z - 1 - (2 ^ w - 1 - z % 2 ^ w) = 2 ^ w * (-(z / 2 ^ w) - 1) := by linarith
    rw [this]
    exact Int.mul_emod_right _ _
  rw [key, wrapN_eq, show ((2 : Int) ^ w) = ((2 ^ w : Nat) : Int) by push_cast; rfl, ← Int.natCast_mod, Int.toNat_natCast]
  exact Nat.mod_eq_of_lt (by omega)

end Sys2Proof.Machine
end

