-- ==== Sys2Proof/Tests/Slice0.lean ====
section
/-! SUPPORT. Tests: words written out from the layouts and what they stand for, an ill-formed term for each check, and a
state that meets the hypotheses of each statement, clause by clause. -/

namespace Sys2Proof.Tests
open Sys2Proof Sys2Proof.Machine

set_option Elab.async false

/-! ### Words -/

/-- Whether every word decodes to the instruction beside it. -/
def decodesTo (l : List (Word × Instr)) : Bool := l.all fun p => match decode p.1 with | .ok (.instr i) => decide (i = p.2) | _ => false

/-- R115's own line: `s02 TLT w=I32 t0=s03.P t1=s04.P` assembles to 0x3230_3C11_0000_0000. -/
theorem test_decode_tlt_of_the_manual : decodesTo [(0x32303C1100000000, .tlt ⟨.always, .port .p 3, .port .p 4, .w32⟩)] = true := by
  decide +kernel

/-- R292's two lines: CSRW num=CABQ and CSRR num=TRAPS. -/
theorem test_decode_csr_of_the_manual :
    decodesTo [(0x1110300001000000, .csrw ⟨.always, .port .a 3, .none, .cabq⟩), (0x1010400011000000, .csrr ⟨.always, .port .a 4, .none, .traps⟩)] = true := by
  decide +kernel

/-- Words of the family "scalar flow", field by field from its layouts (R98 to R110, R157 to R177), and what each stands for. -/
theorem test_decode_scalar_flow : decodesTo [
    (0x0267F60026000000, .read ⟨.onTrue, .port .b 127, .wslot 0, (.v 6)⟩),
    (0x0458042400000000, .mov ⟨.onTrue, .wslot 0, .port .a 9⟩),
    (0x0550967E7F67C000, .mov4 ⟨.onTrue, .port .a 9, .wslot 31, .port .b 127, .wslot 31⟩),
    (0x0659FB4B4B4B4B4B, .limm ⟨.onTrue, .wslot 31, 0xb4b4b4b4b4b⟩),
    (0x071009FD800B4B4B, .orhi ⟨.always, .port .a 0, .port .b 127, 0xb4b4b⟩),
    (0x0827F60000000000, .nullI ⟨.always, .port .b 127, .wslot 0⟩),
    (0x0919F00000000000, .sel ⟨.wslot 31, .none⟩),
    (0x0A800003C0000000, .br ⟨.onFalse, 7, 0x40000000⟩),
    (0x0B80000080000000, .bri ⟨.onFalse, 1⟩),
    (0x0C4000024B4B4B4B, .call ⟨.onTrue, 4, 0x4b4b4b4b⟩),
    (0x0D40000380000000, .ret ⟨.onTrue, 7⟩),
    (0x0E000000004B4B4B, .trap ⟨.always, 0x4b4b4b⟩),
    (0x0F40000080000000, .rett ⟨.onTrue, 1⟩),
    (0x101009FC11000000, .csrr ⟨.always, .port .a 0, .port .b 127, .traps⟩),
    (0x1170340001000000, .csrw ⟨.onTrue, .port .p 3, .port .a 0, .cabq⟩),
    (0x12800C0C12000000, .csrx ⟨.onFalse, .none, .port .p 3, .trapba⟩),
    (0x1300000000000000, .brk ⟨.always⟩),
    (0x205804247FFFFFFF, .fork ⟨.onTrue, .wslot 0, .port .a 9, 0x7fffffff⟩),
    (0x21A7F6007FFFFFFF, .spawn ⟨.onFalse, .port .b 127, .wslot 0, 0x7fffffff⟩),
    (0x2200000180000000, .endI ⟨.always, 3⟩),
    (0x2390967C00000000, .join ⟨.onFalse, .port .a 9, .wslot 31⟩),
    (0x2499F000D8000000, .redt ⟨.onFalse, .wslot 31, .none, true, (.fadd .rd)⟩),
    (0x25800C0C7D400000, .launch ⟨.onFalse, .none, .port .p 3, 0x1f, false, true⟩),
    (0x269009FD80000000, .waitc ⟨.onFalse, .port .a 0, .port .b 127, true⟩)] = true := by decide +kernel

/-- Words of the family "compares", field by field from its layouts (R104, R178, R179), and what each stands for. -/
theorem test_decode_compares : decodesTo [
    (0x30A7F60100000000, .teq ⟨.onFalse, .port .b 127, .wslot 0, .w32⟩),
    (0x311009FD00000000, .tne ⟨.always, .port .a 0, .port .b 127, .w32⟩),
    (0x3270340100000000, .tlt ⟨.onTrue, .port .p 3, .port .a 0, .w32⟩),
    (0x33800C0D00000000, .tle ⟨.onFalse, .none, .port .p 3, .w32⟩),
    (0x3419F00100000000, .tltu ⟨.always, .wslot 31, .none, .w32⟩),
    (0x3550967D00000000, .tleu ⟨.onTrue, .port .a 9, .wslot 31, .w32⟩),
    (0x369804254B4B4B4B, .teqi ⟨.onFalse, .wslot 0, .port .a 9, .w32, 0x4b4b4b4b⟩),
    (0x3770340180000001, .tnei ⟨.onTrue, .port .p 3, .port .a 0, .w64, 1⟩),
    (0x3810967C7FFFFFFF, .tlti ⟨.always, .port .a 9, .wslot 31, .w8, 0x7fffffff⟩),
    (0x399009FCC0000000, .tlei ⟨.onFalse, .port .a 0, .port .b 127, .w16, 0x40000000⟩),
    (0x3A59F0014B4B4B4B, .tgti ⟨.onTrue, .wslot 31, .none, .w32, 0x4b4b4b4b⟩),
    (0x3B27F60180000001, .tgei ⟨.always, .port .b 127, .wslot 0, .w64, 1⟩),
    (0x3C800C0C7FFFFFFF, .tltui ⟨.onFalse, .none, .port .p 3, .w8, 0x7fffffff⟩),
    (0x3D580424C0000000, .tgtui ⟨.onTrue, .wslot 0, .port .a 9, .w16, 0x40000000⟩),
    (0x3E3034020000034B, .ftest ⟨.always, .port .p 3, .port .a 0, .kt8, 0x34b⟩)] = true := by decide +kernel

/-- Words of the family "integers, first part", field by field from its layouts (R103, R180), and what each stands for. -/
theorem test_decode_integers_first_part : decodesTo [
    (0x40400C0D00000000, .add ⟨.onTrue, .none, .port .p 3, .w32⟩),
    (0x4199F00100000000, .sub ⟨.onFalse, .wslot 31, .none, .w32⟩),
    (0x4210967D00000000, .mul ⟨.always, .port .a 9, .wslot 31, .w32⟩),
    (0x4358042500000000, .mulh ⟨.onTrue, .wslot 0, .port .a 9, .w32⟩),
    (0x44A7F60100000000, .mulhu ⟨.onFalse, .port .b 127, .wslot 0, .w32⟩),
    (0x451009FD00000000, .div ⟨.always, .port .a 0, .port .b 127, .w32⟩),
    (0x4670340100000000, .divu ⟨.onTrue, .port .p 3, .port .a 0, .w32⟩),
    (0x47800C0D00000000, .rem ⟨.onFalse, .none, .port .p 3, .w32⟩),
    (0x4819F00100000000, .remu ⟨.always, .wslot 31, .none, .w32⟩),
    (0x4950967D00000000, .andI ⟨.onTrue, .port .a 9, .wslot 31, .w32⟩),
    (0x4A98042500000000, .orI ⟨.onFalse, .wslot 0, .port .a 9, .w32⟩),
    (0x4B27F60100000000, .xorI ⟨.always, .port .b 127, .wslot 0, .w32⟩),
    (0x4C5009FD00000000, .andn ⟨.onTrue, .port .a 0, .port .b 127, .w32⟩),
    (0x4DB0340100000000, .shl ⟨.onFalse, .port .p 3, .port .a 0, .w32⟩),
    (0x4E000C0D00000000, .shr ⟨.always, .none, .port .p 3, .w32⟩),
    (0x4F59F00100000000, .sra ⟨.onTrue, .wslot 31, .none, .w32⟩),
    (0x5090967D00000000, .rotl ⟨.onFalse, .port .a 9, .wslot 31, .w32⟩),
    (0x5118042500000000, .min ⟨.always, .wslot 0, .port .a 9, .w32⟩)] = true := by decide +kernel

/-- Words of the family "integers, second part", field by field from its layouts (R104, R180, R182), and what each stands for. -/
theorem test_decode_integers_second_part : decodesTo [
    (0x5267F60100000000, .max ⟨.onTrue, .port .b 127, .wslot 0, .w32⟩),
    (0x539009FD00000000, .minu ⟨.onFalse, .port .a 0, .port .b 127, .w32⟩),
    (0x5430340100000000, .maxu ⟨.always, .port .p 3, .port .a 0, .w32⟩),
    (0x55400C0D00000000, .clz ⟨.onTrue, .none, .port .p 3, .w32⟩),
    (0x5699F00100000000, .ctz ⟨.onFalse, .wslot 31, .none, .w32⟩),
    (0x5710967D00000000, .popc ⟨.always, .port .a 9, .wslot 31, .w32⟩),
    (0x5858042500000000, .abs ⟨.onTrue, .wslot 0, .port .a 9, .w32⟩),
    (0x59A7F60100000000, .neg ⟨.onFalse, .port .b 127, .wslot 0, .w32⟩),
    (0x5A1009FD00000000, .sext ⟨.always, .port .a 0, .port .b 127, .w32⟩),
    (0x5B70340100000000, .zext ⟨.onTrue, .port .p 3, .port .a 0, .w32⟩),
    (0x5C800C0D4B4B4B4B, .addi ⟨.onFalse, .none, .port .p 3, .w32, 0x4b4b4b4b⟩),
    (0x5D58042580000001, .muli ⟨.onTrue, .wslot 0, .port .a 9, .w64, 1⟩),
    (0x5E3034007FFFFFFF, .andimm ⟨.always, .port .p 3, .port .a 0, .w8, 0x7fffffff⟩),
    (0x5F90967CC0000000, .orimm ⟨.onFalse, .port .a 9, .wslot 31, .w16, 0x40000000⟩),
    (0x605009FD4B4B4B4B, .xorimm ⟨.onTrue, .port .a 0, .port .b 127, .w32, 0x4b4b4b4b⟩),
    (0x6119F00180000001, .shli ⟨.always, .wslot 31, .none, .w64, 1⟩),
    (0x62A7F6007FFFFFFF, .shri ⟨.onFalse, .port .b 127, .wslot 0, .w8, 0x7fffffff⟩),
    (0x63400C0CC0000000, .srai ⟨.onTrue, .none, .port .p 3, .w16, 0x40000000⟩),
    (0x641804253B4B4B4B, .agen ⟨.always, .wslot 0, .port .a 9, .w32, 3, 0xb4b4b4b⟩)] = true := by decide +kernel

/-- Words of the family "scalar floating point", field by field from its layouts (R112, R183 to R185), and what each stands for. -/
theorem test_decode_scalar_floating_point : decodesTo [
    (0x6567F60246000000, .cvtif ⟨.onTrue, .port .b 127, .wslot 0, .kt8, .rd, true, .w32⟩),
    (0x669009FD64000000, .cvtfi ⟨.onFalse, .port .a 0, .port .b 127, .w32, .ru, true⟩),
    (0x6730340300000000, .fadd ⟨.always, .port .p 3, .port .a 0, .rsv6⟩),
    (0x68400C0D80000000, .fsub ⟨.onTrue, .none, .port .p 3, .fp16⟩),
    (0x6999F00380000000, .fmul ⟨.onFalse, .wslot 31, .none, .rsv7⟩),
    (0x6A10967E00000000, .fdiv ⟨.always, .port .a 9, .wslot 31, .kt8⟩),
    (0x6B58042480000000, .fmin ⟨.onTrue, .wslot 0, .port .a 9, .fp32⟩),
    (0x6CA7F60280000000, .fmax ⟨.onFalse, .port .b 127, .wslot 0, .kt6⟩)] = true := by decide +kernel

/-- Words of the family "memory", field by field from its layouts (R106 to R108, R207, R208), and what each stands for. -/
theorem test_decode_memory : decodesTo [
    (0x70400C0D84B00000, .ld ⟨.onTrue, .none, .port .p 3, .w64, 1, .core, (.sync 0x100000)⟩),
    (0x7110967D84B00000, .lds ⟨.always, .port .a 9, .wslot 31, .w64, 1, .core, (.sync 0x100000)⟩),
    (0x72800000C1A00001, .st ⟨.onFalse, .w16, 0x10, .pod, (.sync 1)⟩),
    (0x7390967E7D2B4B4B, .ldv ⟨.onFalse, .port .a 9, .wslot 31, 0x1f, .pkg, (.sync 0xb4b4b)⟩),
    (0x7400000241800001, .stv ⟨.always, 0x10, .pod, (.plain 1)⟩),
    (0x755804247C0B4B4B, .ldl ⟨.onTrue, .wslot 0, .port .a 9, .w8, 0x1f, false, 0xb4b4b⟩),
    (0x76800000C0800001, .stl ⟨.onFalse, .w16, 0x10, true, 1⟩),
    (0x7770340204900000, .ldvl ⟨.onTrue, .port .p 3, .port .a 0, 1, true, 0x100000⟩),
    (0x7840000204900000, .stvl ⟨.onTrue, 1, true, 0x100000⟩),
    (0x7980000004580000, .chnop ⟨.onFalse, 1, .wild⟩),
    (0x7A5840012C720000, .amo ⟨.onTrue, .wslot 4, .none, .w32, 0xb, .strand, .acqrel, .cas⟩),
    (0x7B9846152CCE0000, .amol ⟨.onFalse, .wslot 4, .wslot 5, .w32, 0xb, true, .rel, .maxu⟩),
    (0x7C90967C2C600000, .fence ⟨.onFalse, .port .a 9, .wslot 31, 0xb, .strand, .codeK⟩),
    (0x7D5009FC7D00004B, .gath ⟨.onTrue, .port .a 0, .port .b 127, .w8, 0x1f, .pkg, 0x4b⟩),
    (0x7E5804252C40004B, .scat ⟨.onTrue, .wslot 0, .port .a 9, .w32, 0xb, .strand, true, 0x4b⟩),
    (0x7F59F00104800A4B, .scata ⟨.onTrue, .wslot 31, .none, .w32, 1, .core, false, .fadd32, 0x4b⟩)] = true := by decide +kernel

/-- Words of the family "engines", field by field from its layouts (R114, R213 to R219), and what each stands for. -/
theorem test_decode_engines : decodesTo [
    (0x8027F6007D400000, .xcopy ⟨.always, .port .b 127, .wslot 0, 0x1f, .pkg, true⟩),
    (0x8110967C2C400000, .xfill ⟨.always, .port .a 9, .wslot 31, 0xb, .strand, true⟩),
    (0x82000C0C7D400000, .xcomp ⟨.always, .none, .port .p 3, 0x1f, .pkg, true⟩),
    (0x831009FC2C0B4B4B, .pref ⟨.always, .port .a 0, .port .b 127, 0xb, 0xb4b4b⟩),
    (0x847034002C800000, .synci ⟨.onTrue, .port .p 3, .port .a 0, 0xb, true⟩),
    (0x85800C0C2C1FFFFF, .waitg ⟨.onFalse, .none, .port .p 3, 0xb, .strand, 0x1fffff⟩),
    (0x8658042405804B4B, .invr ⟨.onTrue, .wslot 0, .port .a 9, 1, true, 0x4b4b⟩),
    (0x873034007D004B4B, .inva ⟨.always, .port .p 3, .port .a 0, 0x1f, false, 0x4b4b⟩),
    (0x8890967E2C000FFF, .tfetch ⟨.onFalse, .port .a 9, .wslot 31, .kt8, 0xb, .strand, 0xfff⟩),
    (0x89800C0C05800000, .kvapp ⟨.onFalse, .none, .port .p 3, 1, true, false⟩)] = true := by decide +kernel

/-- Words of the family "vectors, first part", field by field from its layouts (R112, R224 to R229), and what each stands for. -/
theorem test_decode_vectors_first_part : decodesTo [
    (0x909009FD60000000, .vadd ⟨.onFalse, .port .a 0, .port .b 127, .bf16, .ru⟩),
    (0x9159F00380000000, .vsub ⟨.onTrue, .wslot 31, .none, .rsv7, .rne⟩),
    (0x9227F602A0000000, .vmul ⟨.always, .port .b 127, .wslot 0, .kt6, .rz⟩),
    (0x931009FD20000000, .vfma ⟨.port .a 0, .port .b 127, .bf16, .rz⟩),
    (0x9430340320000000, .vfms ⟨.port .p 3, .port .a 0, .rsv6, .rz⟩),
    (0x9550967E40000000, .vdiv ⟨.onTrue, .port .a 9, .wslot 31, .kt8, .rd⟩),
    (0x961009FD60000000, .vsqrt ⟨.always, .port .a 0, .port .b 127, .bf16, .ru⟩),
    (0x9799F00380000000, .vrsq ⟨.onFalse, .wslot 31, .none, .rsv7, .rne⟩),
    (0x9867F602A0000000, .vmin ⟨.onTrue, .port .b 127, .wslot 0, .kt6, .rz⟩),
    (0x99000C0DC0000000, .vmax ⟨.always, .none, .port .p 3, .fp16, .rd⟩),
    (0x9A98042480000000, .vabs ⟨.onFalse, .wslot 0, .port .a 9, .fp32⟩),
    (0x9B27F60280000000, .vneg ⟨.always, .port .b 127, .wslot 0, .kt6⟩),
    (0x9C5009FD60000000, .vexp2 ⟨.onTrue, .port .a 0, .port .b 127, .bf16, .ru⟩),
    (0x9D19F00380000000, .vlog2 ⟨.always, .wslot 31, .none, .rsv7, .rne⟩),
    (0x9EA7F60285000000, .vcmp ⟨.onFalse, .port .b 127, .wslot 0, .kt6, .ge⟩),
    (0x9F18042580000000, .vsel ⟨.wslot 0, .port .a 9, .w64⟩),
    (0xA027F60282000000, .vred ⟨.always, .port .b 127, .wslot 0, .kt6, .rne, .max⟩),
    (0xA1800C0DA2000000, .vscan ⟨.onFalse, .none, .port .p 3, .fp16, .rz, .max⟩),
    (0xA2580424C0000000, .vdot ⟨.onTrue, .wslot 0, .port .a 9, .fp32, .rd⟩)] = true := by decide +kernel

/-- Words of the family "vectors, second part", field by field from its layouts (R228 to R234), and what each stands for. -/
theorem test_decode_vectors_second_part : decodesTo [
    (0xA33034010F000000, .vbcast ⟨.always, .port .p 3, .port .a 0, .w32, 15⟩),
    (0xA41009FD0F000000, .vext ⟨.always, .port .a 0, .port .b 127, .w32, 15⟩),
    (0xA527F6010F000000, .vins ⟨.always, .port .b 127, .wslot 0, .w32, 15⟩),
    (0xA618042580000000, .vperm ⟨.always, .wslot 0, .port .a 9, .w64⟩),
    (0xA767F60190000000, .vshuf ⟨.onTrue, .port .b 127, .wslot 0, .w64, .reverse⟩),
    (0xA89009FCA8000000, .vcvt ⟨.onFalse, .port .a 0, .port .b 127, .fp32, .rz, .fromInt⟩),
    (0xA930340300000000, .vscale ⟨.always, .port .p 3, .port .a 0, .rsv6⟩),
    (0xAA400C0D80000000, .viadd ⟨.onTrue, .none, .port .p 3, .w64⟩),
    (0xAB99F00180000000, .visub ⟨.onFalse, .wslot 31, .none, .w64⟩),
    (0xAC10967D80000000, .vimul ⟨.always, .port .a 9, .wslot 31, .w64⟩),
    (0xAD58042580000000, .viand ⟨.onTrue, .wslot 0, .port .a 9, .w64⟩),
    (0xAEA7F60180000000, .vior ⟨.onFalse, .port .b 127, .wslot 0, .w64⟩),
    (0xAF1009FD80000000, .vixor ⟨.always, .port .a 0, .port .b 127, .w64⟩),
    (0xB070340180000000, .vishl ⟨.onTrue, .port .p 3, .port .a 0, .w64⟩),
    (0xB1800C0D80000000, .vishr ⟨.onFalse, .none, .port .p 3, .w64⟩),
    (0xB219F00180000000, .visra ⟨.always, .wslot 31, .none, .w64⟩),
    (0xB350967D81000000, .vimin ⟨.onTrue, .port .a 9, .wslot 31, .w64, true⟩),
    (0xB498042581000000, .vimax ⟨.onFalse, .wslot 0, .port .a 9, .w64, true⟩),
    (0xB527F602C3000000, .vpack ⟨.always, .port .b 127, .wslot 0, .kt6, .rd, 3⟩),
    (0xB6180424A9000000, .vunpk ⟨.always, .wslot 0, .port .a 9, .fp32, .rz, .bf16, 1⟩),
    (0xB710967C82000000, .vmask ⟨.always, .port .a 9, .wslot 31, .w16, .zero⟩)] = true := by decide +kernel

/-- Words of the family "arrays", field by field from its layouts (R113, R235 to R245), and what each stands for. -/
theorem test_decode_arrays : decodesTo [
    (0xC0580425CD640000, .syscfg ⟨.onTrue, .wslot 0, .port .a 9, .fp16, 9, 5, 6, 2⟩),
    (0xC1A7F6017F000000, .wload ⟨.onFalse, .port .b 127, .wslot 0, .bf16, 15, 7⟩),
    (0xC21009FCCD640000, .mma ⟨.always, .port .a 0, .port .b 127, .fp32, 9, 5, 6, 2⟩),
    (0xC3703402CD640000, .drain ⟨.onTrue, .port .p 3, .port .a 0, .kt6, 9, 5, 6, 2⟩),
    (0xC4800C0E4D640000, .sysrel ⟨.onFalse, .none, .port .p 3, .kt8, 9, 5, 6, 2⟩),
    (0xC519F001CD640000, .route ⟨.always, .wslot 31, .none, .fp16, 9, 5, 6, 2⟩),
    (0xC650967D78000000, .tmul ⟨.onTrue, .port .a 9, .wslot 31, .bf16, 15⟩)] = true := by decide +kernel

/-- Words of the family "Easel, wells and taps", field by field from its layouts (R114, R247, R269), and what each stands for. -/
theorem test_decode_easel_wells_and_taps : decodesTo [
    (0xD09804247D404000, .bind ⟨.onFalse, .wslot 0, .port .a 9, 0x1f, .pkg, true, 1⟩),
    (0xD11804240492C000, .unbind ⟨.always, .wslot 0, .port .a 9, 1, .core, false, 0x4b⟩),
    (0xD25804242C600000, .attn ⟨.onTrue, .wslot 0, .port .a 9, 0xb, .strand, true, 0x80⟩),
    (0xD898042441800000, .patch ⟨.onFalse, .wslot 0, .port .a 9, 0x10, .pod, false⟩),
    (0xD999F00004980000, .pdom ⟨.onFalse, .wslot 31, .none, 1, .core, false, 3⟩),
    (0xDA19F0002C400001, .pwr ⟨.always, .wslot 31, .none, 0xb, .strand, true, true⟩),
    (0xDBA7F60004000001, .prd ⟨.onFalse, .port .b 127, .wslot 0, 1, true⟩),
    (0xDC400C0C7C000000, .prdv ⟨.onTrue, .none, .port .p 3, 0x1f, false⟩),
    (0xDD18042441B80000, .pstep ⟨.always, .wslot 0, .port .a 9, 0x10, .pod, false, 7⟩),
    (0xDE5804247D480000, .psave ⟨.onTrue, .wslot 0, .port .a 9, 0x1f, .pkg, true, 1⟩),
    (0xDF98042404980000, .prest ⟨.onFalse, .wslot 0, .port .a 9, 1, .core, false, 3⟩),
    (0xE01804242C58020B, .pfeed ⟨.always, .wslot 0, .port .a 9, 0xb, .strand, true, 3, 32, 11⟩),
    (0xE4B0340001000000, .tapcfg ⟨.onFalse, .port .p 3, .port .a 0, 1⟩),
    (0xE5000C0D04E80000, .stap ⟨.always, .none, .port .p 3, 1, .core, true, 5, true⟩),
    (0xE698042407000000, .tapst ⟨.onFalse, .wslot 0, .port .a 9, 7⟩),
    (0xE827F6007D200000, .smpl ⟨.always, .port .b 127, .wslot 0, 0x1f, .pkg, false, true⟩),
    (0xE9800C0C41800000, .seqc ⟨.onFalse, .none, .port .p 3, 0x10, .pod, false⟩),
    (0xEA9009FC04800004, .seqrd ⟨.onFalse, .port .a 0, .port .b 127, 1, .core, 4⟩)] = true := by decide +kernel
/-! ### Well-formedness -/

/-- Whether each term is refused, as a term and as a word. -/
def refused (l : List Instr) : Bool := l.all fun i => !i.wellFormed && match (encode i).map decode with
  | some (.error .reservedField) => true
  | _ => false

/-- Whether each term is accepted, as a term and as a word. -/
def accepted (l : List Instr) : Bool := l.all fun i => i.wellFormed && match (encode i).map decode with
  | some (.ok (.instr j)) => decide (i = j)
  | _ => false

/-- CSRW and CSRX of a CSR that may not be written (R167, R292). -/
theorem test_ill_formed_csr : refused [.csrw ⟨.always, .none, .none, .flt⟩, .csrx ⟨.always, .none, .none, .tap 0⟩,
    .csrw ⟨.always, .none, .none, .tagq⟩] = true := by decide +kernel

/-- W = 000 where a format is asked for (R115, R179, R184, R215, R221, R235). -/
theorem test_ill_formed_format : refused [.ftest ⟨.always, .none, .none, .int, 1⟩, .cvtif ⟨.always, .none, .none, .int, .rne, false, .w8⟩,
    .fadd ⟨.always, .none, .none, .int⟩, .vscale ⟨.always, .none, .none, .int⟩, .tfetch ⟨.always, .none, .none, .int, 0, .strand, 1⟩,
    .vadd ⟨.always, .none, .none, .int, .rne⟩, .vfma ⟨.none, .none, .int, .rne⟩, .vcmp ⟨.always, .none, .none, .int, .eq⟩,
    .vred ⟨.always, .none, .none, .int, .rne, .add⟩, .vcvt ⟨.always, .none, .none, .int, .rne, .value⟩,
    .vpack ⟨.always, .none, .none, .int, .rne, 0⟩, .vunpk ⟨.always, .none, .none, .int, .rne, .fp32, 0⟩,
    .vunpk ⟨.always, .none, .none, .fp32, .rne, .int, 0⟩, .syscfg ⟨.always, .none, .none, .int, 0, 0, 0, 0⟩,
    .wload ⟨.always, .none, .none, .int, 0, 0⟩, .tmul ⟨.always, .none, .none, .int, 0⟩] = true := by decide +kernel

/-- A chain access under a predicate (R102); its form without one is accepted. -/
theorem test_ill_formed_chain : refused [.ld ⟨.onTrue, .none, .none, .w8, 0, .strand, .chain .both 0⟩, .lds ⟨.onFalse, .none, .none, .w8, 0, .strand, .chain .wild 0⟩,
    .ldv ⟨.onTrue, .none, .none, 0, .strand, .chain .both 0⟩, .st ⟨.onTrue, .w8, 0, .strand, .chain .both 0⟩,
    .stv ⟨.onTrue, 0, .strand, .chain .both 0⟩] = true ∧
    accepted [.ld ⟨.always, .none, .none, .w8, 0, .strand, .chain .both 0⟩, .chnop ⟨.onTrue, 0, .both⟩] = true := by decide +kernel

/-- FADD32 at a width other than 32, and SWP or CAS in a scatter (R108, R208). -/
theorem test_ill_formed_atomic : refused [.amo ⟨.always, .none, .none, .w64, 0, .strand, .rlx, .fadd32⟩,
    .amol ⟨.always, .none, .none, .w16, 0, false, .rlx, .fadd32⟩, .scata ⟨.always, .none, .none, .w8, 0, .strand, false, .fadd32, 1⟩,
    .scata ⟨.always, .none, .none, .w8, 0, .strand, false, .swp, 1⟩, .scata ⟨.always, .none, .none, .w8, 0, .strand, false, .cas, 1⟩] = true ∧
    accepted [.amo ⟨.always, .none, .none, .w32, 0, .strand, .rlx, .fadd32⟩] = true := by decide +kernel

/-- Indexes, groups and counts just past their range (R215, R230, R231, R232, R247). -/
theorem test_ill_formed_ranges : refused [.tfetch ⟨.always, .none, .none, .fp32, 0, .strand, 0⟩, .vbcast ⟨.always, .none, .none, .w32, 16⟩,
    .vext ⟨.always, .none, .none, .w64, 8⟩, .vins ⟨.always, .none, .none, .w64, 31⟩, .vcvt ⟨.always, .none, .none, .fp16, .rne, .toInt⟩,
    .vcvt ⟨.always, .none, .none, .fp16, .rz, .bitCast⟩, .vpack ⟨.always, .none, .none, .fp32, .rne, 1⟩,
    .vpack ⟨.always, .none, .none, .bf16, .rne, 2⟩, .vunpk ⟨.always, .none, .none, .fp32, .rne, .fp16, 2⟩,
    .pfeed ⟨.always, .none, .none, 0, .strand, false, 0, 0, 0⟩, .pfeed ⟨.always, .none, .none, 0, .strand, false, 0, 33, 0⟩,
    .seqrd ⟨.always, .none, .none, 0, .strand, 5⟩] = true ∧
    accepted [.vbcast ⟨.always, .none, .none, .w32, 15⟩, .vpack ⟨.always, .none, .none, .kt6, .rne, 3⟩,
      .pfeed ⟨.always, .none, .none, 0, .strand, false, 0, 32, 0⟩, .seqrd ⟨.always, .none, .none, 0, .strand, 4⟩] = true := by decide +kernel

/-- A rectangle past the grid, by one row and by one column (R113). -/
theorem test_ill_formed_rectangle : refused [.syscfg ⟨.always, .none, .none, .fp32, 8, 0, 8, 0⟩, .mma ⟨.always, .none, .none, .fp32, 0, 7, 0, 1⟩,
    .drain ⟨.always, .none, .none, .fp32, 15, 0, 1, 0⟩, .sysrel ⟨.always, .none, .none, .fp32, 0, 4, 0, 4⟩,
    .route ⟨.always, .none, .none, .fp32, 9, 0, 7, 0⟩] = true ∧
    accepted [.syscfg ⟨.always, .none, .none, .fp32, 0, 0, 15, 7⟩] = true := by decide +kernel

/-- A WRITE word to BA, TAG or ITER is refused, and one to LNK accepted (R110). -/
theorem test_ill_formed_write : [RegName.ba, .tag, .iter].all (fun r => !(SlotWord.write r 0).wellFormed) = true ∧
    (SlotWord.write .lnk 0).wellFormed = true ∧ (match decode 0x0300000030000000 with | .error .reservedField => true | _ => false) = true ∧
    (match decode 0x0300000033000000 with | .ok (.write .lnk 0) => true | _ => false) = true := by decide +kernel


/-! ### States that meet the hypotheses -/

/-- Memory with the tables of a chair: the anchor and one 1 GiB page of stage 1, and one 1 GiB page of the second stage
(R329, R330, R332). -/
def tables : Memory := [(0, 1), (1, 0x10), (0x1000, 1), (0x1001, 0x20), (0x2000, 1), (0x2001, 0x30), (0x3000, 0xF9),
  (0x9E00000000, 1), (0x9E00000001, 0x10), (0x9E00000004, 0x9E), (0x9E00001000, 1), (0x9E00001001, 0x20), (0x9E00001004, 0x9E),
  (0x9E00002000, 0x1F)]

/-- Chair 0 enabled, ASID 0 its own, four sequence records at GPA 0x10000. -/
def chair0 : Chair := { Chair.reset with
  chctl := 0x10100, chs2 := 0x9E00000001, chasid := Chair.reset.chasid.set 0 0x10000, chseqb := 0x10000, chseqn := 4 }

/-- The package up, with chair 0 and its tables. -/
def up : State := { State.reset.modChair 0 fun _ => chair0 with boot := .running, lcs := .deployed, hbm := tables }

/-- A slot of chair 0 with one 16 KiB unit, its strand at CHAIR, and a block in flight. -/
def slot0 (i : Inst) : Slot :=
  let x := oneWordSlot 0x0100000000000000
  { x with lmpart := 1, units := [0], insts := [i], strands := x.strands.map fun t => { t with uid := 0 } }

/-- A block of one word. -/
def block0 : Inst := Inst.fresh 0 0 0 0 0 0 [0x0100000000000000]

/-- The package with one match complete at slot 0 of a block. -/
def litOn (sl : Slot) (a b p : Option Tok) : State :=
  up.modCore 0 fun k => { k with slots := k.slots.set 0 (some sl), ready := [⟨0, 0, 0, a, b, p, 0⟩] }

/-- The same with the three ports filled. -/
def lit (a b p : Datum) : State := litOn (slot0 block0) (some (some a)) (some (some b)) (some (some p))

/-- Whether the firing at the site meets a condition. -/
def meets (s : State) (pr : Pred) (h : Ctx → Bool) : Bool :=
  match s.fireCtx with
  | some c => (!c.inst.bad.contains c.k && predHolds pr c.m.p) && !c.m.reserved && h c
  | none => false

/-- Where it does, a context meets the hypotheses of a firing together with the condition. -/
theorem exists_fires {s : State} {pr : Pred} {h : Ctx → Bool} (e : meets s pr h = true) : ∃ c, s.Fires c pr ∧ h c = true := by
  unfold meets at e
  split at e
  · rename_i c hc
    simp only [Bool.and_eq_true, Bool.not_eq_true'] at e
    exact ⟨c, ⟨⟨hc, e.1.1⟩, e.1.2⟩, e.2⟩
  · cases e

/-- Whether a firing sees a condition, whatever tags its ports bear and whatever its window word is. -/
def sees (s : State) (h : Ctx → Bool) : Bool := match s.fireCtx with | some c => h c | none => false

/-- Where it does, a context of that firing meets the condition. -/
theorem exists_seen {s : State} {h : Ctx → Bool} (e : sees s h = true) : ∃ c, s.fireCtx = some c ∧ h c = true := by
  unfold sees at e
  split at e
  · rename_i c hc
    exact ⟨c, hc, e⟩
  · cases e

/-- `Carries`, as a check. -/
def carries (t : Option Tok) (d : Datum) : Bool := decide (t = some (some d)) && !d.fmt.isReserved

theorem carries_iff (t : Option Tok) (d : Datum) : carries t d = true ↔ Carries t d := by
  unfold carries Carries
  cases d.fmt.isReserved <;> simp

/-- A and B carry INT 5 and 3, P carries 1. -/
def plain : State := lit (.int 5) (.int 3) (.int 1)

/-- What `plain` carries, and its LSIDs are free. -/
def ok (c : Ctx) : Bool :=
  carries c.m.a (.int 5) && carries c.m.b (.int 3) && carries c.m.p (.int 1) && c.oldest && !c.inst.lsidTaken 31 && !c.inst.lsidTaken 0

/-- Every statement about an instruction that fires with its ports carrying values: with no predicate, and with one that
holds either way (O1 to O28). -/
theorem witness_fires : (∃ c, plain.Fires c .always ∧ ok c = true) ∧ (∃ c, plain.Fires c .onTrue ∧ ok c = true) ∧
    (∃ c, (lit (.int 5) (.int 3) (.int 2)).Fires c .onFalse ∧ (carries c.m.a (.int 5) && carries c.m.p (.int 2)) = true) :=
  ⟨exists_fires (by decide +kernel), exists_fires (by decide +kernel), exists_fires (by decide +kernel)⟩

/-- SEL: the port that P chooses carries a value, holds a null, and P holds a null (MovesEmitTheirToken). -/
theorem witness_sel : (∃ c, plain.Fires c .always ∧ (carries c.m.p (.int 1) && carries c.m.a (.int 5)) = true) ∧
    (∃ c, (litOn (slot0 block0) (some none) (some (some (.int 3))) (some (some (.int 1)))).Fires c .always ∧ decide (c.m.a = some none) = true) ∧
    (∃ c, (litOn (slot0 block0) (some (some (.int 5))) (some (some (.int 3))) (some none)).Fires c .always ∧ decide (c.m.p = some none) = true) :=
  ⟨exists_fires (by decide +kernel), exists_fires (by decide +kernel), exists_fires (by decide +kernel)⟩

/-- READ with no older block, the block the oldest (RegisterReadsAndWritesFire). -/
theorem witness_read : ∃ c, plain.Fires c .always ∧ (c.oldest && (c.sl.olderOf c.inst).all fun o => !o.blocksRead (.g 31)) = true :=
  exists_fires (by decide +kernel)

/-- BRI: an aligned address and one byte past it; RETT with a trap in progress and without (ExitsRecordTheNextBlock). -/
theorem witness_exits : (∃ c, (lit (.int 0x40) (.int 3) (.int 1)).Fires c .always ∧ (carries c.m.a (.int 0x40) && decide ((Datum.int 0x40).u64 % 16 = 0)) = true) ∧
    (∃ c, (lit (.int 0x41) (.int 3) (.int 1)).Fires c .always ∧ (carries c.m.a (.int 0x41) && decide ((Datum.int 0x41).u64 % 16 ≠ 0)) = true) ∧
    (∃ c, plain.Fires c .always ∧ (!c.strand.traps.getLsbD 10) = true) ∧
    (∃ c, (litOn { slot0 block0 with strands := (slot0 block0).strands.map fun t => { t with traps := 0x400 } } none none none).Fires c .always ∧
      c.strand.traps.getLsbD 10 = true) :=
  ⟨exists_fires (by decide +kernel), exists_fires (by decide +kernel), exists_fires (by decide +kernel), exists_fires (by decide +kernel)⟩

/-- A completion entry of slot 0 of core 0. -/
def cqEntry (st : CqSt) : CqEntry := ⟨0, 7, 9, st, 0x105, false⟩

/-- The handle of that entry. -/
def hd : Datum := .int (engHandle 0 0 0 7 9)

/-- The handle on A, with its entry in the completion queue. -/
def handled (st : CqSt) : State := (lit hd (.int 3) (.int 1)).modCore 0 fun k => { k with cq := [cqEntry st] }

/-- The same in a younger block. -/
def younger : State := { (litOn { slot0 block0 with insts := [block0, { block0 with age := 1 }] } none none none).modCore 0
  fun k => { k with cq := [cqEntry .done], ready := [⟨0, 1, 0, some (some hd), none, none, 0⟩] } with site := ⟨0, 0, 1, 0⟩ }

/-- What the handle on A reads as. -/
def reads (c : Ctx) (h : Datum) (st : Option (Option Word)) : Bool :=
  carries c.m.a h && decide (c.s.handleState c.sl.chair h.u64 = st)

/-- WAITC: a handle that names nothing, one that has completed, in the oldest block and in a younger one, and one that is
pending (StrandWaitsFire). -/
theorem witness_waitc : (∃ c, plain.Fires c .always ∧ reads c (.int 5) none = true) ∧
    (∃ c, (handled .done).Fires c .always ∧ (reads c hd (some (some 0x105)) && c.oldest) = true) ∧
    (∃ c, younger.Fires c .always ∧ (reads c hd (some (some 0x105)) && !c.oldest) = true) ∧
    (∃ c, (handled .pending).Fires c .always ∧ reads c hd (some none) = true) :=
  ⟨exists_fires (by decide +kernel), exists_fires (by decide +kernel), exists_fires (by decide +kernel), exists_fires (by decide +kernel)⟩

/-- Which way the check of a global access goes: 0 allowed, 1 a fault, 2 held at its port. -/
def way (c : Ctx) (nd : Need) (va n : Nat) : Nat :=
  match c.check nd va n with
  | .ok _ => 0
  | .error x => if x.stage.isNone then 1 else 2

/-- A port A with an address. -/
def at_ (a : Nat) : State := lit (.int a) (.int 3) (.int 1)

/-- LD, ST and AMO of 8 bytes: at an aligned byte of the page, at its last one, one byte past an aligned address, and
where stage 1 has no entry; at 64 bytes for LDV and STV (GlobalLoadsFire, GlobalStoresFire, AtomicsFire). -/
theorem witness_global :
    (∃ c, (at_ 0x1000).Fires c .always ∧ (carries c.m.a (.int 0x1000) && carries c.m.b (.int 3) && carries c.m.p (.int 1) &&
      way c .load 0x1000 8 = 0 && way c .store 0x1000 8 = 0 && way c .load 0x1000 64 = 0 && !c.inst.lsidTaken 31) = true) ∧
    (∃ c, (at_ 0x3FFFFFF8).Fires c .always ∧ (way c .load 0x3FFFFFF8 8 = 0 && way c .store 0x3FFFFFF8 8 = 0) = true) ∧
    (∃ c, (at_ 0x1001).Fires c .always ∧ (way c .load 0x1001 8 = 1 && way c .store 0x1001 8 = 1) = true) ∧
    (∃ c, (at_ 0x40000000).Fires c .always ∧ (carries c.m.a (.int 0x40000000) && way c .load 0x40000000 8 = 2 &&
      way c .store 0x40000000 8 = 2 && way c .store 0x40000000 64 = 2) = true) :=
  ⟨exists_fires (by decide +kernel), exists_fires (by decide +kernel), exists_fires (by decide +kernel), exists_fires (by decide +kernel)⟩

/-- `Slot.localOk`, as a check. -/
def fits (sl : Slot) (off n al : Nat) : Bool := decide (off + n ≤ sl.partSize ∧ off % al = 0)

/-- Local accesses at the last aligned place of the 16 KiB partition, past its end, and unaligned in it, for every size
that a statement has (LocalAccessesFire, AtomicsFire, FenceAndGenerationWaitsFire, DescriptorCommandsEnter). -/
theorem witness_local : ∃ c, plain.Fires c .always ∧ (ok c && [1, 2, 4, 8, 16, 32, 64].all (fun n =>
    fits c.sl (0x4000 - n) n n && decide (c.sl.partSize < 0x4001 - n + n)) && decide (1 + 16 ≤ c.sl.partSize ∧ 1 % 16 ≠ 0) &&
    fits c.sl 0x3F80 128 64 && fits c.sl 0x3BF0 1040 16) = true :=
  exists_fires (by decide +kernel)

/-- A block whose LSID 0 a load or a chain access has taken, and one in which a store has (SharedLsidActsOnce). -/
theorem witness_shared :
    (∃ c, (litOn (slot0 { block0 with acted := [0] }) (some (some (.int 8))) (some (some (.int 3))) (some (some (.int 1)))).Fires c .always ∧
      (c.inst.lsidTaken 0 && decide (∀ p ∈ c.inst.stores, p.lsid ≠ 0) && carries c.m.p (.int 1) && decide (c.freeEntries ≠ [])) = true) ∧
    (∃ c, (litOn (slot0 { block0 with stores := [⟨1, 0, true, 0, 8, 5, none, [], .strand, false, false, none⟩] }) (some (some (.int 8)))
      (some (some (.int 3))) none).Fires c .always ∧ (c.inst.lsidTaken 0 && carries c.m.b (.int 3) &&
      decide (8 + 8 ≤ c.sl.partSize ∧ 8 % 8 = 0)) = true) :=
  ⟨exists_fires (by decide +kernel), exists_fires (by decide +kernel)⟩

/-- GATH with two lanes at pages, and with the second at a misaligned address; TFETCH at an aligned address, at one that
is not canonical, and at one that is not aligned; SEQRD at the last record, at the number of records, and past any
(WideLoadsFire). -/
theorem witness_wide :
    (∃ c, (litOn (slot0 block0) (some (some (.vector .int 64 [0x1000, 0x2000, 0, 0, 0, 0, 0, 0]))) none none).Fires c .always ∧
      ([0x1000, 0x2000].all fun va => (placeOf (c.check .load va 8)).isSome) = true) ∧
    (∃ c, (litOn (slot0 block0) (some (some (.vector .int 64 [0x1000, 0x2001, 0, 0, 0, 0, 0, 0]))) none none).Fires c .always ∧
      ((placeOf (c.check .load 0x1000 8)).isSome && way c .load 0x2001 8 = 1) = true) ∧
    (∃ c, (at_ 0x1000).Fires c .always ∧ (canonical 0x1000 && (placeOf (c.check .load 0x1000 16)).isSome &&
      (placeOf (c.check .load 0x13F0 16)).isSome) = true) ∧
    (∃ c, (at_ (2 ^ 63)).Fires c .always ∧ (carries c.m.a (.int (2 ^ 63)) && !canonical (2 ^ 63)) = true) ∧
    (∃ c, (at_ 0x1008).Fires c .always ∧ (canonical 0x1008 && decide (0x1008 % 16 ≠ 0)) = true) ∧
    (∃ c, (at_ 3).Fires c .always ∧ (decide (3 < bits (c.s.chair c.sl.chair).chseqn.toNat 0 21) &&
      (match stage2 c.s c.sl.chair (0x10000 + 64 * 3) with | .ok _ => true | .error _ => false)) = true) ∧
    (∃ c, (at_ 4).Fires c .always ∧ decide (bits (c.s.chair c.sl.chair).chseqn.toNat 0 21 ≤ 4) = true) ∧
    (∃ c, (at_ (2 ^ 20)).Fires c .always ∧ carries c.m.a (.int (2 ^ 20)) = true) :=
  by refine ⟨?_, ?_, ?_, ?_, ?_, ?_, ?_, ?_⟩ <;> exact exists_fires (by decide +kernel)

/-- Lines that are all one, with none pinned, can be pinned. -/
theorem pinRoom_one {s : State} {l : List Nat} (h : (l ++ s.cores.flatMap Core.pinned).eraseDups.length = 1) : s.pinRoom l = true := by
  obtain ⟨x, h⟩ := List.length_eq_one_iff.mp h
  unfold State.pinRoom
  simp only [h, List.all_eq_true, decide_eq_true_eq]
  intro y _
  have : ([x].filter (sameLlcSet y)).length ≤ 1 := List.length_filter_le _ _
  unfold Config.llcWays
  omega

/-- TFETCH of sixteen rows at one address, where no tile lives and no line is pinned; SEQRD of a record that may be read
(WideLoadsFire). -/
theorem witness_tile :
    (∃ c, (at_ 0x1000).Fires c .always ∧
      (let rows := (List.range 16).map fun _ => (0x1000 : Nat)
       let parts : List LoadPart := rows.map fun va => ⟨va, 16, placeOf (c.check .load va 16), none, none⟩
       let l : PLoad := ⟨c.slot, c.age, c.k, 3, false, parts, .tile .kt8 0x1000 0, false, .strand, none, []⟩
       (rows.all fun va => (placeOf (c.check .load va 16)).isSome) = true ∧ (c.s.core c.core).tileRoom = true ∧ c.s.pinRoom (l.lines c.sl.chair) = true)) ∧
    ∃ c, (at_ 3).Fires c .always ∧ (match stage2 c.s c.sl.chair (0x10000 + 64 * 3) with | .ok x => x.2.rd | .error _ => false) = true := by
  refine ⟨?_, exists_fires (by decide +kernel)⟩
  obtain ⟨c, h, e⟩ := exists_fires (s := at_ 0x1000) (pr := .always) (h := fun c =>
    let rows := (List.range 16).map fun _ => (0x1000 : Nat)
    let parts : List LoadPart := rows.map fun va => ⟨va, 16, placeOf (c.check .load va 16), none, none⟩
    let l : PLoad := ⟨c.slot, c.age, c.k, 3, false, parts, .tile .kt8 0x1000 0, false, .strand, none, []⟩
    (rows.all fun va => (placeOf (c.check .load va 16)).isSome) && (c.s.core c.core).tileRoom &&
      decide ((l.lines c.sl.chair ++ c.s.cores.flatMap Core.pinned).eraseDups.length = 1)) (by decide +kernel)
  simp only [Bool.and_eq_true, decide_eq_true_eq] at e
  exact ⟨c, h, e.1.1, e.1.2, pinRoom_one e.2⟩

/-- Engine instructions with a free entry: A below 2 and at 2, ASIDs that the chair holds and does not, aligned and
unaligned packets, and lanes all at 0 (DescriptorCommandsEnter, PlainCommandsEnter). -/
theorem witness_commands :
    (∃ c, plain.Fires c .always ∧ (decide (c.freeEntries ≠ []) && ((c.s.chair c.sl.chair).asidIndex 0).isSome &&
      !((c.s.chair c.sl.chair).asidIndex 7).isSome && !c.inst.lsidTaken 0 && decide (2 ≤ 5)) = true) ∧
    (∃ c, (at_ 1).Fires c .always ∧ (decide (c.freeEntries ≠ []) && carries c.m.a (.int 1) && canonical 1 && decide (1 % 64 ≠ 0)) = true) ∧
    (∃ c, (at_ 0x1000).Fires c .always ∧ (decide (c.freeEntries ≠ []) && canonical 0x1000 && decide (0x1000 % 64 = 0)) = true) ∧
    (∃ c, (litOn (slot0 block0) (some (some (.vector .int 64 [0x1000, 0x2000, 0, 0, 0, 0, 0, 0]))) (some (some (.int 3))) none).Fires c .always ∧
      (decide (c.freeEntries ≠ []) && (List.range 8).all fun i =>
        canonical ((Datum.vector .int 64 [0x1000, 0x2000, 0, 0, 0, 0, 0, 0]).addrLane i) &&
          decide ((Datum.vector .int 64 [0x1000, 0x2000, 0, 0, 0, 0, 0, 0]).addrLane i % 8 = 0)) = true) :=
  ⟨exists_fires (by decide +kernel), exists_fires (by decide +kernel), exists_fires (by decide +kernel), exists_fires (by decide +kernel)⟩

/-- `at_` with domain 7 of the core owned by slot 0. -/
def owned (a : Nat) : State := (at_ a).modCore 0 fun k => { k with palette := k.palette.set 7 { Domain.reset with owner := some 0 } }

/-- PRD and PRDV at the first well of the last domain, owned and not, at its last well, and past the last domain; TAPCFG
words with no reserved bit, with one, and with the reserved kind; TAPST in the oldest block (WellAndTapReadsFire). -/
theorem witness_wells :
    (∃ c, (owned 448).Fires c .always ∧ (carries c.m.a (.int 448) && c.oldest && decide (448 % 16 = 0) &&
      decide (∀ e ∈ (c.s.core c.core).engs, e.onDomain 7 = false ∧ e.domainOpen = false) &&
      decide (((c.s.core c.core).palette.getD 7 .reset).owner = some c.slot)) = true) ∧
    (∃ c, (at_ 448).Fires c .always ∧ (c.oldest && decide (∀ e ∈ (c.s.core c.core).engs, e.onDomain 7 = false ∧ e.domainOpen = false) &&
      decide (((c.s.core c.core).palette.getD 7 .reset).owner ≠ some c.slot)) = true) ∧
    (∃ c, (owned 511).Fires c .always ∧ (carries c.m.a (.int 511) && decide (511 % 16 ≠ 0) &&
      decide (((c.s.core c.core).palette.getD 7 .reset).owner = some c.slot)) = true) ∧
    (∃ c, (at_ 512).Fires c .always ∧ carries c.m.a (.int 512) = true) ∧
    (∃ c, (at_ 0xFFFFFFF3).Fires c .always ∧ decide (bits 0xFFFFFFF3 32 32 = 0 ∧ bits 0xFFFFFFF3 2 2 ≠ 3) = true) ∧
    (∃ c, (at_ 0x100000000).Fires c .always ∧ decide (bits 0x100000000 32 32 ≠ 0) = true) ∧
    (∃ c, (at_ 0xC).Fires c .always ∧ decide (bits 0xC 2 2 = 3) = true) :=
  ⟨exists_fires (by decide +kernel), exists_fires (by decide +kernel), exists_fires (by decide +kernel), exists_fires (by decide +kernel),
    exists_fires (by decide +kernel), exists_fires (by decide +kernel), exists_fires (by decide +kernel)⟩

/-- A format that is assigned and one that is not; FP32 and another; a value that carries a vector, and one a scalar (the
vector statements). -/
theorem witness_formats : Fmt.kt8.isReserved = false ∧ Fmt.rsv6.isReserved = true ∧
    ∃ c, (litOn (slot0 block0) (some (some (.vector .fp32 32 [0x3F800000]))) (some (some (.vector .kt8 8 [0x40]))) (some (some (.int 1)))).Fires c .always ∧
      (carries c.m.a (.vector .fp32 32 [0x3F800000]) && carries c.m.b (.vector .kt8 8 [0x40]) && carries c.m.p (.int 1)) = true :=
  ⟨by decide, by decide, exists_fires (by decide +kernel)⟩

/-- A tile of slot 0. -/
def tile0 : Tile := ⟨3, 0, 0, .kt8, List.replicate 256 0x40, none, []⟩

/-- A token that bears it. -/
def tileTok : Datum := { Datum.int 0x1000 with tile := some 3 }

/-- An array of one station at row 2, column 1, its accumulators as given. -/
def array0 (accs : List Acc) : SysArray := ⟨0, 2, 1, 0, 0, .kt8, 0, [⟨.kt8, [], none, false⟩], List.replicate 16 (0, 0), accs⟩

/-- A core with the tile and the array. -/
def arrayed (a b : Datum) (accs : List Acc) : State := (lit a b (.int 1)).modCore 0 fun k => { k with tiles := [tile0], arrays := [array0 accs] }

/-- A rectangle of the one station. -/
def rect0 : FT := ⟨.always, .none, .none, .kt8, 2, 1, 0, 0⟩

/-- SYSCFG and ROUTE at the last legal word and past it; WLOAD and TMUL with a tile and without; TMUL off every array
(SystolicConfigurationAndTmulFire). -/
theorem witness_tmul :
    (∃ c, (at_ (2 ^ 24 - 1)).Fires c .always ∧ carries c.m.a (.int (2 ^ 24 - 1)) = true) ∧
    (∃ c, (at_ (2 ^ 24)).Fires c .always ∧ (carries c.m.a (.int (2 ^ 24)) && decide (2 ^ 24 < 2 ^ 32)) = true) ∧
    (∃ c, (at_ (2 ^ 32)).Fires c .always ∧ carries c.m.a (.int (2 ^ 32)) = true) ∧
    (∃ c, (arrayed tileTok tileTok []).Fires c .always ∧ (carries c.m.a tileTok && carries c.m.b tileTok &&
      decide ((c.s.core c.core).tileOf tileTok = some tile0) && (c.s.core c.core).arrays.all fun x =>
        !inRect x.row0 x.col0 x.nrow x.ncol (c.k / 8) (c.k % 8)) = true) ∧
    (∃ c, (arrayed (.int 5) (.int 3) []).Fires c .always ∧ (carries c.m.a (.int 5) && carries c.m.b (.int 3) &&
      decide ((c.s.core c.core).tileOf (.int 5) = none) && decide ((c.s.core c.core).tileOf (.int 3) = none)) = true) ∧
    (∃ c, (arrayed (.int 5) tileTok []).Fires c .always ∧ (decide ((c.s.core c.core).tileOf tileTok = some tile0) &&
      decide ((c.s.core c.core).tileOf (.int 5) = none)) = true) :=
  ⟨exists_fires (by decide +kernel), exists_fires (by decide +kernel), exists_fires (by decide +kernel), exists_fires (by decide +kernel),
    exists_fires (by decide +kernel), exists_fires (by decide +kernel)⟩

/-- The rows of one block, fed at column 0. -/
def fed (place : AccPlace) : Acc := ⟨0, [⟨0, false, [List.replicate 16 0x40], 0⟩], [], place, [⟨.kt8, [], none, false⟩]⟩

/-- MMA on an array not yet fed, on one fed already, and where no array has the column; DRAIN of a complete entry with empty
routes (SystolicFeedAndDrainFire). -/
theorem witness_feed :
    (∃ c, (arrayed (.int 5) (.int 3) []).Fires c .always ∧ (carries c.m.a (.int 5) && decide (c.array? (FT.isColumn rect0) = some (array0 [])) &&
      decide (c.array? (FT.isRow rect0) = some (array0 []))) = true) ∧
    (∃ c, (arrayed (.int 5) (.int 3) [fed .rows]).Fires c .always ∧ (carries c.m.a (.int 5) &&
      decide (c.array? (FT.isColumn rect0) = some (array0 [fed .rows])) && decide (rect0.col0.toNat - (array0 []).col0 = 0) &&
      decide (c.age = 0)) = true) ∧
    (∃ c, plain.Fires c .always ∧ (c.oldest && decide (c.array? (FT.isColumn rect0) = none) && decide (c.array? (FT.isRow rect0) = none)) = true) ∧
    (∃ c, (arrayed (.int 5) (.int 3) [fed .entry]).Fires c .always ∧ (carries c.m.a (.int 5) &&
      decide (c.array? (FT.isRow rect0) = some (array0 [fed .entry])) && decide ((array0 [fed .entry]).accs.find? (·.age = c.age) = some (fed .entry)) &&
      (array0 []).complete (fed .entry) && decide (c.targetFault 0 c.k c.inst.readsPort = none) && (fed .entry).feeds.all (!·.tile)) = true) :=
  ⟨exists_fires (by decide +kernel), exists_fires (by decide +kernel), exists_fires (by decide +kernel), exists_fires (by decide +kernel)⟩

/-- A token of a reserved format. -/
def reserved : Datum := { Datum.int 5 with fmt := .rsv7 }

/-- Nulls on A, on B and on P, tokens of a reserved format, and a predicate that does not hold, with an instruction that
reads A and B and one whose P is data (ANullOperandEmitsNulls, AReservedTagFaults, AFalsePredicateEmitsNothing). -/
theorem witness_nulls :
    (Instr.nullsOut (.add ⟨.always, .none, .none, .w64⟩) = true ∧ Instr.reads (.add ⟨.always, .none, .none, .w64⟩) .a = true ∧
      Instr.reads (.add ⟨.always, .none, .none, .w64⟩) .b = true ∧ readsPData (.vsel ⟨.none, .none, .w8⟩) = true) ∧
    (∃ c, (litOn (slot0 block0) (some none) (some none) (some none)).Fires c .always ∧ decide (c.m.a = some none) = true) ∧
    (∃ c, (litOn (slot0 block0) (some (some (.int 5))) (some none) none).Fires c .always ∧ (carries c.m.a (.int 5) && decide (c.m.b = some none)) = true) ∧
    (∃ c, (litOn (slot0 block0) (some (some (.int 5))) (some (some (.int 3))) (some none)).Fires c .always ∧
      (carries c.m.a (.int 5) && carries c.m.b (.int 3) && decide (c.m.p = some none)) = true) ∧
    (∀ x, x = lit reserved (.int 3) (.int 1) ∨ x = lit (.int 5) reserved (.int 1) ∨ x = lit (.int 5) (.int 3) reserved → ∃ c, x.fireCtx = some c ∧
      (!c.inst.bad.contains c.k && c.m.reserved && [c.m.a, c.m.b, c.m.p].contains (some (some reserved)) && reserved.fmt.isReserved) = true) ∧
    (isPref (.pref ⟨.always, .none, .none, 0, 0⟩) = true ∧ isPref (.add ⟨.always, .none, .none, .w64⟩) = false) ∧
    (∃ c, (lit reserved (.int 3) (.int 1)).FiresAny c .always) ∧
    (∃ c, (litOn (slot0 { block0 with bad := [0] }) none none none).fireCtx = some c ∧ c.inst.bad.contains c.k = true) ∧
    (Instr.fmts (.tmul ⟨.always, .none, .none, .rsv6, 0⟩)).any Fmt.isReserved = true ∧
    (∃ c, plain.fireCtx = some c ∧ (!c.inst.bad.contains c.k && !c.m.reserved && !predHolds .onFalse c.m.p) = true) := by
  refine ⟨by decide, exists_fires (by decide +kernel), exists_fires (by decide +kernel), exists_fires (by decide +kernel), ?_, by decide, ?_,
    exists_seen (by decide +kernel), by decide, exists_seen (by decide +kernel)⟩
  · rintro x (rfl | rfl | rfl) <;> exact exists_seen (by decide +kernel)
  · obtain ⟨c, h, e⟩ := exists_seen (s := lit reserved (.int 3) (.int 1)) (h := fun c => !c.inst.bad.contains c.k && predHolds .always c.m.p) (by decide +kernel)
    simp only [Bool.and_eq_true, Bool.not_eq_true'] at e
    exact ⟨c, h, e⟩

/-- A firing that answers a next state (FiringCommitsNothing). -/
theorem witness_next : ∃ t, exec (.endI ⟨.always, 0⟩) plain = .next t := ⟨_, rfl⟩

/-! ### Words and steps -/

/-- A well-formed instruction with a word, and the word (EncodedInstructionsDecode, DecodedWordsEncode). -/
theorem witness_word : (Instr.endI ⟨.always, 0⟩).wellFormed = true ∧ encode (.endI ⟨.always, 0⟩) = some 0x2200000000000000 ∧
    decodesTo [(0x2200000000000000, .endI ⟨.always, 0⟩)] = true := by decide +kernel

/-- Words of ADD with PR = 11, with a target that is none, and with a reserved bit set (UnassignedWordsAreRefused). -/
theorem witness_reserved :
    (assignedOp (bits 0x40C0000000000000 56 8) = true ∧ badFields 0x40C0000000000000) ∧
    (assignedOp (bits 0x4000100000000000 56 8) = true ∧ badFields 0x4000100000000000) ∧
    (assignedOp (bits 0x4000000000000001 56 8) = true ∧ badFields 0x4000000000000001) :=
  ⟨⟨by decide, .inl (by decide)⟩, ⟨by decide, .inr (.inl ⟨44, by decide, .inl (by decide)⟩)⟩,
    ⟨by decide, .inr (.inr ⟨((0x40, 0x5B), [(0, 31)]), by decide, by decide, by decide, (0, 31), by decide, by decide⟩)⟩⟩

/-- A block of END, complete, its firing next. -/
def ending : State := { (litOn (slot0 { block0 with words := [0x2200000000000000] }) none none none) with agenda := [.fire ⟨0, 0, 0, 0⟩], nextId := 5 }

/-- A firing that stands next (StepRunsTheDecodedInstruction), and a token that arrives at a slot whose match is consumed
(AFiringConsumesItsMatch). -/
theorem witness_step : (ending.fireMay ⟨0, 0, 0, 0⟩ = true ∧ ((ending.slot? 0 0).bind fun sl => (sl.inst? 0).bind (·.words[0]?)) = some 0x2200000000000000 ∧
    ending.boot = .running ∧ ∃ t, exec (.endI ⟨.always, 0⟩) { ending with agenda := [], site := ⟨0, 0, 0, 0⟩ } = .next t) ∧
    ∃ c, (plain.modCore 0 fun k => { k with net := [⟨0, 0, 0, .a, none, false⟩] }).fireCtx = some c ∧ c.s.cores.length = 192 ∧
      (c.s.core c.core).net[0]? = some ⟨c.slot, c.age, c.k, .a, none, false⟩ :=
  ⟨⟨by decide +kernel, by decide +kernel, rfl, _, rfl⟩, by
    obtain ⟨c, h, e⟩ := exists_fires (s := plain.modCore 0 fun k => { k with net := [⟨0, 0, 0, .a, none, false⟩] }) (pr := .always)
      (h := fun c => decide (c.s.cores.length = 192) && decide ((c.s.core c.core).net[0]? = some (⟨c.slot, c.age, c.k, .a, none, false⟩ : NetTok))) (by decide +kernel)
    simp only [Bool.and_eq_true, decide_eq_true_eq] at e
    exact ⟨c, h.1.1, e.1, e.2⟩⟩

/-- A message that arrives, an operation that is enabled, and one that is not (StepTakesTheNextAct). -/
theorem witness_acts : (∃ t, exec (.clockThrottle 1000) up = .next t) ∧ (∃ t, runAct (.request 0 ⟨[], [], false, none⟩) up = .next t) ∧
    ∀ t, runAct (.ev (.storeApplied 0 0 0)) State.reset ≠ .next t :=
  ⟨⟨_, rfl⟩, ⟨_, rfl⟩, by
    intro t
    have h : (match runAct (.ev (.storeApplied 0 0 0)) State.reset with | .next _ => false | _ => true) = true := by decide +kernel
    intro e
    rw [e] at h
    cases h⟩

/-- A boot always ends in a state. -/
theorem boot_next (s : State) : ∃ u, execBoot s = .next u := by
  unfold execBoot
  dsimp only
  repeat' first | exact ⟨_, rfl⟩ | split

/-- From reset the package may only boot, and does (StepTakesTheNextAct). -/
theorem witness_choice : let any := Config.freeNat (State.reset.freeCtr + 1) % 2 ^ 60 * 16
    let now : State := { State.reset with freeCtr := State.reset.freeCtr + 2 }
    .ev .boot ∈ autonomous State.reset any ∧ (∃ u, runAct (.ev .boot) now = .next u) ∧ ∃ t, autonomousStep State.reset = .next t := by
  have h (s : State) (hb : s.boot = .cold) : ∃ u, runAct (.ev .boot) s = .next u := by
    have : runAct (.ev .boot) s = execBoot s := by
      unfold runAct need
      simp [show isOperation .boot = true from rfl, bootOnly]
      rfl
    rw [this]
    exact boot_next s
  refine ⟨by simp [autonomous, State.reset], h _ rfl, ?_⟩
  obtain ⟨u, hu⟩ := h { State.reset with freeCtr := State.reset.freeCtr + 2 } rfl
  have ha (any : Nat) : autonomous State.reset any = [.ev .boot] := rfl
  unfold autonomousStep
  simp only [ha, List.filterMap_cons, List.filterMap_nil, hu]
  unfold State.choose State.longest
  simp only [List.foldl_cons, List.foldl_nil, List.length_singleton, Nat.mod_one]
  split <;> exact ⟨_, rfl⟩

/-- A sound block of END that USER may map, and one with PV set (MappedBlocksAreSound). -/
theorem witness_mapped : mapCheck (Inst.fresh 0 0 0 0 0xB100000000000000 0 [0x2200000000000000]) true = none ∧
    mapCheck (Inst.fresh 0 0 0 0 0xB100010000000000 0 [0x2200000000000000]) false = none := by decide +kernel

/-- A write slot of a block that holds no token (TokensGoToTheirTargets); a memory in canonical form with a next state
(StepKeepsMemory). -/
theorem witness_write : (plain.cores.length = 192 ∧ ((plain.slot? 0 0).bind (·.inst? 0)) = some block0 ∧ block0.ws = []) ∧
    (up.hbm.wf = true ∧ (up.cores.all fun k => k.mem.wf) = true) := by decide +kernel

/-! ### Tokens -/

/-- Core 0 of the package up with a slot 0, the core changed. -/
def with0 (sl : Slot) (f : Core → Core) : State := up.modCore 0 fun k => { f k with slots := k.slots.set 0 (some sl) }

/-- Nine blocks of two words that read A and B, in one window. -/
def nine : Slot := { slot0 block0 with
  insts := (List.range 9).map fun n => Inst.fresh n 0 0 0 0 0 [0x4020560180000000, 0x4020560180000000], nextAge := 9, cabq := 8 }

/-- A token for slot 1 of one of them. -/
def tok (age : Nat) (q : Port) : NetTok := ⟨0, age, 1, q, some (.int 5), false⟩

/-- The nine blocks with tokens on their way, in the Cabinet and in the chest, whose range is loaded. -/
def tokens (room : Nat) (net cab chest : List NetTok) : State := with0 { nine with chestOk := room } fun k =>
  { k with net := net, cab := cab, chest := chest, ranges := [⟨some 0, 0, 0, 0, 0, 0, ⟨true, true, false, false⟩⟩] }

/-- `Awaits`, as a check. -/
def awaits (k : Core) (t : NetTok) (others : List NetTok) : Bool :=
  (match k.slot? t.slot with
    | some sl => (match sl.inst? t.age with | some i => !i.dead && !i.fired.contains t.k | none => false)
    | none => false) &&
  k.ready.all (fun m => !(m.slot = t.slot && m.age = t.age && m.k = t.k)) && (k.cab ++ others).all (fun e => !e.sameKey t) &&
  !t.poison && k.cab.all fun e => !e.sameSlot t || !e.poison

theorem awaits_sound {k : Core} {t : NetTok} {o : List NetTok} (h : awaits k t o = true) : k.Awaits t o := by
  unfold awaits at h
  split at h
  · rename_i sl hs
    split at h
    · rename_i i hi
      simp only [Bool.and_eq_true, List.all_eq_true, Bool.not_eq_true'] at h
      obtain ⟨⟨⟨⟨⟨h1, h2⟩, h3⟩, h4⟩, h5⟩, h6⟩ := h
      refine ⟨⟨sl, i, hs, hi, h1, fun hm => by simp_all⟩, ?_, h4, h5, ?_⟩
      · rintro m hm ⟨e1, e2, e3⟩
        have := h3 m hm
        simp [e1, e2, e3] at this
      · intro e he hs'
        have := h6 e he
        simpa [hs'] using this
    · simp at h
  · simp at h

/-- A token that completes its match, one that finds a way, one that goes to the chest, and one whose chest is full; in the
chest, one that completes its match and one that finds a way (TokensMeetTheirMatch). -/
theorem witness_tokens :
    (((tokens 1 [tok 8 .b] [tok 8 .a] []).core 0).Awaits (tok 8 .b) [] ∧ ((tokens 1 [tok 8 .b] [tok 8 .a] []).core 0).completes (tok 8 .b) = true) ∧
    (((tokens 1 [tok 8 .a] [] []).core 0).Awaits (tok 8 .a) [] ∧ ((tokens 1 [tok 8 .a] [] []).core 0).completes (tok 8 .a) = false ∧
      ((tokens 1 [tok 8 .a] [] []).core 0).hasWay (tok 8 .a)) ∧
    (∀ room, room = 0 ∨ room = 1 → let s := tokens room [tok 8 .a] ((List.range 8).map (tok · .a)) []
      (s.core 0).net[0]? = some (tok 8 .a) ∧ (s.core 0).Awaits (tok 8 .a) [] ∧ (s.core 0).completes (tok 8 .a) = false ∧
        ¬(s.core 0).hasWay (tok 8 .a) ∧ s.ChestHas 0 0 (decide (room = 1))) ∧
    (((tokens 1 [] [tok 8 .a] [tok 8 .b]).core 0).Awaits (tok 8 .b) [] ∧ ((tokens 1 [] [tok 8 .a] [tok 8 .b]).core 0).completes (tok 8 .b) = true) ∧
    (((tokens 1 [] [] [tok 8 .a]).core 0).Awaits (tok 8 .a) [] ∧ ((tokens 1 [] [] [tok 8 .a]).core 0).hasWay (tok 8 .a) ∧
      ((tokens 1 [] [] [tok 8 .a]).core 0).candidate 0 (((tokens 1 [] [] [tok 8 .a]).core 0).tokSet (tok 8 .a)) = some 0 ∧
      oldestTok ((((tokens 1 [] [] [tok 8 .a]).core 0).chestFor 0 (((tokens 1 [] [] [tok 8 .a]).core 0).tokSet (tok 8 .a))).filter (·.slot = 0)) =
        some (tok 8 .a)) := by
  refine ⟨⟨awaits_sound (by decide +kernel), by decide +kernel⟩, ⟨awaits_sound (by decide +kernel), by decide +kernel⟩, ?_,
    ⟨awaits_sound (by decide +kernel), by decide +kernel⟩, awaits_sound (by decide +kernel), by decide +kernel⟩
  rintro room (rfl | rfl)
  · exact ⟨by decide +kernel, awaits_sound (by decide +kernel), by decide +kernel, by decide +kernel, _, rfl, by decide +kernel, by decide +kernel⟩
  · exact ⟨by decide +kernel, awaits_sound (by decide +kernel), by decide +kernel, by decide +kernel, _, rfl, by decide +kernel, by decide +kernel⟩

/-- A full set, the oldest block's token in the chest, and the youngest block's entry the victim of a swap and of a quota
swap (SwapsGiveTheVictimsWay). -/
theorem witness_swaps : let s := tokens 2 [] ((List.range 8).map fun n => tok (n + 1) .a) [tok 0 .a]
    let k := s.core 0
    let set := k.tokSet (tok 0 .a)
    (k.candidate 0 set = some 0 ∧ oldestTok ((k.chestFor 0 set).filter (·.slot = 0)) = some (tok 0 .a) ∧ k.victim 0 set = some (tok 8 .a) ∧
      (k.inSet 0 set).length = 8 ∧ k.pri 0 ≤ k.pri 0 ∧ (tok 0 .a).age < (tok 8 .a).age) ∧
    (oldestTok (k.chest.filter fun e => decide (e.slot = 0) && decide (e.row = 0)) = some (tok 0 .a) ∧
      ((k.inRow 0 0).filter (·.age = (k.inRow 0 0).foldl (fun b e => max b e.age) 0))[0]? = some (tok 8 .a) ∧
      ((s.slot? 0 0).map (·.quota)) = some 8 ∧ 8 ≤ (k.inRow 0 0).length) ∧
    (let after : Core := { k with cab := k.cab.erase (tok 8 .a), chest := k.chest.erase (tok 0 .a) }
     after.completes (tok 0 .a) = false ∧ after.hasWay (tok 0 .a)) ∧ s.ChestHas 0 0 true := by
  refine ⟨?_, ?_, ?_, _, rfl, ?_, ?_⟩ <;> decide +kernel

/-! ### Blocks -/

/-- A memory in canonical form, as a check. -/
def memOk (s : State) : Bool := s.hbm.wf && s.cores.all fun k => k.mem.wf

theorem memOk_sound {s : State} (h : memOk s = true) : s.MemWf := by
  simpa [memOk, State.MemWf, Bool.and_eq_true, List.all_eq_true] using h

/-- Slot 0 with its blocks in flight and its grants. -/
def granted (insts : List Inst) (grants : List Grant) : Slot := { slot0 block0 with insts := insts, grants := grants }

/-- A decoded block at 0 with a word. -/
def code0 (w : Word) : Decoded := ⟨0, 0, 0, 0xB100000000000000, 0, [w], none⟩

/-- What is true of a slot of core 0. -/
def slotIs (s : State) (p : Slot → Strand → Bool) : Bool :=
  match s.slot? 0 0 with
  | some sl => (match sl.strand? 0 with | some t => p sl t | none => false)
  | none => false

/-- Whether nothing of the slot's launch is being evicted and the front end serves it. -/
def served (s : State) (sl : Slot) (work : Slot → Bool) : Bool := !s.stopping sl && (s.core 0).serves 0 work

/-- The address of a page of the upper gigabyte, which no entry maps, and one that is not canonical. -/
def faulting : List Nat := [0x40000000, 2 ^ 63]

/-- A grant with and without a tagged block; a fetch that reads, one held and one that faults; a sound block, one with an illegal
opcode and one with a poisoned word; a kept translation and block to drop (BlocksEnterTheirStrand). -/
theorem witness_entry :
    (let s := with0 (granted [] []) id
     slotIs s fun sl t => sl.mayGrant t 0 0 && (sl.tagged 0).isNone && sl.freeWindows.head?.isSome && served s sl Slot.grantWaits) = true ∧
    (let s := with0 (granted [Inst.fresh 0 1 0 3 (2 ^ 41) 0 [0]] []) id
     slotIs s fun sl t => sl.mayGrant t 0 0 && (sl.tagged 0).isSome && served s sl Slot.grantWaits) = true ∧
    (let s := with0 (granted [] [⟨0, 0, 0, false⟩]) id
     slotIs s fun sl t => decide ((s.core 0).toFetch sl = some ⟨0, 0, 0, false⟩) && served s sl (fun x => ((s.core 0).toFetch x).isSome) &&
      (match fetchBlock s 0 sl (!t.priv) 0 with | .ok l => 2 ≤ l.length | _ => false)) = true ∧
    (∀ va ∈ faulting, let s := with0 (granted [] [⟨0, va, 0, false⟩]) id
     slotIs s fun sl t => decide ((s.core 0).toFetch sl = some ⟨0, va, 0, false⟩) && served s sl (fun x => ((s.core 0).toFetch x).isSome) &&
      (match fetchBlock s 0 sl (!t.priv) va with | .error (_, e) => decide (e.stage = if va = 2 ^ 63 then none else some 1) | _ => false)) ∧
    (∀ w, w = 0x2200000000000000 ∨ w = 0 → ∀ p, p = none ∨ p = some 8 →
     let d := { code0 w with poison := p }
     let s := with0 (granted [] [⟨0, 0, 0, true⟩]) fun k => { k with code := [d], tlb := [⟨0, 0, 0, 0x40000000, 0, ⟨true, true, true, true⟩⟩] }
     (slotIs s fun sl t => decide ((s.core 0).toMap sl = some ⟨0, 0, 0, true⟩) && decide ((s.core 0).cached sl ⟨0, 0, 0, true⟩ = some d) &&
      served s sl (fun x => ((s.core 0).toMap x).isSome) &&
      decide ((mapCheck (Inst.fresh sl.nextAge 0 0 0 d.h0 d.h1 d.words) (!t.priv)).isNone = (w ≠ 0))) = true ∧
      0 < (s.core 0).tlb.length ∧ 0 < (s.core 0).code.length) := by
  refine ⟨by decide +kernel, by decide +kernel, by decide +kernel, ?_, ?_⟩
  · simp only [faulting, List.mem_cons, List.not_mem_nil, or_false]
    rintro va (rfl | rfl) <;> decide +kernel
  · rintro w (rfl | rfl) p (rfl | rfl) <;> decide +kernel

/-! ### Commit and faults -/

/-- A block of END that has fired, with what it holds for commit. -/
def done (acts : List (Nat × KAct)) (stores : List PStore) : Inst := { block0 with
  words := [0x2200000000000000], fired := [0], exits := [.endE], kacts := acts, stores := stores }

/-- `State.Commits`, as a check. -/
def commits (s : State) (i : Inst) (e : ExitRec) : Bool := slotIs s fun sl t =>
  decide (sl.inst? i.age = some i) && decide (sl.strand? i.uid = some t) && s.commitReady 0 0 sl i && s.commitFree 0 0 sl i t &&
    (i.committing || decide (s.commitFaults 0 0 sl i t = [])) && decide (s.amosPoisoned 0 sl i = []) && decide (i.exits = [e]) &&
    i.stores.all (fun p => p.loc || p.phys.isSome) &&
    i.stores.all (fun p => i.stores.all fun q => decide (p.lsid = q.lsid → p = q)) && decide (s.reservations 0 0 i.age = [])

theorem commits_sound {s : State} {i : Inst} {e : ExitRec} (h : commits s i e = true) :
    ∃ sl t, s.Commits 0 0 sl i t e := by
  unfold commits slotIs at h
  split at h
  · rename_i sl hs
    split at h
    · rename_i t ht
      simp only [Bool.and_eq_true, decide_eq_true_eq, List.all_eq_true, Bool.or_eq_true] at h
      obtain ⟨⟨⟨⟨⟨⟨⟨⟨⟨h1, h2⟩, h3⟩, h4⟩, h5⟩, h5'⟩, h6⟩, h7⟩, h8⟩, h9⟩ := h
      exact ⟨sl, t, hs, h1, h2, h3, h4, fun hc => h5.resolve_left (by simp [hc]), h5', h6, h7, h8, h9⟩
    · cases h
  · cases h

/-- A store of 8 bytes at the start of the partition, of its block's LSID 0. -/
def store0 : PStore := ⟨1, 0, true, 0, 8, 0x1122334455667788, none, [], .strand, false, false, none⟩

/-- An atomic there, whose old value goes to write slot 0. -/
def amo0 : PStore := { store0 with amo := some (.add, .w64), targets := [0] }

/-- A block of RET whose LNK comes from the atomic. -/
def retBlock : Inst := { done [] [amo0] with words := [0x0300000033000000], exits := [.ret], ws := [(0, some (.int 0))] }

/-- A strand whose LNK is not aligned, its first bytes of the partition as given. -/
def returning (i : Inst) (lnk : Word) (mem : Memory) : State :=
  with0 { slot0 i with strands := (slot0 i).strands.map fun t => { t with lnk := lnk } } fun k => { k with mem := mem }

/-- A block that commits with a store, and with each act that a clause is about; one that begins with an atomic, and one that has
begun; a RET to an unaligned address, and one whose address an atomic gives, aligned and not (ABlockCommits). -/
theorem witness_commits : (∃ sl t, (with0 (slot0 (done [] [store0])) id).Commits 0 0 sl (done [] [store0]) t .endE) ∧
    (∀ x ∈ [KAct.csr .trapv 0x1235, .csr .ctxpri 7, .csr .cabq 255, .tapcfg 7 0, .fork 2 1 0x40 9],
      ∃ sl t, (with0 (slot0 (done [(0, x)] [])) id).Commits 0 0 sl (done [(0, x)] []) t .endE) ∧
    ((∃ sl t, (with0 (slot0 (done [] [amo0])) id).Commits 0 0 sl (done [] [amo0]) t .endE) ∧ (done [] [amo0]).lnkFromAmo = false) ∧
    (let i := { done [] [] with committing := true }
     ∃ sl t, (with0 (slot0 i) id).Commits 0 0 sl i t .endE ∧ i.retMisaligned t = false) ∧
    (let i := { done [] [] with committing := true, exits := [.ret] }
     commits (returning i 5 []) i .ret = true ∧ slotIs (returning i 5 []) fun _ t => i.retMisaligned t) ∧
    ∀ m, m = [] ∨ m = [(0, 5)] → let s := returning retBlock 0 m
      commits s retBlock .ret = true ∧ retBlock.lnkFromAmo = true ∧ slotIs s fun sl _ => s.directMay 0 0 sl retBlock &&
        (slotIs (((s.noteTaps sl retBlock).beginCommit 0 0 retBlock retBlock.storesInOrder).applyDirect 0 0 0 sl retBlock.storesInOrder)
          fun x r => match x.inst? 0 with | some j => decide (j.retMisaligned r = (m ≠ [])) | none => false) := by
  refine ⟨commits_sound (by decide +kernel), ?_, ⟨commits_sound (by decide +kernel), by decide +kernel⟩, ?_, by decide +kernel, ?_⟩
  · simp only [List.mem_cons, List.not_mem_nil, or_false]
    rintro x (rfl | rfl | rfl | rfl | rfl) <;> exact commits_sound (by decide +kernel)
  · obtain ⟨sl, t, h⟩ := commits_sound (s := with0 (slot0 { done [] [] with committing := true }) id)
      (i := { done [] [] with committing := true }) (e := .endE) (by decide +kernel)
    exact ⟨sl, t, h, by simp [Inst.retMisaligned, done]⟩
  · rintro m (rfl | rfl) <;> decide +kernel

/-- A launch that is running, evicted or marked. -/
def launch0 (id : Nat) (out evict : Bool) : Launch :=
  ⟨id, 0, 0, 0, [], true, .table 0 0 0 0, [], [0, 1, 2, 3], 0, false, out, evict, [], 0⟩

/-- A quiescent block with no exit; a fault of the oldest block under a handler, and without one (FaultsAreTaken). -/
theorem witness_faults :
    (let i := { done [] [] with exits := [] }
     i.dead = false ∧ i.committing = false ∧ i.meets = false ∧ i.faults = [] ∧ (with0 (slot0 i) id).quiescent 0 0 i = true) ∧
    (∀ v : Word, v = 16 ∨ v = 0 → let i := { done [] [] with faults := [.plain FC.chestFull] }
     let s := { with0 { slot0 i with trapv := v } id with launches := [launch0 0 false false] }
     (slotIs s fun sl t => decide (sl.inst? 0 = some i) && sl.isOldest i && !sl.stopped && decide (t.canTrap sl.trapv = (v ≠ 0))) = true ∧
      i.faults[0]? = some (.plain FC.chestFull) ∧ s.launch? 0 = some (launch0 0 false false)) := by
  refine ⟨by decide +kernel, ?_⟩
  rintro v (rfl | rfl) <;> decide +kernel

/-! ### Accesses, chains, waits -/

/-- A load of 8 bytes at 0, of the partition or of memory. -/
def load0 (loc : Bool) (ch : Option Triple) : PLoad :=
  ⟨0, 0, 0, 3, loc, [⟨0, 8, if loc then none else some (0, 0), none, none⟩], .zext, false, .strand, ch, []⟩

/-- A block whose slot 0 is LDL. -/
def ldlBlock : Inst := { block0 with words := [0x755804247C0B4B4B] }

/-- The same store to memory, the last eight bytes of its page. -/
def storeG : PStore := { store0 with loc := false, va := 0x3FFFFFF8, phys := some (0x3FFFFFF8, 0x3FFFFFF8) }

/-- A release of CORE scope to memory. -/
def releaseG : PStore := { storeG with sc := .core, rel := true }

/-- A slot with a committed store, atomic or fence, and others before it. -/
def posted (before : List PostAct) (p : PostAct) : State :=
  with0 { slot0 block0 with post := (before ++ [p]).map (⟨0, 0, 0, ·⟩) } id

/-- Loads of the partition and of memory that nothing holds back, their words sound and poisoned; a fence, a store or atomic to
the partition and one to memory that may be applied, the atomic poisoned too; a release of CORE scope behind another store
(AccessesArePerformed). -/
theorem witness_accesses :
    (∀ loc, loc = true ∨ loc = false → ∀ p, p = [] ∨ p = [0] →
      let s := { with0 (slot0 ldlBlock) fun k => { k with loads := [load0 loc none], poison := p } with poison := p }
      (slotIs s fun sl t => decide (sl.inst? 0 = some ldlBlock) && s.mayPerform 0 sl ldlBlock (!t.priv) (load0 loc none) &&
        decide (s.poisonedLocal 0 sl 0 8 = (p ≠ []))) = true ∧ (s.core 0).loads[0]? = some (load0 loc none) ∧ s.poisoned 0 8 = decide (p ≠ []) ∧
        (ldlBlock.instr 0).isSome = true) ∧
    (∀ p ∈ [PostAct.fence .full .strand, .store store0, .store storeG, .store amo0], let s := posted [] p
      (slotIs s fun sl _ => decide (sl.post[0]? = some ⟨0, 0, 0, p⟩) && s.mayApply 0 0 sl 0 ⟨0, 0, 0, p⟩ && memOk s &&
        decide (s.lost 0x3FFFFFF8 = false) && !s.amoPoisoned 0 sl store0 && !s.amoPoisoned 0 sl amo0) = true) ∧
    (let s := (posted [] (.store amo0)).modCore 0 fun k => { k with poison := [0] }
     slotIs s fun sl _ => s.mayApply 0 0 sl 0 ⟨0, 0, 0, .store amo0⟩ && s.amoPoisoned 0 sl amo0) = true ∧
    (let s := posted [.store store0] (.store releaseG)
     slotIs s fun sl _ => decide (sl.post[1]? = some ⟨0, 0, 0, .store releaseG⟩) && s.mayApply 0 0 sl 1 ⟨0, 0, 0, .store releaseG⟩ &&
      releaseG.coreRelease && !s.allBefore 0 0 ((sl.post.take 1).filter (·.uid = 0)) ⟨0, 0, 0, .store releaseG⟩) = true ∧
    store0.va / 0x4000 = (store0.va + store0.bytes - 1) / 0x4000 := by
  refine ⟨?_, ?_, by decide +kernel, by decide +kernel, by decide⟩
  · rintro loc (rfl | rfl) p (rfl | rfl) <;> decide +kernel
  · simp only [List.mem_cons, List.not_mem_nil, or_false]
    rintro p (rfl | rfl | rfl | rfl) <;> decide +kernel

/-- A chain store on its way to its Dresser. -/
def msg (own : Nat) : ChainMsg := ⟨0, 0, 1, 0, ⟨own, noOwn, 8⟩, some storeG, false⟩

/-- A chain access waiting in its Dresser, committed, that comes after OWN 6. -/
def waiting (own : Nat) (load : Bool) : DEntry :=
  ⟨0, 0, ⟨own, 6, 8⟩, 0, 0, 0, 0, 0, 3, load, if load then none else some storeG, true⟩

/-- The last access of chain 0 applied. -/
def last : List Frontier := [⟨0, 0, 6, noOwn⟩]

/-- A chain of the package with messages and entries. -/
def chained (m : List ChainMsg) (d : List DEntry) : State :=
  { with0 (slot0 ldlBlock) fun k => { k with chainOut := m, loads := [load0 false (some ⟨7, 6, 8⟩)] } with dressers := d, frontiers := last }

/-- A message whose OWN names no access, one whose OWN is the last, one that waits already, one that finds its chain full,
and one that enters, of a store, of a CHNOP and of a load; a store and a load that come next, its word sound and poisoned
(ChainsApplyInOrder). -/
theorem witness_chains :
    ((chained [msg noOwn] []).core 0).chainOut[0]? = some (msg noOwn) ∧ (msg 6).triple.own = ((chained [msg 6] []).frontier 0 0).lastOwn ∧
    (∃ d ∈ (chained [msg 7] [waiting 7 false]).dressers, d.triple.own = (msg 7).triple.own ∧ d.chair = 0 ∧ d.chain = 0) ∧
    64 ≤ ((chained [msg 200] ((List.range 64).map fun n => waiting (n + 7) false)).dressers.filter fun d => d.chair = 0 && d.chain = 0).length ∧
    (slotIs (chained [msg 200] []) fun sl _ => decide (sl.chair = 0) && decide (sl.chain.toNat % 2 ^ 16 = 0)) = true ∧
    ((chained [msg 200] []).core 0).loadAt 0 0 1 = none ∧ (((chained [msg 200] []).core 0).loadAt 0 0 0).isSome = true ∧
    (∀ b, b = false ∨ b = true → let s := chained [] [waiting 7 b]
      s.dressers[0]? = some (waiting 7 b) ∧ (s.frontier 0 0).applicable (waiting 7 b).triple = true ∧ s.chainHeldBack (waiting 7 b) = false ∧
      memOk s = true ∧ s.lost 0x3FFFFFF8 = false) ∧
    (∀ p, p = [] ∨ p = [0] → let s := { chained [] [waiting 7 true] with poison := p }
     (slotIs s fun sl _ => decide (sl.inst? 0 = some ldlBlock) && !s.loadHeldBack 0 0 sl ldlBlock 3 false) = true ∧
      (s.core 0).loadAt 0 0 0 = some (load0 false (some ⟨7, 6, 8⟩)) ∧ (s.core 0).held = [] ∧ s.poisoned 0 8 = decide (p ≠ [])) := by
  refine ⟨by decide +kernel, by decide +kernel, by decide +kernel, by decide +kernel, by decide +kernel, by decide +kernel, by decide +kernel, ?_, ?_⟩
  · rintro b (rfl | rfl) <;> decide +kernel
  · rintro p (rfl | rfl) <;> decide +kernel

/-- A block that waits at slot 0. -/
def waits (w : Wait) : Inst := { block0 with words := [0x2200000000000000], waits := [⟨0, 5, w⟩] }

/-- A fork of two iterations, both ended. -/
def fork0 : ForkRec := ⟨0, 9, 2, 2, 0x40, 0, false, [], [], 0, [0, 1], 2, false, [(0, .int 1), (1, .int 2)], none, []⟩

/-- The waiting block in a slot with the fork, a completion entry and a generation of 5 in its first sync word. -/
def waitState (w : Wait) (forks : List ForkRec) (cq : List CqEntry) : State := with0 { slot0 (waits w) with forks := forks } fun k =>
  { k with cq := cq, mem := [(5, 5)] }

/-- A wait of each kind that comes to hold, each way, and one that meets poison (WaitsAreSatisfied). -/
theorem witness_waits :
    (∀ w ∈ [Wait.join 9, .collect .fmin 9, .waitc 9 true, .waitc 9 false, .waitg 0 5 .strand, .fence .acq .strand, .fence .full .strand],
      ((waitState w [fork0] []).wait? 0 0 0 0).map (·.2.2.1) = some ⟨0, 5, w⟩) ∧
    (slotIs (waitState (.join 9) [fork0] []) fun sl _ => sl.isOldest (waits (.join 9)) && decide (sl.forks.find? (·.handle = 9) = some fork0) &&
      decide (fork0.ended.length = fork0.n) && (sl.forks.all fun r => decide (r.handle ≠ 8))) = true ∧
    (waitState (.waitc 9 true) [] []).handleState 0 9 = none ∧
    (waitState (.waitc (engHandle 0 0 0 7 9) true) [] [cqEntry .done]).handleState 0 (engHandle 0 0 0 7 9) = some (some 0x105) ∧
    ((waitState (.waitc (engHandle 0 0 0 7 9) true) [] [cqEntry .done]).endWait 0 0 0 0).waitsOn 0 (engHandle 0 0 0 7 9) = false ∧
    (∀ p, p = [] ∨ p = [1] → let s := (waitState (.waitg 0 5 .strand) [] []).modCore 0 fun k => { k with poison := p }
     (slotIs s fun sl _ => !s.loadHeldBack 0 0 sl (waits (.waitg 0 5 .strand)) 5 false &&
      decide (bits (s.readLocal 0 sl 0 8) 40 24 = 5) && decide (s.poisonedLocal 0 sl 0 16 = (p ≠ []))) = true) ∧
    (∀ k, k = FenceKind.acq ∨ k = .full → let s := waitState (.fence k .strand) [] []
     slotIs s fun sl _ => !s.loadsBefore 0 0 sl (waits (.fence k .strand)) 5 && !s.storesBefore 0 0 sl (waits (.fence k .strand)) 5 &&
      sl.isOldest (waits (.fence k .strand))) := by
  refine ⟨?_, by decide +kernel, by decide +kernel, by decide +kernel, by decide +kernel, ?_, ?_⟩
  · simp only [List.mem_cons, List.not_mem_nil, or_false]
    rintro w (rfl | rfl | rfl | rfl | rfl | rfl | rfl) <;> decide +kernel
  · rintro p (rfl | rfl) <;> decide +kernel
  · rintro k (rfl | rfl) <;> decide +kernel

/-! ### Launches, contexts and strands -/

/-- A packet of an address space, with a count of roots and of handles to wait for. -/
def packet (asid roots after : Nat) : List Word :=
  [0x1000, 0, BitVec.ofNat 64 (asid * 2 ^ 40 + roots), BitVec.ofNat 64 (after * 2 ^ 32 + 0x801), 0, 0x100, 0, 0]

/-- A packet of a chair at the arbiter, with what was read with it. -/
def offered (chair : Nat) (p : List Word) (fault : Option Nat) (after : List Nat) : ArbEntry :=
  ⟨chair, p, .table 0 0 0 0, [(0, 1)], fault.map .of, after, none⟩

/-- The package with launches, and with a handle to wait for in memory. -/
def packages (l : List Launch) (arb : List ArbEntry) : State :=
  { (handled .done) with launches := l, arb := arb, hbm := up.hbm.write 0x100 8 (engHandle 0 0 0 7 9) }

/-- The verdict on a packet: what it is refused with, 0 where it is accepted, none where it waits. -/
def verdict (s : State) (e : ArbEntry) : Option Nat := match judge s e with
  | .refuse x => some x.code
  | .accept _ => some 0
  | .wait => none

/-- A packet read with its list, and one whose list faults; packets of a chair that is off, of an ASID it does not hold, with no
root, whose map or list met a fault, that wait for a handle that failed, with no context number left, and one that is accepted;
a handle that cannot be stored; a LAUNCH of a core too (LaunchesAreAccepted). -/
theorem witness_judge :
    ((readPacket (packages [] []) 0 (packet 0 1 1) (.table 0 0 0 0)).after = [engHandle 0 0 0 7 9] ∧ pkAfterN (packet 0 1 1) = 1 ∧
      pkDw (packet 0 1 0) 6 = 0 ∧ (readPacket up 0 ((packet 0 1 1).set 5 0x40000000) (.table 0 0 0 0)).afterFail.isSome = true) ∧
    ((up.chair 1).en = false ∧ (up.chair 0).en = true ∧ (up.chair 0).asidIndex (pkAsid (packet 7 1 0)) = none ∧
      ((up.chair 0).asidIndex (pkAsid (packet 0 1 0))).isSome = true ∧ packetBad (packet 0 0 0) = true ∧ packetBad (packet 0 (2 ^ 24 - 1) 1) = false) ∧
    ((packages [] []).handleState 0 (engHandle 0 0 0 7 9) = some (some 0x105) ∧ 0x105 % 256 ≠ 0 ∧
      (handled .pending).handleState 0 (engHandle 0 0 0 7 9) = some none ∧ (up.chair 0).nctx ≤ ((packages ((List.range 16).map (launch0 · false false)) []).contexts 0).length ∧
      ((packages [] []).contexts 0).length < (up.chair 0).nctx ∧ ((packages [] []).freeCtx 0).isSome = true) ∧
    (∀ x ∈ [(offered 1 (packet 0 1 0) none [], FC.serviceAbort), (offered 0 (packet 7 1 0) none [], FC.protection), (offered 0 (packet 0 0 0) none [], FC.reservedField),
        (offered 0 (packet 0 1 0) (some FC.translation) [], FC.translation), (offered 0 (packet 0 1 0) (some FC.reservedField) [], FC.reservedField),
        (offered 0 (packet 0 1 1) none [engHandle 0 0 0 7 9], 5), (offered 0 (packet 0 1 0) none [], 0)],
      let s := packages [] [x.1]
      s.arb.find? (·.chair = x.1.chair) = some x.1 ∧ freeIdx (s.chair x.1.chair).lt 0 4096 ≠ [] ∧ verdict s x.1 = some x.2 ∧ x.1.storeFail s = none) ∧
    (let e : ArbEntry := { offered 0 (packet 0 1 0) none [] with src := .table 0 0 0 0x40000000 }
     (e.storeFail (packages [] [e])).isSome = true ∧ verdict (packages [] [e]) e = some 0) ∧
    ((packages [] []).slot? 0 0).map (·.launch) = some 0 := by
  refine ⟨by decide +kernel, by decide +kernel, by decide +kernel, ?_, by decide +kernel, by decide +kernel⟩
  simp only [List.mem_cons, List.not_mem_nil, or_false]
  rintro x (rfl | rfl | rfl | rfl | rfl | rfl | rfl) <;> decide +kernel

/-- A launch of 192 roots that the last canvas has not taken, and one at the head of core 191's queue, its slot 0 held
(LaunchesAreAccepted). -/
theorem witness_dispatch :
    (let l : Launch := { launch0 3 false false with packet := packet 0 192 0, runs := [(0, 192)], canvases := [0, 1, 2] }
     let s : State := { up with launches := [l] }
     s.cores.length = 192 ∧ s.launches.find? (fun l => !l.canvases.contains 3 && !l.aborted && !l.out) = some l ∧
      ((List.range 48).all fun c => decide (l.firstOn (144 + c) < l.count) && decide ((s.core (144 + c)).lq.length < 16)) = true) ∧
    (let l : Launch := { launch0 3 false false with packet := packet 0 192 0, runs := [(0, 192)] }
     let s : State := { up.modCore 191 fun k => { k with lq := [⟨3, 191⟩], slots := k.slots.set 0 (some (slot0 block0)) } with launches := [l] }
     (s.core 191).lq.head? = some ⟨3, 191⟩ ∧ s.launch? 3 = some l ∧ (s.core 191).slots.length = 4 ∧ (s.core 191).slot? 1 = none ∧
      ((s.core 191).slot? 0).isSome = true ∧ (s.core 191).slotOf 3 = none ∧ l.evict = false ∧ pkLmp l.packet ≤ (s.core 191).freeUnits.length) := by
  refine ⟨by decide +kernel, by decide +kernel⟩

/-- A slot with nothing left, but for what is given. -/
def idle : Slot := { slot0 block0 with insts := [], strands := [] }

/-- A root to start under the last pool index, a fork with an iteration to start, the last iteration of a fork that ends with
its creator there and gone, and a slot to release (StrandsStartAndEnd). -/
theorem witness_strands :
    (let s : State := { with0 idle fun k => { k with lq := [⟨0, 0⟩] } with launches := [launch0 0 false false] }
     (s.core 0).lq.head? = some ⟨0, 0⟩ ∧ s.launch? 0 = some (launch0 0 false false) ∧ (s.core 0).slotOf 0 = some 0 ∧ s.slot? 0 0 = some idle ∧
      idle.strands.length < 32 ∧ (idle.pool.getD 255 (true, 0)).1 = false ∧ idle.stopped = false ∧ s.stopping idle = false) ∧
    (let r : ForkRec := { fork0 with ended := [0], next := 1 }
     let sl : Slot := { idle with forks := [r] }
     (with0 sl id).slot? 0 0 = some sl ∧ sl.forks.find? (·.idx = 0) = some r ∧ r.next < r.n ∧ r.next - r.ended.length < r.bound ∧ sl.roomFor 255 = true ∧
      (with0 sl id).stopping sl = false) ∧
    (∀ x, x = [] ∨ x = (slot0 block0).strands → let r : ForkRec := { fork0 with ended := [0] }
     let sl : Slot := { idle with forks := [r], strands := x, ending := [⟨4, some 0, 1⟩] }
     (with0 sl id).slot? 0 0 = some sl ∧ sl.ending.find? (·.uid = 4) = some ⟨4, some 0, 1⟩ ∧ sl.post = [] ∧ (with0 sl id).dressers = [] ∧
      r.ended.length + 1 = r.n ∧ (sl.strand? r.creator).isSome = decide (x ≠ [])) ∧
    (with0 idle id).MayRelease 0 0 idle ∧
    (let s : State := { with0 idle id with launches := [launch0 0 false false] }
     s.launch? 0 = some (launch0 0 false false) ∧ (s.cores.all fun k => k.lq.isEmpty) = true ∧
      ((List.range 192).all fun c => (List.range 4).all fun i => (s.slot? c i).isNone || (c = 0 && i = 0)) = true) := by
  refine ⟨by decide +kernel, by decide +kernel, ?_, ?_, by decide +kernel⟩
  · rintro x (rfl | rfl) <;> decide +kernel
  · have h : ((with0 idle id).core 0).engs = [] ∧ ((with0 idle id).core 0).lq = [] ∧ (with0 idle id).dressers = [] ∧
        ∀ c < (with0 idle id).cores.length, ((with0 idle id).core c).engs = [] := by decide +kernel
    refine ⟨by decide, by decide, rfl, (by intro r hr; cases hr), ?_, ?_, ?_, ?_⟩
    · intro q hq
      rw [h.2.1] at hq
      cases hq
    · intro d hd
      rw [h.2.2.1] at hd
      cases hd
    · intro e he
      rw [h.1] at he
      cases he
    · intro c hc e he
      rw [h.2.2.2 c hc] at he
      cases he

/-! ### Engine commands -/

/-- A command of slot 0's oldest block. -/
def cmd (i : Instr) : Eng := ⟨1, 0, 0, 0, 5, 0, true, i, 0, 0, 7, 9, false, [], [], [], [], 0, 0, none, []⟩

/-- The package with a command. -/
def running (e : Eng) : State := with0 (slot0 block0) fun k => { k with engs := [e], cq := [cqEntry .pending] }

/-- Its fields. -/
def fe : FE := ⟨.always, .none, .none, 5, .strand, false⟩
def ffar : FFar := ⟨.always, .none, .none, 5, false, false⟩
def finv : FInv := ⟨.always, .none, .none, 5, false, 0⟩
def fscat : FScat := ⟨.always, .none, .none, .w64, 5, .strand, false, 0x81⟩
def fsynci : FSynci := ⟨.always, .none, .none, 5, false⟩

/-- What is true of the command and its slot. -/
def engIs (e : Eng) (p : State → Slot → Bool) : Bool :=
  decide (((running e).core 0).engs.find? (·.id = e.id) = some e) && memOk (running e) &&
    (match (running e).slot? 0 0 with | some sl => p (running e) sl | none => false)

/-- The record of sequence 0 in a package whose byte of flags is as given, at step 4. -/
def seqState (e : Eng) (flags : Byte) : State := { running e with hbm := (up.hbm.write 0x10004 4 4).write 0x10008 1 flags.toNat }

/-- A SEQC of step `st`. -/
def seqc (st : Nat) : Eng := { cmd (.seqc fe) with todo := [0], desc := [BitVec.ofNat 64 (st * 2 ^ 32), 0, 0, 0] }

/-- A held copy to issue, COUNT = 0 in its descriptor; the last unit of XFILL, SYNCI and a lane of SCAT; commands with no unit
left, INVR, and LAUNCH each way; SEQC behind its step, and at it with DONE, HELD and neither (EnginesRunTheirCommands). -/
theorem witness_engines :
    (let e : Eng := { cmd (.xfill fe) with held := true }
     engIs e (fun s sl => decide ((s.core 0).engs.find? (s.heldMay 0) = some e) && (sl.storesFor e).isEmpty && !s.poisonedLocal 0 sl 0 32 &&
      decide (bits (s.readLocal 0 sl 0 32) 224 32 = 0))) = true ∧
    (let e : Eng := { cmd (.xfill fe) with todo := [1], desc := [0x55, 0x1000, 0, 72 * 2 ^ 32] }
     engIs e (fun s sl => s.unitMay 0 sl e 1 && !bit (e.dw 3) 15 && (match e.readSrc s sl 64 (min 64 (e.total - 64)) with
      | .ok v => (match e.writeDst s sl 64 (min 64 (e.total - 64)) v with | .ok _ => true | .error _ => false) | .error _ => false))) = true ∧
    (let e : Eng := { cmd (.synci fsynci) with todo := [0], a := 0x3FF0 }
     engIs e (fun s sl => s.unitMay 0 sl e 0 && decide ((e.a.toNat % 2 ^ 64) / 0x4000 = (e.a.toNat % 2 ^ 64 + 15) / 0x4000) &&
      !s.poisonedLocal 0 sl 0x3FF0 16)) = true ∧
    (let e : Eng := { cmd (.scat fscat) with todo := [0, 7], a := 0x1000 }
     engIs e (fun s sl => s.unitMay 0 sl e 0 &&
      (match walkVa s sl.chair sl.asid (!e.priv) .store (e.laneAddr 0) 8 with | .ok x => !s.lost x.2 | .error _ => false))) = true ∧
    (let e : Eng := cmd (.invr finv)
     engIs e (fun s sl => decide (e.todo = []) && s.invDone sl e)) = true ∧
    (let e : Eng := cmd (.launch ffar)
     engIs e (fun s sl => decide (e.status = 0) && !s.atArbiter 0 sl e)) = true ∧
    (∀ f : Byte, f ∈ [0, 1, 2] → (match (seqState (seqc 4) f).seqKey 0 (bits ((seqc 4).dw 0) 0 20) true with | .ok k => decide (k = 0x10000) | .error _ => false) = true ∧
      (slotIs (seqState (seqc 4) f) fun sl _ => (seqState (seqc 4) f).unitsMay 0 sl (seqc 4)) = true ∧
      (seqState (seqc 4) f).hbm.read 0x10004 4 = bits ((seqc 4).dw 0) 32 32 ∧ (seqState (seqc 4) f).hbm.get 0x10008 = f ∧
      bits ((seqc 3).dw 0) 32 32 < (seqState (seqc 3) f).hbm.read 0x10004 4 ∧ ((seqState (seqc 4) f).core 0).seqBefore (seqc 4) = false ∧
      (seqc 4).token < 2 ^ 18 ∧ (seqState (seqc 4) f).hbm.get 0x1000B = 0 ∧ (seqState (seqc 4) f).hbm.read 0x10000 4 < 2 ^ 24 ∧
      memOk (seqState (seqc 4) f) = true) := by
  refine ⟨by decide +kernel, by decide +kernel, by decide +kernel, by decide +kernel, by decide +kernel, by decide +kernel, ?_⟩
  simp only [List.mem_cons, List.not_mem_nil, or_false]
  rintro f (rfl | rfl | rfl) <;> decide +kernel

/-! ### Held faults, eviction, chair reset -/

/-- A held firing of slot 0's block, of a store. -/
def heldAt (fid : Option Nat) (va : Nat) : Held := ⟨0, 0, 0, fid, va, true, 5, 1, .fire ⟨0, 0, 0, none, none, none, 0⟩⟩

/-- A package with it, and a fault queue of 64 entries at 0x20000. -/
def heldState (h : Held) : State := (with0 (slot0 block0) fun k => { k with held := [h] }).modChair 0 fun c => { c with chfq := 0x20006 }

/-- A held fault to record; one answered whose page is mapped and one whose page is not; an answer that no port holds; a
Cabinet, a chest, an image, a decoded block and a window to poison (HeldFaultsAreAnswered). -/
theorem witness_held :
    (let s := heldState (heldAt none 0x40000000)
     (slotIs s fun sl _ => decide (sl.inst? 0 = some block0) && sl.isOldest block0) = true ∧ (s.core 0).held[0]? = some (heldAt none 0x40000000) ∧
      (s.core 0).held.take 0 = [] ∧
      ringOf (s.chair 0).chfq = some (0x20000, 6) ∧ s.ringUsed 0x20000 < 2 ^ 6 ∧ memOk s = true ∧ (s.heldFids 0).length < 2 ^ 32) ∧
    (∀ va, va = 0x1000 ∨ va = 0x40000000 → let s := heldState (heldAt (some 3) va)
     (slotIs s fun sl t => decide (sl.inst? 0 = some block0) && decide (block0.words ≠ []) &&
      decide ((s.passRecord 0 0 3).stage1Ok sl (!t.priv) .store va = (va = 0x1000 : Bool)) && !(s.passRecord 0 0 3).stage2Bad sl (!t.priv) .store va) = true ∧
      (s.core 0).held.find? (fun h => h.slot = 0 && h.fid = some 3) = some (heldAt (some 3) va) ∧ (s.core 0).loadAt 0 0 0 = none ∧
      ∀ h ∈ (s.core 0).held, ¬(h.slot = 0 ∧ h.fid = some 4)) ∧
    (((tokens 1 [] [tok 8 .a] [tok 8 .b]).core 0).cab[0]? = some (tok 8 .a) ∧ ((tokens 1 [] [tok 8 .a] [tok 8 .b]).core 0).chest[0]? = some (tok 8 .b)) ∧
    (((with0 idle fun k => { k with code := [code0 0] }).core 0).code[0]? = some (code0 0) ∧ (with0 (slot0 block0) id).block? 0 0 0 = some block0 ∧
      0 < block0.words.length) := by
  refine ⟨by decide +kernel, ?_, by decide +kernel, by decide +kernel⟩
  rintro va (rfl | rfl) <;> decide +kernel

/-- A save image of slot 0 of core 0, in the memory that the service has reserved at 0x200000. -/
def image0 : SaveImage := ⟨0, 0, 0, idle, [], [], [], [], 0x200000⟩

/-- The package with that memory reserved, and with the header of an image there. -/
def reserved0 : State :=
  { up.modChair 0 fun c => { c with area := some 0x200000 } with
    hbm := (up.hbm.write 0x200000 8 (2 ^ 32 + 0x43495645)).write 0x200018 8 0x24000 }

/-- A context that holds off a waiting one, one that may be evicted, one to resume with a sound image and with a poisoned
one, and a chair to reset (ContextsAreSwitched). -/
theorem witness_switch :
    (let full (k : Core) : Core := { k with lq := [⟨1, 0⟩], slots := [some idle, some { idle with launch := 2 }, some { idle with launch := 2 }, some { idle with launch := 2 }] }
     let s : State := { up.modCore 0 full with launches := [launch0 0 false false, launch0 1 false false] }
     s.launch? 0 = some (launch0 0 false false) ∧ s.launch? 1 = some (launch0 1 false false) ∧ s.heldOff 0 1 0 = true ∧ 0 < s.cores.length) ∧
    (let s : State := { reserved0.modCore 0 (fun k => { k with slots := k.slots.set 0 (some idle) }) with launches := [launch0 0 false true] }
     s.launch? 0 = some (launch0 0 false true) ∧ s.placesOf 0 = [(0, 0)] ∧ s.evictable 0 0 = true ∧ (s.imagePlace (launch0 0 false true) 0).isSome = true) ∧
    (∀ p, p = [] ∨ p = [0x40000] → let s : State := { reserved0 with launches := [launch0 0 true false], saves := [image0], poison := p }
     s.launch? 0 = some (launch0 0 true false) ∧ s.imageFits image0 = true ∧ s.imageBad image0 = decide (p ≠ []) ∧ 0 < s.cores.length ∧
      0 < (s.core 0).slots.length ∧ (match stage2 s 0 (0x200000 + 8) with | .ok x => decide (x.1 / 8 = 0x40001) | .error _ => false) = true) ∧
    0 < up.chairs.length := by
  refine ⟨by decide +kernel, by decide +kernel, ?_, by decide +kernel⟩
  rintro p (rfl | rfl) <;> decide +kernel

/-! ### The service, queues and requests -/

/-- Where a page of the second stage is found, and what it grants. -/
def gpaIs (s : State) (gpa : Nat) (p : Nat → Perm → Bool) : Bool := match stage2 s 0 gpa with | .ok (k, w) => p k w | .error _ => false

/-- What a load of guest-physical memory reads. -/
def gpaReads (s : State) (gpa n v : Nat) : Bool := match gpaLoad s 0 gpa n with | .ok x => decide (x = v) | .error _ => false

/-- Chairs, command queues, the last sequence record and the last doubleword of the carve-out for a service write
(ServiceWritesTakeEffect). -/
theorem witness_service : 0 < up.chairs.length ∧ LifeCycle.chairs up.lcs = true ∧ 3 < (up.chair 0).chcq.length ∧ memOk up = true ∧
    191 < up.cores.length ∧ 3 < bits (up.chair 0).chseqn.toNat 0 21 ∧ gpaIs up ((up.chair 0).seqAddr 3) (fun k _ => k = 0x100C0) = true ∧
    inCarve 0x9FFFFFFFF8 8 = true ∧ localLeaf up 0x8000001F = true ∧ localLeaf up 0 = false ∧
    ([2 ^ 30, 2 ^ 21].all fun n => up.mayHand 0 0x9FFFFFFFF8 0x80000000 n) = true ∧
    (up.invalidating = false ∧ up.frameBusy 0x80000000 = false ∧ ((List.range 64).all fun m => !up.holdsFrame m none 0x80000000 (2 ^ 21)) = true) := by
  decide +kernel

/-- A walk that answers a value. -/
theorem trans_eq {x : Trans Nat} {v : Nat} (h : (match x with | .ok w => decide (w = v) | .error _ => false) = true) : x = .ok v := by
  split at h
  · exact congrArg _ (of_decide_eq_true h)
  · cases h

/-- The 1 GiB page of chair 0 that the tables map at 0. -/
theorem stage1_up (va : Nat) (h : va < 2 ^ 30) : stage1 up 0 0 0 va = .ok ⟨0, 0, 0, 2 ^ 30, 0, ⟨true, true, true, true⟩⟩ := by
  have ha : (up.chair 0).asidIndex 0 = some 0 := by decide +kernel
  have e0 : anchorOf up 0 0 0 0 = .ok 0x1001 := trans_eq (by decide +kernel)
  have e1 : readGpa up 0 0x1000 = .ok 0x2001 := trans_eq (by decide +kernel)
  have e2 : readGpa up 0 0x2000 = .ok 0x3001 := trans_eq (by decide +kernel)
  have e3 : readGpa up 0 0x3000 = .ok 0xF9 := trans_eq (by decide +kernel)
  have b (lo n : Nat) (hl : 30 ≤ lo) : bits va lo n = 0 := by
    have : va < 2 ^ lo := Nat.lt_of_lt_of_le h (Nat.pow_le_pow_right (by omega) hl)
    simp [bits, Nat.div_eq_of_lt this]
  have w : walk1 up 0 va levels1 0x1000 = .ok (0, 2 ^ 30, ⟨true, true, true, true⟩) := by
    unfold levels1
    rw [walk1, b 48 8 (by omega), e1]
    show walk1 up 0 va _ 0x2000 = _
    rw [walk1, b 39 9 (by omega), e2]
    show walk1 up 0 va _ 0x3000 = _
    rw [walk1, b 30 9 (by omega), e3]
    rfl
  unfold stage1
  rw [ha]
  show (do let e ← anchorOf up 0 0 0 0; _) = _
  rw [e0]
  show (do let x ← walk1 up 0 va levels1 0x1000; _) = _
  rw [w]
  show Except.ok _ = Except.ok _
  simp only [Nat.div_eq_of_lt h, Nat.zero_mul]

/-- The second 2 MiB of that page, as a range. -/
def range0 : RangeEntry := ⟨none, 0, 0, 0x200000, 0x200000, 0x200000, ⟨true, true, true, true⟩⟩

/-- A range that the service may load (ServiceWritesTakeEffect). -/
theorem witness_range : ∃ u, runAct (.rangeLoad 0 range0) up = .next u := by
  have h (i : Nat) (hi : i < 512) : stage1 up 0 0 0 (0x200000 + 4096 * i) = .ok ⟨0, 0, 0, 2 ^ 30, 0, ⟨true, true, true, true⟩⟩ :=
    stage1_up _ (by omega)
  have g : (List.range (0x200000 / 4096)).all (fun i => match stage1 up 0 0 0 (0x200000 + 4096 * i) with
      | .ok e => decide (e.gpa + (0x200000 + 4096 * i - e.va) = 0x200000 + 4096 * i) && decide (e.perm = (⟨true, true, true, true⟩ : Perm))
      | .error _ => false) = true := by
    rw [List.all_eq_true]
    intro i hi
    rw [h i (by simpa using hi)]
    simp
  have c : up.cores.length = 192 := by decide +kernel
  refine ⟨up.modCore 0 fun k => { k with ranges := addRange k.ranges range0 }, ?_⟩
  have r : (decide (0 < up.cores.length) && true && decide (0x200000 % 2 ^ 21 = 0) && decide (0x200000 % 2 ^ 21 = 0) && decide (0x200000 % 2 ^ 21 = 0)
      && decide (0x200000 ≠ 0) && canonical 0x200000) = true := by rw [c]; decide
  have o : runAct (.rangeLoad 0 range0) up = loadRange 0 range0 up := need_of rfl _
  rw [o]
  unfold loadRange
  exact need_of (Bool.and_eq_true_iff.mpr ⟨r, g⟩) _

/-- An entry of a command queue. -/
def qe (kind a b c : Nat) : List Word := [BitVec.ofNat 64 kind, BitVec.ofNat 64 a, BitVec.ofNat 64 b, BitVec.ofNat 64 c, 0, 0, 0, 0]

/-- Chair 0 with its queue 0 of 64 entries at 0x30000, TAIL and the entry at its head in memory, and what the Bureau holds. -/
def queuedAt (pos tail : Nat) (e : List Word) (copies : List (Nat × List Word)) (skip : Nat) : State :=
  { (packages [] []).modChair 0 (fun c => { c with chcq := c.chcq.set 0 0x30006, qs := c.qs.set 0 ⟨pos, copies, [], skip, [], false⟩ }) with
    hbm := (up.hbm.write 0x30000 8 tail).write 0x30040 8 (e.getD 0 0).toNat }

/-- The same at its first entry. -/
def queued (tail : Nat) (e : List Word) (copies : List (Nat × List Word)) (skip : Nat) : State := queuedAt 0 tail e copies skip

/-- An entry that overflows, one that is skipped, one read that is sound and one that is not, and one of each kind that acts
(QueueEntriesAct). -/
theorem witness_queue :
    (let s := queued 65 (qe 3 9 0 0) [] 0
     memOk s = true ∧ (s.chair 0).queue? 0 = some (0x30000, 6) ∧ 0 < (s.chair 0).qs.length ∧ gpaIs s 0x30010 (fun _ _ => true) = true ∧
      s.queueFill 0 0 = some 65 ∧ 2 ^ 6 < 65) ∧
    ((queued 64 (qe 3 0 0 0) [] 1).queueEntry 0 0 = some (qe 3 0 0 0, false) ∧ ((queued 1 (qe 3 0 0 0) [] 1).chair 0).queue? 0 = some (0x30000, 6) ∧
      (((queued 1 (qe 3 0 0 0) [] 1).chair 0).cmdq 0).skip = 1) ∧
    ((queued 1 (qe 3 0 0 0) [] 0).queueEntry 0 0 = some (qe 3 0 0 0, false) ∧ entryOk (qe 3 0 0 0) 64 0 = true ∧
      (queued 1 (qe 9 0 0 0) [] 0).queueEntry 0 0 = some (qe 9 0 0 0, false) ∧ entryOk (qe 9 0 0 0) 64 0 = false) ∧
    (∀ e ∈ [qe 1 0x100 0 0, qe 2 0x100 0x208 0x204, qe 3 9 0 0, qe 3 (engHandle 0 0 0 7 9) 0 0, qe 4 0x200 7 0, qe 5 (2 ^ 32) 0 0, qe 5 (2 ^ 32 + 1) 0 0,
        qe 6 0x200 2 0, qe 7 0 0 0],
      let s := queuedAt 1 2 e [(1, e)] 0
      s.queueEntry 0 0 = some (e, true) ∧ entryOk e 64 1 = true ∧ s.arb.length < 256 ∧ gpaReads s 0x200 8 0 = true ∧
        (match gpaPlace s 0 0x208 with | .ok k => decide (k = 0x208) | .error _ => false) = true ∧
        (match gpaPlace s 0 0x40000000, gpaLoad s 0 0x40000000 8 with | .error _, .error _ => true | _, _ => false) = true ∧
        s.handleState 0 9 = none ∧ s.handleState 0 (engHandle 0 0 0 7 9) = some (some 0x105) ∧ s.waitsOn 0 9 = false ∧ memOk s = true ∧
        loopAcrossIf ((s.chair 0).cmdq 0) 1 1 = false ∧ ((s.chair 0).cmdq 0).launched = []) ∧
    (let e := qe 5 (2 ^ 32) 0 0
     loopAcrossIf (((queuedAt 1 2 e [(1, e), (0, qe 6 0x200 2 0)] 0).chair 0).cmdq 0) 1 1 = true) ∧
    ∀ e ∈ [qe 1 0x40000000 0 0, qe 1 0x100 0x40000000 0, qe 2 0x100 0x208 0x40000000, qe 4 0x40000000 7 0, qe 6 0x40000000 2 0, qe 3 9 1 0],
      (queuedAt 1 2 e [(1, e)] 0).queueEntry 0 0 = some (e, true) ∧ entryOk e 64 1 = decide (e ≠ qe 3 9 1 0) := by
  refine ⟨by decide +kernel, by decide +kernel, by decide +kernel, ?_, by decide +kernel, ?_⟩ <;> simp only [List.mem_cons, List.not_mem_nil, or_false]
  · rintro e (rfl | rfl | rfl | rfl | rfl | rfl | rfl | rfl | rfl) <;> decide +kernel
  · rintro e (rfl | rfl | rfl | rfl | rfl | rfl) <;> decide +kernel

/-- A table image, of a valid policy, of a valid vector of one element, of neither, and of nothing. -/
def images : List (List Word) := [[0x3F800000, 0, 0, 2 ^ 63], [0, 2 ^ 48, 0x9F00000000, 0], [0, 0x3000000000000, 0, 2 ^ 63], [0, 0, 0, 0]]

/-- The service's queue with an entry that is no TABLE_UPDATE, and with one for each table; images of each kind (QueueEntriesAct). -/
theorem witness_tables :
    (let s : State := { up with svcQueue := [qe 7 0 0 0] }
     s.svcQueue.head? = some (qe 7 0 0 0) ∧ s.svcStatus = 0 ∧ entryKind (qe 7 0 0 0) ≠ 8) ∧
    (∀ t ∈ [0xFFF0001, 0xFF0002, 0xFF0003], let e := qe 8 t 0x9F00000000 0
     entryKind e = 8 ∧ entryDw e 0 = 8 ∧ bits (entryDw e 1) 8 8 = 0 ∧ bits (entryDw e 1) 32 32 = 0 ∧ zeroFrom e 3 = true ∧ entryDw e 2 % 32 = 0 ∧
      inCarve (entryDw e 2) 32 = true) ∧
    (images.map fun i => (policyOk ⟨0, i, []⟩, vectorOk false [] ⟨0, i, []⟩, vectorOk true [] ⟨0, i, []⟩, TabEntry.valid ⟨0, i, []⟩,
        TabEntry.field ⟨0, i, []⟩ 3 63 1)) =
      [(true, false, false, false, 1), (false, true, true, true, 0), (false, false, false, true, 1), (false, false, false, false, 0)] := by
  refine ⟨by decide +kernel, ?_, by decide +kernel⟩
  simp only [List.mem_cons, List.not_mem_nil, or_false]
  rintro t (rfl | rfl | rfl) <;> decide +kernel

/-- A request of chair 0. -/
def request (kind chasid a len : Nat) (payload : List Byte) : ReqMsg :=
  ⟨[BitVec.ofNat 64 (5 * 2 ^ 32 + chasid * 2 ^ 8 + kind), BitVec.ofNat 64 a, BitVec.ofNat 64 len, 0], payload, false, none⟩

/-- The package with a request, its queue 0 placed with a STATUS, and a trap queue of 64 records with as many of them pending. -/
def requested (m : ReqMsg) (status pending : Nat) : State :=
  { (queued 0 (qe 0 0 0 0) [] 0).modChair 0 (fun c => { c with reqs := [m], chtq := 0x40006, pendingX := [.abort 1 2, .classX 7 3] }) with
    hbm := (up.hbm.write 0x30010 1 status).write 0x40000 8 pending }

/-- A request is taken up. -/
def takes (m : ReqMsg) : Bool :=
  let c := (requested m 0 0).chair 0
  decide (c.reqs[0]? = some m) && c.reqTurn 0 m && !m.refused c && c.en && !c.rst && memOk (requested m 0 0)

/-- What the pieces of a request's range come to. -/
def pieces (m : ReqMsg) (nd : Need) : Option (List (Nat × Nat × Nat)) :=
  match walkPieces ((requested m 0 0).modChair 0 fun c => { c with reqs := c.reqs.eraseIdx 0 }) 0 0 false nd (pagePieces (m.dw 1) m.len) with
  | .ok l => some l
  | .error _ => none

/-- Every kind of request taken up, with an ASID and without, mapped and not; a refused one; a queue of each STATUS; a trap
record, a class X notice and another at the head (RequestsAreAnswered). -/
theorem witness_requests :
    (∀ k, k = 1 ∨ k = 2 → takes (request k 0 0x1000 2 [1, 2]) = true ∧ (request k 0 0x1000 2 [1, 2]).asid? (up.chair 0) = some 0 ∧
      pieces (request k 0 0x1000 2 [1, 2]) .store = some [(0x1000, 0x1000, 2)] ∧ pieces (request k 0 0x1000 2 [1, 2]) .load = some [(0x1000, 0x1000, 2)] ∧
      takes (request k 1 0x1000 2 [1, 2]) = true ∧ (request k 1 0x1000 2 [1, 2]).asid? (up.chair 0) = none ∧
      takes (request k 0 0x40000000 2 [1, 2]) = true ∧ pieces (request k 0 0x40000000 2 [1, 2]) .store = none ∧
      pieces (request k 0 0x40000000 2 [1, 2]) .load = none) ∧
    (takes (request 3 0 0 8 [1, 0, 0, 0, 0, 0, 0, 0]) = true ∧ takes (request 5 0 0 0 []) = true ∧
      (match gpaPlace (requested (request 3 0 0 8 []) 0 0) 0 0x30000 with | .ok k => decide (k = 0x30000) | .error _ => false) = true) ∧
    (let s := { requested (request 2 0 0x1000 2 []) 0 0 with poison := [0x200] }
     s.poisoned 0x1000 2 = true ∧ s.lost 0x1000 = false) ∧
    (let m := request 1 0 0x1000 2 [1, 2]
     let c := { up.chair 0 with reqs := [m, { m with rud := true }, m] }
     c.reqTurn 1 { m with rud := true } = true ∧ c.reqTurn 2 m = false ∧ c.reqTurn 0 m = true) ∧
    (let m := request 4 0 0 56 (List.replicate 56 0)
     takes { m with reply := some [7] } = true ∧ takes m = true ∧ m.files = [] ∧ m.asid? (up.chair 0) = some 0 ∧
      ([(m.pdw 1, m.pdw 2, Need.fetch), (m.pdw 3, m.pdw 4, .store), (m.pdw 5, m.pdw 6, .load)].all fun x =>
        match walkPieces ((requested m 0 0).modChair 0 fun c => { c with reqs := c.reqs.eraseIdx 0 }) 0 0 false x.2.2 (pagePieces x.1 x.2.1) with
        | .ok _ => true | .error _ => false) = true) ∧
    (∀ st, st = 0 ∨ st = 1 ∨ st = 2 → gpaReads (requested (request 5 0 0 0 []) st 0) 0x30010 8 st = true ∧
      gpaReads (requested (request 5 0 0 0 []) st 0) 0x30008 8 0 = true) ∧
    ((request 6 0 0 0 []).refused (up.chair 0) = true ∧ (up.chair 1).en = false) ∧
    (ringOf ((requested (request 5 0 0 0 []) 0 0).chair 0).chtq = some (0x40000, 6) ∧ (requested (request 5 0 0 0 []) 0 1).ringUsed 0x40000 = 1 ∧ Notice.isX (.abort 1 2) = false ∧
      (requested (request 5 0 0 0 []) 0 0).ringUsed 0x40000 = 0 ∧ ((requested (request 5 0 0 0 []) 0 0).chair 0).trapSent = false ∧
      ((requested (request 5 0 0 0 []) 0 0).chair 0).pendingX = [.abort 1 2] ++ [.classX 7 3]) := by
  refine ⟨?_, by decide +kernel, by decide +kernel, by decide +kernel, by decide +kernel, ?_, by decide +kernel, by decide +kernel⟩
  · rintro k (rfl | rfl) <;> decide +kernel
  · rintro st (rfl | rfl | rfl) <;> decide +kernel

/-- An image whose key is the one in fuses and whose signature verifies, and one that never passes (what an image holds is a free
value, log entry 7); a step that fails, a defect, and the life cycles, keys and identifiers of the clauses (PackageComesUp). -/
theorem witness_boot : (∀ image, image ≠ [] → Sha.hash (Config.imageKey image) = Config.fuseKeyHash →
      Pss.verify (Config.keyNumbers (Config.imageKey image)).1 (Config.keyNumbers (Config.imageKey image)).2 (Config.imageSigned image).1
        (Config.imageSigned image).2 = true → imagePasses image = true) ∧ imagePasses [] = false ∧
    up.rootUsable = true ∧ up.failing = none ∧ up.boot = .running ∧ up.lcs = .deployed ∧ up.fwhash.length = 32 ∧ up.idKey = some 0 ∧
    (List.replicate 32 (0 : Byte)).length = 32 ∧ (287 < 288 ∧ 287 ≠ bits up.pkgid.toNat 0 9) ∧
    (∃ t, runAct (.defect false (some 6)) up = .next t ∧ t.rootUsable = false ∧ t.failing = some 6) := by
  refine ⟨fun image h e v => ?_, ?_, rfl, rfl, rfl, rfl, by decide, rfl, by decide, by decide +kernel, _, rfl, rfl, rfl⟩
  · cases image with
    | nil => exact absurd rfl h
    | cons b r => simp [imagePasses, e, v]
  · simp [imagePasses]

end Sys2Proof.Tests
end

/-! PROOFS. What a load leaves as it is performed, and what an entry of the committed order leaves as it is applied (O49). -/

namespace Sys2Proof.Machine
open Sys2Proof

/-! ### A load at its port (R191) -/

/-- Choosing the ranges that are performed together changes nothing but the counter of free values. -/
theorem State.keeps_pickParts (s : State) (l : PLoad) : s.FiringKeeps (s.pickParts l).2 := by
  unfold State.pickParts
  split
  · exact s.keeps_freeCtr _
  · exact .refl s

section
variable {s : State} {core n : Nat} {l : PLoad} {sl : Slot} {i : Inst} {t : Strand}

/-- A load that its strand's order leaves free is performed, and no memory changes (R191, R282). -/
theorem execLoadPerformed_keeps (hl : (s.core core).loads[n]? = some l) (hs : s.slot? core l.slot = some sl)
    (hi : sl.inst? l.age = some i) (ht : sl.strand? i.uid = some t) (hm : s.mayPerform core sl i (!t.priv) l = true) :
    ∃ u, execLoadPerformed core n s = .next u ∧ s.FiringKeeps u := by
  simp only [execLoadPerformed, hl, hs, hi, ht, needSome_some, hm, if_true]
  generalize hd : (if l.pre.isEmpty = true then ((0 : Nat), s) else s.draw 2) = d
  have hk : s.FiringKeeps d.2 := by
    rw [← hd]
    split
    · exact .refl s
    · exact s.keeps_draw 2
  obtain ⟨x, r⟩ := d
  dsimp only
  split
  · exact ⟨_, rfl, hk.trans (r.keeps_loadGets _ _ _ _ _ _)⟩
  · exact ⟨_, rfl, (hk.trans (r.keeps_pickParts l)).trans (State.keeps_loadPerform _ _ _ _ _ _ _ _)⟩

/-- A load that read nothing ahead performs the ranges it picks. -/
theorem execLoadPerformed_fresh (hl : (s.core core).loads[n]? = some l) (hs : s.slot? core l.slot = some sl)
    (hi : sl.inst? l.age = some i) (ht : sl.strand? i.uid = some t) (hm : s.mayPerform core sl i (!t.priv) l = true)
    (hpre : l.pre = []) :
    execLoadPerformed core n s = .next ((s.pickParts l).2.loadPerform core n sl i (!t.priv) l (s.pickParts l).1) := by
  simp only [execLoadPerformed, hl, hs, hi, ht, needSome_some, hm, if_true, hpre, List.isEmpty_nil, zero_ne_one, if_false]

end

section
variable {l : PLoad} {p : LoadPart}

/-- The form of a load of one range that builds a plain token is not GATH's. -/
theorem PLoad.isGath_of_form (hf : l.form = .zext ∨ l.form = .sext ∨ l.form = .vector) : l.isGath = false := by
  rcases hf with h | h | h <;> simp [PLoad.isGath, h]

/-- A load of one open range picks it, and draws nothing. -/
theorem State.pickParts_one (s : State) (hf : l.form = .zext ∨ l.form = .sext ∨ l.form = .vector) (hp : l.parts = [p])
    (hg : p.got = none) (hb : p.bad = none) : s.pickParts l = ([p], s) := by
  rcases hf with h | h | h <;> simp [State.pickParts, h, hp, hg, hb]

/-- A load of one open range, filled. -/
theorem PLoad.fill_one (hp : l.parts = [p]) (hg : p.got = none) (v : Nat) :
    l.fill [{ p with got := some v }] = { l with parts := [{ p with got := some v }] } := by
  simp [PLoad.fill, hp, hg]

/-- A load whose one range has its bytes and no fault returns. -/
theorem State.loadSettle_one (s : State) (core chair n : Nat) (hb : p.bad = none) (v : Nat) :
    s.loadSettle core chair n { l with parts := [{ p with got := some v }] } =
      s.loadReturn core chair { l with parts := [{ p with got := some v }] } := by
  simp [State.loadSettle, hb]

/-- A range that touches a poisoned word fails with UNCORRECTABLE (R316). -/
theorem performPart_of_poisoned {s : State} {core : Nat} {sl : Slot} (i : Inst) (user : Bool)
    (h : s.PoisonedBytes core sl l.loc p) : performPart s core sl i user l p = .error (p, .fault FC.uncorrectable) := by
  unfold performPart
  rcases h with ⟨hl, hp⟩ | ⟨hl, gpa, key, hphys, hp⟩
  · simp [hl, hp]
  · have hplace : s.partPlace core sl user p = .ok (gpa, key) := by simp [State.partPlace, hphys]
    simp [hl, hplace, hp, ← hphys]

end

/-- Counting consumed poison leaves every slot. -/
theorem State.slot?_countConsumed (s : State) (core : Nat) (sl : Slot) (l : PLoad) (p : LoadPart) (code c j : Nat) :
    (s.countConsumed core sl l p (.fault code)).slot? c j = s.slot? c j := by
  unfold State.countConsumed
  split
  · rfl
  split
  · exact s.slot?_modCore _ _ _ _ rfl
  split <;> rfl

/-- No load of the slot, block and window slot is left at the port of a load that is dropped. -/
theorem State.loads_dropLoad {s : State} {core : Nat} (hc : core < s.cores.length) (l : PLoad) {m : PLoad}
    (hm : m ∈ ((s.dropLoad core l).core core).loads) : ¬(m.slot = l.slot ∧ m.age = l.age ∧ m.k = l.k) := by
  rw [State.dropLoad, State.core_modCore _ _ _ hc] at hm
  have h := (List.mem_filter.mp hm).2
  rintro ⟨h1, h2, h3⟩
  simp [h1, h2, h3] at h

/-- Giving up what loads read ahead leaves the network, and each load its place. -/
theorem State.core_dropPreOf {s : State} {core : Nat} (hc : core < s.cores.length) (slot : Nat) (sl : Slot) (uid : Nat) :
    ((s.dropPreOf core slot sl uid).core core).net = (s.core core).net ∧
    ∀ m ∈ ((s.dropPreOf core slot sl uid).core core).loads,
      ∃ q ∈ (s.core core).loads, m.slot = q.slot ∧ m.age = q.age ∧ m.k = q.k := by
  rw [State.dropPreOf, State.core_modCore _ _ _ hc]
  refine ⟨rfl, fun m hm => ?_⟩
  obtain ⟨q, hq, rfl⟩ := List.mem_map.mp hm
  exact ⟨q, hq, by split <;> exact ⟨rfl, rfl, rfl⟩⟩

/-- A block that keeps what one of its loads took from its home, for loads before it (R191). -/
def Inst.keepRead (r : HomeRead) (i : Inst) : Inst := { i with reads := i.reads ++ [r] }

section
variable {s : State} {core : Nat} {l : PLoad} {sl : Slot} {i : Inst} {x : Instr} {p : LoadPart}

/-- What a load of one range leaves once it has its bytes: its block keeps what was read at home, the load is dropped, and its
token is sent (R189, R191). -/
theorem State.loadGets_one_eq (n v : Nat) (hs : s.slot? core l.slot = some sl) (hi : sl.inst? l.age = some i)
    (hx : i.instr l.k = some x) (hf : l.form = .zext ∨ l.form = .sext ∨ l.form = .vector) (hp : l.parts = [p])
    (hg : p.got = none) (hb : p.bad = none) :
    ∃ r, s.loadGets core n sl i l [{ p with got := some v }] =
      ((((s.modInst core l.slot l.age (·.keepRead r)).dropLoad core l).emit core l.slot l.age
        (instrTargets x) (l.form.token p.bytes v)).dropPreOf core l.slot sl i.uid) := by
  have returns : ∀ r, (s.modInst core l.slot l.age (·.keepRead r)).loadReturn core sl.chair
      { l with parts := [{ p with got := some v }] } =
        ((s.modInst core l.slot l.age (·.keepRead r)).dropLoad core l).emit core l.slot l.age (instrTargets x)
          (l.form.token p.bytes v) := by
    intro r
    obtain ⟨sl', hs', hi'⟩ := State.inst_modInst hs hi (f := (·.keepRead r)) fun _ h => h
    exact State.loadReturn_one hs' hi' hx hf
  simp only [State.loadGets, PLoad.fill_one hp hg, State.loadSettle_one _ _ _ _ hb]
  exact ⟨_, congrArg (·.dropPreOf core l.slot sl i.uid) (returns _)⟩

/-- A load of one range that has its bytes leaves its port, and its token goes to its targets (R189, R191). -/
theorem State.loadGets_one (n v : Nat) (hs : s.slot? core l.slot = some sl) (hi : sl.inst? l.age = some i)
    (hx : i.instr l.k = some x) (hf : l.form = .zext ∨ l.form = .sext ∨ l.form = .vector) (hp : l.parts = [p])
    (hg : p.got = none) (hb : p.bad = none) :
    let u := s.loadGets core n sl i l [{ p with got := some v }]
    (∀ m ∈ (u.core core).loads, ¬(m.slot = l.slot ∧ m.age = l.age ∧ m.k = l.k)) ∧
      u.SentTo core l.slot l.age (instrTargets x) (l.form.token p.bytes v) := by
  intro u
  obtain ⟨r, hu⟩ := State.loadGets_one_eq n v hs hi hx hf hp hg hb
  have hc := State.core_lt_of_slot hs
  generalize hs1 : s.modInst core l.slot l.age (·.keepRead r) = s1 at hu
  have hc1 : core < s1.cores.length := by rw [← hs1]; simpa using hc
  have hc2 : core < (s1.dropLoad core l).cores.length := by simpa [State.dropLoad] using hc1
  have hc3 : core < ((s1.dropLoad core l).emit core l.slot l.age (instrTargets x) (l.form.token p.bytes v)).cores.length := by
    rwa [(State.emit_core _ _ _ _ _ _).1]
  obtain ⟨hnet, hloads⟩ := State.core_dropPreOf hc3 l.slot sl i.uid
  simp only [u, hu]
  refine ⟨fun m hm => ?_, fun q k hq => ?_⟩
  · obtain ⟨q, hq, h1, h2, h3⟩ := hloads m hm
    rw [State.emit_loads] at hq
    rw [h1, h2, h3]
    exact State.loads_dropLoad hc1 l hq
  · rw [hnet]
    exact State.emit_sent hc2 _ _ _ _ q k hq

/-- A load of one range that meets poison records UNCORRECTABLE at its LSID (R316). -/
theorem State.loadPerform_poisoned (n : Nat) (user : Bool) (hs : s.slot? core l.slot = some sl) (hi : sl.inst? l.age = some i)
    (hf : l.form = .zext ∨ l.form = .sext ∨ l.form = .vector) (h : s.PoisonedBytes core sl l.loc p) :
    (s.loadPerform core n sl i user l [p]).block? core l.slot l.age = some { i with
      faults := i.faults ++ [.access FC.uncorrectable l.lsid (if l.loc then 0 else p.va)] } := by
  have hperf : s.loadPerform core n sl i user l [p] =
      (s.countConsumed core sl l p (.fault FC.uncorrectable)).loadFault core l FC.uncorrectable p.va := by
    simp only [State.loadPerform, performParts, performPart_of_poisoned i user h, TransErr.stage, TransErr.code,
      State.loadFails, PLoad.isGath_of_form hf, Bool.false_eq_true, if_false]
  rw [hperf, State.loadFault, State.record]
  refine State.block_modInst ?_ fun _ => rfl
  rw [State.block?, State.dropLoad, State.slot?_modCore _ _ _ _ _ rfl, State.slot?_countConsumed, hs]
  exact hi

end

/-! ### A committed store or atomic (R204, R280, R281) -/

/-- What a store leaves at its place: its datum, or the result of its atomic on the old bytes (R204). -/
def PStore.result (st : PStore) (old : Nat) : Nat :=
  match st.amo with
  | some (op, w) => amoNew op w old st.data
  | none => st.data.toNat

/-- A write slot once a store has been applied: an atomic's targets hold its old value (R118, R204). -/
def PStore.back (st : PStore) (old : Nat) (x : Nat × Tok) : Nat × Tok :=
  match st.amo with
  | some (op, w) => if st.targets.contains x.1 then (x.1, some (amoOld op w old)) else x
  | none => x

/-- Whether a store is a release of CORE scope that goes ahead of what precedes it, and so keeps its place (R282). -/
def State.goesAhead (s : State) (core slot : Nat) (sl : Slot) (n : Nat) (p : Post) (st : PStore) : Bool :=
  st.coreRelease && !s.allBefore core slot ((sl.post.take n).filter (·.uid = p.uid)) p

/-- The committed order of a slot once its entry `n`, a store, has been applied (R281, R282). -/
def State.orderAfter (s : State) (core slot : Nat) (sl : Slot) (n : Nat) (p : Post) (st : PStore) (l : List Post) : List Post :=
  if s.goesAhead core slot sl n p st then l.set n { p with act := .early st } else l.eraseIdx n

/-- The state whose committed order is the one after entry `n`, a store, with nothing applied yet. -/
def State.reordered (s : State) (core slot : Nat) (sl : Slot) (n : Nat) (p : Post) (st : PStore) : State :=
  s.modSlot core slot fun x => { x with post := s.orderAfter core slot sl n p st x.post }

/-- The state once entry `n` of a slot's committed order, a store or atomic, has been applied (R281). -/
def State.storeDone (s : State) (core slot : Nat) (sl : Slot) (n : Nat) (p : Post) (st : PStore) : State :=
  let r := (s.reordered core slot sl n p st).applyStore core sl st
  (r.1.dropPre core).amoReturn core slot p.age st r.2

/-- A store that does not go ahead leaves the committed order. -/
theorem State.orderAfter_erase {s : State} {core slot : Nat} {sl : Slot} {n : Nat} {p : Post} {st : PStore} (l : List Post)
    (h : st.coreRelease = false ∨ s.allBefore core slot ((sl.post.take n).filter (·.uid = p.uid)) p = true) :
    s.orderAfter core slot sl n p st l = l.eraseIdx n := by
  rcases h with h | h <;> simp [State.orderAfter, State.goesAhead, h]

/-- A release of CORE scope that goes ahead keeps its place. -/
theorem State.orderAfter_set {s : State} {core slot : Nat} {sl : Slot} {n : Nat} {p : Post} {st : PStore} (l : List Post)
    (hr : st.coreRelease = true) (h : ¬s.allBefore core slot ((sl.post.take n).filter (·.uid = p.uid)) p = true) :
    s.orderAfter core slot sl n p st l = l.set n { p with act := .early st } := by
  simp [State.orderAfter, State.goesAhead, hr, h]

section
variable {s : State} {core slot n : Nat} {sl : Slot} {p : Post} {st : PStore}

/-- A fence that is passed leaves the committed order, and nothing else changes (R206). -/
theorem execStoreApplied_fence {kind : FenceKind} {sc : Scope} (hs : s.slot? core slot = some sl) (hp : sl.post[n]? = some p)
    (hm : s.mayApply core slot sl n p = true) (ha : p.act = .fence kind sc) :
    execStoreApplied core slot n s = .next (s.modSlot core slot fun x => { x with post := x.post.eraseIdx n }) := by
  simp only [execStoreApplied, hs, hp, needSome_some, need_of hm, ha]

/-- An atomic that meets poison takes its block's entries from the committed order (R204, R316). -/
theorem execStoreApplied_poisoned (hs : s.slot? core slot = some sl) (hp : sl.post[n]? = some p)
    (hm : s.mayApply core slot sl n p = true) (ha : p.act = .store st) (hbad : s.amoPoisoned core sl st = true) :
    execStoreApplied core slot n s = .next ((s.modSlot core slot fun x =>
      { x with post := x.post.filter (·.age ≠ p.age) }).amoFault core slot p.age sl st) := by
  simp only [execStoreApplied, hs, hp, needSome_some, need_of hm, ha, hbad, if_true]

/-- A store or atomic that meets no poison is applied, its entry taken from the order or kept as applied early (R281, R282). -/
theorem execStoreApplied_store (hs : s.slot? core slot = some sl) (hp : sl.post[n]? = some p)
    (hm : s.mayApply core slot sl n p = true) (ha : p.act = .store st) (hbad : s.amoPoisoned core sl st = false) :
    execStoreApplied core slot n s = .next (s.storeDone core slot sl n p st) := by
  simp only [execStoreApplied, hs, hp, needSome_some, need_of hm, ha, hbad, Bool.false_eq_true, if_false]
  have hr : (if s.goesAhead core slot sl n p st = true
      then s.modSlot core slot fun x => { x with post := x.post.set n { p with act := .early st } }
      else s.modSlot core slot fun x => { x with post := x.post.eraseIdx n }) = s.reordered core slot sl n p st := by
    simp only [State.reordered, State.orderAfter]
    split <;> rfl
  rw [State.storeDone, ← hr]
  rfl

end

/-- A block of a slot whose blocks a change leaves. -/
theorem State.block?_modSlot (s : State) (core slot age : Nat) {f : Slot → Slot} (hf : ∀ x, (f x).insts = x.insts) :
    (s.modSlot core slot f).block? core slot age = s.block? core slot age := by
  rw [State.block?, State.block?, State.slot?_modSlot]
  cases s.slot? core slot with
  | none => rfl
  | some x => simp [Slot.inst?, hf]

/-- A change of a block leaves its slot's committed order. -/
theorem State.post_modInst {s : State} {core slot : Nat} {sl : Slot} (h : s.slot? core slot = some sl) (age : Nat) (f : Inst → Inst) :
    ∃ sl', (s.modInst core slot age f).slot? core slot = some sl' ∧ sl'.post = sl.post := by
  rw [State.modInst, State.slot?_modSlot, h]
  exact ⟨_, rfl, rfl⟩

/-- Counting the poison that an atomic consumes leaves slots and memory; its fault is recorded at its LSID (R316, R349). -/
theorem State.amoFault_eq (s : State) (core slot age : Nat) (sl : Slot) (st : PStore) :
    ∃ r : State, (∀ c j, r.slot? c j = s.slot? c j) ∧ s.SameMem r ∧ s.amoFault core slot age sl st =
      r.record core slot age (.access FC.uncorrectable st.lsid (if st.loc then 0 else st.va)) := by
  unfold State.amoFault
  refine ⟨_, ?_, ?_, rfl⟩
  · intro c j
    split
    · exact s.slot?_modCore _ _ _ _ rfl
    split <;> rfl
  · split
    · exact s.sameMem_modCore _ fun _ => rfl
    split
    · exact ⟨rfl, rfl, fun _ => rfl⟩
    · exact .rfl' s

section
variable {s : State} {core slot : Nat} {x : Slot}

/-- The fault of an atomic that consumes poison leaves memory and the committed order. -/
theorem State.amoFault_keeps (hx : s.slot? core slot = some x) (age : Nat) (sl : Slot) (st : PStore) :
    s.SameMem (s.amoFault core slot age sl st) ∧
      ∃ sl', (s.amoFault core slot age sl st).slot? core slot = some sl' ∧ sl'.post = x.post := by
  obtain ⟨r, hslot, hmem, hr⟩ := s.amoFault_eq core slot age sl st
  rw [hr]
  exact ⟨hmem.trans (r.sameMem_modSlot _ _ _), State.post_modInst ((hslot _ _).trans hx) _ _⟩

/-- An atomic that consumes poison raises UNCORRECTABLE at its LSID (R204, R316). -/
theorem State.block_amoFault {age : Nat} {i : Inst} (hi : s.block? core slot age = some i) (sl : Slot) (st : PStore) :
    (s.amoFault core slot age sl st).block? core slot age = some { i with
      faults := i.faults ++ [.access FC.uncorrectable st.lsid (if st.loc then 0 else st.va)] } := by
  obtain ⟨r, hslot, -, hr⟩ := s.amoFault_eq core slot age sl st
  rw [hr]
  refine State.block_modInst ?_ fun _ => rfl
  rwa [State.block?, hslot]

end

/-- Bytes at partition offsets are those of the core's memory. -/
theorem State.readLocal_congr {s t : State} {core : Nat} (h : (t.core core).mem = (s.core core).mem) (sl : Slot) (off n : Nat) :
    t.readLocal core sl off n = s.readLocal core sl off n := by
  induction n generalizing off with
  | zero => rfl
  | succ n ih => rw [State.readLocal, State.readLocal, h, ih]

/-- Offsets of a range that lies in one unit of a partition have places of their own (R303). -/
theorem Slot.localAddr_inj (sl : Slot) {off n : Nat} (h : off / 0x4000 = (off + n - 1) / 0x4000) :
    ∀ j < n, ∀ k < n, sl.localAddr (off + j) = sl.localAddr (off + k) → j = k := by
  intro j hj k hk he
  have hj' : (off + j) / 0x4000 = off / 0x4000 := by omega
  have hk' : (off + k) / 0x4000 = off / 0x4000 := by omega
  simp only [Slot.localAddr, hj', hk'] at he
  omega

section
variable {s : State} {core slot n : Nat} {sl : Slot} {p : Post} {st : PStore}

/-- A store to the partition writes its result there, and brings back the bytes before it (R204, R280). -/
theorem State.applyStore_local (s : State) (core : Nat) (sl : Slot) (hl : st.loc = true) :
    s.applyStore core sl st = (s.storeLocal core sl st.va st.bytes (st.result (s.readLocal core sl st.va st.bytes)),
      s.readLocal core sl st.va st.bytes) := by
  simp only [State.applyStore, hl, if_true]
  rfl

/-- A store to memory of a package that can be reached writes its result there, and brings back the bytes before it (R204, R280). -/
theorem State.applyStore_global {s : State} (core : Nat) (sl : Slot) {gpa key : Nat} (hl : st.loc = false)
    (hphys : st.phys = some (gpa, key)) (hlost : s.lost key = false) :
    s.applyStore core sl st = (s.storeGlobal sl.chair gpa key st.bytes (st.result (s.hbm.read key st.bytes)),
      s.hbm.read key st.bytes) := by
  simp only [State.applyStore, hl, hphys, hlost, Bool.false_eq_true, if_false]
  rfl

/-- A store that is no atomic brings nothing back. -/
theorem PStore.map_back_of_none (h : st.amo = none) (old : Nat) (l : List (Nat × Tok)) : l.map (st.back old) = l := by
  simp [funext (fun x => by simp [PStore.back, h] : ∀ x, st.back old x = x)]

/-- An atomic's old value goes to the write slots that it targets, and any other store leaves them (R118, R204). -/
theorem State.block_amoReturn {age : Nat} {i : Inst} (h : s.block? core slot age = some i) (st : PStore) (old : Nat) :
    (s.amoReturn core slot age st old).block? core slot age = some { i with ws := i.ws.map (st.back old) } := by
  cases ha : st.amo with
  | none => simpa only [State.amoReturn, ha, PStore.map_back_of_none ha] using h
  | some o =>
    simp only [State.amoReturn, ha]
    refine (State.block_modInst h ?_).trans ?_
    · exact fun _ => rfl
    · rw [show st.back old = fun x => if st.targets.contains x.1 then (x.1, some (amoOld o.1 o.2 old)) else x from
        funext fun x => by simp only [PStore.back, ha]]

/-- Bringing an atomic's old value back leaves memory and the committed order. -/
theorem State.amoReturn_keeps (hs : s.slot? core slot = some sl) (age : Nat) (st : PStore) (old : Nat) :
    s.SameMem (s.amoReturn core slot age st old) ∧
      ∃ sl', (s.amoReturn core slot age st old).slot? core slot = some sl' ∧ sl'.post = sl.post := by
  unfold State.amoReturn
  split
  · exact ⟨s.sameMem_modSlot _ _ _, State.post_modInst hs _ _⟩
  · exact ⟨.rfl' s, sl, hs, rfl⟩

theorem State.sameMem_dropPre (s : State) (core : Nat) : s.SameMem (s.dropPre core) := s.sameMem_modCore _ fun _ => rfl

theorem State.slot?_dropPre (s : State) (core c j : Nat) : (s.dropPre core).slot? c j = s.slot? c j :=
  s.slot?_modCore _ _ _ _ rfl

/-- A store applied leaves memory as its own application does, and the committed order that R281 and R282 give. -/
theorem State.storeDone_leaves (hs : s.slot? core slot = some sl) (n : Nat) (p : Post) (st : PStore) :
    (((s.reordered core slot sl n p st).applyStore core sl st).1.SameMem (s.storeDone core slot sl n p st)) ∧
      ∃ sl', (s.storeDone core slot sl n p st).slot? core slot = some sl' ∧
        sl'.post = s.orderAfter core slot sl n p st sl.post := by
  generalize ha : (s.reordered core slot sl n p st).applyStore core sl st = a
  have hslot : (a.1.dropPre core).slot? core slot = some { sl with post := s.orderAfter core slot sl n p st sl.post } := by
    rw [State.slot?_dropPre, ← ha, (State.applyStore_keeps _ _ _ _).2, State.reordered,
      State.slot?_modSlot, hs]
    rfl
  obtain ⟨hmem, hpost⟩ := State.amoReturn_keeps hslot p.age st a.2
  rw [State.storeDone, ha]
  exact ⟨(a.1.sameMem_dropPre core).trans hmem, hpost⟩

theorem State.block?_reordered (s : State) (core slot : Nat) (sl : Slot) (n : Nat) (p : Post) (st : PStore) (age : Nat) :
    (s.reordered core slot sl n p st).block? core slot age = s.block? core slot age :=
  s.block?_modSlot core slot age fun _ => rfl

/-- A store applied brings back to its block what its application read (R118, R204). -/
theorem State.block_storeDone {i : Inst} (hi : s.block? core slot p.age = some i) (n : Nat) (st : PStore) :
    (s.storeDone core slot sl n p st).block? core slot p.age = some { i with
      ws := i.ws.map (st.back ((s.reordered core slot sl n p st).applyStore core sl st).2) } := by
  have hb : (((s.reordered core slot sl n p st).applyStore core sl st).1.dropPre core).block? core slot p.age = some i := by
    rw [State.block?, State.slot?_dropPre, (State.applyStore_keeps _ _ _ _).2]
    exact (s.block?_reordered core slot sl n p st p.age).trans hi
  exact State.block_amoReturn hb st _

/-- A store to one unit of the partition: its result stands there, an atomic's old value is back, and every other byte of
memory is as before (R4, R204, R280, R303). -/
theorem State.storeDone_local (hs : s.slot? core slot = some sl) (hw : s.MemWf) (hl : st.loc = true)
    (hu : st.va / 0x4000 = (st.va + st.bytes - 1) / 0x4000) (n : Nat) (p : Post) :
    let u := s.storeDone core slot sl n p st
    let old := s.readLocal core sl st.va st.bytes
    (∀ i, s.block? core slot p.age = some i → u.block? core slot p.age = some { i with ws := i.ws.map (st.back old) }) ∧
      u.hbm = s.hbm ∧
      (∀ j < st.bytes, (u.core core).mem.get (sl.localAddr (st.va + j)) = BitVec.ofNat 8 (st.result old / 256 ^ j)) ∧
      (∀ a, (∀ j < st.bytes, a ≠ sl.localAddr (st.va + j)) → (u.core core).mem.get a = (s.core core).mem.get a) ∧
      ∀ c, c ≠ core → (u.core c).mem = (s.core c).mem := by
  intro u old
  have hc := State.core_lt_of_slot hs
  have hr : s.SameMem (s.reordered core slot sl n p st) := s.sameMem_modSlot _ _ _
  have happ := State.applyStore_local (s.reordered core slot sl n p st) core sl hl
  rw [State.readLocal_congr (hr.mem core)] at happ
  have hd := (State.storeDone_leaves hs n p st).1
  rw [happ] at hd
  have hmem : (u.core core).mem = writeLocalMem (s.core core).mem sl st.va st.bytes (st.result old) := by
    rw [hd.mem, State.storeLocal, State.core_modCore _ _ _ (hr.len ▸ hc), ← hr.mem]
  have hwf := (State.memWf_iff.mp hw).2 core
  refine ⟨fun i hi => ?_, hd.hbm.trans hr.hbm, fun j hj => ?_, fun a ha => ?_, fun c hne => ?_⟩
  · have hb := State.block_storeDone (sl := sl) hi n st
    rwa [happ] at hb
  · rw [hmem, get_writeLocalMem_in hwf sl _ _ _ j hj (sl.localAddr_inj hu)]
  · rw [hmem, get_writeLocalMem_other hwf sl _ ha]
  · rw [hd.mem, State.storeLocal, State.core_modCore_ne _ _ hne, hr.mem]

/-- A store to memory that can be reached: its result stands there, HOLD of a sequence record kept, an atomic's old value is
back, and every other byte of memory is as before (R4, R70, R204, R280). -/
theorem State.storeDone_global (hs : s.slot? core slot = some sl) (hw : s.MemWf) {gpa key : Nat} (hl : st.loc = false)
    (hphys : st.phys = some (gpa, key)) (hlost : s.lost key = false) (n : Nat) (p : Post) :
    let u := s.storeDone core slot sl n p st
    let old := s.hbm.read key st.bytes
    (∀ i, s.block? core slot p.age = some i → u.block? core slot p.age = some { i with ws := i.ws.map (st.back old) }) ∧
      (∀ j < st.bytes, u.hbm.get (key + j) = (s.chair sl.chair).keepHold (gpa + j) (s.hbm.get (key + j))
        (BitVec.ofNat 8 (st.result old / 256 ^ j))) ∧
      (∀ a, a < key ∨ key + st.bytes ≤ a → u.hbm.get a = s.hbm.get a) ∧ ∀ c, (u.core c).mem = (s.core c).mem := by
  intro u old
  have hr : s.SameMem (s.reordered core slot sl n p st) := s.sameMem_modSlot _ _ _
  have happ := State.applyStore_global (s := s.reordered core slot sl n p st) core sl hl hphys hlost
  rw [hr.hbm] at happ
  have hd := (State.storeDone_leaves hs n p st).1
  rw [happ] at hd
  have hhbm : u.hbm = chairBytes (s.chair sl.chair) s.hbm gpa key st.bytes (st.result old) := hd.hbm
  refine ⟨fun i hi => ?_, fun j hj => ?_, fun a ha => ?_, fun c => (hd.mem c).trans (hr.mem c)⟩
  · have hb := State.block_storeDone (sl := sl) hi n st
    rwa [happ] at hb
  · rw [hhbm, get_chairBytes_in _ hw.1 _ _ _ _ _ hj]
  · rw [hhbm, get_chairBytes_other _ hw.1 _ ha]

end

/-! ### The statement -/

/-- Settles O49: a load that its order leaves free performs its ranges and changes no memory, and an entry of the committed order
that may be applied is a fence passed, an atomic that meets poison, or a store of which its place says what it leaves. -/
theorem accessesArePerformed : Obligations.AccessesArePerformed := by
  intro s core n
  refine ⟨fun l sl i t hl hs hi ht hm => ⟨?_, fun p hf hpre hp hg hb => ⟨fun x v hx hv => ?_, fun hpois => ?_⟩⟩,
    fun slot sl p hs hp hm => ⟨fun kind sc ha => ?_, fun st ha hbad => ?_, fun st ha hbad hw => ?_⟩⟩
  · obtain ⟨u, hu, hk⟩ := execLoadPerformed_keeps hl hs hi ht hm
    exact ⟨u, hu, hk.memAs⟩
  · have hperf : s.loadPerform core n sl i (!t.priv) l [p] = s.loadGets core n sl i l [{ p with got := some v }] := by
      simp only [State.loadPerform, performParts, performPart_of hv]
    have hu := execLoadPerformed_fresh hl hs hi ht hm hpre
    rw [State.pickParts_one s hf hp hg hb, hperf] at hu
    exact ⟨_, hu, State.loadGets_one n v hs hi hx hf hp hg hb⟩
  · have hu := execLoadPerformed_fresh hl hs hi ht hm hpre
    rw [State.pickParts_one s hf hp hg hb] at hu
    exact ⟨_, hu, State.loadPerform_poisoned n _ hs hi hf hpois⟩
  · refine ⟨_, _, execStoreApplied_fence hs hp hm ha, by rw [State.slot?_modSlot, hs]; rfl, rfl, (s.sameMem_modSlot _ _ _).memAs⟩
  · have hx : (s.modSlot core slot fun x => { x with post := x.post.filter (·.age ≠ p.age) }).slot? core slot =
        some { sl with post := sl.post.filter (·.age ≠ p.age) } := by rw [State.slot?_modSlot, hs]; rfl
    obtain ⟨hmem, sl', hs', hpost⟩ := State.amoFault_keeps hx p.age sl st
    have hsame := (s.sameMem_modSlot core slot _).trans hmem
    refine ⟨_, sl', execStoreApplied_poisoned hs hp hm ha hbad, hs', fun q hq => ?_, hsame.hbm, hsame.mem,
      fun i hi => State.block_amoFault ?_ sl st⟩
    · rw [hpost] at hq
      simpa using (List.mem_filter.mp hq).2
    · rw [State.block?_modSlot]
      · exact hi
      · exact fun _ => rfl
  · obtain ⟨sl', hs', hpost⟩ := (State.storeDone_leaves hs n p st).2
    refine ⟨_, sl', execStoreApplied_store hs hp hm ha hbad, hs', fun h => ?_, fun hc h => ?_, fun hl hu => ?_,
      fun gpa key hl hphys hlost => ?_⟩
    · rw [hpost, State.orderAfter_erase _ h]
    · rw [hpost, State.orderAfter_set _ hc h]
    · exact State.storeDone_local hs hw hl hu n p
    · exact State.storeDone_global hs hw hl hphys hlost n p

end Sys2Proof.Machine

/-! PROOFS. The act that a package takes of its own, and the step (O34). -/

namespace Sys2Proof.Machine
open Sys2Proof

/-! ### An operation of the device -/

/-- An operation of the device is its effect while the service runs. -/
theorem runAct_operation {i : Instr} {s : State} (hi : i.code = none) (hb : s.boot = .running) :
    runAct (.ev i) s = exec i s :=
  need_of (by simp [isOperation, hi, hb]) _

/-! ### Which act goes next (log entry 80) -/

/-- The one of two acts that has waited longer, the first where they are level: a round of `State.longest`. -/
def State.longer (s : State) (a b : Agendum × State) : Agendum × State := if s.waited a.1 < s.waited b.1 then b else a

/-- The longer waiting of two acts is one of them, and neither has waited longer than it. -/
theorem State.longer_spec (s : State) (a b : Agendum × State) :
    (s.longer a b = a ∨ s.longer a b = b) ∧ s.waited a.1 ≤ s.waited (s.longer a b).1 ∧
      s.waited b.1 ≤ s.waited (s.longer a b).1 := by
  unfold State.longer
  split
  · exact ⟨.inr rfl, by omega, le_rfl⟩
  · exact ⟨.inl rfl, le_rfl, by omega⟩

theorem State.longest_singleton (s : State) (a : Agendum × State) : s.longest [a] = some a := rfl

theorem State.longest_cons_cons (s : State) (a b : Agendum × State) (xs : List (Agendum × State)) :
    s.longest (a :: b :: xs) = s.longest (s.longer a b :: xs) := by
  simp only [State.longest, List.foldl_cons, State.longer, apply_ite some]

/-- Of some acts there is one that has waited longest: one of them, and none has waited longer. -/
theorem State.exists_longest (s : State) (a : Agendum × State) (xs : List (Agendum × State)) :
    ∃ b ∈ a :: xs, s.longest (a :: xs) = some b ∧ ∀ y ∈ a :: xs, s.waited y.1 ≤ s.waited b.1 := by
  induction xs generalizing a with
  | nil => exact ⟨a, List.mem_singleton_self a, s.longest_singleton a, fun y hy => by rw [List.mem_singleton.mp hy]⟩
  | cons x xs ih =>
    obtain ⟨hmem, ha, hx⟩ := s.longer_spec a x
    obtain ⟨b, hb, hlongest, hmax⟩ := ih (s.longer a x)
    have hl := hmax _ List.mem_cons_self
    refine ⟨b, ?_, (s.longest_cons_cons a x xs).trans hlongest, fun y hy => ?_⟩
    · rcases List.mem_cons.mp hb with rfl | hb
      · rcases hmem with h | h <;> simp [h]
      · simp [hb]
    · rcases List.mem_cons.mp hy with rfl | hy
      · exact ha.trans hl
      · rcases List.mem_cons.mp hy with rfl | hy
        · exact hx.trans hl
        · exact hmax y (List.mem_cons_of_mem _ hy)

/-- Where an act is enabled, one is chosen, and it has waited no less than any whose patience has run out (R29, R39, R44, R51). -/
theorem State.exists_choose (s : State) (pick : Nat) {x : Agendum × State} {xs : List (Agendum × State)} (hx : x ∈ xs) :
    ∃ y ∈ xs, s.choose pick xs = some y ∧ (Config.patience ≤ s.waited x.1 → s.waited x.1 ≤ s.waited y.1) := by
  obtain ⟨a, r, rfl⟩ := List.exists_cons_of_ne_nil (List.ne_nil_of_mem hx)
  obtain ⟨b, hb, hlongest, hmax⟩ := s.exists_longest a r
  have hxb := hmax x hx
  by_cases hp : Config.patience ≤ s.waited b.1
  · exact ⟨b, hb, by simp only [State.choose, hlongest, if_pos hp], fun _ => hxb⟩
  · have hlt : pick % (a :: r).length < (a :: r).length := Nat.mod_lt _ (by simp)
    refine ⟨_, List.getElem_mem hlt, ?_, fun h => absurd (h.trans hxb) hp⟩
    simp only [State.choose, hlongest, if_neg hp]
    exact List.getElem?_eq_getElem hlt

/-! ### The enabled acts, and the count of those that wait -/

/-- The address that stands for every other prediction at this step (R29, R30). -/
def State.anyBlock (s : State) : Nat := Config.freeNat (s.freeCtr + 1) % 2 ^ 60 * 16

/-- The state in which a package takes an act of its own: two free values are taken. -/
def State.drawn (s : State) : State := { s with freeCtr := s.freeCtr + 2 }

/-- The next state that an outcome answers. -/
def Out.state? : Out → Option State
  | .next t => some t
  | _ => none

theorem Out.state?_eq_some {o : Out} {t : State} : o.state? = some t ↔ o = .next t := by
  cases o <;> simp [Out.state?]

/-- The acts of its own that a package may take, with the state that each answers. -/
def State.enabledActs (s : State) : List (Agendum × State) :=
  (autonomous s s.anyBlock).filterMap fun x => (runAct x s.drawn).state?.map fun t => (x, t)

theorem State.mem_enabledActs {s : State} {x : Agendum} {t : State} :
    (x, t) ∈ s.enabledActs ↔ x ∈ autonomous s s.anyBlock ∧ runAct x s.drawn = .next t := by
  simp only [State.enabledActs, List.mem_filterMap, Option.map_eq_some_iff, Out.state?_eq_some, Prod.mk.injEq]
  constructor
  · rintro ⟨y, hy, u, hu, rfl, rfl⟩
    exact ⟨hy, hu⟩
  · rintro ⟨hx, ht⟩
    exact ⟨x, hx, t, ht, rfl, rfl⟩

/-- The count of who waits once an act is taken: every other enabled act, one step longer. -/
def State.waitingAfter (s : State) (x : Agendum) : List (Agendum × Nat) :=
  (s.enabledActs.filter fun y => y.1 != x).map fun y => (y.1, s.waited y.1 + 1)

/-- The acts of `autonomousStep` are those of `State.enabledActs`. -/
theorem State.enabledActs_eq (s : State) : s.enabledActs = (autonomous s s.anyBlock).filterMap fun x =>
    match runAct x s.drawn with | .next t => some (x, t) | _ => none := by
  unfold State.enabledActs
  congr 1
  funext x
  cases runAct x s.drawn <;> rfl

/-- The act chosen of the enabled ones is taken, and the others wait. -/
theorem autonomousStep_of_choose {s t : State} {x : Agendum}
    (h : s.choose (Config.freeNat s.freeCtr) s.enabledActs = some (x, t)) :
    autonomousStep s = .next { t with waiting := s.waitingAfter x } := by
  rw [State.waitingAfter]
  rw [State.enabledActs_eq] at h ⊢
  unfold autonomousStep
  dsimp only
  split
  next y u hc =>
    obtain ⟨rfl, rfl⟩ := Prod.mk.inj (Option.some.inj (hc.symm.trans h))
    rfl
  next hc => exact absurd (hc.symm.trans h) (by simp)

/-- An enabled act that another goes before has waited one step more. -/
theorem State.waited_waitingAfter {s t u : State} {x y : Agendum} (hx : (x, u) ∈ s.enabledActs) (hne : y ≠ x)
    (ht : t.waiting = s.waitingAfter y) : t.waited x = s.waited x + 1 := by
  have hmem : (x, s.waited x + 1) ∈ t.waiting := by
    rw [ht]
    exact List.mem_map.mpr ⟨(x, u), List.mem_filter.mpr ⟨hx, by simpa using hne.symm⟩, rfl⟩
  have hsome : (t.waiting.find? (·.1 == x)).isSome := List.find?_isSome.mpr ⟨_, hmem, beq_self_eq_true x⟩
  obtain ⟨p, hp⟩ := Option.isSome_iff_exists.mp hsome
  have hkey : p.1 = x := by simpa using List.find?_some hp
  have hmem' := List.mem_of_find?_eq_some hp
  rw [ht] at hmem'
  obtain ⟨z, -, rfl⟩ := List.mem_map.mp hmem'
  simp only at hkey
  simp only [State.waited, hp, Option.map_some, Option.getD_some, hkey]

/-- Where an act of its own is enabled, the package takes one that has waited no less than that one whose patience has run out,
and that one, where it is not taken, has waited one step more (R29, R39, R44, R51). -/
theorem autonomousStep_takes {s u : State} {x : Agendum} (hx : x ∈ autonomous s s.anyBlock) (hu : runAct x s.drawn = .next u) :
    ∃ y v, y ∈ autonomous s s.anyBlock ∧ runAct y s.drawn = .next v ∧
      autonomousStep s = .next { v with waiting := s.waitingAfter y } ∧
      (Config.patience ≤ s.waited x → s.waited x ≤ s.waited y) ∧
      ∀ t : State, t.waiting = s.waitingAfter y → y ≠ x → t.waited x = s.waited x + 1 := by
  have hmem := State.mem_enabledActs.mpr ⟨hx, hu⟩
  obtain ⟨⟨y, v⟩, hy, hchoose, hlong⟩ := s.exists_choose (Config.freeNat s.freeCtr) hmem
  obtain ⟨hya, hyv⟩ := State.mem_enabledActs.mp hy
  exact ⟨y, v, hya, hyv, autonomousStep_of_choose hchoose, hlong, fun t ht hne => State.waited_waitingAfter hmem hne ht⟩

/-! ### The statement -/

/-- Settles O34: a step is the head of the agenda where that is enabled, and else an act that the package chooses. -/
theorem stepTakesTheNextAct : Obligations.StepTakesTheNextAct := by
  intro s t rest
  refine ⟨fun i ha hi hb h => step_of_act ha ((runAct_operation (s := { s with agenda := rest }) hi hb).trans h),
    fun x ha h => step_of_act ha h, fun x ha h => step_of_none ha h, fun x u hx hu hstep => ?_⟩
  obtain ⟨y, v, hy, hv, htaken, hlong, hwaits⟩ := autonomousStep_takes hx hu
  obtain rfl := next_inj (htaken.symm.trans hstep)
  exact ⟨y, ⟨hy, v, hv, htaken⟩, hlong, hwaits _ rfl⟩

end Sys2Proof.Machine

/-! PROOFS. Boot, recovery, updates, life cycle, reports and links (O60). -/

namespace Sys2Proof.Machine
open Sys2Proof

/-! ### A value that is there -/

theorem needSome_of {α : Type} {o : Option α} {x : α} (h : o = some x) (k : α → Out) : needSome o k = k x := by rw [h]; rfl

/-! ### Fields of a message -/

@[simp] theorem length_bytesOf (v n : Nat) : (bytesOf v n).length = n := by simp [bytesOf]

theorem bytesOf_succ (v n : Nat) : bytesOf v (n + 1) = BitVec.ofNat 8 v :: bytesOf (v / 256) n := by
  have h8 (i : Nat) : 2 ^ (8 * (i + 1)) = 256 * 2 ^ (8 * i) := by rw [Nat.mul_succ, Nat.pow_add, Nat.mul_comm]
  simp only [bytesOf, List.range_succ_eq_map, List.map_cons, List.map_map, Function.comp_def, Nat.succ_eq_add_one, bits, h8,
    Nat.div_div_eq_div_mul, List.cons.injEq, and_true]
  exact BitVec.eq_of_toNat_eq (by simp)

theorem bytesOf_one_append (v : Nat) (b : List Byte) : bytesOf v 1 ++ b = BitVec.ofNat 8 v :: b := by
  rw [bytesOf_succ]
  rfl

/-- The `n` bytes of a value are its residue. -/
theorem bytesVal_bytesOf (v n : Nat) : bytesVal (bytesOf v n) = v % 256 ^ n := by
  induction n generalizing v with
  | zero => simp [bytesOf, bytesVal, Nat.mod_one]
  | succ n ih => rw [bytesOf_succ, bytesVal, ih, BitVec.toNat_ofNat, Nat.pow_succ' (m := 256), Nat.mod_mul]

section
variable {a b : List Byte} {off n : Nat}

/-- A field that lies behind the first part of a message lies in the rest of it. -/
theorem take_drop_append_of_le (h : a.length ≤ off) : ((a ++ b).drop off).take n = (b.drop (off - a.length)).take n := by
  rw [List.drop_append, List.drop_eq_nil_of_le h, List.nil_append]

/-- A field that lies behind the first part of a message has the value that it has in the rest of it. -/
theorem fileVal_append_of_le (h : a.length ≤ off) : fileVal (a ++ b) off n = fileVal b (off - a.length) n := by
  rw [fileVal, fileVal, take_drop_append_of_le h]

/-- The field that a message begins with. -/
theorem fileVal_bytesOf_append (v : Nat) : fileVal (bytesOf v n ++ b) 0 n = v % 256 ^ n := by
  rw [fileVal, List.drop_zero, List.take_left' (length_bytesOf v n), bytesVal_bytesOf]

end

/-! ### Boot (R386) -/

/-- Whether bring-up in a state of the life cycle stops before step 3 has wiped the memories (R14, R386). -/
def State.StopsEarly (s : State) (lcs : LifeCycle) : Prop :=
  s.rootUsable = false ∨ s.failing = some 1 ∨ s.failing = some 2 ∨ lcs = .scrapped ∨ s.failing = some 3

/-- Whether the image in the boot flash passes a working step 4 (R386). -/
def State.ImageAccepted (s : State) : Prop := imagePasses s.image = true ∧ s.failing ≠ some 4

/-- Bring-up that stops early stops in the state after the reset, its memories as they were. -/
theorem execBoot_of_stopsEarly {s : State} (h : s.StopsEarly s.afterReset.lcs) :
    execBoot s = .next { s.afterReset with boot := .stopped } := by
  unfold execBoot
  rcases h with h | h | h | h | h <;> simp [h]

/-- The wiped state after the reset, with the phase, the measurement and PKGID that steps 4 to 6 leave (R386). -/
def State.broughtUp (s : State) (phase : BootPhase) (measured : List Byte) (pkgid : Word) : State :=
  { s.afterReset.wiped with boot := phase, fwhash := measured, pkgid := pkgid }

/-- Every memory of a core is wiped at step 3 (R302, R386). -/
theorem State.mem_core_broughtUp (s : State) (phase : BootPhase) (measured : List Byte) (pkgid : Word) (c : Nat) :
    ((s.broughtUp phase measured pkgid).core c).mem = [] := by
  simp only [State.core, State.broughtUp, State.wiped, List.getD_eq_getElem?_getD, List.getElem?_replicate]
  split <;> rfl

/-- Bring-up that does not stop early leaves what steps 4 to 6 make of the wiped state: recovery where the image is not accepted,
a stop where step 5 or 6 is defective, the image measured once step 5 is done, and the service running at the end (R386, R387). -/
theorem execBoot_of_not_stopsEarly {s : State} (h : ¬ s.StopsEarly s.afterReset.lcs) :
    ∃ phase measured pkgid, execBoot s = .next (s.broughtUp phase measured pkgid) ∧
      (¬ s.ImageAccepted → phase = .recovery) ∧
      (s.ImageAccepted → s.failing = some 5 → phase = .stopped) ∧
      (s.ImageAccepted → s.failing ≠ some 5 → measured = Sha.hash s.image) ∧
      (s.ImageAccepted → s.failing = some 6 → phase = .stopped) ∧
      (s.ImageAccepted → s.failing ≠ some 5 → s.failing ≠ some 6 → phase = .running ∧ pkgid = configuredPkgid) := by
  simp only [State.StopsEarly, not_or, Bool.not_eq_false] at h
  obtain ⟨hroot, h1, h2, hlcs, h3⟩ := h
  unfold execBoot
  dsimp only
  rw [if_neg (by simp [hroot, h1, h2, hlcs]), if_neg (by simp [h3])]
  by_cases himage : s.ImageAccepted
  · rw [if_neg (by simp [himage.1, himage.2])]
    simp only [himage, not_true_eq_false, false_implies, true_implies, true_and]
    by_cases h5 : s.failing = some 5
    · rw [if_pos (by simp [h5])]
      exact ⟨.stopped, _, _, rfl, by simp [h5]⟩
    rw [if_neg (by simp [h5])]
    by_cases h6 : s.failing = some 6
    · rw [if_pos (by simp [h6])]
      exact ⟨.stopped, Sha.hash s.image, _, rfl, by simp [h6]⟩
    · rw [if_neg (by simp [h6])]
      exact ⟨.running, Sha.hash s.image, configuredPkgid, rfl, by simp [h5, h6]⟩
  · have hrecovery : s.failing = some 4 ∨ imagePasses s.image = false := by
      by_contra hn
      exact himage (by simpa [State.ImageAccepted, and_comm] using hn)
    rw [if_pos (by simpa using hrecovery)]
    exact ⟨.recovery, _, _, rfl, by simp [himage]⟩

/-- A reset and the bring-up after it: a pending change of life cycle is in force, the flash is as it was, no table or launch is
left, and the phase is the one that the steps of R386 leave (R14, R386, R389). -/
theorem execBoot_spec (s : State) : ∃ u, execBoot s = .next u ∧ u.lcs = s.pendingLcs.getD s.lcs ∧ u.pendingLcs = none ∧
    u.flash = s.flash ∧ u.launches = [] ∧ u.probes = [] ∧ u.steers = [] ∧ u.policies = [] ∧
    (s.StopsEarly u.lcs → u.boot = .stopped ∧ u.hbm = s.hbm) ∧
    (¬ s.StopsEarly u.lcs → u.hbm = [] ∧ u.poison = [] ∧ (∀ c, (u.core c).mem = []) ∧
      (¬ s.ImageAccepted → u.boot = .recovery) ∧
      (s.ImageAccepted → s.failing = some 5 → u.boot = .stopped) ∧
      (s.ImageAccepted → s.failing ≠ some 5 → u.fwhash = Sha.hash s.image) ∧
      (s.ImageAccepted → s.failing = some 6 → u.boot = .stopped) ∧
      (s.ImageAccepted → s.failing ≠ some 5 → s.failing ≠ some 6 → u.boot = .running ∧ u.pkgid = configuredPkgid)) := by
  by_cases h : s.StopsEarly s.afterReset.lcs
  · exact ⟨_, execBoot_of_stopsEarly h, rfl, rfl, rfl, rfl, rfl, rfl, rfl, fun _ => ⟨rfl, rfl⟩, fun hn => absurd h hn⟩
  · obtain ⟨phase, measured, pkgid, hboot, hsteps⟩ := execBoot_of_not_stopsEarly h
    exact ⟨_, hboot, rfl, rfl, rfl, rfl, rfl, rfl, rfl, fun hs => absurd hs h,
      fun _ => ⟨rfl, rfl, s.mem_core_broughtUp phase measured pkgid, hsteps⟩⟩

/-- THERMAL_SHUTDOWN leaves the state before the first step of bring-up, every link and port down (R394). -/
theorem execThermalShutdown_eq (s : State) : execThermalShutdown s =
    .next { s.broughtUp .cold (List.replicate 32 0) 0 with downLinks := List.range 36, downPorts := List.range 4 } := rfl

/-! ### Images, life cycle and the world outside (R383, R385, R387 to R389) -/

/-- What an interrupted update leaves never passes (R388). -/
theorem imagePasses_nil : imagePasses [] = false := rfl

section
variable {s : State} {image : List Byte}

/-- Recovery runs an image that passes (R387). -/
theorem execNetworkRecovery_of_passes (hb : s.boot = .recovery) (h : imagePasses image = true) :
    execNetworkRecovery image s = .next (s.runImage image) := by
  rw [execNetworkRecovery, need_of (by simp [hb]), if_pos h]

/-- Recovery leaves an image that does not pass (R387). -/
theorem execNetworkRecovery_of_not_passes (hb : s.boot = .recovery) (h : imagePasses image = false) :
    execNetworkRecovery image s = .next s := by
  rw [execNetworkRecovery, need_of (by simp [hb]), if_neg (by simp [h])]

/-- An update whose image passes is written, or leaves the image that an interrupted one leaves (R388). -/
theorem execFirmwareUpdate_of_passes (hb : s.boot = .running) (h : imagePasses image = true) (whole : Bool) :
    execFirmwareUpdate image whole s = .next { s with flash := some (if whole then image else []) } := by
  rw [execFirmwareUpdate, need_of (by simp [hb]), if_pos h]

/-- An update whose image does not pass is not written (R388). -/
theorem execFirmwareUpdate_of_not_passes (hb : s.boot = .running) (h : imagePasses image = false) (whole : Bool) :
    execFirmwareUpdate image whole s = .next s := by
  rw [execFirmwareUpdate, need_of (by simp [hb]), if_neg (by simp [h])]

end

/-- The changes of life cycle that may be asked for (R389). -/
def lifeCycleSteps : List (LifeCycle × LifeCycle) :=
  [(.blank, .manufacture), (.manufacture, .provisioned), (.provisioned, .deployed), (.provisioned, .rma), (.deployed, .rma),
    (.rma, .scrapped)]

theorem mem_nextLcs_iff (l target : LifeCycle) : target ∈ nextLcs l ↔ (l, target) ∈ lifeCycleSteps := by
  cases l <;> simp [nextLcs, lifeCycleSteps]

section
variable {s : State} {target : LifeCycle}

/-- A change of life cycle along R389 waits for the next reset. -/
theorem execLifeCycleChangeRequest_of_mem (hb : s.boot = .running) (h : (s.lcs, target) ∈ lifeCycleSteps) :
    execLifeCycleChangeRequest target s = .next { s with pendingLcs := some target } := by
  rw [execLifeCycleChangeRequest, need_of (by simp [hb]), if_pos (by simpa [mem_nextLcs_iff] using h)]

/-- Any other change of life cycle is not taken up (R389). -/
theorem execLifeCycleChangeRequest_of_not_mem (hb : s.boot = .running) (h : (s.lcs, target) ∉ lifeCycleSteps) :
    execLifeCycleChangeRequest target s = .next s := by
  rw [execLifeCycleChangeRequest, need_of (by simp [hb]), if_neg (by simpa [mem_nextLcs_iff] using h)]

end

/-- A number entered in a list of those known, once (R383, R385). -/
theorem mem_noted_iff (l : List Nat) (n m : Nat) : m ∈ (if l.contains n then l else l ++ [n]) ↔ m = n ∨ m ∈ l := by
  split
  next h => exact ⟨.inr, fun hm => hm.elim (fun e => e ▸ by simpa using h) id⟩
  next => simp [or_comm]

/-! ### The attestation report and the management port (R390, R391, R394) -/

/-- A report bears its header, the chair and PKGID, and echoes its nonce and FWHASH (R391). -/
theorem reportBody_fields (s : State) {chair : Nat} {nonce : List Byte} (hchair : chair < 64) (hnonce : nonce.length = 32)
    (hfw : s.fwhash.length = 32) :
    fileVal (reportBody s chair nonce) 0 4 = 0x54545341 ∧ fileVal (reportBody s chair nonce) 7 1 = chair ∧
      fileVal (reportBody s chair nonce) 8 8 = s.pkgid.toNat ∧ ((reportBody s chair nonce).drop 16).take 32 = nonce ∧
      ((reportBody s chair nonce).drop 48).take 32 = s.fwhash := by
  have hchair' : chair % 256 = chair := Nat.mod_eq_of_lt (by omega)
  simp only [reportBody, List.append_assoc]
  refine ⟨fileVal_bytesOf_append _, ?_, ?_, ?_, ?_⟩
  · simp [fileVal_append_of_le, fileVal_bytesOf_append, hchair']
  · simpa [fileVal_append_of_le, fileVal_bytesOf_append] using s.pkgid.isLt
  · simp [take_drop_append_of_le, hnonce]
  · simp [take_drop_append_of_le, hnonce, hfw]

/-- A report is its body and the signature of that under the identity key with a fresh salt (R391). -/
theorem execAttestationReport_eq {s : State} {chair key : Nat} {nonce : List Byte} (hb : s.boot = .running)
    (hl : s.lcs = .provisioned ∨ s.lcs = .deployed) (hchair : chair < 64) (hnonce : nonce.length = 32) (hk : s.idKey = some key) :
    execAttestationReport chair nonce s = .next { s with
      freeCtr := s.freeCtr + 1, mgmtOut := s.mgmtOut ++ [reportBody s chair nonce ++ Pss.sign (Config.identityKey key).1
        (Config.identityKey key).2.2 (reportBody s chair nonce) (bytesOf (s.draw (2 ^ 256)).1 32)] } := by
  rw [execAttestationReport, need_of (by rcases hl with h | h <;> simp [hb, h, hchair, hnonce])]
  exact needSome_of hk _

/-- The management port answers the status once bring-up has begun (R386, R394). -/
theorem runAct_status {s : State} (hb : s.boot ≠ .cold) : runAct (.management false) s =
    .next { s with mgmtOut := s.mgmtOut ++ [BitVec.ofNat 8 (lcsCode s.lcs) :: bytesOf s.pkgid.toNat 8] } := by
  rw [← bytesOf_one_append]
  exact need_of (by simpa using hb) _

/-- The management port answers the public key of the identity key pair while there is one (R390). -/
theorem runAct_publicKey {s : State} {key : Nat} (hb : s.boot ≠ .cold) (hs : s.boot ≠ .stopped) (hk : s.idKey = some key) :
    runAct (.management true) s = .next { s with
      mgmtOut := s.mgmtOut ++ [bytesOf (Config.identityKey key).1 384 ++ bytesOf (Config.identityKey key).2.1 384] } := by
  exact (need_of (by simpa using hb) _).trans ((need_of (by simpa using hs) _).trans (needSome_of hk _))

/-! ### The statement -/

/-- Settles O60: each act of bring-up, of the life cycle and of the links leaves what its own lemma says. -/
theorem packageComesUp : Obligations.PackageComesUp := by
  intro s
  refine ⟨execBoot_spec s, fun image hb => ?_, fun image whole hb => ?_, fun target hb => ?_,
    fun chair nonce key hb hl hchair hnonce hfw hk => ?_, fun hb => ⟨?_, fun key hs hk => runAct_publicKey hb hs hk⟩, ?_,
    fun khz h => ?_, fun pkg hb hlt hne => ?_, fun link hlt => ?_⟩
  · cases h : imagePasses image with
    | true => exact ⟨_, execNetworkRecovery_of_passes hb h, rfl, fun _ => ⟨rfl, rfl⟩, fun hf => absurd hf (by decide)⟩
    | false => exact ⟨_, execNetworkRecovery_of_not_passes hb h, rfl, fun ht => absurd ht (by decide), fun _ => rfl⟩
  · cases h : imagePasses image with
    | true =>
      refine ⟨_, execFirmwareUpdate_of_passes hb h whole, rfl, fun _ hw => by rw [hw]; rfl, fun _ hw => ?_,
        fun hf => absurd hf (by decide)⟩
      rw [hw]
      exact imagePasses_nil
    | false =>
      exact ⟨_, execFirmwareUpdate_of_not_passes hb h whole, rfl, fun ht => absurd ht (by decide),
        fun ht => absurd ht (by decide), fun _ => rfl⟩
  · by_cases h : (s.lcs, target) ∈ lifeCycleSteps
    · exact ⟨_, execLifeCycleChangeRequest_of_mem hb h, rfl, fun _ => rfl, fun hn => absurd h hn⟩
    · exact ⟨_, execLifeCycleChangeRequest_of_not_mem hb h, rfl, fun hm => absurd hm h, fun _ => rfl⟩
  · exact ⟨_, _, _, execAttestationReport_eq hb hl hchair hnonce hk, length_bytesOf _ 32, rfl,
      reportBody_fields s hchair hnonce hfw⟩
  · exact ⟨_, _, runAct_status hb, rfl, rfl, rfl⟩
  · exact ⟨_, execThermalShutdown_eq s, rfl, rfl, rfl, s.mem_core_broughtUp .cold (List.replicate 32 0) 0, rfl, rfl,
      fun _ => List.mem_range.mpr, fun _ => List.mem_range.mpr⟩
  · exact need_of (by simpa using h) _
  · exact ⟨_, need_of (by simp [hb, hlt, hne]) _, rfl, mem_noted_iff s.unreachable pkg⟩
  · exact ⟨_, need_of (by simpa using hlt) _, rfl, mem_noted_iff s.downLinks link⟩

end Sys2Proof.Machine

/-! PROOFS. What fires: the step, exits, and the match that is consumed (O33, O3, O35). -/

namespace Sys2Proof.Machine
open Sys2Proof

/-! ### The step that fires (O33) -/

/-- The instruction at a site is what the word there decodes to. -/
theorem State.instrAt_of_decode {s : State} {x : Site} {sl : Slot} {j : Inst} {w : Word} {i : Instr}
    (hs : s.slot? x.core x.slot = some sl) (hj : sl.inst? x.age = some j) (hw : j.words[x.k]? = some w)
    (hd : decode w = .ok (.instr i)) : s.instrAt x = some i := by
  simp [State.instrAt, hs, hj, Inst.instr, Inst.word, hw, hd]

/-- A firing at a site where the service runs and nothing of higher priority competes is the effect of its instruction. -/
theorem runAct_fire {s : State} {x : Site} {i : Instr} (hb : s.boot = .running) (hp : s.fireMay x = true)
    (hi : s.instrAt x = some i) : runAct (.fire x) s = exec i { s with site := x } := by
  simp only [runAct, hb, hp, hi, decide_true, Bool.and_self, need_true, needSome_some]

/-- Settles O33: the head of the agenda is a firing that may act, so the step is its instruction's effect. -/
theorem stepRunsTheDecodedInstruction : Obligations.StepRunsTheDecodedInstruction := by
  intro s t x rest sl j w i ha hb hp hs hj hw hd h
  exact step_of_act ha ((runAct_fire (s := { s with agenda := rest }) hb hp (State.instrAt_of_decode hs hj hw hd)).trans h)

/-! ### Exits (O3) -/

/-- The block address of an offset in 16-byte units (R109). -/
theorem Inst.offsAddr_eq (i : Inst) (o : BitVec 31) :
    i.offsAddr o = (((i.ba : Int) + o.toInt * 16) % 2 ^ 64).toNat := by
  rw [Inst.offsAddr, wrapN_eq, sint_bitVec]

/-- An exit that fires is recorded, and a second one raises MULTI_EXIT (R47). -/
theorem Ctx.exit_eq (c : Ctx) (e : ExitRec) : c.exit e = .next (c.exited e) := by
  simp only [Ctx.exit, Ctx.exited, List.isEmpty_iff]
  split <;> rfl

/-- Settles O3: each exit is recorded as it fires, BRI and RETT after their own check. -/
theorem exitsRecordTheNextBlock : Obligations.ExitsRecordTheNextBlock := by
  intro s c
  refine ⟨fun f h => ?_, fun f a h ha => ?_, fun f h => ⟨?_, ?_, fun ht => ?_, fun ht => ?_⟩⟩
  · rw [← Inst.offsAddr_eq, ← Ctx.exit_eq, ← Ctx.exit_eq]
    exact ⟨station0_of_fires h _, station0_of_fires h _⟩
  · have hbri : exec (.bri f) s = if a.u64 % 16 ≠ 0 then c.raise FC.alignment else c.exit (.to a.u64) :=
      (fire_of_fires h _).trans (port_of_carries ha _ _)
    rw [hbri]
    exact ⟨fun h0 => by simp [h0, Ctx.exit_eq], fun h0 => by simp [h0]⟩
  · exact (station0_of_fires h _).trans (c.exit_eq _)
  · exact (station0_of_fires h _).trans (c.exit_eq _)
  · exact (station0_of_fires h _).trans (by simp only [ht, if_true, Ctx.exit_eq])
  · exact (station0_of_fires h _).trans (by simp only [ht]; rfl)

/-! ### The match that fires (O35) -/

/-- What a firing sees: its block and strand, and the match at the site. -/
structure State.FireSees (s : State) (c : Ctx) : Prop where
  slot : s.slot? c.core c.slot = some c.sl
  inst : c.sl.inst? c.age = some c.inst
  strand : c.sl.strand? c.inst.uid = some c.strand
  ready : c.m ∈ (s.core c.core).ready
  key : c.m.slot = c.slot ∧ c.m.age = c.age ∧ c.m.k = c.k
  state : c.s = ((s.modCore c.core fun k => { k with ready := k.ready.erase c.m }).modInst c.core c.slot c.age
    fun i => { i with fired := c.k :: i.fired }).perfEvent c.core c.sl.chair 0x04 1

theorem State.fireCtx_sees {s : State} {c : Ctx} (h : s.fireCtx = some c) : s.FireSees c := by
  unfold State.fireCtx at h
  dsimp only at h
  split at h
  · cases h
  · rename_i sl hsl
    split at h
    · cases h
    · rename_i i hi
      split at h
      · rename_i t m ht hm
        cases h
        have hkey := List.find?_some hm
        simp only [Bool.and_eq_true, decide_eq_true_eq, and_assoc] at hkey
        exact ⟨hsl, hi, ht, List.mem_of_find?_eq_some hm, hkey, rfl⟩
      · cases h

/-- The match has left the station. -/
theorem State.FireSees.ready_erase {s : State} {c : Ctx} (h : s.FireSees c) :
    (c.s.core c.core).ready = (s.core c.core).ready.erase c.m := by
  have hc := State.core_lt_of_slot h.slot
  rw [h.state, State.core_perfEvent _ _ _ _ _ (by simpa using hc), State.core_modInst _ _ _ _ _ (by simpa using hc),
    State.core_modCore _ _ _ hc]

/-- The slot counts as fired. -/
theorem State.FireSees.fired {s : State} {c : Ctx} (h : s.FireSees c) :
    ∃ sl i, c.s.slot? c.core c.slot = some sl ∧ sl.inst? c.age = some i ∧ c.k ∈ i.fired := by
  have hs : (s.modCore c.core fun k => { k with ready := k.ready.erase c.m }).slot? c.core c.slot = some c.sl :=
    (State.slot?_modCore _ _ _ _ _ rfl).trans h.slot
  obtain ⟨sl, hsl, hi⟩ := State.inst_modInst (f := fun i => { i with fired := c.k :: i.fired }) hs h.inst fun _ hx => hx
  exact ⟨sl, _, by rw [h.state, State.slot?_perfEvent]; exact hsl, hi, List.mem_cons_self⟩

/-- A token of a slot that has fired is dropped as it arrives (R36). -/
theorem exec_tokenArrival_of_fired {s : State} {core n : Nat} {t : NetTok} {sl : Slot} {i : Inst}
    (ht : (s.core core).net[n]? = some t) (hs : s.slot? core t.slot = some sl) (hi : sl.inst? t.age = some i)
    (hk : t.k ∈ i.fired) :
    exec (.tokenArrival core n) s = .next (s.modCore core fun k => { k with net := k.net.eraseIdx n }) := by
  have hs' : ((s.modCore core fun k => { k with net := k.net.eraseIdx n }).core core).slot? t.slot = some sl :=
    (State.slot?_modCore s core core t.slot _ rfl).trans hs
  have hd : i.dead = true ∨ i.fired.contains t.k = true := .inr (List.contains_iff_mem.mpr hk)
  simp only [exec, execTokenArrival, ht, needSome_some, State.arrive, hs', Option.bind_some, hi, hd, if_true]

/-- Settles O35: the firing takes its match from the station and marks its slot, and a token of a marked slot is dropped. -/
theorem aFiringConsumesItsMatch : Obligations.AFiringConsumesItsMatch := by
  intro s c hc
  have h := State.fireCtx_sees hc
  obtain ⟨hslot, hage, hk⟩ := h.key
  refine ⟨h.ready, hslot, hage, hk, h.ready_erase, h.fired, fun n t ht hts hta htk => ?_⟩
  obtain ⟨sl, i, hs, hi, hf⟩ := h.fired
  exact exec_tokenArrival_of_fired ht (hts ▸ hs) (hta ▸ hi) (htk ▸ hf)

end Sys2Proof.Machine

/-! PROOFS. A false predicate and a null operand, whatever the instruction (O37, O38). -/

namespace Sys2Proof.Machine
open Sys2Proof

/-! ### The shapes of firings, and a predicate that does not hold (O37) -/

/-- Every instruction of 64-bit words but PREF is a firing under its predicate. -/
theorem exec_eq_fire {i : Instr} (hi : i.code.isSome = true) (hp : isPref i = false) (s : State) :
    ∃ body, exec i s = fire s (Instr.pr i) body := by
  cases i <;> try (cases hi; done)
  case pref => cases hp
  all_goals exact ⟨_, rfl⟩

/-- An instruction that never faults examines its predicate before any tag (R37, R214). -/
theorem fireAny_of_not {s : State} {c : Ctx} {pr : Pred} (hc : s.fireCtx = some c) (hb : c.inst.bad.contains c.k = false)
    (hp : predHolds pr c.m.p = false) (body : Ctx → Out) : fireAny s pr body = .next c.s := by
  simp only [fireAny, hc, needSome_some, hb, hp]
  rfl

/-- Settles O37: the predicate is examined before the instruction itself, in PREF before any tag too. -/
theorem aFalsePredicateEmitsNothing : Obligations.AFalsePredicateEmitsNothing := by
  intro i s c hi hc hb hr hp
  cases hpref : isPref i with
  | false =>
    obtain ⟨body, h⟩ := exec_eq_fire hi hpref s
    have hr : c.m.reserved = false := hr.resolve_right (by simp [hpref])
    rw [h, fire_of_not hc hb hr hp]
  | true =>
    cases i <;> try (cases hpref; done)
    exact fireAny_of_not hc hb hp _

/-- An instruction that answers nulls to a null on A reads A at a station, whatever else it reads. -/
theorem exec_eq_station1 {i : Instr} (hi : Instr.nullsOut i = true) (hp : isPref i = false) (s : State) :
    ∃ body, exec i s = station1 s (Instr.pr i) (Instr.fmts i) (instrTargets i) body := by
  cases i <;> try (cases hi; done)
  case pref => cases hp
  case ld f | lds f =>
    obtain ⟨pr, t0, t1, w, lsid, sc, _ | _ | _⟩ := f
    case chain => cases hi
    all_goals exact ⟨_, rfl⟩
  case ldv f =>
    obtain ⟨pr, t0, t1, lsid, sc, _ | _ | _⟩ := f
    case chain => cases hi
    all_goals exact ⟨_, rfl⟩
  all_goals exact ⟨_, rfl⟩

/-- An instruction that answers nulls and reads B reads A and B at a station. -/
theorem exec_eq_station2 {i : Instr} (hi : Instr.nullsOut i = true) (hb : Instr.reads i .b = true) (s : State) :
    ∃ body, exec i s = station2 s (Instr.pr i) (Instr.fmts i) (instrTargets i) body := by
  cases i <;> try (cases hi; done)
  all_goals try (cases hb; done)
  all_goals exact ⟨_, rfl⟩

/-- An instruction that reads P as data reads all three ports at a station. -/
theorem exec_eq_station3 {i : Instr} (hp : readsPData i = true) (s : State) :
    ∃ body, exec i s = station3 s (Instr.fmts i) (instrTargets i) body := by
  cases i <;> try (cases hp; done)
  all_goals exact ⟨_, rfl⟩

/-! ### Nulls on a port that is read as data (O38) -/

theorem station1_of_null_a {s : State} {c : Ctx} {pr : Pred} {fs : List Fmt} (h : s.Fires c pr)
    (hf : ∀ f ∈ fs, f.isReserved = false) (ha : c.m.a = some none) (ts : List Target) (body : Ctx → Datum → Out) :
    station1 s pr fs ts body = .next (c.sent ts none) := by
  simp [station1, fire_of_fires h, withFmt_of_ok hf, ha]

theorem station2_of_null_b {s : State} {c : Ctx} {pr : Pred} {fs : List Fmt} {a : Datum} (h : s.Fires c pr)
    (hf : ∀ f ∈ fs, f.isReserved = false) (ha : Carries c.m.a a) (hb : c.m.b = some none) (ts : List Target)
    (body : Ctx → Datum → Datum → Out) : station2 s pr fs ts body = .next (c.sent ts none) := by
  simp [station2, fire_of_fires h, withFmt_of_ok hf, port_of_carries ha, hb]

theorem station3_of_null_p {s : State} {c : Ctx} {fs : List Fmt} {a b : Datum} (h : s.Fires c .always)
    (hf : ∀ f ∈ fs, f.isReserved = false) (ha : Carries c.m.a a) (hb : Carries c.m.b b) (hp : c.m.p = some none)
    (ts : List Target) (body : Ctx → Datum → Datum → Datum → Out) : station3 s fs ts body = .next (c.sent ts none) := by
  simp [station3, fire_of_fires h, withFmt_of_ok hf, port_of_carries ha, port_of_carries hb, hp]

/-- PREF answers a null on A with nulls. -/
theorem exec_pref_of_null {s : State} {c : Ctx} {f : FPref} (h : s.FiresAny c f.pr) (ha : c.m.a = some none) :
    exec (.pref f) s = .next (c.sent [f.t0, f.t1] none) := by
  simp [exec, execPref, fireAny_of_fires h, ha]

/-- P is data only where no predicate field takes it (R102). -/
theorem pr_of_readsPData {i : Instr} (h : readsPData i = true) : Instr.pr i = .always := by
  cases i <;> try (cases h; done)
  all_goals rfl

/-- Settles O38: the station of each instruction answers a null on a port with nulls to the targets. -/
theorem aNullOperandEmitsNulls : Obligations.ANullOperandEmitsNulls := by
  intro i s c hi h hf
  refine ⟨fun _ ha => ?_, fun a _ hb ha hnull => ?_, fun a b hp ha hb hnull => ?_⟩
  · cases hpref : isPref i with
    | false =>
      obtain ⟨body, e⟩ := exec_eq_station1 hi hpref s
      rw [e, station1_of_null_a h hf ha]
    | true =>
      cases i <;> try (cases hpref; done)
      exact exec_pref_of_null h.1 ha
  · obtain ⟨body, e⟩ := exec_eq_station2 hi hb s
    rw [e, station2_of_null_b h hf ha hnull]
  · obtain ⟨body, e⟩ := exec_eq_station3 hp s
    rw [e, station3_of_null_p (pr_of_readsPData hp ▸ h) hf ha hb hnull]

end Sys2Proof.Machine

/-! PROOFS. No firing changes architectural state outside its block (O28): each instruction keeps the frame. -/

namespace Sys2Proof.Machine
open Sys2Proof

section Firing
variable {s : State}

/-- A firing that reads A and B and sends one token keeps the frame. -/
theorem Out.Keeps.out2 {pr : Pred} {fs : List Fmt} {ts : List Target} {v : Ctx → Datum → Datum → Tok} :
    Out.Keeps s (Machine.station2 s pr fs ts fun c a b => c.out ts (v c a b)) := .station2 fun _ _ _ h => .out h _ _

/-- A firing that reads A and sends one token keeps the frame. -/
theorem Out.Keeps.out1 {pr : Pred} {fs : List Fmt} {ts : List Target} {v : Ctx → Datum → Tok} :
    Out.Keeps s (Machine.station1 s pr fs ts fun c a => c.out ts (v c a)) := .station1 fun _ _ h => .out h _ _

/-- A firing that reads A, B and P and sends one token keeps the frame. -/
theorem Out.Keeps.out3 {fs : List Fmt} {ts : List Target} {v : Ctx → Datum → Datum → Datum → Tok} :
    Out.Keeps s (Machine.station3 s fs ts fun c a b p => c.out ts (v c a b p)) := .station3 fun _ _ _ _ h => .out h _ _

theorem Out.Keeps.absNeg (f : FA) (abs : Bool) : Out.Keeps s (Machine.absNeg f s abs) :=
  .station1 fun _ _ h => .ite (.out h _ _) (.out h _ _)

/-- An exit keeps the frame where the instruction reads no port. -/
theorem Out.Keeps.exit0 {pr : Pred} {e : Ctx → ExitRec} : Out.Keeps s (Machine.station0 s pr fun c => c.exit (e c)) :=
  .station0 fun _ h => .exit h _

/-- An act queued for commit keeps the frame (R154). -/
theorem Out.Keeps.queue {c : Ctx} (h : s.FiringKeeps c.s) (f : Inst → Inst) (ts : List Target) (tok : Tok) :
    Out.Keeps s ((c.mod f).out ts tok) := .out (Ctx.keeps_mod h f) _ _

/-! ### Memory -/

theorem Out.Keeps.loadOp {pr : Pred} {ts : List Target} {lsid : Nat} {sc : Scope} {mode : MemMode} {n : Nat} {form : LoadForm} :
    Out.Keeps s (Machine.loadOp s pr ts lsid sc mode n form) := by
  refine .fire fun c h => ?_
  cases mode with
  | plain d | sync d =>
    refine .port (.out h _ _) fun a => .shareLsid h (fun _ hd => .out hd _ _) fun _ hd => .global hd fun _ _ hg => .next ?_
    exact Ctx.keeps_addLoad hg _
  | chain l d =>
    have nop : ∀ (t : Triple) (d : Ctx), s.FiringKeeps d.s →
        Out.Keeps s (((d.sat lsid).sendChain lsid t none false).out ts none) := fun t d hd =>
      .out (Ctx.keeps_sendChain (Ctx.keeps_sat hd _) _ _ _ _) _ _
    refine .port (.out (Ctx.keeps_sat h _) _ _) fun p => .port (nop _ c h) fun a => .shareLsid h (nop _) fun _ hd =>
      .global hd fun _ _ hg => .next ?_
    exact Ctx.keeps_sendChain (Ctx.keeps_addLoad hg _) _ _ _ _

theorem Out.Keeps.storeOp {pr : Pred} {lsid : Nat} {sc : Scope} {mode : MemMode} {n : Nat} :
    Out.Keeps s (Machine.storeOp s pr lsid sc mode n) := by
  have sat : ∀ d : Ctx, s.FiringKeeps d.s → Out.Keeps s (.next (d.sat lsid).s) := fun _ hd => .next (Ctx.keeps_sat hd _)
  refine .fire fun c h => ?_
  cases mode with
  | plain d | sync d =>
    exact .port (sat c h) fun a => .port (sat c h) fun b => .shareLsid h sat fun _ hd =>
      .global hd fun _ _ hg => .next (Ctx.keeps_addStore hg _)
  | chain l d =>
    have nop : ∀ (t : Triple) (d : Ctx), s.FiringKeeps d.s →
        Out.Keeps s (.next ((d.sat lsid).sendChain lsid t none false).s) := fun t d hd =>
      .next (Ctx.keeps_sendChain (Ctx.keeps_sat hd _) _ _ _ _)
    exact .port (sat c h) fun p => .port (nop _ c h) fun a => .port (nop _ c h) fun b => .shareLsid h (nop _) fun _ hd =>
      .global hd fun _ _ hg => .next (Ctx.keeps_sendChain (Ctx.keeps_act (Ctx.keeps_sat hg _) _) _ _ _ _)

theorem Out.Keeps.loadLocal {pr : Pred} {ts : List Target} {lsid : Nat} {core : Bool} {disp : BitVec 21} {n : Nat}
    {form : LoadForm} : Out.Keeps s (Machine.loadLocal s pr ts lsid core disp n form) :=
  .fire fun _ h => .port (.out h _ _) fun _ => .shareLsid h (fun _ hd => .out hd _ _) fun _ hd =>
    .local hd (.next (Ctx.keeps_addLoad hd _))

theorem Out.Keeps.storeLocalOp {pr : Pred} {lsid : Nat} {core : Bool} {disp : BitVec 21} {n : Nat} :
    Out.Keeps s (Machine.storeLocalOp s pr lsid core disp n) := by
  have sat : ∀ d : Ctx, s.FiringKeeps d.s → Out.Keeps s (.next (d.sat lsid).s) := fun _ hd => .next (Ctx.keeps_sat hd _)
  exact .fire fun c h => .port (sat c h) fun _ => .port (sat c h) fun _ => .shareLsid h sat fun _ hd =>
    .local hd (.next (Ctx.keeps_addStore hd _))

theorem Out.Keeps.amoOp {pr : Pred} {ts : List Target} {lsid : Nat} {sc : Scope} {w : IW} {ord : AmoOrd} {op : AmoOp}
    {loc : Bool} : Out.Keeps s (Machine.amoOp s pr ts lsid sc w ord op loc) := by
  have nul : ∀ d : Ctx, s.FiringKeeps d.s → Out.Keeps s ((d.sat lsid).out ts none) := fun _ hd => .out (Ctx.keeps_sat hd _) _ _
  exact .fire fun c h => .port (nul c h) fun _ => .port (nul c h) fun _ => .shareLsid h nul fun _ hd =>
    .ite (.local hd (.out (Ctx.keeps_addStore hd _) _ _)) (.global hd fun _ _ hg => .out (Ctx.keeps_addStore hg _) _ _)

theorem Out.Keeps.chnop (f : FChnop) : Out.Keeps s (execChnop f s) := by
  have sat : ∀ d : Ctx, s.FiringKeeps d.s → Out.Keeps s (.next (d.sat f.lsid.toNat).s) := fun _ hd =>
    .next (Ctx.keeps_sat hd _)
  exact .fire fun c h => .port (sat c h) fun _ => .shareLsid h sat fun _ hd =>
    .next (Ctx.keeps_sendChain (Ctx.keeps_act (Ctx.keeps_sat hd _) _) _ _ _ _)

theorem Out.Keeps.gath (f : FGath) : Out.Keeps s (execGath f s) :=
  .fire fun _ h => .port (.out h _ _) fun _ => .shareLsid h (fun _ hd => .out hd _ _) fun _ hd =>
    .loadAll hd fun _ => .next (Ctx.keeps_addLoad hd _)

theorem Out.Keeps.tfetch (f : FTfetch) : Out.Keeps s (execTfetch f s) :=
  .fire fun _ h => .withFmt h <| .port (.out h _ _) fun _ => .shareLsid h (fun _ hd => .out hd _ _) fun _ hd =>
    .ite (.fault hd _) <| .ite (.fault hd _) <| .loadAll hd fun _ => .need (.next (Ctx.keeps_addLoad hd _))

theorem Out.Keeps.seqrd (f : FSeqrd) : Out.Keeps s (execSeqrd f s) := by
  refine .station1 fun c a h => .ite (.raise h _) <| .ite (.fault h _) <| .shareLsid h (fun _ hd => .out hd _ _) fun d hd => ?_
  dsimp only
  split
  · exact .fails hd _ _ _ _
  · exact .ite (.fault hd _) (.next (Ctx.keeps_addLoad hd _))

/-! ### Engine commands -/

theorem Out.Keeps.scatterOp {i : Instr} {pr : Pred} {ts : List Target} {lsid : Nat} {lanes : BitVec 8} {w : IW} :
    Out.Keeps s (Machine.scatterOp s i pr ts lsid lanes w) := by
  refine .engineWith fun c a _ k h hk => ?_
  split
  · exact .fault h _
  · exact hk c h

/-- An engine instruction that checks nothing as it fires keeps the frame. -/
theorem Out.Keeps.engineFree {i : Instr} {pr : Pred} {ts : List Target} {lsid : Nat} {ra rb : Bool} :
    Out.Keeps s (Machine.engineOp s i pr ts lsid ra rb fun c _ _ k => k c) := .engineOp fun c _ _ _ h hk => hk c h

/-- An engine instruction that makes one check as it fires keeps the frame. -/
theorem Out.Keeps.engineCheck {i : Instr} {pr : Pred} {ts : List Target} {lsid : Nat} {ra rb : Bool}
    {p : Ctx → Datum → Prop} [∀ c a, Decidable (p c a)] {f : Ctx → Datum → FaultRec} :
    Out.Keeps s (Machine.engineOp s i pr ts lsid ra rb fun c a _ k => if p c a then c.fault (f c a) else k c) :=
  .engineOp fun c _ _ _ h hk => .ite (.fault h _) (hk c h)

theorem Out.Keeps.invr (f : FInv) : Out.Keeps s (execInvr f s) := by
  unfold execInvr; exact .engineCheck

theorem Out.Keeps.inva (f : FInv) : Out.Keeps s (execInva f s) := by
  unfold execInva; exact .engineCheck

theorem Out.Keeps.pdom (f : FDom) : Out.Keeps s (execPdom f s) := by
  unfold execPdom; exact .engineCheck

theorem Out.Keeps.launch (f : FFar) : Out.Keeps s (execLaunch f s) := by
  unfold execLaunch
  exact .engineOp fun c _ _ _ h hk => .ite (.fault h _) (.ite (.fault h _) (hk c h))

/-! ### Strands and waits -/

theorem Out.Keeps.redt (f : FRedt) : Out.Keeps s (execRedt f s) :=
  .station1 fun _ _ h => .ite (.wait h _ _) (.queue h _ _ _)

theorem Out.Keeps.waitc (f : FWaitc) : Out.Keeps s (execWaitc f s) := by
  refine .station1 fun c a h => ?_
  split
  · exact .next (State.keeps_waitcNone h _ _ _ _ _)
  · exact .next (State.keeps_waitcEmit h _ _ _ _ _ _ _ _)
  · exact .wait h _ _

/-! ### Systolic arrays -/

theorem Out.Keeps.wload (f : FWload) : Out.Keeps s (execWload f s) := by
  refine .station1 fun c a h => ?_
  split
  · exact .config h _ _ _
  · exact .raise h _

theorem Out.Keeps.mma (f : FT) : Out.Keeps s (execMma f s) := by
  refine .station1 fun c a h => ?_
  split
  · exact .need (.raise h _)
  · rename_i arr _
    exact .ite (.raise h _) <| .out (c := { c with s := _ })
      (State.keeps_admitRows (State.keeps_modArray h _ _ _) _ _ _ _) _ _

theorem Out.Keeps.drain (f : FT) : Out.Keeps s (execDrain f s) := by
  refine .station1 fun c a h => ?_
  split
  · exact .need (.raise h _)
  · refine .needSome fun acc _ => .need ?_
    dsimp only
    split
    · exact .raise h _
    · exact .ite
        (.need (.out (c := { c with s := _ }) (State.keeps_newTile (State.keeps_modArray h _ _ _) _ _ _ _ _ _ _) _ _))
        (.out (c := { c with s := _ }) (State.keeps_modArray h _ _ _) _ _)

theorem Out.Keeps.tmul (f : FTmul) : Out.Keeps s (execTmul f s) := by
  refine .station2 fun c a b h => .need ?_
  split
  · exact .raise h _
  · exact .ite (.raise h _) (.out h _ _)

/-! ### Each instruction -/

/-- A firing of any instruction keeps the frame. -/
theorem exec_keeps {i : Instr} (hi : i.code.isSome = true) : Out.Keeps s (exec i s) := by
  cases i <;> try (cases hi; done)
  case read => exact .fire fun _ h => .need (.out h _ _)
  case sel => exact .fire fun _ h => .port (.out h _ _) fun _ => .port (.out h _ _) fun _ => .out h _ _
  case limm | nullI => exact .station0 fun _ h => .out h _ _
  case br | call | ret | endI => exact .exit0
  case bri => exact .fire fun _ h => .port (.next h) fun _ => .ite (.raise h _) (.exit h _)
  case rett => exact .station0 fun _ h => .ite (.exit h _) (.raise h _)
  case trap => exact .station0 fun _ h => .fault h _
  case brk => exact .station0 fun _ h => .raise h _
  case csrr | tapst => exact .station0 fun _ h => .need (.out h _ _)
  case csrw => exact .station1 fun _ _ h => .queue h _ _ _
  case csrx => exact .station1 fun _ _ h => .need (.queue h _ _ _)
  case fork => exact .station2 fun _ _ _ h => .fork h _ _ _
  case spawn => exact .station0 fun _ h => .fork h _ _ _
  case join => exact .station1 fun _ _ h => .wait h _ _
  case redt => exact .redt _
  case waitc => exact .waitc _
  case abs | neg => exact .absNeg _ _
  case cvtfi => exact .station1 fun _ _ h => .ite (.out h _ _) (.out h _ _)
  case ld | lds | ldv => exact .loadOp
  case st | stv => exact .storeOp
  case ldl | ldvl => exact .loadLocal
  case stl | stvl => exact .storeLocalOp
  case chnop => exact .chnop _
  case amo | amol => exact .amoOp
  case fence => exact .fire fun _ h => .wait (Ctx.keeps_mod h _) _ _
  case gath => exact .gath _
  case pref => exact .fireAny fun _ h => .port (.out h _ _) fun _ => .out h _ _
  case waitg => exact .station2 fun _ _ _ h => .local h (.wait h _ _)
  case tfetch => exact .tfetch _
  case seqrd => exact .seqrd _
  case scat | scata => exact .scatterOp
  case xcopy | xfill | xcomp | kvapp | bind | attn | psave | prest | stap | smpl | seqc => exact .descOp
  case unbind | patch | pwr | pstep | pfeed => exact .engineFree
  case synci => exact .engineOp fun c _ _ _ h hk => .local h (hk c h)
  case invr => exact .invr _
  case inva => exact .inva _
  case pdom => exact .pdom _
  case launch => exact .launch _
  case prd | prdv => exact .station1 fun _ _ h => .ite (.raise h _) (.palRead h _ _ fun _ => .out h _ _)
  case tapcfg => exact .station1 fun _ _ h => .ite (.raise h _) (.queue h _ _ _)
  case syscfg | route => exact .station1 fun _ _ h => .ite (.raise h _) (.config h _ _ _)
  case wload => exact .wload _
  case sysrel => exact .station1 fun _ _ h => .config h _ _ _
  case mma => exact .mma _
  case drain => exact .drain _
  case tmul => exact .tmul _
  case vfma | vfms | vsel => exact .out3
  case mov | mov4 | orhi | teqi | tnei | tlti | tlei | tgti | tgei | tltui | tgtui | ftest | clz | ctz | popc | sext | zext
    | addi | muli | andimm | orimm | xorimm | shli | shri | srai | cvtif | vsqrt | vrsq | vexp2 | vlog2 | vabs | vneg
    | vmask | vred | vscan | vbcast | vext | vshuf | vcvt | vunpk => exact .out1
  all_goals exact .out2

end Firing

/-- Settles O28: every firing keeps the frame, station by station. -/
theorem firingCommitsNothing : Obligations.FiringCommitsNothing :=
  fun _ _ t hi h => exec_keeps hi t h

end Sys2Proof.Machine

/-! PROOFS. Tokens that arrive, are injected, go to the chest, and swaps (O44, O45). -/

namespace Sys2Proof.Machine
open Sys2Proof

/-! ### The chest of a context (R43) -/

/-- A core once a token has gone to the chest of its context, `used` entries of it in use. -/
def Core.spilled (k : Core) (t : NetTok) (used chair : Nat) : Core :=
  { k with
    chest := k.chest ++ [t],
    slots := k.slots.modify t.slot (Option.map fun x => { x with chestHigh := max x.chestHigh used }),
    perf := k.perf.map fun p => if p.counts 0x05 chair then p.count 1 else p }

/-- A context whose chest share is loaded has it at hand. -/
theorem State.withChestRange_of_loaded {s : State} {core slot : Nat} {room : Bool} (h : s.ChestHas core slot room) :
    s.withChestRange core slot = s := by
  obtain ⟨_, _, hr, _⟩ := h
  rw [State.withChestRange, if_pos hr]

/-- A chest with room takes the token (R40, R43). -/
theorem State.spill_of_room {s : State} {core : Nat} {t : NetTok} (h : s.ChestHas core t.slot true) :
    (s.spill core t).cores.length = s.cores.length ∧
      ∃ used chair, (s.spill core t).core core = (s.core core).spilled t used chair := by
  have hr := State.withChestRange_of_loaded h
  obtain ⟨sl, hs, _, hroom⟩ := h
  have hc := State.core_lt_of_slot hs
  have hroom := of_decide_eq_true hroom
  refine ⟨?_, (s.core core).chestUsed t.slot + 1, sl.chair, ?_⟩ <;>
    simp only [State.spill, State.chestTake, hr, hs, hroom, if_true, State.slot?_modSlot, Option.map_some]
  · simp
  · rw [State.core_perfEvent _ _ _ _ _ (by simpa using hc), State.core_modCore _ _ _ (by simpa using hc),
      State.core_modSlot _ _ _ _ hc]
    rfl

/-- A full chest drops the token, and CHEST_FULL is recorded against its block (R40, R218). -/
theorem State.spill_of_full {s : State} {core : Nat} {t : NetTok} (h : s.ChestHas core t.slot false) :
    s.spill core t = s.record core t.slot t.age (.plain FC.chestFull) := by
  have hr := State.withChestRange_of_loaded h
  obtain ⟨sl, hs, _, hroom⟩ := h
  have hroom := of_decide_eq_false hroom
  simp only [State.spill, State.chestTake, hr, hs, hroom, if_false]

/-- A fault that is recorded against a block in flight stands in it, and the chest is as before. -/
theorem State.record_leaves {s : State} {core slot age : Nat} {i : Inst} (h : s.block? core slot age = some i) (f : FaultRec) :
    ((s.record core slot age f).core core).chest = (s.core core).chest ∧
      (s.record core slot age f).block? core slot age = some { i with faults := i.faults ++ [f] } := by
  obtain ⟨sl, hs, hi⟩ := Option.bind_eq_some_iff.mp h
  refine ⟨by rw [State.record, State.core_modInst _ _ _ _ _ (State.core_lt_of_slot hs)], ?_⟩
  exact State.block_modInst h fun _ => rfl

/-! ### A token that meets its set (R38, R40) -/

/-- What an awaited token does: it completes its match, takes a way, or goes to the chest. -/
theorem State.arrive_of_awaits {s : State} {core : Nat} {t : NetTok} (h : (s.core core).Awaits t (s.core core).chest) :
    s.arrive core t =
      if (s.core core).completes t then s.modCore core fun k =>
        { k with cab := k.cab.filter fun e => !e.sameSlot t, ready := k.ready ++ [(s.core core).matchOf t] }
      else if (s.core core).hasRoom t then s.modCore core fun k => { k with cab := k.cab ++ [t] }
      else s.spill core t := by
  obtain ⟨⟨sl, i, hs, hi, hdead, hfired⟩, hready, hkeys, hpoison, hclean⟩ := h
  have hlive : ¬(i.dead = true ∨ i.fired.contains t.k = true) := by simp [hdead, hfired]
  have hnone : ((s.core core).ready.any fun m => m.slot = t.slot && m.age = t.age && m.k = t.k) = false := by
    simpa [and_assoc] using hready
  have hnew : ((s.core core).cab ++ (s.core core).chest).any (·.sameKey t) = false := by
    exact List.any_eq_false.mpr fun e he => by simp [hkeys e he]
  have hbad : (t.poison || (s.core core).cab.any fun e => e.sameSlot t && e.poison) = false := by
    simpa [hpoison] using hclean
  simp only [State.arrive, hs, Option.bind_some, hi, hlive, hnone, hnew, hbad, if_false, Bool.false_eq_true]

theorem Core.hasRoom_iff (k : Core) (t : NetTok) : k.hasRoom t = true ↔ k.hasWay t := by
  simp [Core.hasRoom]

/-- The core of an awaited token. -/
theorem State.core_lt_of_awaits {s : State} {core : Nat} {t : NetTok} {others : List NetTok}
    (h : (s.core core).Awaits t others) : core < s.cores.length := by
  obtain ⟨⟨sl, i, hs, _⟩, _⟩ := h
  exact State.core_lt_of_slot hs

/-- An awaited token completes its match or takes a way where there is one (R36, R38, R40). -/
theorem State.arrive_met {s : State} {core : Nat} {t : NetTok} (h : (s.core core).Awaits t (s.core core).chest) :
    (s.core core).Met ((s.arrive core t).core core) t := by
  have hc := State.core_lt_of_awaits h
  rw [State.arrive_of_awaits h]
  refine ⟨fun hm => ?_, fun hm hw => ?_⟩
  · rw [if_pos hm, State.core_modCore _ _ _ hc]
    exact ⟨rfl, rfl⟩
  · rw [if_neg (by simp [hm]), if_pos ((Core.hasRoom_iff _ _).mpr hw), State.core_modCore _ _ _ hc]
    exact ⟨rfl, rfl⟩

/-- An awaited token without a way goes to its context's chest (R40, R43). -/
theorem State.arrive_spills {s : State} {core : Nat} {t : NetTok} (h : (s.core core).Awaits t (s.core core).chest)
    (hm : (s.core core).completes t = false) (hw : ¬(s.core core).hasWay t) : s.arrive core t = s.spill core t := by
  rw [State.arrive_of_awaits h, if_neg (by simp [hm]), if_neg (mt (Core.hasRoom_iff _ _).mp hw)]

/-! ### Arrival and injection (O44) -/

/-- The core once a token has left its network. -/
theorem State.core_netErased {s : State} {core : Nat} (hc : core < s.cores.length) (n : Nat) :
    (s.modCore core fun k => { k with net := k.net.eraseIdx n }).core core =
      { s.core core with net := (s.core core).net.eraseIdx n } := State.core_modCore _ _ _ hc

/-- The core once a token has left its chest. -/
theorem State.core_chestErased {s : State} {core : Nat} (hc : core < s.cores.length) (n : Nat) :
    (s.modCore core fun k => { k with chest := k.chest.eraseIdx n }).core core =
      { s.core core with chest := (s.core core).chest.eraseIdx n } := State.core_modCore _ _ _ hc

/-- Settles O44: a token is awaited by its block, so it meets its match, a way or its chest. -/
theorem tokensMeetTheirMatch : Obligations.TokensMeetTheirMatch := by
  intro s core n t
  refine ⟨fun ht h => ?_, fun ht h hmay => ?_⟩
  · have hc := State.core_lt_of_awaits h
    have hk := State.core_netErased hc n
    set d := s.modCore core fun k => { k with net := k.net.eraseIdx n } with hd
    have hawaits : (d.core core).Awaits t (d.core core).chest := by rw [hk]; exact h
    have hmet := State.arrive_met hawaits
    rw [hk] at hmet
    refine ⟨d.arrive core t, ?_, hmet, fun hm hw => ?_⟩
    · simp only [exec, execTokenArrival, ht, needSome_some, hd]
    · have hspill := State.arrive_spills hawaits (by rw [hk]; exact hm) (by rw [hk]; exact hw)
      have hslot : ∀ i, d.slot? core i = s.slot? core i := fun i => State.slot?_modCore _ _ _ _ _ rfl
      have hchest : ∀ room, s.ChestHas core t.slot room → d.ChestHas core t.slot room := by
        rintro room ⟨sl, hs, hr⟩
        exact ⟨sl, (hslot _).trans hs, by rw [hk]; exact hr⟩
      rw [hspill]
      refine ⟨fun hroom => ?_, fun hfull => ?_⟩
      · obtain ⟨_, used, chair, hcore⟩ := State.spill_of_room (hchest _ hroom)
        rw [hcore, hk]
        rfl
      · obtain ⟨⟨sl, i, hs, hi, _⟩, _⟩ := h
        have hblock : s.block? core t.slot t.age = some i := Option.bind_eq_some_iff.mpr ⟨sl, hs, hi⟩
        have hblock' : d.block? core t.slot t.age = some i := Option.bind_eq_some_iff.mpr ⟨sl, (hslot _).trans hs, hi⟩
        obtain ⟨hchest', hrec⟩ := State.record_leaves hblock' (.plain FC.chestFull)
        rw [State.spill_of_full (hchest _ hfull), hchest', hk]
        exact ⟨rfl, i, hblock, hrec⟩
  · have hc := State.core_lt_of_awaits h
    have hk := State.core_chestErased hc n
    set d := s.modCore core fun k => { k with chest := k.chest.eraseIdx n } with hd
    have hmet := State.arrive_met (s := d) (core := core) (t := t) (by rw [hk]; exact h)
    rw [hk] at hmet
    refine ⟨d.arrive core t, ?_, hmet⟩
    have hneed : ((s.core core).completes t || ((s.core core).hasRoom t &&
        ((oldestTok (((s.core core).chestFor t.row ((s.core core).tokSet t)).filter (·.slot = t.slot)) == some t &&
          (s.core core).candidate t.row ((s.core core).tokSet t) == some t.slot) ||
        oldestTok ((s.core core).chest.filter fun e =>
          decide (e.slot = t.slot) && decide (e.row = t.row) && (s.core core).hasRoom e) == some t))) = true := by
      rcases hmay with hm | ⟨hw, hcand, hold⟩
      · simp [hm]
      · simp [(Core.hasRoom_iff _ _).mpr hw, hcand, hold]
    simp only [exec, execChestInjection, ht, needSome_some]
    rw [need_of hneed]

/-! ### Swaps (O45) -/

/-- A token's consumer, its set, and its context's quota are as before where a spill counts what its chest has in use. -/
theorem Core.spilled_meets (k : Core) (v t : NetTok) (used chair : Nat) :
    (k.spilled v used chair).completes t = k.completes t ∧ (k.spilled v used chair).hasRoom t = k.hasRoom t := by
  have hslot : ∀ i, ∃ f : Slot → Nat, (k.spilled v used chair).slot? i =
      (k.slot? i).map fun x => { x with chestHigh := f x } := fun i => by
    simp only [Core.slot?, Core.spilled, List.getD_eq_getElem?_getD, List.getElem?_modify]
    by_cases hi : v.slot = i
    · exact ⟨fun x => max x.chestHigh used, by rcases k.slots[i]? with _ | _ | x <;> simp [hi]⟩
    · exact ⟨fun x => x.chestHigh, by rcases k.slots[i]? with _ | _ | x <;> simp [hi]⟩
  have hports : (k.spilled v used chair).portsOf t = k.portsOf t := by
    obtain ⟨f, hf⟩ := hslot t.slot
    rw [Core.portsOf, Core.portsOf, hf]
    cases k.slot? t.slot <;> rfl
  have hset : ∀ e, (k.spilled v used chair).tokSet e = k.tokSet e := fun e => by
    obtain ⟨f, hf⟩ := hslot e.slot
    rw [Core.tokSet, Core.tokSet, hf]
    cases k.slot? e.slot <;> rfl
  have hquota : (k.spilled v used chair).quota t.slot = k.quota t.slot := by
    obtain ⟨f, hf⟩ := hslot t.slot
    rw [Core.quota, Core.quota, hf]
    cases k.slot? t.slot <;> rfl
  constructor
  · simp only [Core.completes, hports]; rfl
  · simp only [Core.hasRoom, Core.inSet, hset, hquota]; rfl

/-- A chest that gives up a token has no less room. -/
theorem State.ChestHas.of_erase {s d : State} {core slot : Nat} {t : NetTok} (h : s.ChestHas core slot true)
    (hs : d.slot? core slot = s.slot? core slot) (hr : (d.core core).ranges = (s.core core).ranges)
    (hch : (d.core core).chest = (s.core core).chest.erase t) (ha : (d.core core).arrays = (s.core core).arrays) :
    d.ChestHas core slot true := by
  obtain ⟨sl, hsl, hrange, hroom⟩ := h
  refine ⟨sl, hs.trans hsl, by rw [hr]; exact hrange, decide_eq_true ?_⟩
  have hle : (((s.core core).chest.erase t).filter (·.slot = slot)).length ≤ ((s.core core).chest.filter (·.slot = slot)).length :=
    (List.erase_sublist.filter _).length_le
  have := of_decide_eq_true hroom
  simp only [Core.chestUsed, hch, ha] at this ⊢
  omega

/-- A core whose Cabinet has given up a victim and whose chest a token. -/
def Core.swapped (k : Core) (t v : NetTok) : Core := { k with cab := k.cab.erase v, chest := k.chest.erase t }

/-- A token for which its set has a way takes it. -/
theorem State.swapIn_takes {d : State} {core : Nat} {t : NetTok} (hc : core < d.cores.length)
    (hm : (d.core core).completes t = false) (hw : (d.core core).hasRoom t = true) :
    (d.swapIn core t).core core = { d.core core with cab := (d.core core).cab ++ [t] } := by
  rw [State.swapIn, if_neg (by simp [hm]), if_pos hw, State.core_modCore _ _ _ hc]

/-- What a swap leaves where the chest of the victim's context has room and the token finds a way: the victim in the chest, the
token in the Cabinet. `f` takes both from their places, and keeps the record of who was served. -/
theorem State.swap_gives {s d : State} {core : Nat} {t v : NetTok} {f : Core → Core}
    (hd : d = (s.modCore core f).spill core v ∨ ∃ chair, d = ((s.modCore core f).spill core v).perfEvent core chair 0x06 1)
    (hf : ∃ clock ages, f (s.core core) = { (s.core core).swapped t v with swapClock := clock, swapAge := ages })
    (hm : ((s.core core).swapped t v).completes t = false) (hw : ((s.core core).swapped t v).hasWay t)
    (hroom : s.ChestHas core v.slot true) :
    ((d.swapIn core t).core core).cab = (s.core core).cab.erase v ++ [t] ∧
      ((d.swapIn core t).core core).chest = (s.core core).chest.erase t ++ [v] := by
  obtain ⟨clock, ages, hf⟩ := hf
  have hc : core < s.cores.length := by
    obtain ⟨sl, hs, _⟩ := hroom
    exact State.core_lt_of_slot hs
  have hk := (State.core_modCore s core f hc).trans hf
  have hroom' : (s.modCore core f).ChestHas core v.slot true := hroom.of_erase (t := t)
    (State.slot?_modCore _ _ _ _ _ (by rw [hf]; rfl)) (by rw [hk]; rfl) (by rw [hk]; rfl) (by rw [hk]; rfl)
  obtain ⟨hlen, used, chair, hcore⟩ := State.spill_of_room hroom'
  obtain ⟨hcomp, hrm⟩ := ((s.modCore core f).core core).spilled_meets v t used chair
  rw [← hcore, hk] at hcomp hrm
  have hcomp' : (((s.modCore core f).spill core v).core core).completes t = false := hcomp.trans hm
  have hrm' : (((s.modCore core f).spill core v).core core).hasRoom t = true := hrm.trans ((Core.hasRoom_iff _ _).mpr hw)
  have hlt : core < ((s.modCore core f).spill core v).cores.length := by rw [hlen]; simpa using hc
  rcases hd with rfl | ⟨ch, rfl⟩
  · rw [State.swapIn_takes hlt hcomp' hrm', hcore, hk]
    exact ⟨rfl, rfl⟩
  · have hp := State.core_perfEvent _ core ch 0x06 1 hlt
    rw [State.swapIn_takes (by simpa using hlt) (by rw [hp]; exact hcomp') (by rw [hp]; exact hrm'), hp, hcore, hk]
    exact ⟨rfl, rfl⟩

/-- Settles O45: the victim leaves its way first, so the token finds it, and the victim goes to its chest. -/
theorem swapsGiveTheVictimsWay : Obligations.SwapsGiveTheVictimsWay := by
  intro s core row set slot cs n t v sl
  refine ⟨fun hcs ht hv hfull hpri hage hquota => ?_, fun hs ht hv hquota hage => ?_⟩
  · have hneed : (decide (((s.core core).inSet row set).length = 8) && decide ((s.core core).pri v.slot ≤ (s.core core).pri cs) &&
        decide (t.age < v.age) && ((s.core core).completes t || decide (v.slot = cs) ||
          decide (((s.core core).inRow cs row).length < (s.core core).quota cs))) = true := by
      simp [hfull, hpri, hage, or_assoc, hquota]
    have hexec := need_of hneed
    simp only [exec, execSwap, hcs, ht, hv, needSome_some, hexec]
    refine ⟨_, rfl, ?_⟩
    split
    · exact State.swap_gives (.inr ⟨_, rfl⟩) ⟨_, _, rfl⟩
    · exact State.swap_gives (.inl rfl) ⟨_, _, rfl⟩
  · have hyoung : v.age = ((s.core core).inRow slot row).foldl (fun b e => max b e.age) 0 := by
      simpa using (List.mem_filter.mp (List.mem_of_getElem? hv)).2
    have hneed : (decide (sl.quota ≤ ((s.core core).inRow slot row).length) &&
        decide (t.age < ((s.core core).inRow slot row).foldl (fun b e => max b e.age) 0)) = true := by
      simp [hquota, ← hyoung, hage]
    have hexec := need_of hneed
    have hs' : (s.core core).slot? slot = some sl := hs
    simp only [exec, execQuotaSwap, hs', ht, hv, needSome_some, hexec]
    exact ⟨_, rfl, State.swap_gives (.inr ⟨_, rfl⟩) ⟨_, _, rfl⟩⟩

end Sys2Proof.Machine

/-! PROOFS. Windows granted, blocks fetched and mapped (O46). -/

namespace Sys2Proof.Machine
open Sys2Proof

/-! ### Windows (R29, R30) -/

/-- A free window is one of the eight that no block and no grant of the slot holds. -/
theorem Slot.mem_freeWindows {sl : Slot} {w : Nat} (h : w ∈ sl.freeWindows) :
    w < 8 ∧ (∀ i ∈ sl.insts, i.win ≠ w) ∧ ∀ g ∈ sl.grants, g.win ≠ w := by
  simpa [Slot.freeWindows] using h

/-- The state once the address of a strand's next block is noted in its last block, where it has one (R29). -/
def State.noteNext (s : State) (core slot ba : Nat) : Option Inst → State
  | some i => s.modInst core slot i.age fun i => { i with next := some ba }
  | none => s

/-- Giving a grant to a slot, the address noted in the strand's last block, adds it to the slot's grants. -/
theorem State.granted_slot {s : State} {core slot : Nat} {sl : Slot} (hs : s.slot? core slot = some sl) (last : Option Inst)
    (ba : Nat) (g : Grant) : ∃ sl' : Slot, ((s.noteNext core slot ba last).modSlot core slot fun sl =>
      { sl with grants := sl.grants ++ [g] }).slot? core slot = some sl' ∧ sl'.grants = sl.grants ++ [g] := by
  cases last with
  | none => exact ⟨_, by rw [State.slot?_modSlot, State.noteNext, hs]; rfl, rfl⟩
  | some i => exact ⟨_, by rw [State.slot?_modSlot, State.noteNext, State.modInst, State.slot?_modSlot, hs]; rfl, rfl⟩

section Grant
variable {s : State} {core slot uid ba : Nat} {sl : Slot} {t : Strand}

/-- The front end serves a slot (R49). -/
theorem serves_need {b : Bool} (hb : b = true) (hstop : s.stopping sl = false) {work : Slot → Bool}
    (hserve : (s.core core).serves slot work = true) : (b && !s.stopping sl && (s.core core).serves slot work) = true := by
  simp [hb, hstop, hserve]

/-- A grant in the tagged window that it joins (R30). -/
theorem exec_windowGrant_tagged (hs : s.slot? core slot = some sl) (ht : sl.strand? uid = some t)
    (hmay : sl.mayGrant t uid ba = true) (hstop : s.stopping sl = false)
    (hserve : (s.core core).serves slot Slot.grantWaits = true) {i : Inst} (hi : sl.tagged ba = some i) :
    ∃ u sl', exec (.windowGrant core slot uid ba) s = .next u ∧ u.slot? core slot = some sl' ∧
      sl'.grants = sl.grants ++ [⟨uid, ba, i.win, false⟩] := by
  obtain ⟨sl', h, hg⟩ := State.granted_slot hs (sl.instsOf uid).getLast? ba ⟨uid, ba, i.win, false⟩
  refine ⟨_, sl', ?_, h, hg⟩
  simp only [exec, execWindowGrant, hs, ht, needSome_some, need_of (serves_need hmay hstop hserve), hi]
  rfl

/-- A grant in the first free window (R29). -/
theorem exec_windowGrant_free (hs : s.slot? core slot = some sl) (ht : sl.strand? uid = some t)
    (hmay : sl.mayGrant t uid ba = true) (hstop : s.stopping sl = false)
    (hserve : (s.core core).serves slot Slot.grantWaits = true) (hi : sl.tagged ba = none) {w : Nat}
    (hw : sl.freeWindows.head? = some w) :
    ∃ u sl', exec (.windowGrant core slot uid ba) s = .next u ∧ u.slot? core slot = some sl' ∧
      sl'.grants = sl.grants ++ [⟨uid, ba, w, false⟩] := by
  obtain ⟨sl', h, hg⟩ := State.granted_slot hs (sl.instsOf uid).getLast? ba ⟨uid, ba, w, false⟩
  refine ⟨_, sl', ?_, h, hg⟩
  simp only [exec, execWindowGrant, hs, ht, needSome_some, need_of (serves_need hmay hstop hserve), hi, hw]
  rfl

end Grant

/-! ### The doublewords of a fetch (R150) -/

/-- What a fetch reads at a doubleword: its old value, or the one that a load is writing there. -/
def State.FetchedAs (s : State) (chair : Nat) (p : Nat × Nat) (w : Word) : Prop :=
  w = BitVec.ofNat 64 (s.hbm.read p.2 8) ∨ (p.2 / 8, w) ∈ (s.chair chair).loadWords

/-- A fetch reads one word for each key, and changes nothing but the counter of free values. -/
theorem State.fetchWords_reads (s : State) (chair : Nat) (keys : List (Nat × Nat)) :
    (∃ n, (s.fetchWords chair keys).2 = { s with freeCtr := n }) ∧
      List.Forall₂ (s.FetchedAs chair) keys (s.fetchWords chair keys).1 := by
  induction keys generalizing s with
  | nil => exact ⟨⟨s.freeCtr, rfl⟩, .nil⟩
  | cons p keys ih =>
    obtain ⟨g, key⟩ := p
    simp only [State.fetchWords]
    cases hf : (s.chair chair).loadWords.find? (·.1 = key / 8) with
    | none =>
      obtain ⟨hn, hall⟩ := ih s
      exact ⟨hn, .cons (.inl rfl) hall⟩
    | some x =>
      obtain ⟨⟨n, hn⟩, hall⟩ := ih (s.draw 2).2
      refine ⟨⟨n, hn⟩, .cons ?_ hall⟩
      have hx : (key / 8, x.2) ∈ (s.chair chair).loadWords := by
        have hkey : x.1 = key / 8 := by simpa using List.find?_some hf
        rw [← hkey]
        exact List.mem_of_find?_eq_some hf
      dsimp only
      split
      · exact .inr hx
      · exact .inl rfl

/-- The words of a decoded block are those that were read, where a header was. -/
theorem decoded_words {dws : List Word} (h : 2 ≤ dws.length) : dws.getD 0 0 :: dws.getD 1 0 :: dws.drop 2 = dws := by
  match dws, h with
  | _ :: _ :: _, _ => rfl

/-- Words at one place of two lists that are related member by member are related. -/
theorem forall₂_getElem? {α β : Type} {R : α → β → Prop} {l : List α} {m : List β} (h : List.Forall₂ R l m) {j : Nat} {a : α}
    {b : β} (ha : l[j]? = some a) (hb : m[j]? = some b) : R a b := by
  obtain ⟨hl, rfl⟩ := List.getElem?_eq_some_iff.mp ha
  obtain ⟨hm, rfl⟩ := List.getElem?_eq_some_iff.mp hb
  exact h.get hl hm

/-- A word of a decoded block at the place of a word that was read is that word. -/
theorem decoded_word {dws : List Word} {j : Nat} (h : j < dws.length) :
    (dws.getD 0 0 :: dws.getD 1 0 :: dws.drop 2)[j]? = dws[j]? := by
  match dws, j, h with
  | [_], 0, _ => rfl
  | _ :: _ :: _, _, _ => rfl

/-- The first poisoned doubleword of a block, with its address. -/
def State.firstPoison (s : State) (ba : Nat) (keys : List (Nat × Nat)) : Option Nat :=
  (((blockAddrs ba keys.length).zip keys).find? fun p => s.poisoned p.2.2 8).map (·.1)

theorem getElem?_blockAddrs {ba n j : Nat} (h : j < n + 2) : (blockAddrs ba n)[j]? = some ((ba + 8 * j) % 2 ^ 64) := by
  simp [blockAddrs, h]

/-- With no poisoned doubleword, none of the block is poisoned. -/
theorem State.firstPoison_none {s : State} {ba : Nat} {keys : List (Nat × Nat)} (h : s.firstPoison ba keys = none) :
    ∀ p ∈ keys, s.poisoned p.2 8 = false := by
  intro p hp
  obtain ⟨j, hj, rfl⟩ := List.getElem_of_mem hp
  have hmem : ((ba + 8 * j) % 2 ^ 64, keys[j]) ∈ (blockAddrs ba keys.length).zip keys := by
    refine List.mem_of_getElem? (i := j) ?_
    rw [List.getElem?_zip_eq_some]
    exact ⟨getElem?_blockAddrs (by omega), List.getElem?_eq_getElem hj⟩
  have := List.find?_eq_none.mp (Option.map_eq_none_iff.mp h) _ hmem
  simpa using this

/-- The poisoned doubleword that a fetch meets first stands at its address. -/
theorem State.firstPoison_some {s : State} {ba va : Nat} {keys : List (Nat × Nat)} (h : s.firstPoison ba keys = some va) :
    ∃ (j : Nat) (p : Nat × Nat), keys[j]? = some p ∧ s.poisoned p.2 8 = true ∧ va = (ba + 8 * j) % 2 ^ 64 := by
  obtain ⟨⟨a, p⟩, hfind, rfl⟩ := Option.map_eq_some_iff.mp h
  obtain ⟨j, hj⟩ := List.getElem?_of_mem (List.mem_of_find?_eq_some hfind)
  obtain ⟨ha, hp⟩ := List.getElem?_zip_eq_some.mp hj
  refine ⟨j, p, hp, by simpa using List.find?_some hfind, ?_⟩
  have hlt : j < keys.length := (List.getElem?_eq_some_iff.mp hp).1
  rw [getElem?_blockAddrs (by omega)] at ha
  exact (Option.some.inj ha).symm

/-! ### A block that is fetched (R308, R357) -/

/-- What a core keeps of a block that it has read. -/
def Grant.decoded (g : Grant) (sl : Slot) (dws : List Word) (poison : Option Nat) : Decoded :=
  ⟨sl.chair, sl.asid, g.ba, dws.getD 0 0, dws.getD 1 0, dws.drop 2, poison⟩

/-- A core keeps the block of a grant that it does not keep yet; poison in it is a deferred error (R308, R316). -/
def State.keepBlock (s : State) (core : Nat) (sl : Slot) (g : Grant) (d : Decoded) : State :=
  if ((s.core core).cached sl g).isSome then s else
    let s := s.modCore core fun k => { k with code := k.code ++ [d] }
    if d.poison.isSome then s.modErr core 2 fun e => e.defer g.ba else s

theorem State.keepBlock_slot (s : State) (core : Nat) (sl : Slot) (g : Grant) (d : Decoded) (i : Nat) :
    (s.keepBlock core sl g d).slot? core i = s.slot? core i := by
  have hcode : (s.modCore core fun k => { k with code := k.code ++ [d] }).slot? core i = s.slot? core i :=
    State.slot?_modCore _ _ _ _ _ rfl
  simp only [State.keepBlock]
  split
  · rfl
  · split
    · exact (State.slot?_modCore _ _ _ _ _ rfl).trans hcode
    · exact hcode

theorem State.keepBlock_code {s : State} {core : Nat} (hc : core < s.cores.length) {sl : Slot} {g : Grant}
    (hnone : (s.core core).cached sl g = none) (d : Decoded) :
    ((s.keepBlock core sl g d).core core).code = (s.core core).code ++ [d] := by
  have hcode : ((s.modCore core fun k => { k with code := k.code ++ [d] }).core core).code = (s.core core).code ++ [d] := by
    rw [State.core_modCore _ _ _ hc]
  simp only [State.keepBlock, hnone, Option.isSome_none, Bool.false_eq_true, if_false]
  split
  · rw [State.modErr, State.core_modCore _ _ _ (by simpa using hc)]
    exact hcode
  · exact hcode

theorem State.keepBlock_length (s : State) (core : Nat) (sl : Slot) (g : Grant) (d : Decoded) :
    (s.keepBlock core sl g d).cores.length = s.cores.length := by
  simp only [State.keepBlock, State.modErr]
  split
  · rfl
  · split <;> simp

section Fetch
variable {s : State} {core slot : Nat} {sl : Slot} {t : Strand} {g : Grant}

/-- A slot whose front end serves it fetches the block of its next grant: read as it stands, kept, and its grant fetched. -/
theorem exec_blockFetch_ok (hs : s.slot? core slot = some sl) (hg : (s.core core).toFetch sl = some g)
    (ht : sl.strand? g.uid = some t) (hstop : s.stopping sl = false)
    (hserve : (s.core core).serves slot (fun x => ((s.core core).toFetch x).isSome) = true) {keys : List (Nat × Nat)}
    (hk : fetchBlock s core sl (!t.priv) g.ba = .ok keys) :
    ∃ n dws, List.Forall₂ (s.FetchedAs sl.chair) keys dws ∧ exec (.blockFetch core slot) s =
      .next ((({ s with freeCtr := n } : State).keepBlock core sl g (g.decoded sl dws (s.firstPoison g.ba keys))).modSlot
        core slot fun sl => { sl with grants := sl.grants.map fun x => if x.uid = g.uid then { x with fetched := true } else x }) := by
  obtain ⟨⟨n, hn⟩, hall⟩ := s.fetchWords_reads sl.chair keys
  refine ⟨n, (s.fetchWords sl.chair keys).1, hall, ?_⟩
  have hneed := need_of (serves_need (b := true) rfl hstop hserve)
  simp only [Bool.true_and] at hneed
  simp only [exec, execBlockFetch, hs, hg, ht, needSome_some, hneed, hk, hn]
  rfl

/-- The fetched grant of a strand is marked so. -/
theorem Slot.fetched_of_grant (sl : Slot) (g : Grant) : ∀ h ∈ sl.grants.map fun x =>
    if x.uid = g.uid then { x with fetched := true } else x, h.uid = g.uid → h.fetched = true := by
  intro h hh huid
  obtain ⟨x, _, rfl⟩ := List.mem_map.mp hh
  split at huid
  · rw [if_pos ‹_›]
  · exact absurd huid ‹_›

/-- The block in flight that a failed fetch leaves, but for its fault: dead, of no words (R357). -/
def Grant.shell (g : Grant) (age : Nat) : Inst := { Inst.fresh age g.uid g.ba g.win 0 0 [] with dead := true }

/-- A slot once the block of a grant has entered it. -/
def Slot.entered (sl : Slot) (g : Grant) (i : Inst) : Slot :=
  { sl with grants := sl.grants.filter (·.uid ≠ g.uid), insts := sl.insts ++ [i], nextAge := sl.nextAge + 1 }

/-- A grant that has become a block in flight, under the slot's next age number (R31). -/
theorem State.slot?_addInst (hs : s.slot? core slot = some sl) (g : Grant) (f : Nat → Inst) :
    ((s.modSlot core slot fun sl => { sl with grants := sl.grants.filter (·.uid ≠ g.uid) }).addInst core slot f).slot? core slot =
      some (sl.entered g (f sl.nextAge)) := by
  rw [State.addInst, State.slot?_modSlot, State.slot?_modSlot, hs]
  rfl

/-- What a failed translation consumed is counted, and no core changes. -/
theorem State.cores_noteTrans (s : State) (e : TransErr) : (s.noteTrans e).cores = s.cores := by
  cases e <;> rfl

/-- A fetch that faults leaves a dead block with the fault at slot 0 (R357). -/
theorem exec_blockFetch_fault (hs : s.slot? core slot = some sl) (hg : (s.core core).toFetch sl = some g)
    (ht : sl.strand? g.uid = some t) (hstop : s.stopping sl = false)
    (hserve : (s.core core).serves slot (fun x => ((s.core core).toFetch x).isSome) = true) {va : Nat} {e : TransErr}
    (hk : fetchBlock s core sl (!t.priv) g.ba = .error (va, e)) (he : e.stage = none) :
    ∃ u, exec (.blockFetch core slot) s = .next u ∧
      u.slot? core slot = some (sl.entered g { g.shell sl.nextAge with faults := [⟨e.code, true, 0, va, 0⟩] }) := by
  have hneed := need_of (serves_need (b := true) rfl hstop hserve)
  simp only [Bool.true_and] at hneed
  simp only [exec, execBlockFetch, hs, hg, ht, needSome_some, hneed, hk, he]
  refine ⟨_, rfl, ?_⟩
  rw [State.slot?_of_cores (State.cores_noteTrans _ e), State.slot?_addInst hs]
  rfl

/-- A fetch that finds an entry missing is held, and its block waits (R357). -/
theorem exec_blockFetch_held (hs : s.slot? core slot = some sl) (hg : (s.core core).toFetch sl = some g)
    (ht : sl.strand? g.uid = some t) (hstop : s.stopping sl = false)
    (hserve : (s.core core).serves slot (fun x => ((s.core core).toFetch x).isSome) = true) {va st : Nat} {e : TransErr}
    (hk : fetchBlock s core sl (!t.priv) g.ba = .error (va, e)) (he : e.stage = some st) :
    ∃ u, exec (.blockFetch core slot) s = .next u ∧ u.slot? core slot = some (sl.entered g (g.shell sl.nextAge)) ∧
      (u.core core).held = (s.core core).held ++ [⟨slot, sl.nextAge, 0, none, va, false, 0, st, .again⟩] := by
  have hneed := need_of (serves_need (b := true) rfl hstop hserve)
  simp only [Bool.true_and] at hneed
  have hc := State.core_lt_of_slot hs
  simp only [exec, execBlockFetch, hs, hg, ht, needSome_some, hneed, hk, he]
  refine ⟨_, rfl, ?_, ?_⟩
  · rw [State.slot?_modCore _ _ _ _ _ rfl, State.slot?_of_cores (State.cores_noteTrans _ e), State.slot?_perfEvent,
      State.slot?_addInst hs]
    rfl
  · rw [State.core_modCore _ _ _ (by simpa [State.cores_noteTrans, State.addInst] using hc)]
    have hcore : ∀ d : State, (d.noteTrans e).core core = d.core core := fun d => by
      rw [State.core, State.cores_noteTrans]; rfl
    rw [hcore, State.core_perfEvent _ _ _ _ _ (by simpa [State.addInst] using hc), State.addInst,
      State.core_modSlot _ _ _ _ (by simpa using hc), State.core_modSlot _ _ _ _ hc]

/-! ### A block that is mapped (R31, R121) -/

/-- The block in flight that a fetched block becomes, under the next age number and in the window that it joins (R30, R31). -/
def Grant.mapped (g : Grant) (sl : Slot) (d : Decoded) : Inst :=
  let joined : Option Inst := if hdrTg d.h0 then sl.tagged g.ba else none
  Inst.fresh sl.nextAge g.uid g.ba ((joined.map (·.win)).getD g.win) d.h0 d.h1 d.words

/-- What mapping finds of a block: its first poisoned doubleword, else its first violation (R121, R308). -/
def Grant.mapFault (g : Grant) (sl : Slot) (t : Strand) (d : Decoded) : Option FaultRec :=
  match d.poison with
  | some va => some ⟨FC.uncorrectable, true, 0, va, 0⟩
  | none => mapCheck (g.mapped sl d) (!t.priv)

/-- The state once a fetched block has entered its slot with what mapping finds of it. -/
def State.mapped (s : State) (core slot : Nat) (sl : Slot) (t : Strand) (g : Grant) (d : Decoded) : State :=
  (s.modSlot core slot fun sl => { sl with grants := sl.grants.filter (·.uid ≠ g.uid) }).addInst core slot fun age =>
    { g.mapped sl d with age := age, faults := (g.mapFault sl t d).toList, dead := (g.mapFault sl t d).isSome }

/-- A fetched block becomes a block in flight with what mapping finds of it; with no fault, what needs no token is ready. -/
theorem exec_blockMapping (hs : s.slot? core slot = some sl) (hg : (s.core core).toMap sl = some g)
    (ht : sl.strand? g.uid = some t) (hstop : s.stopping sl = false)
    (hserve : (s.core core).serves slot (fun x => ((s.core core).toMap x).isSome) = true) {d : Decoded}
    (hd : (s.core core).cached sl g = some d) :
    ∃ u, exec (.blockMapping core slot) s = .next u ∧
      u.slot? core slot = some (sl.entered g { g.mapped sl d with
        faults := (g.mapFault sl t d).toList, dead := (g.mapFault sl t d).isSome }) ∧
      (g.mapFault sl t d = none →
        (u.core core).ready = (s.core core).ready ++ startMatches (g.mapped sl d) slot sl.pri) := by
  have hneed := need_of (serves_need (b := true) rfl hstop hserve)
  simp only [Bool.true_and] at hneed
  have hc := State.core_lt_of_slot hs
  have hexec : exec (.blockMapping core slot) s = if (g.mapFault sl t d).isSome then .next (s.mapped core slot sl t g d)
      else .next ((s.mapped core slot sl t g d).modCore core fun k =>
        { k with ready := k.ready ++ startMatches (g.mapped sl d) slot sl.pri }) := by
    simp only [exec, execBlockMapping, hs, hg, hd, ht, needSome_some, hneed, State.mapped, Grant.mapFault, Grant.mapped]
    cases hdrTg d.h0 <;> cases sl.tagged g.ba <;> rfl
  have hslot : (s.mapped core slot sl t g d).slot? core slot = some (sl.entered g { g.mapped sl d with
      faults := (g.mapFault sl t d).toList, dead := (g.mapFault sl t d).isSome }) := State.slot?_addInst hs g _
  rw [hexec]
  cases hf : g.mapFault sl t d with
  | some f =>
    rw [hf] at hslot
    exact ⟨_, rfl, hslot, fun h => by cases h⟩
  | none =>
    rw [hf] at hslot
    refine ⟨_, rfl, (State.slot?_modCore _ _ _ _ _ rfl).trans hslot, fun _ => ?_⟩
    rw [State.core_modCore _ _ _ (by simpa [State.mapped, State.addInst] using hc), State.mapped, State.addInst,
      State.core_modSlot _ _ _ _ (by simpa using hc), State.core_modSlot _ _ _ _ hc]

end Fetch

/-! ### Entries that a build drops (R308, R334) -/

/-- A core with something in one of its lists is a core of the package. -/
theorem State.core_lt_of_length {α : Type} {s : State} {core n : Nat} {f : Core → List α} (h : n < (f (s.core core)).length)
    (hr : f .reset = []) : core < s.cores.length := by
  by_contra hc
  rw [State.core_none _ (Nat.le_of_not_lt hc), hr] at h
  simp at h

theorem exec_tlbDrop {s : State} {core n : Nat} (h : n < (s.core core).tlb.length) :
    ∃ u, exec (.l1TlbEntryDrop core n) s = .next u ∧ (u.core core).tlb = (s.core core).tlb.eraseIdx n := by
  refine ⟨_, need_of (decide_eq_true h) _, ?_⟩
  rw [State.core_modCore _ _ _ (State.core_lt_of_length h rfl)]

theorem exec_codeDrop {s : State} {core n : Nat} (h : n < (s.core core).code.length) :
    ∃ u, exec (.decodedBlockEviction core n) s = .next u ∧ (u.core core).code = (s.core core).code.eraseIdx n := by
  refine ⟨_, need_of (decide_eq_true h) _, ?_⟩
  rw [State.core_modCore _ _ _ (State.core_lt_of_length h rfl)]

/-! ### The statement -/

/-- Settles O46: a grant, a fetch and a mapping each leave what their rules say of the slot. -/
theorem blocksEnterTheirStrand : Obligations.BlocksEnterTheirStrand := by
  intro s core slot uid ba sl t g hs
  refine ⟨fun ht hmay hserved => ?_, fun hg ht hserved => ?_, fun hg ht hserved d hd => ?_, fun n => exec_tlbDrop,
    fun n => exec_codeDrop⟩
  · obtain ⟨hstop, hserve⟩ := hserved
    refine ⟨fun i hi => exec_windowGrant_tagged hs ht hmay hstop hserve hi, fun hi w hw => ?_⟩
    obtain ⟨h8, hinsts, hgrants⟩ := Slot.mem_freeWindows (List.mem_of_mem_head? hw)
    exact ⟨h8, hinsts, hgrants, exec_windowGrant_free hs ht hmay hstop hserve hi hw⟩
  · obtain ⟨hstop, hserve⟩ := hserved
    refine ⟨fun keys hk => ?_, fun va e hk => ?_⟩
    · obtain ⟨n, dws, hall, hexec⟩ := exec_blockFetch_ok hs hg ht hstop hserve hk
      have hs' : ({ s with freeCtr := n } : State).slot? core slot = some sl := hs
      refine ⟨_, _, hexec, by rw [State.slot?_modSlot, State.keepBlock_slot, hs']; rfl, ?_,
        fun hnone => ⟨g.decoded sl dws (s.firstPoison g.ba keys), ?_, rfl, rfl, rfl, ?_, ?_, State.firstPoison_none,
          fun va => State.firstPoison_some⟩⟩
      · exact Slot.fetched_of_grant sl g
      · rw [State.core_modSlot _ _ _ _ (by simpa [State.keepBlock_length] using State.core_lt_of_slot hs)]
        exact State.keepBlock_code (s := { s with freeCtr := n }) (State.core_lt_of_slot hs) hnone _
      · intro h2
        rw [hall.length_eq] at h2 ⊢
        exact congrArg List.length (decoded_words h2)
      · intro j p w hp hw
        have hj := (List.getElem?_eq_some_iff.mp hp).1
        rw [hall.length_eq] at hj
        exact forall₂_getElem? hall hp ((decoded_word hj).symm.trans hw)
    · cases he : e.stage with
      | none =>
        obtain ⟨u, hexec, hslot⟩ := exec_blockFetch_fault hs hg ht hstop hserve hk he
        exact ⟨u, _, hexec, hslot, fun _ => rfl, fun st h => by cases h⟩
      | some st =>
        obtain ⟨u, hexec, hslot, hheld⟩ := exec_blockFetch_held hs hg ht hstop hserve hk he
        exact ⟨u, _, hexec, hslot, fun h => (by cases h), fun st h => (by cases h; exact ⟨rfl, hheld⟩)⟩
  · obtain ⟨hstop, hserve⟩ := hserved
    obtain ⟨u, hexec, hslot, hready⟩ := exec_blockMapping hs hg ht hstop hserve hd
    refine ⟨fun va hp => ?_, fun hp f hf => ?_, fun hp hf => ?_⟩
    · have hm : g.mapFault sl t d = some ⟨FC.uncorrectable, true, 0, va, 0⟩ := by simp [Grant.mapFault, hp]
      rw [hm] at hslot
      exact ⟨u, _, hexec, hslot, rfl⟩
    · have hm : g.mapFault sl t d = some f := by simp only [Grant.mapFault, hp]; exact hf
      rw [hm] at hslot
      exact ⟨u, _, hexec, hslot, rfl⟩
    · have hm : g.mapFault sl t d = none := by simp only [Grant.mapFault, hp]; exact hf
      rw [hm] at hslot
      exact ⟨u, _, hexec, hslot, rfl, hready hm⟩

end Sys2Proof.Machine

/-! PROOFS. A block commits in one step (O47). -/

namespace Sys2Proof.Machine

open Sys2Proof

variable {s : State} {core slot : Nat} {sl : Slot} {i : Inst} {t : Strand} {e : ExitRec}

/-! ### What the commit leaves -/

/-- An exit leaves a strand its identity. -/
theorem Strand.uid_exitTo {t' : Strand} (h : t.exitTo i e = some t') : t'.uid = t.uid := by
  cases e <;> simp only [Strand.exitTo, Option.some.injEq, reduceCtorEq] at h <;> subst h <;> rfl

/-- A strand found by its number, set to another of the same number, is found again. -/
theorem Slot.strand?_set {t' : Strand} (h : sl.strand? i.uid = some t) (hu : t'.uid = i.uid) :
    ({ sl with strands := sl.strands.map fun (x : Strand) => if x.uid = i.uid then t' else x } : Slot).strand? i.uid = some t' := by
  simp only [Slot.strand?, List.find?_map, Function.comp_def] at h ⊢
  rw [show (fun x : Strand => decide ((if x.uid = i.uid then t' else x).uid = i.uid)) = fun x => decide (x.uid = i.uid) from
    funext fun x => by split <;> simp_all, h]
  simpa using fun hne => absurd (by simpa using List.find?_some h) hne

/-- A strand that has ended is found no more. -/
theorem Slot.strand?_endStrand (hu : t.uid = i.uid) : (sl.endStrand t).strand? i.uid = none := by
  refine List.find?_eq_none.mpr fun x hx => ?_
  simpa [hu] using (List.mem_filter.mp hx).2

/-- A fork record of which no iteration has ended outlives its creator (R170). -/
theorem Slot.mem_forks_endStrand {r : ForkRec} (hr : r ∈ sl.forks) (hn : r.n ≠ 0) (he : r.ended = []) :
    r ∈ (sl.endStrand t).forks := by
  refine List.mem_filter.mpr ⟨hr, ?_⟩
  simp [ForkRec.allEnded, he, Ne.symm hn]

/-- The two contexts agree on what neither an exit nor a discard changes. -/
structure Slot.SameSettings (a b : Slot) : Prop where
  post : b.post = a.post
  trapv : b.trapv = a.trapv
  ctxpri : b.ctxpri = a.ctxpri
  cabq : b.cabq = a.cabq
  taps : b.taps = a.taps
  xcnt : b.xcnt = a.xcnt

theorem Slot.SameSettings.trans {a b c : Slot} (h : a.SameSettings b) (g : b.SameSettings c) : a.SameSettings c :=
  ⟨g.post.trans h.post, g.trapv.trans h.trapv, g.ctxpri.trans h.ctxpri, g.cabq.trans h.cabq, g.taps.trans h.taps, g.xcnt.trans h.xcnt⟩

theorem Slot.Thin.sameSettings {a b : Slot} (h : a.Thin b) : a.SameSettings b where
  post := congrArg (·.post) h.rest
  trapv := congrArg (·.trapv) h.rest
  ctxpri := congrArg (·.ctxpri) h.rest
  cabq := congrArg (·.cabq) h.rest
  taps := congrArg (·.taps) h.rest
  xcnt := congrArg (·.xcnt) h.rest

theorem Slot.Thin.strand? {a b : Slot} (h : a.Thin b) (uid : Nat) : b.strand? uid = a.strand? uid :=
  congrArg (·.strand? uid) h.rest

theorem Slot.Thin.ending {a b : Slot} (h : a.Thin b) : b.ending = a.ending := congrArg (·.ending) h.rest

/-- The commit of a block whose stores have joined the committed order leaves what `Committed` says. -/
theorem State.committed_commit {r : State} {is : List Inst} {post : List Post} {ps : List PStore} {ws : List WaitRec} {b : Bool}
    (hs : s.slot? core slot = some { sl with insts := is, post := post }) (ht : sl.strand? i.uid = some t) (he : i.exits = [e])
    (hm : r.SameMem s) (hch : ∀ n, (s.chair n).chctl = (r.chair n).chctl) :
    r.Committed (s.commit core slot { sl with insts := is, post := post } { i with stores := ps, waits := ws, committing := b })
      core slot sl i t e post := by
  obtain ⟨hmem, slC, t4, slD, slE, sl', hsl', hgone, hthin, hD, hpost, hforks, hending, ht4, hregs, hgo, hend, hcsr, htap, hcnt, hfork⟩ :=
    State.commit_leaves (i := { i with stores := ps, waits := ws, committing := b }) hs ht he
  have huid : t.uid = i.uid := by simpa using List.find?_some ht
  have hset : slC.SameSettings { sl' with xcnt := slC.xcnt } ∧ sl'.xcnt = slD.xcnt := by
    have hE : slD.SameSettings slE := by
      cases h : t4.exitTo i e with
      | some t' => rw [hgo t' h]; exact ⟨rfl, rfl, rfl, rfl, rfl, rfl⟩
      | none => rw [hend h]; exact ⟨rfl, rfl, rfl, rfl, rfl, rfl⟩
    obtain ⟨h1, h2, h3, h4, h5, h6⟩ := hE.trans hthin.sameSettings
    rw [hD] at h1 h2 h3 h4 h5
    exact ⟨⟨h1, h2, h3, h4, h5, rfl⟩, h6⟩
  obtain ⟨⟨hpost', htrapv, hctxpri, hcabq, htaps, -⟩, hxcnt⟩ := hset
  have hstrands : slD.strands = slC.strands := by rw [hD]
  have hstrandD : slD.strand? i.uid = some t4 := by rw [Slot.strand?, hstrands]; exact ht4
  refine ⟨sl', hsl', hgone, hpost'.trans hpost, hmem.hbm.trans hm.hbm, fun c => (hmem.mem c).trans (hm.mem c), ?strand, ?_, ?_, ?_, ?_, ?_⟩
  case strand =>
    intro hno
    obtain rfl := hregs hno
    refine ⟨fun t' h => ?_, fun h => ?_⟩
    · rw [hthin.strand?, hgo t' h]
      exact Slot.strand?_set hstrandD ((Strand.uid_exitTo h).trans ((applyWs_uid t i).trans huid))
    · rw [hthin.strand?, hthin.ending, hend h]
      refine ⟨Slot.strand?_endStrand ((applyWs_uid t i).trans huid), ?_⟩
      obtain ⟨hfork', hiter, -, -⟩ := applyWs_fork t i
      have hendD : slD.ending = sl.ending := hending ▸ congrArg (·.ending) hD
      show slD.ending ++ [⟨(i.regsAfter t).uid, (i.regsAfter t).fork, (i.regsAfter t).iter.toNat⟩] = _
      rw [hendD, Inst.regsAfter, applyWs_uid, hfork', hiter, huid]
  · rintro v ⟨k, hk, ha⟩
    exact htrapv.trans ((hcsr k hk _ v ha).1 rfl)
  · rintro v ⟨k, hk, ha⟩
    rw [← hch]
    exact hctxpri.trans ((hcsr k hk _ v ha).2.1 rfl)
  · rintro v ⟨k, hk, ha⟩
    exact hcabq.trans ((hcsr k hk _ v ha).2.2 rfl)
  · rintro n v ⟨k, hk, ha⟩
    obtain ⟨htap', hxcnt'⟩ := htap k hk n v ha
    exact ⟨htaps.trans htap', fun hno => (hxcnt.trans (hcnt hno)).trans hxcnt'⟩
  · rintro n b ba h hn ⟨k, hk, ha⟩
    have hno : ∀ k c v, (k, KAct.csr c v) ∉ i.kacts := by rw [ha]; simp
    obtain rfl := hregs hno
    obtain ⟨spawn, hnew⟩ := hfork k hk n b ba h ha
    obtain ⟨-, -, htag, htraps⟩ := applyWs_fork t i
    let q : ForkRec := ⟨slC.freeRecord, h, n, b, ba, t.tag, t.priv, (i.regsAfter t).g, (i.regsAfter t).v, i.uid, [], 0, spawn, [], none, []⟩
    have hadd : q ∈ (slC.addFork (i.regsAfter t) spawn n b ba h).forks := by
      refine List.mem_append_right _ (List.mem_singleton.mpr ?_)
      simp only [q, Inst.regsAfter, Strand.priv, htag, htraps, applyWs_uid, huid]
    have hq : q ∈ slD.forks := by rw [hnew]; exact hadd
    have hqE : q ∈ slE.forks := by
      cases hx : (i.regsAfter t).exitTo i e with
      | some t' => rw [hgo t' hx]; exact hq
      | none => rw [hend hx]; exact Slot.mem_forks_endStrand hq hn rfl
    exact ⟨q, hthin.forks q hqE rfl, rfl, rfl, rfl, rfl, rfl, rfl, rfl, rfl, rfl, rfl, rfl, rfl⟩

/-! ### How a commit begins -/

/-- What commit reads of the grants of its tap values counts errors alone (R270, R350). -/
theorem State.noteTaps_eq (s : State) (sl : Slot) (i : Inst) : ∃ x, s.noteTaps sl i = { s with stackErrs := x } := by
  refine foldl_keeps (P := fun r => ∃ x, r = { s with stackErrs := x }) (fun r a hr => ?_) _ _ ⟨s.stackErrs, rfl⟩
  obtain ⟨x, rfl⟩ := hr
  split
  · split <;> exact ⟨_, rfl⟩
  · exact ⟨x, rfl⟩

/-- Stores that have their translations and an LSID each stand as they are when walked afresh (R198). -/
theorem Inst.stores_map_storesInOrder (h : ∀ p ∈ i.stores, ∀ q ∈ i.stores, p.lsid = q.lsid → p = q) :
    (i.stores.map fun p => (i.storesInOrder.find? (·.lsid = p.lsid)).getD p) = i.stores := by
  refine (List.map_congr_left fun p hp => ?_).trans i.stores.map_id
  cases hq : i.storesInOrder.find? (·.lsid = p.lsid) with
  | none => rfl
  | some q =>
    have hql : q.lsid = p.lsid := by simpa using List.find?_some hq
    exact h q (Inst.mem_storesInOrder.mp (List.mem_of_find?_eq_some hq)).1 p hp hql

namespace State.Commits

theorem uid (h : s.Commits core slot sl i t e) : t.uid = i.uid := by simpa using List.find?_some h.strand

/-- A block that stands ready has no fault (R46). -/
theorem faults (h : s.Commits core slot sl i t e) : i.faults = [] := by
  have hr := h.ready
  simp only [State.commitReady, Bool.and_eq_true, List.isEmpty_iff] at hr
  exact hr.1.1.1.1.2

/-- The commit of a block is its first act, or the rest of it. -/
theorem exec_eq (h : s.Commits core slot sl i t e) : exec (.blockCommit core slot i.age) s =
    if i.committing then .next (s.commitNow core slot i.age) else s.commitFirst core slot sl t i i.storesInOrder := by
  have hwalk : s.rewalks core sl (!t.priv) i.storesInOrder = (s, none, i.storesInOrder) :=
    State.rewalks_known fun p hp => h.known p (Inst.mem_storesInOrder.mp hp).1
  simp only [exec, execBlockCommit, h.context, h.inst, h.strand, h.ready, h.free, h.chains, needSome_some, Bool.and_self,
    need_of, List.filterMap_nil, List.append_nil, hwalk, Inst.stores_map_storesInOrder h.apart]

/-- With no fault found and no poison met, the first act depends on the atomics alone (R46, R163, R204). -/
theorem commitFirst_eq (h : s.Commits core slot sl i t e) (hb : i.committing = false) :
    s.commitFirst core slot sl t i i.storesInOrder =
      if !i.stores.any (·.amo.isSome) then
        .next (((s.noteTaps sl i).beginCommit core slot i i.storesInOrder).commitNow core slot i.age)
      else if i.lnkFromAmo && decide (i.exits = [.ret]) then
        need ((s.noteTaps sl i).directMay core slot sl i) <| .next ((s.noteTaps sl i).commitDirect core slot sl i i.storesInOrder)
      else .next ((s.noteTaps sl i).beginCommit core slot i i.storesInOrder) := by
  obtain ⟨x, hx⟩ := s.noteTaps_eq sl i
  have hchains : (s.noteTaps sl i).reservations core slot i.age = [] := by rw [hx]; exact h.chains
  simp only [State.commitFirst, h.sound hb, h.clean, hchains, List.any_nil, Bool.not_false, Bool.and_true]

/-- Once the commit has begun, the stores and fences stand in the committed order and the block is one whose commit has
begun (R46, R281). -/
theorem begun (h : s.Commits core slot sl i t e) :
    let b := (s.noteTaps sl i).beginCommit core slot i i.storesInOrder
    (∃ is, b.slot? core slot = some { sl with insts := is, post := sl.post ++ i.postOf } ∧
      is.find? (·.age = i.age) = some { i with stores := [], waits := [], committing := true }) ∧
    s.SameMem b ∧ ∀ n, (b.chair n).chctl = (s.chair n).chctl := by
  obtain ⟨x, hx⟩ := s.noteTaps_eq sl i
  have hs : (s.noteTaps sl i).slot? core slot = some sl := by rw [hx]; exact h.context
  obtain ⟨hslot, hmem, hctl⟩ := State.beginCommit_slot (i := i) hs i.storesInOrder
  rw [hx] at hslot hmem hctl ⊢
  refine ⟨⟨_, hslot, ?_⟩, ⟨hmem.hbm, hmem.len, hmem.mem⟩, hctl⟩
  refine (find?_inst_map (f := fun x : Inst => { x with stores := [], waits := [], committing := true }) fun _ hx => hx).trans ?_
  rw [show sl.insts.find? (·.age = i.age) = some i from h.inst]; rfl

end State.Commits

/-- Steps 2 to 5, with the block and its strand at hand. -/
theorem State.commitNow_eq {age : Nat} (hs : s.slot? core slot = some sl) (hi : sl.inst? age = some i) (ht : sl.strand? i.uid = some t) :
    s.commitNow core slot age =
      if i.retMisaligned t then s.record core slot age (.plain FC.alignment) else s.commit core slot sl i := by
  simp only [State.commitNow, hs, hi, Option.bind_some, ht]

namespace State.Commits

/-- A block without atomics commits in one act (R46). -/
theorem commits_without_atomics (h : s.Commits core slot sl i t e) (hb : i.committing = false)
    (hno : ¬∃ p ∈ i.stores, p.amo.isSome = true) :
    ∃ u, exec (.blockCommit core slot i.age) s = .next u ∧ s.Committed u core slot sl i t e (sl.post ++ i.postOf) := by
  have hany : i.stores.any (·.amo.isSome) = false := by simpa using hno
  obtain ⟨⟨is, hs, hi⟩, hmem, hctl⟩ := h.begun
  have halign : i.retMisaligned t = false := by
    have hlnk : i.lnkFromAmo = false := by
      simp only [Inst.lnkFromAmo, List.any_eq_false, Bool.and_eq_true, not_and]
      exact fun p hp ha => absurd ⟨p, hp, ha⟩ hno
    have hsound := h.sound hb
    simp only [State.commitFaults, List.append_eq_nil_iff] at hsound
    simpa [hlnk] using hsound.1.1.1
  refine ⟨_, ?_, State.committed_commit (ps := []) (ws := []) (b := true) hs h.strand h.exit hmem hctl⟩
  rw [h.exec_eq, hb, if_neg Bool.false_ne_true, h.commitFirst_eq hb, hany, Bool.not_false, if_pos rfl, State.commitNow_eq hs hi h.strand]
  exact congrArg _ (if_neg (Bool.eq_false_iff.mp halign))

/-- A block whose commit had begun, its atomics returned, commits (R204). -/
theorem commits_begun (h : s.Commits core slot sl i t e) (hb : i.committing = true) (halign : i.retMisaligned t = false) :
    ∃ u, exec (.blockCommit core slot i.age) s = .next u ∧ s.Committed u core slot sl i t e sl.post := by
  have hexec : exec (.blockCommit core slot i.age) s = .next (s.commit core slot sl i) := by
    rw [h.exec_eq, hb, if_pos rfl, State.commitNow_eq h.context h.inst h.strand, if_neg (Bool.eq_false_iff.mp halign)]
  exact ⟨_, hexec, State.committed_commit (is := sl.insts) (ps := i.stores) (ws := i.waits) (b := i.committing)
    h.context h.strand h.exit (.rfl' s) fun _ => rfl⟩

/-- ALIGNMENT recorded against a block that stands ready is its one fault (R163). -/
theorem block?_record (h : s.Commits core slot sl i t e) {r : State} (hr : ∀ c n, r.slot? c n = s.slot? c n) (f : FaultRec) :
    (r.record core slot i.age f).block? core slot i.age = some { i with faults := [f] } := by
  have hblock : r.block? core slot i.age = some i := Option.bind_eq_some_iff.mpr ⟨sl, (hr _ _).trans h.context, h.inst⟩
  rw [(State.record_leaves hblock f).2, h.faults]; rfl

/-- A RET whose address the block's atomics made misaligned raises ALIGNMENT (R163). -/
theorem ret_misaligned (h : s.Commits core slot sl i t e) (hb : i.committing = true) (halign : i.retMisaligned t = true) :
    exec (.blockCommit core slot i.age) s = .next (s.record core slot i.age (.plain FC.alignment)) := by
  rw [h.exec_eq, hb, if_pos rfl, State.commitNow_eq h.context h.inst h.strand, if_pos halign]

/-- A block with atomics begins its commit, unless a RET of it goes where an atomic decides (R204). -/
theorem begins (h : s.Commits core slot sl i t e) (hb : i.committing = false) (hamo : ∃ p ∈ i.stores, p.amo.isSome = true)
    (hret : i.lnkFromAmo = true → i.exits ≠ [.ret]) :
    exec (.blockCommit core slot i.age) s = .next ((s.noteTaps sl i).beginCommit core slot i i.storesInOrder) := by
  have hany : i.stores.any (·.amo.isSome) = true := by simpa using hamo
  have hdirect : (i.lnkFromAmo && decide (i.exits = [.ret])) = false := by simpa using hret
  rw [h.exec_eq, hb, if_neg Bool.false_ne_true, h.commitFirst_eq hb, hany, hdirect]; rfl

end State.Commits

/-! ### Atomics that decide where a RET goes -/

/-- Stores and atomics that are applied change of their block its write slots alone (R204). -/
theorem State.exits_applyDirect {age : Nat} {j : Inst} (hj : s.block? core slot age = some j) (ps : List PStore) :
    ∃ j', (s.applyDirect core slot age sl ps).block? core slot age = some j' ∧ j'.exits = j.exits := by
  induction ps generalizing s j with
  | nil => exact ⟨j, hj, rfl⟩
  | cons p ps ih =>
    have hstored : (s.applyStore core sl p).1.block? core slot age = some j := by
      rw [State.block?, (s.applyStore_keeps core sl p).2]; exact hj
    exact ih (j := { j with ws := j.ws.map (p.back (s.applyStore core sl p).2) }) (State.block_amoReturn hstored p _)

/-- The committed order of a context without the stores of a block that have been applied (R163, log entry 27). -/
def Slot.unposted (x : Slot) (age : Nat) : Slot :=
  { x with post := x.post.filter fun p => !(decide (p.age = age) && match p.act with
    | .store _ => true
    | _ => false) }

/-- The commit of a block whose atomics are applied in its act, as they leave its context (R163). -/
theorem State.commitDirect_eq {ps : List PStore} {x : Slot} {j : Inst} {r : Strand} :
    let d := (s.beginCommit core slot i ps).applyDirect core slot i.age sl i.storesInOrder
    d.slot? core slot = some x → x.inst? i.age = some j → x.strand? j.uid = some r →
    s.commitDirect core slot sl i ps = if j.retMisaligned r then s.record core slot i.age (.plain FC.alignment)
      else ((d.modSlot core slot (·.unposted i.age)).dropPre core).commit core slot (x.unposted i.age) j := by
  intro d hx hj hr
  have hslot : (d.modSlot core slot (·.unposted i.age)).slot? core slot = some (x.unposted i.age) := by
    rw [State.slot?_modSlot, hx]; rfl
  have hnow := State.commitNow_eq (s := (d.modSlot core slot (·.unposted i.age)).dropPre core) ((State.slot?_dropPre _ _ _ _).trans hslot) hj hr
  have hret : ((d.modSlot core slot (·.unposted i.age)).slot? core slot).bind (fun x => (x.inst? i.age).bind fun j =>
      (x.strand? j.uid).map fun st => j.retMisaligned st) = some (j.retMisaligned r) := by
    rw [hslot, Option.bind_some, show (x.unposted i.age).inst? i.age = some j from hj, Option.bind_some,
      show (x.unposted i.age).strand? j.uid = some r from hr]; rfl
  unfold State.commitDirect
  cases hmis : j.retMisaligned r with
  | true =>
    rw [if_pos rfl]
    dsimp only
    split
    next => rfl
    next h => exact absurd (hret.trans (congrArg some hmis)) (h ·)
  | false =>
    rw [if_neg Bool.false_ne_true]
    dsimp only
    split
    next h => exact absurd (hmis.symm.trans (Option.some.inj (hret.symm.trans h))) Bool.false_ne_true
    next => rw [← hnow.trans (if_neg (Bool.eq_false_iff.mp hmis))]; rfl

namespace State.Commits

/-- A RET that an atomic directs commits in one act, its atomics applied in it (R163, log entry 27). -/
theorem exec_direct (h : s.Commits core slot sl i t e) (hb : i.committing = false) (hlnk : i.lnkFromAmo = true)
    (hret : i.exits = [.ret]) (hmay : s.directMay core slot sl i = true) :
    exec (.blockCommit core slot i.age) s = .next ((s.noteTaps sl i).commitDirect core slot sl i i.storesInOrder) := by
  have hany : i.stores.any (·.amo.isSome) = true := by
    simp only [Inst.lnkFromAmo, List.any_eq_true, Bool.and_eq_true] at hlnk
    obtain ⟨p, hp, ha, -⟩ := hlnk
    exact List.any_eq_true.mpr ⟨p, hp, ha⟩
  have hmay' : (s.noteTaps sl i).directMay core slot sl i = true := by
    obtain ⟨x, hx⟩ := s.noteTaps_eq sl i
    rw [hx]; exact hmay
  rw [h.exec_eq, hb, if_neg Bool.false_ne_true, h.commitFirst_eq hb, hany, hlnk, hret, hmay']; rfl

/-- What such a commit leaves: ALIGNMENT recorded and nothing applied, or the block gone and memory as its stores left it. -/
theorem commits_direct (h : s.Commits core slot sl i t e) (hb : i.committing = false) (hlnk : i.lnkFromAmo = true)
    (hret : i.exits = [.ret]) (hmay : s.directMay core slot sl i = true) :
    let d := ((s.noteTaps sl i).beginCommit core slot i i.storesInOrder).applyDirect core slot i.age sl i.storesInOrder
    ∀ x j, d.slot? core slot = some x → x.inst? i.age = some j → ∀ r, x.strand? j.uid = some r →
      (j.retMisaligned r = true → ∃ u, exec (.blockCommit core slot i.age) s = .next u ∧ u.hbm = s.hbm ∧
        u.block? core slot i.age = some { i with faults := [.plain FC.alignment] }) ∧
      (j.retMisaligned r = false → ∃ u, exec (.blockCommit core slot i.age) s = .next u ∧ u.block? core slot i.age = none ∧
        u.hbm = d.hbm ∧ ∀ c, (u.core c).mem = (d.core c).mem) := by
  intro d x j hx hj r hr
  rw [h.exec_direct hb hlnk hret hmay, State.commitDirect_eq hx hj hr]
  refine ⟨fun hm => ⟨_, congrArg _ (if_pos hm), ?_, ?_⟩, fun hm => ⟨_, congrArg _ (if_neg (Bool.eq_false_iff.mp hm)), ?_⟩⟩
  · obtain ⟨z, hz⟩ := s.noteTaps_eq sl i
    rw [hz]; rfl
  · obtain ⟨z, hz⟩ := s.noteTaps_eq sl i
    exact h.block?_record (by rw [hz]; exact fun _ _ => rfl) _
  · obtain ⟨⟨is, hs, hi⟩, -, -⟩ := h.begun
    have hexits : j.exits = [.ret] := by
      obtain ⟨j', hj', he⟩ := State.exits_applyDirect (sl := sl) (Option.bind_eq_some_iff.mpr ⟨_, hs, hi⟩) i.storesInOrder
      obtain rfl : j' = j := Option.some.inj (hj'.symm.trans (Option.bind_eq_some_iff.mpr ⟨x, hx, hj⟩))
      rw [he]; exact hret
    have hage : j.age = i.age := by simpa using List.find?_some hj
    have hslot : ((d.modSlot core slot (·.unposted i.age)).dropPre core).slot? core slot = some (x.unposted i.age) := by
      rw [State.slot?_dropPre, State.slot?_modSlot, hx]; rfl
    obtain ⟨hmem, _, _, _, _, sl', hsl', hgone, -⟩ := State.commit_leaves hslot hr hexits
    have hd : d.SameMem ((d.modSlot core slot (·.unposted i.age)).dropPre core) :=
      (d.sameMem_modSlot _ _ _).trans (State.sameMem_dropPre _ _)
    refine ⟨?_, hmem.hbm.trans hd.hbm, fun c => (hmem.mem c).trans (hd.mem c)⟩
    rw [State.block?, hsl', Option.bind_some, ← hage]; exact hgone

end State.Commits

/-- Settles O47: the commit's first act depends on the block's atomics; what the rest leaves is that of `commit_leaves`. -/
theorem aBlockCommits : Obligations.ABlockCommits := by
  intro s core slot sl i t e h out amos begun
  refine ⟨h.commits_without_atomics, fun hb hamo hret => ?_, h.commits_begun, fun hb hm => ?_, h.commits_direct⟩
  · obtain ⟨⟨is, hs, hi⟩, hmem, -⟩ := h.begun
    exact ⟨begun, _, h.begins hb hamo hret, hs, rfl, hi, hmem.hbm, hmem.mem⟩
  · exact ⟨_, h.ret_misaligned hb hm, rfl, h.block?_record (fun _ _ => rfl) _⟩

end Sys2Proof.Machine

/-! PROOFS. Faults are taken under a handler, or abort the context (O48). -/

namespace Sys2Proof.Machine

open Sys2Proof

variable {s : State} {core slot : Nat} {sl : Slot} {i : Inst} {t : Strand}

/-! ### TRAPS -/

theorem getLsbD_eq_div_mod {n : Nat} (x : BitVec n) (k : Nat) : x.getLsbD k = decide (x.toNat / 2 ^ k % 2 = 1) := by
  rw [BitVec.getLsbD, Nat.testBit_eq_decide_div_mod_eq]

theorem decide_bnat_eq_one (b : Bool) : decide (bnat b = 1) = b := by cases b <;> rfl

theorem bnat_lt_two (b : Bool) : bnat b < 2 := by cases b <;> decide

/-- What RETT puts into TRAPS: the fields from PPRIV up stand, PRIV is PPRIV, IP is 0, and CODE stands (R297). -/
theorem Strand.toNat_traps_trapReturn (t : Strand) : t.trapReturn.traps.toNat =
    t.traps.toNat / 2 ^ 12 * 2 ^ 12 + t.traps.toNat / 2 ^ 12 % 2 * 2 ^ 11 + t.traps.toNat % 2 ^ 10 := by
  have hlt := t.traps.isLt
  simp only [Strand.trapReturn, bits, BitVec.toNat_ofNat]
  omega

/-- What RETT does (R164, R297). -/
theorem Strand.exitTo_rett (t : Strand) (i : Inst) :
    ∃ r, t.exitTo i .rett = some r ∧ r.ba = t.trapba ∧ r.traps.getLsbD 11 = t.traps.getLsbD 12 ∧ r.traps.getLsbD 10 = false ∧
      r.traps.toNat / 2 ^ 12 = t.traps.toNat / 2 ^ 12 ∧ r.traps.toNat % 2 ^ 10 = t.traps.toNat % 2 ^ 10 ∧
      r = { t with ba := r.ba, traps := r.traps } := by
  have h := t.toNat_traps_trapReturn
  refine ⟨t.trapReturn, rfl, rfl, ?_, ?_, by omega, by omega, rfl⟩
  · simp only [getLsbD_eq_div_mod, h]
    refine decide_eq_decide.mpr ?_
    omega
  · simp only [getLsbD_eq_div_mod, h, decide_eq_false_iff_not]
    omega

/-- What trap entry leaves in a strand: TRAPBA, FLT and TRAPS saved, its privilege CHAIR and its BA the handler's (R297). -/
theorem Strand.trapEntry_saves (t : Strand) (trapv : Word) (f : FaultRec) :
    (t.trapEntry trapv f).ba.toNat = trapv.toNat / 16 * 16 ∧
      (t.trapEntry trapv f).traps.toNat % 2 ^ 8 = f.code % 2 ^ 8 ∧ (t.trapEntry trapv f).traps.getLsbD 10 = true ∧
      (t.trapEntry trapv f).traps.getLsbD 11 = true ∧ (t.trapEntry trapv f).traps.getLsbD 12 = t.priv ∧
      (t.trapEntry trapv f).traps.toNat / 2 ^ 16 % 2 ^ 7 = f.loc % 2 ^ 7 ∧ (t.trapEntry trapv f).traps.getLsbD 23 = f.locs ∧
      (t.trapEntry trapv f).traps.toNat / 2 ^ 40 = f.val % 2 ^ 24 := by
  have h : (t.trapEntry trapv f).traps.toNat = _ := trapsOf_toNat f t.priv
  have hp := bnat_lt_two t.priv
  have hl := bnat_lt_two f.locs
  have hba := trapv.isLt
  refine ⟨?_, by omega, ?_, ?_, ?_, by omega, ?_, by omega⟩
  · simp only [Strand.trapEntry, BitVec.toNat_ofNat]
    omega
  · simp only [getLsbD_eq_div_mod, h, decide_eq_true_eq]
    omega
  · simp only [getLsbD_eq_div_mod, h, decide_eq_true_eq]
    omega
  · refine Eq.trans ?_ (decide_bnat_eq_one t.priv)
    simp only [getLsbD_eq_div_mod, h]
    congr 2
    omega
  · refine Eq.trans ?_ (decide_bnat_eq_one f.locs)
    simp only [getLsbD_eq_div_mod, h]
    congr 2
    omega

/-! ### Discards -/

/-- A block that is discarded is in its context no more (R32). -/
theorem State.age_ne_of_mem_discard {age : Nat} {sl' : Slot} (hs : s.slot? core slot = some sl)
    (hs' : (s.discard core slot age).slot? core slot = some sl') : ∀ j ∈ sl'.insts, j.age ≠ age := by
  intro j hj
  unfold State.discard at hs'
  rw [hs] at hs'
  dsimp only at hs'
  split at hs'
  next hi =>
    obtain rfl : sl = sl' := Option.some.inj (hs.symm.trans hs')
    simpa using List.find?_eq_none.mp hi j hj
  next =>
    rw [State.slot?_perfEvent, (State.settleWaits_keeps _ _ _).1, State.slot?_modSlot, State.slot?_withDressers,
      State.slot?_modCore _ _ _ _ _ rfl, hs] at hs'
    obtain rfl := Option.some.inj hs'
    simpa using (List.mem_filter.mp hj).2

/-- The blocks of a list that are discarded one after another are in their context no more. -/
theorem State.age_ne_of_mem_discards (l : List Inst) (hs : s.slot? core slot = some sl) :
    ∃ sl', (l.foldl (fun s i => s.discard core slot i.age) s).slot? core slot = some sl' ∧ sl.Thin sl' ∧
      ∀ j ∈ sl'.insts, ∀ i ∈ l, j.age ≠ i.age := by
  induction l generalizing s sl with
  | nil => exact ⟨sl, hs, .rfl' sl, by simp⟩
  | cons a l ih =>
    obtain ⟨x, hx, hthin⟩ := State.discard_slot (age := a.age) hs
    obtain ⟨y, hy, hthin', hgone⟩ := ih hx
    refine ⟨y, hy, hthin.trans hthin', fun j hj i hi => ?_⟩
    rcases List.mem_cons.mp hi with rfl | hi
    · exact State.age_ne_of_mem_discard hs hx j (hthin'.insts j hj)
    · exact hgone j hj i hi

/-- From an age on, the blocks of a strand that are discarded are gone, and nothing else of the context changes but grants and
the forks they had joined (R32). -/
theorem State.discardFrom_leaves (hs : s.slot? core slot = some sl) (uid age : Nat) :
    ∃ sl', (s.discardFrom core slot uid age).slot? core slot = some sl' ∧ sl.Thin sl' ∧
      ∀ j ∈ sl'.insts, j.uid = uid → j.age < age := by
  obtain ⟨x, hx, hthin, hgone⟩ := State.age_ne_of_mem_discards ((sl.instsOf uid).filter fun i => age ≤ i.age) hs
  refine ⟨{ x with grants := x.grants.filter (·.uid ≠ uid) }, ?_, ?_, fun j hj hu => ?_⟩
  · simp only [State.discardFrom, hs, State.slot?_modSlot, hx, Option.map_some]
  · exact hthin.trans ⟨rfl, fun _ h => h, fun _ h _ => h, fun r h => ⟨r, h, rfl⟩⟩
  · refine Nat.lt_of_not_le fun hle => hgone j hj j ?_ rfl
    exact List.mem_filter.mpr ⟨List.mem_filter.mpr ⟨hthin.insts j hj, by simpa using hu⟩, by simpa using hle⟩

/-! ### A fault is taken -/

/-- The state in which a fault is taken: an uncorrectable error of a dead block is counted, and the block and the younger ones
of its strand are discarded (R32, R35, R349). -/
def State.faultDiscards (s : State) (core slot : Nat) (i : Inst) (f : FaultRec) : State :=
  (if f.code = FC.uncorrectable ∧ i.dead then s.modErr core 2 (·.consume 1) else s).discardFrom core slot i.uid i.age

theorem State.faultDiscards_leaves (hs : s.slot? core slot = some sl) (i : Inst) (f : FaultRec) :
    (∃ sl', (s.faultDiscards core slot i f).slot? core slot = some sl' ∧ sl.Thin sl' ∧ ∀ j ∈ sl'.insts, j.uid = i.uid → j.age < i.age) ∧
      s.SameMem (s.faultDiscards core slot i f) ∧ (s.faultDiscards core slot i f).launches = s.launches := by
  unfold State.faultDiscards
  split
  · exact ⟨State.discardFrom_leaves ((s.slot?_modCore _ _ _ _ rfl).trans hs) _ _,
      ((State.sameMem_modCore s _ fun _ => rfl : s.SameMem (s.modErr core 2 (·.consume 1)))).trans (State.sameMem_discardFrom _ _ _ _ _),
      (State.onCore_discardFrom _ _ _ _ _).launches⟩
  · exact ⟨State.discardFrom_leaves hs _ _, s.sameMem_discardFrom _ _ _ _, (s.onCore_discardFrom _ _ _ _).launches⟩

/-- Taking a fault of a strand's oldest block is trap entry, or abort of the context (R35, R358). -/
theorem exec_faultTaken {n : Nat} {f : FaultRec} (hs : s.slot? core slot = some sl) (hi : sl.inst? i.age = some i)
    (ht : sl.strand? i.uid = some t) (hf : i.faults[n]? = some f) (hold : sl.isOldest i = true) (hrun : sl.stopped = false) :
    exec (.faultTaken core slot i.age n) s =
      if t.canTrap sl.trapv then .next ((s.faultDiscards core slot i f).modStrand core slot i.uid (·.trapEntry sl.trapv f))
      else .next ((s.faultDiscards core slot i f).abort sl.launch f.code) := by
  simp only [exec, execFaultTaken, hs, hi, ht, hf, needSome_some, hold, hrun, Bool.not_false, Bool.and_self, need_of]
  rfl

/-- Under a handler the strand enters a trap (R297, R358). -/
theorem faultTaken_traps {n : Nat} {f : FaultRec} (hs : s.slot? core slot = some sl) (hi : sl.inst? i.age = some i)
    (ht : sl.strand? i.uid = some t) (hf : i.faults[n]? = some f) (hold : sl.isOldest i = true) (hrun : sl.stopped = false)
    (htrap : t.canTrap sl.trapv = true) :
    ∃ u sl', exec (.faultTaken core slot i.age n) s = .next u ∧ u.slot? core slot = some sl' ∧
      sl'.strand? i.uid = some (t.trapEntry sl.trapv f) ∧ (∀ j ∈ sl'.insts, j.uid = i.uid → j.age < i.age) ∧
      s.SameMem u ∧ sl'.post = sl.post := by
  obtain ⟨⟨x, hx, hthin, hgone⟩, hmem, -⟩ := State.faultDiscards_leaves hs i f
  have hstrand : x.strand? i.uid = some t := (congrArg (·.strand? i.uid) hthin.rest).trans ht
  refine ⟨_, _, (exec_faultTaken hs hi ht hf hold hrun).trans (if_pos htrap), State.modStrand_slot hx _, ?_, hgone,
    hmem.trans (State.sameMem_modSlot _ _ _ _), congrArg (·.post) hthin.rest⟩
  exact (find?_strand_map (f := (·.trapEntry sl.trapv f)) fun _ => rfl).trans (congrArg _ hstrand)

/-- Without a handler its context is aborted with the fault's code (R358, R360). -/
theorem faultTaken_aborts {n : Nat} {f : FaultRec} (hs : s.slot? core slot = some sl) (hi : sl.inst? i.age = some i)
    (ht : sl.strand? i.uid = some t) (hf : i.faults[n]? = some f) (hold : sl.isOldest i = true) (hrun : sl.stopped = false)
    (htrap : t.canTrap sl.trapv = false) {l : Launch} (hl : s.launch? sl.launch = some l) (ha : l.aborted = false) :
    ∃ u, exec (.faultTaken core slot i.age n) s = .next u ∧ u.AbortedWith sl.launch f.code := by
  obtain ⟨-, -, hlaunches⟩ := State.faultDiscards_leaves hs i f
  have hl' : (s.faultDiscards core slot i f).launch? sl.launch = some l := by rw [State.launch?, hlaunches]; exact hl
  exact ⟨_, (exec_faultTaken hs hi ht hf hold hrun).trans (if_neg (Bool.eq_false_iff.mp htrap)), (abort_facts hl' ha).1⟩

/-- A quiescent block short of its commit condition records INCOMPLETE_BLOCK (R48, R395). -/
theorem exec_incompleteBlock (hs : s.slot? core slot = some sl) (hi : sl.inst? i.age = some i) (hdead : i.dead = false)
    (hc : i.committing = false) (hm : i.meets = false) (hf : i.faults = []) (hq : s.quiescent core slot i = true) :
    exec (.incompleteBlock core slot i.age) s = .next (s.record core slot i.age i.incompleteAt) := by
  simp only [exec, execIncompleteBlock, hs, hi, needSome_some, hdead, hc, hm, hf, hq, List.isEmpty_nil, Bool.not_false,
    Bool.and_self, need_of]

/-- An abort by the service (R24, R360). -/
theorem exec_contextAbort {id : Nat} {l : Launch} (hl : s.launch? id = some l) (ha : l.aborted = false) :
    exec (.contextAbort id) s = .next (s.abort id FC.serviceAbort) := by
  simp only [exec, execContextAbort, hl, needSome_some, ha, Bool.not_false, need_of]

/-- Settles O48: a discard takes the strand's blocks and leaves its registers, to which trap entry is applied; an abort's own
facts stand in `abort_facts`. -/
theorem faultsAreTaken : Obligations.FaultsAreTaken := by
  intro s core slot sl i t
  refine ⟨t.exitTo_rett i, fun hs hi => ⟨?_, ?_, ?_⟩⟩
  · intro hdead hc hm hf hq
    refine ⟨_, exec_incompleteBlock hs hi hdead hc hm hf hq, ?_⟩
    rw [(State.record_leaves (Option.bind_eq_some_iff.mpr ⟨sl, hs, hi⟩) _).2, hf]; rfl
  · intro n f ht hf hold hrun
    refine ⟨fun htrap => ?_, fun htrap l hl ha => faultTaken_aborts hs hi ht hf hold hrun htrap hl ha⟩
    obtain ⟨u, sl', hu, hs', ht', hgone, hmem, hpost⟩ := faultTaken_traps hs hi ht hf hold hrun htrap
    obtain ⟨hba, hcode, hip, hpriv, hppriv, hloc, hlocs, hval⟩ := t.trapEntry_saves sl.trapv f
    exact ⟨u, sl', _, hu, hs', ht', hgone, rfl, rfl, hba, hcode, hip, hpriv, hppriv, hloc, hlocs, hval, rfl, rfl, rfl, rfl, rfl,
      hmem.hbm, hmem.mem, hpost⟩
  · intro id l hl ha
    obtain ⟨habort, hslots⟩ := abort_facts (code := FC.serviceAbort) hl ha
    exact ⟨_, exec_contextAbort hl ha, habort, hslots⟩

end Sys2Proof.Machine

/-! PROOFS. Strands start and end, and slots are released (O53). -/

namespace Sys2Proof.Machine

open Sys2Proof

variable {s : State} {core slot : Nat} {sl : Slot}

/-! ### Strands as created -/

section Fresh

variable (uid ba iter : Nat) (tag : Word) (priv : Bool) (fork : Option Nat) (g v : List Datum)

theorem Strand.toNat_traps_fresh : (Strand.fresh uid tag ba iter priv fork g v).traps.toNat = bnat priv * 2 ^ 11 := by
  have := bnat_lt_two priv
  simp only [Strand.fresh, BitVec.toNat_ofNat]
  omega

/-- A strand is created with the privilege that it is given (R26, R297). -/
theorem Strand.priv_fresh : (Strand.fresh uid tag ba iter priv fork g v).priv = priv := by
  rw [Strand.priv, getLsbD_eq_div_mod, Strand.toNat_traps_fresh]
  refine Eq.trans (decide_eq_decide.mpr ?_) (decide_bnat_eq_one priv)
  have := bnat_lt_two priv
  omega

/-- A strand starts at its block's address modulo 2^64, aligned (R26, R290). -/
theorem Strand.toNat_ba_fresh : (Strand.fresh uid tag ba iter priv fork g v).ba.toNat = ba % 2 ^ 64 / 16 * 16 := by
  simp only [Strand.fresh, BitVec.toNat_ofNat]
  omega

end Fresh

theorem Slot.roomFor_of {idx : Nat} (hlen : sl.strands.length < 32) (hidx : idx < 256) (hfree : (sl.pool.getD idx (true, 0)).1 = false)
    (hrun : sl.stopped = false) : sl.roomFor idx = true := by
  simp only [Slot.roomFor, hlen, hidx, hfree, hrun, decide_true, Bool.not_false, Bool.and_self]

/-! ### Starts -/

/-- The first strand of a root, as it is admitted (R22, R26). -/
def rootStrand (l : Launch) (q : LqEntry) (sl : Slot) (idx : Nat) : Strand :=
  Strand.fresh sl.nextUid (rootTag l.chair l.ctx idx) (pkDw l.packet 0) (rootOf l.runs q.next) l.priv none
    (List.replicate 32 .zero) (List.replicate 8 { Datum.zero with vec := true })

/-- A core's launch queue once its head has given a root: the head goes on 192 strands further, or is done (R22). -/
def lqAfterRoot (l : Launch) (q : LqEntry) (lq : List LqEntry) : List LqEntry :=
  if q.next + 192 < l.count then ⟨q.launch, q.next + 192⟩ :: lq.tail else lq.tail

theorem exec_rootAdmission {q : LqEntry} {l : Launch} {i idx : Nat} (hq : (s.core core).lq.head? = some q)
    (hl : s.launch? q.launch = some l) (hi : (s.core core).slotOf l.id = some i) (hs : s.slot? core i = some sl)
    (hroom : sl.roomFor idx = true) (hstop : s.stopping sl = false) :
    exec (.rootAdmission core idx) s = .next ((s.modSlot core i (·.addStrand idx (rootStrand l q sl idx))).modCore core fun k =>
      { k with lq := lqAfterRoot l q (s.core core).lq }) := by
  have hs' : (s.core core).slot? i = some sl := hs
  simp only [exec, execRootAdmission, hq, hl, hi, hs', needSome_some, hroom, hstop, Bool.not_false, Bool.and_self, need_of]
  rfl

/-- An iteration of a fork, as it starts (R26, R169). -/
def ForkRec.strand (r : ForkRec) (sl : Slot) (idx : Nat) : Strand :=
  Strand.fresh sl.nextUid (childTag r.tag idx) r.ba r.next r.priv (some r.idx) r.g r.v

/-- A fork record of a slot goes on by one iteration (R170). -/
def Slot.stepFork (sl : Slot) (rec : Nat) : Slot :=
  { sl with forks := sl.forks.map fun x => if x.idx = rec then { x with next := x.next + 1 } else x }

theorem exec_iterationStart {rec idx : Nat} {r : ForkRec} (hs : s.slot? core slot = some sl)
    (hr : sl.forks.find? (·.idx = rec) = some r) (hn : r.next < r.n) (hb : r.next - r.ended.length < r.bound)
    (hroom : sl.roomFor idx = true) (hstop : s.stopping sl = false) :
    exec (.iterationStart core slot rec idx) s =
      .next ((if r.bound ≤ r.next then s.perfEvent core sl.chair 0x0B 1 else s).modSlot core slot fun _ =>
        (sl.addStrand idx (r.strand sl idx)).stepFork rec) := by
  simp only [exec, execIterationStart, hs, hr, needSome_some, hn, hb, hroom, hstop, decide_true, Bool.not_false, Bool.and_self,
    need_of]
  rfl

/-! ### Ends -/

/-- A fork record once an iteration has ended, if it is the iteration's (R170). -/
def ForkRec.iterationEnded (r : ForkRec) (e : Ending) : ForkRec :=
  if some r.idx = e.fork then { r with ended := r.ended ++ [e.ord] } else r

/-- A context once an iteration has ended: a record whose creator is gone leaves with its last iteration (R170, R171). -/
def Slot.iterationEnded (sl : Slot) (uid : Nat) (e : Ending) : Slot :=
  { sl with ending := sl.ending.filter (·.uid ≠ uid),
            forks := (sl.forks.map (·.iterationEnded e)).filter fun r => !(r.allEnded && (sl.strand? r.creator).isNone) }

theorem exec_iterationEnd {uid : Nat} {e : Ending} (hs : s.slot? core slot = some sl)
    (he : sl.ending.find? (·.uid = uid) = some e) (hpost : ∀ p ∈ sl.post, p.uid ≠ uid)
    (hchain : ∀ d ∈ s.dressers, d.core = core → d.slot = slot → d.uid = uid → d.store = none) :
    exec (.iterationEnd core slot uid) s = .next (s.modSlot core slot (·.iterationEnded uid e)) := by
  have hp : sl.post.any (·.uid = uid) = false := by simpa using hpost
  have hd : (s.dressers.any fun d => d.core = core && d.slot = slot && d.uid = uid && d.store.isSome) = false := by
    simp only [List.any_eq_false, Bool.and_eq_true, decide_eq_true_eq, not_and, and_imp]
    intro d hm h1 h2 h3
    rw [hchain d hm h1 h2 h3]; exact Bool.false_ne_true
  simp only [exec, execIterationEnd, hs, he, needSome_some, hp, hd, Bool.not_false, Bool.and_self, need_of]
  rfl

theorem ForkRec.creator_iterationEnded (r : ForkRec) (e : Ending) : (r.iterationEnded e).creator = r.creator := by
  unfold ForkRec.iterationEnded; split <;> rfl

/-- A record stands after an iteration has ended unless its iterations have all ended and its creator is gone (R170). -/
theorem Slot.mem_forks_iterationEnded {r : ForkRec} (hr : r ∈ sl.forks) (uid : Nat) (e : Ending) :
    r.iterationEnded e ∈ (sl.iterationEnded uid e).forks ↔
      (r.iterationEnded e).ended.length ≠ (r.iterationEnded e).n ∨ (sl.strand? r.creator).isSome = true := by
  simp only [Slot.iterationEnded, List.mem_filter, List.mem_map_of_mem hr, true_and, ForkRec.allEnded, Bool.not_and,
    Bool.or_eq_true, Bool.not_eq_true', decide_eq_false_iff_not, Option.isNone_eq_false_iff, ForkRec.creator_iterationEnded]

/-! ### Release -/

/-- What a core keeps of a slot that leaves it: its units zeroed, its arrays, tiles, domains and range given up (R243, R260, R304). -/
def Core.vacated (k : Core) (slot : Nat) (sl : Slot) : Core :=
  { k with slots := k.slots.set slot none,
           mem := sl.units.foldl (fun m u => zeroBytes m (u * 0x4000) 0x4000) k.mem,
           poison := k.poison.filter fun w => !sl.units.contains (w / 0x800),
           arrays := k.arrays.filter (·.slot ≠ slot),
           tiles := k.tiles.filter (·.slot ≠ slot),
           palette := k.palette.map fun d => if d.owner = some slot then .reset else d,
           ranges := k.ranges.filter (·.slot ≠ some slot) }

theorem State.cores_vacate (s : State) (core slot : Nat) (sl : Slot) :
    (s.vacate core slot sl).cores = (s.modCore core (·.vacated slot sl)).cores :=
  (State.chestFree_cores _ _ _ _ _).1

theorem State.core_vacate (hs : s.slot? core slot = some sl) : (s.vacate core slot sl).core core = (s.core core).vacated slot sl := by
  rw [State.core, State.cores_vacate]
  exact s.core_modCore core _ (State.core_lt_of_slot hs)

/-- The completion entries of a slot, freed (R320). -/
def State.freeCq (s : State) (core slot : Nat) : State :=
  s.modCore core fun k => { k with cq := k.cq.map fun e => if e.slot = slot then { e with st := .free } else e }

/-- The state in which a slot has been released (R23). -/
def State.released (s : State) (core slot : Nat) (sl : Slot) : State :=
  ((s.freeCq core slot).vacate core slot sl).finishLaunch sl.launch

theorem State.slot?_freeCq (s : State) (core slot c i : Nat) : (s.freeCq core slot).slot? c i = s.slot? c i := s.slot?_modCore _ _ _ _ rfl

theorem exec_slotRelease (hs : s.slot? core slot = some sl) (h : s.MayRelease core slot sl) :
    exec (.slotRelease core slot) s = .next (s.released core slot sl) := by
  obtain ⟨⟨hst, hend⟩, ⟨hi, hg⟩, hpost, hf, hroots, hchain, heng, hcopy⟩ := h
  have hs' : (s.core core).slot? slot = some sl := hs
  have hf' : sl.forks.all (fun r => decide (r.n ≤ r.next)) = true := by simpa using hf
  have hroots' : (s.core core).lq.any (·.launch = sl.launch) = false := by simpa using hroots
  have hchain' : s.dressers.any (fun d => d.core = core && d.slot = slot) = false := by
    simpa only [List.any_eq_false, Bool.and_eq_true, decide_eq_true_eq] using hchain
  have heng' : (s.core core).engs.any (·.slot = slot) = false := by simpa using heng
  simp only [exec, execSlotRelease, hs', needSome_some, hst, hend, hi, hg, hpost, hf', hroots', hchain', heng', List.isEmpty_nil,
    Bool.not_false, Bool.and_self, Bool.true_and]
  refine need_of ?_ _
  simp only [Bool.not_eq_true', List.any_eq_false, Bool.not_eq_true, List.mem_range]
  intro c hc e he
  cases hname : e.namesCore core with
  | false => rfl
  | true =>
    split
    · simpa using hcopy c hc e he hname _ ‹_›
    · rfl

/-- A launch with nothing left is over once it completes (R23, R321). -/
theorem State.launch?_finishLaunch {l : Launch} {id : Nat} (hl : s.launch? id = some l) (hover : s.launchOver l = true) :
    (s.finishLaunch id).launch? id = none := by
  have hgone : (s.finishLaunch id).launches = s.launches.filter (·.id ≠ id) := by
    simp only [State.finishLaunch, hl, hover, if_true]
    exact (State.answerLaunch_slot _ _ _ _ 0 0).2
  rw [State.launch?, hgone]
  exact List.find?_eq_none.mpr fun x hx => by simpa using (List.mem_filter.mp hx).2

/-- A launch is over that no core queues and no slot holds (R23). -/
theorem State.launchOver_of {l : Launch} (hout : l.out = false) (hcan : l.canvases.length = 4)
    (hlq : ∀ c < s.cores.length, ∀ q ∈ (s.core c).lq, q.launch ≠ l.id)
    (hslots : ∀ c i x, s.slot? c i = some x → x.launch ≠ l.id) : s.launchOver l = true := by
  have hcores : ∀ k ∈ s.cores, (!k.lq.any (·.launch = l.id) && (k.slotOf l.id).isNone) = true := by
    intro k hk
    obtain ⟨c, hc, rfl⟩ := List.getElem_of_mem hk
    have hcore : s.core c = s.cores[c] := by simp [State.core, hc]
    rw [← hcore]
    have hq : (s.core c).lq.any (·.launch = l.id) = false := by simpa using hlq c hc
    have hn : (s.core c).slotOf l.id = none := by
      refine List.find?_eq_none.mpr fun i _ => ?_
      cases hx : (s.core c).slot? i with
      | none => exact Bool.false_ne_true
      | some x => simpa using hslots c i x hx
    rw [hq, hn]; rfl
  simp only [State.launchOver, hout, hcan, Bool.not_false, true_or, decide_true, Bool.true_and, List.all_eq_true]
  exact hcores

/-- The core of a slot that has been released, but for its completion entries. -/
theorem State.core_released (hs : s.slot? core slot = some sl) :
    ∃ cq, (s.released core slot sl).core core = { (s.core core).vacated slot sl with cq := cq } := by
  have hfree : (s.freeCq core slot).core core = _ := s.core_modCore core _ (State.core_lt_of_slot hs)
  obtain ⟨cq, hfin⟩ := State.finishLaunch_core ((s.freeCq core slot).vacate core slot sl) sl.launch core
  refine ⟨cq, hfin.trans ?_⟩
  rw [State.core_vacate ((State.slot?_freeCq ..).trans hs), hfree]
  rfl

theorem State.slot?_released : (s.released core slot sl).slot? core slot = none :=
  (State.finishLaunch_slot _ _ _ _).1.trans (State.vacate_slot _ _ _ _).1

theorem State.lq_modCore {f : Core → Core} (hf : ∀ k, (f k).lq = k.lq) (c : Nat) : ((s.modCore core f).core c).lq = (s.core c).lq := by
  by_cases hc : c = core
  · subst hc
    by_cases hlt : c < s.cores.length
    · rw [s.core_modCore _ _ hlt, hf]
    · rw [State.core_none _ (by simpa using hlt), State.core_none _ (by simpa using hlt)]
  · rw [State.core_modCore_ne _ _ hc]

/-- A slot that leaves its core leaves the launch queues. -/
theorem State.lq_vacate_freeCq (c : Nat) : (((s.freeCq core slot).vacate core slot sl).core c).lq = (s.core c).lq := by
  rw [State.core, State.cores_vacate]
  have hfree : ((s.freeCq core slot).core c).lq = (s.core c).lq := by
    unfold State.freeCq
    refine State.lq_modCore ?_ c
    exact fun _ => rfl
  exact (State.lq_modCore (f := (·.vacated slot sl)) (fun _ => rfl) c).trans hfree

/-- With its last slot a launch completes (R23, R321). -/
theorem State.launch?_released {l : Launch} (hl : s.launch? sl.launch = some l) (hout : l.out = false) (hcan : l.canvases.length = 4)
    (hlast : ∀ c < s.cores.length, (∀ q ∈ (s.core c).lq, q.launch ≠ l.id) ∧
      ∀ i x, s.slot? c i = some x → x.launch = l.id → c = core ∧ i = slot) : (s.released core slot sl).launch? sl.launch = none := by
  obtain ⟨hnone, hslots, -, hlen, hlaunches⟩ := State.vacate_slot (s.freeCq core slot) core slot sl
  refine State.launch?_finishLaunch (l := l) (by rw [State.launch?, hlaunches]; exact hl) (State.launchOver_of hout hcan ?_ ?_)
  · intro c hc
    rw [State.lq_vacate_freeCq]
    exact (hlast c (by rw [hlen] at hc; simpa [State.freeCq] using hc)).1
  · intro c i y hy hid
    obtain ⟨x, hx, hlaunch⟩ := hslots c i y hy
    have hx' : s.slot? c i = some x := (State.slot?_freeCq ..).symm.trans hx
    obtain ⟨rfl, rfl⟩ := (hlast c (State.core_lt_of_slot hx')).2 i x hx' (hlaunch.symm.trans hid)
    rw [hnone] at hy; cases hy

/-- Settles O53, by the act that each clause is about. -/
theorem strandsStartAndEnd : Obligations.StrandsStartAndEnd := by
  intro s core
  refine ⟨?root, ?iteration, ?ending, ?release⟩
  case root =>
    intro q l i sl idx hq hl hi hs hlen hidx hfree hrun hstop
    have hc := State.core_lt_of_slot hs
    have hba : pkDw l.packet 0 < 2 ^ 64 := (l.packet.getD 0 0).isLt
    refine ⟨_, rootStrand l q sl idx, exec_rootAdmission hq hl hi hs (Slot.roomFor_of hlen hidx hfree hrun) hstop, ?_, rfl, rfl, ?_, rfl,
      Strand.priv_fresh .., rfl, rfl, rfl, rfl, rfl, ?_, rfl, ?_⟩
    · have hpool : poolTake sl.pool (rootStrand l q sl idx).tag idx = _ := poolTake_root sl.pool l.chair l.ctx idx hidx
      rw [State.slot?_modCore _ _ _ _ _ rfl, State.slot?_modSlot, hs, Option.map_some, Slot.addStrand, hpool]
    · rw [rootStrand, Strand.toNat_ba_fresh, Nat.mod_eq_of_lt hba]
    · rw [rootStrand, Strand.toNat_traps_fresh]
      omega
    · rw [State.core_modCore _ _ _ (by simpa using hc)]
      rfl
  case iteration =>
    intro slot sl rec r idx hs hr hn hb hroom hstop
    refine ⟨_, r.strand sl idx, exec_iterationStart hs hr hn hb hroom hstop, ?_, rfl, rfl, Strand.toNat_ba_fresh .., rfl, rfl, rfl,
      Strand.priv_fresh .., rfl, rfl⟩
    have hs' : (if r.bound ≤ r.next then s.perfEvent core sl.chair 0x0B 1 else s).slot? core slot = some sl := by
      split
      · exact (s.slot?_perfEvent _ _ _ _ _ _).trans hs
      · exact hs
    rw [State.slot?_modSlot, hs']; rfl
  case ending =>
    intro slot sl uid e hs he hpost hchain
    refine ⟨_, sl.iterationEnded uid e, exec_iterationEnd hs he hpost hchain, by rw [State.slot?_modSlot, hs]; rfl, ?_, rfl, ?_⟩
    · exact fun x hx => by simpa using (List.mem_filter.mp hx).2
    · intro r hr
      have h := Slot.mem_forks_iterationEnded hr uid e
      refine ⟨h.mpr, fun hall hgone hmem => ?_⟩
      rcases h.mp hmem with hne | hsome
      · exact hne hall
      · rw [hgone] at hsome; cases hsome
  case release =>
    intro slot sl hs hrel
    obtain ⟨cq, hcore⟩ := State.core_released hs
    refine ⟨_, exec_slotRelease hs hrel, State.slot?_released, ?_, ?_, ?_, fun l hl hout hcan hlast => State.launch?_released hl hout hcan hlast⟩
    all_goals rw [hcore]
    · exact fun a => get_zeroUnits sl.units (s.core core).mem a
    · exact fun a ha => by simpa using (List.mem_filter.mp ha).2
    · intro d hd
      obtain ⟨d', -, rfl⟩ := List.mem_map.mp hd
      split
      · exact nofun
      · assumption

end Sys2Proof.Machine

/-! PROOFS. Launches are judged, accepted and take slots (O52). -/

namespace Sys2Proof.Machine

open Sys2Proof

variable {s : State}

/-! ### The packet and the table of R19 -/

/-- What stands with a packet once its placement map and its after list have been read (R18, R345). -/
theorem readPacket_reads (s : State) (chair : Nat) (p : List Word) (src : LaunchFrom) :
    let e := readPacket s chair p src
    e.chair = chair ∧ e.packet = p ∧ e.src = src ∧ (pkDw p 6 = 0 → e.runs = [(0, pkRoots p)] ∧ e.mapFail = none) ∧
      (∀ v, readVa s chair (pkAsid p) (!src.priv) (pkDw p 5) (8 * pkAfterN p) = .ok v →
        e.afterFail = none ∧ e.after.length = pkAfterN p ∧ ∀ j < pkAfterN p, e.after[j]? = some (dwOf v j)) ∧
      ∀ x, readVa s chair (pkAsid p) (!src.priv) (pkDw p 5) (8 * pkAfterN p) = .error x → e.afterFail = some x := by
  refine ⟨rfl, rfl, rfl, fun h => ?_, fun v h => ?_, fun x h => ?_⟩
  · simp only [readPacket, readMap_home _ _ _ _ _ h, and_self]
  · simp only [readPacket, h, List.length_map, List.length_range, true_and]
    intro j hj
    simp [hj]
  · simp only [readPacket, h]

section Judge

variable {e : ArbEntry}

theorem judge_disabled (h : (s.chair e.chair).en = false) : judge s e = .refuse (.of FC.serviceAbort) := by
  simp only [judge, h, Bool.not_false, if_true]

theorem judge_asid (hen : (s.chair e.chair).en = true) (h : (s.chair e.chair).asidIndex (pkAsid e.packet) = none) :
    judge s e = .refuse (.of FC.protection) := by
  simp only [judge, hen, h, Bool.not_true, Option.isNone_none, Bool.false_eq_true, if_false, if_true]

theorem judge_bad (hen : (s.chair e.chair).en = true) (hasid : ((s.chair e.chair).asidIndex (pkAsid e.packet)).isSome = true)
    (h : packetBad e.packet = true) : judge s e = .refuse (.of FC.reservedField) := by
  obtain ⟨n, hn⟩ := Option.isSome_iff_exists.mp hasid
  simp only [judge, hen, hn, h, Bool.not_true, Option.isNone_some, Bool.false_eq_true, if_false, if_true]

/-- What the after list's handles show (R320). -/
def State.afterWords (s : State) (e : ArbEntry) : List (Option (Option Word)) := e.after.map (s.handleState e.chair)

/-- Whether a handle has completed with a status that is not 0 (R19, R176). -/
def faulted : Option (Option Word) → Bool
  | some (some w) => decide (w.toNat % 256 ≠ 0)
  | _ => false

/-- The rest of the table, once both reads have succeeded: the first faulted handle refuses, a pending one or a full chair waits
(R19). -/
def State.judgeAfter (s : State) (e : ArbEntry) : Verdict :=
  match (s.afterWords e).find? faulted with
  | some (some (some w)) => .refuse (.of (w.toNat % 256))
  | _ =>
    if (s.afterWords e).any (· = some none) ∨ (s.chair e.chair).nctx ≤ (s.contexts e.chair).length ∨ (s.freeCtx e.chair).isNone
      then .wait else .accept e.runs

/-- Past its first three rows the table depends on the reads (R19). -/
theorem judge_readFail (hen : (s.chair e.chair).en = true) (hasid : ((s.chair e.chair).asidIndex (pkAsid e.packet)).isSome = true)
    (hgood : packetBad e.packet = false) {x : Fail} (h : e.readFail = some x) : judge s e = .refuse x := by
  obtain ⟨n, hn⟩ := Option.isSome_iff_exists.mp hasid
  simp only [judge, hen, hn, hgood, h, Bool.not_true, Option.isNone_some, Bool.false_eq_true, if_false]

/-- Past the reads it depends on the after list and on the chair's contexts (R19). -/
theorem judge_read (hen : (s.chair e.chair).en = true) (hasid : ((s.chair e.chair).asidIndex (pkAsid e.packet)).isSome = true)
    (hgood : packetBad e.packet = false) (h : e.readFail = none) : judge s e = s.judgeAfter e := by
  obtain ⟨n, hn⟩ := Option.isSome_iff_exists.mp hasid
  simp only [judge, hen, hn, hgood, h, Bool.not_true, Option.isNone_some, Bool.false_eq_true, if_false]
  rfl

/-- A map that faults decides, unless it is refused for its fields and the after list faults (R19, log entry 82). -/
theorem ArbEntry.readFail_map {x : Fail} (hx : e.mapFail = some x) (h : x.code ≠ FC.reservedField ∨ e.afterFail = none) :
    e.readFail = some x := by
  rw [ArbEntry.readFail, hx]
  cases hy : e.afterFail with
  | none => rfl
  | some y => exact if_neg (h.resolve_right (by rw [hy]; exact nofun))

theorem ArbEntry.readFail_after {y : Fail} (hy : e.afterFail = some y)
    (h : e.mapFail = none ∨ ∃ x, e.mapFail = some x ∧ x.code = FC.reservedField) : e.readFail = some y := by
  rw [ArbEntry.readFail, hy]
  rcases h with hx | ⟨x, hx, hcode⟩
  · rw [hx]
  · rw [hx]; exact if_pos hcode

theorem ArbEntry.readFail_none (hx : e.mapFail = none) (hy : e.afterFail = none) : e.readFail = none := by
  rw [ArbEntry.readFail, hx, hy]

/-- A handle that has completed with a status that is not 0 (R19, R176). -/
theorem faulted_iff {o : Option (Option Word)} :
    faulted o = true ↔ ∃ w code, o = some (some w) ∧ w.toNat % 256 = code ∧ code ≠ 0 := by
  rcases o with _ | _ | w
  · simp [faulted]
  · simp [faulted]
  · simp [faulted]

/-- The first of the after list's handles that has faulted refuses the packet (R19). -/
theorem State.judgeAfter_refuses {j : Nat} {w : Word} (hj : j < e.after.length)
    (hw : s.handleState e.chair (e.after.getD j 0) = some (some w)) (hf : w.toNat % 256 ≠ 0)
    (hfirst : ∀ k < j, faulted (s.handleState e.chair (e.after.getD k 0)) = false) :
    s.judgeAfter e = .refuse (.of (w.toNat % 256)) := by
  have hfind : (s.afterWords e).find? faulted = some (some (some w)) := by
    refine List.find?_eq_some_iff_getElem.mpr ⟨by simpa [faulted] using hf, j, by simpa [State.afterWords] using hj, ?_, fun k hk => ?_⟩
    · rw [← hw]; simp [State.afterWords, List.getD_eq_getElem?_getD, hj]
    · have hk' : k < e.after.length := hk.trans hj
      have := hfirst k hk
      simpa [State.afterWords, List.getD_eq_getElem?_getD, hk'] using this
  simp only [State.judgeAfter, hfind]

/-- With no handle faulted the packet waits, or is accepted (R19). -/
theorem State.judgeAfter_unfaulted (h : ∀ x ∈ e.after, faulted (s.handleState e.chair x) = false) :
    s.judgeAfter e = if (s.afterWords e).any (· = some none) ∨ (s.chair e.chair).nctx ≤ (s.contexts e.chair).length ∨
      (s.freeCtx e.chair).isNone then .wait else .accept e.runs := by
  have hfind : (s.afterWords e).find? faulted = none := by
    refine List.find?_eq_none.mpr fun o ho => ?_
    obtain ⟨x, hx, rfl⟩ := List.mem_map.mp ho
    rw [h x hx]; exact Bool.false_ne_true
  simp only [State.judgeAfter, hfind]

/-- What makes the packet wait: a pending handle, or no room for a context of its chair (R19). -/
theorem State.judgeAfter_waits_iff : ((s.afterWords e).any (· = some none) = true ∨
      (s.chair e.chair).nctx ≤ (s.contexts e.chair).length ∨ (s.freeCtx e.chair).isNone = true) ↔
    (∃ h ∈ e.after, s.handleState e.chair h = some none) ∨
      (s.chair e.chair).nctx ≤ (s.contexts e.chair).length ∨ s.freeCtx e.chair = none := by
  simp [State.afterWords]

end Judge

/-! ### Slots and canvases -/

/-- A core's launch takes the lowest free slot of the core (R23). -/
theorem exec_contextSlotTake {core i : Nat} {q : LqEntry} {l : Launch} (hq : (s.core core).lq.head? = some q)
    (hl : s.launch? q.launch = some l) (hc : core < s.cores.length) (hi : i < 4) (hfree : (s.core core).slot? i = none)
    (hlow : ∀ j < i, ((s.core core).slot? j).isSome = true) (hnew : (s.core core).slotOf l.id = none) (ha : l.aborted = false)
    (hout : l.out = false) (hev : l.evict = false) (hfit : pkLmp l.packet ≤ (s.core core).freeUnits.length) :
    exec (.contextSlotTake core) s = .next ((s.modCore core fun k => { k with slots := k.slots.set i (some
      (Slot.taken l ((s.core core).freeUnits.take (pkLmp l.packet)) (min (bits (pkDw l.packet 2) 24 3) (s.chair l.chair).primax))) }).loadChestRange
        core i) := by
  have hfind : (List.range 4).find? (fun i => ((s.core core).slot? i).isNone) = some i :=
    List.find?_range_eq_some.mpr ⟨by rw [hfree]; rfl, List.mem_range.mpr hi, fun j hj => by simpa [Option.isSome_iff_ne_none] using hlow j hj⟩
  simp only [exec, execContextSlotTake, hq, hl, hfind, needSome_some, hc, hnew, ha, hout, hev, hfit, decide_true, Option.isNone_none,
    Bool.not_false, Bool.and_self, need_of]

/-- Loading a slot's chest range changes of the slot its usable chest entries alone, and the range is held then (R43, R335). -/
theorem State.loadChestRange_holds {core i : Nat} {sl : Slot} (hs : s.slot? core i = some sl) :
    ∃ n, (s.loadChestRange core i).slot? core i = some { sl with chestOk := n } ∧
      ∃ r ∈ ((s.loadChestRange core i).core core).ranges, r.slot = some i ∧ r.va = sl.chestShare core := by
  refine ⟨chestUsable s core sl i, ?_, ?_⟩
  · simp only [State.loadChestRange, hs]
    rw [State.slot?_modCore _ _ _ _ _ rfl, State.slot?_modSlot, hs]; rfl
  · simp only [State.loadChestRange, hs]
    rw [State.core_modCore _ _ _ (by simpa using State.core_lt_of_slot hs)]
    exact ⟨_, List.mem_append_right _ (List.mem_singleton_self _), rfl, rfl⟩

/-- What a slot holds as it is taken: LMPART names its units' number, and its priority is the lower one (R293, R303). -/
theorem Slot.taken_fields (l : Launch) (units : List Nat) {pri : Nat} (hpri : pri < 8) :
    (Slot.taken l units pri).pri = pri ∧ bits (Slot.taken l units pri).lmpart.toNat 0 5 = pkLmp l.packet := by
  have hl : pkLmp l.packet < 32 := Nat.mod_lt _ (by decide)
  constructor
  · simp only [Slot.pri, Slot.taken, bits, BitVec.toNat_ofNat]
    omega
  · simp only [Slot.taken, bits, BitVec.toNat_ofNat]
    omega

theorem State.slot?_set {core i : Nat} (hc : core < s.cores.length) (hi : i < (s.core core).slots.length) (sl : Slot) :
    (s.modCore core fun k => { k with slots := k.slots.set i (some sl) }).slot? core i = some sl := by
  rw [State.slot?, State.core_modCore _ _ _ hc, Core.slot?, List.getD_eq_getElem?_getD, List.getElem?_set_self hi]
  rfl

/-! ### Dispatch -/

/-- The cores of a canvas that a launch has a first root for (R20, R21). -/
def Launch.coresOf (l : Launch) (canvas : Nat) : List Nat :=
  ((List.range 48).map (48 * canvas + ·)).filter fun c => decide (l.firstOn c < l.count)

theorem Launch.mem_coresOf {l : Launch} {canvas c : Nat} :
    c ∈ l.coresOf canvas ↔ 48 * canvas ≤ c ∧ c < 48 * canvas + 48 ∧ l.firstOn c < l.count := by
  simp only [Launch.coresOf, List.mem_filter, List.mem_map, List.mem_range, decide_eq_true_eq]
  constructor
  · rintro ⟨⟨n, hn, rfl⟩, h⟩; exact ⟨by omega, by omega, h⟩
  · rintro ⟨h1, h2, h⟩; exact ⟨⟨c - 48 * canvas, by omega, by omega⟩, h⟩

theorem Launch.nodup_coresOf (l : Launch) (canvas : Nat) : (l.coresOf canvas).Nodup :=
  (List.nodup_range.map fun _ _ h => Nat.add_left_cancel h).filter _

/-- Queueing a launch on a core with its first root there (R20, R22). -/
def State.queueOn (s : State) (l : Launch) (c : Nat) : State :=
  s.modCore c fun k => { k with lq := k.lq ++ [⟨l.id, l.firstOn c⟩] }

/-- A launch that is queued on several cores stands last in the queue of each, and other queues are as before. -/
theorem State.lq_foldl_queueOn (l : Launch) {cs : List Nat} (hnd : cs.Nodup) (hlt : ∀ c ∈ cs, c < s.cores.length) (c : Nat) :
    ((cs.foldl (·.queueOn l ·) s).core c).lq = (s.core c).lq ++ if c ∈ cs then [⟨l.id, l.firstOn c⟩] else [] := by
  induction cs generalizing s with
  | nil => simp
  | cons a cs ih =>
    obtain ⟨ha, hnd⟩ := List.nodup_cons.mp hnd
    rw [List.foldl_cons, ih hnd fun x hx => by simpa [State.queueOn] using hlt x (List.mem_cons_of_mem _ hx)]
    by_cases hc : c = a
    · subst hc
      rw [State.queueOn, State.core_modCore _ _ _ (hlt c List.mem_cons_self), if_neg ha, if_pos List.mem_cons_self, List.append_nil]
    · rw [State.queueOn, State.core_modCore_ne _ _ hc]
      simp only [List.mem_cons, hc, false_or]

theorem State.launches_foldl_queueOn (l : Launch) (cs : List Nat) : (cs.foldl (·.queueOn l ·) s).launches = s.launches :=
  foldl_keeps (P := fun r => r.launches = s.launches) (f := (·.queueOn l ·)) (fun _ _ h => h) cs s rfl

/-- A launch that a canvas has taken (R20). -/
def State.takenBy (s : State) (l : Launch) (canvas : Nat) : State :=
  s.modLaunch l.id fun x => { x with canvases := canvas :: x.canvases }

/-- A canvas takes the next launch once each of its cores has room for it (R20, R22). -/
theorem exec_launchDispatch {canvas : Nat} {l : Launch} (hcan : canvas < 4)
    (hl : s.launches.find? (fun l => !l.canvases.contains canvas && !l.aborted && !l.out) = some l)
    (hroom : ∀ c ∈ l.coresOf canvas, (s.core c).lq.length < 16) :
    exec (.launchDispatch canvas) s = .next (((l.coresOf canvas).foldl (·.queueOn l ·) (s.takenBy l canvas)).finishLaunch l.id) := by
  have hall : (l.coresOf canvas).all (fun c => decide ((s.core c).lq.length < 16)) = true := by simpa using hroom
  simp only [exec, execLaunchDispatch, hl, needSome_some, hcan, decide_true, Bool.true_and]
  exact need_of hall _

/-! ### Acceptance -/

/-- The two states have the same packets at the arbiter, launches, sequence number and chain frontiers. -/
structure State.SameLaunches (a b : State) : Prop where
  arb : b.arb = a.arb
  launches : b.launches = a.launches
  seqNo : b.seqNo = a.seqNo
  frontiers : b.frontiers = a.frontiers

theorem State.SameLaunches.trans {a b c : State} (h : a.SameLaunches b) (g : b.SameLaunches c) : a.SameLaunches c :=
  ⟨g.arb.trans h.arb, g.launches.trans h.launches, g.seqNo.trans h.seqNo, g.frontiers.trans h.frontiers⟩

theorem State.sameLaunches_takeUp (s : State) (chair : Nat) (src : LaunchFrom) : s.SameLaunches (s.takeUp chair src).2 := by
  obtain ⟨hl, hn, ha, hf, -⟩ := s.takeUp_same chair src
  exact ⟨ha, hl, hn, hf⟩

theorem State.sameLaunches_passPacket (s : State) (chair : Nat) (id : Option Nat) (src : LaunchFrom) :
    s.SameLaunches (s.passPacket chair id src) := by
  cases src <;> exact ⟨rfl, rfl, rfl, rfl⟩

theorem State.sameLaunches_answerLaunch (s : State) (chair : Nat) (src : LaunchFrom) (st : Nat) :
    s.SameLaunches (s.answerLaunch chair src st) := by
  unfold State.answerLaunch
  split
  · exact ⟨rfl, rfl, rfl, rfl⟩
  · split <;> exact ⟨rfl, rfl, rfl, rfl⟩
  · exact ⟨rfl, rfl, rfl, rfl⟩

theorem State.sameLaunches_gpaTry (s : State) (chair gpa n v : Nat) : s.SameLaunches (s.gpaTry chair gpa n v) := by
  unfold State.gpaTry gpaStore
  cases gpaPlace s chair gpa <;> exact ⟨rfl, rfl, rfl, rfl⟩

theorem State.sameLaunches_badEntry (s : State) (chair n kind : Nat) : s.SameLaunches (s.badEntry chair n kind) := by
  have hstatus : ∀ r : State, r.SameLaunches (r.setQueueStatus chair n 2 (some kind)) := fun r => by
    obtain ⟨-, hl, hn, ha, hf, -⟩ := r.setQueueStatus_rest chair n 2 (some kind)
    exact ⟨ha, hl, hn, hf⟩
  have hq : ∀ f, s.SameLaunches (s.modQ chair n f) := fun _ => ⟨rfl, rfl, rfl, rfl⟩
  unfold State.badEntry
  dsimp only
  split
  · split
    · exact ((hq _).trans (State.sameLaunches_gpaTry _ _ _ _ _)).trans (hstatus _)
    · exact hstatus _
  · exact hstatus _

/-- Errors that are counted change error records alone (R349, R350). -/
structure State.Counted (a b : State) : Prop where
  launches : a.SameLaunches b
  chairs : b.chairs = a.chairs
  slot : ∀ c i, b.slot? c i = a.slot? c i
  cq : ∀ c, (b.core c).cq = (a.core c).cq

theorem State.cq_modErr (s : State) (core n : Nat) (f : ErrRec → ErrRec) (c : Nat) : ((s.modErr core n f).core c).cq = (s.core c).cq := by
  by_cases hc : c = core
  · subst hc
    by_cases hlt : c < s.cores.length
    · rw [State.modErr, State.core_modCore _ _ _ hlt]
    · rw [State.core_none _ (by simpa [State.modErr] using hlt), State.core_none _ (by simpa using hlt)]
  · rw [State.modErr, State.core_modCore_ne _ _ hc]

theorem State.counted_noteUe (s : State) (x : Fail) : s.Counted (s.noteUe x) := by
  refine foldl_keeps (P := s.Counted) (fun r a hr => ?_) _ _ ⟨⟨rfl, rfl, rfl, rfl⟩, rfl, fun _ _ => rfl, fun _ => rfl⟩
  exact ⟨hr.launches.trans ⟨rfl, rfl, rfl, rfl⟩, hr.chairs, fun c i => (r.slot?_modCore _ _ _ _ rfl).trans (hr.slot c i),
    fun c => (r.cq_modErr _ _ _ c).trans (hr.cq c)⟩

/-- Taking up a packet leaves CHCTL (R299). -/
theorem State.primax_takeUp (s : State) (chair n : Nat) (src : LaunchFrom) :
    ((s.takeUp chair src).2.chair n).primax = (s.chair n).primax := by
  have h : s.SameBoard (s.takeUp chair src).2 := by
    cases src with
    | device a b c d e f => exact .of_eq rfl rfl
    | remote p => exact .of_eq rfl rfl
    | table q a b st =>
      have hdraw : ∀ n, s.SameBoard (s.draw n).2 := fun _ => .of_eq rfl rfl
      have hlt : ∀ (r : State) lt, r.SameBoard (r.modChair chair fun c => { c with lt := lt }) := fun r _ =>
        r.sameBoard_modChair chair fun _ => rfl
      simp only [State.takeUp]
      split
      · exact (hdraw _).trans (hlt _ _)
      · split
        · exact ((hdraw _).trans (hlt _ _)).trans (.of_eq rfl rfl)
        · have hstatus : ∀ (r : State) k w c, r.SameBoard (((r.ueGlobal w).noteCarve c).setQueueStatus chair q 2 k) := fun r k w c => by
            obtain ⟨hc, -, -, ha, -⟩ := ((r.ueGlobal w).noteCarve c).setQueueStatus_rest chair q 2 k
            exact .of_eq ha hc
          exact ((hdraw _).trans (hlt _ _)).trans (hstatus _ _ _ _)
  simp only [Chair.primax, h.chctl]

section Acceptance

variable {chair : Nat} {e : ArbEntry}

theorem State.tableRoom_of (h : ∀ q a b d, e.src = .table q a b d → freeIdx (s.chair chair).lt 0 4096 ≠ []) :
    s.tableRoom chair e.src = true := by
  cases hs : e.src with
  | table q a b d => simpa [State.tableRoom] using h q a b d hs
  | device | remote => rfl

/-- A packet whose handle cannot be stored is dropped, once the table does not make it wait (R377). -/
theorem exec_launchAcceptance_drop {m : Nat} {x : Fail} (he : s.arb.find? (·.chair = chair) = some e)
    (hroom : s.tableRoom chair e.src = true) (hj : judge s e ≠ .wait) (hs : e.storeFail s = some (m, x)) :
    exec (.launchAcceptance chair) s = .next ((s.noteUe x).dropPacket chair m e) := by
  cases hv : judge s e with
  | wait => exact absurd hv hj
  | refuse | accept => simp only [exec, execLaunchAcceptance, he, needSome_some, need_of hroom, hs, hv]

theorem exec_launchAcceptance_refuse {x : Fail} (he : s.arb.find? (·.chair = chair) = some e)
    (hroom : s.tableRoom chair e.src = true) (hj : judge s e = .refuse x) (hs : e.storeFail s = none) :
    exec (.launchAcceptance chair) s = .next (s.refuseLaunch chair e x) := by
  simp only [exec, execLaunchAcceptance, he, needSome_some, need_of hroom, hs, hj]

theorem exec_launchAcceptance_accept {runs : List (Nat × Nat)} {ctx : Nat} (he : s.arb.find? (·.chair = chair) = some e)
    (hroom : s.tableRoom chair e.src = true) (hj : judge s e = .accept runs) (hs : e.storeFail s = none)
    (hctx : s.freeCtx chair = some ctx) : exec (.launchAcceptance chair) s = .next (s.acceptLaunch chair e ctx runs) := by
  simp only [exec, execLaunchAcceptance, he, needSome_some, need_of hroom, hs, hj, hctx]

/-- The state in which a packet has left the arbiter. -/
def State.without (s : State) (e : ArbEntry) : State := { s with arb := s.arb.erase e }

/-- The state in which a refused or dropped packet has left the arbiter, its error counted. -/
def State.refused (s : State) (e : ArbEntry) (x : Fail) : State := (s.noteUe x).without e

theorem State.sameLaunches_refused (s : State) (e : ArbEntry) (x : Fail) : (s.without e).SameLaunches (s.refused e x) := by
  obtain ⟨ha, hl, hn, hf⟩ := (s.counted_noteUe x).launches
  exact ⟨congrArg (·.erase e) ha, hl, hn, hf⟩

/-- A dropped packet leaves the arbiter, and nothing is launched (R377). -/
theorem State.sameLaunches_dropPacket (s : State) (n : Nat) (x : Fail) : (s.without e).SameLaunches ((s.noteUe x).dropPacket chair n e) := by
  have hdrop : (s.refused e x).SameLaunches ((s.noteUe x).dropPacket chair n e) :=
    State.SameLaunches.trans (b := (s.refused e x).modQ chair n fun q => { q with offered := false }) ⟨rfl, rfl, rfl, rfl⟩
      (State.sameLaunches_badEntry _ chair n _)
  exact (s.sameLaunches_refused e x).trans hdrop

theorem State.refuseLaunch_eq (s : State) (chair : Nat) (e : ArbEntry) (x : Fail) :
    s.refuseLaunch chair e x = (((s.refused e x).takeUp chair e.src).2.answerLaunch chair ((s.refused e x).takeUp chair e.src).1
      x.code).passPacket chair none ((s.refused e x).takeUp chair e.src).1 := rfl

/-- A refused packet leaves the arbiter, and nothing is launched (R19). -/
theorem State.sameLaunches_refuseLaunch (s : State) (x : Fail) : (s.without e).SameLaunches (s.refuseLaunch chair e x) := by
  rw [State.refuseLaunch_eq]
  exact (((s.sameLaunches_refused e x).trans (State.sameLaunches_takeUp _ _ _)).trans (State.sameLaunches_answerLaunch _ _ _ _)).trans
    (State.sameLaunches_passPacket _ _ _ _)

/-- The handle of a refused packet from a command queue completes with the status, or is free at once where none was asked
for (R19, R320). -/
theorem State.table_refuseLaunch {q a b d : Nat} (x : Fail) (hc : chair < s.chairs.length) (hsrc : e.src = .table q a b d)
    (hfree : freeIdx (s.chair chair).lt 0 4096 ≠ []) :
    ∃ y ∈ ((s.refuseLaunch chair e x).chair chair).lt, y.idx ∈ freeIdx (s.chair chair).lt 0 4096 ∧
      y.word = complWord 0 x.code ∧ y.st = if d = 0 then .free else .done := by
  have hchairs : (s.refused e x).chairs = s.chairs := (s.counted_noteUe x).chairs
  have hchair : (s.refused e x).chair chair = s.chair chair := by simp only [State.chair, hchairs]
  obtain ⟨idx, seq, st, htake, hidx, ⟨l, hl⟩, hlen⟩ := State.table_takeUp (s := s.refused e x) (chair := chair) q a b d
    (by rw [hchairs]; exact hc) (by rw [hchair]; exact hfree)
  rw [hchair] at hidx
  rw [State.refuseLaunch_eq, hsrc, htake]
  generalize ((s.refused e x).takeUp chair (.table q a b d)).2 = t at hl hlen
  have ht : chair < t.chairs.length := by rw [hlen, hchairs]; exact hc
  have hlt : (((t.answerLaunch chair (.table q idx seq st) x.code).passPacket chair none (.table q idx seq st)).chair chair).lt =
      modEntry (t.chair chair).lt 0 idx seq fun y => if y.st = .pending then y.complete (complWord 0 x.code) else y := by
    rw [State.passPacket, State.chair_modChair_same _ (by simpa [State.answerLaunch, State.modChair] using ht), State.answerLaunch,
      State.chair_modChair_same _ ht]
  refine ⟨CqEntry.complete ⟨0, idx, seq, .pending, 0, decide (d = 0)⟩ (complWord 0 x.code), ?_, ?_⟩
  · rw [hlt, hl]
    exact List.mem_cons.mpr (.inl (by simp))
  · by_cases hd : d = 0
    · simp [CqEntry.complete, hd, hidx]
    · simp [CqEntry.complete, hd, hidx]

/-- The handle of a refused packet from a core completes with the status while its context is there (R177, R320). -/
theorem State.device_refuseLaunch {core slot idx seq owner : Nat} {priv : Bool} (x : Fail)
    (hsrc : e.src = .device core slot idx seq owner priv) (howner : (s.slot? core slot).map (·.launch) = some owner) :
    ((s.refuseLaunch chair e x).core core).cq = modEntry (s.core core).cq slot idx seq fun y =>
      if y.st = .pending then y.complete (complWord 0 x.code) else y := by
  obtain ⟨-, -, hslot, hcq⟩ := s.counted_noteUe x
  obtain ⟨sl, hs, -⟩ := Option.map_eq_some_iff.mp howner
  have howner' : ((s.refused e x).slot? core slot).map (·.launch) = some owner := by rw [← howner]; exact congrArg _ (hslot core slot)
  have hlt : core < (s.refused e x).cores.length := State.core_lt_of_slot ((hslot core slot).trans hs)
  have hcq' : ((s.refused e x).core core).cq = (s.core core).cq := hcq core
  have hanswer : s.refuseLaunch chair e x = (s.refused e x).completeCq core slot idx seq (complWord 0 x.code) := by
    rw [State.refuseLaunch_eq, hsrc]
    exact if_pos howner'
  rw [hanswer, State.completeCq, State.core_modCore _ _ _ hlt, hcq']

/-- Opening a chain: its frontier is set where no live context of the chair uses the chain (R199). -/
def State.openChain (s : State) (chair chain : Nat) : State :=
  if (s.contexts chair).any fun l => decide (pkDw l.packet 7 % 2 ^ 16 = chain) then s else s.setFrontier ⟨chair, chain, noOwn, 0⟩

theorem State.openChain_keeps (s : State) (chair chain : Nat) :
    (s.openChain chair chain).arb = s.arb ∧ (s.openChain chair chain).launches = s.launches ∧
      (s.openChain chair chain).seqNo = s.seqNo ∧ (s.openChain chair chain).chairs = s.chairs := by
  unfold State.openChain
  split <;> exact ⟨rfl, rfl, rfl, rfl⟩

theorem State.frontier_openChain {chain : Nat} (h : ∀ x ∈ s.contexts chair, pkDw x.packet 7 % 2 ^ 16 ≠ chain) :
    (s.openChain chair chain).frontier chair chain = ⟨chair, chain, noOwn, 0⟩ := by
  have hnone : ((s.contexts chair).any fun l => decide (pkDw l.packet 7 % 2 ^ 16 = chain)) = false := by simpa using h
  rw [State.openChain, hnone, if_neg Bool.false_ne_true]
  simp [State.frontier, State.setFrontier]

/-- The state in which an accepted packet has been taken up and its chain opened. -/
def State.opened (s : State) (chair : Nat) (e : ArbEntry) : State :=
  ((s.without e).takeUp chair e.src).2.openChain chair (pkDw e.packet 7 % 2 ^ 16)

/-- The launch that a packet becomes (R19, R293, R306). -/
def State.launchOf (w : State) (chair : Nat) (e : ArbEntry) (ctx : Nat) (runs : List (Nat × Nat)) (src : LaunchFrom) : Launch :=
  { id := w.nextId, s := w.seqNo, chair := chair, ctx := ctx, packet := lowerPri e.packet (w.chair chair).primax, priv := src.priv,
    src := src, runs := runs, canvases := [], status := 0, out := false, aborted := false, evict := false, back := [],
    chestGpa := w.drawArea.1 }

theorem State.acceptLaunch_eq (s : State) (chair : Nat) (e : ArbEntry) (ctx : Nat) (runs : List (Nat × Nat)) :
    s.acceptLaunch chair e ctx runs = ({ (s.opened chair e).drawArea.2 with
      nextId := (s.opened chair e).nextId + 1, seqNo := ((s.opened chair e).seqNo + 1) % 2 ^ 32,
      launches := (s.opened chair e).launches ++ [(s.opened chair e).launchOf chair e ctx runs ((s.without e).takeUp chair e.src).1] } :
        State).passPacket chair (some (s.opened chair e).nextId) ((s.without e).takeUp chair e.src).1 := rfl

/-- What an accepted packet's state has of the state before: its arbiter without the packet, its launches and its chair's PRIMAX. -/
theorem State.opened_keeps (s : State) (chair : Nat) (e : ArbEntry) :
    (s.opened chair e).arb = s.arb.erase e ∧ (s.opened chair e).launches = s.launches ∧ (s.opened chair e).seqNo = s.seqNo ∧
      ((s.opened chair e).chair chair).primax = (s.chair chair).primax := by
  obtain ⟨harb, hlaunches, hseq, hchairs⟩ := State.openChain_keeps ((s.without e).takeUp chair e.src).2 chair (pkDw e.packet 7 % 2 ^ 16)
  obtain ⟨ha, hl, hn, -⟩ := (s.without e).sameLaunches_takeUp chair e.src
  have hprimax := (s.without e).primax_takeUp chair chair e.src
  refine ⟨harb.trans ha, hlaunches.trans hl, hseq.trans hn, Eq.trans ?_ hprimax⟩
  simp only [State.chair, State.opened, hchairs]

/-- An accepted packet becomes the last launch, and its chain's frontier is set where no live context of the chair uses the
chain (R19, R199). -/
theorem State.acceptLaunch_leaves (s : State) (chair : Nat) (e : ArbEntry) (ctx : Nat) (runs : List (Nat × Nat)) :
    let u := s.acceptLaunch chair e ctx runs
    u.arb = s.arb.erase e ∧
      u.launches = s.launches ++ [(s.opened chair e).launchOf chair e ctx runs ((s.without e).takeUp chair e.src).1] ∧
      u.seqNo = (s.seqNo + 1) % 2 ^ 32 ∧ ((∀ x ∈ s.contexts chair, pkDw x.packet 7 % 2 ^ 16 ≠ pkDw e.packet 7 % 2 ^ 16) →
        u.frontier chair (pkDw e.packet 7 % 2 ^ 16) = ⟨chair, pkDw e.packet 7 % 2 ^ 16, noOwn, 0⟩) := by
  obtain ⟨harb, hlaunches, hseq, -⟩ := s.opened_keeps chair e
  intro u
  obtain ⟨ha, hl, hn, hf⟩ := State.sameLaunches_passPacket ({ (s.opened chair e).drawArea.2 with
      nextId := (s.opened chair e).nextId + 1, seqNo := ((s.opened chair e).seqNo + 1) % 2 ^ 32,
      launches := (s.opened chair e).launches ++ [(s.opened chair e).launchOf chair e ctx runs ((s.without e).takeUp chair e.src).1] } :
        State) chair (some (s.opened chair e).nextId) ((s.without e).takeUp chair e.src).1
  rw [← State.acceptLaunch_eq] at ha hl hn hf
  refine ⟨ha.trans harb, hl.trans (by rw [hlaunches]), hn.trans (by rw [hseq]), fun hnone => ?_⟩
  have hlive : ∀ x ∈ ((s.without e).takeUp chair e.src).2.contexts chair, pkDw x.packet 7 % 2 ^ 16 ≠ pkDw e.packet 7 % 2 ^ 16 := by
    rw [State.contexts, ((s.without e).sameLaunches_takeUp chair e.src).launches]
    exact hnone
  rw [State.frontier, hf]
  exact State.frontier_openChain hlive

end Acceptance

/-- Settles O52, by the act that each clause is about; the table's clauses are those of `judge`. -/
theorem launchesAreAccepted : Obligations.LaunchesAreAccepted := by
  intro s
  refine ⟨readPacket_reads s, ?judged, ?taken, ?dispatched, ?slotted⟩
  case judged =>
    intro e c refused done
    refine ⟨judge_disabled, judge_asid, judge_bad, fun hen hasid hgood => ⟨fun x hx h => ?_, fun y hy h => ?_, fun hx hy => ?_⟩⟩
    · exact judge_readFail hen hasid hgood (ArbEntry.readFail_map hx h)
    · exact judge_readFail hen hasid hgood (ArbEntry.readFail_after hy h)
    · have hjudge := judge_read (s := s) hen hasid hgood (ArbEntry.readFail_none hx hy)
      have hsound : ∀ h, (∀ code, ¬done h code) → faulted (s.handleState e.chair h) = false := fun h hno => by
        refine Bool.eq_false_iff.mpr fun hf => ?_
        obtain ⟨w, code, hw, hcode, hne⟩ := faulted_iff.mp hf
        exact hno code ⟨w, hw, hcode, hne⟩
      refine ⟨fun j hj code ⟨w, hw, hcode, hne⟩ hfirst => ?_, fun hno => ⟨fun hwait => ?_, fun hpend hctx hfree => ?_⟩⟩
      · subst hcode
        exact hjudge.trans (State.judgeAfter_refuses hj hw hne fun k hk => hsound _ (hfirst k hk))
      · rw [hjudge, State.judgeAfter_unfaulted fun h hh => hsound h (hno h hh)]
        exact if_pos (State.judgeAfter_waits_iff.mpr hwait)
      · rw [hjudge, State.judgeAfter_unfaulted fun h hh => hsound h (hno h hh)]
        refine if_neg (State.judgeAfter_waits_iff.not.mpr ?_)
        rintro (⟨h, hh, hs⟩ | hle | hnone)
        · exact hpend h hh hs
        · exact absurd hctx (Nat.not_lt.mpr hle)
        · rw [hnone] at hfree; cases hfree
  case taken =>
    intro chair e he hc hfree
    have hroom := State.tableRoom_of hfree
    refine ⟨fun m x hj hs => ?_, fun x hj hs => ?_, fun runs ctx hj hs hctx => ?_⟩
    · obtain ⟨ha, hl, hn, -⟩ := s.sameLaunches_dropPacket (chair := chair) (e := e) m x
      exact ⟨_, exec_launchAcceptance_drop he hroom hj hs, ha, hl, hn⟩
    · obtain ⟨ha, hl, hn, -⟩ := s.sameLaunches_refuseLaunch (chair := chair) (e := e) x
      exact ⟨_, exec_launchAcceptance_refuse he hroom hj hs, ha, hl, hn,
        fun q a b d hsrc => State.table_refuseLaunch x hc hsrc (hfree q a b d hsrc),
        fun core slot idx seq owner priv hsrc howner => State.device_refuseLaunch x hsrc howner⟩
    · obtain ⟨ha, hl, hn, hf⟩ := s.acceptLaunch_leaves chair e ctx runs
      obtain ⟨-, -, hseq, hprimax⟩ := s.opened_keeps chair e
      obtain ⟨-, -, -, -, -, hpriv, -⟩ := (s.without e).takeUp_same chair e.src
      exact ⟨_, _, exec_launchAcceptance_accept he hroom hj hs hctx, ha, hl, hn, hseq, rfl, rfl, congrArg (lowerPri e.packet) hprimax,
        rfl, hpriv, rfl, rfl, rfl, hf⟩
  case dispatched =>
    intro canvas l hcan hlen hl hroom
    have hmem : ∀ c ∈ l.coresOf canvas, c < s.cores.length := fun c hc => by
      obtain ⟨-, hlt, -⟩ := Launch.mem_coresOf.mp hc
      omega
    refine ⟨_, exec_launchDispatch hcan hl fun c hc => ?_, fun x hx hid => ?_, fun c => ?_⟩
    · obtain ⟨h1, h2, h3⟩ := Launch.mem_coresOf.mp hc
      exact hroom c h1 h2 h3
    · have hx' := (State.finishLaunch_slot _ _ 0 0).2 x hx
      rw [State.launches_foldl_queueOn] at hx'
      obtain ⟨y, -, rfl⟩ := List.mem_map.mp hx'
      split at hid
      next h => rw [if_pos h]; exact List.mem_cons_self
      next h => exact absurd hid h
    · obtain ⟨cq, hcore⟩ := State.finishLaunch_core ((l.coresOf canvas).foldl (·.queueOn l ·) (s.takenBy l canvas)) l.id c
      rw [hcore]
      exact (State.lq_foldl_queueOn (s := s.takenBy l canvas) l (l.nodup_coresOf canvas) hmem c).trans (by simp only [Launch.mem_coresOf]; rfl)
  case slotted =>
    intro core q l i hq hl hc hi hi4 hfree hlow hnew ha hout hev hfit
    obtain ⟨n, hs, r, hr, hri, hva⟩ := State.loadChestRange_holds (State.slot?_set hc hi
      (Slot.taken l ((s.core core).freeUnits.take (pkLmp l.packet)) (min (bits (pkDw l.packet 2) 24 3) (s.chair l.chair).primax)))
    have hpri : min (bits (pkDw l.packet 2) 24 3) (s.chair l.chair).primax < 8 :=
      (Nat.min_le_left _ _).trans_lt (Nat.mod_lt _ (by decide))
    obtain ⟨hprio, hlmp⟩ := Slot.taken_fields l ((s.core core).freeUnits.take (pkLmp l.packet)) hpri
    exact ⟨_, _, exec_contextSlotTake hq hl hc hi4 hfree hlow hnew ha hout hev hfit, hs, rfl, rfl, rfl, hprio, rfl, rfl, hlmp, rfl, rfl, rfl,
      rfl, rfl, rfl, rfl, rfl, rfl, r, hr, hri, hva⟩

end Sys2Proof.Machine

/-! PROOFS. Reserved formats and tags, floating point, and systolic configuration (O11, O22, O26, O39). -/

namespace Sys2Proof.Machine
open Sys2Proof

/-! ### A poisoned word, a reserved tag, a reserved format field (O39) -/

/-- An instruction that never faults still consumes a poisoned window word (R316). -/
theorem fireAny_of_bad {s : State} {c : Ctx} {pr : Pred} (hc : s.fireCtx = some c) (hb : c.inst.bad.contains c.k = true)
    (body : Ctx → Out) : fireAny s pr body = c.badWord := by
  simp only [fireAny, hc, needSome_some, hb, if_true]

/-- A poisoned window word is what any instruction at its slot answers with. -/
theorem exec_of_bad {i : Instr} {s : State} {c : Ctx} (hi : i.code.isSome = true) (hc : s.fireCtx = some c)
    (hb : c.inst.bad.contains c.k = true) : exec i s = c.badWord := by
  cases hpref : isPref i with
  | false =>
    obtain ⟨body, h⟩ := exec_eq_fire hi hpref s
    rw [h, fire_of_bad hc hb]
  | true =>
    cases i <;> try (cases hpref; done)
    exact fireAny_of_bad hc hb _

/-- An instruction with a format field examines it before its operands (R121, log entry 75). -/
theorem exec_eq_withFmt {i : Instr} {x : Fmt} (hx : x ∈ Instr.fmts i) (s : State) :
    ∃ body : Ctx → Out, exec i s = fire s (Instr.pr i) fun c => withFmt c (Instr.fmts i) (body c) := by
  cases i <;> try (cases hx; done)
  all_goals exact ⟨_, rfl⟩

/-- A reserved code in a format field raises FORMAT_RESERVED (R79, R121). -/
theorem exec_of_reserved_format {i : Instr} {s : State} {c : Ctx} (h : s.Fires c (Instr.pr i)) {x : Fmt}
    (hx : x ∈ Instr.fmts i) (hr : x.isReserved = true) : exec i s = .next (c.faulted (.plain FC.formatReserved)) := by
  obtain ⟨body, e⟩ := exec_eq_withFmt hx s
  rw [e, fire_of_fires h, withFmt_of_reserved hx hr, Ctx.raise_eq]

/-- A port whose tag is a reserved code makes its match one (R79). -/
theorem Match.reserved_of_port {m : Match} (h : CarriesReserved m.a ∨ CarriesReserved m.b ∨ CarriesReserved m.p) :
    m.reserved = true := by
  obtain h | h | h := h <;> exact Match.reserved_of h (by simp)

/-- Settles O39: the firing itself looks at the window word and at the tags, and the station at the format fields. -/
theorem aReservedTagFaults : Obligations.AReservedTagFaults := by
  intro i s c hi hc
  refine ⟨fun hb hp hr => ?_, fun h ⟨x, hx, hr⟩ => exec_of_reserved_format h hx hr, fun hb => exec_of_bad hi hc hb⟩
  obtain ⟨body, h⟩ := exec_eq_fire hi hp s
  rw [h, fire_of_reserved hc hb (Match.reserved_of_port hr), Ctx.raise_eq]

/-! ### Results in a format (O11, O22) -/

/-- A firing in a format: the datum `d`, or FORMAT_RESERVED where the format is a reserved code. -/
def EmitsIn (i : Instr) (s : State) (c : Ctx) (w : Fmt) (ts : List Target) (d : Datum) : Prop :=
  (w.isReserved = false → exec i s = .next (c.sent ts (some d))) ∧
  (w.isReserved = true → exec i s = .next (c.faulted (.plain FC.formatReserved)))

section Results
variable {i : Instr} {s : State} {c : Ctx} {w : Fmt} {ts : List Target} {a b p : Datum}

/-- An instruction whose one format field is `w` emits in `w` what it answers where `w` is no reserved code. -/
theorem emitsIn_of {d : Datum} (h : s.Fires c (Instr.pr i)) (hw : Instr.fmts i = [w])
    (hd : (∀ f ∈ [w], f.isReserved = false) → exec i s = .next (c.sent ts (some d))) : EmitsIn i s c w ts d :=
  ⟨fun hr => hd (by simpa using hr), exec_of_reserved_format h (by simp [hw])⟩

/-- An instruction that computes a datum of A. -/
theorem emitsIn_of_station1 {pr : Pred} {v : Datum → Datum} (h : s.Fires c pr) (ha : Carries c.m.a a)
    (hp : Instr.pr i = pr) (hw : Instr.fmts i = [w])
    (hi : exec i s = station1 s pr [w] ts fun c a => c.out ts (some (v a))) : EmitsIn i s c w ts (v a) :=
  emitsIn_of (hp ▸ h) hw fun hr => hi.trans (station1_of_fires h hr ha _ _)

/-- An instruction that computes a datum of A and B. -/
theorem emitsIn_of_station2 {pr : Pred} {v : Datum → Datum → Datum} (h : s.Fires c pr) (ha : Carries c.m.a a)
    (hb : Carries c.m.b b) (hp : Instr.pr i = pr) (hw : Instr.fmts i = [w])
    (hi : exec i s = station2 s pr [w] ts fun c a b => c.out ts (some (v a b))) : EmitsIn i s c w ts (v a b) :=
  emitsIn_of (hp ▸ h) hw fun hr => hi.trans (station2_of_fires h hr ha hb _ _)

/-- An instruction that computes a datum of A, B and P. -/
theorem emitsIn_of_station3 {v : Datum → Datum → Datum → Datum} (h : s.Fires c .always) (ha : Carries c.m.a a)
    (hb : Carries c.m.b b) (hp : Carries c.m.p p) (hpr : Instr.pr i = .always) (hw : Instr.fmts i = [w])
    (hi : exec i s = station3 s [w] ts fun c a b p => c.out ts (some (v a b p))) : EmitsIn i s c w ts (v a b p) :=
  emitsIn_of (hpr ▸ h) hw fun hr => hi.trans (station3_of_fires h hr ha hb hp _ _)

/-- A scalar floating-point operation rounds its exact result once, to nearest even (R183). -/
theorem emitsIn_fpOp2 {f : FF} (op : EV → EV → EV) (h : s.Fires c f.pr) (ha : Carries c.m.a a) (hb : Carries c.m.b b)
    (hp : Instr.pr i = f.pr) (hw : Instr.fmts i = [f.fmt]) (hi : exec i s = fpOp2 f s op) :
    EmitsIn i s c f.fmt [f.t0, f.t1] (.scalar f.fmt ((op a.evOf b.evOf).round f.fmt .rne)) :=
  emitsIn_of_station2 (v := fun a b => .scalar f.fmt ((op a.evOf b.evOf).round f.fmt .rne)) h ha hb hp hw hi

/-- A lane operation of A rounds each exact result once (R222, R225). -/
theorem emitsIn_fpLanes1 {f : FV} (op : EV → EV) (h : s.Fires c f.pr) (ha : Carries c.m.a a)
    (hp : Instr.pr i = f.pr) (hw : Instr.fmts i = [f.fmt]) (hi : exec i s = fpLanes1 f s op) :
    EmitsIn i s c f.fmt [f.t0, f.t1] (.fpVector f.fmt f.rm fun j => op (a.evLane j)) :=
  emitsIn_of_station1 (v := fun a => .fpVector f.fmt f.rm fun j => op (a.evLane j)) h ha hp hw hi

/-- A lane operation of A and B rounds each exact result once (R222, R225). -/
theorem emitsIn_fpLanes2 {f : FV} (op : EV → EV → EV) (h : s.Fires c f.pr) (ha : Carries c.m.a a) (hb : Carries c.m.b b)
    (hp : Instr.pr i = f.pr) (hw : Instr.fmts i = [f.fmt]) (hi : exec i s = fpLanes2 f s op) :
    EmitsIn i s c f.fmt [f.t0, f.t1] (.fpVector f.fmt f.rm fun j => op (a.evLane j) (b.evLane j)) :=
  emitsIn_of_station2 (v := fun a b => .fpVector f.fmt f.rm fun j => op (a.evLane j) (b.evLane j)) h ha hb hp hw hi

/-- A lane operation of A, B and P rounds each exact result once (R222, R225). -/
theorem emitsIn_fpLanes3 {f : FV3} (op : EV → EV → EV → EV) (h : s.Fires c .always) (ha : Carries c.m.a a)
    (hb : Carries c.m.b b) (hp : Carries c.m.p p) (hpr : Instr.pr i = .always) (hw : Instr.fmts i = [f.fmt])
    (hi : exec i s = fpLanes3 f s op) :
    EmitsIn i s c f.fmt [f.t0, f.t1] (.fpVector f.fmt f.rm fun j => op (a.evLane j) (b.evLane j) (p.evLane j)) :=
  emitsIn_of_station3 (v := fun a b p => .fpVector f.fmt f.rm fun j => op (a.evLane j) (b.evLane j) (p.evLane j))
    h ha hb hp hpr hw hi

/-- The lanes of A with their signs changed: A's own elements where it bears W, a scalar's on every lane, else its values
rounded into W (R226). -/
def Datum.signed (a : Datum) (w : Fmt) (abs : Bool) : Datum :=
  if a.tag = w then
    .vector w w.lane ((List.range (512 / w.lane)).map fun i => signOp w abs (a.lane w.lane (if a.vec then i else 0)))
  else .vector w w.lane ((List.range 16).map fun i => signOp w abs ((a.evLane i).round w .rne))

theorem signLanes_eq (f : FF) (s : State) (abs : Bool) :
    signLanes f s abs = station1 s f.pr [f.fmt] [f.t0, f.t1] fun c a => c.out [f.t0, f.t1] (some (a.signed f.fmt abs)) := by
  simp only [signLanes, Datum.signed, apply_ite (Datum.lane _ _)]

/-- VSCALE's datum: the values times the scale in FP32, else their quotients by it, with the scale's pattern in the top 32
bits (R90, R233). -/
def Datum.scaledBy (a b : Datum) (w : Fmt) : Datum :=
  if w = .fp32 then .fpVector .fp32 .rne fun i => (a.evLane i).mul (b.evLane 0)
  else
    let q := Datum.fpVector w .rne fun i => (a.evLane i).div (b.evLane 0)
    { q with bits := q.bits + BitVec.ofNat 512 ((b.evLane 0).round .fp32 .rne * 2 ^ 480) }

theorem emitsIn_vscale {f : FF} (h : s.Fires c f.pr) (ha : Carries c.m.a a) (hb : Carries c.m.b b) :
    EmitsIn (.vscale f) s c f.fmt [f.t0, f.t1] (a.scaledBy b f.fmt) :=
  emitsIn_of_station2 (v := fun a b => a.scaledBy b f.fmt) h ha hb rfl rfl rfl

end Results

/-- Settles O11: each instruction is one scalar operation of the shared firing, its one rounding last. -/
theorem scalarFloatRoundsOnce : Obligations.ScalarFloatRoundsOnce := by
  intro s c f a b h ha hb
  exact ⟨emitsIn_fpOp2 _ h ha hb rfl rfl rfl, emitsIn_fpOp2 (fun x y => EV.add .rne x y.negate) h ha hb rfl rfl rfl,
    emitsIn_fpOp2 _ h ha hb rfl rfl rfl, emitsIn_fpOp2 _ h ha hb rfl rfl rfl, emitsIn_fpOp2 _ h ha hb rfl rfl rfl,
    emitsIn_fpOp2 _ h ha hb rfl rfl rfl⟩

/-- Settles O22: by how many ports the lanes are computed from; VABS, VNEG and VSCALE by their own datum. -/
theorem vectorFloatLanesRoundOnce : Obligations.VectorFloatLanesRoundOnce := by
  intro s c a ha
  refine ⟨fun f h => ?one, fun f b h hb => ?two, fun f b p h hb hp => ?three, fun f h => ?sign, fun f b h hb => ?scale⟩
  case one =>
    exact ⟨emitsIn_fpLanes1 _ h ha rfl rfl rfl, emitsIn_fpLanes1 _ h ha rfl rfl rfl, emitsIn_fpLanes1 _ h ha rfl rfl rfl,
      emitsIn_fpLanes1 _ h ha rfl rfl rfl⟩
  case two =>
    exact ⟨emitsIn_fpLanes2 _ h ha hb rfl rfl rfl, emitsIn_fpLanes2 (fun x y => EV.add f.rm x y.negate) h ha hb rfl rfl rfl,
      emitsIn_fpLanes2 _ h ha hb rfl rfl rfl, emitsIn_fpLanes2 _ h ha hb rfl rfl rfl, emitsIn_fpLanes2 _ h ha hb rfl rfl rfl,
      emitsIn_fpLanes2 _ h ha hb rfl rfl rfl⟩
  case three =>
    exact ⟨emitsIn_fpLanes3 (fun x y z => EV.add f.rm (x.mul y) z) h ha hb hp rfl rfl rfl,
      emitsIn_fpLanes3 (fun x y z => EV.add f.rm (x.mul y) z.negate) h ha hb hp rfl rfl rfl⟩
  case sign =>
    exact ⟨emitsIn_of_station1 (v := (·.signed f.fmt true)) h ha rfl rfl (signLanes_eq f s true),
      emitsIn_of_station1 (v := (·.signed f.fmt false)) h ha rfl rfl (signLanes_eq f s false)⟩
  case scale =>
    have e := emitsIn_vscale h ha hb
    exact ⟨fun hw => by rwa [Datum.scaledBy, if_pos hw] at e, fun hw => by rwa [Datum.scaledBy, if_neg hw] at e⟩

/-! ### Systolic configuration and TMUL (O26) -/

/-- The high bits of a word are zero below their weight. -/
theorem bits_high_eq_zero {x lo n : Nat} (h : x < 2 ^ (lo + n)) : bits x lo n = 0 ↔ x < 2 ^ lo := by
  have hq : x / 2 ^ lo < 2 ^ n := Nat.div_lt_of_lt_mul (by rwa [← pow_add])
  rw [bits, Nat.mod_eq_of_lt hq, Nat.div_eq_zero_iff_lt (by positivity)]

theorem Ctx.config_eq (c : Ctx) (k : KAct) (ts : List Target) (v : Nat) :
    c.config k ts v = .next (c.queued k ts (some (.int v))) := rfl

/-- A configuration word whose upper bits must be zero (R237, R239). -/
theorem Ctx.config_checked (c : Ctx) {x lo n : Nat} (hx : x < 2 ^ (lo + n)) (k : Nat → KAct) (ts : List Target) (v : Nat) :
    (if bits x lo n ≠ 0 then c.raise FC.reservedField else c.config (k (x % 2 ^ lo)) ts v) =
      if x < 2 ^ lo then .next (c.queued (k x) ts (some (.int v))) else .next (c.faulted (.plain FC.reservedField)) := by
  by_cases hlt : x < 2 ^ lo
  · rw [if_pos hlt, if_neg (not_not.mpr ((bits_high_eq_zero hx).mpr hlt)), Nat.mod_eq_of_lt hlt, Ctx.config_eq]
  · rw [if_neg hlt, if_pos (mt (bits_high_eq_zero hx).mp hlt), Ctx.raise_eq]

section Systolic
variable {s : State} {c : Ctx} {a b : Datum}

theorem exec_syscfg {f : FT} (h : s.Fires c f.pr) (ha : Carries c.m.a a) (hf : ∀ x ∈ [f.fmt], x.isReserved = false) :
    exec (.syscfg f) s = if a.u64 < 2 ^ 32 then .next (c.queued (.syscfg f a.u64) [f.t0, f.t1] (some (.int 0)))
      else .next (c.faulted (.plain FC.reservedField)) :=
  (station1_of_fires h hf ha _ _).trans (c.config_checked (n := 32) a.u64_lt (.syscfg f) _ _)

theorem exec_route {f : FT} (h : s.Fires c f.pr) (ha : Carries c.m.a a) (hf : ∀ x ∈ [f.fmt], x.isReserved = false) :
    exec (.route f) s = if a.u64 < 2 ^ 24 then .next (c.queued (.route f a.u64) [f.t0, f.t1] (some (.int (a.u64 % 16))))
      else .next (c.faulted (.plain FC.reservedField)) :=
  (station1_of_fires h hf ha _ _).trans (c.config_checked (n := 40) a.u64_lt (.route f) _ _)

theorem exec_sysrel {f : FT} (h : s.Fires c f.pr) (ha : Carries c.m.a a) (hf : ∀ x ∈ [f.fmt], x.isReserved = false) :
    exec (.sysrel f) s = .next (c.queued (.sysrel f) [f.t0, f.t1] (some (.int 0))) := station1_of_fires h hf ha _ _

theorem exec_wload_of_tile {f : FWload} {t : Tile} (h : s.Fires c f.pr) (ha : Carries c.m.a a)
    (hf : ∀ x ∈ [f.fmt], x.isReserved = false) (ht : (c.s.core c.core).tileOf a = some t) :
    exec (.wload f) s = .next (c.queued (.wload f t.id) [f.t0, f.t1] (some (.int 0))) :=
  (station1_of_fires h hf ha _ _).trans (by simp only [ht, Ctx.config_eq])

theorem exec_wload_of_no_tile {f : FWload} (h : s.Fires c f.pr) (ha : Carries c.m.a a)
    (hf : ∀ x ∈ [f.fmt], x.isReserved = false) (ht : (c.s.core c.core).tileOf a = none) :
    exec (.wload f) s = .next (c.faulted (.plain FC.reservedField)) :=
  (station1_of_fires h hf ha _ _).trans (by simp only [ht, Ctx.raise_eq])

/-- The row that TMUL takes of A: row `r` of its tile, where it bears one (R245). -/
def Core.tmulRow (k : Core) (a : Datum) (r i : Nat) : EV :=
  match k.tileOf a with
  | some x => x.fmt.decode (x.elems.getD (16 * r + i) 0)
  | none => a.evLane i

/-- TMUL at a station of no array, whose B port carries a tile (R245). -/
theorem exec_tmul_of_tile {f : FTmul} {t : Tile} (h : s.Fires c f.pr) (ha : Carries c.m.a a) (hb : Carries c.m.b b)
    (hf : ∀ x ∈ [f.fmt], x.isReserved = false)
    (hoff : ∀ x ∈ (c.s.core c.core).arrays, inRect x.row0 x.col0 x.nrow x.ncol (c.k / 8) (c.k % 8) = false)
    (ht : (c.s.core c.core).tileOf b = some t) :
    exec (.tmul f) s = if (c.s.core c.core).tileOf a = none ∧ f.row0 ≠ 0 then .next (c.faulted (.plain FC.reservedField))
      else .next (c.sent [f.t0, f.t1] (some (.fpVector f.fmt .rne fun j => EV.sum .rne ((List.range 16).map fun i =>
        ((c.s.core c.core).tmulRow a f.row0.toNat i).mul (t.fmt.decode (t.elems.getD (16 * i + j) 0)))))) := by
  refine (station2_of_fires h hf ha hb _ _).trans ((need_of (by simpa using hoff) _).trans ?_)
  simp only [ht, Option.isNone_iff_eq_none, Ctx.raise_eq, Ctx.out_eq]
  rfl

theorem exec_tmul_of_no_tile {f : FTmul} (h : s.Fires c f.pr) (ha : Carries c.m.a a) (hb : Carries c.m.b b)
    (hf : ∀ x ∈ [f.fmt], x.isReserved = false)
    (hoff : ∀ x ∈ (c.s.core c.core).arrays, inRect x.row0 x.col0 x.nrow x.ncol (c.k / 8) (c.k % 8) = false)
    (ht : (c.s.core c.core).tileOf b = none) : exec (.tmul f) s = .next (c.faulted (.plain FC.reservedField)) := by
  refine (station2_of_fires h hf ha hb _ _).trans ((need_of (by simpa using hoff) _).trans ?_)
  simp only [ht, Ctx.raise_eq]

end Systolic

/-- Settles O26: a configuration word is queued behind its own check; TMUL's row is A's tile's, or A itself. -/
theorem systolicConfigurationAndTmulFire : Obligations.SystolicConfigurationAndTmulFire := by
  intro s c a ha fault
  refine ⟨fun f h => ⟨fun hr => ?_, fun hr => ?words⟩, fun f h => ⟨fun hr => ?_, fun hr ht => ?_, fun hr t ht => ?_⟩,
    fun f b h hb hr => ?_, fun f b h hb hr hoff => ⟨fun t ht => ?tile, fun ht => ?_⟩⟩
  case words =>
    have hf : ∀ x ∈ [f.fmt], x.isReserved = false := by simpa using hr
    exact ⟨fun hlt => (exec_syscfg h ha hf).trans (if_pos hlt), fun hle => (exec_syscfg h ha hf).trans (if_neg hle.not_gt),
      fun hlt => (exec_route h ha hf).trans (if_pos hlt), fun hle => (exec_route h ha hf).trans (if_neg hle.not_gt),
      exec_sysrel h ha hf⟩
  case tile =>
    have e := exec_tmul_of_tile h ha hb (by simpa using hr) hoff ht
    refine ⟨fun hta hrow => e.trans (if_pos ⟨hta, hrow⟩), fun hta hrow => ?_, fun x hx => ?_⟩
    · rw [e, if_neg (by simp [hrow])]
      simp only [Core.tmulRow, hta]
    · rw [e, if_neg (by simp [hx])]
      simp only [Core.tmulRow, hx]
  · exact ⟨exec_of_reserved_format h (List.mem_singleton.mpr rfl) hr, exec_of_reserved_format h (List.mem_singleton.mpr rfl) hr,
      exec_of_reserved_format h (List.mem_singleton.mpr rfl) hr⟩
  · exact exec_of_reserved_format h (List.mem_singleton.mpr rfl) hr
  · exact exec_wload_of_no_tile h ha (by simpa using hr) ht
  · exact exec_wload_of_tile h ha (by simpa using hr) ht
  · exact exec_of_reserved_format h (List.mem_singleton.mpr rfl) hr
  · exact exec_tmul_of_no_tile h ha hb (by simpa using hr) hoff ht

end Sys2Proof.Machine

/-! PROOFS. Engine commands as they fire (O19, O20). -/

namespace Sys2Proof.Machine
open Sys2Proof

/-! ### What an engine instruction does as it fires -/

/-- The operand that an instruction takes of a port: what it carries, or zero where it is not read. -/
def Operand (reads : Bool) (t : Option Tok) (d : Datum) : Prop := if reads then Carries t d else d = .zero

theorem operand_read {t : Option Tok} {d : Datum} : Operand true t d ↔ Carries t d := Iff.rfl

theorem operand_unread {t : Option Tok} {d : Datum} : Operand false t d ↔ d = .zero := by simp [Operand]

/-- A port that is read, or passed over, is its body on the operand. -/
theorem onPort_of_operand {reads : Bool} {t : Option Tok} {d : Datum} (h : Operand reads t d) (onNull : Out)
    (body : Datum → Out) : (if reads then port t onNull body else body .zero) = body d := by
  cases reads with
  | true => exact port_of_carries h _ _
  | false => rw [operand_unread.mp h]; rfl

theorem Datum.lo_zero : Datum.zero.lo = 0 := by
  rw [Datum.lo, show Datum.zero.bits = 0#512 from rfl, BitVec.toNat_zero, Nat.zero_mod]

theorem Datum.u64_zero : Datum.zero.u64 = 0 := by
  rw [Datum.u64, Datum.uintOf, if_pos (by decide), Datum.lo_zero, Nat.zero_mod]

/-- An operand that is not read is kept as zero. -/
theorem Datum.keep64_zero : Datum.zero.keep64 = 0 := by
  rw [Datum.keep64, Datum.u64_zero]; rfl

/-- An access whose LSID is its own acts (R119). -/
theorem Ctx.shareLsid_of_free {c : Ctx} {lsid : Nat} (h : c.FreeLsid lsid) (asNull act : Ctx → Out) :
    c.shareLsid lsid asNull act = act c := by
  rw [Ctx.FreeLsid] at h
  simp only [Ctx.shareLsid, h]
  rfl

/-- A local access is checked against the partition, then for its alignment (R188, R407). -/
theorem Ctx.local_acts {c : Ctx} {off n al lsid : Nat} {body : Ctx → Out} {does : Out → Prop} (h : does (body c)) :
    LocalActs (c.local off n al lsid body) c lsid off n al does := by
  refine ⟨fun hp => if_pos hp, fun hp ha => ?_, fun ⟨hp, ha⟩ => ?_⟩
  · exact (if_neg hp.not_gt).trans (if_pos ha)
  · rwa [Ctx.local, if_neg hp.not_gt, if_neg (not_not.mpr ha)]

section Engine
variable {s : State} {c : Ctx} {i : Instr} {pr : Pred} {ts : List Target} {lsid : Nat} {a b : Datum}

/-- An engine instruction that passes its checks takes a free completion entry (R220, R320). -/
theorem Ctx.engine_enters (hfree : c.freeEntries ≠ []) (x y : Payload) (nul : Bool) :
    Enters (c.engine i ts lsid x y nul) c i ts lsid x y nul := by
  have hlt : (c.s.draw c.freeEntries.length).1 < c.freeEntries.length := Nat.mod_lt _ (List.length_pos_iff.mpr hfree)
  refine ⟨c.freeEntries.getD (c.s.draw c.freeEntries.length).1 0, ?_, rfl⟩
  rw [List.getD_eq_getElem _ _ hlt]
  exact List.getElem_mem hlt

/-- An engine instruction with operands and an LSID of its own makes its checks, and enters (R220). -/
theorem engineWith_of_fires {ra rb : Bool} {keepA keepB : Datum → Payload} {check : Ctx → Datum → Datum → (Ctx → Out) → Out}
    (h : s.Fires c pr) (hfree : c.freeEntries ≠ []) (hl : c.FreeLsid lsid) (ha : Operand ra c.m.a a) (hb : Operand rb c.m.b b) :
    engineWith s i pr ts lsid ra rb keepA keepB check = check c a b fun c => c.engine i ts lsid (keepA a) (keepB b) false := by
  rw [engineWith, fire_of_fires h, need_of (by simpa using hfree)]
  exact (onPort_of_operand ha _ _).trans ((onPort_of_operand hb _ _).trans (Ctx.shareLsid_of_free hl _ _))

theorem engineOp_of_fires {ra rb : Bool} {check : Ctx → Datum → Datum → (Ctx → Out) → Out} (h : s.Fires c pr)
    (hfree : c.freeEntries ≠ []) (hl : c.FreeLsid lsid) (ha : Operand ra c.m.a a) (hb : Operand rb c.m.b b) :
    engineOp s i pr ts lsid ra rb check = check c a b fun c => c.engine i ts lsid a.keep64 b.keep64 false :=
  engineWith_of_fires h hfree hl ha hb

/-- A command with a local descriptor is checked as a local access (R211, R248). -/
theorem descOp_acts {rb : Bool} {n al : Nat} (h : s.Fires c pr) (hfree : c.freeEntries ≠ []) (hl : c.FreeLsid lsid)
    (ha : Carries c.m.a a) (hb : Operand rb c.m.b b) : LocalActs (descOp s i pr ts lsid rb n al) c lsid (effAddr a 0) n al
      fun o => Enters o c i ts lsid a.keep64 b.keep64 false := by
  rw [descOp, engineOp_of_fires h hfree hl (operand_read.mpr ha) hb]
  exact Ctx.local_acts (Ctx.engine_enters hfree _ _ _)

/-- A command with a local descriptor alone. -/
theorem descOp_acts_alone {n al : Nat} (h : s.Fires c pr) (hfree : c.freeEntries ≠ []) (hl : c.FreeLsid lsid)
    (ha : Carries c.m.a a) : LocalActs (descOp s i pr ts lsid false n al) c lsid (effAddr a 0) n al
      fun o => Enters o c i ts lsid a.keep64 0 false := by
  rw [← Datum.keep64_zero]
  exact descOp_acts h hfree hl ha (operand_unread.mpr rfl)

end Engine

/-- Settles O19: each command is a descriptor's, of its own size and alignment, with B's operand or without. -/
theorem descriptorCommandsEnter : Obligations.DescriptorCommandsEnter := by
  intro s c a ha hfree
  have alone {i : Instr} {pr : Pred} {ts : List Target} {lsid n al : Nat} (h : s.Fires c pr) (hl : c.FreeLsid lsid) :=
    descOp_acts_alone (i := i) (ts := ts) (n := n) (al := al) h hfree hl ha
  have withB {i : Instr} {pr : Pred} {ts : List Target} {lsid n al : Nat} (b : Datum) (hb : Carries c.m.b b) (h : s.Fires c pr)
      (hl : c.FreeLsid lsid) := descOp_acts (i := i) (ts := ts) (n := n) (al := al) (rb := true) h hfree hl ha hb
  exact ⟨fun f => ⟨alone, alone, alone, withB⟩, fun f => withB, fun f => ⟨alone, alone⟩, fun f => ⟨alone, alone⟩, fun f => withB,
    fun f => alone, fun f => withB⟩

/-! ### Commands without a descriptor -/

/-- What a function answers first along the numbers below `n`. -/
theorem findSome?_range_eq_some {α : Type} {n k : Nat} {f : Nat → Option α} {x : α} (hk : k < n) (hfirst : ∀ m < k, f m = none)
    (h : f k = some x) : (List.range n).findSome? f = some x := by
  obtain ⟨d, rfl⟩ := Nat.exists_eq_add_of_lt hk
  rw [add_assoc, List.range_add, List.findSome?_append, List.findSome?_eq_none_iff.mpr (by simpa using hfirst), Option.none_or,
    Nat.add_comm d 1, List.range_add]
  simp [h]

/-- The fault of one lane's address (R207, R407). -/
def laneCheck (a : Datum) (lanes : BitVec 8) (n k : Nat) : Option (Nat × Nat) :=
  if !lanes.getLsbD k then none
  else if !canonical (a.addrLane k) then some (FC.translation, a.addrLane k)
  else if a.addrLane k % n ≠ 0 then some (FC.alignment, a.addrLane k) else none

theorem laneFault_eq (a : Datum) (lanes : BitVec 8) (n : Nat) :
    laneFault a lanes n = (List.range 8).findSome? (laneCheck a lanes n) := rfl

/-- A lane passes where it is masked out, or its address is canonical and aligned. -/
def LaneOk (a : Datum) (lanes : BitVec 8) (n k : Nat) : Prop :=
  lanes.getLsbD k = true → canonical (a.addrLane k) = true ∧ a.addrLane k % n = 0

section Lanes
variable {a : Datum} {lanes : BitVec 8} {n k : Nat}

theorem laneCheck_of_ok (h : LaneOk a lanes n k) : laneCheck a lanes n k = none := by
  cases hm : lanes.getLsbD k with
  | false => simp [laneCheck, hm]
  | true =>
    obtain ⟨hc, ha⟩ := h hm
    simp [laneCheck, hc, ha]

theorem laneFault_of_ok (h : ∀ k < 8, LaneOk a lanes n k) : laneFault a lanes n = none :=
  List.findSome?_eq_none_iff.mpr fun k hk => laneCheck_of_ok (h k (List.mem_range.mp hk))

/-- The lowest masked lane that fails decides (R207, R407). -/
theorem laneFault_of_first {x : Nat × Nat} (hk : k < 8) (hfirst : ∀ m < k, LaneOk a lanes n m)
    (h : laneCheck a lanes n k = some x) : laneFault a lanes n = some x :=
  findSome?_range_eq_some hk (fun m hm => laneCheck_of_ok (hfirst m hm)) h

theorem laneCheck_of_not_canonical (hm : lanes.getLsbD k = true) (hc : canonical (a.addrLane k) = false) :
    laneCheck a lanes n k = some (FC.translation, a.addrLane k) := by
  simp [laneCheck, hm, hc]

theorem laneCheck_of_unaligned (hm : lanes.getLsbD k = true) (hc : canonical (a.addrLane k) = true)
    (ha : a.addrLane k % n ≠ 0) : laneCheck a lanes n k = some (FC.alignment, a.addrLane k) := by
  simp [laneCheck, hm, hc, ha]

end Lanes

section Plain
variable {s : State} {c : Ctx} {i : Instr} {pr : Pred} {ts : List Target} {lsid : Nat} {a b : Datum}

/-- A command that is checked for nothing as it fires enters with A's operand (R263 to R265). -/
theorem engineOp_enters {ra : Bool} (h : s.Fires c pr) (hfree : c.freeEntries ≠ []) (hl : c.FreeLsid lsid)
    (ha : Operand ra c.m.a a) : Enters (engineOp s i pr ts lsid ra false fun c _ _ k => k c) c i ts lsid a.keep64 0 false := by
  rw [engineOp_of_fires h hfree hl ha (operand_unread.mpr rfl), Datum.keep64_zero]
  exact Ctx.engine_enters hfree _ _ _

/-- An invalidation enters under an ASID that its chair holds, and is PROTECTION under another (R217). -/
theorem engineOp_asid {ra rb : Bool} {n : Nat} (h : s.Fires c pr) (hfree : c.freeEntries ≠ []) (hl : c.FreeLsid lsid)
    (ha : Operand ra c.m.a a) (hb : Operand rb c.m.b b) :
    let o := engineOp s i pr ts lsid ra rb fun c _ _ k =>
      if ((c.s.chair c.sl.chair).asidIndex n).isNone then c.fault (.access FC.protection lsid 0) else k c
    (((c.s.chair c.sl.chair).asidIndex n).isSome = true → Enters o c i ts lsid a.keep64 b.keep64 false) ∧
    (((c.s.chair c.sl.chair).asidIndex n).isSome = false → o = .next (c.faulted (.access FC.protection lsid 0))) := by
  intro o
  have e : o = if ((c.s.chair c.sl.chair).asidIndex n).isNone then c.fault (.access FC.protection lsid 0)
      else c.engine i ts lsid a.keep64 b.keep64 false := engineOp_of_fires h hfree hl ha hb
  rw [e]
  cases (c.s.chair c.sl.chair).asidIndex n with
  | none => exact ⟨fun hs => absurd hs (by decide), fun _ => rfl⟩
  | some _ => exact ⟨fun _ => Ctx.engine_enters hfree _ _ _, fun hs => absurd hs (by simp)⟩

/-- A scatter enters with its eight lanes where every masked lane passes, and the lowest that fails decides (R208). -/
theorem scatterOp_acts {lanes : BitVec 8} {w : IW} (h : s.Fires c pr) (hfree : c.freeEntries ≠ []) (hl : c.FreeLsid lsid)
    (ha : Carries c.m.a a) (hb : Carries c.m.b b) :
    let o := scatterOp s i pr ts lsid lanes w
    ((∀ k < 8, LaneOk a lanes w.bytes k) → Enters o c i ts lsid (keepLanes a.addrLane) (keepLanes (b.bitLane 64)) false) ∧
    (∀ k < 8, (∀ m < k, LaneOk a lanes w.bytes m) → lanes.getLsbD k = true →
      (canonical (a.addrLane k) = false → o = .next (c.faulted (.access FC.translation lsid (a.addrLane k)))) ∧
      (canonical (a.addrLane k) = true → a.addrLane k % w.bytes ≠ 0 →
        o = .next (c.faulted (.access FC.alignment lsid (a.addrLane k))))) := by
  intro o
  have e : o = match laneFault a lanes w.bytes with
      | some (code, va) => c.fault (.access code lsid va)
      | none => c.engine i ts lsid (keepLanes a.addrLane) (keepLanes (b.bitLane 64)) false :=
    engineWith_of_fires h hfree hl (operand_read.mpr ha) (operand_read.mpr hb)
  refine ⟨fun hok => ?_, fun k hk hfirst hm => ⟨fun hc => ?_, fun hc hal => ?_⟩⟩
  · rw [e, laneFault_of_ok hok]
    exact Ctx.engine_enters hfree _ _ _
  · rw [e, laneFault_of_first hk hfirst (laneCheck_of_not_canonical hm hc)]
    rfl
  · rw [e, laneFault_of_first hk hfirst (laneCheck_of_unaligned hm hc hal)]
    rfl

/-- PDOM takes a control word of one bit (R262). -/
theorem exec_pdom {f : FDom} (h : s.Fires c f.pr) (hfree : c.freeEntries ≠ []) (hl : c.FreeLsid f.lsid.toNat)
    (ha : Carries c.m.a a) : exec (.pdom f) s = if 2 ≤ a.u64 then c.raise FC.reservedField
      else c.engine (.pdom f) [f.t0, f.t1] f.lsid.toNat a.keep64 0 false := by
  change execPdom f s = _
  rw [execPdom, engineOp_of_fires h hfree hl (operand_read.mpr ha) (operand_unread.mpr rfl), Datum.keep64_zero]

theorem exec_pdom_acts {f : FDom} (h : s.Fires c f.pr) (hfree : c.freeEntries ≠ []) (hl : c.FreeLsid f.lsid.toNat)
    (ha : Carries c.m.a a) : EngineActs (exec (.pdom f) s) c (.pdom f) a .zero := by
  refine ⟨fun hlt => ?_, fun hle => (exec_pdom h hfree hl ha).trans (if_pos hle)⟩
  rw [exec_pdom h hfree hl ha, if_neg hlt.not_ge]
  exact Ctx.engine_enters hfree _ _ _

/-- LAUNCH takes the address of a packet, canonical and of 64 bytes (R177). -/
theorem exec_launch {f : FFar} (h : s.Fires c f.pr) (hfree : c.freeEntries ≠ []) (hl : c.FreeLsid f.lsid.toNat)
    (ha : Carries c.m.a a) : exec (.launch f) s =
      if !canonical a.u64 then c.fault (.access FC.translation f.lsid.toNat a.u64)
      else if a.u64 % 64 ≠ 0 then c.fault (.access FC.alignment f.lsid.toNat a.u64)
      else c.engine (.launch f) [f.t0, f.t1] f.lsid.toNat a.keep64 0 false := by
  change execLaunch f s = _
  rw [execLaunch, engineOp_of_fires h hfree hl (operand_read.mpr ha) (operand_unread.mpr rfl), Datum.keep64_zero]

theorem exec_launch_acts {f : FFar} (h : s.Fires c f.pr) (hfree : c.freeEntries ≠ []) (hl : c.FreeLsid f.lsid.toNat)
    (ha : Carries c.m.a a) : EngineActs (exec (.launch f) s) c (.launch f) a .zero := by
  rw [exec_launch h hfree hl ha]
  refine ⟨fun hc => if_pos (by simp [hc]), fun hc hal => ?_, fun hc hal => ?_⟩
  · rw [if_neg (by simp [hc]), if_pos hal, Ctx.fault_eq]
  · rw [if_neg (by simp [hc]), if_neg (by simp [hal])]
    exact Ctx.engine_enters hfree _ _ _

end Plain

/-- Settles O20, by what each command checks as it fires. -/
theorem plainCommandsEnter : Obligations.PlainCommandsEnter := by
  intro s c hfree
  refine ⟨fun f h hl => ?inva, fun f h hl => ?unbind, fun a ha => ?withA⟩
  case inva =>
    have e := engineOp_asid (i := .inva f) (ts := [f.t0, f.t1]) (n := f.asid.toNat) h hfree hl
      (operand_unread.mpr rfl) (operand_unread.mpr rfl)
    rwa [Datum.keep64_zero] at e
  case unbind =>
    have e := engineOp_enters (i := .unbind f) (ts := [f.t0, f.t1]) h hfree hl (operand_unread.mpr rfl)
    rwa [Datum.keep64_zero] at e
  case withA =>
    have free {i : Instr} {pr : Pred} {ts : List Target} {lsid : Nat} (h : s.Fires c pr) (hl : c.FreeLsid lsid) :=
      engineOp_enters (i := i) (ts := ts) h hfree hl (operand_read.mpr ha)
    exact ⟨fun f => free, fun f => ⟨free, fun h hl => exec_pdom_acts h hfree hl ha⟩, fun f => free, fun f => free,
      fun f h hl => exec_launch_acts h hfree hl ha, fun b hb => ⟨fun f h hl => scatterOp_acts h hfree hl ha hb,
        fun f h hl => scatterOp_acts h hfree hl ha hb,
        fun f h hl => engineOp_asid h hfree hl (operand_read.mpr ha) (operand_read.mpr hb)⟩⟩

end Sys2Proof.Machine

/-! PROOFS. Words and instructions: the round trips, the words spelled out, and the words that are refused (O29 to O32). -/

namespace Sys2Proof.Laws.Encoding

/-- Every instruction's OP and fields spell it; an operation of the device has none (R98, R122). -/
theorem statement (i : Instr) : Statement i := by
  cases i with
  | read f => exact read f
  | mov f => exact mov f
  | mov4 f => exact mov4 f
  | limm f => exact limm f
  | orhi f => exact orhi f
  | nullI f => exact nullI f
  | sel f => exact sel f
  | br f => exact br f
  | bri f => exact bri f
  | call f => exact call f
  | ret f => exact ret f
  | trap f => exact trap f
  | rett f => exact rett f
  | csrr f => exact csrr f
  | csrw f => exact csrw f
  | csrx f => exact csrx f
  | brk f => exact brk f
  | fork f => exact fork f
  | spawn f => exact spawn f
  | endI f => exact endI f
  | join f => exact join f
  | redt f => exact redt f
  | launch f => exact launch f
  | waitc f => exact waitc f
  | teq f => exact teq f
  | tne f => exact tne f
  | tlt f => exact tlt f
  | tle f => exact tle f
  | tltu f => exact tltu f
  | tleu f => exact tleu f
  | teqi f => exact teqi f
  | tnei f => exact tnei f
  | tlti f => exact tlti f
  | tlei f => exact tlei f
  | tgti f => exact tgti f
  | tgei f => exact tgei f
  | tltui f => exact tltui f
  | tgtui f => exact tgtui f
  | ftest f => exact ftest f
  | add f => exact add f
  | sub f => exact sub f
  | mul f => exact mul f
  | mulh f => exact mulh f
  | mulhu f => exact mulhu f
  | div f => exact div f
  | divu f => exact divu f
  | rem f => exact rem f
  | remu f => exact remu f
  | andI f => exact andI f
  | orI f => exact orI f
  | xorI f => exact xorI f
  | andn f => exact andn f
  | shl f => exact shl f
  | shr f => exact shr f
  | sra f => exact sra f
  | rotl f => exact rotl f
  | min f => exact min f
  | max f => exact max f
  | minu f => exact minu f
  | maxu f => exact maxu f
  | clz f => exact clz f
  | ctz f => exact ctz f
  | popc f => exact popc f
  | abs f => exact abs f
  | neg f => exact neg f
  | sext f => exact sext f
  | zext f => exact zext f
  | addi f => exact addi f
  | muli f => exact muli f
  | andimm f => exact andimm f
  | orimm f => exact orimm f
  | xorimm f => exact xorimm f
  | shli f => exact shli f
  | shri f => exact shri f
  | srai f => exact srai f
  | agen f => exact agen f
  | cvtif f => exact cvtif f
  | cvtfi f => exact cvtfi f
  | fadd f => exact fadd f
  | fsub f => exact fsub f
  | fmul f => exact fmul f
  | fdiv f => exact fdiv f
  | fmin f => exact fmin f
  | fmax f => exact fmax f
  | ld f => exact ld f
  | lds f => exact lds f
  | st f => exact st f
  | ldv f => exact ldv f
  | stv f => exact stv f
  | ldl f => exact ldl f
  | stl f => exact stl f
  | ldvl f => exact ldvl f
  | stvl f => exact stvl f
  | chnop f => exact chnop f
  | amo f => exact amo f
  | amol f => exact amol f
  | fence f => exact fence f
  | gath f => exact gath f
  | scat f => exact scat f
  | scata f => exact scata f
  | xcopy f => exact xcopy f
  | xfill f => exact xfill f
  | xcomp f => exact xcomp f
  | pref f => exact pref f
  | synci f => exact synci f
  | waitg f => exact waitg f
  | invr f => exact invr f
  | inva f => exact inva f
  | tfetch f => exact tfetch f
  | kvapp f => exact kvapp f
  | vadd f => exact vadd f
  | vsub f => exact vsub f
  | vmul f => exact vmul f
  | vfma f => exact vfma f
  | vfms f => exact vfms f
  | vdiv f => exact vdiv f
  | vsqrt f => exact vsqrt f
  | vrsq f => exact vrsq f
  | vmin f => exact vmin f
  | vmax f => exact vmax f
  | vabs f => exact vabs f
  | vneg f => exact vneg f
  | vexp2 f => exact vexp2 f
  | vlog2 f => exact vlog2 f
  | vcmp f => exact vcmp f
  | vsel f => exact vsel f
  | vred f => exact vred f
  | vscan f => exact vscan f
  | vdot f => exact vdot f
  | vbcast f => exact vbcast f
  | vext f => exact vext f
  | vins f => exact vins f
  | vperm f => exact vperm f
  | vshuf f => exact vshuf f
  | vcvt f => exact vcvt f
  | vscale f => exact vscale f
  | viadd f => exact viadd f
  | visub f => exact visub f
  | vimul f => exact vimul f
  | viand f => exact viand f
  | vior f => exact vior f
  | vixor f => exact vixor f
  | vishl f => exact vishl f
  | vishr f => exact vishr f
  | visra f => exact visra f
  | vimin f => exact vimin f
  | vimax f => exact vimax f
  | vpack f => exact vpack f
  | vunpk f => exact vunpk f
  | vmask f => exact vmask f
  | syscfg f => exact syscfg f
  | wload f => exact wload f
  | mma f => exact mma f
  | drain f => exact drain f
  | sysrel f => exact sysrel f
  | route f => exact route f
  | tmul f => exact tmul f
  | bind f => exact bind f
  | unbind f => exact unbind f
  | attn f => exact attn f
  | patch f => exact patch f
  | pdom f => exact pdom f
  | pwr f => exact pwr f
  | prd f => exact prd f
  | prdv f => exact prdv f
  | pstep f => exact pstep f
  | psave f => exact psave f
  | prest f => exact prest f
  | pfeed f => exact pfeed f
  | tapcfg f => exact tapcfg f
  | stap f => exact stap f
  | tapst f => exact tapst f
  | smpl f => exact smpl f
  | seqc f => exact seqc f
  | seqrd f => exact seqrd f
  | _ => rintro _ ⟨⟩

end Sys2Proof.Laws.Encoding

namespace Sys2Proof
open Sys2Proof Machine

/-! ### Round trips (O31, O32) -/

/-- Settles O31: an instruction's OP and fields are read back from its word, and spell it again. -/
theorem encodedInstructionsDecode : Obligations.EncodedInstructionsDecode := by
  intro i w hwf hw
  rw [encode, Option.map_eq_some_iff] at hw
  obtain ⟨⟨op, v⟩, hc, rfl⟩ := hw
  obtain ⟨hop, hv, hp⟩ := Laws.Encoding.statement i (op, v) hc
  exact decode_of_parse ((parse_word hop hv).trans hp) hwf

/-- Settles O32: what a word spells has the word's OP and the bits below it for its code. -/
theorem decodedWordsEncode : Obligations.DecodedWordsEncode := by
  intro i w h
  obtain ⟨hp, hwf⟩ := parse_of_decode h
  have hc : i.code = some (w.toNat / 2 ^ 56, w.toNat % 2 ^ 56) := code_of_parse (Nat.mod_lt _ (by positivity)) hp
  refine ⟨?_, hwf⟩
  rw [encode, hc, Option.map_some, Nat.div_add_mod', BitVec.ofNat_toNat, BitVec.setWidth_eq]

/-! ### Words spelled out (O29) -/

/-- Settles O29: each word is read field by field. -/
theorem wordsDecodeToTheirInstruction : Obligations.WordsDecodeToTheirInstruction :=
  ⟨rfl, rfl, rfl, rfl, rfl, rfl, rfl, rfl, rfl, rfl, rfl, rfl, rfl⟩

/-! ### Words that are refused (O30) -/

set_option maxRecDepth 20000 in
/-- The OPs of one byte that `parse` has a row for are those that R120 assigns. -/
theorem parse_isSome {op : Nat} (h : op < 256) (v : Nat) : (parse op v).isSome = assignedOp op := by
  interval_cases op <;> rfl

/-- A row of `parse` for an instruction spells nothing else. -/
theorem instr_of_row {α : Type} {o : Option α} {i : α → Instr} {s : SlotWord}
    (h : some (o.map fun f => SlotWord.instr (i f)) = some (some s)) : ∃ j, s = .instr j := by
  rw [Option.some.injEq, Option.map_eq_some_iff] at h
  obtain ⟨f, -, rfl⟩ := h
  exact ⟨_, rfl⟩

set_option maxRecDepth 20000 in
/-- What parses is an instruction, NOP, or a WRITE (R111, R118). -/
theorem instr_or_of_parse {op v : Nat} {s : SlotWord} (h : parse op v = some (some s)) :
    (∃ j, s = .instr j) ∨ (op = 0x01 ∧ v = 0) ∨ (op = 0x03 ∧ bits v 34 22 = 0 ∧ bits v 5 19 = 0) := by
  unfold parse at h
  split at h
  case h_1 =>
    split at h
    · exact .inr (.inl ⟨rfl, ‹_›⟩)
    · cases h
  case h_2 =>
    split at h
    · next heq =>
      simp only [fields, List.sum_cons, List.sum_nil, List.cons.injEq] at heq
      exact .inr (.inr ⟨rfl, heq.1, heq.2.2.1⟩)
    · cases h
  case h_178 => cases h
  all_goals exact .inl (instr_of_row h)

/-- The width and the value of the field whose lowest bit is `lo`, of fields that fill the bits below `top`. -/
def fieldAt (lo : Nat) : Nat → List (Nat × Nat) → Option (Nat × Nat)
  | _, [] => none
  | top, x :: r => if lo + x.1 = top then some x else fieldAt lo (top - x.1) r

/-- A field of a packed word is read at its lowest bit. -/
theorem bits_pack_of_fieldAt {lo n v : Nat} : ∀ {l : List (Nat × Nat)}, fieldAt lo (l.map Prod.fst).sum l = some (n, v) →
    lo + n ≤ (l.map Prod.fst).sum ∧ bits (pack l) lo n = v % 2 ^ n
  | [], h => nomatch h
  | (m, x) :: r, h => by
    rw [fieldAt, List.map_cons, List.sum_cons, Nat.add_sub_cancel_left] at h
    rw [List.map_cons, List.sum_cons, pack, bits]
    split at h
    · next hlo =>
      cases h
      obtain rfl : lo = (r.map Prod.fst).sum := by omega
      refine ⟨by omega, ?_⟩
      rw [Nat.add_comm, Nat.add_mul_div_right _ _ (by positivity), Nat.div_eq_of_lt (pack_lt r), Nat.zero_add, Nat.mod_mod]
    · obtain ⟨hle, hr⟩ := bits_pack_of_fieldAt h
      refine ⟨by omega, ?_⟩
      obtain ⟨d, hd⟩ := Nat.exists_eq_add_of_le hle
      rw [← hr, bits, hd, pow_add, pow_add, show ∀ y a b c : Nat, y * (a * b * c) = y * c * b * a from fun _ _ _ _ => by ring,
        Nat.add_comm, Nat.add_mul_div_right _ _ (by positivity), Nat.add_mul_mod_self_right]

/-- The bits that the words of an opcode leave zero. -/
def zeroFields (op : Nat) : List (Nat × Nat) :=
  (reservedFields.filter fun r => decide (r.1.1 ≤ op) && decide (op ≤ r.1.2)).flatMap (·.2)

/-- A layout fills the 56 bits below OP, and has the predicate, the targets and the zero bits of an instruction where its
opcode has them (R99 to R115). -/
structure LaidOut (i : Instr) (op : Nat) (l : List (Nat × Nat)) : Prop where
  width : (l.map Prod.fst).sum = 56
  pr : fieldAt 54 56 l = some (2, (Instr.pr i).code)
  targets : (targetFields op).map (fieldAt · 56 l) = (instrTargets i).map fun t => some (10, t.code)
  zeros : (zeroFields op).map (fun z => fieldAt z.1 56 l) = (zeroFields op).map fun z => some (z.2, 0)

/-- Every instruction's fields are laid out as its opcode has them. -/
theorem laidOut_of_code (i : Instr) : ∀ op v, i.code = some (op, v) → ∃ l, v = pack l ∧ LaidOut i op l := by
  cases i with
  | read f | mov f | mov4 f | limm f | orhi f | nullI f | sel f | br f | bri f | call f | ret f | trap f | rett f
  | csrr f | csrw f | csrx f | brk f | fork f | spawn f | endI f | join f | redt f | launch f | waitc f | teq f | tne f
  | tlt f | tle f | tltu f | tleu f | teqi f | tnei f | tlti f | tlei f | tgti f | tgei f | tltui f | tgtui f | ftest f
  | add f | sub f | mul f | mulh f | mulhu f | div f | divu f | rem f | remu f | andI f | orI f | xorI f | andn f
  | shl f | shr f | sra f | rotl f | min f | max f | minu f | maxu f | clz f | ctz f | popc f | abs f | neg f | sext f
  | zext f | addi f | muli f | andimm f | orimm f | xorimm f | shli f | shri f | srai f | agen f | cvtif f | cvtfi f
  | fadd f | fsub f | fmul f | fdiv f | fmin f | fmax f | ld f | lds f | st f | ldv f | stv f | ldl f | stl f | ldvl f
  | stvl f | chnop f | amo f | amol f | fence f | gath f | scat f | scata f | xcopy f | xfill f | xcomp f | pref f
  | synci f | waitg f | invr f | inva f | tfetch f | kvapp f | vadd f | vsub f | vmul f | vfma f | vfms f | vdiv f
  | vsqrt f | vrsq f | vmin f | vmax f | vabs f | vneg f | vexp2 f | vlog2 f | vcmp f | vsel f | vred f | vscan f
  | vdot f | vbcast f | vext f | vins f | vperm f | vshuf f | vcvt f | vscale f | viadd f | visub f | vimul f | viand f
  | vior f | vixor f | vishl f | vishr f | visra f | vimin f | vimax f | vpack f | vunpk f | vmask f | syscfg f
  | wload f | mma f | drain f | sysrel f | route f | tmul f | bind f | unbind f | attn f | patch f | pdom f | pwr f
  | prd f | prdv f | pstep f | psave f | prest f | pfeed f | tapcfg f | stap f | tapst f | smpl f | seqc f | seqrd f =>
    rintro _ _ ⟨⟩
    exact ⟨_, rfl, by simp, rfl, rfl, rfl⟩
  | _ => rintro _ _ ⟨⟩


theorem bits_mod {w lo n : Nat} (h : lo + n ≤ 56) : bits (w % 2 ^ 56) lo n = bits w lo n := by
  obtain ⟨d, hd⟩ := Nat.exists_eq_add_of_le h
  rw [bits, bits, hd, pow_add, pow_add, Nat.mul_assoc, Nat.mod_mul_right_div_self, Nat.mod_mul_right_mod]

theorem bits_op (w : Word) : bits w.toNat 56 8 = w.toNat / 2 ^ 56 := by
  rw [bits, Nat.mod_eq_of_lt]
  have := w.isLt
  omega

/-- A target's code is none that R101 refuses. -/
theorem Target.not_refused (t : Target) : ¬refusedTarget (t.code % 2 ^ 10) := by
  rw [refusedTarget, bit, bits, bits, bits, bits]
  cases t with
  | none => simp [Target.code]
  | port q s =>
    have := s.isLt
    cases q <;> simp [Target.code] <;> omega
  | wslot n =>
    have := n.isLt
    simp [Target.code]
    omega

/-- No predicate's code is 11 (R99). -/
theorem Pred.code_ne (x : Pred) : x.code % 2 ^ 2 ≠ 3 := by cases x <;> decide

/-- Check 4 of R121 on the fields of a word, its opcode's zero bits in one list. -/
theorem badFields_iff {w : Word} {op : Nat} (hop : w.toNat / 2 ^ 56 = op) :
    badFields w ↔ bits w.toNat 54 2 = 3 ∨ (∃ b ∈ targetFields op, refusedTarget (bits w.toNat b 10)) ∨
      ∃ z ∈ zeroFields op, bits w.toNat z.1 z.2 ≠ 0 := by
  simp only [badFields, bits_op, hop, zeroFields, List.mem_flatMap, List.mem_filter, Bool.and_eq_true, decide_eq_true_eq]
  refine or_congr_right (or_congr_right ⟨?_, ?_⟩)
  · rintro ⟨r, hr, hlo, hhi, z, hz, hne⟩
    exact ⟨z, ⟨r, ⟨hr, hlo, hhi⟩, hz⟩, hne⟩
  · rintro ⟨z, ⟨r, ⟨hr, hlo, hhi⟩, hz⟩, hne⟩
    exact ⟨r, hr, hlo, hhi, z, hz, hne⟩

/-- A word of an instruction's fields passes check 4 of R121 in its PR, its targets and its reserved bits. -/
theorem not_badFields_of_laidOut {w : Word} {i : Instr} {l : List (Nat × Nat)} (hl : LaidOut i (w.toNat / 2 ^ 56) l)
    (hv : w.toNat % 2 ^ 56 = pack l) : ¬badFields w := by
  have hbits {lo n v : Nat} (h : fieldAt lo 56 l = some (n, v)) : bits w.toNat lo n = v % 2 ^ n := by
    rw [← hl.width] at h
    obtain ⟨hle, hb⟩ := bits_pack_of_fieldAt h
    rw [← hb, ← hv, bits_mod (hl.width ▸ hle)]
  rw [badFields_iff rfl]
  rintro (hpr | ⟨b, hb, hr⟩ | ⟨z, hz, hne⟩)
  · exact Pred.code_ne _ ((hbits hl.pr).symm.trans hpr)
  · have hm := List.mem_map_of_mem (f := (fieldAt · 56 l)) hb
    rw [hl.targets, List.mem_map] at hm
    obtain ⟨t, -, ht⟩ := hm
    rw [hbits ht.symm] at hr
    exact t.not_refused hr
  · exact hne ((hbits (List.map_inj_left.mp hl.zeros z hz)).trans (Nat.zero_mod _))

/-- NOP is all zero below its OP (R111). -/
theorem not_badFields_nop {w : Word} (hop : w.toNat / 2 ^ 56 = 0x01) (hv : w.toNat % 2 ^ 56 = 0) : ¬badFields w := by
  rw [badFields_iff hop, show targetFields 0x01 = [] from rfl, show zeroFields 0x01 = [(0, 56)] from rfl]
  have hpr : bits w.toNat 54 2 = 0 := by rw [← bits_mod (by decide), hv]; rfl
  have hz : bits w.toNat 0 56 = 0 := by rw [← bits_mod (by decide), hv]; rfl
  simp [hpr, hz]

/-- A WRITE is zero but for its register and its write slot, and has no targets (R110). -/
theorem not_badFields_write {w : Word} (hop : w.toNat / 2 ^ 56 = 0x03) (hhi : bits (w.toNat % 2 ^ 56) 34 22 = 0)
    (hlo : bits (w.toNat % 2 ^ 56) 5 19 = 0) : ¬badFields w := by
  rw [badFields_iff hop, show targetFields 0x03 = [] from rfl, show zeroFields 0x03 = [(34, 22), (5, 19)] from rfl]
  rw [bits_mod (by decide)] at hhi hlo
  have hpr : bits w.toNat 54 2 = 0 := by rw [bits] at hhi ⊢; omega
  simp [hpr, hhi, hlo]

/-- A word that decodes passes check 4 of R121. -/
theorem not_badFields_of_decode {w : Word} {s : SlotWord} (h : decode w = .ok s) : ¬badFields w := by
  obtain ⟨hp, -⟩ := parse_of_decode h
  rcases instr_or_of_parse hp with ⟨i, rfl⟩ | ⟨hop, hv⟩ | ⟨hop, hhi, hlo⟩
  · obtain ⟨l, hv, hl⟩ := laidOut_of_code i _ _ (code_of_parse (Nat.mod_lt _ (by positivity)) hp)
    exact not_badFields_of_laidOut hl hv
  · exact not_badFields_nop hop hv
  · exact not_badFields_write hop hhi hlo

/-- A word is an illegal opcode where `parse` has no row for its OP. -/
theorem decode_illegalOpcode {w : Word} :
    decode w = .error .illegalOpcode ↔ parse (w.toNat / 2 ^ 56) (w.toNat % 2 ^ 56) = none := by
  rw [decode]
  rcases parse (w.toNat / 2 ^ 56) (w.toNat % 2 ^ 56) with _ | _ | s
  · simp
  · simp
  · dsimp only
    split <;> simp

/-- Settles O30: `parse` has a row for each assigned OP, and a word that a row reads has the fields of its layout. -/
theorem unassignedWordsAreRefused : Obligations.UnassignedWordsAreRefused := by
  have hill (w : Word) : decode w = .error .illegalOpcode ↔ assignedOp (w.toNat / 2 ^ 56) = false := by
    have hop : w.toNat / 2 ^ 56 < 256 := by have := w.isLt; omega
    rw [← parse_isSome hop (w.toNat % 2 ^ 56), Option.isSome_eq_false_iff, Option.isNone_iff_eq_none, decode_illegalOpcode]
  refine ⟨hill, fun w ha hb => ?_⟩
  cases hd : decode w with
  | ok s => exact absurd hb (not_badFields_of_decode hd)
  | error e =>
    cases e with
    | illegalOpcode => exact absurd ((hill w).mp hd) (ne_false_of_eq_true ha)
    | reservedField => rfl

end Sys2Proof

/-! PROOFS. Global accesses and atomics as they fire, and accesses that share an LSID (O12, O13, O15, O16). -/

namespace Sys2Proof.Machine
open Sys2Proof

/-! ### An access and the others under its LSID (R119) -/

/-- The firing that takes the place of the stores of its block under an LSID (R119). -/
def Ctx.replacing (c : Ctx) (lsid : Nat) : Ctx := c.drawn.mod fun i => { i with stores := i.stores.filter (·.lsid ≠ lsid) }

/-- The firing as its access finds it: as it stands, or in the place of a store. -/
def Ctx.ActsIn (c : Ctx) (lsid : Nat) (d : Ctx) : Prop := d = c ∨ d = c.replacing lsid

theorem State.cq_modInst (s : State) (core slot age : Nat) (f : Inst → Inst) :
    ((s.modInst core slot age f).core core).cq = (s.core core).cq := by
  by_cases hc : core < s.cores.length
  · rw [s.core_modInst _ _ _ _ hc]
  · have hn := Nat.le_of_not_lt hc
    rw [State.core, State.core, List.getD_eq_default _ _ hn, List.getD_eq_default _ _ (by simpa using hn)]

namespace Ctx.ActsIn
variable {c d : Ctx} {lsid : Nat}

theorem m (h : c.ActsIn lsid d) : d.m = c.m := by obtain rfl | rfl := h <;> rfl

theorem k (h : c.ActsIn lsid d) : d.k = c.k := by obtain rfl | rfl := h <;> rfl

theorem chair (h : c.ActsIn lsid d) : d.s.chair d.sl.chair = c.s.chair c.sl.chair := by obtain rfl | rfl := h <;> rfl

theorem freeEntries (h : c.ActsIn lsid d) : d.freeEntries = c.freeEntries := by
  obtain rfl | rfl := h
  · rfl
  · exact congrArg (freeIdx · c.slot 256) (State.cq_modInst _ _ _ _ _)

end Ctx.ActsIn

/-- An access under an LSID that is taken: it loses, or takes the place of a store, freely (R119). -/
theorem Ctx.shareLsid_of_taken {c : Ctx} {lsid : Nat} (h : c.inst.lsidTaken lsid = true) (asNull act : Ctx → Out) :
    c.shareLsid lsid asNull act = if (c.s.draw 2).1 = 0 ∨ !c.inst.stores.any (·.lsid = lsid) then asNull c.drawn
      else act (c.replacing lsid) := if_pos h

/-- An outcome is that of an access: it acts as with nulls, or acts, as the other accesses under its LSID have it (R119). -/
def Accesses (o : Out) (c : Ctx) (lsid : Nat) (asNull acts : Out → Ctx → Prop) : Prop :=
  ∃ nul act : Ctx → Out, o = c.shareLsid lsid nul act ∧ asNull (nul c.drawn) c.drawn ∧ ∀ d, c.ActsIn lsid d → acts (act d) d

namespace Accesses
variable {o : Out} {c : Ctx} {lsid : Nat} {asNull acts : Out → Ctx → Prop}

/-- An access whose LSID is its own acts. -/
theorem acts_of_free (h : Accesses o c lsid asNull acts) (hl : c.FreeLsid lsid) : acts o c := by
  obtain ⟨nul, act, rfl, -, hact⟩ := h
  rw [Ctx.shareLsid_of_free hl]
  exact hact c (.inl rfl)

/-- Of two accesses under one LSID exactly one acts. -/
theorem shares (h : Accesses o c lsid asNull acts) : Shares o c lsid asNull acts := by
  obtain ⟨nul, act, rfl, hnul, hact⟩ := h
  intro htaken
  rw [Ctx.shareLsid_of_taken htaken]
  split
  · exact .inl hnul
  · next hx =>
    obtain ⟨-, hst⟩ := not_or.mp hx
    exact .inr ⟨by simpa using hst, hact _ (.inr rfl)⟩

end Accesses

/-! ### The checks of an access -/

/-- A global access is what its body leaves where its check passes, and else what its check says (R189, R196, R407). -/
theorem Ctx.global_acts {c : Ctx} {nd : Need} {va n lsid : Nat} {body : Ctx → Nat × Nat → Out}
    {does : Nat → Nat → TlbEntry → State}
    (h : ∀ gpa key e, (if c.lost key nd then c.fault (.access FC.uncorrectable lsid va) else body (c.filled e) (gpa, key)) =
      .next (does gpa key e)) : GlobalActs (c.global nd va n lsid body) c nd va n lsid does := by
  refine ⟨fun gpa key e he => ?_, fun x hx hst => ?_, fun x st hx hst => ?_⟩
  · simp only [Ctx.global, he]
    exact h gpa key e
  · simp only [Ctx.global, hx, Ctx.fails, hst]
    rfl
  · simp only [Ctx.global, hx, Ctx.fails, hst]
    rfl

/-- A load is never lost as it fires (R385). -/
theorem Ctx.global_load_acts {c : Ctx} {va n lsid : Nat} {body : Ctx → Nat × Nat → Out} {does : Nat → Nat → TlbEntry → State}
    (h : ∀ gpa key e, body (c.filled e) (gpa, key) = .next (does gpa key e)) :
    GlobalActs (c.global .load va n lsid body) c .load va n lsid does := Ctx.global_acts h

/-- A store to a package that cannot be reached is UNCORRECTABLE (R385). -/
theorem Ctx.global_store_acts {c : Ctx} {va n lsid : Nat} {body : Ctx → Nat × Nat → Out} {does : Nat → Nat → TlbEntry → State}
    (h : ∀ gpa key e, body (c.filled e) (gpa, key) = .next (does gpa key e)) :
    GlobalActs (c.global .store va n lsid body) c .store va n lsid fun gpa key e =>
      if c.s.lost key then c.faulted (.access FC.uncorrectable lsid va) else does gpa key e := by
  refine Ctx.global_acts fun gpa key e => ?_
  rw [show c.lost key .store = c.s.lost key from rfl, h]
  split <;> rfl

theorem Carries.inj {t : Option Tok} {d e : Datum} (h : Carries t d) (h' : Carries t e) : d = e := by
  obtain ⟨hd, -⟩ := h
  obtain ⟨he, -⟩ := h'
  simpa using hd.symm.trans he

section Plain
variable {s : State} {c : Ctx} {pr : Pred} {ts : List Target} {lsid n : Nat} {sc : Scope} {mode : MemMode} {form : LoadForm}
  {a b : Datum} (h : s.Fires c pr) (ha : Carries c.m.a a)
include h ha

/-! ### Global loads and stores -/

/-- A plain or acquire load (R186, R189, R191). -/
theorem loadOp_accesses (hm : isChain mode = false) : Accesses (loadOp s pr ts lsid sc mode n form) c lsid
    (fun o d => o = .next (d.sent ts none)) fun o d => LoadActs o d a lsid sc mode n form := by
  rw [loadOp, fire_of_fires h]
  cases mode with
  | chain l x => cases hm
  | plain x | sync x =>
    refine ⟨_, _, port_of_carries ha _ _, rfl, fun d _ => ⟨fun _ => ?_, fun _ _ _ hx => nomatch hx⟩⟩
    exact Ctx.global_load_acts fun gpa key e => rfl

/-- A chain load takes its place in its chain, with nulls or without (R107, R200). -/
theorem loadOp_chain_accesses {l : Link} {x : BitVec 19} {p : Datum} (hp : Carries c.m.p p) :
    Accesses (loadOp s pr ts lsid sc (.chain l x) n form) c lsid
      (fun o d => o = .next (((d.satisfied lsid).chained lsid (tripleOf l p.u64) none false).sent ts none))
      fun o d => LoadActs o d a lsid sc (.chain l x) n form := by
  rw [loadOp, fire_of_fires h]
  refine ⟨_, _, (port_of_carries hp _ _).trans (port_of_carries ha _ _), rfl, fun d hd => ⟨nofun, fun _ _ q hx hq => ?_⟩⟩
  cases hx
  obtain rfl := hp.inj (hd.m ▸ hq)
  exact Ctx.global_load_acts fun gpa key e => rfl

variable (hb : Carries c.m.b b)
include hb

/-- A plain or release store (R186, R189, R192). -/
theorem storeOp_accesses (hm : isChain mode = false) : Accesses (storeOp s pr lsid sc mode n) c lsid
    (fun o d => o = .next (d.satisfied lsid).s) fun o d => StoreActs o d a b lsid sc mode n := by
  rw [storeOp, fire_of_fires h]
  cases mode with
  | chain l x => cases hm
  | plain x | sync x =>
    refine ⟨_, _, (port_of_carries ha _ _).trans (port_of_carries hb _ _), rfl, fun d _ => ⟨fun _ => ?_, fun _ _ _ hx => nomatch hx⟩⟩
    exact Ctx.global_store_acts fun gpa key e => rfl

/-- A chain store goes to its Dresser (R107, R200). -/
theorem storeOp_chain_accesses {l : Link} {x : BitVec 19} {p : Datum} (hp : Carries c.m.p p) :
    Accesses (storeOp s pr lsid sc (.chain l x) n) c lsid
      (fun o d => o = .next ((d.satisfied lsid).chained lsid (tripleOf l p.u64) none false).s)
      fun o d => StoreActs o d a b lsid sc (.chain l x) n := by
  rw [storeOp, fire_of_fires h]
  refine ⟨_, _, (port_of_carries hp _ _).trans ((port_of_carries ha _ _).trans (port_of_carries hb _ _)), rfl,
    fun d hd => ⟨nofun, fun _ _ q hx hq => ?_⟩⟩
  cases hx
  obtain rfl := hp.inj (hd.m ▸ hq)
  exact Ctx.global_store_acts fun gpa key e => rfl

/-- An atomic keeps its operands for commit (R108, R118, R204). -/
theorem amoOp_accesses {w : IW} {ord : AmoOrd} {op : AmoOp} {loc : Bool} :
    Accesses (amoOp s pr ts lsid sc w ord op loc) c lsid (fun o d => o = .next ((d.satisfied lsid).sent ts none))
      fun o d => AtomicActs o d a b loc ts lsid sc w ord op := by
  rw [amoOp, fire_of_fires h]
  refine ⟨_, _, (port_of_carries ha _ _).trans (port_of_carries hb _ _), rfl, fun d hd => ?_⟩
  simp only [AtomicActs, ← hd.k, Bool.and_eq_true, Bool.not_eq_true', decide_eq_true_eq]
  cases loc with
  | true =>
    rw [if_pos rfl, if_pos rfl]
    exact Ctx.local_acts rfl
  | false =>
    rw [if_neg Bool.false_ne_true, if_neg Bool.false_ne_true]
    exact Ctx.global_store_acts fun gpa key e => rfl

end Plain

/-! ### Local, wide and chain-only accesses -/

/-- The first of some addresses that fails its check decides (R207, R215). -/
theorem Ctx.firstFail_of_first {c : Ctx} {n j : Nat} {vas : List Nat} {x : TransErr} (hj : j < vas.length)
    (hfirst : ∀ k < j, (placeOf (c.check .load (vas.getD k 0) n)).isSome = true)
    (hx : c.check .load (vas.getD j 0) n = .error x) : c.firstFail n vas = some (vas.getD j 0, x) := by
  rw [Ctx.firstFail, List.findSome?_eq_some_iff]
  refine ⟨vas.take j, vas.getD j 0, vas.drop (j + 1), ?_, by rw [hx], fun va hva => ?_⟩
  · rw [List.getD_eq_getElem _ _ hj, List.getElem_cons_drop, List.take_append_drop]
  · obtain ⟨k, hk, rfl⟩ := List.mem_take_iff_getElem.mp hva
    have hf := hfirst k (by omega)
    rw [List.getD_eq_getElem _ _ (by omega)] at hf
    cases hc : c.check .load vas[k] n with
    | error e => rw [hc] at hf; cases hf
    | ok _ => rfl

theorem Ctx.firstFail_of_fit {c : Ctx} {n : Nat} {vas : List Nat}
    (h : ∀ va ∈ vas, (placeOf (c.check .load va n)).isSome = true) : c.firstFail n vas = none := by
  refine List.findSome?_eq_none_iff.mpr fun va hva => ?_
  have hf := h va hva
  cases hc : c.check .load va n with
  | error e => rw [hc] at hf; cases hf
  | ok _ => rfl

/-- A load of several ranges is its body on all of them, or what the first that fails says (R207, R215). -/
theorem Ctx.loadAll_acts {c : Ctx} {vas : List Nat} {n lsid : Nat} {body : List LoadPart → Out} {does : List LoadPart → Prop}
    (h : ∀ parts, c.loadAll n vas lsid body = body parts → does parts) :
    RangesAct (c.loadAll n vas lsid body) c vas n lsid does := by
  refine ⟨fun hfit => h _ ?_, fun j hj hfirst x hx => ⟨fun hst => ?_, fun st hst => ?_⟩⟩
  · rw [Ctx.loadAll, Ctx.firstFail_of_fit hfit]
  · simp only [Ctx.loadAll, Ctx.firstFail_of_first hj hfirst hx, Ctx.fails, hst]
    rfl
  · simp only [Ctx.loadAll, Ctx.firstFail_of_first hj hfirst hx, Ctx.fails, hst]
    rfl

section Shared
variable {s : State} {c : Ctx} {pr : Pred} {ts : List Target} {lsid n : Nat} {core : Bool} {disp : BitVec 21} {form : LoadForm}
  {a b : Datum} (ha : Carries c.m.a a)
include ha

theorem loadLocal_accesses (h : s.Fires c pr) : Accesses (loadLocal s pr ts lsid core disp n form) c lsid
    (fun o d => o = .next (d.sent ts none)) fun o d => LocalLoadActs o d a lsid core disp n form := by
  rw [loadLocal, fire_of_fires h, sint_bitVec]
  refine ⟨_, _, port_of_carries ha _ _, rfl, fun d _ => ?_⟩
  simp only [LocalLoadActs]
  exact Ctx.local_acts rfl

theorem storeLocalOp_accesses (h : s.Fires c pr) (hb : Carries c.m.b b) : Accesses (storeLocalOp s pr lsid core disp n) c lsid
    (fun o d => o = .next (d.satisfied lsid).s) fun o d => LocalStoreActs o d a b lsid core disp n := by
  rw [storeLocalOp, fire_of_fires h, sint_bitVec]
  refine ⟨_, _, (port_of_carries ha _ _).trans (port_of_carries hb _ _), rfl, fun d _ => ?_⟩
  simp only [LocalStoreActs]
  exact Ctx.local_acts rfl

/-- A CHNOP sends its triple with no store (R200). -/
theorem exec_chnop_accesses {f : FChnop} (h : s.Fires c f.pr) : Accesses (exec (.chnop f) s) c f.lsid.toNat
    (fun o d => o = .next (d.satisfied f.lsid.toNat).s) fun o d => ChnopActs o d a f := by
  change Accesses (execChnop f s) _ _ _ _
  rw [execChnop, fire_of_fires h]
  exact ⟨_, _, port_of_carries ha _ _, rfl, fun d _ => rfl⟩

/-- A GATH loads the masked lanes of A's addresses (R207). -/
theorem exec_gath_accesses {f : FGath} (h : s.Fires c f.pr) : Accesses (exec (.gath f) s) c f.lsid.toNat
    (fun o d => o = .next (d.sent [f.t0, f.t1] none)) fun o d => GatherActs o d a f := by
  change Accesses (execGath f s) _ _ _ _
  rw [execGath, fire_of_fires h]
  exact ⟨_, _, port_of_carries ha _ _, rfl, fun d _ => Ctx.loadAll_acts fun _ e => e⟩

/-- A TFETCH loads sixteen rows from a canonical address of 16 bytes (R215, R216, R310). -/
theorem exec_tfetch_accesses {f : FTfetch} (h : s.Fires c f.pr) (hf : f.fmt.isReserved = false) :
    Accesses (exec (.tfetch f) s) c f.lsid.toNat (fun o d => o = .next (d.sent [f.t0, f.t1] none))
      fun o d => TileActs o d a f := by
  change Accesses (execTfetch f s) _ _ _ _
  rw [execTfetch, fire_of_fires h, withFmt_of_ok (by simpa using hf)]
  refine ⟨_, _, port_of_carries ha _ _, rfl, fun d _ => ⟨fun hc => if_pos (by simp [hc]), fun hc hal => ?_, fun hc hal => ?_⟩⟩
  · exact (if_neg (by simp [hc])).trans (if_pos hal)
  · rw [if_neg (by simp [hc]), if_neg (not_not.mpr hal)]
    exact Ctx.loadAll_acts fun _ e hroom hpin => e.trans (need_of (Bool.and_eq_true_iff.mpr ⟨hroom, hpin⟩) _)

/-- A SEQRD reads a doubleword of the record of a sequence of its chair (R277, R331). -/
theorem exec_seqrd_accesses {f : FSeqrd} (h : s.Fires c f.pr) (hlt : a.u64 < 2 ^ 20)
    (hn : a.u64 < bits (c.s.chair c.sl.chair).chseqn.toNat 0 21) :
    Accesses (exec (.seqrd f) s) c f.lsid.toNat (fun o d => o = .next (d.sent [f.t0, f.t1] none))
      fun o d => SeqrdActs o d a f := by
  change Accesses (execSeqrd f s) _ _ _ _
  rw [execSeqrd, station1_of_fires h (by simp) ha]
  refine ⟨_, _, (if_neg hlt.not_ge).trans (if_neg hn.not_ge), rfl, fun d hd => ?_⟩
  simp only [SeqrdActs, hd.chair]
  refine ⟨fun key p hok => ⟨fun hr => ?_, fun hr => ?_⟩, fun x hx => ⟨fun hst => ?_, fun st hst => ?_⟩⟩
  · simp only [hok, hr]
    rfl
  · simp only [hok, hr]
    rfl
  · simp only [hx, Ctx.fails, hst]
    rfl
  · simp only [hx, Ctx.fails, hst]
    rfl

end Shared

/-! ### Engine commands -/

/-- Masked lanes that all pass let an access act, and the lowest that fails decides (R207, R208). -/
theorem Ctx.lanes_act {c : Ctx} {a : Datum} {lanes : BitVec 8} {n lsid : Nat} {enters : Prop} {o : Out}
    (hnone : laneFault a lanes n = none → enters)
    (hsome : ∀ code va, laneFault a lanes n = some (code, va) → o = c.fault (.access code lsid va)) :
    ((∀ k < 8, LaneOk a lanes n k) → enters) ∧
    (∀ k < 8, (∀ m < k, LaneOk a lanes n m) → lanes.getLsbD k = true →
      (canonical (a.addrLane k) = false → o = .next (c.faulted (.access FC.translation lsid (a.addrLane k)))) ∧
      (canonical (a.addrLane k) = true → a.addrLane k % n ≠ 0 →
        o = .next (c.faulted (.access FC.alignment lsid (a.addrLane k))))) :=
  ⟨fun hok => hnone (laneFault_of_ok hok), fun _ hk hfirst hm =>
    ⟨fun hc => hsome _ _ (laneFault_of_first hk hfirst (laneCheck_of_not_canonical hm hc)),
      fun hc hal => hsome _ _ (laneFault_of_first hk hfirst (laneCheck_of_unaligned hm hc hal))⟩⟩

section Engine
variable {s : State} {c : Ctx} {i : Instr} {pr : Pred} {ts : List Target} {lsid : Nat} {ra rb : Bool} {a b : Datum}
  (h : s.Fires c pr) (hfree : c.freeEntries ≠ []) (ha : Operand ra c.m.a a) (hb : Operand rb c.m.b b)
include h hfree ha hb

/-- An engine instruction whose checks, wherever it may enter, leave what they should is an access (R119, R220). -/
theorem engineWith_accesses {keepA keepB : Datum → Payload} {check : Ctx → Datum → Datum → (Ctx → Out) → Out}
    {acts : Out → Ctx → Prop}
    (hact : ∀ d : Ctx, d.freeEntries ≠ [] → acts (check d a b fun e => e.engine i ts lsid (keepA a) (keepB b) false) d) :
    Accesses (engineWith s i pr ts lsid ra rb keepA keepB check) c lsid (fun o d => Enters o d i ts lsid 0 0 true) acts := by
  rw [engineWith, fire_of_fires h, need_of (by simpa using hfree)]
  refine ⟨_, _, (onPort_of_operand ha _ _).trans (onPort_of_operand hb _ _), ?_, fun d hd => hact d ?_⟩
  · exact Ctx.engine_enters (c := c.drawn) hfree _ _ _
  · rwa [hd.freeEntries]

/-- A command with a local descriptor (R211, R248). -/
theorem descOp_accesses {n al : Nat} :
    Accesses (engineOp s i pr ts lsid ra rb fun c a _ k => c.local (effAddr a 0) n al lsid k) c lsid
      (fun o d => Enters o d i ts lsid 0 0 true)
      fun o d => LocalActs o d lsid (effAddr a 0) n al fun o => Enters o d i ts lsid a.keep64 b.keep64 false :=
  engineWith_accesses h hfree ha hb fun _ hd => Ctx.local_acts (Ctx.engine_enters hd _ _ _)

/-- A command that is checked for nothing as it fires (R263 to R265). -/
theorem engineOp_accesses : Accesses (engineOp s i pr ts lsid ra rb fun c _ _ k => k c) c lsid
    (fun o d => Enters o d i ts lsid 0 0 true) fun o d => Enters o d i ts lsid a.keep64 b.keep64 false :=
  engineWith_accesses h hfree ha hb fun _ hd => Ctx.engine_enters hd _ _ _

/-- An invalidation (R217). -/
theorem asidOp_accesses {n : Nat} :
    Accesses (engineOp s i pr ts lsid ra rb fun c _ _ k =>
        if ((c.s.chair c.sl.chair).asidIndex n).isNone then c.fault (.access FC.protection lsid 0) else k c) c lsid
      (fun o d => Enters o d i ts lsid 0 0 true) fun o d =>
        (((d.s.chair d.sl.chair).asidIndex n).isSome = true → Enters o d i ts lsid a.keep64 b.keep64 false) ∧
        (((d.s.chair d.sl.chair).asidIndex n).isSome = false → o = .next (d.faulted (.access FC.protection lsid 0))) := by
  refine engineWith_accesses h hfree ha hb fun d hd => ?_
  cases (d.s.chair d.sl.chair).asidIndex n with
  | none => exact ⟨fun hs => absurd hs (by decide), fun _ => rfl⟩
  | some _ => exact ⟨fun _ => Ctx.engine_enters hd _ _ _, fun hs => absurd hs (by simp)⟩

end Engine

section Commands
variable {s : State} {c : Ctx} {i : Instr} {pr : Pred} {ts : List Target} {lsid : Nat} {a b : Datum}
  (hfree : c.freeEntries ≠ []) (ha : Carries c.m.a a)
include hfree ha

/-- A command with a local descriptor alone. -/
theorem descOp_alone_accesses {n al : Nat} (h : s.Fires c pr) :
    Accesses (descOp s i pr ts lsid false n al) c lsid (fun o d => Enters o d i ts lsid 0 0 true)
      fun o d => LocalActs o d lsid (effAddr a 0) n al fun o => Enters o d i ts lsid a.keep64 0 false := by
  have e := descOp_accesses (i := i) (ts := ts) (lsid := lsid) (n := n) (al := al) h hfree (operand_read.mpr ha)
    (operand_unread.mpr rfl)
  rwa [Datum.keep64_zero] at e

/-- A command with A's operand alone. -/
theorem engineOp_alone_accesses (h : s.Fires c pr) :
    Accesses (engineOp s i pr ts lsid true false fun c _ _ k => k c) c lsid (fun o d => Enters o d i ts lsid 0 0 true)
      fun o d => Enters o d i ts lsid a.keep64 0 false := by
  have e := engineOp_accesses (i := i) (ts := ts) (lsid := lsid) h hfree (operand_read.mpr ha) (operand_unread.mpr rfl)
  rwa [Datum.keep64_zero] at e

/-- PDOM takes a control word of one bit (R262). -/
theorem exec_pdom_accesses {f : FDom} (h : s.Fires c f.pr) : Accesses (exec (.pdom f) s) c f.lsid.toNat
    (fun o d => Enters o d (.pdom f) [f.t0, f.t1] f.lsid.toNat 0 0 true) fun o d => EngineActs o d (.pdom f) a .zero := by
  change Accesses (execPdom f s) _ _ _ _
  rw [execPdom, engineOp]
  refine engineWith_accesses h hfree (operand_read.mpr ha) (operand_unread.mpr rfl) fun d hd => ⟨fun hlt => ?_, fun hle => if_pos hle⟩
  rw [if_neg hlt.not_ge, Datum.keep64_zero]
  exact Ctx.engine_enters hd _ _ _

/-- LAUNCH takes the address of a packet, canonical and of 64 bytes (R177). -/
theorem exec_launch_accesses {f : FFar} (h : s.Fires c f.pr) : Accesses (exec (.launch f) s) c f.lsid.toNat
    (fun o d => Enters o d (.launch f) [f.t0, f.t1] f.lsid.toNat 0 0 true) fun o d => EngineActs o d (.launch f) a .zero := by
  change Accesses (execLaunch f s) _ _ _ _
  rw [execLaunch, engineOp]
  refine engineWith_accesses h hfree (operand_read.mpr ha) (operand_unread.mpr rfl) fun d hd =>
    ⟨fun hc => if_pos (by simp [hc]), fun hc hal => (if_neg (by simp [hc])).trans (if_pos hal), fun hc hal => ?_⟩
  rw [if_neg (by simp [hc]), if_neg (not_not.mpr hal), Datum.keep64_zero]
  exact Ctx.engine_enters hd _ _ _

/-- A scatter takes eight lanes of addresses and of data (R208). -/
theorem scatterOp_accesses {lanes : BitVec 8} {w : IW} (hb : Carries c.m.b b) (h : s.Fires c pr) :
    Accesses (scatterOp s i pr ts lsid lanes w) c lsid (fun o d => Enters o d i ts lsid 0 0 true) fun o d =>
      ((∀ k < 8, LaneOk a lanes w.bytes k) → Enters o d i ts lsid (keepLanes a.addrLane) (keepLanes (b.bitLane 64)) false) ∧
      (∀ k < 8, (∀ m < k, LaneOk a lanes w.bytes m) → lanes.getLsbD k = true →
        (canonical (a.addrLane k) = false → o = .next (d.faulted (.access FC.translation lsid (a.addrLane k)))) ∧
        (canonical (a.addrLane k) = true → a.addrLane k % w.bytes ≠ 0 →
          o = .next (d.faulted (.access FC.alignment lsid (a.addrLane k))))) := by
  refine engineWith_accesses h hfree (operand_read.mpr ha) (operand_read.mpr hb) fun d hd => ?_
  refine Ctx.lanes_act (fun e => ?_) fun code va e => ?_
  · simp only [e]
    exact Ctx.engine_enters hd _ _ _
  · simp only [e]

end Commands

/-! ### The statements -/

section Loads
variable {s : State} {c : Ctx} {pr : Pred} {ts : List Target} {lsid n : Nat} {sc : Scope} {mode : MemMode} {form : LoadForm}
  {a b : Datum} (ha : Carries c.m.a a)
include ha

/-- A load whose LSID is its own, whatever its mode. -/
theorem loadOp_acts (h : s.Fires c pr) (hl : c.FreeLsid lsid) : LoadActs (loadOp s pr ts lsid sc mode n form) c a lsid sc mode n form := by
  refine ⟨fun hm => ((loadOp_accesses h ha hm).acts_of_free hl).1 hm, fun l x p hm hp => ?_⟩
  subst hm
  exact ((loadOp_chain_accesses h ha hp).acts_of_free hl).2 l x p rfl hp

/-- A store whose LSID is its own, whatever its mode. -/
theorem storeOp_acts (hb : Carries c.m.b b) (h : s.Fires c pr) (hl : c.FreeLsid lsid) :
    StoreActs (storeOp s pr lsid sc mode n) c a b lsid sc mode n := by
  refine ⟨fun hm => ((storeOp_accesses h ha hb hm).acts_of_free hl).1 hm, fun l x p hm hp => ?_⟩
  subst hm
  exact ((storeOp_chain_accesses h ha hb hp).acts_of_free hl).2 l x p rfl hp

end Loads

/-- Settles O12: each is one shared load, of its own size and form. -/
theorem globalLoadsFire : Obligations.GlobalLoadsFire := by
  intro s c a ha
  exact ⟨fun f h hl => ⟨loadOp_acts ha h hl, loadOp_acts ha h hl⟩, fun f h hl => loadOp_acts ha h hl⟩

/-- Settles O13: each is one shared store, of its own size; CHNOP's triple alone goes to the Dresser. -/
theorem globalStoresFire : Obligations.GlobalStoresFire := by
  intro s c a ha
  exact ⟨fun f b hb h hl => storeOp_acts ha hb h hl, fun f b hb h hl => storeOp_acts ha hb h hl,
    fun f h hl => (exec_chnop_accesses ha h).acts_of_free hl⟩

/-- Settles O15: AMO and AMOL are one shared atomic, global or local. -/
theorem atomicsFire : Obligations.AtomicsFire := by
  intro s c a b ha hb
  exact ⟨fun f h hl => (amoOp_accesses h ha hb).acts_of_free hl, fun f h hl => (amoOp_accesses h ha hb).acts_of_free hl⟩

/-- Settles O16: every access under a taken LSID loses or takes a store's place, and acts as its own statement says. -/
theorem sharedLsidActsOnce : Obligations.SharedLsidActsOnce := by
  intro s c a ha sentNull done load store engine
  have hload {pr : Pred} {t0 t1 : Target} {lsid : Nat} {sc : Scope} {mode : MemMode} {n : Nat} {form : LoadForm} {i : Instr}
      (e : exec i s = loadOp s pr [t0, t1] lsid sc mode n form) : load i pr t0 t1 lsid sc mode n form := by
    intro h
    rw [e]
    refine ⟨fun hm => (loadOp_accesses h ha hm).shares, fun l x p hm hp => ?_⟩
    subst hm
    exact (loadOp_chain_accesses h ha hp).shares
  have hstore {pr : Pred} {b : Datum} {lsid : Nat} {sc : Scope} {mode : MemMode} {n : Nat} {i : Instr} (hb : Carries c.m.b b)
      (e : exec i s = storeOp s pr lsid sc mode n) : store i pr b lsid sc mode n := by
    intro h
    rw [e]
    refine ⟨fun hm => (storeOp_accesses h ha hb hm).shares, fun l x p hm hp => ?_⟩
    subst hm
    exact (storeOp_chain_accesses h ha hb hp).shares
  have desc {i : Instr} {pr : Pred} {t0 t1 : Target} {lsid n al : Nat} (h : s.Fires c pr) (hfree : c.freeEntries ≠ []) :=
    (descOp_alone_accesses (i := i) (ts := [t0, t1]) (lsid := lsid) (n := n) (al := al) hfree ha h).shares
  have descB {i : Instr} {pr : Pred} {t0 t1 : Target} {lsid n al : Nat} {b : Datum} (hb : Carries c.m.b b) (h : s.Fires c pr)
      (hfree : c.freeEntries ≠ []) := (descOp_accesses (i := i) (ts := [t0, t1]) (lsid := lsid) (n := n) (al := al) h hfree
    (operand_read.mpr ha) (operand_read.mpr hb)).shares
  have op {i : Instr} {pr : Pred} {t0 t1 : Target} {lsid : Nat} (h : s.Fires c pr) (hfree : c.freeEntries ≠ []) :=
    (engineOp_alone_accesses (i := i) (ts := [t0, t1]) (lsid := lsid) hfree ha h).shares
  refine ⟨fun f => ⟨hload rfl, hload rfl⟩, fun f => hload rfl, fun f h => (loadLocal_accesses ha h).shares,
    fun f h => (loadLocal_accesses ha h).shares, fun f h => (exec_gath_accesses ha h).shares,
    fun f h hf => (exec_tfetch_accesses ha h hf).shares, fun f h hlt hn => (exec_seqrd_accesses ha h hlt hn).shares,
    fun f h => (exec_chnop_accesses ha h).shares, fun f => ⟨desc, desc, desc, op⟩,
    fun f h hf => (exec_launch_accesses hf ha h).shares, fun f => ⟨desc, fun h hf => ?unbind, desc⟩,
    fun f => ⟨fun h hf => (exec_pdom_accesses hf ha h).shares, op, desc, desc⟩, fun f => op, fun f => op, fun f => desc,
    fun f h hf => ?inva, fun b hb => ⟨fun f => hstore hb rfl, fun f => hstore hb rfl,
      fun f h => (storeLocalOp_accesses ha h hb).shares, fun f h => (storeLocalOp_accesses ha h hb).shares,
      fun f h => (amoOp_accesses h ha hb).shares, fun f h => (amoOp_accesses h ha hb).shares,
      fun f => descB hb, fun f => descB hb, fun f => descB hb, fun f => descB hb,
      fun f h hf => (asidOp_accesses h hf (operand_read.mpr ha) (operand_read.mpr hb)).shares,
      fun f h hf => (scatterOp_accesses hf ha hb h).shares, fun f h hf => (scatterOp_accesses hf ha hb h).shares⟩⟩
  case unbind =>
    have e := (engineOp_accesses (i := .unbind f) (ts := [f.t0, f.t1]) (lsid := f.lsid.toNat) h hf (operand_unread.mpr rfl)
      (operand_unread.mpr rfl)).shares
    rwa [Datum.keep64_zero] at e
  case inva =>
    have e := (asidOp_accesses (i := .inva f) (ts := [f.t0, f.t1]) (lsid := f.lsid.toNat) (n := f.asid.toNat) h hf
      (operand_unread.mpr rfl) (operand_unread.mpr rfl)).shares
    rwa [Datum.keep64_zero] at e

end Sys2Proof.Machine

/-! PROOFS. Tokens to their targets (O36). -/

namespace Sys2Proof.Machine
open Sys2Proof

/-- A token goes to a write slot that holds none as that slot's token (R38, R100). -/
theorem State.toWslot_of_free {s : State} {core slot age n : Nat} {sl : Slot} {i : Inst} (hs : s.slot? core slot = some sl)
    (hi : sl.inst? age = some i) (hfree : ∀ w ∈ i.ws, w.1 ≠ n) (t : Tok) :
    s.toWslot core slot age n t = s.modInst core slot age fun i => { i with ws := i.ws ++ [(n, t)] } := by
  have hi' : (s.slot? core slot).bind (·.inst? age) = some i := by rw [hs]; exact hi
  simp only [State.toWslot, hi']
  exact if_neg (by simpa using fun x hx => hfree _ hx rfl)

/-- Settles O36, target by target. -/
theorem tokensGoToTheirTargets : Obligations.TokensGoToTheirTargets := by
  intro s core slot age t hc
  refine ⟨rfl, fun q n => s.core_modCore core _ hc, fun n sl i hs hi hfree => ?_⟩
  rw [State.emit1, State.toWslot_of_free hs hi hfree]
  exact State.inst_modInst hs hi fun _ h => h

end Sys2Proof.Machine

/-! PROOFS. The checks of a block that is mapped (O40). -/

namespace Sys2Proof.Machine
open Sys2Proof

theorem orElse_eq_none {α : Type} {a : Option α} {b : Unit → Option α} : a.orElse b = none ↔ a = none ∧ b () = none := by
  cases a <;> simp [Option.orElse]

/-- A check finds no slot at fault where it passes at every slot. -/
theorem firstSlot_eq_none {ws : List Word} {p : Nat → Word → Bool} :
    firstSlot ws p = none ↔ ∀ k < ws.length, p k (ws.getD k 0) = false := by
  simp [firstSlot]

theorem Inst.lt_of_instr {i : Inst} {k : Nat} {x : Instr} (h : i.instr k = some x) : k < i.words.length := by
  by_contra hk
  have : i.words[k]? = none := List.getElem?_eq_none (Nat.le_of_not_lt hk)
  simp [Inst.instr, Inst.word, this] at h

/-- A header check passes where it finds nothing. -/
theorem head_eq_none {b : Bool} {f : FaultRec} : (if b then some f else none) = none ↔ b = false := by cases b <;> simp

theorem orElse_assoc {α : Type} (a : Option α) (b c : Unit → Option α) :
    (a.orElse b).orElse c = a.orElse fun _ => (b ()).orElse c := by cases a <;> rfl

section Passes
variable {i : Inst} {user : Bool} (h : mapCheck i user = none)
include h

/-- The checks of the header alone, its counts of exits and its privilege (R116, R117). -/
theorem header_of_mapCheck : bits i.h0.toNat 56 8 = 0xB1 ∧ blockSize i.h0 ≤ 128 ∧ bits i.h0.toNat 32 8 = 0 ∧
    bits i.h1.toNat 0 32 = 0 ∧ i.exitCount = bits i.h0.toNat 45 3 + 1 ∧ (user = true → hdrPv i.h0 = false) := by
  simp only [mapCheck, orElse_eq_none, Option.map_eq_none_iff, head_eq_none] at h
  obtain ⟨hsign, hzero, -, -, -, -, -, -, hcount, -, huser⟩ := h
  simp only [Bool.or_eq_false_iff, decide_eq_false_iff_not, not_not, Nat.not_lt] at hsign hzero hcount
  obtain ⟨⟨⟨⟨-, hexits⟩, -⟩, -⟩, -⟩ := hcount
  exact ⟨hsign.1, hsign.2, hzero.1, hzero.2, hexits, fun hu => by simpa [hu, hdrPv] using huser⟩

/-- Every word decodes (R121). -/
theorem decode_of_mapCheck {k : Nat} {w : Word} (hw : i.words[k]? = some w) : ∃ x, decode w = .ok x := by
  simp only [mapCheck, orElse_eq_none, Option.map_eq_none_iff, firstSlot_eq_none] at h
  obtain ⟨-, -, hill, hrsv, -⟩ := h
  obtain ⟨hk, rfl⟩ := List.getElem?_eq_some_iff.mp hw
  have hill := hill k hk
  have hrsv := hrsv k hk
  rw [List.getD_eq_getElem _ _ hk] at hill hrsv
  cases hd : decode i.words[k] with
  | ok x => exact ⟨x, rfl⟩
  | error e =>
    rw [hd] at hill hrsv
    cases e with
    | illegalOpcode => cases hill
    | reservedField => cases hrsv

variable {k : Nat} {x : Instr} (hx : i.instr k = some x)
include hx

/-- Every target that is a port is one that its consumer reads, of another word, and no atomic has one (R101). -/
theorem port_of_mapCheck {q : Port} {n : BitVec 7} (ht : .port q n ∈ instrTargets x) :
    isAmo x = false ∧ n.toNat < i.words.length ∧ n.toNat ≠ k ∧ i.readsPort n.toNat q = true := by
  simp only [mapCheck, orElse_eq_none, Option.map_eq_none_iff, firstSlot_eq_none] at h
  obtain ⟨-, -, -, -, hrange, -⟩ := h
  have hk := hrange k (Inst.lt_of_instr hx)
  simp only [hx] at hk
  have hp := List.any_eq_false.mp hk _ ht
  simpa [targetRange, and_assoc] using hp

/-- Every target that is a write slot is one of the write mask (R101, R116). -/
theorem wslot_of_mapCheck {n : BitVec 5} (ht : .wslot n ∈ instrTargets x) : bit i.h1.toNat (32 + n.toNat) = true := by
  simp only [mapCheck, orElse_eq_none, Option.map_eq_none_iff, firstSlot_eq_none] at h
  obtain ⟨-, -, -, -, -, hmask, -⟩ := h
  have hk := hmask k (Inst.lt_of_instr hx)
  simp only [hx] at hk
  simpa using List.any_eq_false.mp hk _ ht

/-- An instruction of CHAIR privilege stands where PV is set (R117). -/
theorem pv_of_mapCheck (hneeds : needsPv x = true) : hdrPv i.h0 = true := by
  simp only [mapCheck, orElse_eq_none, Option.map_eq_none_iff, firstSlot_eq_none] at h
  obtain ⟨-, -, -, -, -, -, -, -, -, hpriv, -⟩ := h
  have hk := hpriv k (Inst.lt_of_instr hx)
  simpa [hx, hneeds, hdrPv] using hk

end Passes

/-- USER may not map a block with PV, which is the last check (R117, R408). -/
theorem mapCheck_user (i : Inst) : mapCheck i true =
    (mapCheck i false).orElse fun _ => if hdrPv i.h0 then some (.atSlot FC.privilege 0) else none := by
  simp only [mapCheck, orElse_assoc]
  rfl

/-- Settles O40, check by check. -/
theorem mappedBlocksAreSound : Obligations.MappedBlocksAreSound := by
  intro i user
  refine ⟨fun h => ?_, fun h hpv => ?_⟩
  · obtain ⟨hsign, hsize, hzero, hzero', hexits, huser⟩ := header_of_mapCheck h
    exact ⟨hsign, hsize, hzero, hzero', fun _ _ => decode_of_mapCheck h, fun _ _ _ _ hx => port_of_mapCheck h hx,
      fun _ _ _ hx => wslot_of_mapCheck h hx, hexits, fun _ _ => pv_of_mapCheck h, huser⟩
  · rw [mapCheck_user, h, hpv]
    rfl

end Sys2Proof.Machine

/-! PROOFS. Rows fed to an array, and rows drained of it (O27). -/

namespace Sys2Proof.Machine
open Sys2Proof

/-- Changing one of a core's arrays leaves its tiles. -/
theorem State.tiles_modArray (s : State) (core : Nat) (a : SysArray) (f : SysArray → SysArray) :
    ((s.modArray core a f).core core).tiles = (s.core core).tiles := by
  by_cases hc : core < s.cores.length
  · rw [State.modArray, State.modArrays, s.core_modCore _ _ hc]
  · have hn := Nat.le_of_not_lt hc
    rw [State.core, State.core, List.getD_eq_default _ _ hn,
      List.getD_eq_default _ _ (by simpa [State.modArray, State.modArrays, State.modCore] using hn)]

/-- A new tile's payload value is that of no tile of its core (R215). -/
theorem State.newTile_eq (s : State) (core slot age : Nat) (fmt : Fmt) (elems : List Nat) (src : Option (Nat × Nat))
    (lines : List Nat) : ∃ id, (∀ t ∈ (s.core core).tiles, t.id ≠ id) ∧
      s.newTile core slot age fmt elems src lines = (⟨fmt, false, BitVec.ofNat 512 (id % 2 ^ 64), some id⟩,
        ({ s with freeCtr := s.freeCtr + 1 } : State).modCore core fun k =>
          { k with tiles := k.tiles ++ [⟨id, slot, age, fmt, elems, src, lines⟩] }) :=
  ⟨_, fun _ ht he => freshFrom_not_mem _ _ (List.mem_map.mpr ⟨_, ht, he⟩), rfl⟩

section Systolic
variable {s : State} {c : Ctx} {f : FT} {a : Datum} {arr : SysArray} {acc : Acc}

theorem exec_mma_of_no_column (h : s.Fires c f.pr) (ha : Carries c.m.a a) (hf : f.fmt.isReserved = false)
    (hn : c.array? (FT.isColumn f) = none) (ho : c.oldest = true) :
    exec (.mma f) s = .next (c.faulted (.plain FC.reservedField)) := by
  refine (station1_of_fires h (by simpa using hf) ha _ _).trans ?_
  simp only [hn]
  exact need_of ho _

/-- MMA at a column of an array: a column fed before, or an entry of the other shape, is refused (R240, R244). -/
theorem exec_mma_of_column (h : s.Fires c f.pr) (ha : Carries c.m.a a) (hf : f.fmt.isReserved = false)
    (hs : c.array? (FT.isColumn f) = some arr) (hacc : (arr.accs.find? (·.age = c.age)).getD ⟨c.age, [], [], .rows, []⟩ = acc) :
    exec (.mma f) s =
      if acc.feeds.any fun x => decide (x.col = f.col0.toNat - arr.col0) || x.tile != ((c.s.core c.core).tileOf a).isSome then
        .next (c.faulted (.plain FC.reservedField))
      else .next (({ c with s := (c.s.modArray c.core arr fun x =>
          { x with accs := { acc with feeds := acc.feeds ++ [c.feed arr a (f.col0.toNat - arr.col0)] } ::
            x.accs.filter (·.age ≠ c.age) }).admitRows c.core c.slot arr.row0 arr.col0 } : Ctx).sent
        [f.t0, f.t1] (some (.int 0))) := by
  refine (station1_of_fires h (by simpa using hf) ha _ _).trans ?_
  simp only [hs, hacc]
  rfl

theorem exec_drain_of_no_row (h : s.Fires c f.pr) (ha : Carries c.m.a a) (hf : f.fmt.isReserved = false)
    (hn : c.array? (FT.isRow f) = none) (ho : c.oldest = true) :
    exec (.drain f) s = .next (c.faulted (.plain FC.reservedField)) := by
  refine (station1_of_fires h (by simpa using hf) ha _ _).trans ?_
  simp only [hn]
  exact need_of ho _

/-- The targets of the route that a DRAIN's A port names (R242). -/
def SysArray.routeOf (arr : SysArray) (a : Datum) : Nat × Nat := arr.routes.getD (a.u64 % 16) (0, 0)

/-- The first of a route's targets that R101 refuses decides. -/
def Ctx.routeFault (c : Ctx) (rt : Nat × Nat) : Option Nat :=
  (c.targetFault rt.1 c.k c.inst.readsPort).orElse fun _ => c.targetFault rt.2 c.k c.inst.readsPort

/-- The state in which a row of the block's entry is drained, and what waited for the entry taken in (R241, R242). -/
def Ctx.drainedRow (c : Ctx) (arr : SysArray) (acc : Acc) (r : Nat) : State := c.s.modArray c.core arr fun x =>
  ({ x with accs := x.accs.map fun y => if y.age = c.age then { y with drained := r :: acc.drained } else y } : SysArray).takeIn 64

/-- DRAIN of a row that stands, once its route is checked. -/
theorem exec_drain_of_row (h : s.Fires c f.pr) (ha : Carries c.m.a a) (hf : f.fmt.isReserved = false)
    (hs : c.array? (FT.isRow f) = some arr) (hacc : arr.accs.find? (·.age = c.age) = some acc)
    (hcomp : arr.complete acc = true) (hplace : acc.place = .entry) :
    (∀ code, c.routeFault (arr.routeOf a) = some code → exec (.drain f) s = .next (c.faulted (.plain code))) ∧
    (c.routeFault (arr.routeOf a) = none → exec (.drain f) s =
      if acc.feeds.any (·.tile) then
        need (c.s.core c.core).tileRoom (
          let t := (c.drainedRow arr acc (f.row0.toNat - arr.row0)).newTile c.core c.slot c.age f.fmt
            ((List.range 16).flatMap fun n => (List.range 16).map fun j =>
              arr.drainElem acc f.fmt (f.row0.toNat - arr.row0) j n) none []
          .next (({ c with s := t.2 } : Ctx).sent
            ([f.t0, f.t1] ++ [(arr.routeOf a).1, (arr.routeOf a).2].filterMap Target.ofCode) (some t.1)))
      else .next (({ c with s := c.drainedRow arr acc (f.row0.toNat - arr.row0) } : Ctx).sent
        ([f.t0, f.t1] ++ [(arr.routeOf a).1, (arr.routeOf a).2].filterMap Target.ofCode)
        (some (.vector f.fmt f.fmt.lane ((List.range 16).map fun j =>
          arr.drainElem acc f.fmt (f.row0.toNat - arr.row0) j 0))))) := by
  have e := station1_of_fires h (fs := [f.fmt]) (by simpa using hf) ha [f.t0, f.t1]
  constructor
  · intro code hb
    refine (e _).trans ?_
    simp only [hs, hacc, needSome_some, hcomp, hplace]
    refine (need_of rfl _).trans ?_
    simp only [Ctx.routeFault, SysArray.routeOf] at hb
    rw [hb]
    rfl
  · intro hb
    refine (e _).trans ?_
    simp only [hs, hacc, needSome_some, hcomp, hplace]
    refine (need_of rfl _).trans ?_
    simp only [Ctx.routeFault, SysArray.routeOf] at hb
    rw [hb]
    rfl

end Systolic

/-- Settles O27: MMA's refusal is one test over the feeds of its entry; DRAIN's is the first target of its route that R101
refuses, and a tile that it sends has a payload value of its own. -/
theorem systolicFeedAndDrainFire : Obligations.SystolicFeedAndDrainFire := by
  intro s c f a h ha hf
  refine ⟨exec_mma_of_no_column h ha hf, fun arr hs => ?mma, exec_drain_of_no_row h ha hf,
    fun arr acc hs hacc hcomp hplace => ?drain⟩
  case mma =>
    have e := exec_mma_of_column h ha hf hs rfl
    refine ⟨fun ⟨x, hx, hbad⟩ => e.trans (if_pos ?_), fun hgood => e.trans (if_neg ?_)⟩
    · exact List.any_eq_true.mpr ⟨x, hx, by simpa using hbad⟩
    · simpa using hgood
  case drain =>
    obtain ⟨hfault, hdrain⟩ := exec_drain_of_row h ha hf hs hacc hcomp hplace
    have hclear (h0 : c.targetFault (arr.routeOf a).1 c.k c.inst.readsPort = none)
        (h1 : c.targetFault (arr.routeOf a).2 c.k c.inst.readsPort = none) : c.routeFault (arr.routeOf a) = none := by
      simp [Ctx.routeFault, h0, h1]
    refine ⟨fun code hbad => hfault code ?_, fun h0 h1 hrows => ?_, fun h0 h1 ⟨x, hx, htile⟩ hroom => ?_⟩
    · obtain h0 | ⟨h0, h1⟩ := hbad
      · exact congrArg (Option.orElse · _) h0
      · exact (congrArg (Option.orElse · _) h0).trans h1
    · exact (hdrain (hclear h0 h1)).trans (if_neg (by simpa using hrows))
    · obtain ⟨id, hfree, hnew⟩ := (c.drainedRow arr acc (f.row0.toNat - arr.row0)).newTile_eq c.core c.slot c.age f.fmt
        ((List.range 16).flatMap fun n => (List.range 16).map fun j =>
          arr.drainElem acc f.fmt (f.row0.toNat - arr.row0) j n) none []
      rw [Ctx.drainedRow, State.tiles_modArray] at hfree
      refine ⟨id, hfree, (hdrain (hclear h0 h1)).trans ?_⟩
      rw [if_pos (List.any_eq_true.mpr ⟨x, hx, htile⟩), need_of hroom, hnew]
      rfl

end Sys2Proof.Machine

/-! PROOFS. Chain accesses at their Dresser (O50). -/

namespace Sys2Proof.Machine
open Sys2Proof

/-! ### Arrival (R201) -/

/-- A core's message port without message `n`. -/
def State.dropMsg (s : State) (core n : Nat) : State := s.modCore core fun k => { k with chainOut := k.chainOut.eraseIdx n }

/-- The address that a refusal names: the store's, else that of the load's first range. -/
def refusedAt (store : Option PStore) (load : Option PLoad) : Nat :=
  match store, load with | some p, _ => p.va | none, some l => ((l.parts.head?).map (·.va)).getD 0 | _, _ => 0

/-- What a refusal leaves: the message gone, and the fault with the load that it drops, or at the message's LSID. -/
def State.refuseMsg (s : State) (core n : Nat) (m : ChainMsg) (code : Nat) : Out :=
  match m.load, (s.core core).loadAt m.slot m.age m.k with
  | true, some l => .next ((s.dropMsg core n).loadFault core l code
      (refusedAt m.store ((s.core core).loadAt m.slot m.age m.k)))
  | _, _ => .next ((s.dropMsg core n).record core m.slot m.age
      (.access code m.lsid (refusedAt m.store ((s.core core).loadAt m.slot m.age m.k))))

section
variable {s : State} {core n : Nat} {m : ChainMsg} {sl : Slot} {i : Inst}

/-- An arrival is refused, applied, refused for want of room, or given an entry, in that order (R201). -/
theorem execChainArrival_eq (hm : (s.core core).chainOut[n]? = some m) (hs : s.slot? core m.slot = some sl)
    (hi : sl.inst? m.age = some i) : execChainArrival core n s =
      let chain := sl.chain.toNat % 2 ^ 16
      let f := s.frontier sl.chair chain
      let mine := s.dressers.filter fun d => d.chair = sl.chair && d.chain = chain
      let slice := s.dressers.filter fun d => dresserSlice d.chair d.chain = dresserSlice sl.chair chain
      if m.triple.own = noOwn ∨ m.triple.own = f.lastOwn ∨ mine.any (fun d => decide (d.triple.own = m.triple.own)) then
        s.refuseMsg core n m FC.chainDuplicate
      else if m.load ∧ f.applicable m.triple then
        s.applyChainLoad core m.slot m.age m.k f m.triple fun s => s.dropMsg core n
      else if 64 ≤ mine.length ∨ 256 ≤ slice.length then s.refuseMsg core n m FC.chainOverflow
      else .next { s.dropMsg core n with dressers := s.dressers ++ [⟨sl.chair, chain, m.triple, core, m.slot, m.age, i.uid, m.k,
        m.lsid, m.load, m.store, false⟩] } := by
  simp only [execChainArrival, hm, hs, hi, needSome_some]
  rfl

/-- A fault recorded once a message is taken leaves the Dressers, and stands against its block. -/
theorem State.record_of_taken {r : State} (hs : s.slot? core m.slot = some sl) (hi : sl.inst? m.age = some i)
    (hslot : r.slot? core m.slot = s.slot? core m.slot) (hd : r.dressers = s.dressers)
    (hout : (r.core core).chainOut = (s.core core).chainOut.eraseIdx n) (f : FaultRec) :
    (r.record core m.slot m.age f).dressers = s.dressers ∧
      ((r.record core m.slot m.age f).core core).chainOut = (s.core core).chainOut.eraseIdx n ∧
      (r.record core m.slot m.age f).block? core m.slot m.age = some { i with faults := i.faults ++ [f] } := by
  refine ⟨hd, ?_, State.block_modInst ?_ fun _ => rfl⟩
  · rw [State.record, State.core_modInst _ _ _ _ _ (State.core_lt_of_slot (hslot.trans hs)), ← hout]
  · rw [State.block?, hslot, hs]
    exact hi

theorem State.slot?_dropMsg (s : State) (core n j : Nat) : (s.dropMsg core n).slot? core j = s.slot? core j :=
  s.slot?_modCore _ _ _ _ rfl

/-- A port that a message has left. -/
theorem State.chainOut_dropMsg (hc : core < s.cores.length) (n : Nat) :
    ((s.dropMsg core n).core core).chainOut = (s.core core).chainOut.eraseIdx n := by
  rw [State.dropMsg, State.core_modCore _ _ _ hc]

/-- A load is found at a port under its own slot, block and window slot. -/
theorem Core.loadAt_key {c : Core} {slot age k : Nat} {l : PLoad} (h : c.loadAt slot age k = some l) :
    l.slot = slot ∧ l.age = age ∧ l.k = k := by
  have := List.find?_some h
  simpa [and_assoc] using this

/-- A store, a CHNOP or a load whose access is refused has the fault at its LSID, and its message is gone (R201). -/
theorem State.refuseMsg_answers (hs : s.slot? core m.slot = some sl) (hi : sl.inst? m.age = some i) (n code : Nat) :
    let load := (s.core core).loadAt m.slot m.age m.k
    let answers (va lsid : Nat) : Prop := ∃ u, s.refuseMsg core n m code = .next u ∧ u.dressers = s.dressers ∧
      (u.core core).chainOut = (s.core core).chainOut.eraseIdx n ∧
      u.block? core m.slot m.age = some { i with faults := i.faults ++ [.access code lsid va] }
    (∀ p, m.load = false → m.store = some p → answers p.va m.lsid) ∧
    (m.load = false → m.store = none → load = none → answers 0 m.lsid) ∧
    (∀ l p, m.load = true → m.store = none → load = some l → l.loc = false → l.parts = [p] → answers p.va l.lsid) := by
  intro load answers
  have hout := State.chainOut_dropMsg (State.core_lt_of_slot hs) n
  have recorded := State.record_of_taken (r := s.dropMsg core n) hs hi (s.slot?_dropMsg _ _ _) rfl hout
  refine ⟨fun p hld hst => ⟨_, ?_, recorded _⟩, fun hld hst hl => ⟨_, ?_, recorded _⟩, fun l p hld hst hl hloc hp => ?_⟩
  · simp only [State.refuseMsg, hld, hst, refusedAt]
  · simp only [load] at hl
    simp only [State.refuseMsg, hld, hst, hl, refusedAt]
  · obtain ⟨hslot, hage, -⟩ := Core.loadAt_key hl
    simp only [load] at hl
    have e : s.refuseMsg core n m code = .next (((s.dropMsg core n).dropLoad core l).record core m.slot m.age
        (.access code l.lsid p.va)) := by
      simp only [State.refuseMsg, hld, hst, hl, refusedAt, hp, State.loadFault, hslot, hage, hloc]
      rfl
    refine ⟨_, e, State.record_of_taken (r := (s.dropMsg core n).dropLoad core l) hs hi ?_ rfl ?_ _⟩
    · rw [State.dropLoad, State.slot?_modCore _ _ _ _ _ rfl, State.slot?_dropMsg]
    · rw [State.dropLoad, State.core_modCore _ _ _ (by simpa [State.dropMsg] using State.core_lt_of_slot hs)]
      exact hout

end

/-! ### Application (R199, R200) -/

/-- The Dressers without an entry. -/
def State.dropEntry (s : State) (d : DEntry) : State := { s with dressers := s.dressers.erase d }

/-- An access taken from its Dresser: its entry is free, and its chain's frontier takes its OWN and SUCC. -/
def State.SteppedBy (u s : State) (d : DEntry) : Prop :=
  u.dressers = s.dressers.erase d ∧ u.frontier d.chair d.chain = ⟨d.chair, d.chain, d.triple.own, d.triple.succ⟩

/-- A state whose first frontier is the chain's own has that one. -/
theorem State.steppedBy_of {u s : State} {d : DEntry} {r : List Frontier} (hd : u.dressers = s.dressers.erase d)
    (hf : u.frontiers = (s.frontier d.chair d.chain).step d.triple :: r) : u.SteppedBy s d := by
  rw [State.step_eq] at hf
  exact ⟨hd, frontier_of hf⟩

section Store
variable {s : State} {n : Nat} {d : DEntry}

/-- The state in which a waiting store has been applied. -/
def State.chainStored (s : State) (d : DEntry) : State :=
  (((s.dropEntry d).setFrontier ((s.frontier d.chair d.chain).step d.triple)).applyChainStore d).dropPre d.core

theorem execDresserApplication_store (hd : s.dressers[n]? = some d)
    (ha : (s.frontier d.chair d.chain).applicable d.triple = true) (hc : d.committed = true) (hb : s.chainHeldBack d = false)
    (hl : d.load = false) : execDresserApplication n s = .next (s.chainStored d) := by
  simp only [execDresserApplication, hd, needSome_some, ha, hc, hb, hl, Bool.or_true, Bool.not_false, Bool.and_true]
  exact need_of rfl _

theorem State.chainStored_steppedBy (s : State) (d : DEntry) : (s.chainStored d).SteppedBy s d := by
  obtain ⟨hd, hf⟩ := State.applyChainStore_same
    ((s.dropEntry d).setFrontier ((s.frontier d.chair d.chain).step d.triple)) d
  exact State.steppedBy_of hd hf

/-- A chain store applied to memory that can be reached writes its bytes, HOLD of a sequence record kept, and no other
(R4, R70, R199). -/
theorem State.chainStored_mem {p : PStore} {gpa key : Nat} (hp : d.store = some p) (hphys : p.phys = some (gpa, key))
    (hlost : s.lost key = false) (hw : s.MemWf) :
    (∀ j < p.bytes, (s.chainStored d).hbm.get (key + j) = (s.chair d.chair).keepHold (gpa + j) (s.hbm.get (key + j))
      (BitVec.ofNat 8 (p.data.toNat / 256 ^ j))) ∧
    (∀ a, a < key ∨ key + p.bytes ≤ a → (s.chainStored d).hbm.get a = s.hbm.get a) ∧
    ∀ c, ((s.chainStored d).core c).mem = (s.core c).mem := by
  generalize hr : (s.dropEntry d).setFrontier ((s.frontier d.chair d.chain).step d.triple) = r
  have happ : r.applyChainStore d = r.storeGlobal d.chair gpa key p.bytes p.data.toNat := by
    have hlost' : r.lost key = false := by rw [← hr]; exact hlost
    simp only [State.applyChainStore, hp, hphys, Option.bind_some, Option.map_some, hlost', Bool.false_eq_true, if_false]
  have hsame := State.sameMem_dropPre (r.storeGlobal d.chair gpa key p.bytes p.data.toNat) d.core
  have hu : s.chainStored d = (r.storeGlobal d.chair gpa key p.bytes p.data.toNat).dropPre d.core := by
    rw [← happ, ← hr]
    rfl
  have hhbm : (s.chainStored d).hbm = chairBytes (s.chair d.chair) s.hbm gpa key p.bytes p.data.toNat := by
    rw [hu, hsame.hbm, ← hr]
    rfl
  refine ⟨fun j hj => ?_, fun a ha => ?_, fun c => ?_⟩
  · rw [hhbm, get_chairBytes_in _ hw.1 _ _ _ _ _ hj]
  · rw [hhbm, get_chairBytes_other _ hw.1 _ ha]
  · rw [hu, hsame.mem, ← hr]
    rfl

end Store

section Load
variable {s : State} {core slot age k : Nat} {f : Frontier} {t : Triple} {drop : State → State} {sl : Slot} {i : Inst}
  {st : Strand} {l : PLoad}

/-- The slot as a chain load sees it: with what is pending of its strand's plain stores, or without (R203). -/
def State.chainView (s : State) (sl : Slot) : Slot := if (s.draw 2).1 = 0 then sl else { sl with post := [], insts := [] }

/-- Its block may not be discarded any more. -/
def State.pinBlock (s : State) (core slot age : Nat) : State := s.modInst core slot age fun i => { i with pinned := true }

/-- The state in which a chain load has been applied and is about to return. -/
def State.chainMarked (s : State) (core slot age : Nat) (f : Frontier) (lsid : Nat) : State :=
  ((s.setFrontier f).pinBlock core slot age).modInst core slot age fun i => { i with sat := lsid :: i.sat }

/-- A chain load that nothing holds at its port performs its ranges: what it reads returns, and poison is a fault of an access
that has been applied (R200, R202). -/
theorem State.applyChainLoad_of (hs : s.slot? core slot = some sl) (hi : sl.inst? age = some i) (ht : sl.strand? i.uid = some st)
    (hl : (s.core core).loadAt slot age k = some l)
    (hheld : ∀ h ∈ (s.core core).held, ¬(h.slot = slot ∧ h.age = age ∧ h.k = k))
    (hback : s.loadHeldBack core slot sl i l.lsid false = false) :
    (∀ parts, performParts (s.draw 2).2 core (s.chainView sl) i (!st.priv) l l.parts = .ok parts →
      s.applyChainLoad core slot age k f t drop =
        .next (((drop (s.draw 2).2).chainMarked core slot age (f.step t) l.lsid).loadReturn core sl.chair { l with parts := parts })) ∧
    (∀ p, performParts (s.draw 2).2 core (s.chainView sl) i (!st.priv) l l.parts = .error (p, .fault FC.uncorrectable) →
      s.applyChainLoad core slot age k f t drop =
        .next ((drop (State.pinBlock (((s.draw 2).2.countConsumed core sl l p (.fault FC.uncorrectable)).setFrontier (f.step t))
          core slot age)).loadFault core l FC.uncorrectable p.va)) := by
  constructor
  · intro parts hp
    rw [State.chainView] at hp
    simp only [State.applyChainLoad, hs, hi, ht, hl, needSome_some, State.dresserIsHeld hheld, hback]
    refine (need_of rfl _).trans ?_
    rw [hp]
    rfl
  · intro p hp
    rw [State.chainView] at hp
    simp only [State.applyChainLoad, hs, hi, ht, hl, needSome_some, State.dresserIsHeld hheld, hback]
    refine (need_of rfl _).trans ?_
    rw [hp]
    rfl

theorem State.block_pinBlock (h : s.block? core slot age = some i) (f : Frontier) :
    ((s.setFrontier f).pinBlock core slot age).block? core slot age = some { i with pinned := true } :=
  State.block_modInst (s := s.setFrontier f) h fun _ => rfl

/-- A chain load of one range that returns: its token is sent, and its LSID is satisfied (R189, R200). -/
theorem State.chainMarked_loadReturn {x : Instr} {p : LoadPart} {v : Nat} (hb : s.block? core slot age = some i)
    (hkey : l.slot = slot ∧ l.age = age ∧ l.k = k) (hx : i.instr k = some x)
    (hf : l.form = .zext ∨ l.form = .sext ∨ l.form = .vector) (f : Frontier) (chair : Nat) :
    let u := (s.chainMarked core slot age f l.lsid).loadReturn core chair { l with parts := [{ p with got := some v }] }
    u.dressers = s.dressers ∧ (∃ r, u.frontiers = f :: r) ∧
      u.SentTo core slot age (instrTargets x) (l.form.token p.bytes v) ∧
      ∃ j, u.block? core slot age = some j ∧ l.lsid ∈ j.sat := by
  obtain ⟨rfl, rfl, rfl⟩ := hkey
  have hmarked : (s.chainMarked core l.slot l.age f l.lsid).block? core l.slot l.age =
      some { i with pinned := true, sat := l.lsid :: i.sat } :=
    State.block_modInst (State.block_pinBlock hb f) fun _ => rfl
  have hdr : (s.chainMarked core l.slot l.age f l.lsid).dressers = s.dressers := rfl
  have hfr : (s.chainMarked core l.slot l.age f l.lsid).frontiers =
      f :: s.frontiers.filter fun x => !(x.chair = f.chair && x.chain = f.chain) := rfl
  generalize s.chainMarked core l.slot l.age f l.lsid = r at hmarked hdr hfr ⊢
  intro u
  obtain ⟨sl', hs', hi'⟩ := Option.bind_eq_some_iff.mp hmarked
  have hu : u = (r.dropLoad core l).emit core l.slot l.age (instrTargets x) (l.form.token p.bytes v) :=
    State.loadReturn_one hs' hi' hx hf
  have hlen : core < (r.dropLoad core l).cores.length := by
    simpa [State.dropLoad] using State.core_lt_of_slot hs'
  have hlast : (r.dropLoad core l).block? core l.slot l.age = some { i with pinned := true, sat := l.lsid :: i.sat } := by
    rw [State.block?, State.dropLoad, State.slot?_modCore _ _ _ _ _ rfl]
    exact hmarked
  obtain ⟨hd, hfs⟩ := (r.dropLoad core l).emit_dressers core l.slot l.age (instrTargets x) (l.form.token p.bytes v)
  obtain ⟨j, hj, hsat, -⟩ := State.emit_block hlast (instrTargets x) (l.form.token p.bytes v)
  rw [hu]
  refine ⟨hd.trans hdr, ⟨_, hfs.trans hfr⟩, State.emit_sent hlen _ _ _ _, j, hj, ?_⟩
  rw [hsat]
  exact List.mem_cons_self

/-- A chain load of one range that met poison has been applied, its fault at its LSID (R202, R316). -/
theorem State.chainPoisoned_leaves (hb : s.block? core slot age = some i) (hkey : l.slot = slot ∧ l.age = age ∧ l.k = k)
    (hloc : l.loc = false) (d : DEntry) (sl : Slot) (p : LoadPart) :
    let u := ((State.pinBlock (((s.draw 2).2.countConsumed core sl l p (.fault FC.uncorrectable)).setFrontier f)
      core slot age).dropEntry d).loadFault core l FC.uncorrectable p.va
    u.frontiers = f :: s.frontiers.filter (fun x => !(x.chair = f.chair && x.chain = f.chain)) ∧
      u.dressers = s.dressers.erase d ∧
      u.block? core slot age = some { i with
        pinned := true, faults := i.faults ++ [.access FC.uncorrectable l.lsid p.va] } := by
  obtain ⟨rfl, rfl, rfl⟩ := hkey
  have hkeeps := (State.keeps_countConsumed (s.draw 2).2 core sl l p (.fault FC.uncorrectable)).settled
  have hslot := State.slot?_countConsumed (s.draw 2).2 core sl l p FC.uncorrectable core l.slot
  generalize (s.draw 2).2.countConsumed core sl l p (.fault FC.uncorrectable) = r at hkeeps hslot ⊢
  have hd : r.dressers = s.dressers := (congrArg State.dressers hkeeps :)
  have hf : r.frontiers = s.frontiers := (congrArg State.frontiers hkeeps :)
  have hr : r.block? core l.slot l.age = some i := by rw [State.block?, hslot]; exact hb
  intro u
  rw [← hf, ← hd]
  refine ⟨rfl, rfl, ?_⟩
  simp only [u, State.loadFault, State.record, hloc, Bool.false_eq_true, if_false]
  refine State.block_modInst (j := { i with pinned := true }) ?_ fun _ => rfl
  rw [State.block?, State.dropLoad, State.slot?_modCore _ _ _ _ _ rfl]
  exact State.block_pinBlock hr f

/-- What a chain load reads where its range is sound, whichever way it sees the pending stores (R191, R203). -/
theorem State.bytes_chainView {p : LoadPart} {gpa key : Nat} (hphys : p.phys = some (gpa, key))
    (hsound : s.poisoned key p.bytes = false) (sl : Slot) (i : Inst) (lsid : Nat) :
    ∃ v, (s.draw 2).2.Bytes core (s.chainView sl) i lsid false p v ∧
      (s.Bytes core sl i lsid false p v ∨ s.Bytes core { sl with post := [], insts := [] } i lsid false p v) := by
  have reads (view : Slot) : ∃ v, s.Bytes core view i lsid false p v := ⟨_, .inr ⟨rfl, gpa, key, hphys, hsound, rfl⟩⟩
  rw [State.chainView]
  split
  · obtain ⟨v, hv⟩ := reads sl
    exact ⟨v, hv, .inl hv⟩
  · obtain ⟨v, hv⟩ := reads { sl with post := [], insts := [] }
    exact ⟨v, hv, .inr hv⟩

end Load

section
variable {s : State} {n : Nat} {d : DEntry}

theorem execDresserApplication_load (hd : s.dressers[n]? = some d)
    (ha : (s.frontier d.chair d.chain).applicable d.triple = true) (hb : s.chainHeldBack d = false) (hl : d.load = true) :
    execDresserApplication n s = s.applyChainLoad d.core d.slot d.age d.k (s.frontier d.chair d.chain) d.triple
      (·.dropEntry d) := by
  simp only [execDresserApplication, hd, needSome_some, ha, hb, hl, Bool.true_or, Bool.not_false, Bool.and_true, if_true]
  exact need_of rfl _

end

/-- Settles O50: an arrival is refused or enters by the order of its tests, and an applied access is a store of its bytes, a
load that returns, or a load that met poison, each with its frontier stepped. -/
theorem chainsApplyInOrder : Obligations.ChainsApplyInOrder := by
  intro s n
  refine ⟨fun core m sl i hm hs hi => ?arrival, fun d hd ha hready hb => ⟨fun hl => ?store, ?load⟩⟩
  case arrival =>
    have e : exec (.chainArrival core n) s = _ := execChainArrival_eq hm hs hi
    intro chain f mine slice again full load refused
    have hdup : (m.triple.own = noOwn ∨ m.triple.own = f.lastOwn ∨ (mine.any fun d => decide (d.triple.own = m.triple.own)) = true)
        ↔ again := by simp only [again, List.any_eq_true, decide_eq_true_eq]
    have hturn (h : m.load = false ∨ f.applicable m.triple = false) : ¬(m.load = true ∧ f.applicable m.triple = true) := by
      rintro ⟨h1, h2⟩
      obtain h | h := h
      · exact Bool.false_ne_true (h.symm.trans h1)
      · exact Bool.false_ne_true (h.symm.trans h2)
    have refuses (code : Nat) (h : exec (.chainArrival core n) s = s.refuseMsg core n m code) : refused code := by
      simp only [refused, h]
      exact State.refuseMsg_answers hs hi n code
    refine ⟨fun hag => refuses _ (e.trans (if_pos (hdup.mpr hag))), fun hag hnot hfull => refuses _ (e.trans ?_),
      fun hag hnot hfull => ?_⟩
    · exact (if_neg (hdup.not.mpr hag)).trans ((if_neg (hturn hnot)).trans (if_pos hfull))
    · have henter := e.trans ((if_neg (hdup.not.mpr hag)).trans ((if_neg (hturn hnot)).trans (if_neg hfull)))
      exact ⟨_, henter, State.chainOut_dropMsg (State.core_lt_of_slot hs) n, rfl⟩
  case store =>
    have hc : d.committed = true := hready.resolve_left (by simp [hl])
    exact ⟨_, execDresserApplication_store hd ha hc hb hl, s.chainStored_steppedBy d,
      fun p gpa key hp hphys hlost hw => State.chainStored_mem hp hphys hlost hw⟩
  case load =>
    intro sl i st l p x gpa key hl hs hi ht hat hheld hback hform hloc hparts hphys hx
    have hblock : s.block? d.core d.slot d.age = some i := by rw [State.block?, hs]; exact hi
    obtain ⟨hok, hbad⟩ := State.applyChainLoad_of (f := s.frontier d.chair d.chain) (t := d.triple)
      (drop := (·.dropEntry d)) hs hi ht hat hheld hback
    have e : exec (.dresserApplication n) s = _ := execDresserApplication_load hd ha hb hl
    refine ⟨fun hsound => ?_, fun hpois => ?_⟩
    · obtain ⟨v, hv, hbytes⟩ := State.bytes_chainView (core := d.core) hphys hsound sl i l.lsid
      rw [← hloc] at hv
      have hperf := hok [{ p with got := some v }] (by simp only [hparts, performParts, performPart_of hv])
      obtain ⟨hdr, ⟨r, hfr⟩, hsent, j, hj, hsat⟩ := State.chainMarked_loadReturn (p := p) (v := v)
        (s := (s.draw 2).2.dropEntry d) hblock (Core.loadAt_key hat) hx hform ((s.frontier d.chair d.chain).step d.triple)
        sl.chair
      exact ⟨_, j, v, e.trans hperf, State.steppedBy_of hdr hfr, hbytes, hsent, hj, hsat⟩
    · have hfail : performPart (s.draw 2).2 d.core (s.chainView sl) i (!st.priv) l p = _ :=
        performPart_of_poisoned i _ (.inr ⟨hloc, gpa, key, hphys, hpois⟩)
      have hperf := hbad p (by simp only [hparts, performParts, hfail])
      obtain ⟨hfr, hdr, hb⟩ := State.chainPoisoned_leaves (f := (s.frontier d.chair d.chain).step d.triple) hblock
        (Core.loadAt_key hat) hloc d sl p
      exact ⟨_, e.trans hperf, State.steppedBy_of hdr hfr, hb⟩

end Sys2Proof.Machine

/-! PROOFS. Requests are answered, and notices sent in order (O59). -/

namespace Sys2Proof.Machine
open Sys2Proof

/-! ### Bytes of a value (R4) -/

/-- The first byte of a little-endian value. -/
theorem byte_cons_zero (b : Byte) (v : Nat) : BitVec.ofNat 8 (b.toNat + 256 * v) = b :=
  BitVec.eq_of_toNat_eq (by rw [BitVec.toNat_ofNat]; omega)

/-- What a little-endian value is without its first byte. -/
theorem div_byte_cons (b : Byte) (v : Nat) : (b.toNat + 256 * v) / 256 = v := by omega

/-- The bytes of a payload's value are the payload's. -/
theorem byte_bytesVal (l : List Byte) (j : Nat) : BitVec.ofNat 8 (bytesVal l / 256 ^ j) = l.getD j 0 := by
  induction l generalizing j with
  | nil => simp [bytesVal]
  | cons b r ih =>
    cases j with
    | zero => simp [bytesVal, byte_cons_zero]
    | succ j => rw [bytesVal, Nat.pow_succ', ← Nat.div_div_eq_div_mul, div_byte_cons, ih, List.getD_cons_succ]

/-- Cutting a value to `n` bytes leaves each of them. -/
theorem byte_mod_bytes {v n j : Nat} (hj : j < n) : BitVec.ofNat 8 (v % 2 ^ (8 * n) / 256 ^ j) = BitVec.ofNat 8 (v / 256 ^ j) := by
  have hn : 2 ^ (8 * n) = 256 ^ j * 256 ^ (n - j) := by rw [← Nat.pow_add, Nat.add_sub_cancel' hj.le, Nat.pow_mul]
  have hdvd : 256 ∣ 256 ^ (n - j) := dvd_pow_self 256 (by omega)
  refine BitVec.eq_of_toNat_eq ?_
  rw [BitVec.toNat_ofNat, BitVec.toNat_ofNat, hn, Nat.mod_mul_right_div_self]
  exact Nat.mod_mod_of_dvd _ hdvd

/-- The bytes of a value read from memory are memory's. -/
theorem bytesOf_read (m : Memory) (a n : Nat) : bytesOf (m.read a n) n = (List.range n).map fun i => m.get (a + i) := by
  induction n generalizing a with
  | zero => rfl
  | succ n ih =>
    rw [bytesOf_succ, Memory.read, byte_cons_zero, div_byte_cons, ih, List.range_succ_eq_map, List.map_cons, List.map_map]
    simp [Function.comp_def, Nat.add_assoc, Nat.add_comm 1]

/-! ### States that differ in memory alone, or in error records alone -/

/-- Nothing but memory and its poison differs. -/
def State.MemOnly (s t : State) : Prop := t = { s with hbm := t.hbm, poison := t.poison }

theorem State.MemOnly.trans {a b c : State} (h : a.MemOnly b) (g : b.MemOnly c) : a.MemOnly c :=
  Eq.trans g (congrArg (fun x : State => { x with hbm := c.hbm, poison := c.poison }) h)

theorem State.MemOnly.foldl {α : Type} {f : State → α → State} (hf : ∀ s a, State.MemOnly s (f s a)) (l : List α) (s : State) :
    s.MemOnly (l.foldl f s) :=
  foldl_keeps (P := s.MemOnly) (fun r a hr => hr.trans (hf r a)) l s rfl

theorem State.memOnly_storeGlobal (s : State) (chair gpa key n v : Nat) : s.MemOnly (s.storeGlobal chair gpa key n v) := rfl

theorem State.memOnly_hpaWrite (s : State) (a n v : Nat) : s.MemOnly (s.hpaWrite a n v) := rfl

/-- Translated pieces are stored to memory and nowhere else. -/
theorem State.memOnly_writePieces (s : State) (chair : Nat) (l : List (Nat × Nat × Nat)) (v : Nat) :
    s.MemOnly (s.writePieces chair l v) := by
  induction l generalizing s v with
  | nil => rfl
  | cons p r ih => exact (s.memOnly_storeGlobal _ _ _ _ _).trans (ih _ _)

theorem State.memOnly_loaderPut (s : State) (chair asid : Nat) (nd : Need) (va : Nat) (bs : List Byte) :
    s.MemOnly (s.loaderPut chair asid nd va bs) := by
  unfold State.loaderPut
  split
  · rfl
  · exact s.memOnly_writePieces _ _ _

theorem State.memOnly_loaderPutSome (s : State) (chair asid : Nat) (nd : Need) (mask : Nat) (p : Placed) :
    s.MemOnly (s.loaderPutSome chair asid nd mask p) := by
  refine State.MemOnly.foldl (fun r i => ?_) _ _
  split
  · exact r.memOnly_loaderPut _ _ _ _ _
  · rfl

/-- Nothing but the counts of errors differs (R349, R350). -/
def State.ErrorsOnly (s t : State) : Prop :=
  t = { s with cores := t.cores, sliceErrs := t.sliceErrs, stackErrs := t.stackErrs }

theorem State.ErrorsOnly.trans {a b c : State} (h : a.ErrorsOnly b) (g : b.ErrorsOnly c) : a.ErrorsOnly c :=
  Eq.trans g (congrArg (fun x : State => { x with cores := c.cores, sliceErrs := c.sliceErrs, stackErrs := c.stackErrs }) h)

theorem State.errorsOnly_noteUe (s : State) (x : Fail) : s.ErrorsOnly (s.noteUe x) :=
  foldl_keeps (P := s.ErrorsOnly) (fun r c hr => State.ErrorsOnly.trans (c := r.modErr c.1 0 _) hr rfl) _ _ rfl

/-! ### Translated pieces of a range (R212) -/

section
variable {s : State} {chair asid va n v : Nat} {user : Bool} {x : Fail} {l : List (Nat × Nat × Nat)}

theorem writeVa_of_error (h : walkPieces s chair asid user .store (pagePieces va n) = .error x) :
    writeVa s chair asid user va n v = .error x := by simp only [writeVa, h]

theorem writeVa_of_lost (h : walkPieces s chair asid user .store (pagePieces va n) = .ok l) (hl : ∃ y ∈ l, s.lost y.2.1 = true) :
    writeVa s chair asid user va n v = .error (.of FC.uncorrectable) := by
  simp only [writeVa, h, List.any_eq_true.mpr hl, if_true]

theorem writeVa_of_reached (h : walkPieces s chair asid user .store (pagePieces va n) = .ok l)
    (hl : ∀ y ∈ l, s.lost y.2.1 = false) : writeVa s chair asid user va n v = .ok (s.writePieces chair l v) := by
  have hany : l.any (fun p => s.lost p.2.1) = false := List.any_eq_false.mpr fun y hy => by simp [hl y hy]
  simp only [writeVa, h, hany, Bool.false_eq_true, if_false]

theorem readVa_of_error (h : walkPieces s chair asid user .load (pagePieces va n) = .error x) :
    readVa s chair asid user va n = .error x := by simp only [readVa, h]

/-- Poison in any piece of a range makes its read UNCORRECTABLE (R316). -/
theorem readPieces_of_poisoned (h : ∃ y ∈ l, s.poisoned y.2.1 y.2.2 = true) :
    ∃ x, readPieces s l = .error x ∧ x.code = FC.uncorrectable := by
  induction l with
  | nil => obtain ⟨y, hy, -⟩ := h; exact absurd hy (by simp)
  | cons p r ih =>
    obtain ⟨gpa, key, k⟩ := p
    cases hp : s.poisoned key k with
    | true => exact ⟨⟨FC.uncorrectable, s.poisonWords key k, [], []⟩, by simp only [readPieces, hp, if_true], rfl⟩
    | false =>
      obtain ⟨y, hy, hbad⟩ := h
      have hr : y ∈ r := by
        refine (List.mem_cons.mp hy).resolve_left fun e => ?_
        rw [e, hp] at hbad
        exact Bool.false_ne_true hbad
      obtain ⟨x, hx, hcode⟩ := ih ⟨y, hr, hbad⟩
      exact ⟨x, by simp only [readPieces, hp, hx, Bool.false_eq_true, if_false], hcode⟩

theorem readVa_of_poisoned (h : walkPieces s chair asid user .load (pagePieces va n) = .ok l)
    (hl : ∃ y ∈ l, s.poisoned y.2.1 y.2.2 = true) : ∃ x, readVa s chair asid user va n = .error x ∧ x.code = FC.uncorrectable := by
  simp only [readVa, h]
  exact readPieces_of_poisoned hl

theorem readVa_of_sound {gpa key : Nat} (h : walkPieces s chair asid user .load (pagePieces va n) = .ok [(gpa, key, n)])
    (hp : s.poisoned key n = false) : readVa s chair asid user va n = .ok (s.hbm.read key n) := by
  simp [readVa, h, readPieces, hp]

end

/-! ### A response given, and a chair changed -/

section
variable (s : State) (chair : Nat) (m : ReqMsg) (status : Nat) (d : List Byte)

@[simp] theorem State.chairs_respond : (s.respond chair m status d).chairs = s.chairs := rfl
@[simp] theorem State.hbm_respond : (s.respond chair m status d).hbm = s.hbm := rfl
@[simp] theorem State.launches_respond : (s.respond chair m status d).launches = s.launches := rfl
@[simp] theorem State.responses_respond :
    (s.respond chair m status d).responses = s.responses ++ [⟨chair, bits (m.dw 0) 32 32, status, d⟩] := rfl

end

/-- A chair changed, in a state whose chairs are those of another. -/
theorem State.chair_modChair_of_chairs {s r : State} {chair : Nat} (hc : chair < s.chairs.length) (h : r.chairs = s.chairs)
    (f : Chair → Chair) : (r.modChair chair f).chair chair = f (s.chair chair) := by
  rw [State.chair_modChair_same f (h ▸ hc), State.chair, h, State.chair]

/-! ### A request that arrives (R374, R380, R382) -/

section
variable {s : State} {chair : Nat} {m : ReqMsg}

theorem runAct_request (hb : s.boot = .running) : runAct (.request chair m) s = arriveRequest chair m s :=
  need_of (decide_eq_true hb) _

theorem arriveRequest_turnedAway (h : (s.chair chair).rst = true ∨ (s.chair chair).en = false) :
    arriveRequest chair m s = .next (s.respond chair m (if (s.chair chair).rst then 1 else 2) []) := by
  cases hr : (s.chair chair).rst with
  | true => simp [arriveRequest, hr]
  | false =>
    have hen : (s.chair chair).en = false := h.resolve_left (by simp [hr])
    simp [arriveRequest, hr, hen]

theorem arriveRequest_queued (hrst : (s.chair chair).rst = false) (hen : (s.chair chair).en = true)
    (hroom : (s.chair chair).reqs.length < 256) :
    arriveRequest chair m s = .next (s.modChair chair fun c => { c with reqs := c.reqs ++ [m] }) := by
  simp [arriveRequest, hrst, hen, hroom]

end

/-! ### A request that is taken up (R380 to R382) -/

/-- Request `n` of a chair has left the chair's request queue. -/
def State.dequeue (s : State) (chair n : Nat) : State := s.modChair chair fun c => { c with reqs := c.reqs.eraseIdx n }

@[simp] theorem State.hbm_dequeue (s : State) (chair n : Nat) : (s.dequeue chair n).hbm = s.hbm := rfl
@[simp] theorem State.launches_dequeue (s : State) (chair n : Nat) : (s.dequeue chair n).launches = s.launches := rfl
@[simp] theorem State.responses_dequeue (s : State) (chair n : Nat) : (s.dequeue chair n).responses = s.responses := rfl

/-- Request `n` of a chair may be taken up: it is in its turn, not refused, and its chair takes requests (R381, R382). -/
def ReqMsg.TakenUp (m : ReqMsg) (s : State) (chair n : Nat) : Prop :=
  (s.chair chair).reqs[n]? = some m ∧ (s.chair chair).reqTurn n m = true ∧ m.refused (s.chair chair) = false ∧
    (s.chair chair).en = true ∧ (s.chair chair).rst = false

/-- An act gives one response, of the request's chair and REQID (R381), and leaves a state with a property. -/
def State.Answers (s : State) (chair : Nat) (m : ReqMsg) (o : Out) (status : Nat) (data : List Byte → Prop) (now : State → Prop) :
    Prop :=
  ∃ u d, o = .next u ∧ data d ∧ u.responses = s.responses ++ [⟨chair, bits (m.dw 0) 32 32, status, d⟩] ∧ now u

/-- But for request `n`, which has left the queue, the chairs, memory and launches are as they were. -/
def State.Quiet (s : State) (chair n : Nat) (u : State) : Prop :=
  u.chairs = (s.dequeue chair n).chairs ∧ u.hbm = s.hbm ∧ u.launches = s.launches

section
variable {s r : State} {chair n : Nat} {m : ReqMsg}

theorem State.answers_respond {o : Out} {status : Nat} {d : List Byte} {data : List Byte → Prop} {now : State → Prop}
    (ho : o = .next (r.respond chair m status d)) (hr : r.responses = s.responses) (hd : data d)
    (hnow : now (r.respond chair m status d)) : s.Answers chair m o status data now :=
  ⟨_, d, ho, hd, by rw [State.responses_respond, hr], hnow⟩

/-- A request that has no effect but its response. -/
theorem State.answers_quiet {o : Out} {status : Nat} {d : List Byte} {data : List Byte → Prop}
    (ho : o = .next ((s.dequeue chair n).respond chair m status d)) (hd : data d) :
    s.Answers chair m o status data (s.Quiet chair n) :=
  State.answers_respond ho rfl hd ⟨rfl, rfl, rfl⟩

/-- A request that meets a fault is answered with its code, and has no effect but the errors counted (R316, R381). -/
theorem State.answers_fault {o : Out} {x : Fail} (ho : o = .next (((s.dequeue chair n).noteUe x).respond chair m x.code [])) :
    s.Answers chair m o x.code (· = []) (s.Quiet chair n) := by
  have h := (s.dequeue chair n).errorsOnly_noteUe x
  exact State.answers_respond ho (congrArg State.responses h :) rfl
    ⟨(congrArg State.chairs h :), (congrArg State.hbm h :), (congrArg State.launches h :)⟩

/-- A request that may be taken up is acted on once it has left its queue. -/
theorem reqAct_of_takenUp {k : Nat} (h : m.TakenUp s chair n) (hk : m.kind = k) (body : State → ReqMsg → Out) :
    reqAct s chair n k body = body (s.dequeue chair n) m := by
  obtain ⟨hm, hturn, href, hen, hrst⟩ := h
  simp only [reqAct, hm, needSome_some]
  exact need_of (by simp [hk, hturn, href, hen, hrst]) _

theorem State.chair_dequeue (hc : chair < s.chairs.length) (n : Nat) :
    (s.dequeue chair n).chair chair = { s.chair chair with reqs := (s.chair chair).reqs.eraseIdx n } :=
  State.chair_modChair_same _ hc

theorem State.lt_chairs_dequeue (hc : chair < s.chairs.length) (n : Nat) : chair < (s.dequeue chair n).chairs.length := by
  rw [State.dequeue, State.modChair, List.length_modify]
  exact hc

theorem asid?_dequeue (hc : chair < s.chairs.length) (m : ReqMsg) (n : Nat) :
    m.asid? ((s.dequeue chair n).chair chair) = m.asid? (s.chair chair) := by rw [State.chair_dequeue hc]; rfl

theorem queue?_dequeue (hc : chair < s.chairs.length) (n q : Nat) :
    ((s.dequeue chair n).chair chair).queue? q = (s.chair chair).queue? q := by rw [State.chair_dequeue hc]; rfl

/-- A store of the chair's side once a request has left its queue: the bytes it covers, HOLD kept, and no others (R4, R70). -/
theorem State.get_storeGlobal_dequeue (hc : chair < s.chairs.length) (hw : s.MemWf) (gpa key k v : Nat) :
    (∀ j < k, ((s.dequeue chair n).storeGlobal chair gpa key k v).hbm.get (key + j) =
      (s.chair chair).keepHold (gpa + j) (s.hbm.get (key + j)) (BitVec.ofNat 8 (v / 256 ^ j))) ∧
    ∀ a, a < key ∨ key + k ≤ a → ((s.dequeue chair n).storeGlobal chair gpa key k v).hbm.get a = s.hbm.get a := by
  simp only [State.storeGlobal, State.chair_dequeue hc]
  exact ⟨fun j hj => get_chairBytes_in _ hw.1 _ _ _ _ _ hj, fun a ha => get_chairBytes_other _ hw.1 _ ha⟩

end

/-! ### The Bureau's place in a queue (R379) -/

section
variable {s : State} {chair q : Nat}

theorem State.cmdq_modQ (hc : chair < s.chairs.length) (hq : q < (s.chair chair).qs.length) (f : CmdQ → CmdQ) :
    ((s.modQ chair q f).chair chair).cmdq q = f ((s.chair chair).cmdq q) := by
  rw [State.modQ, State.chair_modChair_same _ hc]
  simp [Chair.cmdq, List.getD_eq_getElem?_getD, List.getElem?_eq_getElem hq]

theorem State.reqs_modQ (hc : chair < s.chairs.length) (f : CmdQ → CmdQ) :
    ((s.modQ chair q f).chair chair).reqs = (s.chair chair).reqs := by
  rw [State.modQ, State.chair_modChair_same _ hc]

end

/-! ### The ranges of a LOAD (R381, log entry 20) -/

/-- The ranges that a LOAD fills, each with what its kinds need. -/
def ReqMsg.ranges (m : ReqMsg) : List (Nat × Nat × Need) :=
  [(m.pdw 1, m.pdw 2, .fetch), (m.pdw 3, m.pdw 4, .store), (m.pdw 5, m.pdw 6, .load)]

/-- A LOAD with its image in place, and the answer that it will give (R150). -/
def ReqMsg.replied (m : ReqMsg) (result : Load) : ReqMsg :=
  { m with reply := some ((result.status :: result.addrs).flatMap fun v => bytesOf v 8) }

/-- The fault of a range that is not mapped. -/
def State.rangeFault (s : State) (chair asid : Nat) (y : Nat × Nat × Need) : Option Fail :=
  match walkPieces s chair asid false y.2.2 (pagePieces y.1 y.2.1) with
  | .error x => some x
  | .ok _ => none

/-- The first act of a LOAD, once it has left its queue. -/
def State.loadOutcome (s : State) (chair asid n : Nat) (m : ReqMsg) (needOf : Placed → Need) : Out :=
  match m.ranges.findSome? (s.rangeFault chair asid), readFiles s chair asid m.files with
  | some x, _ => .next ((s.noteUe x).respond chair m x.code [])
  | none, .error x => .next ((s.noteUe x).respond chair m x.code [])
  | none, .ok files =>
    .next (s.beginLoad chair asid n m (load files (m.pdw 1, m.pdw 2) (m.pdw 3, m.pdw 4) (m.pdw 5, m.pdw 6)) needOf)

section
variable {s : State} {chair asid : Nat} {l : List (Nat × Nat × Need)}

theorem State.firstFault_of_ok (h : ∀ y ∈ l, ∃ k, walkPieces s chair asid false y.2.2 (pagePieces y.1 y.2.1) = .ok k) :
    l.findSome? (s.rangeFault chair asid) = none := by
  refine List.findSome?_eq_none_iff.mpr fun y hy => ?_
  obtain ⟨k, hk⟩ := h y hy
  simp only [State.rangeFault, hk]

theorem State.firstFault_of_error {y : Nat × Nat × Need} {x : Fail} {r a : List (Nat × Nat × Need)} (hsplit : a = l ++ y :: r)
    (hl : ∀ z ∈ l, ∃ k, walkPieces s chair asid false z.2.2 (pagePieces z.1 z.2.1) = .ok k)
    (hx : walkPieces s chair asid false y.2.2 (pagePieces y.1 y.2.1) = .error x) :
    a.findSome? (s.rangeFault chair asid) = some x := by
  have hy : s.rangeFault chair asid y = some x := by simp only [State.rangeFault, hx]
  rw [hsplit, List.findSome?_append, State.firstFault_of_ok hl, List.findSome?_cons, hy]
  rfl

/-- The image of a load written as far as its status has it: whole, or each byte freely old or new (R151). -/
def State.withImage (s : State) (chair asid : Nat) (l : Load) (needOf : Placed → Need) : State :=
  if l.status = 0 then l.image.foldl (fun s p => s.loaderPut chair asid (needOf p) p.addr p.bytes) s
  else
    let mask := Config.freeNat s.freeCtr
    l.image.foldl (fun s p => s.loaderPutSome chair asid (needOf p) mask p) { s with freeCtr := s.freeCtr + 1 }

theorem State.memOnly_withImage (s : State) (chair asid : Nat) (l : Load) (needOf : Placed → Need) :
    ∃ k, State.MemOnly { s with freeCtr := k } (s.withImage chair asid l needOf) := by
  unfold State.withImage
  split
  · exact ⟨s.freeCtr, State.MemOnly.foldl (fun r p => r.memOnly_loaderPut _ _ _ _ _) _ _⟩
  · exact ⟨s.freeCtr + 1, State.MemOnly.foldl (fun r p => r.memOnly_loaderPutSome _ _ _ _ _) _ _⟩

/-- A load begun leaves responses, launches and cores, and its request where it was, with its answer (R150). -/
theorem State.beginLoad_leaves (hc : chair < s.chairs.length) (asid n : Nat) (m : ReqMsg) (result : Load) (needOf : Placed → Need) :
    let u := s.beginLoad chair asid n m result needOf
    u.responses = s.responses ∧ u.launches = s.launches ∧ u.cores = s.cores ∧
      (u.chair chair).reqs = (s.chair chair).reqs.insertIdx n (m.replied result) := by
  obtain ⟨k, hr⟩ := s.memOnly_withImage chair asid result needOf
  have hchairs : (s.withImage chair asid result needOf).chairs = s.chairs := (congrArg State.chairs hr :)
  refine ⟨(congrArg State.responses hr :), (congrArg State.launches hr :), (congrArg State.cores hr :), ?_⟩
  exact (congrArg Chair.reqs (State.chair_modChair_of_chairs hc hchairs _) :)

end

section
variable {s : State} {chair n : Nat} {m : ReqMsg} (hc : chair < s.chairs.length) (ht : m.TakenUp s chair n)
include hc ht

/-! ### WRITE and READ (R381) -/

section
variable {asid : Nat} {x : Fail} {l : List (Nat × Nat × Nat)}

theorem execReqWrite_noAsid (hk : m.kind = 1) (ha : m.asid? (s.chair chair) = none) :
    execReqWrite chair n s = .next ((s.dequeue chair n).respond chair m FC.protection []) := by
  simp only [execReqWrite, reqAct_of_takenUp ht hk, asid?_dequeue hc, ha]

theorem execReqWrite_fault (hk : m.kind = 1) (ha : m.asid? (s.chair chair) = some asid)
    (hx : writeVa (s.dequeue chair n) chair asid false (m.dw 1) m.len (bytesVal m.payload) = .error x) :
    execReqWrite chair n s = .next (((s.dequeue chair n).noteUe x).respond chair m x.code []) := by
  simp only [execReqWrite, reqAct_of_takenUp ht hk, asid?_dequeue hc, ha, hx]

theorem execReqWrite_stored (hk : m.kind = 1) (ha : m.asid? (s.chair chair) = some asid) {r : State}
    (hr : writeVa (s.dequeue chair n) chair asid false (m.dw 1) m.len (bytesVal m.payload) = .ok r) :
    execReqWrite chair n s = .next (r.respond chair m 0 []) := by
  simp only [execReqWrite, reqAct_of_takenUp ht hk, asid?_dequeue hc, ha, hr]

/-- A WRITE that is mapped stores its payload and is answered 0. -/
theorem answers_write (hw : s.MemWf) (hk : m.kind = 1) (ha : m.asid? (s.chair chair) = some asid)
    (hl : walkPieces (s.dequeue chair n) chair asid false .store (pagePieces (m.dw 1) m.len) = .ok l)
    (hreach : ∀ y ∈ l, s.lost y.2.1 = false) :
    s.Answers chair m (execReqWrite chair n s) 0 (· = []) fun u =>
      u.chairs = (s.dequeue chair n).chairs ∧ u.launches = s.launches ∧
        u.hbm = ((s.dequeue chair n).writePieces chair l (bytesVal m.payload)).hbm ∧
        ∀ gpa key, l = [(gpa, key, m.len)] →
          (∀ j < m.len, u.hbm.get (key + j) =
            (s.chair chair).keepHold (gpa + j) (s.hbm.get (key + j)) (m.payload.getD j 0)) ∧
          ∀ a, a < key ∨ key + m.len ≤ a → u.hbm.get a = s.hbm.get a := by
  have h := (s.dequeue chair n).memOnly_writePieces chair l (bytesVal m.payload)
  refine State.answers_respond (execReqWrite_stored hc ht hk ha (writeVa_of_reached hl hreach)) (congrArg State.responses h :)
    rfl ⟨(congrArg State.chairs h :), (congrArg State.launches h :), rfl, ?_⟩
  rintro gpa key rfl
  obtain ⟨hin, hout⟩ := State.get_storeGlobal_dequeue (n := n) hc hw gpa key m.len (bytesVal m.payload % 2 ^ (8 * m.len))
  exact ⟨fun j hj => by rw [← byte_bytesVal, ← byte_mod_bytes hj]; exact hin j hj, hout⟩

theorem execReqRead_noAsid (hk : m.kind = 2) (ha : m.asid? (s.chair chair) = none) :
    execReqRead chair n s = .next ((s.dequeue chair n).respond chair m FC.protection []) := by
  simp only [execReqRead, reqAct_of_takenUp ht hk, asid?_dequeue hc, ha]

theorem execReqRead_fault (hk : m.kind = 2) (ha : m.asid? (s.chair chair) = some asid)
    (hx : readVa (s.dequeue chair n) chair asid false (m.dw 1) m.len = .error x) :
    execReqRead chair n s = .next (((s.dequeue chair n).noteUe x).respond chair m x.code []) := by
  simp only [execReqRead, reqAct_of_takenUp ht hk, asid?_dequeue hc, ha, hx]

theorem execReqRead_value (hk : m.kind = 2) (ha : m.asid? (s.chair chair) = some asid) {v : Nat}
    (hv : readVa (s.dequeue chair n) chair asid false (m.dw 1) m.len = .ok v) :
    execReqRead chair n s = .next ((s.dequeue chair n).respond chair m 0 (bytesOf v m.len)) := by
  simp only [execReqRead, reqAct_of_takenUp ht hk, asid?_dequeue hc, ha, hv]
  rfl

/-- A READ of sound bytes is answered with them. -/
theorem answers_read (hk : m.kind = 2) (ha : m.asid? (s.chair chair) = some asid) {gpa key : Nat}
    (hl : walkPieces (s.dequeue chair n) chair asid false .load (pagePieces (m.dw 1) m.len) = .ok [(gpa, key, m.len)])
    (hp : s.poisoned key m.len = false) :
    s.Answers chair m (execReqRead chair n s) 0 (fun d => d = (List.range m.len).map fun i => s.hbm.get (key + i))
      (s.Quiet chair n) :=
  State.answers_quiet (execReqRead_value hc ht hk ha (readVa_of_sound hl hp)) (bytesOf_read _ _ _)

end

/-! ### DOORBELL and RESUME (R379, R381) -/

section
variable {base lg : Nat} (hq : (s.chair chair).queue? (m.dw 1) = some (base, lg))
include hq

theorem execDoorbell_fault (hk : m.kind = 3) {x : Fail} (hx : gpaPlace (s.dequeue chair n) chair base = .error x) :
    execDoorbell chair n s = .next (((s.dequeue chair n).noteUe x).respond chair m x.code []) := by
  simp only [execDoorbell, reqAct_of_takenUp ht hk, queue?_dequeue hc, hq, needSome_some, gpaStore, hx]

theorem execDoorbell_stored (hk : m.kind = 3) {key : Nat} (hx : gpaPlace (s.dequeue chair n) chair base = .ok key) :
    execDoorbell chair n s =
      .next (((s.dequeue chair n).storeGlobal chair base key 8 (bytesVal (m.payload.take 8))).respond chair m 0 []) := by
  simp only [execDoorbell, reqAct_of_takenUp ht hk, queue?_dequeue hc, hq, needSome_some, gpaStore, hx]

/-- A DOORBELL stores TAIL and is answered 0. -/
theorem answers_doorbell (hw : s.MemWf) (hk : m.kind = 3) {key : Nat} (hx : gpaPlace (s.dequeue chair n) chair base = .ok key) :
    s.Answers chair m (execDoorbell chair n s) 0 (· = []) fun u =>
      u.chairs = (s.dequeue chair n).chairs ∧ u.launches = s.launches ∧
        (∀ j < 8, u.hbm.get (key + j) =
          (s.chair chair).keepHold (base + j) (s.hbm.get (key + j)) (m.payload.getD j 0)) ∧
        ∀ a, a < key ∨ key + 8 ≤ a → u.hbm.get a = s.hbm.get a := by
  obtain ⟨hin, hout⟩ := State.get_storeGlobal_dequeue (n := n) hc hw base key 8 (bytesVal (m.payload.take 8))
  have hr := (s.dequeue chair n).memOnly_storeGlobal chair base key 8 (bytesVal (m.payload.take 8))
  refine State.answers_respond (execDoorbell_stored hc ht hq hk hx) (congrArg State.responses hr :) rfl
    ⟨(congrArg State.chairs hr :), (congrArg State.launches hr :), fun j hj => (hin j hj).trans ?_, hout⟩
  rw [byte_bytesVal, List.getD_eq_getElem?_getD, List.getElem?_take_of_lt hj, List.getD_eq_getElem?_getD]

/-- The Bureau goes on from an entry, of which it holds no copy. -/
def CmdQ.goFrom (q : CmdQ) (head : Nat) : CmdQ := { q with pos := head, copies := q.copies.filter (·.1 ≠ head) }

/-- What RESUME leaves of a queue that stands with OVERFLOW or BAD_ENTRY: STATUS 0, and the Bureau at HEAD (R379). -/
def State.resumed (s : State) (chair q head : Nat) : State :=
  (s.setQueueStatus chair q 0 none).modQ chair q (·.goFrom head)

section
variable (hk : m.kind = 5) {st head : Nat} (hst : gpaLoad (s.dequeue chair n) chair (base + 16) 8 = .ok st)
  (hhead : gpaLoad (s.dequeue chair n) chair (base + 8) 8 = .ok head)
include hk hst hhead

theorem execResumeRequest_stopped (h : st % 256 = 1 ∨ st % 256 = 2) :
    execResumeRequest chair n s = .next (((s.dequeue chair n).resumed chair (m.dw 1) head).respond chair m 0 []) := by
  simp only [execResumeRequest, reqAct_of_takenUp ht hk, queue?_dequeue hc, hq, needSome_some, hst, hhead, if_pos h]
  rfl

theorem execResumeRequest_running (h1 : st % 256 ≠ 1) (h2 : st % 256 ≠ 2) :
    execResumeRequest chair n s = .next ((s.dequeue chair n).respond chair m 0 []) := by
  have h : ¬(st % 256 = 1 ∨ st % 256 = 2) := not_or.mpr ⟨h1, h2⟩
  simp only [execResumeRequest, reqAct_of_takenUp ht hk, queue?_dequeue hc, hq, needSome_some, hst, hhead, if_neg h]

/-- A RESUME clears OVERFLOW or BAD_ENTRY, sends the Bureau to HEAD, and is answered 0. -/
theorem answers_resume (hw : s.MemWf) (hlt : m.dw 1 < (s.chair chair).qs.length) {key : Nat} {p : Perm}
    (hplace : stage2 (s.dequeue chair n) chair (base + 16) = .ok (key, p)) (h : st % 256 = 1 ∨ st % 256 = 2) :
    s.Answers chair m (execResumeRequest chair n s) 0 (· = []) fun u => u.launches = s.launches ∧
      ((u.chair chair).cmdq (m.dw 1)).pos = head ∧ (u.chair chair).reqs = (s.chair chair).reqs.eraseIdx n ∧
      (∀ x ∈ ((u.chair chair).cmdq (m.dw 1)).copies, x.1 ≠ head) ∧
      u.hbm.get key = (s.chair chair).keepHold (base + 16) (s.hbm.get key) 0 ∧ ∀ a, a ≠ key → u.hbm.get a = s.hbm.get a := by
  have hstatus : (s.dequeue chair n).resumed chair (m.dw 1) head =
      ((s.dequeue chair n).storeGlobal chair (base + 16) key 1 0).modQ chair (m.dw 1) (·.goFrom head) := by
    simp only [State.resumed, State.setQueueStatus, queue?_dequeue hc, hq, hplace]
  obtain ⟨hin, hout⟩ := State.get_storeGlobal_dequeue (n := n) hc hw (base + 16) key 1 0
  have hlen : chair < ((s.dequeue chair n).storeGlobal chair (base + 16) key 1 0).chairs.length := State.lt_chairs_dequeue hc n
  have hchair : ((s.dequeue chair n).storeGlobal chair (base + 16) key 1 0).chair chair = _ := State.chair_dequeue hc n
  have hcmdq := State.cmdq_modQ hlen (q := m.dw 1) (by rw [hchair]; exact hlt) (·.goFrom head)
  have hcopies := congrArg CmdQ.copies hcmdq
  have he := execResumeRequest_stopped hc ht hq hk hst hhead h
  rw [hstatus] at he
  have hr := (s.dequeue chair n).memOnly_storeGlobal chair (base + 16) key 1 0
  have hresp := congrArg State.responses hr
  have hlaunch := congrArg State.launches hr
  generalize (s.dequeue chair n).storeGlobal chair (base + 16) key 1 0 = r at *
  refine State.answers_respond he hresp rfl
    ⟨hlaunch, congrArg CmdQ.pos hcmdq, (State.reqs_modQ hlen _).trans (congrArg Chair.reqs hchair), fun x hx => ?_, hin 0 Nat.one_pos,
      fun a ha => hout a (by omega)⟩
  have hmem : x ∈ _ := hcopies ▸ hx
  simpa using (List.mem_filter.mp hmem).2

end
end

/-! ### LOAD (R150, R381) -/

section
variable (hk : m.kind = 4)
include hk

/-- A LOAD without an ASID is answered PROTECTION. -/
theorem answers_load_noAsid (ha : m.asid? (s.chair chair) = none) :
    s.Answers chair m (execLoadRequest chair n s) FC.protection (· = []) fun u => u.hbm = s.hbm ∧ u.launches = s.launches := by
  refine State.answers_respond (r := (s.dequeue chair n).modChair chair fun c => { c with loadWords := [] }) ?_ (by simp) rfl (by simp)
  simp only [execLoadRequest, reqAct_of_takenUp ht hk, asid?_dequeue hc, ha]

variable {asid : Nat} (ha : m.asid? (s.chair chair) = some asid)
include ha

/-- A LOAD whose image is in place drops its chair's decoded blocks under the ASID, and gives the answer kept with it (R150). -/
theorem answers_load_placed {reply : List Byte} (hreply : m.reply = some reply) :
    s.Answers chair m (execLoadRequest chair n s) 0 (· = reply) fun u => u.hbm = s.hbm ∧ u.launches = s.launches ∧
      ∀ k ∈ u.cores, ∀ d ∈ k.code, d.chair = chair → d.asid ≠ asid := by
  have he : execLoadRequest chair n s = .next ((s.dequeue chair n).endLoad chair asid m reply) := by
    simp only [execLoadRequest, reqAct_of_takenUp ht hk, asid?_dequeue hc, ha, hreply]
  refine State.answers_respond he (s.responses_dequeue chair n) rfl
    ⟨s.hbm_dequeue chair n, s.launches_dequeue chair n, fun k hk' d hd hdc => ?_⟩
  obtain ⟨k0, -, rfl⟩ := List.mem_map.mp hk'
  have hkept := (List.mem_filter.mp hd).2
  simpa [hdc] using hkept

variable (hreply : m.reply = none) (hidle : ∀ y ∈ (s.chair chair).reqs, y.reply = none)
include hreply hidle

/-- A LOAD with no answer yet, at a loader that works on no other, takes its first act. -/
theorem execLoadRequest_first :
    ∃ needOf, execLoadRequest chair n s = (s.dequeue chair n).loadOutcome chair asid n m needOf := by
  have hfree : (!((s.dequeue chair n).chair chair).reqs.any (·.reply.isSome)) = true := by
    rw [State.chair_dequeue hc, Bool.not_eq_true', List.any_eq_false]
    intro y hy
    simp [hidle y (List.mem_of_mem_eraseIdx hy)]
  simp only [execLoadRequest, reqAct_of_takenUp ht hk, asid?_dequeue hc, ha, hreply]
  exact ⟨_, need_of hfree _⟩

/-- A LOAD one of whose ranges is not mapped is answered with the code of the first such range's fault. -/
theorem answers_load_unmapped {y : Nat × Nat × Need} {x : Fail} {l r : List (Nat × Nat × Need)} (hsplit : m.ranges = l ++ y :: r)
    (hl : ∀ z ∈ l, ∃ k, walkPieces (s.dequeue chair n) chair asid false z.2.2 (pagePieces z.1 z.2.1) = .ok k)
    (hx : walkPieces (s.dequeue chair n) chair asid false y.2.2 (pagePieces y.1 y.2.1) = .error x) :
    s.Answers chair m (execLoadRequest chair n s) x.code (· = []) (s.Quiet chair n) := by
  obtain ⟨needOf, he⟩ := execLoadRequest_first hc ht hk ha hreply hidle
  refine State.answers_fault (he.trans ?_)
  simp only [State.loadOutcome, State.firstFault_of_error hsplit hl hx]

/-- A LOAD one of whose files cannot be read is answered with the fault's code. -/
theorem answers_load_unread {x : Fail} (hx : readFiles (s.dequeue chair n) chair asid m.files = .error x)
    (hmap : ∀ y ∈ m.ranges, ∃ l, walkPieces (s.dequeue chair n) chair asid false y.2.2 (pagePieces y.1 y.2.1) = .ok l) :
    s.Answers chair m (execLoadRequest chair n s) x.code (· = []) (s.Quiet chair n) := by
  obtain ⟨needOf, he⟩ := execLoadRequest_first hc ht hk ha hreply hidle
  refine State.answers_fault (he.trans ?_)
  simp only [State.loadOutcome, State.firstFault_of_ok hmap, hx]

/-- A LOAD that is mapped and read is placed: it keeps its place in the queue, with the answer that its second act gives. -/
theorem execLoadRequest_placed {files : List (List Byte)} (hf : readFiles (s.dequeue chair n) chair asid m.files = .ok files)
    (hmap : ∀ y ∈ m.ranges, ∃ l, walkPieces (s.dequeue chair n) chair asid false y.2.2 (pagePieces y.1 y.2.1) = .ok l) :
    let result := load files (m.pdw 1, m.pdw 2) (m.pdw 3, m.pdw 4) (m.pdw 5, m.pdw 6)
    ∃ u, execLoadRequest chair n s = .next u ∧ u.responses = s.responses ∧ u.launches = s.launches ∧ u.cores = s.cores ∧
      (u.chair chair).reqs = (s.chair chair).reqs.set n (m.replied result) := by
  intro result
  obtain ⟨needOf, he⟩ := execLoadRequest_first hc ht hk ha hreply hidle
  obtain ⟨hresp, hlaunch, hcores, hreqs⟩ := State.beginLoad_leaves (State.lt_chairs_dequeue hc n) asid n m result needOf
  refine ⟨(s.dequeue chair n).beginLoad chair asid n m result needOf, ?_, hresp, hlaunch, hcores, hreqs.trans ?_⟩
  · rw [he]
    simp only [State.loadOutcome, State.firstFault_of_ok hmap, hf]
    rfl
  · have hn : n < (s.chair chair).reqs.length := (List.getElem?_eq_some_iff.mp ht.1).1
    rw [State.chair_dequeue hc]
    exact List.insertIdx_eraseIdx_self hn.ne _

end
end

/-! ### A request that is refused (R374, R380, R381) -/

/-- A request that is refused, or whose chair takes none, leaves its queue with no effect but its response. -/
theorem answers_requestRefused {s : State} {chair n : Nat} {m : ReqMsg} (hm : (s.chair chair).reqs[n]? = some m)
    (h : m.refused (s.chair chair) = true ∨ (s.chair chair).en = false ∨ (s.chair chair).rst = true) :
    s.Answers chair m (execRequestRefused chair n s) (if (s.chair chair).rst then 1 else 2) (· = []) (s.Quiet chair n) := by
  have hmay : (m.refused (s.chair chair) || !(s.chair chair).en || (s.chair chair).rst) = true := by
    simpa [or_assoc] using h
  refine State.answers_quiet ?_ rfl
  simp only [execRequestRefused, hm, needSome_some]
  exact need_of hmay _

/-! ### Notices (R326, R382) -/

section
variable {s : State} {chair base lg : Nat} {c : Chair}

theorem State.trapHead_of_used (hr : ringOf c.chtq = some (base, lg)) (hu : s.ringUsed base ≠ 0) :
    s.trapHead c = some (base, base + 64 + 32 * (s.hbm.read (base + 8) 8 % 2 ^ lg),
      dwsOf (s.hbm.read (base + 64 + 32 * (s.hbm.read (base + 8) 8 % 2 ^ lg)) 32) 4) := by
  simp only [State.trapHead, hr, if_neg hu]

theorem State.trapHead_eq_none (h : ¬∃ base lg, ringOf c.chtq = some (base, lg) ∧ s.ringUsed base ≠ 0) : s.trapHead c = none := by
  unfold State.trapHead
  split
  · rfl
  · next base lg hr => exact if_pos (not_not.mp fun hu => h ⟨base, lg, hr, hu⟩)

/-- Class X goes before the other notices. -/
theorem Chair.nextNotice_classX {tag : Word} {code : Nat} {l r : List Notice} (h : c.pendingX = l ++ .classX tag code :: r)
    (hl : ∀ x ∈ l, x.isX = false) : c.nextNotice = some (.classX tag code) := by
  have hnone : l.find? Notice.isX = none := List.find?_eq_none.mpr fun x hx => by simp [hl x hx]
  rw [Chair.nextNotice, h, List.find?_append, hnone, List.find?_cons_of_pos rfl]
  rfl

/-- With no notice of class X, the first goes. -/
theorem Chair.nextNotice_first {x : Notice} {r : List Notice} (h : c.pendingX = x :: r) (hx : ∀ z ∈ c.pendingX, z.isX = false) :
    c.nextNotice = some x := by
  have hnone : c.pendingX.find? Notice.isX = none := List.find?_eq_none.mpr fun z hz => by simp [hx z hz]
  rw [Chair.nextNotice, hnone, h]
  rfl

/-- A notice goes to the chair's peer: the chair is then as given, memory and launches as they were. -/
def State.Sends (s : State) (chair : Nat) (x : Notice) (d : Chair) : Prop :=
  ∃ u, execNoticeSend chair s = .next u ∧ u.notices = s.notices ++ [(chair, x)] ∧ u.chair chair = d ∧ u.hbm = s.hbm ∧
    u.launches = s.launches

variable (hc : chair < s.chairs.length)
include hc

theorem State.sends_modChair {r : State} {x : Notice} (f : Chair → Chair)
    (he : execNoticeSend chair s = .next ({ r with notices := s.notices ++ [(chair, x)] }.modChair chair f))
    (hchairs : r.chairs = s.chairs) (hhbm : r.hbm = s.hbm) (hlaunches : r.launches = s.launches) :
    s.Sends chair x (f (s.chair chair)) :=
  ⟨_, he, rfl, State.chair_modChair_of_chairs hc hchairs f, hhbm, hlaunches⟩

/-- The record at the head of the chair trap queue goes before any other notice, and is outstanding. -/
theorem sends_trap (hr : ringOf (s.chair chair).chtq = some (base, lg)) (hu : s.ringUsed base ≠ 0)
    (hsent : (s.chair chair).trapSent = false) :
    s.Sends chair (.trap (dwsOf (s.hbm.read (base + 64 + 32 * (s.hbm.read (base + 8) 8 % 2 ^ lg)) 32) 4))
      { s.chair chair with trapSent := true } := by
  refine State.sends_modChair hc (fun c => { c with trapSent := true })
    (r := (s.noteRing base).noteBytes (base + 64 + 32 * (s.hbm.read (base + 8) 8 % 2 ^ lg)) 32) ?_ rfl rfl rfl
  simp only [execNoticeSend, State.trapHead_of_used hr hu]
  exact need_of (by rw [hsent]; rfl) _

/-- With no trap record before it, the notice that goes next leaves those pending. -/
theorem sends_pending {x : Notice} (hnone : s.trapHead (s.chair chair) = none) (hx : (s.chair chair).nextNotice = some x) :
    s.Sends chair x { s.chair chair with pendingX := (s.chair chair).pendingX.erase x } := by
  refine State.sends_modChair hc (fun c => { c with pendingX := c.pendingX.erase x }) ?_ rfl rfl rfl
  simp only [execNoticeSend, hnone, hx, needSome_some]

/-- An acknowledged notice passes its record: CI steps, and nothing else of memory changes. -/
theorem execNoticeAck_passes (hw : s.MemWf) (hr : ringOf (s.chair chair).chtq = some (base, lg)) (hu : s.ringUsed base ≠ 0)
    (hsent : (s.chair chair).trapSent = true) :
    ∃ u, execNoticeAck chair s = .next u ∧ u.chair chair = { s.chair chair with trapSent := false } ∧
      u.hbm.read (base + 8) 8 = (s.hbm.read (base + 8) 8 + 1) % 2 ^ 64 ∧
      (∀ a, a < base + 8 ∨ base + 16 ≤ a → u.hbm.get a = s.hbm.get a) ∧ u.notices = s.notices ∧ u.launches = s.launches := by
  let ci := (s.hbm.read (base + 8) 8 + 1) % 2 ^ 64
  have hpop : (s.noteRing base).ringPop base = (s.noteRing base).hpaWrite (base + 8) 8 ci := if_neg hu
  have hmem := (s.noteRing base).memOnly_hpaWrite (base + 8) 8 ci
  have hhbm : ((s.noteRing base).hpaWrite (base + 8) 8 ci).hbm = s.hbm.write (base + 8) 8 ci := rfl
  have hread : (s.hbm.write (base + 8) 8 ci).read (base + 8) 8 = ci := (Memory.read_write hw.1 _ _ _).trans (Nat.mod_mod _ _)
  have hother (a : Nat) (ha : a < base + 8 ∨ base + 16 ≤ a) : (s.hbm.write (base + 8) 8 ci).get a = s.hbm.get a :=
    Memory.get_write_other hw.1 _ (by omega)
  rw [← hhbm] at hread hother
  refine ⟨((s.noteRing base).hpaWrite (base + 8) 8 ci).modChair chair fun c => { c with trapSent := false }, ?_,
    State.chair_modChair_of_chairs hc (congrArg State.chairs hmem :) _, hread, hother, (congrArg State.notices hmem :),
    (congrArg State.launches hmem :)⟩
  simp only [execNoticeAck, hr, needSome_some, hpop]
  exact need_of hsent _

end

theorem execServiceTrapQueueConsume_cons {s : State} {r : List Word} {l : List (List Word)} (h : s.svcTrap = r :: l) :
    execServiceTrapQueueConsume s = .next { s with svcTrap := l, svcCi := (s.svcCi + 1) % 2 ^ 64 } := by
  simp [execServiceTrapQueueConsume, h]

/-! ### The statement -/

/-- Settles O59: each clause is what its act does, said above of the request, the notice or the record it takes. -/
theorem requestsAreAnswered : Obligations.RequestsAreAnswered := by
  intro s chair n m c s1 tag answers quiet taken hw hc
  refine ⟨fun hb => ⟨fun h => ?arrived, fun hrst hen hroom => (runAct_request hb).trans (arriveRequest_queued hrst hen hroom)⟩,
    fun hm => ⟨fun hrud => ?anyTurn, fun hrud => ?inTurn⟩,
    fun ht hk => ⟨fun ha => State.answers_quiet (execReqWrite_noAsid hc ht hk ha) rfl, fun asid ha => ?write⟩,
    fun ht hk => ⟨fun ha => State.answers_quiet (execReqRead_noAsid hc ht hk ha) rfl, fun asid ha => ?read⟩,
    fun base lg key ht hk hq hx => answers_doorbell hc ht hq hw hk hx,
    fun base lg x ht hk hq hx => State.answers_fault (execDoorbell_fault hc ht hq hk hx),
    fun ht hk => ⟨fun ha => answers_load_noAsid hc ht hk ha, fun asid ha hreply hidle => ?load,
      fun asid reply ha hreply => answers_load_placed hc ht hk ha hreply⟩,
    fun base lg key p st head ht hk hq hlt hplace hst hhead => ?resume,
    fun hm h => answers_requestRefused hm h, ?notice,
    fun base lg hr hu hsent => execNoticeAck_passes hc hw hr hu hsent, fun r l h => ?consume⟩
  case arrived => exact ⟨_, (runAct_request hb).trans (arriveRequest_turnedAway h), rfl, rfl⟩
  case anyTurn => simp only [Chair.reqTurn, hrud, Bool.true_or]
  case inTurn => simp only [Chair.reqTurn, hrud, Bool.false_or, List.all_eq_true]
  case write =>
    refine ⟨fun x hx => ?_, fun l hl hlost => ?_, fun l hl hreach => answers_write hc ht hw hk ha hl hreach⟩
    · exact State.answers_fault (execReqWrite_fault hc ht hk ha (writeVa_of_error hx))
    · exact State.answers_fault (execReqWrite_fault hc ht hk ha (writeVa_of_lost hl hlost))
  case read =>
    refine ⟨fun x hx => ?_, fun l hl hbad => ?_, fun gpa key hl hp => answers_read hc ht hk ha hl hp⟩
    · exact State.answers_fault (execReqRead_fault hc ht hk ha (readVa_of_error hx))
    · obtain ⟨x, hx, hcode⟩ := readVa_of_poisoned hl hbad
      have h := State.answers_fault (execReqRead_fault hc ht hk ha hx)
      rw [hcode] at h
      exact h
  case load =>
    exact ⟨fun x hx hmap => answers_load_unread hc ht hk ha hreply hidle hx hmap,
      fun y x l r hsplit hl hx => answers_load_unmapped hc ht hk ha hreply hidle hsplit hl hx,
      fun files hf hmap => execLoadRequest_placed hc ht hk ha hreply hidle hf hmap⟩
  case resume =>
    exact ⟨fun h => answers_resume hc ht hq hk hst hhead hw hlt hplace h,
      fun h1 h2 => State.answers_quiet (execResumeRequest_running hc ht hq hk hst hhead h1 h2) rfl⟩
  case notice =>
    refine ⟨fun base lg hr hu hsent => sends_trap hc hr hu hsent, fun tag code l r hnone h hl => ?_, fun x r hnone h hx => ?_⟩
    · exact sends_pending hc (State.trapHead_eq_none hnone) (Chair.nextNotice_classX h hl)
    · have hsends := sends_pending hc (State.trapHead_eq_none hnone) (Chair.nextNotice_first h hx)
      rw [h, List.erase_cons_head] at hsends
      exact hsends
  case consume => exact execServiceTrapQueueConsume_cons h

end Sys2Proof.Machine

/-! PROOFS. Waits that come to hold (O51). -/

namespace Sys2Proof.Machine
open Sys2Proof

/-! ### A wait that is over -/

/-- An act that ends a wait: the token is sent, and the block is left without the wait (R7, R50). -/
def EndsWait (o : Out) (core slot age k : Nat) (ts : List Target) (tok : Tok) (also : State → Inst → Prop) : Prop :=
  ∃ u j, o = .next u ∧ u.SentTo core slot age ts tok ∧ u.block? core slot age = some j ∧ (∀ w ∈ j.waits, w.k ≠ k) ∧ also u j

/-- An act that ends a wait of block `i` with a fault (R155). -/
def FailsWait (o : Out) (core slot age k : Nat) (i : Inst) (f : FaultRec) : Prop :=
  ∃ u j, o = .next u ∧ u.block? core slot age = some j ∧ (∀ w ∈ j.waits, w.k ≠ k) ∧ j.faults = i.faults ++ [f]

/-- A block without its wait at a window slot. -/
def Inst.endWait (k : Nat) (i : Inst) : Inst := { i with waits := i.waits.filter (·.k ≠ k) }

theorem Inst.waits_endWait (k : Nat) (i : Inst) : ∀ w ∈ (i.endWait k).waits, w.k ≠ k := fun _ hw =>
  of_decide_eq_true (List.mem_filter.mp hw).2

section
variable {s r : State} {core slot age k : Nat} {i j : Inst} {ts : List Target} {tok : Tok} {o : Out}

/-- What an emission from a state whose block has no such wait leaves. -/
theorem endsWait_of_emit {also : State → Inst → Prop} (ho : o = .next (r.emit core slot age ts tok))
    (hb : r.block? core slot age = some j) (hw : ∀ w ∈ j.waits, w.k ≠ k)
    (halso : ∀ j', j'.kacts = j.kacts → also (r.emit core slot age ts tok) j') :
    EndsWait o core slot age k ts tok also := by
  obtain ⟨sl, hs, -⟩ := Option.bind_eq_some_iff.mp hb
  obtain ⟨j', hj', -, -, hwaits, hkacts⟩ := State.emit_block hb ts tok
  exact ⟨_, j', ho, State.emit_sent (State.core_lt_of_slot hs) _ _ _ _, hj', hwaits ▸ hw, halso j' hkacts⟩

theorem failsWait_of_record {f : FaultRec} (ho : o = .next (r.record core slot age f))
    (hb : r.block? core slot age = some (i.endWait k)) : FailsWait o core slot age k i f :=
  ⟨_, _, ho, (State.record_leaves hb f).2, i.waits_endWait k, rfl⟩

theorem State.block_endWait (hb : s.block? core slot age = some i) (k : Nat) :
    (s.endWait core slot age k).block? core slot age = some (i.endWait k) := State.block_modInst hb fun _ => rfl

/-- A wait that ends with an emission alone. -/
theorem endsWait_of_endWait (hb : s.block? core slot age = some i)
    (ho : o = .next ((s.endWait core slot age k).emit core slot age ts tok)) :
    EndsWait o core slot age k ts tok fun _ _ => True :=
  endsWait_of_emit ho (State.block_endWait hb k) (i.waits_endWait k) fun _ _ => trivial

/-- A wait belongs to a block in flight. -/
theorem State.block_of_wait {sl : Slot} {w : WaitRec} (h : s.wait? core slot age k = some (sl, i, w, ts)) :
    s.block? core slot age = some i := by
  obtain ⟨sl', hs, h⟩ := Option.bind_eq_some_iff.mp h
  obtain ⟨i', hi, h⟩ := Option.bind_eq_some_iff.mp h
  obtain ⟨w', -, h⟩ := Option.bind_eq_some_iff.mp h
  obtain ⟨x, -, h⟩ := Option.map_eq_some_iff.mp h
  cases h
  rw [State.block?, hs]
  exact hi

end

/-! ### JOIN and collect (R172, R175) -/

/-- A fork record with the mark of the block that has joined it. -/
def ForkRec.joinedBy (h age : Nat) (r : ForkRec) : ForkRec :=
  if r.handle = h ∧ ¬r.joined.contains age then { r with joined := r.joined ++ [age] } else r

/-- A block that releases its fork's record at its commit (R172). -/
def Inst.releasing (k h : Nat) (i : Inst) : Inst := { i.endWait k with kacts := i.kacts ++ [(k, .release h)] }

/-- The state once a block has joined a fork, its token still to be sent. -/
def State.joins (s : State) (core slot age k h : Nat) : State :=
  ((s.endWait core slot age k).modInst core slot age fun i => { i with kacts := i.kacts ++ [(k, .release h)] }).modSlot core slot
    fun sl => { sl with forks := sl.forks.map (·.joinedBy h age) }

section
variable {s : State} {core slot age k h : Nat} {sl : Slot} {i : Inst} {ts : List Target} {val : ForkRec → Datum}

theorem State.block_joins (hb : s.block? core slot age = some i) (k h : Nat) :
    (s.joins core slot age k h).block? core slot age = some (i.releasing k h) := by
  rw [State.joins, State.block?_modSlot]
  · exact State.block_modInst (State.block_endWait hb k) fun _ => rfl
  · exact fun _ => rfl

/-- A handle that no live record bears is answered with ones. -/
theorem forkWait_of_no_record (hold : sl.isOldest i = true) (hnone : ∀ r ∈ sl.forks, r.handle ≠ h) :
    forkWait s core slot age k sl i h ts val = .next ((s.endWait core slot age k).emit core slot age ts (some noRecord)) := by
  have hfind : sl.forks.find? (·.handle = h) = none := List.find?_eq_none.mpr (by simpa using hnone)
  rw [forkWait, need_of hold, hfind]

/-- A fork whose iterations have all ended is answered by its record. -/
theorem forkWait_of_ended {r : ForkRec} (hold : sl.isOldest i = true) (hfind : sl.forks.find? (·.handle = h) = some r)
    (hend : r.ended.length = r.n) :
    forkWait s core slot age k sl i h ts val = .next ((s.joins core slot age k h).emit core slot age ts (some (val r))) := by
  have hall : r.allEnded = true := decide_eq_true hend
  simp only [forkWait, need_of hold, hfind, need_of hall]
  rfl

/-- An act that waits for a fork, in the oldest block, answers once the fork has ended or no record is live. -/
theorem forkWait_ends {o : Out} (ho : o = forkWait s core slot age k sl i h ts val) (hb : s.block? core slot age = some i)
    (hold : sl.isOldest i = true) :
    ((∀ r ∈ sl.forks, r.handle ≠ h) → EndsWait o core slot age k ts (some noRecord) fun _ _ => True) ∧
    (∀ r, sl.forks.find? (·.handle = h) = some r → r.ended.length = r.n →
      EndsWait o core slot age k ts (some (val r)) fun _ j => (k, .release h) ∈ j.kacts) := by
  refine ⟨fun hnone => endsWait_of_endWait hb (ho.trans (forkWait_of_no_record hold hnone)), fun r hfind hend => ?_⟩
  refine endsWait_of_emit (ho.trans (forkWait_of_ended hold hfind hend)) (State.block_joins hb k h) (i.waits_endWait k) ?_
  intro j hj
  rw [hj]
  exact List.mem_append_right _ List.mem_cons_self

variable {lsid : Nat}

theorem execJoinSatisfied_eq (hw : s.wait? core slot age k = some (sl, i, ⟨k, lsid, .join h⟩, ts)) :
    execJoinSatisfied core slot age k s = forkWait s core slot age k sl i h ts fun r => .int r.n := by
  rw [execJoinSatisfied, hw, needSome_some]

theorem execRedtCollectSatisfied_eq {op : RedOp} (hw : s.wait? core slot age k = some (sl, i, ⟨k, lsid, .collect op h⟩, ts)) :
    execRedtCollectSatisfied core slot age k s = forkWait s core slot age k sl i h ts (collectResult op) := by
  rw [execRedtCollectSatisfied, hw, needSome_some]

end

/-! ### WAITC (R176, R320) -/

/-- What a handle names depends on the completion queues, the launch tables and the chairs of the slots alone (R319). -/
theorem State.handleState_congr {s t : State} (hcq : ∀ c, (t.core c).cq = (s.core c).cq) (hch : t.chairs = s.chairs)
    (hsl : ∀ c j, (t.slot? c j).map (·.chair) = (s.slot? c j).map (·.chair)) (chair h : Nat) :
    t.handleState chair h = s.handleState chair h := by
  have hslot : ∀ (u : State) (c j : Nat) (l : List CqEntry), ((u.slot? c j).bind fun sl =>
      if sl.chair = chair ∧ bits h 32 12 < 256 then findEntry l j (bits h 32 12) (bits h 0 32) else none) =
      ((u.slot? c j).map (·.chair)).bind fun x =>
        if x = chair ∧ bits h 32 12 < 256 then findEntry l j (bits h 32 12) (bits h 0 32) else none := by
    intro u c j l
    cases u.slot? c j <;> rfl
  simp only [State.handleState, State.entry?, State.chair, hcq, hch, hslot, hsl]

/-- A change of a block leaves what a handle names. -/
theorem State.handleState_modInst (s : State) (core slot age : Nat) (f : Inst → Inst) (chair h : Nat) :
    (s.modInst core slot age f).handleState chair h = s.handleState chair h := by
  refine State.handleState_congr (fun c => ?_) (s.chairs_modInst core slot age f) (fun c j => ?_) chair h
  · by_cases hc : c = core
    · rw [hc, State.cq_modInst]
    · rw [State.modInst, State.modSlot, State.core_modCore_ne _ _ hc]
  · have hk := congrArg (Option.map (·.chair)) ((s.keeps_modInst core slot age f).slots c j)
    simpa [Option.map_map, Function.comp_def, Slot.settled] using hk

/-- A change of a completion entry leaves every slot. -/
theorem State.slot?_modHandle (s : State) (chair h : Nat) (f : CqEntry → CqEntry) (c j : Nat) :
    (s.modHandle chair h f).slot? c j = s.slot? c j := by
  simp only [State.modHandle]
  split
  · exact s.slot?_modCore _ _ _ _ rfl
  · rfl

theorem State.slot?_readHandle (s : State) (chair h c j : Nat) : (s.readHandle chair h).slot? c j = s.slot? c j :=
  ((State.settleHandle_keeps _ chair h).1 c j).trans (s.slot?_modHandle _ _ _ c j)

/-- A completion word that a WAITC emits: the report form any, the trapping form one of STATUS 0. -/
theorem State.waitcEmit_of_read (s : State) (core slot age chair h : Nat) {report : Bool} (ts : List Target) {w : Word}
    (hr : report = true ∨ w.toNat % 256 = 0) : s.waitcEmit core slot age chair h report ts w =
      (s.readHandle chair h).emit core slot age ts (some (.int w.toNat)) := by
  refine if_neg ?_
  rintro ⟨hfault, hrep⟩
  obtain rfl | h0 := hr
  · cases hrep
  · exact hfault h0

/-- A STATUS that the trapping form of WAITC raises. -/
theorem State.waitcEmit_of_fault (s : State) (core slot age chair h : Nat) {report : Bool} (ts : List Target) {w : Word}
    (hr : report = false) (hw : w.toNat % 256 ≠ 0) : s.waitcEmit core slot age chair h report ts w =
      (s.settleHandle chair h).record core slot age (.plain (w.toNat % 256)) :=
  if_pos ⟨hw, by rw [hr]; rfl⟩

section
variable {s : State} {core slot age k lsid h : Nat} {sl : Slot} {i : Inst} {report : Bool} {ts : List Target} {w : Word}

theorem execWaitcSatisfied_of_none (hw : s.wait? core slot age k = some (sl, i, ⟨k, lsid, .waitc h report⟩, ts))
    (hn : s.handleState sl.chair h = none) : execWaitcSatisfied core slot age k s =
      .next ((s.endWait core slot age k).waitcNone core slot age report ts) := by
  simp only [execWaitcSatisfied, hw, needSome_some, hn]

theorem execWaitcSatisfied_of_done (hw : s.wait? core slot age k = some (sl, i, ⟨k, lsid, .waitc h report⟩, ts))
    (hd : s.handleState sl.chair h = some (some w)) : execWaitcSatisfied core slot age k s =
      .next ((s.endWait core slot age k).waitcEmit core slot age sl.chair h report ts w) := by
  simp only [execWaitcSatisfied, hw, needSome_some, hd]

/-- A WAITC that emits its completion word frees the entry once no other WAITC waits for it (R320). -/
theorem execWaitcSatisfied_emits (hw : s.wait? core slot age k = some (sl, i, ⟨k, lsid, .waitc h report⟩, ts))
    (hd : s.handleState sl.chair h = some (some w)) (hr : report = true ∨ w.toNat % 256 = 0) :
    EndsWait (execWaitcSatisfied core slot age k s) core slot age k ts (some (.int w.toNat)) fun u _ =>
      (s.endWait core slot age k).waitsOn sl.chair h = false → u.handleState sl.chair h = none := by
  have ho := execWaitcSatisfied_of_done hw hd
  rw [State.waitcEmit_of_read _ _ _ _ _ _ _ hr] at ho
  have hb : ((s.endWait core slot age k).readHandle sl.chair h).block? core slot age = some (i.endWait k) := by
    rw [State.block?, State.slot?_readHandle]
    exact State.block_endWait (State.block_of_wait hw) k
  refine endsWait_of_emit ho hb (i.waits_endWait k) fun _ _ hlast => ?_
  rw [State.handleState_emit]
  exact State.handleState_read ((s.handleState_modInst _ _ _ _ _ _).trans hd) hlast

/-- A trapping WAITC records the STATUS of a completion that failed. -/
theorem execWaitcSatisfied_fails (hw : s.wait? core slot age k = some (sl, i, ⟨k, lsid, .waitc h report⟩, ts))
    (hd : s.handleState sl.chair h = some (some w)) (hr : report = false) (hf : w.toNat % 256 ≠ 0) :
    FailsWait (execWaitcSatisfied core slot age k s) core slot age k i (.plain (w.toNat % 256)) := by
  have ho := execWaitcSatisfied_of_done hw hd
  rw [State.waitcEmit_of_fault _ _ _ _ _ _ _ hr hf] at ho
  refine failsWait_of_record ho ?_
  rw [State.block?, (State.settleHandle_keeps _ _ _).1]
  exact State.block_endWait (State.block_of_wait hw) k

/-- A WAITC whose handle names no completion is RESERVED_FIELD, emitted or recorded (R176). -/
theorem execWaitcSatisfied_none (hw : s.wait? core slot age k = some (sl, i, ⟨k, lsid, .waitc h report⟩, ts))
    (hn : s.handleState sl.chair h = none) :
    (report = true → EndsWait (execWaitcSatisfied core slot age k s) core slot age k ts (some (.int FC.reservedField))
      fun _ _ => True) ∧
    (report = false → FailsWait (execWaitcSatisfied core slot age k s) core slot age k i (.plain FC.reservedField)) := by
  have hb := State.block_of_wait hw
  have ho := execWaitcSatisfied_of_none hw hn
  refine ⟨?_, ?_⟩ <;> rintro rfl
  · exact endsWait_of_endWait hb ho
  · exact failsWait_of_record ho (State.block_endWait hb k)

end

/-! ### WAITG (R213) and FENCE (R206) -/

section
variable {s : State} {core slot age k lsid : Nat} {sl : Slot} {i : Inst} {ts : List Target}

/-- A WAITG that its strand's order leaves free meets poison, or reads the generation of its sync word. -/
theorem execWaitgSatisfied_eq {off g : Nat} {sc : Scope}
    (hw : s.wait? core slot age k = some (sl, i, ⟨k, lsid, .waitg off g sc⟩, ts))
    (hback : s.loadHeldBack core slot sl i lsid false = false) :
    let gen := bits (s.readLocal core sl off 8) 40 24
    execWaitgSatisfied core slot age k s =
      if s.poisonedLocal core sl off 16 then
        .next (((s.endWait core slot age k).ueLocal core sl off 16).record core slot age (.access FC.uncorrectable lsid 0))
      else need (decide (wrapN ((gen : Int) - g) 24 < 2 ^ 23)) <|
        .next ((s.endWait core slot age k).emit core slot age ts (some (.int gen))) := by
  simp only [execWaitgSatisfied, hw, needSome_some, hback]
  rfl

theorem execWaitgSatisfied_fails {off g : Nat} {sc : Scope}
    (hw : s.wait? core slot age k = some (sl, i, ⟨k, lsid, .waitg off g sc⟩, ts))
    (hback : s.loadHeldBack core slot sl i lsid false = false) (hp : s.poisonedLocal core sl off 16 = true) :
    FailsWait (execWaitgSatisfied core slot age k s) core slot age k i (.access FC.uncorrectable lsid 0) := by
  refine failsWait_of_record ((execWaitgSatisfied_eq hw hback).trans (if_pos hp)) ?_
  rw [State.block?, State.ueLocal, State.modErr, State.slot?_modCore _ _ _ _ _ rfl]
  exact State.block_endWait (State.block_of_wait hw) k

theorem execWaitgSatisfied_emits {off g : Nat} {sc : Scope}
    (hw : s.wait? core slot age k = some (sl, i, ⟨k, lsid, .waitg off g sc⟩, ts))
    (hback : s.loadHeldBack core slot sl i lsid false = false) (hp : s.poisonedLocal core sl off 16 = false)
    (hgen : ((bits (s.readLocal core sl off 8) 40 24 : Int) - g) % 2 ^ 24 < 2 ^ 23) :
    EndsWait (execWaitgSatisfied core slot age k s) core slot age k ts
      (some (.int (bits (s.readLocal core sl off 8) 40 24))) fun _ _ => True := by
  have hcome : wrapN ((bits (s.readLocal core sl off 8) 40 24 : Int) - g) 24 < 2 ^ 23 := by
    rw [wrapN_eq]; omega
  refine endsWait_of_endWait (State.block_of_wait hw) ((execWaitgSatisfied_eq hw hback).trans ?_)
  rw [if_neg (by simp [hp]), need_of (decide_eq_true hcome)]

/-- A fence emits once the loads before it are performed and, unless it is an ACQ, the stores before it applied (R206). -/
theorem execFenceEmission_ends {kind : FenceKind} {sc : Scope}
    (hw : s.wait? core slot age k = some (sl, i, ⟨k, lsid, .fence kind sc⟩, ts))
    (hloads : s.loadsBefore core slot sl i lsid = false)
    (hstores : kind = .acq ∨ sl.isOldest i = true ∧ s.storesBefore core slot sl i lsid = false) :
    EndsWait (execFenceEmission core slot age k s) core slot age k ts (some (.int 0)) fun _ _ => True := by
  have hmay : (!s.loadsBefore core slot sl i lsid
      && (!holdsStores kind || (sl.isOldest i && !s.storesBefore core slot sl i lsid))) = true := by
    obtain rfl | ⟨hold, hst⟩ := hstores
    · simp [hloads, holdsStores]
    · simp [hloads, hold, hst]
  refine endsWait_of_endWait (State.block_of_wait hw) ?_
  simp only [execFenceEmission, hw, needSome_some, need_of hmay]

end

/-- Settles O51: each kind of wait by its act, whose emission or fault leaves the block without the wait. -/
theorem waitsAreSatisfied : Obligations.WaitsAreSatisfied := by
  intro s core slot age k lsid sl i ts what hw ends ones joined
  have hb := State.block_of_wait hw
  refine ⟨?join, ?collect, ?waitc, ?waitg, ?fence⟩
  case join =>
    rintro h rfl hold
    exact forkWait_ends (execJoinSatisfied_eq hw) hb hold
  case collect =>
    rintro op h rfl hold
    exact forkWait_ends (execRedtCollectSatisfied_eq hw) hb hold
  case waitc =>
    rintro h report rfl
    exact ⟨fun hn => execWaitcSatisfied_none hw hn, fun w hd =>
      ⟨fun hr => execWaitcSatisfied_emits hw hd hr, fun hr hf => execWaitcSatisfied_fails hw hd hr hf⟩⟩
  case waitg =>
    rintro off g sc rfl hback
    exact ⟨fun hp => execWaitgSatisfied_fails hw hback hp, fun hp hgen => execWaitgSatisfied_emits hw hback hp hgen⟩
  case fence =>
    rintro kind sc rfl hloads hstores
    exact execFenceEmission_ends hw hloads hstores

end Sys2Proof.Machine

/-! PROOFS. Scalar instructions as they fire: moves, registers, faults, forks and waits (O1, O2, O4, O5, O6), compares, integers,
addresses and conversions (O7, O8, O9, O10). -/

namespace Sys2Proof.Machine
open Sys2Proof

/-! ### Stations without a format field -/

section
variable {s : State} {c : Ctx} {pr : Pred} {a b : Datum}

theorem station1_of_fires_nil (h : s.Fires c pr) (ha : Carries c.m.a a) (ts : List Target) (body : Ctx → Datum → Out) :
    station1 s pr [] ts body = body c a := station1_of_fires h (by simp) ha ts body

theorem station2_of_fires_nil (h : s.Fires c pr) (ha : Carries c.m.a a) (hb : Carries c.m.b b) (ts : List Target)
    (body : Ctx → Datum → Datum → Out) : station2 s pr [] ts body = body c a b := station2_of_fires h (by simp) ha hb ts body

end

/-! ### Moves (O1) -/

/-- ORHI keeps the low 44 bits, and its immediate stands above them (R160). -/
theorem orhi_eq_or (x i : Nat) : x % 2 ^ 44 + i * 2 ^ 44 = (x &&& (2 ^ 44 - 1)) ||| i * 2 ^ 44 := by
  rw [Nat.and_two_pow_sub_one_eq_mod, Nat.or_comm, Nat.add_comm, Nat.mul_comm]
  exact Nat.two_pow_add_eq_or_of_lt (Nat.mod_lt _ (by positivity)) i

/-- SEL once P carries a token: the chosen port's token, or a null for its null (R161). -/
theorem exec_sel_of_carries {s : State} {c : Ctx} {f : FSel} {p : Datum} (h : s.Fires c .always) (hp : Carries c.m.p p) :
    exec (.sel f) s = port (if p.truth then c.m.a else c.m.b) (c.out [f.t0, f.t1] none)
      fun d => c.out [f.t0, f.t1] (some d) := (fire_of_fires h _).trans (port_of_carries hp _ _)

/-- Settles O1: each move is one emission of its station; SEL reads P, then the port that P chooses. -/
theorem movesEmitTheirToken : Obligations.MovesEmitTheirToken := by
  intro s c
  refine ⟨fun f a h ha => ?mov, fun f a h ha => ?mov4, fun f h => ?limm, fun f a h ha => ?orhi, fun f h => ?null,
    fun f p h hp => ⟨fun d hd => ?sel, fun hn => ?selNull⟩, fun f h hn => ?selNullP⟩
  case mov => exact station1_of_fires_nil h ha _ _
  case mov4 => exact station1_of_fires_nil h ha _ _
  case limm =>
    rw [← sextN_bitVec]
    exact station0_of_fires h _
  case orhi =>
    rw [← orhi_eq_or]
    exact station1_of_fires_nil h ha _ _
  case null => exact station0_of_fires h _
  case sel => exact (exec_sel_of_carries h hp).trans (port_of_carries hd _ _)
  case selNull =>
    rw [exec_sel_of_carries h hp, hn]
    rfl
  case selNullP =>
    refine (fire_of_fires h _).trans ?_
    rw [hn]
    rfl

/-! ### Registers, CSRs and recorded faults (O2, O4) -/

/-- READ's value: its own block's address for BA, else the register after the older blocks (R157, R158). -/
theorem exec_read {s : State} {c : Ctx} {f : FRead} (h : s.Fires c f.pr)
    (hfix : ∀ o ∈ c.sl.olderOf c.inst, o.blocksRead f.reg = false) :
    exec (.read f) s = .next (c.sent [f.t0, f.t1] (some (
      if f.reg = .ba then .int c.inst.ba else ((c.sl.olderOf c.inst).foldl applyWs c.strand).read f.reg))) := by
  have hmay : (!(c.sl.olderOf c.inst).any fun o => o.blocksRead f.reg) = true := by simpa using hfix
  refine (fire_of_fires h _).trans ((need_of hmay _).trans ?_)
  cases f.reg <;> rfl

/-- Settles O2: READ and the CSR reads wait for the older blocks, and a CSR write is queued. -/
theorem registerReadsAndWritesFire : Obligations.RegisterReadsAndWritesFire := by
  intro s c
  refine ⟨fun f h hfix => exec_read h hfix, fun f h hold => ?csrr, fun f a h ha => ?csrw, fun f a h ha hold => ?csrx⟩
  case csrr => exact (station0_of_fires h _).trans (need_of hold _)
  case csrw => exact station1_of_fires_nil h ha _ _
  case csrx => exact (station1_of_fires_nil h ha _ _).trans (need_of hold _)

/-- Settles O4: both record their fault as the body of their station. -/
theorem trapAndBreakRecordTheirFault : Obligations.TrapAndBreakRecordTheirFault := by
  intro s c
  exact ⟨fun f h => station0_of_fires h _, fun f h => station0_of_fires h _⟩

/-! ### Forks (O5) -/

/-- A fork handle that none of the slot's handles equals is borne by no live record (R168). -/
theorem Slot.handle_ne_of_fresh {sl : Slot} {h : Nat} (hh : h ∉ sl.forkHandles) : ∀ r ∈ sl.forks, r.handle ≠ h := by
  rintro r hr rfl
  exact hh (List.mem_append_left _ (List.mem_map_of_mem hr))

/-- The firing of FORK and SPAWN queues its fork under a fresh handle, and emits the handle (R168). -/
theorem Ctx.fork_emits (c : Ctx) (f : FFork) (n bound : Nat) :
    ∃ h, (∀ r ∈ c.sl.forks, r.handle ≠ h) ∧
      c.fork f n bound = .next (({ c with s := { c.s with freeCtr := c.s.freeCtr + 1 } } : Ctx).queued
        (.fork n bound (c.inst.offsAddr f.offs) h) [f.t0, f.t1] (some (.int h))) :=
  ⟨freshFrom c.sl.forkHandles (c.s.draw (2 ^ 32)).1, Slot.handle_ne_of_fresh (freshFrom_not_mem _ _), rfl⟩

/-- The bound of a fork: K from 1 to 32, and 32 for any other (R168). -/
theorem forkBound_eq (k : Nat) : (if k = 0 ∨ 32 < k then 32 else k) = if 1 ≤ k ∧ k ≤ 32 then k else 32 := by
  split <;> split <;> omega

/-- Settles O5: FORK and SPAWN share the firing that takes a fresh handle. -/
theorem forkEmitsAFreshHandle : Obligations.ForkEmitsAFreshHandle := by
  intro s c f h
  rw [← Inst.offsAddr_eq]
  refine ⟨fun a b ha hb => ?fork, ?spawn⟩
  case fork =>
    obtain ⟨x, hfresh, hx⟩ := c.fork_emits f (min a.u64 0xFFFFFFFF) (if b.u64 = 0 ∨ 32 < b.u64 then 32 else b.u64)
    refine ⟨x, hfresh, (station2_of_fires_nil h ha hb _ _).trans (hx.trans ?_)⟩
    rw [forkBound_eq]
  case spawn =>
    obtain ⟨x, hfresh, hx⟩ := c.fork_emits f 1 1
    exact ⟨x, hfresh, (station0_of_fires h _).trans hx⟩

/-! ### Waits of strands (O6) -/

section
variable {s : State} {c : Ctx} {a : Datum}

/-- REDT collects, or emits its contribution and queues it for commit (R173). -/
theorem exec_redt {f : FRedt} (h : s.Fires c f.pr) (ha : Carries c.m.a a) :
    exec (.redt f) s = if f.collect then .next (c.waiting 0 (.collect f.op a.u64))
      else .next (c.queued (.contribute (RedtVal f.op a)) [f.t0, f.t1] (some (RedtVal f.op a))) :=
  station1_of_fires_nil h ha _ _

variable {f : FWaitc}

theorem exec_waitc_of_none (h : s.Fires c f.pr) (ha : Carries c.m.a a) (hn : c.s.handleState c.sl.chair a.u64 = none) :
    exec (.waitc f) s = .next (c.s.waitcNone c.core c.slot c.age f.report [f.t0, f.t1]) := by
  refine (station1_of_fires_nil h ha _ _).trans ?_
  simp only [hn]

theorem exec_waitc_of_done {w : Word} (h : s.Fires c f.pr) (ha : Carries c.m.a a)
    (hd : c.s.handleState c.sl.chair a.u64 = some (some w)) :
    exec (.waitc f) s = .next (c.s.waitcEmit c.core c.slot c.age c.sl.chair a.u64 f.report [f.t0, f.t1] w) := by
  refine (station1_of_fires_nil h ha _ _).trans ?_
  simp only [hd]

theorem exec_waitc_of_pending (h : s.Fires c f.pr) (ha : Carries c.m.a a)
    (hp : c.s.handleState c.sl.chair a.u64 = some none) :
    exec (.waitc f) s = .next (c.waiting 0 (.waitc a.u64 f.report)) := by
  refine (station1_of_fires_nil h ha _ _).trans ?_
  simp only [hp]
  rfl

end

/-- Settles O6: JOIN and a collect wait, a contribution is queued, and WAITC goes by what its handle names. -/
theorem strandWaitsFire : Obligations.StrandWaitsFire := by
  intro s c a ha
  refine ⟨fun f h => station1_of_fires_nil h ha _ _, fun f h => ⟨fun hc => ?collect, fun hc => ?contribute⟩,
    fun f h => ⟨fun hn => ⟨fun hr => ?noneReport, fun hr => ?noneTrap⟩,
      fun w hd => ⟨fun hr => ?emits, fun hr hf => ?raises⟩, fun hp => exec_waitc_of_pending h ha hp⟩⟩
  case collect => rw [exec_redt h ha, if_pos hc]
  case contribute => rw [exec_redt h ha, if_neg (by simp [hc])]
  case noneReport =>
    rw [exec_waitc_of_none h ha hn, hr]
    rfl
  case noneTrap =>
    rw [exec_waitc_of_none h ha hn, hr]
    rfl
  case emits =>
    rw [exec_waitc_of_done h ha hd, State.waitcEmit_of_read _ _ _ _ _ _ _ hr]
    rfl
  case raises =>
    rw [exec_waitc_of_done h ha hd, State.waitcEmit_of_fault _ _ _ _ _ _ _ hr hf]
    rfl

/-! ### Compares (O7) -/

section
variable {s : State} {c : Ctx} {a b : Datum} {i : Instr}

/-- A compare of A and B that is its relation emits the relation (R178). -/
theorem cmp2_emits {f : FA} {v : (w : Nat) → (sa sb : Int) → (ua ub : Nat) → Bool} {p : Bool} (h : s.Fires c f.pr)
    (ha : Carries c.m.a a) (hb : Carries c.m.b b) (hi : exec i s = cmp2 f s v)
    (hp : v f.w.bits (a.sintOf f.w.bits) (b.sintOf f.w.bits) (a.uintOf f.w.bits) (b.uintOf f.w.bits) = p) :
    exec i s = .next (c.sent [f.t0, f.t1] (some (.int (if p then 1 else 0)))) := by
  rw [hi, ← hp]
  exact station2_of_fires_nil h ha hb _ _

/-- A compare of A with the immediate that is its relation emits the relation; the immediate is the integer of its bits, or
that reduced to the width (R178). -/
theorem cmpI_emits {f : FI} {v : (w : Nat) → (sa i : Int) → (ua ui : Nat) → Bool} {p : Bool} (h : s.Fires c f.pr)
    (ha : Carries c.m.a a) (hi : exec i s = cmpI f s v)
    (hp : v f.w.bits (a.sintOf f.w.bits) f.imm.toInt (a.uintOf f.w.bits) (f.imm.toInt % 2 ^ f.w.bits).toNat = p) :
    exec i s = .next (c.sent [f.t0, f.t1] (some (.int (if p then 1 else 0)))) := by
  rw [hi, ← hp, ← sint_bitVec, ← wrapN_eq]
  exact station1_of_fires_nil h ha _ _

end

/-- Settles O7: each compare is its relation over the shared firing. -/
theorem comparesEmitTheirRelation : Obligations.ComparesEmitTheirRelation := by
  intro s c a ha
  refine ⟨fun f b h hb => ?pair, fun f h => ?imm⟩
  case pair =>
    have emits {i : Instr} {v : (w : Nat) → (sa sb : Int) → (ua ub : Nat) → Bool} {p : Bool} :=
      cmp2_emits (i := i) (v := v) (p := p) h ha hb
    exact ⟨emits (.refl (execTeq f s)) rfl, emits (.refl (execTne f s)) (decide_not ..).symm, emits (.refl (execTlt f s)) rfl,
      emits (.refl (execTle f s)) rfl, emits (.refl (execTltu f s)) rfl, emits (.refl (execTleu f s)) rfl⟩
  case imm =>
    have emits {i : Instr} {v : (w : Nat) → (sa i : Int) → (ua ui : Nat) → Bool} {p : Bool} :=
      cmpI_emits (i := i) (v := v) (p := p) h ha
    exact ⟨emits (.refl (execTeqi f s)) rfl, emits (.refl (execTnei f s)) (decide_not ..).symm, emits (.refl (execTlti f s)) rfl,
      emits (.refl (execTlei f s)) rfl, emits (.refl (execTgti f s)) rfl, emits (.refl (execTgei f s)) rfl,
      emits (.refl (execTltui f s)) rfl, emits (.refl (execTgtui f s)) rfl⟩

/-! ### Integers (O8, O9) -/

/-- The remainder of the division truncated toward zero; A itself where B is 0 (R180). -/
theorem sub_mul_divS (x y : Int) : x - y * divS x y = if y = 0 then x else x.tmod y := by
  rw [divS]
  split
  · next hy => rw [hy, Int.zero_mul, Int.sub_zero]
  · exact (Int.tmod_def x y).symm

/-- Unsigned division as an integer: all ones where B is 0 (R180). -/
theorem natCast_divU (w x y : Nat) : (divU w x y : Int) = if y = 0 then 2 ^ w - 1 else ((x / y : Nat) : Int) := by
  rw [divU]
  split
  · push_cast [Nat.one_le_two_pow]
    rfl
  · rfl

/-- The unsigned remainder; A itself where B is 0 (R180). -/
theorem sub_mul_divU (w x y : Nat) : (x : Int) - y * divU w x y = if y = 0 then (x : Int) else ((x % y : Nat) : Int) := by
  rw [divU]
  split
  · next hy => rw [hy, Nat.cast_zero, Int.zero_mul, Int.sub_zero]
  · rw [Int.natCast_mod, Int.emod_def, Int.natCast_div]

/-- A bitwise operation on a signed view and an immediate is the operation on their patterns (R180). -/
theorem bitOp_sintOf_imm (op : Nat → Nat → Nat) (w : Nat) (a : Datum) (i : Int) :
    bitOp op w (a.sintOf w) i = (op (a.uintOf w) (wrapN i w) : Nat) := by
  rw [bitOp, Datum.wrapN_sintOf]

/-- ANDN takes the complement of B's pattern (R180). -/
theorem bitOp_sintOf_not (op : Nat → Nat → Nat) (w : Nat) (a b : Datum) :
    bitOp op w (a.sintOf w) (-(b.sintOf w) - 1) = (op (a.uintOf w) (2 ^ w - 1 - b.uintOf w) : Nat) := by
  rw [bitOp, Datum.wrapN_sintOf, Datum.wrapN_not]

section
variable {s : State} {c : Ctx} {a b : Datum} {i : Instr}

/-- An integer operation of A and B whose value is `x` emits it at width W (R180). -/
theorem intOp2_emits {f : FA} {v : (w : Nat) → (sa sb : Int) → (ua ub : Nat) → Int} {x : Int} (h : s.Fires c f.pr)
    (ha : Carries c.m.a a) (hb : Carries c.m.b b) (hi : exec i s = intOp2 f s v)
    (hx : v f.w.bits (a.sintOf f.w.bits) (b.sintOf f.w.bits) (a.uintOf f.w.bits) (b.uintOf f.w.bits) = x) :
    exec i s = .next (c.sent [f.t0, f.t1] (some (.intResult x f.w.bits))) := by
  rw [hi, ← hx]
  exact station2_of_fires_nil h ha hb _ _

/-- An integer operation of A alone whose value is `x` emits it at width W (R180). -/
theorem intOp1_emits {f : FA} {v : (w : Nat) → Int → Nat → Int} {x : Int} (h : s.Fires c f.pr) (ha : Carries c.m.a a)
    (hi : exec i s = intOp1 f s v) (hx : v f.w.bits (a.sintOf f.w.bits) (a.uintOf f.w.bits) = x) :
    exec i s = .next (c.sent [f.t0, f.t1] (some (.intResult x f.w.bits))) := by
  rw [hi, ← hx]
  exact station1_of_fires_nil h ha _ _

/-- An integer operation of A and the immediate whose value is `x` emits it at width W (R180). -/
theorem intOpI_emits {f : FI} {v : (w : Nat) → (sa i : Int) → (ua : Nat) → Int} {x : Int} (h : s.Fires c f.pr)
    (ha : Carries c.m.a a) (hi : exec i s = intOpI f s v)
    (hx : v f.w.bits (a.sintOf f.w.bits) f.imm.toInt (a.uintOf f.w.bits) = x) :
    exec i s = .next (c.sent [f.t0, f.t1] (some (.intResult x f.w.bits))) := by
  rw [hi, ← hx, ← sint_bitVec]
  exact station1_of_fires_nil h ha _ _

/-- ABS and NEG: an integer's value, or an element with its sign changed (R180, R181). -/
theorem absNeg_of_fires {f : FA} (h : s.Fires c f.pr) (ha : Carries c.m.a a) (abs : Bool) :
    absNeg f s abs = if a.tag = .int
      then .next (c.sent [f.t0, f.t1] (some (.intResult
        (if abs then (a.sintOf f.w.bits).natAbs else -(a.sintOf f.w.bits)) f.w.bits)))
      else .next (c.sent [f.t0, f.t1] (some (.scalar a.tag (signOp a.tag abs a.elem)))) :=
  station1_of_fires_nil h ha _ _

end

/-- Settles O8: each operation is its row of the table, where its value as the model writes it is the row's. -/
theorem integerPairsCompute : Obligations.IntegerPairsCompute := by
  intro s c f a b h ha hb w sa sb ua ub sh emits
  have row {i : Instr} {v : (w : Nat) → (sa sb : Int) → (ua ub : Nat) → Int} {x : Int} :=
    intOp2_emits (i := i) (v := v) (x := x) h ha hb
  refine ⟨row (.refl (execAdd f s)) rfl, row (.refl (execSub f s)) rfl, row (.refl (execMul f s)) rfl,
    row (.refl (execMulh f s)) ?mulh, row (.refl (execMulhu f s)) rfl, row (.refl (execDiv f s)) rfl,
    row (.refl (execDivu f s)) (natCast_divU _ _ _), row (.refl (execRem f s)) (sub_mul_divS _ _),
    row (.refl (execRemu f s)) (sub_mul_divU _ _ _), row (.refl (execAnd f s)) (bitOp_sintOf _ _ _ _),
    row (.refl (execOr f s)) (bitOp_sintOf _ _ _ _), row (.refl (execXor f s)) (bitOp_sintOf _ _ _ _),
    row (.refl (execAndn f s)) (bitOp_sintOf_not _ _ _ _), row (.refl (execShl f s)) rfl, row (.refl (execShr f s)) rfl,
    row (.refl (execSra f s)) ?sra, row (.refl (execRotl f s)) rfl, row (.refl (execMin f s)) rfl,
    row (.refl (execMax f s)) rfl, row (.refl (execMinu f s)) (Nat.cast_min _ _).symm,
    row (.refl (execMaxu f s)) (Nat.cast_max _ _).symm⟩
  case mulh => rw [Nat.cast_pow, Nat.cast_ofNat]
  case sra => rw [Nat.cast_pow, Nat.cast_ofNat]

/-- Settles O9: the operations of A alone, ABS and NEG by A's tag, and the register forms on an immediate. -/
theorem integerSinglesCompute : Obligations.IntegerSinglesCompute := by
  intro s c a ha
  refine ⟨fun f h => ⟨?clz, ?ctz, ?popc, ?sext, station1_of_fires_nil h ha _ _, fun ht => ⟨?absInt, ?negInt⟩,
    fun ht => ⟨?absFloat, ?negFloat⟩⟩, fun f h => ?imm⟩
  case clz => exact intOp1_emits h ha (.refl (execClz f s)) rfl
  case ctz => exact intOp1_emits h ha (.refl (execCtz f s)) rfl
  case popc => exact intOp1_emits h ha (.refl (execPopc f s)) rfl
  case sext => exact intOp1_emits h ha (.refl (execSext f s)) rfl
  case absInt => exact (absNeg_of_fires h ha true).trans (if_pos ht)
  case negInt => exact (absNeg_of_fires h ha false).trans (if_pos ht)
  case absFloat => exact (absNeg_of_fires h ha true).trans (if_neg ht)
  case negFloat => exact (absNeg_of_fires h ha false).trans (if_neg ht)
  case imm =>
    intro w sa ua i u emits
    have row {x : Instr} {v : (w : Nat) → (sa i : Int) → (ua : Nat) → Int} {y : Int} :=
      intOpI_emits (i := x) (v := v) (x := y) h ha
    have hu : wrapN i w = u := wrapN_eq i w
    refine ⟨row (.refl (execAddi f s)) rfl, row (.refl (execMuli f s)) rfl, row (.refl (execAndi f s)) ?_,
      row (.refl (execOri f s)) ?_, row (.refl (execXori f s)) ?_, row (.refl (execShli f s)) ?_,
      row (.refl (execShri f s)) ?_, row (.refl (execSrai f s)) ?_⟩
    · exact hu ▸ bitOp_sintOf_imm _ _ _ _
    · exact hu ▸ bitOp_sintOf_imm _ _ _ _
    · exact hu ▸ bitOp_sintOf_imm _ _ _ _
    · rw [← hu]
    · rw [← hu]
    · rw [← hu, Nat.cast_pow, Nat.cast_ofNat]

/-! ### Addresses and conversions (O10) -/

/-- Settles O10: each is one result of its station, AGEN's reduced to 64 bits and CVTFI's by its sign form. -/
theorem addressAndConversionResults : Obligations.AddressAndConversionResults := by
  intro s c a ha
  refine ⟨fun f b h hb => ?agen, fun f h hf => ?cvtif, fun f h => ?cvtfi, fun f h hf => ?ftest⟩
  case agen =>
    have hshift : ((2 : Int) ^ f.sh.toNat) = ((2 ^ f.sh.toNat : Nat) : Int) := by rw [Nat.cast_pow, Nat.cast_ofNat]
    rw [← sint_bitVec, hshift, ← wrapN_eq]
    exact station2_of_fires_nil h ha hb _ _
  case cvtif => exact station1_of_fires h (by simpa using hf) ha _ _
  case cvtfi =>
    have e : exec (.cvtfi f) s = _ := station1_of_fires_nil h ha _ _
    refine ⟨fun hu => e.trans ?_, fun hs => e.trans ?_⟩
    · simp only [hu, if_true, Ctx.out_eq, Nat.cast_pow, Nat.cast_ofNat]
    · simp only [hs, Bool.false_eq_true, if_false, Ctx.out_eq, Nat.cast_pow, Nat.cast_ofNat]
  case ftest => exact station1_of_fires h (by simpa using hf) ha _ _

end Sys2Proof.Machine

/-! PROOFS. Local accesses, wide loads, fences and generation waits as they fire (O14, O17, O18). -/

namespace Sys2Proof.Machine
open Sys2Proof

/-- Settles O14: each is one shared local access, of its own size and form. -/
theorem localAccessesFire : Obligations.LocalAccessesFire := by
  intro s c a ha
  exact ⟨fun f h hl => (loadLocal_accesses ha h).acts_of_free hl, fun f h hl => (loadLocal_accesses ha h).acts_of_free hl,
    fun b hb => ⟨fun f h hl => (storeLocalOp_accesses ha h hb).acts_of_free hl,
      fun f h hl => (storeLocalOp_accesses ha h hb).acts_of_free hl⟩⟩

/-- TFETCH of a reserved format raises FORMAT_RESERVED before its address is looked at (R215). -/
theorem exec_tfetch_of_reserved {s : State} {c : Ctx} {f : FTfetch} (h : s.Fires c f.pr) (hf : f.fmt.isReserved = true) :
    exec (.tfetch f) s = .next (c.faulted (.plain FC.formatReserved)) :=
  (fire_of_fires h _).trans (withFmt_of_reserved List.mem_cons_self hf _ _)

/-- What SEQRD checks before its access: its sequence is one that a chair can have, and one that its chair has (R277). -/
theorem exec_seqrd_refusals {s : State} {c : Ctx} {f : FSeqrd} {a : Datum} (h : s.Fires c f.pr) (ha : Carries c.m.a a) :
    (2 ^ 20 ≤ a.u64 → exec (.seqrd f) s = .next (c.faulted (.plain FC.reservedField))) ∧
    (a.u64 < 2 ^ 20 → bits (c.s.chair c.sl.chair).chseqn.toNat 0 21 ≤ a.u64 →
      exec (.seqrd f) s = .next (c.faulted (.access FC.protection f.lsid.toNat 0))) := by
  have e : exec (.seqrd f) s = _ := station1_of_fires h (by simp) ha _ _
  exact ⟨fun hbig => e.trans (if_pos hbig), fun hlt hn => e.trans ((if_neg hlt.not_ge).trans (if_pos hn))⟩

/-- PREF emits 0 and leaves all else as it is, with no check of its address or of any tag (R214). -/
theorem exec_pref_emits {s : State} {c : Ctx} {f : FPref} {a : Datum} (h : s.FiresAny c f.pr) (ha : Carries c.m.a a) :
    exec (.pref f) s = .next (c.sent [f.t0, f.t1] (some (.int 0))) :=
  (fireAny_of_fires h _).trans (port_of_carries ha _ _)

/-- Settles O17: each load is the access that it shares with O16, where its own checks let it be one. -/
theorem wideLoadsFire : Obligations.WideLoadsFire := by
  intro s c a ha
  refine ⟨fun f h hl => (exec_gath_accesses ha h).acts_of_free hl, fun f h => ⟨exec_tfetch_of_reserved h, fun hf hl => ?tfetch⟩,
    fun f h => ?seqrd, fun f h => exec_pref_emits h ha⟩
  case tfetch => exact (exec_tfetch_accesses ha h hf).acts_of_free hl
  case seqrd =>
    obtain ⟨hfield, hprot⟩ := exec_seqrd_refusals h ha
    exact ⟨hfield, hprot, fun hlt hn hl => (exec_seqrd_accesses ha h hlt hn).acts_of_free hl⟩

/-- FENCE takes its place in its block and waits (R206). -/
theorem exec_fence_waits {s : State} {c : Ctx} {f : FFence} (h : s.Fires c f.pr) :
    exec (.fence f) s = .next ((c.mod fun i => { i with fences := i.fences ++ [⟨f.lsid.toNat, f.kind, f.sc⟩] }).waiting
      f.lsid.toNat (.fence f.kind f.sc)) := fire_of_fires h _

/-- WAITG is checked as a local access of its sync word, then waits (R188, R213). -/
theorem exec_waitg_acts {s : State} {c : Ctx} {f : FWaitg} {a b : Datum} (h : s.Fires c f.pr) (ha : Carries c.m.a a)
    (hb : Carries c.m.b b) : LocalActs (exec (.waitg f) s) c f.lsid.toNat (effAddr a f.disp.toInt) 16 16 fun o =>
      o = .next (c.waiting f.lsid.toNat (.waitg (effAddr a f.disp.toInt) (b.u64 % 2 ^ 24) f.sc)) := by
  have e : exec (.waitg f) s = _ := station2_of_fires h (by simp) ha hb _ _
  rw [e, sint_bitVec]
  exact Ctx.local_acts rfl

/-- Settles O18: both wait, WAITG behind the checks of a local access. -/
theorem fenceAndGenerationWaitsFire : Obligations.FenceAndGenerationWaitsFire := by
  intro s c
  exact ⟨fun f h => exec_fence_waits h, fun f a b h ha hb => exec_waitg_acts h ha hb⟩

end Sys2Proof.Machine

/-! PROOFS. Held faults, their records and their answers, and poison (O55). -/

namespace Sys2Proof.Machine
open Sys2Proof

/-! ### Values read beside a write (R4) -/

theorem Memory.read_congr {m m' : Memory} {a n : Nat} (h : ∀ j < n, m.get (a + j) = m'.get (a + j)) : m.read a n = m'.read a n := by
  induction n generalizing a with
  | zero => rfl
  | succ n ih =>
    have htail : m.read (a + 1) n = m'.read (a + 1) n := ih fun j hj => by
      rw [Nat.add_assoc, Nat.add_comm 1]
      exact h (j + 1) (by omega)
    have hhead : m.get a = m'.get a := h 0 (by omega)
    rw [Memory.read, Memory.read, htail, hhead]

/-- A doubleword written reads back. -/
theorem Memory.read_write_dw {m : Memory} (hw : m.wf = true) (a : Nat) {v : Nat} (hv : v < 2 ^ 64) :
    (m.write a 8 v).read a 8 = v := (Memory.read_write hw a 8 v).trans (Nat.mod_eq_of_lt hv)

/-- A value outside the bytes written reads as before. -/
theorem Memory.read_write_other {m : Memory} (hw : m.wf = true) {a n b k : Nat} (v : Nat) (h : b + k ≤ a ∨ a + n ≤ b) :
    (m.write a n v).read b k = m.read b k :=
  Memory.read_congr fun _ _ => Memory.get_write_other hw v (by omega)

/-! ### A record pushed to a ring (R324, R348) -/

theorem State.hbm_hpaWrite (s : State) (a n v : Nat) : (s.hpaWrite a n v).hbm = s.hbm.write a n v := rfl

/-- Doublewords written one after another from an address. -/
def State.putDws (s : State) (a : Nat) (dws : List Word) (n : Nat) : State :=
  (List.range n).foldl (fun s i => s.hpaWrite (a + 8 * i) 8 (dws.getD i 0).toNat) s

theorem State.ringPush_eq (s : State) (base lg : Nat) (dws : List Word) : s.ringPush base lg dws =
    (s.putDws (base + 64 + 32 * (s.hbm.read base 8 % 2 ^ lg)) dws 4).hpaWrite base 8 ((s.hbm.read base 8 + 1) % 2 ^ 64) := rfl

theorem State.putDws_succ (s : State) (a : Nat) (dws : List Word) (n : Nat) :
    s.putDws a dws (n + 1) = (s.putDws a dws n).hpaWrite (a + 8 * n) 8 (dws.getD n 0).toNat := by
  rw [State.putDws, List.range_succ, List.foldl_append]
  rfl

theorem State.wf_putDws {s : State} (hw : s.hbm.wf = true) (a : Nat) (dws : List Word) (n : Nat) :
    (s.putDws a dws n).hbm.wf = true :=
  foldl_keeps (P := fun r => r.hbm.wf = true) (fun _ _ h => Memory.write_wf h _ _ _) _ _ hw

/-- Each doubleword put reads back. -/
theorem State.read_putDws {s : State} (hw : s.hbm.wf = true) (a : Nat) (dws : List Word) {n i : Nat} (hi : i < n) :
    (s.putDws a dws n).hbm.read (a + 8 * i) 8 = (dws.getD i 0).toNat := by
  induction n with
  | zero => omega
  | succ n ih =>
    have hm := State.wf_putDws hw a dws n
    rw [State.putDws_succ]
    obtain rfl | hlt : i = n ∨ i < n := by omega
    · exact Memory.read_write_dw hm _ (dws.getD i 0).isLt
    · exact (Memory.read_write_other hm _ (by omega)).trans (ih hlt)

theorem State.memOnly_ringPush (s : State) (base lg : Nat) (dws : List Word) : s.MemOnly (s.ringPush base lg dws) :=
  (State.MemOnly.foldl (fun r _ => r.memOnly_hpaWrite _ _ _) _ s).trans (State.memOnly_hpaWrite _ _ _ _)

/-- PI of a ring steps with a record pushed. -/
theorem State.count_ringPush {s : State} (hw : s.hbm.wf = true) (base lg : Nat) (dws : List Word) :
    (s.ringPush base lg dws).hbm.read base 8 = (s.hbm.read base 8 + 1) % 2 ^ 64 := by
  rw [State.ringPush_eq, State.hbm_hpaWrite, Memory.read_write_dw (State.wf_putDws hw _ _ _) _ (Nat.mod_lt _ (by decide))]

/-- A record pushed stands at the place of PI. -/
theorem State.record_ringPush {s : State} (hw : s.hbm.wf = true) (base lg : Nat) (dws : List Word) {i a : Nat} (hi : i < 4)
    (ha : a = base + 64 + 32 * (s.hbm.read base 8 % 2 ^ lg) + 8 * i) :
    (s.ringPush base lg dws).hbm.read a 8 = (dws.getD i 0).toNat := by
  rw [State.ringPush_eq, State.hbm_hpaWrite, Memory.read_write_other (State.wf_putDws hw _ _ _) _ (by omega), ha,
    State.read_putDws hw _ _ hi]

/-! ### Parts of a core -/

/-- A core that has something on a list that is empty at reset lies in the package. -/
theorem State.core_lt_of_entry {α : Type} {s : State} {c n : Nat} {x : α} (p : Core → List α) (hp : p .reset = [])
    (h : (p (s.core c))[n]? = some x) : c < s.cores.length := by
  by_contra hc
  rw [s.core_none (Nat.le_of_not_lt hc), hp] at h
  cases h

/-- A core that is changed and counts an error. -/
theorem State.core_modErr_modCore {s : State} {c : Nat} (hc : c < s.cores.length) (f : Core → Core) (n : Nat) (g : ErrRec → ErrRec) :
    ((s.modCore c f).modErr c n g).core c = { f (s.core c) with errs := (f (s.core c)).errs.modify n g } := by
  rw [State.modErr, State.core_modCore _ _ _ (by simpa using hc), State.core_modCore _ _ _ hc]

/-! ### A held fault is recorded (R197, R324) -/

/-- A fault id taken is none of those in use. -/
theorem freshId_not_mem {used : List Nat} (hlen : used.length < 2 ^ 32) (x : Nat) : freshId used x ∉ used := by
  unfold freshId
  split
  · next i hi => simpa using List.find?_some hi
  · next hnone =>
    have hsub : (List.range (used.length + 1)).map (fun i => (x + i) % 2 ^ 32) ⊆ used := by
      intro y hy
      obtain ⟨i, hi, rfl⟩ := List.mem_map.mp hy
      simpa using List.find?_eq_none.mp hnone i hi
    have hnd : ((List.range (used.length + 1)).map fun i => (x + i) % 2 ^ 32).Nodup := by
      refine List.Nodup.map_on (fun i hi j hj h => ?_) List.nodup_range
      rw [List.mem_range] at hi hj
      omega
    have hle := (hnd.subperm hsub).length_le
    simp at hle

theorem freshId_lt (used : List Nat) (x : Nat) : freshId used x < 2 ^ 32 := by
  unfold freshId
  split <;> exact Nat.mod_lt _ (by decide)

/-- A held fault with no id whose block is the oldest of its strand is eligible (R35, R197). -/
theorem Core.eligible_of {k : Core} {h : Held} {sl : Slot} {i : Inst} (hs : k.slot? h.slot = some sl)
    (hi : sl.inst? h.age = some i) (hold : sl.isOldest i = true) (hf : h.fid = none) : k.eligible h = true := by
  simp [Core.eligible, hs, hi, hold, hf]

/-- The last doubleword of a fault's record: its id, core, slot, kind of access, LSID and stage (R324). -/
def Held.recordWord (h : Held) (core fid : Nat) : Nat :=
  fid * 2 ^ 32 + core * 2 ^ 24 + h.slot * 2 ^ 22 + bnat h.wr * 2 ^ 21 + h.lsid * 2 ^ 16 + h.stage

/-- The record of a held fault of a strand's block (R324). -/
def Held.record (h : Held) (core fid : Nat) (t : Strand) (i : Inst) : List Word :=
  [t.tag, BitVec.ofNat 64 i.ba, BitVec.ofNat 64 h.va, BitVec.ofNat 64 (h.recordWord core fid)]

/-- The state once a held fault has taken its id, its record still to be written. -/
def State.numbered (s : State) (core n : Nat) (h : Held) (fid base : Nat) : State :=
  (s.modCore core fun k => { k with held := k.held.set n { h with fid := some fid } }).noteRing base

section
variable {s r : State} {core n base lg x : Nat} {h : Held} {sl : Slot} {i : Inst} {t : Strand}
  (hh : (s.core core).held[n]? = some h) (hs : s.slot? core h.slot = some sl) (hi : sl.inst? h.age = some i)
  (ht : sl.strand? i.uid = some t) (hr : ringOf (s.chair sl.chair).chfq = some (base, lg)) (hf : h.fid = none)
  (hold : sl.isOldest i = true)
  (hfirst : ∀ x ∈ (s.core core).held.take n, Config.memoryPort x.k = Config.memoryPort h.k → (s.core core).eligible x = false)
  (hroom : s.ringUsed base < 2 ^ lg)
include hh hs hi ht hr hf hold hfirst hroom

/-- The first eligible fault of its port takes a free id, and its record is pushed to its chair's queue. -/
theorem execFaultQueueRecord_eq (hd : s.draw (2 ^ 32) = (x, r)) : execFaultQueueRecord core n s =
    .next ((r.numbered core n h (freshId (r.heldFids sl.chair) x) base).ringPush base lg
      (h.record core (freshId (r.heldFids sl.chair) x) t i)) := by
  have hport : ((s.core core).held.take n).any (fun x => (s.core core).eligible x &&
      decide (Config.memoryPort x.k = Config.memoryPort h.k)) = false := by
    rw [List.any_eq_false]
    intro x hx hboth
    obtain ⟨hel, hport⟩ := Bool.and_eq_true_iff.mp hboth
    rw [hfirst x hx (of_decide_eq_true hport)] at hel
    cases hel
  have hmay : ((s.core core).eligible h && !((s.core core).held.take n).any (fun x => (s.core core).eligible x &&
      decide (Config.memoryPort x.k = Config.memoryPort h.k)) && decide (s.ringUsed base < 2 ^ lg)) = true := by
    rw [Core.eligible_of hs hi hold hf, hport, decide_eq_true hroom]
    rfl
  rw [execFaultQueueRecord, hd]
  change needSome ((s.core core).held[n]?) _ = _
  rw [hh, needSome_some, hs, needSome_some, hi, needSome_some, ht, needSome_some, hr, needSome_some, need_of hmay]
  rfl

/-- The state whose ring takes the record has the memory of the one before it, and an id that is free. -/
theorem execFaultQueueRecord_pushes (hlen : (s.heldFids sl.chair).length < 2 ^ 32) :
    ∃ (v : State) (fid : Nat), execFaultQueueRecord core n s = .next (v.ringPush base lg (h.record core fid t i)) ∧ v.hbm = s.hbm ∧
      (v.core core).held = (s.core core).held.set n { h with fid := some fid } ∧ fid ∉ s.heldFids sl.chair ∧ fid < 2 ^ 32 := by
  rcases hd : s.draw (2 ^ 32) with ⟨x, r⟩
  have hr' : { s with freeCtr := s.freeCtr + 1 } = r := congrArg Prod.snd hd
  have hfids : r.heldFids sl.chair = s.heldFids sl.chair := by rw [← hr']; rfl
  have ho := execFaultQueueRecord_eq hh hs hi ht hr hf hold hfirst hroom hd
  rw [hfids] at ho
  refine ⟨_, _, ho, ?_, ?_, freshId_not_mem hlen x, freshId_lt _ x⟩
  · rw [← hr']
    rfl
  · rw [← hr']
    exact congrArg Core.held (State.core_modCore _ _ _ (State.core_lt_of_entry Core.held rfl hh))

end

/-! ### A held fault is answered (R197, R325, R332, R405) -/

/-- Passing a record changes memory, its poison and the count of errors at its stack alone. -/
theorem State.passRecord_rest (s : State) (core slot fid : Nat) : s.passRecord core slot fid =
    { s with
      hbm := (s.passRecord core slot fid).hbm, poison := (s.passRecord core slot fid).poison,
      stackErrs := (s.passRecord core slot fid).stackErrs } := by
  unfold State.passRecord
  split
  · unfold State.ringPop
    split <;> rfl
  · rfl

theorem State.core_passRecord (s : State) (core slot fid c : Nat) : (s.passRecord core slot fid).core c = s.core c := by
  rw [State.passRecord_rest]; rfl

theorem State.slot?_passRecord (s : State) (core slot fid c i : Nat) : (s.passRecord core slot fid).slot? c i = s.slot? c i := by
  rw [State.passRecord_rest]; rfl

/-- An answer to a fault that no port holds passes its record alone. -/
theorem execFaultAnswer_of_none {s : State} {core slot fid : Nat}
    (hnone : ∀ h ∈ (s.core core).held, ¬(h.slot = slot ∧ h.fid = some fid)) (wake : Bool) :
    execFaultAnswer core slot fid wake s = .next (s.passRecord core slot fid) := by
  have hfind : (s.core core).held.find? (fun h => h.slot = slot && h.fid = some fid) = none :=
    List.find?_eq_none.mpr (by simpa using hnone)
  simp only [execFaultAnswer, State.core_passRecord, hfind]
  cases (s.passRecord core slot fid).slot? core slot <;> rfl

/-- The state once a fault that was held has left its port. -/
def State.unheld (s : State) (core slot fid : Nat) (h : Held) : State :=
  (s.passRecord core slot fid).modCore core fun k => { k with held := k.held.erase h }

/-- The state once a held access may try again: a firing's match is ready again, anything else tries by itself (R197). -/
def State.retrying (s : State) (core : Nat) : HeldRet → State
  | .fire m => s.modCore core fun k => { k with ready := k.ready ++ [m] }
  | .again => s

/-- What the rules let the service answer: of stage 1 its own walk, of stage 2 no wake of a malformed entry (R332, R405). -/
theorem State.answerOk_of_may {s : State} {sl : Slot} {user : Bool} {nd : Need} {h : Held} {wake : Bool}
    (h1 : h.stage = 1 → s.stage1Ok sl user nd h.va = wake)
    (h2 : h.stage ≠ 1 → wake = true → s.stage2Bad sl user nd h.va = false) : s.answerOk sl user nd h wake = true := by
  unfold State.answerOk
  split
  · next hst => simp [h1 hst]
  · next hst =>
    cases wake with
    | false => rfl
    | true => simp [h2 hst rfl]

section
variable {s : State} {core slot fid : Nat} {h : Held} {sl : Slot} {i : Inst} {t : Strand}

theorem State.core_unheld (hc : core < s.cores.length) :
    (s.unheld core slot fid h).core core = { s.core core with held := (s.core core).held.erase h } := by
  rw [State.unheld, State.core_modCore, State.core_passRecord]
  rw [State.passRecord_rest]
  exact hc

theorem State.slot?_unheld (c j : Nat) : (s.unheld core slot fid h).slot? c j = s.slot? c j :=
  (State.slot?_modCore _ _ _ _ _ rfl).trans (s.slot?_passRecord _ _ _ _ _)

/-- A fault recorded against a block whose held fault has left its port. -/
theorem State.record_unheld (hs : s.slot? core slot = some sl) (hi : sl.inst? h.age = some i) (f : FaultRec) :
    (((s.unheld core slot fid h).record core slot h.age f).core core).held = (s.core core).held.erase h ∧
      ((s.unheld core slot fid h).record core slot h.age f).block? core slot h.age = some { i with faults := i.faults ++ [f] } := by
  have hs' : (s.unheld core slot fid h).slot? core slot = some sl := (State.slot?_unheld core slot).trans hs
  have hb : (s.unheld core slot fid h).block? core slot h.age = some i := by rw [State.block?, hs']; exact hi
  refine ⟨?_, (State.record_leaves hb f).2⟩
  rw [State.record, State.core_modInst _ _ _ _ _ (State.core_lt_of_slot hs'), State.core_unheld (State.core_lt_of_slot hs)]

variable (hs : s.slot? core slot = some sl)
  (hfind : (s.core core).held.find? (fun h => h.slot = slot && h.fid = some fid) = some h)
  (hi : sl.inst? h.age = some i) (ht : sl.strand? i.uid = some t)
include hs hfind hi ht

/-- An access that was held and is woken tries again (R197). -/
theorem execFaultAnswer_wakes (hw : i.words ≠ [])
    (hok : (s.passRecord core slot fid).answerOk sl (!t.priv) (if h.wr then .store else .load) h true = true) :
    execFaultAnswer core slot fid true s = .next ((s.unheld core slot fid h).retrying core h.ret) := by
  have hne : i.words.isEmpty = false := by simpa using hw
  simp only [execFaultAnswer, State.core_passRecord, State.slot?_passRecord, hs, hfind, hi, ht, needSome_some, hne,
    Bool.false_eq_true, if_false, need_of hok, if_true]
  cases h.ret <;> rfl

/-- A fetch that was held and is woken gives its window back, to be granted and fetched again. -/
theorem execFaultAnswer_refetches (hw : i.words = [])
    (hok : (s.passRecord core slot fid).answerOk sl (!t.priv) .fetch h true = true) :
    execFaultAnswer core slot fid true s = .next ((s.unheld core slot fid h).modSlot core slot fun x =>
      { x with insts := x.insts.filter (·.age ≠ h.age), grants := x.grants ++ [⟨i.uid, i.ba, i.win, false⟩] }) := by
  simp only [execFaultAnswer, State.core_passRecord, State.slot?_passRecord, hs, hfind, hi, ht, needSome_some, hw,
    List.isEmpty_nil, if_true, need_of hok]
  rfl

/-- A fetch that was held and is rejected raises TRANSLATION against its block. -/
theorem execFaultAnswer_rejects_fetch (hw : i.words = [])
    (hok : (s.passRecord core slot fid).answerOk sl (!t.priv) .fetch h false = true) :
    execFaultAnswer core slot fid false s =
      .next ((s.unheld core slot fid h).record core slot h.age ⟨FC.translation, true, 0, h.va, 0⟩) := by
  simp only [execFaultAnswer, State.core_passRecord, State.slot?_passRecord, hs, hfind, hi, ht, needSome_some, hw,
    List.isEmpty_nil, if_true, need_of hok]
  rfl

/-- An access that was held and is rejected, no load of a port, raises TRANSLATION at its LSID. -/
theorem execFaultAnswer_rejects (hw : i.words ≠ []) (hload : (s.core core).loadAt slot h.age h.k = none)
    (hok : (s.passRecord core slot fid).answerOk sl (!t.priv) (if h.wr then .store else .load) h false = true) :
    execFaultAnswer core slot fid false s =
      .next ((s.unheld core slot fid h).record core slot h.age (.access FC.translation h.lsid h.va)) := by
  have hne : i.words.isEmpty = false := by simpa using hw
  have hnone : ((s.unheld core slot fid h).core core).loads.findIdx? (fun l => l.slot = slot && l.age = h.age && l.k = h.k) = none := by
    rw [State.core_unheld (State.core_lt_of_slot hs)]
    exact List.findIdx?_eq_none_iff.mpr fun l hl => by simpa using List.find?_eq_none.mp hload l hl
  rw [State.unheld] at hnone
  simp only [execFaultAnswer, State.core_passRecord, State.slot?_passRecord, hs, hfind, hi, ht, needSome_some, hne,
    Bool.false_eq_true, if_false, need_of hok, hnone]
  rfl

end

/-! ### Poison (R308, R316, R393) -/

/-- A poisoned word joins those of memory once. -/
theorem State.mem_poisonHbm (s : State) (a w : Nat) : w ∈ (s.poisonHbm a).poison ↔ w = a / 8 ∨ w ∈ s.poison := List.mem_insert_iff

section
variable {s : State} {core n : Nat}

theorem execPoisonDetected_localMem {a : Nat} (hc : core < s.cores.length) (ha : a < 0x40000) :
    ∃ u, execPoisonDetected (.localMem core a) s = .next u ∧ (u.core core).mem = (s.core core).mem ∧
      ∀ w, w ∈ (u.core core).poison ↔ w = a / 8 ∨ w ∈ (s.core core).poison := by
  refine ⟨_, need_of (by simp [hc, ha]) _, ?_, fun w => ?_⟩
  · rw [State.core_modErr_modCore hc]
  · rw [State.core_modErr_modCore hc]
    exact List.mem_insert_iff

theorem execPoisonDetected_cabinet {t : NetTok} (ht : (s.core core).cab[n]? = some t) :
    ∃ u, execPoisonDetected (.cabinet core n) s = .next u ∧ (u.core core).cab = (s.core core).cab.set n { t with poison := true } := by
  refine ⟨_, by rw [execPoisonDetected, ht, needSome_some], ?_⟩
  rw [State.core_modErr_modCore (State.core_lt_of_entry Core.cab rfl ht)]

theorem execPoisonDetected_chest {t : NetTok} (ht : (s.core core).chest[n]? = some t) :
    ∃ u, execPoisonDetected (.chest core n) s = .next u ∧
      (u.core core).chest = (s.core core).chest.set n { t with poison := true } := by
  refine ⟨_, by rw [execPoisonDetected, ht, needSome_some], ?_⟩
  rw [State.core_modErr_modCore (State.core_lt_of_entry Core.chest rfl ht)]

/-- An uncorrectable word of a save image is a word of memory, where the second stage maps it. -/
theorem execPoisonDetected_image {off key : Nat} {x : SaveImage} {p : Perm} (hx : s.saves[n]? = some x) (hoff : off < imageSize)
    (hkey : stage2 s x.body.chair (x.area + off) = .ok (key, p)) :
    execPoisonDetected (.image n off) s = .next (s.poisonHbm key) := by
  rw [execPoisonDetected, hx, needSome_some, need_of (decide_eq_true hoff), hkey]

/-- An uncorrectable word of a decoded block is kept at its address, or at the lower one kept already. -/
theorem execPoisonDetected_decoded {k : Nat} {d : Decoded} (hd : (s.core core).code[n]? = some d) (hk : k < d.words.length + 2) :
    ∃ u va, execPoisonDetected (.decoded core n k) s = .next u ∧ va ≤ d.ba + 8 * k ∧ (d.poison = none → va = d.ba + 8 * k) ∧
      (u.core core).code = (s.core core).code.set n { d with poison := some va } := by
  refine ⟨_, min (d.ba + 8 * k) (d.poison.getD (d.ba + 8 * k)), by rw [execPoisonDetected, hd, needSome_some, need_of (decide_eq_true hk)],
    Nat.min_le_left _ _, fun hnone => ?_, ?_⟩
  · rw [hnone, Option.getD_none, Nat.min_self]
  · rw [State.core_modErr_modCore (State.core_lt_of_entry Core.code rfl hd)]

theorem execPoisonDetected_window {slot age k : Nat} {i : Inst} (hi : s.block? core slot age = some i) (hk : k < i.words.length) :
    ∃ u, execPoisonDetected (.window core slot age k) s = .next u ∧
      u.block? core slot age = some { i with bad := k :: i.bad } := by
  refine ⟨_, by rw [execPoisonDetected, show (s.slot? core slot).bind (·.inst? age) = some i from hi, needSome_some,
    need_of (decide_eq_true hk)], ?_⟩
  rw [State.block?, State.modErr, State.slot?_modCore _ _ _ _ _ rfl]
  exact State.block_modInst hi fun _ => rfl

end

/-! ### The statement -/

/-- A state that differs in memory alone has the same cores. -/
theorem State.MemOnly.core {s t : State} (h : s.MemOnly t) (c : Nat) : t.core c = s.core c := (congrArg (State.core · c) h :)

/-- Settles O55: a record is a push to the chair's ring, an answer by what was held and how it is answered, and poison by what
holds the word. -/
theorem heldFaultsAreAnswered : Obligations.HeldFaultsAreAnswered := by
  intro s core
  refine ⟨fun n h sl i t base lg hh hs hi ht hr hf hold hfirst hroom hw hlen => ?record, fun slot sl fid hs =>
    ⟨fun hnone wake => ⟨_, execFaultAnswer_of_none hnone wake, s.passRecord_rest core slot fid⟩,
      fun h i t hfind hi ht => ?answer⟩,
    fun a ha => ⟨_, need_of (decide_eq_true ha) _, rfl, s.mem_poisonHbm a⟩, fun a => execPoisonDetected_localMem,
    fun n t => execPoisonDetected_cabinet, fun n t => execPoisonDetected_chest,
    fun n off x key p hx hoff hkey => ⟨_, execPoisonDetected_image hx hoff hkey, rfl, s.mem_poisonHbm key⟩,
    fun n k d => execPoisonDetected_decoded, fun slot age k i => execPoisonDetected_window, rfl⟩
  case record =>
    obtain ⟨v, fid, ho, hhbm, hheld, hnew, hlt⟩ := execFaultQueueRecord_pushes hh hs hi ht hr hf hold hfirst hroom hlen
    have hv : v.hbm.wf = true := hhbm ▸ hw.1
    have hcount := State.count_ringPush hv base lg (h.record core fid t i)
    have hdw {k a : Nat} (hk : k < 4) (ha : a = base + 64 + 32 * (s.hbm.read base 8 % 2 ^ lg) + 8 * k) :
        (v.ringPush base lg (h.record core fid t i)).hbm.read a 8 = ((h.record core fid t i).getD k 0).toNat :=
      State.record_ringPush hv base lg _ hk (hhbm.symm ▸ ha)
    rw [hhbm] at hcount
    exact ⟨_, fid, ho, hnew, hlt, ((v.memOnly_ringPush _ _ _).core core).symm ▸ hheld, hcount,
      hdw (k := 0) (by decide) (Nat.add_zero _).symm, (hdw (k := 1) (by decide) rfl).trans (BitVec.toNat_ofNat _ _),
      (hdw (k := 2) (by decide) rfl).trans (BitVec.toNat_ofNat _ _),
      (hdw (k := 3) (by decide) rfl).trans (BitVec.toNat_ofNat _ _)⟩
  case answer =>
    intro passed nd may answers
    have hok {wake : Bool} (hmay : may wake) : passed.answerOk sl (!t.priv) nd h wake = true := State.answerOk_of_may hmay.1 hmay.2
    have hs' : (s.unheld core slot fid h).slot? core slot = some sl := (State.slot?_unheld core slot).trans hs
    have hc := State.core_lt_of_slot hs
    have hc' := State.core_lt_of_slot hs'
    refine ⟨fun hw => ?access, fun hw => ?fetch⟩
    case access =>
      have hnd : nd = if h.wr then .store else .load := if_neg hw
      rw [hnd] at hok
      refine ⟨fun m hret hmay => ?fire, fun hret hmay => ?again, fun hload hmay => ?reject⟩
      case fire =>
        refine ⟨_, execFaultAnswer_wakes hs hfind hi ht hw (hok hmay), ?_⟩
        have hcore : ((s.unheld core slot fid h).retrying core h.ret).core core =
            { s.core core with held := (s.core core).held.erase h, ready := (s.core core).ready ++ [m] } := by
          rw [hret, State.retrying, State.core_modCore _ _ _ hc', State.core_unheld hc]
        exact ⟨congrArg Core.held hcore, (congrArg Core.ready hcore :)⟩
      case again =>
        refine ⟨_, execFaultAnswer_wakes hs hfind hi ht hw (hok hmay), ?_⟩
        have hcore : ((s.unheld core slot fid h).retrying core h.ret).core core =
            { s.core core with held := (s.core core).held.erase h } := by
          rw [hret, State.retrying, State.core_unheld hc]
        exact ⟨congrArg Core.held hcore, (congrArg Core.ready hcore :)⟩
      case reject => exact ⟨_, execFaultAnswer_rejects hs hfind hi ht hw hload (hok hmay), State.record_unheld hs hi _⟩
    case fetch =>
      have hnd : nd = .fetch := if_pos hw
      rw [hnd] at hok
      refine ⟨fun hmay => ⟨_, execFaultAnswer_refetches hs hfind hi ht hw (hok hmay), ?_,
        (State.slot?_modSlot _ _ _ _).trans (congrArg (Option.map _) hs')⟩, fun hmay => ?_⟩
      · rw [State.core_modSlot _ _ _ _ hc', State.core_unheld hc]
      · exact ⟨_, execFaultAnswer_rejects_fetch hs hfind hi ht hw (hok hmay), State.record_unheld hs hi _⟩

end Sys2Proof.Machine

/-! PROOFS. Vector compares and reductions, lane movements and conversions, and vector integers (O23, O24, O25). -/

namespace Sys2Proof.Machine
open Sys2Proof

section
variable {s : State} {c : Ctx} {a b : Datum}

/-! ### Stations of lane operations -/

/-- A station with one format field, where that is no reserved code (R79). -/
theorem station1_of_fires_fmt {pr : Pred} {w : Fmt} (h : s.Fires c pr) (hw : w.isReserved = false) (ha : Carries c.m.a a)
    (ts : List Target) (body : Ctx → Datum → Out) : station1 s pr [w] ts body = body c a :=
  station1_of_fires h (by simpa using hw) ha ts body

/-- A station of two ports with one format field, where that is no reserved code (R79). -/
theorem station2_of_fires_fmt {pr : Pred} {w : Fmt} (h : s.Fires c pr) (hw : w.isReserved = false) (ha : Carries c.m.a a)
    (hb : Carries c.m.b b) (ts : List Target) (body : Ctx → Datum → Datum → Out) : station2 s pr [w] ts body = body c a b :=
  station2_of_fires h (by simpa using hw) ha hb ts body

/-- An integer operation lane by lane emits each lane, wrapped to its width, as INT (R234). -/
theorem intLanes_of_fires {pr : Pred} (h : s.Fires c pr) (ha : Carries c.m.a a) (hb : Carries c.m.b b) (t0 t1 : Target)
    (w : IW) (op : (w a b : Nat) → Int) :
    intLanes pr t0 t1 w s op = .next (c.sent [t0, t1] (some (.vector .int w.bits ((List.range w.lanes).map fun j =>
      (op w.bits (a.bitLane w.bits j) (b.bitLane w.bits j) % 2 ^ w.bits).toNat)))) := by
  simp only [intLanes, station2_of_fires_nil h ha hb, Ctx.out_eq, wrapN_eq]

/-! ### Masks and movements (R228, R230) -/

/-- Whether a lane of width `w` meets a condition of VMASK (R228). -/
def maskMeets (cond : MaskCond) (w x : Nat) : Bool :=
  match cond with
  | .nonzero => x ≠ 0
  | .sign => bit x (w - 1)
  | .zero => x = 0

/-- VMASK emits a bit a lane: whether the lane meets the condition (R228). -/
theorem exec_vmask_emits {f : FVmask} (h : s.Fires c f.pr) (ha : Carries c.m.a a) :
    exec (.vmask f) s = .next (c.sent [f.t0, f.t1] (some (.int (packLanes 1 ((List.range f.w.lanes).map fun i =>
      if maskMeets f.cond f.w.bits (a.bitLane f.w.bits i) then 1 else 0))))) := by
  refine (station1_of_fires_nil h ha _ _).trans ?_
  cases f.cond with
  | nonzero => simp only [maskMeets, bnat_eq_ite, bne_iff_ne, decide_eq_true_eq, Ctx.out_eq]
  | sign => rfl
  | zero => simp only [maskMeets, bnat_eq_ite, beq_iff_eq, decide_eq_true_eq, Ctx.out_eq]

/-- The lane of A, of `n`, that a form of VSHUF moves to lane `i` (R230). -/
def shufLane (form : ShufForm) (n i : Nat) : Nat :=
  match form with
  | .rotate k => (i + k.toNat) % n
  | .reverse => n - 1 - i

/-- VSHUF moves the lanes that its form names, which bear A's tag (R223, R230). -/
theorem exec_vshuf_emits {f : FVshuf} (h : s.Fires c f.pr) (ha : Carries c.m.a a) :
    exec (.vshuf f) s = .next (c.sent [f.t0, f.t1] (some (.vector a.tag f.w.bits
      ((List.range f.w.lanes).map fun i => a.bitLane f.w.bits (shufLane f.form f.w.lanes i))))) :=
  station1_of_fires_nil h ha _ _

/-! ### Conversions (R231) -/

/-- What a form of VCVT makes of A (R231). -/
def Datum.converted (a : Datum) (w : Fmt) (rm : Rm) : CvtForm → Datum
  | .value => .fpVector w rm a.evLane
  | .fromInt => .fpVector w rm fun i => EV.ofInt (sint (a.bitLane 32 i) 32)
  | .toInt => .vector .int 32 ((List.range 16).map fun i => ((a.evLane i).toInt rm (-2 ^ 31) (2 ^ 31 - 1) % 2 ^ 32).toNat)
  | .bitCast => { a with fmt := w, tile := none }

/-- VCVT emits what its form makes of A. -/
theorem exec_vcvt_emits {f : FVcvt} (h : s.Fires c f.pr) (hw : f.fmt.isReserved = false) (ha : Carries c.m.a a) :
    exec (.vcvt f) s = .next (c.sent [f.t0, f.t1] (some (a.converted f.fmt f.rm f.form))) := by
  refine (station1_of_fires_fmt h hw ha _ _).trans ?_
  cases f.form with
  | value | fromInt | bitCast => rfl
  | toInt => simp only [Datum.converted, wrapN_eq, Ctx.out_eq]

end

/-- Settles O23: VMASK by its condition; each of the others is its one datum, a reduction's node that of its tree. -/
theorem vectorComparesAndReductions : Obligations.VectorComparesAndReductions := by
  intro s c a ha
  refine ⟨fun f b h hb hw => ?vcmp, fun f h => ?vmask, fun f h hw => ⟨?vred, ?vscan⟩, fun f b h hb hw => ?vdot⟩
  case vcmp => exact station2_of_fires_fmt h hw ha hb _ _
  case vmask => exact exec_vmask_emits h ha
  case vred => exact station1_of_fires_fmt h hw ha _ _
  case vscan => exact station1_of_fires_fmt h hw ha _ _
  case vdot => exact station2_of_fires_fmt h hw ha hb _ _

/-- Settles O24: a movement is its source lane, a conversion its form's datum. -/
theorem vectorMovesAndConversions : Obligations.VectorMovesAndConversions := by
  intro s c a ha lanes
  refine ⟨fun f b p h hb hp => ?vsel, fun f h => ⟨?vbcast, ?vext⟩, fun f b h hb => ?vins, fun f b h hb => ?vperm,
    fun f h => ?vshuf, fun f h hw => ?vcvt, fun f b h hb hw => ?vpack, fun f h hw hsf => ?vunpk⟩
  case vsel => exact station3_of_fires h (by simp) ha hb hp _ _
  case vbcast => exact station1_of_fires_nil h ha _ _
  case vext => exact station1_of_fires_nil h ha _ _
  case vins => exact station2_of_fires_nil h ha hb _ _
  case vperm => exact station2_of_fires_nil h ha hb _ _
  case vshuf =>
    have e := exec_vshuf_emits h ha
    exact ⟨fun k hk => by rwa [hk] at e, fun hr => by rwa [hr] at e⟩
  case vcvt =>
    have e := exec_vcvt_emits h hw ha
    exact ⟨fun hf => by rwa [hf] at e, fun hf => by rwa [hf] at e, fun hf => by rwa [hf] at e, fun hf => by rwa [hf] at e⟩
  case vpack => exact station2_of_fires_fmt h hw ha hb _ _
  case vunpk => exact station1_of_fires h (by simp [hw, hsf]) ha _ _

/-- Settles O25: each instruction is one lane operation, wrapped where it is emitted; VISRA's power of two is a cast. -/
theorem vectorIntegerLanesWrap : Obligations.VectorIntegerLanesWrap := by
  intro s c a b ha hb emits
  refine ⟨fun f h => ?pairs, fun f h => ?minmax⟩
  all_goals have lanes := intLanes_of_fires h ha hb f.t0 f.t1 f.w
  case pairs =>
    refine ⟨(lanes _ : execViadd f s = _), (lanes _ : execVisub f s = _), (lanes _ : execVimul f s = _),
      (lanes _ : execViand f s = _), (lanes _ : execVior f s = _), (lanes _ : execVixor f s = _),
      (lanes _ : execVishl f s = _), (lanes _ : execVishr f s = _), (lanes _ : execVisra f s = _).trans ?_⟩
    simp only [Nat.cast_pow, Nat.cast_ofNat]
  case minmax => exact ⟨(lanes _ : execVimin f s = _), (lanes _ : execVimax f s = _)⟩

end Sys2Proof.Machine

/-! PROOFS. Reads of wells and taps as they fire (O21). -/

namespace Sys2Proof.Machine
open Sys2Proof

/-! ### Wells (R261, R267) -/

/-- A read of a domain is at the head of its queue: the block is the oldest, no issued command is in the queue, and no held
PATCH might be for it (R261). -/
def Ctx.WellsIdle (c : Ctx) (d : Nat) : Prop :=
  c.oldest = true ∧ ∀ e ∈ (c.s.core c.core).engs, e.onDomain d = false ∧ e.domainOpen = false

/-- The domain of a well. -/
def Ctx.wellDomain (c : Ctx) (well : Nat) : Domain := (c.s.core c.core).palette.getD (well / 64) .reset

/-- What PRD reads of well `k`: RES, or Y as a 64-bit word (R267). -/
def Domain.wellRead (d : Domain) (alt : Bool) (k : Nat) : Nat :=
  let w := d.wells.getD k .reset
  if alt then w.res else (w.y % 2 ^ 64).toNat

/-- What PRDV reads of the sixteen wells from `k`: each Y scaled and rounded, or saturated (R267). -/
def Domain.wellsRead (d : Domain) (alt : Bool) (k : Nat) : Datum :=
  let well (i : Nat) : Well := d.wells.getD (k + i) .reset
  if alt then .vector .fp32 32 ((List.range 16).map fun i =>
    (EV.scaled (decide ((well i).y < 0)) (well i).y.natAbs (-((well i).mw : Int))).round .fp32 .rne)
  else .vector .int 32 ((List.range 16).map fun i => (max (-2 ^ 31) (min (2 ^ 31 - 1) (well i).y) % 2 ^ 32).toNat)

section
variable {s : State} {c : Ctx} {a : Datum}

/-- A read at the head of its domain's queue goes by the domain's owner (R261). -/
theorem Ctx.palRead_of_idle {well : Nat} (h : c.WellsIdle (well / 64)) (lsid : Nat) (body : Domain → Out) :
    c.palRead well lsid body = if (c.wellDomain well).owner = some c.slot then body (c.wellDomain well)
      else .next (c.faulted (.access FC.protection lsid 0)) := by
  obtain ⟨hold, hengs⟩ := h
  have hhead : (c.oldest && !(c.s.core c.core).engs.any fun e => e.onDomain (well / 64) || e.domainOpen) = true := by
    simpa [hold] using hengs
  exact (need_of hhead _).trans (ite_not ..)

theorem Ctx.palRead_of_owned {well : Nat} (h : c.WellsIdle (well / 64)) (hown : (c.wellDomain well).owner = some c.slot)
    (lsid : Nat) (body : Domain → Out) : c.palRead well lsid body = body (c.wellDomain well) :=
  (Ctx.palRead_of_idle h lsid body).trans (if_pos hown)

theorem Ctx.palRead_of_not_owned {well : Nat} (h : c.WellsIdle (well / 64))
    (hown : (c.wellDomain well).owner ≠ some c.slot) (lsid : Nat) (body : Domain → Out) :
    c.palRead well lsid body = .next (c.faulted (.access FC.protection lsid 0)) :=
  (Ctx.palRead_of_idle h lsid body).trans (if_neg hown)

/-- PRD checks its well number, then reads the well of its domain (R267). -/
theorem exec_prd {f : FPrd} (h : s.Fires c f.pr) (ha : Carries c.m.a a) :
    exec (.prd f) s = if 512 ≤ a.u64 then .next (c.faulted (.plain FC.reservedField))
      else c.palRead a.u64 f.lsid.toNat fun d =>
        .next (c.sent [f.t0, f.t1] (some (.int (d.wellRead f.alt (a.u64 % 64))))) := by
  refine (station1_of_fires_nil h ha _ _).trans ?_
  simp only [wrapN_eq, Ctx.out_eq, Ctx.raise_eq, Domain.wellRead]

/-- PRDV checks the number of its first well, then reads sixteen wells of its domain (R267). -/
theorem exec_prdv {f : FPrd} (h : s.Fires c f.pr) (ha : Carries c.m.a a) :
    exec (.prdv f) s = if 512 ≤ a.u64 ∨ a.u64 % 16 ≠ 0 then .next (c.faulted (.plain FC.reservedField))
      else c.palRead a.u64 f.lsid.toNat fun d =>
        .next (c.sent [f.t0, f.t1] (some (d.wellsRead f.alt (a.u64 % 64)))) := by
  refine (station1_of_fires_nil h ha _ _).trans ?_
  simp only [wrapN_eq, Ctx.out_eq, Ctx.raise_eq, Domain.wellsRead]

/-! ### Taps (R270) -/

/-- TAPCFG checks the reserved bits and the action of its word, then queues the word for commit and emits A (R270). -/
theorem exec_tapcfg {f : FTap} (h : s.Fires c f.pr) (ha : Carries c.m.a a) :
    exec (.tapcfg f) s = if bits a.u64 32 32 ≠ 0 ∨ bits a.u64 2 2 = 3 then .next (c.faulted (.plain FC.reservedField))
      else .next (c.queued (.tapcfg f.tap.toNat (BitVec.ofNat 64 a.u64)) [f.t0, f.t1] (some a)) :=
  station1_of_fires_nil h ha _ _

end

/-- Settles O21: a well's number is checked, then its domain's owner as the read reaches the head of the queue; a tap's word is
checked and queued, and its register is read in the oldest block. -/
theorem wellAndTapReadsFire : Obligations.WellAndTapReadsFire := by
  intro s c
  refine ⟨fun f a h ha => ?wells, fun f a h ha => ⟨fun hres hact => ?tapcfg, fun hbad => ?tapcfgReserved⟩,
    fun f h hold => ?tapst⟩
  case wells =>
    intro dom well idle
    refine ⟨fun hbig => ?prdReserved, fun hlt hidle hown => ?prdForeign, fun hlt hidle hown => ?prd,
      fun hbad => ?prdvReserved, fun hlt hal hidle hown => ?prdv⟩
    case prdReserved => rw [exec_prd h ha, if_pos hbig]
    case prdForeign => rw [exec_prd h ha, if_neg hlt.not_ge, Ctx.palRead_of_not_owned hidle hown]
    case prd =>
      rw [exec_prd h ha, if_neg hlt.not_ge, Ctx.palRead_of_owned hidle hown]
      rfl
    case prdvReserved => rw [exec_prdv h ha, if_pos hbad]
    case prdv =>
      rw [exec_prdv h ha, if_neg (not_or.mpr ⟨hlt.not_ge, not_not.mpr hal⟩), Ctx.palRead_of_owned hidle hown]
      rfl
  case tapcfg => rw [exec_tapcfg h ha, if_neg (not_or.mpr ⟨not_not.mpr hres, hact⟩)]
  case tapcfgReserved => rw [exec_tapcfg h ha, if_pos hbad]
  case tapst => exact (station0_of_fires h _).trans (need_of hold _)

end Sys2Proof.Machine

/-! PROOFS. Memory at reset, and memory in canonical form under every step (O41, O42, O43). -/

namespace Sys2Proof.Machine
open Sys2Proof

/-! ### The machine at reset (R299, R302, R312) -/

/-- Every core of the package, and every number that names none, is a core at reset. -/
theorem State.core_reset (c : Nat) : State.reset.core c = Core.reset := by
  have h : State.reset.cores = List.replicate 192 Core.reset := rfl
  simp only [State.core, h, List.getD_eq_getElem?_getD, List.getElem?_replicate]
  split <;> rfl

/-- Settles O42: every memory is empty at reset, and an unlisted address reads 0. -/
theorem resetMemory : Obligations.ResetMemory := by
  refine ⟨State.reset_memWf, fun a => Memory.get_nil a, fun c a => ?_⟩
  rw [State.core_reset]
  exact Memory.get_nil a

/-- The ASIDs and the command queues' places of a chair at reset are zero (R299). -/
theorem Chair.reset_fields : (∀ a ∈ Chair.reset.chasid, a = 0) ∧ ∀ q ∈ Chair.reset.chcq, q = 0 :=
  ⟨fun _ => List.eq_of_mem_replicate, fun _ => List.eq_of_mem_replicate⟩

/-- A core at reset holds no context and no owned domain, and its error records and performance counters are zero (R302, R350,
R352). -/
theorem Core.reset_fields : (∀ sl ∈ Core.reset.slots, sl = none) ∧
    (∀ d ∈ Core.reset.palette, d.owner = none ∧ d.steps = 0) ∧
    (∀ e ∈ Core.reset.errs, e = ErrRec.reset) ∧ ∀ p ∈ Core.reset.perf, p = ⟨0, 0⟩ := by
  refine ⟨fun _ => List.eq_of_mem_replicate, fun d hd => ?_, fun _ => List.eq_of_mem_replicate, fun _ => List.eq_of_mem_replicate⟩
  rw [List.eq_of_mem_replicate hd]
  exact ⟨rfl, rfl⟩

/-- Settles O41: the chairs and the cores are copies of one at reset, and every other field is as `State.reset` writes it. -/
theorem resetState : Obligations.ResetState := by
  refine ⟨List.length_replicate, List.length_replicate, fun c hc => ?chairs, fun k hk => ?cores, rfl, rfl, rfl, rfl, rfl, rfl,
    rfl, rfl, rfl, rfl, rfl, rfl, fun _ => List.eq_of_mem_replicate, fun _ => List.eq_of_mem_replicate⟩
  case chairs =>
    obtain ⟨hasid, hcq⟩ := Chair.reset_fields
    obtain rfl : c = Chair.reset := List.eq_of_mem_replicate hc
    exact ⟨rfl, rfl, rfl, rfl, rfl, rfl, rfl, rfl, rfl, rfl, hasid, hcq, rfl, rfl, rfl, rfl⟩
  case cores =>
    obtain ⟨hslots, hpalette, herrs, hperf⟩ := Core.reset_fields
    obtain rfl : k = Core.reset := List.eq_of_mem_replicate hk
    exact ⟨hslots, rfl, rfl, rfl, rfl, rfl, rfl, rfl, rfl, rfl, rfl, rfl, rfl, rfl, hpalette, herrs, hperf⟩

/-! ### Every act keeps the form of memory -/

section
variable {s : State} (h : s.MemWf)
include h

/-- Every instruction and every operation keeps it: a firing changes no memory (R34), an operation stores bytes. -/
theorem exec_memWf (i : Instr) : Out.Wf (exec i s) := by
  cases hi : i.code with
  | none => exact exec_memWf_of_operation hi h
  | some c => exact fun t ht => (exec_keeps (by simp [hi]) t ht).memWf h

/-- Every act that the agenda may hold keeps it. -/
theorem runAct_memWf (x : Agendum) : Out.Wf (runAct x s) := by
  cases x with
  | fire site => exact Out.wf_need (Out.wf_needSome fun i => exec_memWf (s := { s with site := site }) h i)
  | ev i => exact Out.wf_need (exec_memWf h i)
  | request chair m => exact Out.wf_need (arriveRequest_memWf h chair m)
  | serviceEntry e => exact Out.wf_need (arriveServiceEntry_memWf h e)
  | corrected u loc => exact Out.wf_need (correctError_memWf h u loc)
  | forwarded chair p runs priv => exact Out.wf_need (arriveForwarded_memWf h chair p runs priv)
  | rangeLoad core r => exact Out.wf_need (loadRange_memWf h core r)
  | reserve chair gpa => exact Out.wf_need (reserveArea_memWf h chair gpa)
  | wipe a => exact Out.wf_need (wipeFrame_memWf h a)
  | management key => exact Out.wf_need (readManagement_memWf h key)
  | defect root step => exact noteDefect_memWf h root step

end

/-! ### Every step keeps it -/

/-- An act that is chosen is one of those it is chosen from. -/
theorem State.mem_of_choose {s : State} {pick : Nat} {xs : List (Agendum × State)} {x : Agendum × State}
    (h : s.choose pick xs = some x) : x ∈ xs := by
  cases xs with
  | nil => cases h
  | cons a r =>
    obtain ⟨y, hy, hchoose, -⟩ := s.exists_choose pick (List.mem_cons_self (a := a) (l := r))
    rw [Option.some.inj (h.symm.trans hchoose)]
    exact hy

/-- With nothing enabled, the package's own step changes nothing. -/
theorem autonomousStep_of_none {s : State} (h : s.choose (Config.freeNat s.freeCtr) s.enabledActs = none) :
    autonomousStep s = .next s := by
  rw [State.enabledActs_eq] at h
  unfold autonomousStep
  dsimp only
  split
  next hc => exact absurd (h.symm.trans hc) (by simp)
  next => rfl

/-- The package's own step changes nothing, or is one of its acts, with the others waiting. -/
theorem autonomousStep_next {s t : State} (h : autonomousStep s = .next t) :
    t = s ∨ ∃ x u, runAct x s.drawn = .next u ∧ t = { u with waiting := s.waitingAfter x } := by
  cases hc : s.choose (Config.freeNat s.freeCtr) s.enabledActs with
  | none => exact .inl (next_inj (h.symm.trans (autonomousStep_of_none hc)))
  | some y =>
    obtain ⟨x, u⟩ := y
    exact .inr ⟨x, u, (State.mem_enabledActs.mp (State.mem_of_choose hc)).2,
      next_inj (h.symm.trans (autonomousStep_of_choose hc))⟩

theorem autonomousStep_memWf {s : State} (h : s.MemWf) : Out.Wf (autonomousStep s) := by
  intro t ht
  obtain rfl | ⟨x, u, hx, rfl⟩ := autonomousStep_next ht
  · exact h
  · exact runAct_memWf (s := s.drawn) h x u hx

/-- A step is the head of the agenda where that is enabled, and else the package's own. -/
theorem step_next {s t : State} (h : step s = .next t) :
    (∃ x rest, s.agenda = x :: rest ∧ runAct x { s with agenda := rest } = .next t) ∨ autonomousStep s = .next t := by
  cases ha : s.agenda with
  | nil => exact .inr ((step_of_nil ha).symm.trans h)
  | cons x rest =>
    by_cases hx : ∃ u, runAct x { s with agenda := rest } = .next u
    · obtain ⟨u, hu⟩ := hx
      refine .inl ⟨x, rest, rfl, ?_⟩
      rw [hu, ← step_of_act ha hu, h]
    · exact .inr ((step_of_none ha (not_exists.mp hx)).symm.trans h)

/-- Settles O43: the step is one act, and every act keeps the form of every memory. -/
theorem stepKeepsMemory : Obligations.StepKeepsMemory := by
  intro s t hw h
  obtain ⟨x, rest, -, hx⟩ | hauto := step_next h
  · exact runAct_memWf (s := { s with agenda := rest }) hw x t hx
  · exact autonomousStep_memWf hw t hauto

end Sys2Proof.Machine

/-! PROOFS. Time slices, eviction, resume and chair reset (O56). -/

namespace Sys2Proof.Machine
open Sys2Proof

/-! ### Launches and cores that are changed -/

/-- A launch of the id that is changed is the change of one that was there. -/
theorem State.mem_modLaunch {s : State} {id : Nat} {f : Launch → Launch} {x : Launch}
    (hx : x ∈ (s.modLaunch id f).launches) (hid : x.id = id) : ∃ y ∈ s.launches, y.id = id ∧ x = f y := by
  obtain ⟨y, hy, rfl⟩ := List.mem_map.mp hx
  by_cases h : y.id = id
  · exact ⟨y, hy, h, if_pos h⟩
  · exact absurd ((congrArg Launch.id (if_neg h)).symm.trans hid) h

/-- A core where every core is changed, one at reset to itself. -/
theorem State.core_map (s : State) {f : Core → Core} (hf : f .reset = .reset) (c : Nat) :
    ({ s with cores := s.cores.map f } : State).core c = f (s.core c) := by
  simp only [State.core, List.getD_eq_getElem?_getD, List.getElem?_map]
  cases s.cores[c]? with
  | none => exact hf.symm
  | some k => rfl

/-! ### Time slices (R361) -/

theorem exec_timeSliceExpiry {s : State} {id waiter : Nat} {l w : Launch} (hl : s.launch? id = some l)
    (hw : s.launch? waiter = some w) (hne : id ≠ waiter) (ha : l.aborted = false) (ho : l.out = false)
    (hoff : ∃ c < s.cores.length, s.heldOff c waiter id = true) :
    exec (.timeSliceExpiry id waiter) s = .next (s.modLaunch id fun x => { x with evict := true }) := by
  have hany : (List.range s.cores.length).any (fun c => s.heldOff c waiter id) = true := by
    obtain ⟨c, hc, h⟩ := hoff
    exact List.any_eq_true.mpr ⟨c, List.mem_range.mpr hc, h⟩
  simp only [exec, execTimeSliceExpiry, hl, hw, needSome_some]
  exact need_of (by simp [hne, ha, ho, hany]) _

/-! ### Eviction (R362, R364, R365) -/

section
variable {s : State} {id : Nat} {l : Launch}

/-- A launch with every slot of it vacated and no place in a launch queue. -/
def State.evacuated (s : State) (l : Launch) (id : Nat) : State :=
  let t := (s.placesOf id).foldl (fun s p => s.evictSlot l p.1 p.2) s
  { t with cores := t.cores.map fun (k : Core) => { k with lq := k.lq.filter (·.launch ≠ id) } }

/-- The places of a launch in the launch queues: each core that holds it, with the index of its next root (R362 step 1). -/
def State.queuePlaces (s : State) (id : Nat) : List (Nat × Nat) :=
  (List.range s.cores.length).filterMap fun c => ((s.core c).lq.find? (·.launch = id)).map fun q => (c, q.next)

theorem exec_eviction (hl : s.launch? id = some l) (hev : l.evict = true) (ha : l.aborted = false) (ho : l.out = false)
    (hp : ∀ c i, (c, i) ∈ s.placesOf id → s.evictable c i = true ∧ (s.imagePlace l c).isSome = true) :
    exec (.eviction id) s = .next ((s.evacuated l id).modLaunch id fun x =>
      { x with out := true, evict := false, back := s.queuePlaces id }) := by
  have hall : ((s.placesOf id).all fun p => s.evictable p.1 p.2 && (s.imagePlace l p.1).isSome) = true :=
    List.all_eq_true.mpr fun p h => by simp [hp p.1 p.2 h]
  simp only [exec, execEviction, hl, needSome_some]
  exact need_of (by simp [hev, ha, ho, hall]) _

/-- The index of a launch's next root on a core is kept with the core. -/
theorem State.mem_queuePlaces {c : Nat} {q : LqEntry} (hc : c < s.cores.length)
    (hq : (s.core c).lq.find? (·.launch = id) = some q) : (c, q.next) ∈ s.queuePlaces id :=
  List.mem_filterMap.mpr ⟨c, List.mem_range.mpr hc, by rw [hq]; rfl⟩

/-- No launch queue holds a launch that has been evacuated. -/
theorem State.lq_evacuated (s : State) (l : Launch) (id c : Nat) : ∀ q ∈ ((s.evacuated l id).core c).lq, q.launch ≠ id := by
  intro q hq
  rw [State.evacuated, State.core_map _ rfl] at hq
  simpa using (List.mem_filter.mp hq).2

/-- A slot without its blocks is the one that discards have thinned, but for the JOINs of its fork records. -/
theorem Slot.Thin.saved {a b : Slot} (h : a.Thin b) (hi : b.insts = []) (hg : b.grants = []) :
    b = { a with insts := [], grants := [], forks := b.forks } ∧ ∀ r ∈ b.forks, ∃ y ∈ a.forks, r = { y with joined := r.joined } := by
  refine ⟨?_, h.known⟩
  have hrest := congrArg (fun x : Slot => { x with forks := b.forks }) h.rest
  calc b = { b with insts := [], grants := [] } := by rw [← hi, ← hg]
    _ = _ := hrest

/-- Every slot of a launch that has been evacuated is vacated into an image of the slot without its blocks (R365). -/
theorem State.evacuated_slot (hid : l.id = id) {c i : Nat} {sl : Slot} (hp : (c, i) ∈ s.placesOf id) (hs : s.slot? c i = some sl) :
    (s.evacuated l id).slot? c i = none ∧ ∃ x ∈ (s.evacuated l id).saves, x.launch = id ∧ x.core = c ∧ x.slot = i ∧
      x.body = { sl with insts := [], grants := [], forks := x.body.forks } ∧
      ∀ r ∈ x.body.forks, ∃ y ∈ sl.forks, r = { y with joined := r.joined } := by
  obtain ⟨hnodup, -, hslots⟩ := s.placesOf_facts id
  obtain ⟨-, -, -, -, hplaces⟩ := State.evictSlots l (s.placesOf id) hnodup s fun p h => by
    obtain ⟨y, hy, -⟩ := hslots p h
    exact ⟨y, hy⟩
  obtain ⟨hnone, x, hx, hlaunch, hcore, hslot, hthin, hinsts, hgrants⟩ := hplaces (c, i) hp sl hs
  have hmap := State.slot?_map ((s.placesOf id).foldl (fun s p => s.evictSlot l p.1 p.2) s)
    (fun k => { k with lq := k.lq.filter (·.launch ≠ id) }) (fun _ => rfl) c i
  exact ⟨hmap.trans hnone, x, hx, hlaunch.trans hid, hcore, hslot, hthin.saved hinsts hgrants⟩

end

/-! ### Resume (R370) -/

section
variable {s : State} {id : Nat} {l : Launch}

/-- An evicted context with its images restored, its places in the launch queues taken again, and no image left. -/
def State.restored (s : State) (l : Launch) (id : Nat) : State :=
  let r := (s.saves.filter (·.launch = id)).foldl (fun s x => s.restoreImage l x) s
  let q := l.back.foldl (fun s b => s.modCore b.1 fun k => { k with lq := ⟨id, b.2⟩ :: k.lq }) r
  { q with saves := q.saves.filter (·.launch ≠ id) }

/-- Every image of a launch is one that may be restored. -/
theorem State.imagesFit (hfit : ∀ x ∈ s.saves, x.launch = id → s.imageFits x = true) :
    (s.saves.filter (·.launch = id)).all s.imageFits = true :=
  List.all_eq_true.mpr fun x hx => by
    obtain ⟨hmem, hid⟩ := List.mem_filter.mp hx
    exact hfit x hmem (of_decide_eq_true hid)

theorem exec_contextResume_sound (hl : s.launch? id = some l) (ho : l.out = true)
    (hfit : ∀ x ∈ s.saves, x.launch = id → s.imageFits x = true) (hgood : ∀ x ∈ s.saves, x.launch = id → s.imageBad x = false) :
    exec (.contextResume id) s = .next ((s.restored l id).modLaunch id fun x => { x with out := false, back := [] }) := by
  have hany : (s.saves.filter (·.launch = id)).any s.imageBad = false := List.any_eq_false.mpr fun x hx => by
    obtain ⟨hmem, hid⟩ := List.mem_filter.mp hx
    simp [hgood x hmem (of_decide_eq_true hid)]
  simp only [exec, execContextResume, hl, needSome_some]
  rw [need_of (by rw [ho, State.imagesFit hfit]; rfl), if_neg (Bool.eq_false_iff.mp hany)]
  rfl

theorem exec_contextResume_bad (hl : s.launch? id = some l) (ho : l.out = true)
    (hfit : ∀ x ∈ s.saves, x.launch = id → s.imageFits x = true) (hbad : ∃ x ∈ s.saves, x.launch = id ∧ s.imageBad x = true) :
    exec (.contextResume id) s =
      .next ((s.ueImages (s.saves.filter (·.launch = id))).abort id FC.uncorrectable) := by
  have hany : (s.saves.filter (·.launch = id)).any s.imageBad = true := by
    obtain ⟨x, hx, hid, h⟩ := hbad
    exact List.any_eq_true.mpr ⟨x, List.mem_filter.mpr ⟨hx, decide_eq_true hid⟩, h⟩
  simp only [exec, execContextResume, hl, needSome_some]
  rw [need_of (by rw [ho, State.imagesFit hfit]; rfl), if_pos hany]

/-- Each image of a restored context is back in its slot, with the units that it has now, and none is left. -/
theorem State.restored_leaves
    (hplace : ∀ x ∈ s.saves, x.launch = id → x.core < s.cores.length ∧ x.slot < (s.core x.core).slots.length)
    (hcores : (s.saves.filter (·.launch = id)).Pairwise fun x y => x.core ≠ y.core) :
    (∀ x ∈ (s.restored l id).saves, x.launch ≠ id) ∧
    ∀ x ∈ s.saves, x.launch = id → ∃ sl, (s.restored l id).slot? x.core x.slot = some sl ∧
      sl = { x.body with units := sl.units, lmpart := sl.lmpart, chestOk := sl.chestOk, chestHigh := sl.chestHigh } := by
  refine ⟨fun x hx => by simpa using (List.mem_filter.mp hx).2, fun x hx hid => ?_⟩
  obtain ⟨-, -, -, himages⟩ := State.restoreImages l (s.saves.filter (·.launch = id)) hcores s fun y hy => by
    obtain ⟨hmem, hy⟩ := List.mem_filter.mp hy
    exact hplace y hmem (of_decide_eq_true hy)
  obtain ⟨sl, hsl, hbody⟩ := himages x (List.mem_filter.mpr ⟨hx, decide_eq_true hid⟩)
  have hqueues := State.foldl_slot (f := fun s (b : Nat × Nat) => s.modCore b.1 fun k => { k with lq := ⟨id, b.2⟩ :: k.lq })
    (c := x.core) (i := x.slot) (fun r b => r.slot?_modCore _ _ _ _ rfl) l.back
    ((s.saves.filter (·.launch = id)).foldl (fun s x => s.restoreImage l x) s)
  exact ⟨sl, hqueues.trans hsl, hbody⟩

end

/-! ### Chair reset (R374) -/

section
variable (s : State) (chair : Nat)

/-- A status of a queue goes to memory and nowhere else. -/
theorem State.memOnly_setQueueStatus (n status : Nat) (badk : Option Nat) : s.MemOnly (s.setQueueStatus chair n status badk) := by
  unfold State.setQueueStatus
  split
  · rfl
  · split
    · rfl
    · split <;> rfl

/-- The first steps of a chair reset: the queues stopped, the requests answered, and the packets dropped. -/
def State.quieted : State :=
  let r := ((s.stopQueues chair).chair chair).reqs.foldl (fun s m => s.respond chair m 1 []) (s.stopQueues chair)
  { r with arb := r.arb.filter (·.chair ≠ chair) }

/-- A chair's reservations, frontiers, and cached translations and code given up. -/
def State.purged : State :=
  { s with
    dressers := s.dressers.filter (·.chair ≠ chair), frontiers := s.frontiers.filter (·.chair ≠ chair),
    cores := s.cores.map fun (k : Core) =>
      { k with code := k.code.filter (·.chair ≠ chair), tlb := k.tlb.filter (·.chair ≠ chair),
               ranges := k.ranges.filter (·.chair ≠ chair), roots := k.roots.filter (·.1 ≠ chair) } }

/-- The queues of a chair that is enabled stand no longer (R379). -/
def State.restarted : State :=
  if (s.chair chair).en then (List.range 4).foldl (fun s n => s.setQueueStatus chair n 0 none) s else s

/-- Every context of a chair torn down, once its queues stand. -/
def State.tornDown : State := ((s.quieted chair).contexts chair).foldl (fun s l => s.resetLaunch l) (s.quieted chair)

theorem exec_chairReset (h : chair < s.chairs.length) : exec (.chairReset chair) s =
    .next ((((s.tornDown chair).purged chair).restarted chair).modChair chair Chair.afterReset) :=
  need_of (decide_eq_true h) _

theorem State.same_quieted : s.Same (s.quieted chair) := by
  have hstop : s.Same (s.stopQueues chair) := same_foldl (fun r n => same_setQueueStatus r chair n 3 none) _ s
  have hanswer := same_foldl (f := fun s m => s.respond chair m 1 []) (fun r m => ⟨rfl, rfl, rfl⟩)
    ((s.stopQueues chair).chair chair).reqs (s.stopQueues chair)
  exact (hstop.trans hanswer).trans ⟨rfl, rfl, rfl⟩

/-- A tear-down leaves CHCTL of every chair, and no packet of the chair. -/
theorem State.tornDown_board : (s.tornDown chair).chairs.length = s.chairs.length ∧
    (∀ n, ((s.tornDown chair).chair n).chctl = (s.chair n).chctl) ∧ ∀ a ∈ (s.tornDown chair).arb, a.chair ≠ chair := by
  have hsame := s.same_quieted chair
  have hboard : (s.quieted chair).SameBoard (s.tornDown chair) := State.SameBoard.foldl (fun r l => r.sameBoard_resetLaunch l) _ _
  refine ⟨hboard.len.trans (congrArg List.length hsame.chairs), fun n => ?_, fun a ha => ?_⟩
  · rw [hboard.chctl, State.chair, hsame.chairs, State.chair]
  · rw [hboard.arb] at ha
    simpa using (List.mem_filter.mp ha).2

/-- A tear-down leaves every launch of the chair aborted, and no slot of it. -/
theorem State.tornDown_launch {l : Launch} (hl : l ∈ s.contexts chair) :
    (s.tornDown chair).TornDown l.id ∧ ∀ c i, (c, i) ∈ s.placesOf l.id → (s.tornDown chair).slot? c i = none := by
  have hsame := s.same_quieted chair
  have hctx : (s.quieted chair).contexts chair = s.contexts chair := by rw [State.contexts, hsame.launches, State.contexts]
  have hplaces : (s.quieted chair).placesOf l.id = s.placesOf l.id := by simp only [State.placesOf, State.core, hsame.cores]
  obtain ⟨-, -, hdown⟩ := State.resetLaunches ((s.quieted chair).contexts chair) (s.quieted chair)
  obtain ⟨hlaunch, hslots⟩ := hdown l (hctx ▸ hl)
  exact ⟨hlaunch, fun c i hp => hslots (c, i) (hplaces ▸ hp)⟩

theorem State.memOnly_restarted : s.MemOnly (s.restarted chair) := by
  unfold State.restarted
  split
  · exact State.MemOnly.foldl (fun r n => r.memOnly_setQueueStatus chair n 0 none) _ s
  · rfl

/-- A purge leaves nothing of the chair in the Dressers, at the frontiers, or in a core's caches. -/
theorem State.purged_leaves : (∀ d ∈ (s.purged chair).dressers, d.chair ≠ chair) ∧ (∀ f ∈ (s.purged chair).frontiers, f.chair ≠ chair) ∧
    ∀ k ∈ (s.purged chair).cores, (∀ d ∈ k.code, d.chair ≠ chair) ∧ (∀ e ∈ k.tlb, e.chair ≠ chair) ∧ ∀ e ∈ k.ranges, e.chair ≠ chair := by
  refine ⟨fun d hd => by simpa using (List.mem_filter.mp hd).2, fun f hf => by simpa using (List.mem_filter.mp hf).2, fun k hk => ?_⟩
  obtain ⟨x, -, rfl⟩ := List.mem_map.mp hk
  exact ⟨fun d hd => by simpa using (List.mem_filter.mp hd).2, fun e he => by simpa using (List.mem_filter.mp he).2,
    fun e he => by simpa using (List.mem_filter.mp he).2⟩

end

/-- The lists of a chair's block are zero after its reset, and its launch-table entries are free (R299, R320). -/
theorem Chair.afterReset_lists (c : Chair) :
    (∀ a ∈ c.afterReset.chasid, a = 0) ∧ (∀ q ∈ c.afterReset.chcq, q = 0) ∧ ∀ e ∈ c.afterReset.lt, e.st = .free := by
  refine ⟨fun _ => List.eq_of_mem_replicate, fun _ => List.eq_of_mem_replicate, fun e he => ?_⟩
  obtain ⟨x, -, rfl⟩ := List.mem_map.mp he
  rfl

/-! ### The statement -/

/-- Settles O56, by the act that each clause is about. -/
theorem contextsAreSwitched : Obligations.ContextsAreSwitched := by
  intro s
  refine ⟨fun id waiter l w hl hw hne ha ho hoff => ?expiry, fun id l hl hev ha ho hp => ?eviction,
    fun id l hl ho hfit => ⟨fun hsound hcores => ?resume, fun ha hbad => ?abort⟩, fun n hn => ?reset⟩
  case expiry =>
    refine ⟨_, exec_timeSliceExpiry hl hw hne ha ho hoff, rfl, fun x hx hid => ?_⟩
    obtain ⟨y, -, -, rfl⟩ := State.mem_modLaunch hx hid
    rfl
  case eviction =>
    have hid : l.id = id := by simpa using List.find?_some hl
    refine ⟨_, exec_eviction hl hev ha ho hp, fun c i sl hpl hs => State.evacuated_slot hid hpl hs, s.lq_evacuated l id, fun x hx hx' => ?_⟩
    obtain ⟨y, -, -, rfl⟩ := State.mem_modLaunch hx hx'
    exact ⟨rfl, rfl, fun c hc q hq => State.mem_queuePlaces hc hq⟩
  case resume =>
    obtain ⟨hsaves, hslots⟩ := State.restored_leaves (l := l) (fun x hx hid => (hsound x hx hid).2) hcores
    refine ⟨_, exec_contextResume_sound hl ho hfit fun x hx hid => (hsound x hx hid).1, hsaves, fun x hx hid => ?_, hslots⟩
    obtain ⟨y, -, -, rfl⟩ := State.mem_modLaunch hx hid
    rfl
  case abort =>
    exact ⟨_, exec_contextResume_bad hl ho hfit hbad,
      (abort_facts (s := s.ueImages (s.saves.filter (·.launch = id))) (code := FC.uncorrectable) hl ha).1⟩
  case reset =>
    obtain ⟨hlen, hchctl, harb⟩ := s.tornDown_board n
    obtain ⟨hdressers, hfrontiers, hcaches⟩ := (s.tornDown n).purged_leaves n
    have hmem := ((s.tornDown n).purged n).memOnly_restarted n
    have hchairs : (((s.tornDown n).purged n).restarted n).chairs = (s.tornDown n).chairs := (congrArg State.chairs hmem :)
    have hcores : (((s.tornDown n).purged n).restarted n).cores = ((s.tornDown n).purged n).cores := (congrArg State.cores hmem :)
    have hlaunches : (((s.tornDown n).purged n).restarted n).launches = (s.tornDown n).launches := (congrArg State.launches hmem :)
    refine ⟨_, exec_chairReset s n hn, ?block, fun a h => harb a ((congrArg State.arb hmem :) ▸ h),
      fun d h => hdressers d ((congrArg State.dressers hmem :) ▸ h), fun f h => hfrontiers f ((congrArg State.frontiers hmem :) ▸ h),
      fun k h => hcaches k (hcores ▸ h), fun l hl => ?contexts⟩
    case block =>
      dsimp only
      rw [State.chair_modChair_of_chairs (hlen ▸ hn) hchairs]
      obtain ⟨hasid, hcq, hlt⟩ := ((s.tornDown n).chair n).afterReset_lists
      refine ⟨?_, rfl, rfl, rfl, rfl, rfl, rfl, rfl, rfl, rfl, hasid, hcq, rfl, rfl, hlt⟩
      rw [Chair.afterReset, Chair.en, hchctl, Chair.en]
    case contexts =>
      obtain ⟨hdown, hslots⟩ := s.tornDown_launch n hl
      refine ⟨fun x hx => hdown x (hlaunches ▸ hx), fun c i hp => ?_⟩
      have hpurge := State.slot?_map (s.tornDown n) (fun k => { k with
        code := k.code.filter (·.chair ≠ n), tlb := k.tlb.filter (·.chair ≠ n),
        ranges := k.ranges.filter (·.chair ≠ n), roots := k.roots.filter (·.1 ≠ n) }) (fun _ => rfl) c i
      exact (State.slot?_of_cores hcores c i).trans (hpurge.trans (hslots c i hp))

end Sys2Proof.Machine

/-! PROOFS. The entries of a command queue, and the tables of the service's own queue (O58). -/

namespace Sys2Proof.Machine
open Sys2Proof

/-! ### A store of the Bureau (R4, R70) -/

/-- Of a state's memory `k` bytes at a key, of a guest-physical address of a chair, hold a value, HOLD kept, and no other byte
differs. -/
def State.Stored (s : State) (chair gpa key k v : Nat) (u : State) : Prop :=
  (∀ j < k, u.hbm.get (key + j) = (s.chair chair).keepHold (gpa + j) (s.hbm.get (key + j)) (BitVec.ofNat 8 (v / 256 ^ j))) ∧
    ∀ a, a < key ∨ key + k ≤ a → u.hbm.get a = s.hbm.get a

theorem State.stored_storeGlobal {s : State} (hw : s.MemWf) (chair gpa key k v : Nat) :
    s.Stored chair gpa key k v (s.storeGlobal chair gpa key k v) :=
  ⟨fun _ hj => get_chairBytes_in _ hw.1 _ _ _ _ _ hj, fun _ ha => get_chairBytes_other _ hw.1 _ ha⟩

/-! ### A queue that is placed (R322) -/

/-- Queue `n` of a chair of the package is placed, at a control record and with a log of entries. -/
structure State.HasQueue (s : State) (chair n base lg : Nat) : Prop where
  chair_lt : chair < s.chairs.length
  queue_lt : n < (s.chair chair).qs.length
  placed : (s.chair chair).queue? n = some (base, lg)

/-- A chair at reset has no queue placed. -/
theorem Chair.queue?_reset (n : Nat) : Chair.reset.queue? n = none := by
  have h : Chair.reset.chcq.getD n 0 = 0 := by
    simp only [Chair.reset, List.getD_eq_getElem?_getD, List.getElem?_replicate]
    split <;> rfl
  rw [Chair.queue?, h]
  rfl

theorem State.HasQueue.of_placed {s : State} {chair n base lg : Nat} (hq : (s.chair chair).queue? n = some (base, lg))
    (hn : n < (s.chair chair).qs.length) : s.HasQueue chair n base lg := by
  refine ⟨?_, hn, hq⟩
  by_contra hc
  have hreset : s.chair chair = Chair.reset := by
    rw [State.chair, List.getD_eq_getElem?_getD, List.getElem?_eq_none (Nat.le_of_not_lt hc)]
    rfl
  rw [hreset, Chair.queue?_reset] at hq
  cases hq

section
variable {s t : State} {chair n base lg : Nat} (hq : s.HasQueue chair n base lg)
include hq

theorem State.HasQueue.congr (h : t.chairs = s.chairs) : t.HasQueue chair n base lg := by
  have hch : t.chair chair = s.chair chair := by rw [State.chair, h, State.chair]
  exact ⟨h ▸ hq.chair_lt, hch ▸ hq.queue_lt, hch ▸ hq.placed⟩

theorem State.HasQueue.modQ (f : CmdQ → CmdQ) : (s.modQ chair n f).HasQueue chair n base lg := by
  have hch : (s.modQ chair n f).chair chair = { s.chair chair with qs := (s.chair chair).qs.modify n f } :=
    State.chair_modChair_same _ hq.chair_lt
  refine ⟨?_, ?_, ?_⟩
  · rw [State.modQ, State.modChair, List.length_modify]
    exact hq.chair_lt
  · rw [hch, List.length_modify]
    exact hq.queue_lt
  · rw [hch]
    exact hq.placed

/-- The interpreter of a queue that is changed. -/
theorem State.HasQueue.cmdq_modQ (f : CmdQ → CmdQ) :
    ((s.modQ chair n f).chair chair).cmdq n = f ((s.chair chair).cmdq n) := State.cmdq_modQ hq.chair_lt hq.queue_lt f

/-- Once an entry is read its copy stands first among N of them, and nothing else of the interpreter changes (R376). -/
theorem State.HasQueue.cmdq_readEntry (e : List Word) : ((s.readEntry chair n e).chair chair).cmdq n =
    { (s.chair chair).cmdq n with
      copies := ((((s.chair chair).cmdq n).pos, e) :: ((s.chair chair).cmdq n).copies).take (2 ^ lg) } := by
  simp only [State.readEntry, hq.placed]
  rw [State.chair, (same_gpaTry _ _ _ _ _).chairs]
  exact hq.cmdq_modQ _

theorem State.HasQueue.readEntry (e : List Word) : (s.readEntry chair n e).HasQueue chair n base lg := by
  simp only [State.readEntry, hq.placed]
  exact (hq.modQ _).congr (same_gpaTry _ _ _ _ _).chairs

/-- An entry that sets BAD_ENTRY leaves the interpreter where it is, but for its copies (R322). -/
theorem State.HasQueue.cmdq_badEntry (kind : Nat) :
    ∃ l, ((s.badEntry chair n kind).chair chair).cmdq n = { (s.chair chair).cmdq n with copies := l } := by
  have hstatus (r : State) : ((r.setQueueStatus chair n 2 (some kind)).chair chair).cmdq n = (r.chair chair).cmdq n := by
    rw [State.chair, (same_setQueueStatus r chair n 2 (some kind)).chairs, State.chair]
  simp only [State.badEntry, hstatus]
  split
  next r _ _ =>
    split
    · refine ⟨r, ?_⟩
      rw [State.chair, (same_gpaTry _ _ _ _ _).chairs]
      exact hq.cmdq_modQ _
    · exact ⟨_, rfl⟩
  next => exact ⟨_, rfl⟩

/-- STATUS, or STATUS and BADK, is stored in the control record, where that is mapped (R322). -/
theorem State.HasQueue.setQueueStatus {key : Nat} {p : Perm} (hst : stage2 s chair (base + 16) = .ok (key, p)) (status : Nat) :
    s.setQueueStatus chair n status none = s.storeGlobal chair (base + 16) key 1 status ∧
    ∀ k, s.setQueueStatus chair n status (some k) = s.storeGlobal chair (base + 16) key 2 (k * 2 ^ 8 + status) := by
  simp only [State.setQueueStatus, hq.placed, hst, implies_true, and_self]

end

/-! ### What an act on a queue leaves -/

/-- An act gives a state whose interpreter of queue `n`, and which itself, have a property. -/
def Out.Acts (o : Out) (chair n : Nat) (now : CmdQ → State → Prop) : Prop :=
  ∃ u, o = .next u ∧ now ((u.chair chair).cmdq n) u

/-- An act leaves a queue at the entry before it, and every packet at the arbiter. -/
def State.Stays (s : State) (chair n : Nat) (o : Out) : Prop :=
  o.Acts chair n fun x u => x.pos = ((s.chair chair).cmdq n).pos ∧ x.skip = ((s.chair chair).cmdq n).skip ∧
    x.loops = ((s.chair chair).cmdq n).loops ∧ x.offered = ((s.chair chair).cmdq n).offered ∧ u.arb = s.arb

section
variable {s : State} {chair n base lg : Nat} (hq : s.HasQueue chair n base lg)
include hq

/-- BAD_ENTRY leaves a queue where it is. -/
theorem State.HasQueue.stays_badEntry (kind : Nat) : s.Stays chair n (.next (s.badEntry chair n kind)) := by
  obtain ⟨l, hl⟩ := hq.cmdq_badEntry kind
  refine ⟨_, rfl, ?_⟩
  rw [hl]
  exact ⟨rfl, rfl, rfl, rfl, (s.sameLaunches_badEntry chair n kind).arb⟩

/-- BAD_ENTRY after a failure, whose errors are counted, leaves a queue where it is. -/
theorem State.HasQueue.stays_failed (x : Fail) (kind : Nat) : s.Stays chair n (.next ((s.noteUe x).badEntry chair n kind)) := by
  have herr := s.errorsOnly_noteUe x
  have hchairs : (s.noteUe x).chairs = s.chairs := (congrArg State.chairs herr :)
  have harb : (s.noteUe x).arb = s.arb := (congrArg State.arb herr :)
  obtain ⟨u, hu, h⟩ := (hq.congr hchairs).stays_badEntry kind
  refine ⟨u, hu, ?_⟩
  simpa only [State.chair, hchairs, harb] using h

/-- BAD_ENTRY at an entry that was not only now read stores STATUS 2 and the KIND (R322). -/
theorem State.HasQueue.badEntry_stored (hw : s.MemWf) {key : Nat} {p : Perm} (hst : stage2 s chair (base + 16) = .ok (key, p))
    (hold : ∀ y, ((s.chair chair).cmdq n).copies.head? = some y → y.1 ≠ ((s.chair chair).cmdq n).pos) (kind : Nat) :
    s.Stored chair (base + 16) key 2 (kind * 2 ^ 8 + 2) (s.badEntry chair n kind) := by
  have hstatus : s.badEntry chair n kind = s.setQueueStatus chair n 2 (some kind) := by
    simp only [State.badEntry]
    split
    next p w r _ hcopies => rw [if_neg (hold (p, w) (by rw [hcopies]; rfl))]
    next => rfl
  rw [hstatus, (hq.setQueueStatus hst 2).2]
  exact State.stored_storeGlobal hw _ _ _ _ _

/-- Past an entry. -/
theorem State.HasQueue.cmdq_passEntry : ((s.passEntry chair n).chair chair).cmdq n =
    { (s.chair chair).cmdq n with pos := (((s.chair chair).cmdq n).pos + 1) % 2 ^ 64 } := hq.cmdq_modQ _

theorem State.HasQueue.passEntry : (s.passEntry chair n).HasQueue chair n base lg := hq.modQ _

/-- A queue goes past an entry. -/
theorem State.HasQueue.acts_passEntry {now : State → Prop} (h : now (s.passEntry chair n)) :
    Out.Acts (.next (s.passEntry chair n)) chair n fun x u => x.pos = (((s.chair chair).cmdq n).pos + 1) % 2 ^ 64 ∧ now u :=
  ⟨_, rfl, by rw [hq.cmdq_passEntry], h⟩

/-- A queue goes past an entry, and its interpreter changes. -/
theorem State.HasQueue.cmdq_modQ_passEntry (f : CmdQ → CmdQ) : (((s.passEntry chair n).modQ chair n f).chair chair).cmdq n =
    f { (s.chair chair).cmdq n with pos := (((s.chair chair).cmdq n).pos + 1) % 2 ^ 64 } := by
  rw [hq.passEntry.cmdq_modQ, hq.cmdq_passEntry]

end

/-! ### What an entry meets (R323, R376, R377) -/

/-- The act on a queue of an entry of a KIND. -/
def kindAct (q : QueueId) (kind : Nat) : Instr :=
  match kind with
  | 1 => .cmdLaunch q
  | 2 => .launchIndirect q
  | 3 => .cmdWait q
  | 4 => .signal q
  | 5 => .loopE q
  | 6 => .ifE q
  | 7 => .barrier q
  | 8 => .tableUpdate q
  | _ => .badEntry q

/-- The act of a KIND interprets entries of that KIND. -/
theorem exec_kindAct (s : State) (chair n kind : Nat) : ∃ kinds body, kinds kind = true ∧
    exec (kindAct (.chair chair n) kind) s = entryAct s (.chair chair n) kinds body := by
  match kind with
  | 1 => exact ⟨(· == 1), _, rfl, (rfl : execCmdLaunch _ _ = entryAct _ _ _ _)⟩
  | 2 => exact ⟨(· == 2), _, rfl, (rfl : execLaunchIndirect _ _ = entryAct _ _ _ _)⟩
  | 3 => exact ⟨(· == 3), _, rfl, (rfl : execCmdWait _ _ = entryAct _ _ _ _)⟩
  | 4 => exact ⟨(· == 4), _, rfl, (rfl : execSignal _ _ = entryAct _ _ _ _)⟩
  | 5 => exact ⟨(· == 5), _, rfl, (rfl : execLoopE _ _ = entryAct _ _ _ _)⟩
  | 6 => exact ⟨(· == 6), _, rfl, (rfl : execIfE _ _ = entryAct _ _ _ _)⟩
  | 7 => exact ⟨(· == 7), _, rfl, (rfl : execBarrier _ _ = entryAct _ _ _ _)⟩
  | 8 => exact ⟨(· == 8), fun _ _ _ => .fault .notEnabled, rfl, rfl⟩
  | 0 => exact ⟨fun k => k == 0 || decide (9 ≤ k), fun _ _ _ => .fault .notEnabled, rfl, rfl⟩
  | k + 9 => exact ⟨fun k => k == 0 || decide (9 ≤ k), fun _ _ _ => .fault .notEnabled, by simp, rfl⟩

section
variable {s : State} {chair n base lg : Nat} {e : List Word} {r : Bool} (hq : s.HasQueue chair n base lg)
  (he : s.queueEntry chair n = some (e, r))
include hq he

section
variable {kinds : Nat → Bool} {body : Nat → Nat → List Word → Out} (hk : kinds (entryKind e) = true)
include hk

omit hq in
theorem entryAct_skipped (hskip : 0 < ((s.chair chair).cmdq n).skip) : entryAct s (.chair chair n) kinds body =
    .next (((if r then s else s.readEntry chair n e).passEntry chair n).modQ chair n fun q => { q with skip := q.skip - 1 }) := by
  simp only [entryAct, he, needSome_some, need_of hk, if_pos hskip]

section
variable (hskip : ((s.chair chair).cmdq n).skip = 0)
include hskip

theorem entryAct_bad (hbad : entryOk e (2 ^ lg) ((s.chair chair).cmdq n).pos = false) :
    entryAct s (.chair chair n) kinds body = .next (s.badEntry chair n (entryKind e)) := by
  simp [entryAct, he, need_of hk, hskip, hq.placed, hbad]

theorem entryAct_sound (hok : entryOk e (2 ^ lg) ((s.chair chair).cmdq n).pos = true) :
    entryAct s (.chair chair n) kinds body = if r then body chair n e else .next (s.readEntry chair n e) := by
  cases r <;> simp [entryAct, he, need_of hk, hskip, hq.placed, hok]

end
end

/-- An entry that IF skips is consumed as it is written. -/
theorem kindAct_skipped (hskip : 0 < ((s.chair chair).cmdq n).skip) :
    Out.Acts (exec (kindAct (.chair chair n) (entryKind e)) s) chair n fun x _ =>
      x.pos = (((s.chair chair).cmdq n).pos + 1) % 2 ^ 64 ∧ x.skip = ((s.chair chair).cmdq n).skip - 1 := by
  obtain ⟨kinds, body, hk, hx⟩ := exec_kindAct s chair n (entryKind e)
  refine ⟨_, hx.trans (entryAct_skipped he hk hskip), ?_⟩
  cases r with
  | true =>
    rw [if_pos rfl, hq.cmdq_modQ_passEntry]
    exact ⟨rfl, rfl⟩
  | false =>
    rw [if_neg Bool.false_ne_true, (hq.readEntry e).cmdq_modQ_passEntry, hq.cmdq_readEntry]
    exact ⟨rfl, rfl⟩

section
variable (hskip : ((s.chair chair).cmdq n).skip = 0)
include hskip

/-- An entry that R323 refuses sets BAD_ENTRY. -/
theorem kindAct_bad (hbad : entryOk e (2 ^ lg) ((s.chair chair).cmdq n).pos = false) :
    exec (kindAct (.chair chair n) (entryKind e)) s = .next (s.badEntry chair n (entryKind e)) := by
  obtain ⟨kinds, body, hk, hx⟩ := exec_kindAct s chair n (entryKind e)
  exact hx.trans (entryAct_bad hq he hk hskip hbad)

/-- An entry that stands in the ring is read, and its copy is kept. -/
theorem kindAct_read (hr : r = false) (hok : entryOk e (2 ^ lg) ((s.chair chair).cmdq n).pos = true) :
    Out.Acts (exec (kindAct (.chair chair n) (entryKind e)) s) chair n fun x _ =>
      x.pos = ((s.chair chair).cmdq n).pos ∧ (((s.chair chair).cmdq n).pos, e) ∈ x.copies := by
  obtain ⟨kinds, body, hk, hx⟩ := exec_kindAct s chair n (entryKind e)
  refine ⟨_, hx.trans ((entryAct_sound hq he hk hskip hok).trans (if_neg (Bool.eq_false_iff.mp hr))), ?_⟩
  rw [hq.cmdq_readEntry]
  obtain ⟨m, hm⟩ := Nat.exists_eq_succ_of_ne_zero (Nat.two_pow_pos lg).ne'
  exact ⟨rfl, by rw [hm, List.take_succ_cons]; exact List.mem_cons_self⟩

end
end

end Sys2Proof.Machine

/-! PROOFS. What each entry does once it is read, and what an update of a table leaves (O58). -/

namespace Sys2Proof.Machine
open Sys2Proof

/-- The entry before the Bureau in a queue has been read, passes the checks of R323, and is skipped by no IF. -/
structure State.Before (s : State) (chair n base lg : Nat) (e : List Word) : Prop where
  queue : s.HasQueue chair n base lg
  entry : s.queueEntry chair n = some (e, true)
  unskipped : ((s.chair chair).cmdq n).skip = 0
  sound : entryOk e (2 ^ lg) ((s.chair chair).cmdq n).pos = true

/-- It acts as its KIND says. -/
theorem State.Before.exec_kindAct {s : State} {chair n base lg k : Nat} {e : List Word} (h : s.Before chair n base lg e)
    {i : Instr} {kinds : Nat → Bool} {body : Nat → Nat → List Word → Out} (hk : entryKind e = k)
    (hi : kindAct (.chair chair n) k = i) (hx : exec i s = entryAct s (.chair chair n) kinds body) (hkinds : kinds k = true) :
    exec (kindAct (.chair chair n) (entryKind e)) s = body chair n e := by
  rw [hk, hi, hx]
  exact (entryAct_sound h.queue h.entry (hk ▸ hkinds) h.unskipped h.sound).trans (if_pos rfl)

/-- How many times more a LOOP goes back: what is left of its count, or the count that it begins with. -/
def CmdQ.loopCount (c : CmdQ) (e : List Word) : Nat :=
  ((c.loops.find? (·.1 = c.pos)).map (·.2)).getD (entryDw e 1 % 2 ^ 32)

/-- The counts of the other LOOPs. -/
def CmdQ.otherLoops (c : CmdQ) : List (Nat × Nat) := c.loops.filter (·.1 ≠ c.pos)

/-! ### LAUNCH and LAUNCH_INDIRECT (R317, R345, R377, R385) -/

/-- A launch with no place for its handle, or one where it may be stored. -/
theorem handleFail_none {s : State} {chair store : Nat} (h : store = 0 ∨ ∃ k, gpaPlace s chair store = .ok k) :
    handleFail s chair store = none := by
  unfold handleFail
  split
  · rfl
  · obtain ⟨k, hk⟩ := h.resolve_left ‹_›
    rw [hk]

/-- ROOTS as it is read from memory stands in its field, 0 where it is above 2^24 − 1, and no other doubleword differs. -/
theorem withRoots_some {p : List Word} (hp : 2 < p.length) (r : Nat) :
    pkRoots (withRoots p (some r)) = (if r < 2 ^ 24 then r else 0) ∧ ∀ i, i ≠ 2 → (withRoots p (some r))[i]? = p[i]? := by
  refine ⟨?_, fun i hi => List.getElem?_set_ne hi.symm⟩
  have hw : pkDw p 2 < 2 ^ 64 := (p.getD 2 0).isLt
  have hr : (if r < 2 ^ 24 then r else 0) < 2 ^ 24 := by split <;> omega
  simp only [pkRoots, withRoots, pkDw] at hw ⊢
  generalize (if r < 2 ^ 24 then r else 0) = x at hr
  rw [List.getD_eq_getElem?_getD, List.getElem?_set_self hp, Option.getD_some, BitVec.toNat_ofNat]
  simp only [putField, bits]
  omega

/-- A packet offered to the arbiter. -/
def State.offer (s : State) (a : ArbEntry) : State := { s with arb := s.arb ++ [a] }

section
variable {s : State} {chair n base lg : Nat} {e : List Word} {roots : Option Nat}
  (hoff : ((s.chair chair).cmdq n).offered = false) (harb : s.arb.length < 256)
include hoff harb

theorem offerPacket_offers {v : Nat} (hv : gpaLoad s chair (entryDw e 1) 64 = .ok v)
    (hst : handleFail s chair (entryDw e 2) = none) : offerPacket s chair n e roots =
      .next ((s.offer (readPacket s chair (withRoots (dwsOf v 8) roots) (.table n 0 0 (entryDw e 2)))).modQ chair n fun q =>
        { q with offered := true }) := by
  simp [offerPacket, hoff, harb, hv, hst, need_of, State.offer]

theorem offerPacket_unread {x : Fail} (hx : gpaLoad s chair (entryDw e 1) 64 = .error x) :
    offerPacket s chair n e roots = .next ((s.noteUe x).badEntry chair n (entryKind e)) := by
  simp [offerPacket, hoff, harb, hx, need_of]

/-- A packet whose handle cannot be stored sets BAD_ENTRY, whether or not it can be read. -/
theorem offerPacket_unstored {x : Fail} (h0 : entryDw e 2 ≠ 0) (hx : gpaPlace s chair (entryDw e 2) = .error x) :
    ∃ y, offerPacket s chair n e roots = .next ((s.noteUe y).badEntry chair n (entryKind e)) := by
  have hst : handleFail s chair (entryDw e 2) = some x := by rw [handleFail, if_neg h0, hx]
  cases hv : gpaLoad s chair (entryDw e 1) 64 with
  | error y => exact ⟨y, offerPacket_unread hoff harb hv⟩
  | ok v => exact ⟨x, by simp [offerPacket, hoff, harb, hv, hst, need_of]⟩

/-- A packet that is offered stands last at the arbiter, and its queue stays at the entry. -/
theorem offerPacket_acts (hq : s.HasQueue chair n base lg) {v : Nat} (hv : gpaLoad s chair (entryDw e 1) 64 = .ok v)
    (hst : handleFail s chair (entryDw e 2) = none) :
    Out.Acts (offerPacket s chair n e roots) chair n fun x u => x.pos = ((s.chair chair).cmdq n).pos ∧ x.offered = true ∧
      u.hbm = s.hbm ∧ u.arb = s.arb ++ [readPacket s chair (withRoots (dwsOf v 8) roots) (.table n 0 0 (entryDw e 2))] := by
  refine ⟨_, offerPacket_offers hoff harb hv hst, ?_⟩
  have hoffer := hq.congr (t := s.offer (readPacket s chair (withRoots (dwsOf v 8) roots) (.table n 0 0 (entryDw e 2)))) rfl
  rw [hoffer.cmdq_modQ]
  exact ⟨rfl, rfl, rfl, rfl⟩

end

section
variable {s : State} {chair n base lg : Nat} {e : List Word} (h : s.Before chair n base lg e)
include h

theorem State.Before.exec_launch (hk : entryKind e = 1) :
    exec (kindAct (.chair chair n) (entryKind e)) s = offerPacket s chair n e none :=
  h.exec_kindAct hk rfl (rfl : execCmdLaunch _ _ = entryAct _ _ _ _) rfl

theorem State.Before.exec_launchIndirect (hk : entryKind e = 2) {r : Nat} (hr : gpaLoad s chair (entryDw e 3) 4 = .ok r) :
    exec (kindAct (.chair chair n) (entryKind e)) s = offerPacket s chair n e (some r) :=
  (h.exec_kindAct hk rfl (rfl : execLaunchIndirect _ _ = entryAct _ _ _ _) rfl).trans (by simp only [hr])

/-- A LAUNCH_INDIRECT whose ROOTS cannot be read stays. -/
theorem State.Before.stays_noRoots (hk : entryKind e = 2) {x : Fail} (hx : gpaLoad s chair (entryDw e 3) 4 = .error x) :
    s.Stays chair n (exec (kindAct (.chair chair n) (entryKind e)) s) := by
  rw [h.exec_kindAct hk rfl (rfl : execLaunchIndirect _ _ = entryAct _ _ _ _) rfl]
  simp only [hx]
  exact h.queue.stays_failed x 2

/-- A launch whose packet is offered under no ROOTS stays. -/
theorem State.Before.stays_unoffered (hk : entryKind e = 1 ∨ entryKind e = 2)
    (hbad : ∀ roots, ∃ y, offerPacket s chair n e roots = .next ((s.noteUe y).badEntry chair n (entryKind e))) :
    s.Stays chair n (exec (kindAct (.chair chair n) (entryKind e)) s) := by
  have hoffer (roots : Option Nat) : s.Stays chair n (offerPacket s chair n e roots) := by
    obtain ⟨y, hy⟩ := hbad roots
    rw [hy]
    exact h.queue.stays_failed y _
  obtain hk | hk := hk
  · rw [h.exec_launch hk]
    exact hoffer none
  · cases hr : gpaLoad s chair (entryDw e 3) 4 with
    | error x => exact h.stays_noRoots hk hr
    | ok r =>
      rw [h.exec_launchIndirect hk hr]
      exact hoffer (some r)

/-! ### WAIT and SIGNAL (R320, R377) -/

theorem State.Before.exec_wait_of_none (hk : entryKind e = 3) (hn : s.handleState chair (entryDw e 1) = none) :
    exec (kindAct (.chair chair n) (entryKind e)) s = .next (s.passEntry chair n) :=
  (h.exec_kindAct hk rfl (rfl : execCmdWait _ _ = entryAct _ _ _ _) rfl).trans (by simp only [hn])

theorem State.Before.exec_wait_of_done (hk : entryKind e = 3) {w : Word} (hd : s.handleState chair (entryDw e 1) = some (some w)) :
    exec (kindAct (.chair chair n) (entryKind e)) s =
      .next ((if bits (entryDw e 1) 56 2 = 1 then s.readHandle chair (entryDw e 1) else s).passEntry chair n) :=
  (h.exec_kindAct hk rfl (rfl : execCmdWait _ _ = entryAct _ _ _ _) rfl).trans (by simp only [hd])

theorem State.Before.exec_signal (hk : entryKind e = 4) {k : Nat} (hp : gpaPlace s chair (entryDw e 1) = .ok k) :
    exec (kindAct (.chair chair n) (entryKind e)) s =
      .next ((s.storeGlobal chair (entryDw e 1) k 8 (entryDw e 2)).passEntry chair n) :=
  (h.exec_kindAct hk rfl (rfl : execSignal _ _ = entryAct _ _ _ _) rfl).trans (by simp only [gpaStore, hp])

theorem State.Before.stays_unsignalled (hk : entryKind e = 4) {x : Fail} (hx : gpaPlace s chair (entryDw e 1) = .error x) :
    s.Stays chair n (exec (kindAct (.chair chair n) (entryKind e)) s) := by
  rw [h.exec_kindAct hk rfl (rfl : execSignal _ _ = entryAct _ _ _ _) rfl]
  simp only [gpaStore, hx]
  exact h.queue.stays_failed x 4

/-! ### LOOP, IF and BARRIER (R377, R378) -/

theorem State.Before.stays_crossing (hk : entryKind e = 5)
    (hcross : loopAcrossIf ((s.chair chair).cmdq n) ((s.chair chair).cmdq n).pos (bits (entryDw e 1) 32 16) = true) :
    s.Stays chair n (exec (kindAct (.chair chair n) (entryKind e)) s) := by
  rw [(h.exec_kindAct hk rfl (rfl : execLoopE _ _ = entryAct _ _ _ _) rfl).trans (if_pos hcross)]
  exact h.queue.stays_badEntry 5

/-- A LOOP goes past itself once its count is 0, and else goes back, the count one less. -/
theorem State.Before.exec_loop (hk : entryKind e = 5)
    (hcross : loopAcrossIf ((s.chair chair).cmdq n) ((s.chair chair).cmdq n).pos (bits (entryDw e 1) 32 16) = false) :
    let c := (s.chair chair).cmdq n
    exec (kindAct (.chair chair n) (entryKind e)) s = if c.loopCount e = 0
      then .next ((s.modQ chair n fun q => { q with loops := c.otherLoops }).passEntry chair n)
      else .next (s.modQ chair n fun q =>
        { q with loops := (c.pos, c.loopCount e - 1) :: c.otherLoops, pos := c.pos - bits (entryDw e 1) 32 16 }) := by
  intro c
  refine (h.exec_kindAct hk rfl (rfl : execLoopE _ _ = entryAct _ _ _ _) rfl).trans ((if_neg (Bool.eq_false_iff.mp hcross)).trans ?_)
  simp only [CmdQ.loopCount, c]
  cases ((s.chair chair).cmdq n).loops.find? (·.1 = ((s.chair chair).cmdq n).pos) <;> rfl

theorem State.Before.exec_if (hk : entryKind e = 6) {v : Nat} (hv : gpaLoad s chair (entryDw e 1) 8 = .ok v) :
    exec (kindAct (.chair chair n) (entryKind e)) s =
      .next ((s.passEntry chair n).modQ chair n fun q => { q with skip := if v = 0 then entryDw e 2 else 0 }) :=
  (h.exec_kindAct hk rfl (rfl : execIfE _ _ = entryAct _ _ _ _) rfl).trans (by simp only [hv])

theorem State.Before.stays_noCondition (hk : entryKind e = 6) {x : Fail} (hx : gpaLoad s chair (entryDw e 1) 8 = .error x) :
    s.Stays chair n (exec (kindAct (.chair chair n) (entryKind e)) s) := by
  rw [h.exec_kindAct hk rfl (rfl : execIfE _ _ = entryAct _ _ _ _) rfl]
  simp only [hx]
  exact h.queue.stays_failed x 6

theorem State.Before.exec_barrier (hk : entryKind e = 7)
    (hdone : ∀ id ∈ ((s.chair chair).cmdq n).launched, s.launch? id = none) :
    exec (kindAct (.chair chair n) (entryKind e)) s =
      .next ((s.passEntry chair n).modQ chair n fun q => { q with launched := [] }) :=
  (h.exec_kindAct hk rfl (rfl : execBarrier _ _ = entryAct _ _ _ _) rfl).trans
    (need_of (List.all_eq_true.mpr fun id hid => by rw [hdone id hid]; rfl) _)

end

/-- A change of the entry that a handle names leaves the queues of the chair, and memory. -/
theorem State.HasQueue.modHandle {s : State} {chair n base lg : Nat} (hq : s.HasQueue chair n base lg) (h : Nat)
    (f : CqEntry → CqEntry) : (s.modHandle chair h f).HasQueue chair n base lg ∧
      ((s.modHandle chair h f).chair chair).cmdq n = (s.chair chair).cmdq n ∧ (s.modHandle chair h f).hbm = s.hbm := by
  unfold State.modHandle
  dsimp only
  split
  · exact ⟨hq.congr rfl, rfl, rfl⟩
  · have hch := State.chair_modChair_same (fun c => { c with lt := modEntry c.lt 0 (bits h 32 12) (bits h 0 32) f }) hq.chair_lt
    refine ⟨⟨?_, ?_, ?_⟩, ?_, rfl⟩
    · rw [State.modChair, List.length_modify]
      exact hq.chair_lt
    · rw [hch]
      exact hq.queue_lt
    · rw [hch]
      exact hq.placed
    · rw [hch]
      rfl

/-- A handle that WAIT has gone past leaves the queues of the chair, and memory. -/
theorem State.HasQueue.readHandle {s : State} {chair n base lg : Nat} (hq : s.HasQueue chair n base lg) (h : Nat) :
    (s.readHandle chair h).HasQueue chair n base lg ∧
      ((s.readHandle chair h).chair chair).cmdq n = (s.chair chair).cmdq n ∧ (s.readHandle chair h).hbm = s.hbm := by
  obtain ⟨hq1, hcmdq1, hhbm1⟩ := hq.modHandle h fun e => if e.st = .done then { e with st := .read } else e
  unfold State.readHandle State.settleHandle
  split
  · exact ⟨hq1, hcmdq1, hhbm1⟩
  · obtain ⟨hq2, hcmdq2, hhbm2⟩ := hq1.modHandle h fun e => if e.st = .read then { e with st := .free } else e
    exact ⟨hq2, hcmdq2.trans hcmdq1, hhbm2.trans hhbm1⟩

/-- What a handle names does not depend on a queue's interpreter (R319). -/
theorem State.handleState_modQ (s : State) (chair n : Nat) (f : CmdQ → CmdQ) (c h : Nat) :
    (s.modQ chair n f).handleState c h = s.handleState c h := by
  have hlt : ((s.modQ chair n f).chair c).lt = (s.chair c).lt := by
    by_cases hc : c = chair
    · subst hc
      by_cases hlen : c < s.chairs.length
      · rw [State.modQ, State.chair_modChair_same _ hlen]
      · simp [State.modQ, State.modChair, State.chair, List.getD_eq_getElem?_getD, hlen]
    · rw [State.modQ, chair_modChair_ne _ _ hc]
  simp only [State.handleState, State.entry?, hlt]
  rfl

/-! ### The entries that act, by their KIND -/

theorem Out.Acts.of_eq {o o' : Out} {chair n : Nat} {now : CmdQ → State → Prop} (h : o = o') (ha : Out.Acts o' chair n now) :
    Out.Acts o chair n now := h ▸ ha

section
variable {s : State} {chair n base lg : Nat} {e : List Word} (h : s.Before chair n base lg e)
include h

/-- A WAIT goes past a handle that has completed, and frees its launch-table entry where no WAITC waits for it (R320). -/
theorem State.Before.acts_wait (hk : entryKind e = 3) {w : Word} (hd : s.handleState chair (entryDw e 1) = some (some w)) :
    Out.Acts (exec (kindAct (.chair chair n) (entryKind e)) s) chair n fun x u =>
      x.pos = (((s.chair chair).cmdq n).pos + 1) % 2 ^ 64 ∧ u.hbm = s.hbm ∧
        (bits (entryDw e 1) 56 2 = 1 → s.waitsOn chair (entryDw e 1) = false → u.handleState chair (entryDw e 1) = none) := by
  refine .of_eq (h.exec_wait_of_done hk hd) ?_
  by_cases hb : bits (entryDw e 1) 56 2 = 1
  · rw [if_pos hb]
    obtain ⟨hq, hcmdq, hhbm⟩ := h.queue.readHandle (entryDw e 1)
    refine ⟨_, rfl, ?_, hhbm, fun _ hlast => ?_⟩
    · rw [hq.cmdq_passEntry, hcmdq]
    · rw [State.passEntry, State.handleState_modQ]
      exact State.handleState_read hd hlast
  · rw [if_neg hb]
    exact ⟨_, rfl, by rw [h.queue.cmdq_passEntry], rfl, fun hb' => absurd hb' hb⟩

/-- A SIGNAL stores its value (R377). -/
theorem State.Before.acts_signal (hw : s.MemWf) (hk : entryKind e = 4) {k : Nat} (hp : gpaPlace s chair (entryDw e 1) = .ok k) :
    Out.Acts (exec (kindAct (.chair chair n) (entryKind e)) s) chair n fun x u =>
      x.pos = (((s.chair chair).cmdq n).pos + 1) % 2 ^ 64 ∧ s.Stored chair (entryDw e 1) k 8 (entryDw e 2) u :=
  .of_eq (h.exec_signal hk hp) <|
    (h.queue.congr (t := s.storeGlobal chair (entryDw e 1) k 8 (entryDw e 2)) rfl).acts_passEntry
      (State.stored_storeGlobal hw chair (entryDw e 1) k 8 (entryDw e 2))

section
variable (hk : entryKind e = 5)
  (hcross : loopAcrossIf ((s.chair chair).cmdq n) ((s.chair chair).cmdq n).pos (bits (entryDw e 1) 32 16) = false)
include hk hcross

/-- A LOOP whose count is 0 is passed, its count forgotten (R378). -/
theorem State.Before.acts_loopEnd (h0 : ((s.chair chair).cmdq n).loopCount e = 0) :
    Out.Acts (exec (kindAct (.chair chair n) (entryKind e)) s) chair n fun x u =>
      x.pos = (((s.chair chair).cmdq n).pos + 1) % 2 ^ 64 ∧ u.hbm = s.hbm ∧ ∀ y ∈ x.loops, y.1 ≠ ((s.chair chair).cmdq n).pos := by
  refine .of_eq ((h.exec_loop hk hcross).trans (if_pos h0)) ⟨_, rfl, ?_⟩
  rw [(h.queue.modQ _).cmdq_passEntry, h.queue.cmdq_modQ]
  exact ⟨rfl, rfl, fun y hy => by simpa using (List.mem_filter.mp hy).2⟩

/-- A LOOP whose count lasts goes back, its count one less (R378). -/
theorem State.Before.acts_loopBack (hpos : 0 < ((s.chair chair).cmdq n).loopCount e) :
    Out.Acts (exec (kindAct (.chair chair n) (entryKind e)) s) chair n fun x u =>
      x.pos = ((s.chair chair).cmdq n).pos - bits (entryDw e 1) 32 16 ∧ u.hbm = s.hbm ∧
        x.loops.find? (·.1 = ((s.chair chair).cmdq n).pos) =
          some (((s.chair chair).cmdq n).pos, ((s.chair chair).cmdq n).loopCount e - 1) := by
  refine .of_eq ((h.exec_loop hk hcross).trans (if_neg hpos.ne')) ⟨_, rfl, ?_⟩
  rw [h.queue.cmdq_modQ]
  exact ⟨rfl, rfl, List.find?_cons_of_pos (decide_eq_true rfl)⟩

end

/-- An IF is passed, and skips entries where its word is zero (R377). -/
theorem State.Before.acts_if (hk : entryKind e = 6) {v : Nat} (hv : gpaLoad s chair (entryDw e 1) 8 = .ok v) :
    Out.Acts (exec (kindAct (.chair chair n) (entryKind e)) s) chair n fun x u =>
      x.pos = (((s.chair chair).cmdq n).pos + 1) % 2 ^ 64 ∧ u.hbm = s.hbm ∧ x.skip = if v = 0 then entryDw e 2 else 0 := by
  refine .of_eq (h.exec_if hk hv) ⟨_, rfl, ?_⟩
  rw [h.queue.cmdq_modQ_passEntry]
  exact ⟨rfl, rfl, rfl⟩

/-- A BARRIER is passed once the launches of its queue have completed, and those are forgotten (R377). -/
theorem State.Before.acts_barrier (hk : entryKind e = 7)
    (hdone : ∀ id ∈ ((s.chair chair).cmdq n).launched, s.launch? id = none) :
    Out.Acts (exec (kindAct (.chair chair n) (entryKind e)) s) chair n fun x u =>
      x.pos = (((s.chair chair).cmdq n).pos + 1) % 2 ^ 64 ∧ u.hbm = s.hbm ∧ x.launched = [] := by
  refine .of_eq (h.exec_barrier hk hdone) ⟨_, rfl, ?_⟩
  rw [h.queue.cmdq_modQ_passEntry]
  exact ⟨rfl, rfl, rfl⟩

end

/-! ### The tables of the service's queue (R338 to R342) -/

theorem mem_replaceEntry_true {t : List TabEntry} {x y : TabEntry} :
    y ∈ replaceEntry t x true ↔ y = x ∨ y ∈ t ∧ y.idx ≠ x.idx := by
  simp only [replaceEntry, if_true, List.mem_append, List.mem_filter, List.mem_singleton, decide_eq_true_eq]
  constructor
  · rintro ((⟨hy, h⟩ | h) | ⟨hy, h⟩)
    · exact .inr ⟨hy, by omega⟩
    · exact .inl h
    · exact .inr ⟨hy, by omega⟩
  · rintro (h | ⟨hy, h⟩)
    · exact .inl (.inr h)
    · rcases Nat.lt_or_gt_of_ne h with h | h
      · exact .inl (.inl ⟨hy, h⟩)
      · exact .inr ⟨hy, h⟩

theorem mem_replaceEntry_false {t : List TabEntry} {x y : TabEntry} :
    y ∈ replaceEntry t x false ↔ y ∈ t ∧ y.idx ≠ x.idx := by
  simp only [replaceEntry, Bool.false_eq_true, if_false, List.append_nil, List.mem_append, List.mem_filter, decide_eq_true_eq]
  rw [← and_or_left, ne_iff_lt_or_gt]

/-- The image that an entry of the service's queue names, at the index that it names. -/
def State.tableImage (s : State) (e : List Word) : TabEntry := ⟨bits (entryDw e 1) 16 16, dwsOf (s.hbm.read (entryDw e 2) 32) 4, []⟩

/-- The entry at the head of the service's queue is a TABLE_UPDATE whose fields and image R342 allows. -/
structure State.Updating (s : State) (e : List Word) : Prop where
  head : s.svcQueue.head? = some e
  status : s.svcStatus = 0
  kind : entryKind e = 8
  dw0 : entryDw e 0 = 8
  reserved8 : bits (entryDw e 1) 8 8 = 0
  reserved32 : bits (entryDw e 1) 32 32 = 0
  zero : zeroFrom e 3 = true
  aligned : entryDw e 2 % 32 = 0
  inside : inCarve (entryDw e 2) 32 = true

/-- The update of a table: refused where the index lies outside it, emptied at the index by an image with V = 0, refused where
the image is bad, and else replaced. -/
def updateOut (refused emptied replaced : State) (outside gone bad : Prop) [Decidable outside] [Decidable gone] [Decidable bad] : Out :=
  if outside then .next refused else if gone then .next emptied else if bad then .next refused else .next replaced

section
variable {s refused emptied replaced : State} {outside gone bad : Prop} [Decidable outside] [Decidable gone] [Decidable bad]

theorem updateOut_outside (h : outside) : updateOut refused emptied replaced outside gone bad = .next refused := if_pos h

theorem updateOut_gone (h : ¬outside) (hg : gone) : updateOut refused emptied replaced outside gone bad = .next emptied :=
  (if_neg h).trans (if_pos hg)

theorem updateOut_bad (h : ¬outside) (hg : ¬gone) (hb : bad) :
    updateOut refused emptied replaced outside gone bad = .next refused := (if_neg h).trans ((if_neg hg).trans (if_pos hb))

theorem updateOut_replaced (h : ¬outside) (hg : ¬gone) (hb : ¬bad) :
    updateOut refused emptied replaced outside gone bad = .next replaced := (if_neg h).trans ((if_neg hg).trans (if_neg hb))

end

/-- An entry of the service's queue refused, its image having been read. -/
def State.refusedUpdate (s : State) (e : List Word) : State := { s.noteBytes (entryDw e 2) 32 with svcStatus := 2, svcBadk := 8 }

/-- An entry of the service's queue passed, its image having been read. -/
def State.passedUpdate (s : State) (e : List Word) : State := { s.noteBytes (entryDw e 2) 32 with svcQueue := s.svcQueue.tail }

/-- An entry passed, the vector that its image names having been read too. -/
def State.copiedUpdate (s : State) (e : List Word) : State :=
  (s.passedUpdate e).noteBytes ((s.tableImage e).field 2 0 64) (s.tableImage e).size

/-- What an update of a table does, by the table. -/
def State.updateTable (s : State) (e : List Word) : Nat → Out
  | 1 => updateOut (s.refusedUpdate e) { s.passedUpdate e with probes := replaceEntry s.probes (s.tableImage e) false }
      { s.copiedUpdate e with probes := replaceEntry s.probes (copyVector s (s.tableImage e)) true }
      (4096 ≤ bits (entryDw e 1) 16 16) ((!(s.tableImage e).valid) = true)
      ((!vectorOk false (s.probes.filter (·.idx ≠ bits (entryDw e 1) 16 16)) (s.tableImage e)) = true)
  | 2 => updateOut (s.refusedUpdate e) { s.passedUpdate e with steers := replaceEntry s.steers (s.tableImage e) false }
      { s.copiedUpdate e with steers := replaceEntry s.steers (copyVector s (s.tableImage e)) true }
      False ((!(s.tableImage e).valid) = true)
      ((!vectorOk true (s.steers.filter (·.idx ≠ bits (entryDw e 1) 16 16)) (s.tableImage e)) = true)
  | 3 => updateOut (s.refusedUpdate e) { s.passedUpdate e with policies := replaceEntry s.policies (s.tableImage e) false }
      { s.passedUpdate e with policies := replaceEntry s.policies (s.tableImage e) true }
      (256 ≤ bits (entryDw e 1) 16 16) ((s.tableImage e).field 3 63 1 = 0) ((!policyOk (s.tableImage e)) = true)
  | _ => .next (s.refusedUpdate e)

/-- An index that lies outside its table, and a table that there is none of, are refused (R342). -/
theorem State.updateTable_outside (s : State) (e : List Word) {table : Nat}
    (h : table = 1 ∧ 4096 ≤ bits (entryDw e 1) 16 16 ∨ table = 3 ∧ 256 ≤ bits (entryDw e 1) 16 16 ∨ table ∉ [1, 2, 3]) :
    s.updateTable e table = .next (s.refusedUpdate e) := by
  obtain ⟨rfl, hidx⟩ | ⟨rfl, hidx⟩ | hnone := h
  · exact updateOut_outside hidx
  · exact updateOut_outside hidx
  · match table with
    | 1 | 2 | 3 => simp at hnone
    | 0 | _ + 4 => rfl

section
variable {s : State} {e : List Word} (h : s.Updating e)
include h

theorem State.Updating.exec_eq : exec (.tableUpdate .service) s = s.updateTable e (entryDw e 1 % 256) := by
  have hsound : ¬(entryDw e 0 ≠ 0x08 ∨ bits (entryDw e 1) 8 8 ≠ 0 ∨ bits (entryDw e 1) 32 32 ≠ 0 ∨ (!zeroFrom e 3) = true ∨
      entryDw e 2 % 32 ≠ 0 ∨ (!inCarve (entryDw e 2) 32) = true) := by
    simp [h.dw0, h.reserved8, h.reserved32, h.zero, h.aligned, h.inside]
  simp only [exec, execTableUpdate, h.head, needSome_some]
  rw [need_of (by simp [h.status, h.kind]), if_neg hsound]
  generalize entryDw e 1 % 256 = table
  match table with
  | 0 | 1 | 2 | 3 | _ + 4 => rfl

end

/-- An update that passes its entry leaves HBM, and the state that it gives meets `now`. -/
def State.Updates (s : State) (o : Out) (now : State → Prop) : Prop :=
  ∃ u, o = .next u ∧ u.svcStatus = 0 ∧ u.svcQueue = s.svcQueue.tail ∧ u.hbm = s.hbm ∧ now u

/-- An update refused sets BAD_ENTRY with its KIND, and changes nothing else but the errors counted. -/
def State.Refuses (s : State) (o : Out) : Prop :=
  ∃ u, o = .next u ∧ u = { s with svcStatus := 2, svcBadk := 8, stackErrs := u.stackErrs }

theorem State.refuses_of_eq {s : State} {e : List Word} {o : Out} (h : o = .next (s.refusedUpdate e)) : s.Refuses o :=
  ⟨_, h, rfl⟩

section
variable {s : State} {e : List Word} (h : s.Updating e)
include h

/-- The update of the probe table. -/
theorem State.Updating.probes (ht : entryDw e 1 % 256 = 1) (hidx : bits (entryDw e 1) 16 16 < 4096) :
    ((s.tableImage e).valid = false → s.Updates (exec (.tableUpdate .service) s) fun u =>
      ∀ y, y ∈ u.probes ↔ y ∈ s.probes ∧ y.idx ≠ bits (entryDw e 1) 16 16) ∧
    ((s.tableImage e).valid = true → vectorOk false (s.probes.filter (·.idx ≠ bits (entryDw e 1) 16 16)) (s.tableImage e) = true →
      s.Updates (exec (.tableUpdate .service) s) fun u =>
        ∀ y, y ∈ u.probes ↔ y = copyVector s (s.tableImage e) ∨ y ∈ s.probes ∧ y.idx ≠ bits (entryDw e 1) 16 16) ∧
    ((s.tableImage e).valid = true → vectorOk false (s.probes.filter (·.idx ≠ bits (entryDw e 1) 16 16)) (s.tableImage e) = false →
      s.Refuses (exec (.tableUpdate .service) s)) := by
  have hx : exec (.tableUpdate .service) s = s.updateTable e 1 := by rw [h.exec_eq, ht]
  refine ⟨fun hv => ?_, fun hv hok => ?_, fun hv hbad => ?_⟩
  · exact ⟨_, hx.trans (updateOut_gone hidx.not_ge (by rw [hv]; rfl)), h.status, rfl, rfl, fun _ => mem_replaceEntry_false⟩
  · exact ⟨_, hx.trans (updateOut_replaced hidx.not_ge (by rw [hv]; exact Bool.false_ne_true) (by rw [hok]; exact Bool.false_ne_true)),
      h.status, rfl, rfl, fun _ => mem_replaceEntry_true⟩
  · exact State.refuses_of_eq (hx.trans (updateOut_bad hidx.not_ge (by rw [hv]; exact Bool.false_ne_true) (by rw [hbad]; rfl)))

/-- The update of the steering table, which holds every index. -/
theorem State.Updating.steers (ht : entryDw e 1 % 256 = 2) :
    ((s.tableImage e).valid = false → s.Updates (exec (.tableUpdate .service) s) fun u =>
      ∀ y, y ∈ u.steers ↔ y ∈ s.steers ∧ y.idx ≠ bits (entryDw e 1) 16 16) ∧
    ((s.tableImage e).valid = true → vectorOk true (s.steers.filter (·.idx ≠ bits (entryDw e 1) 16 16)) (s.tableImage e) = true →
      s.Updates (exec (.tableUpdate .service) s) fun u =>
        ∀ y, y ∈ u.steers ↔ y = copyVector s (s.tableImage e) ∨ y ∈ s.steers ∧ y.idx ≠ bits (entryDw e 1) 16 16) ∧
    ((s.tableImage e).valid = true → vectorOk true (s.steers.filter (·.idx ≠ bits (entryDw e 1) 16 16)) (s.tableImage e) = false →
      s.Refuses (exec (.tableUpdate .service) s)) := by
  have hx : exec (.tableUpdate .service) s = s.updateTable e 2 := by rw [h.exec_eq, ht]
  refine ⟨fun hv => ?_, fun hv hok => ?_, fun hv hbad => ?_⟩
  · exact ⟨_, hx.trans (updateOut_gone not_false (by rw [hv]; rfl)), h.status, rfl, rfl, fun _ => mem_replaceEntry_false⟩
  · exact ⟨_, hx.trans (updateOut_replaced not_false (by rw [hv]; exact Bool.false_ne_true) (by rw [hok]; exact Bool.false_ne_true)),
      h.status, rfl, rfl, fun _ => mem_replaceEntry_true⟩
  · exact State.refuses_of_eq (hx.trans (updateOut_bad not_false (by rw [hv]; exact Bool.false_ne_true) (by rw [hbad]; rfl)))

/-- The update of the policy table, whose entries copy no vector. -/
theorem State.Updating.policies (ht : entryDw e 1 % 256 = 3) (hidx : bits (entryDw e 1) 16 16 < 256) :
    ((s.tableImage e).field 3 63 1 = 0 → s.Updates (exec (.tableUpdate .service) s) fun u =>
      ∀ y, y ∈ u.policies ↔ y ∈ s.policies ∧ y.idx ≠ bits (entryDw e 1) 16 16) ∧
    ((s.tableImage e).field 3 63 1 = 1 → policyOk (s.tableImage e) = true →
      s.Updates (exec (.tableUpdate .service) s) fun u =>
        ∀ y, y ∈ u.policies ↔ y = s.tableImage e ∨ y ∈ s.policies ∧ y.idx ≠ bits (entryDw e 1) 16 16) ∧
    ((s.tableImage e).field 3 63 1 = 1 → policyOk (s.tableImage e) = false → s.Refuses (exec (.tableUpdate .service) s)) := by
  have hx : exec (.tableUpdate .service) s = s.updateTable e 3 := by rw [h.exec_eq, ht]
  refine ⟨fun hv => ?_, fun hv hok => ?_, fun hv hbad => ?_⟩
  · exact ⟨_, hx.trans (updateOut_gone hidx.not_ge hv), h.status, rfl, rfl, fun _ => mem_replaceEntry_false⟩
  · exact ⟨_, hx.trans (updateOut_replaced hidx.not_ge (by rw [hv]; exact one_ne_zero) (by rw [hok]; exact Bool.false_ne_true)),
      h.status, rfl, rfl, fun _ => mem_replaceEntry_true⟩
  · exact State.refuses_of_eq (hx.trans (updateOut_bad hidx.not_ge (by rw [hv]; exact one_ne_zero) (by rw [hbad]; rfl)))

end

/-! ### The statement -/

theorem exec_commandQueueOverflow {s : State} {chair n base lg fill : Nat} (hq : s.HasQueue chair n base lg)
    (hfill : s.queueFill chair n = some fill) (hno : ∀ x ∈ ((s.chair chair).cmdq n).copies, x.1 ≠ ((s.chair chair).cmdq n).pos)
    (hover : 2 ^ lg < fill) : exec (.commandQueueOverflow (.chair chair n)) s = .next (s.setQueueStatus chair n 1 none) := by
  have hany : ((s.chair chair).cmdq n).copies.any (·.1 = ((s.chair chair).cmdq n).pos) = false :=
    List.any_eq_false.mpr fun x hx => by simpa using hno x hx
  simp only [exec, execCommandQueueOverflow, hq.placed, hfill, needSome_some]
  exact need_of (by simp [hany, hover]) _

theorem exec_badEntry_service {s : State} {e : List Word} (hhead : s.svcQueue.head? = some e) (hstatus : s.svcStatus = 0)
    (hk : entryKind e ≠ 8) : exec (.badEntry .service) s = .next { s with svcStatus := 2, svcBadk := entryKind e } := by
  simp only [exec, execBadEntry, hhead, needSome_some]
  exact need_of (by simp [hstatus, hk]) _

/-- Settles O58, by the KIND of the entry that is before the Bureau. -/
theorem queueEntriesAct : Obligations.QueueEntriesAct := by
  intro s chair n e base lg key p q c acts past status kind d op stays hw hplaced hn hst
  have hq := State.HasQueue.of_placed hplaced hn
  refine ⟨fun fill hfill hno hover => ?overflow, fun r he hskip => kindAct_skipped hq he hskip,
    fun r he hskip hbad => ?bad, fun he hskip hok => kindAct_read hq he hskip rfl hok, fun he hskip hok => ?acts,
    fun hhead hstatus => ⟨fun hk => ?svcBad, fun hk h0 h8 h32 hz hal hin => ?tables⟩⟩
  case overflow =>
    refine ⟨_, exec_commandQueueOverflow hq hfill hno hover, ?_⟩
    rw [(hq.setQueueStatus hst 1).1]
    exact State.stored_storeGlobal hw chair (base + 16) key 1 1
  case bad =>
    have hx := kindAct_bad hq he hskip hbad
    exact ⟨Out.Acts.of_eq hx (hq.stays_badEntry kind), fun hold => ⟨_, hx, hq.badEntry_stored hw hst hold kind⟩⟩
  case acts =>
    have hb : s.Before chair n base lg e := ⟨hq, he, hskip, hok⟩
    intro stored
    refine ⟨fun v hk hoff harb hv hstored =>
        Out.Acts.of_eq (hb.exec_launch hk) (offerPacket_acts hoff harb hq hv (handleFail_none hstored)),
      fun v r hk hoff harb hv hr hstored => ?indirect,
      fun x hk hoff harb hx => hb.stays_unoffered hk fun _ => ⟨x, offerPacket_unread hoff harb hx⟩,
      fun x hk hoff harb h0 hx => hb.stays_unoffered hk fun _ => offerPacket_unstored hoff harb h0 hx,
      fun x hk hx => hb.stays_noRoots hk hx,
      fun hk hnone => Out.Acts.of_eq (hb.exec_wait_of_none hk hnone) (hq.acts_passEntry (now := fun u => u.hbm = s.hbm) rfl),
      fun w hk hd => hb.acts_wait hk hd,
      fun k hk hp => hb.acts_signal hw hk hp,
      fun x hk hx => hb.stays_unsignalled hk hx,
      fun hk hcross => ⟨fun h0 => hb.acts_loopEnd hk hcross h0, fun hpos => hb.acts_loopBack hk hcross hpos⟩,
      fun hk hcross => hb.stays_crossing hk hcross,
      fun v hk hv => hb.acts_if hk hv,
      fun x hk hx => hb.stays_noCondition hk hx,
      fun hk hdone => hb.acts_barrier hk hdone⟩
    case indirect =>
      obtain ⟨u, hu, hpos, hoffered, hhbm, harb'⟩ := offerPacket_acts (roots := some r) hoff harb hq hv (handleFail_none hstored)
      exact ⟨u, (hb.exec_launchIndirect hk hr).trans hu, hpos, hoffered, hhbm, _, harb', withRoots_some (by simp [dwsOf]) r⟩
  case svcBad => exact ⟨_, exec_badEntry_service hhead hstatus hk, rfl, rfl, rfl⟩
  case tables =>
    intro idx new updates refused replaced emptied
    have hu : s.Updating e := ⟨hhead, hstatus, hk, h0, h8, h32, hz, hal, hin⟩
    exact ⟨fun ht hidx => hu.probes ht hidx, fun ht => hu.steers ht, fun ht hidx => hu.policies ht hidx,
      fun ht => State.refuses_of_eq (hu.exec_eq.trans (s.updateTable_outside e ht))⟩

end Sys2Proof.Machine

/-! PROOFS. What a command keeps as it issues and as it acts (O54). -/

namespace Sys2Proof.Machine
open Sys2Proof

/-! ### A command and its progress (R211, R220, R318) -/

/-- A command without its progress: who it is, and what it fired with. -/
def Eng.asFired (e : Eng) : Eng :=
  { e with todo := [], done := [], desc := [], data := [], status := 0, count := 0, binding := none, rows := [] }

/-- The commands of every core. -/
def State.commands (s : State) : List (List Eng) := s.cores.map (·.engs)

theorem State.commands_modCore (s : State) (c : Nat) {f : Core → Core} (h : ∀ k, (f k).engs = k.engs) :
    (s.modCore c f).commands = s.commands := List.map_modify_same h _ _

theorem State.engs_of_commands {s t : State} (h : t.commands = s.commands) (c : Nat) : (t.core c).engs = (s.core c).engs := by
  have hget (u : State) : (u.core c).engs = u.commands.getD c [] := (List.getD_map u.cores Core.reset Core.engs).symm
  rw [hget, h, hget]

theorem State.length_of_commands {s t : State} (h : t.commands = s.commands) : t.cores.length = s.cores.length := by
  simpa [State.commands] using congrArg List.length h

theorem State.commands_noteUe (s : State) (x : Fail) : (s.noteUe x).commands = s.commands :=
  foldl_keeps (P := fun r => r.commands = s.commands)
    (fun r c hr => (r.commands_modCore c.1 (f := fun k => { k with errs := k.errs.modify 0 (·.consume c.2) }) fun _ => rfl).trans hr)
    _ _ rfl

/-- A command that stops only notes an uncorrectable error. -/
@[simp] theorem Eng.commands_stop (x : Eng) (r : State) (f : Fail) (n : Nat) : (x.stop r f n).1.commands = r.commands := r.commands_noteUe f

@[simp] theorem State.commands_setBinding (s : State) (chair n : Nat) (b : Option Binding) : (s.setBinding chair n b).commands = s.commands := rfl

/-- What a command did left the commands of every core, and of its own all but its progress. -/
structure Eng.Keeps (e : Eng) (s : State) (o : EngOut) : Prop where
  commands : o.1.commands = s.commands
  asFired : o.2.asFired = e.asFired

theorem Eng.keeps_stop {e x : Eng} {s r : State} (hx : x.asFired = e.asFired) (hr : r.commands = s.commands) (f : Fail) (n : Nat) :
    e.Keeps s (x.stop r f n) := ⟨(x.commands_stop r f n).trans hr, hx⟩

theorem Eng.keeps_readDesc (e : Eng) (s : State) (core : Nat) (sl : Slot) (n : Nat) {k : Eng → EngOut}
    (h : ∀ x, x.asFired = e.asFired → e.Keeps s (k x)) : e.Keeps s (e.readDesc s core sl n k) := by
  unfold Eng.readDesc
  dsimp only
  split
  · exact Eng.keeps_stop rfl rfl _ _
  · exact h _ rfl

/-- A probe that crosses counts it at its tap, and wherever the grant was read, no command changes. -/
theorem Eng.keeps_evalStap {e x : Eng} (hx : x.asFired = e.asFired) (s : State) (core : Nat) (sl : Slot) (f : FStap) (key : Nat) :
    e.Keeps s (evalStap s core sl f x key) := by
  unfold evalStap
  dsimp only
  generalize hr : (if bit x.tap 0 = true then s.noteGrant ((s.chair sl.chair).probeByte (bits x.tap 4 12)) else s) = r
  have hcmd : r.commands = s.commands := by rw [← hr]; split <;> rfl
  split
  · exact Eng.keeps_stop hx hcmd _ _
  · split
    · refine ⟨Eq.trans ?_ hcmd, hx⟩
      refine (State.commands_modCore _ _ ?_).trans
        (State.commands_modCore r core (f := fun k => { k with slots := k.slots.modify x.slot (Option.map _) }) ?_)
      · intro _; rfl
      · intro _; rfl
    · exact ⟨hcmd, hx⟩

/-- STAP at issue: it stops at a check, or its row is evaluated. -/
theorem Eng.keeps_startStap (e : Eng) (s : State) (core : Nat) (sl : Slot) (f : FStap) : e.Keeps s (startStap s core sl f e) := by
  unfold startStap
  dsimp only
  generalize (List.range 4).map _ = desc
  have hx : ({ e with desc := desc } : Eng).asFired = e.asFired := rfl
  generalize ({ e with desc := desc } : Eng) = x at hx
  split
  · exact ⟨rfl, hx⟩
  · split
    · exact ⟨rfl, hx⟩
    · split
      · exact ⟨rfl, hx⟩
      · split
        · exact Eng.keeps_stop hx rfl _ _
        · split
          · exact Eng.keeps_stop hx rfl _ _
          · exact Eng.keeps_evalStap hx s core sl f _

/-- SMPL at issue: it stops at a check, or its request is captured. -/
theorem Eng.keeps_startSmpl (e : Eng) (s : State) (core : Nat) (sl : Slot) (f : FSmpl) : e.Keeps s (startSmpl s core sl f e) := by
  refine e.keeps_readDesc _ _ _ _ fun x hx => ?_
  dsimp only
  have hr : (s.noteGrant ((s.chair sl.chair).policyByte (bits (x.dw 1) 16 8))).commands = s.commands := rfl
  generalize s.noteGrant ((s.chair sl.chair).policyByte (bits (x.dw 1) 16 8)) = r at hr
  split
  · exact ⟨hr, hx⟩
  · split
    · exact ⟨hr, hx⟩
    · split
      · exact ⟨hr, hx⟩
      · split
        · exact Eng.keeps_stop hx hr _ _
        · exact Eng.keeps_stop hx hr _ _
        · split
          · exact ⟨hr, hx⟩
          · exact ⟨hr, hx⟩

/-- LAUNCH at issue: its packet cannot be read, or goes to the arbiter. -/
theorem Eng.keeps_startLaunch (e : Eng) (s : State) (core : Nat) (sl : Slot) : e.Keeps s (startLaunch s core sl e) := by
  unfold startLaunch
  split
  · exact Eng.keeps_stop rfl rfl _ _
  · exact ⟨rfl, rfl⟩

/-- PATCH at issue: it stops at a check, or its record is read. -/
theorem Eng.keeps_startPatch (e : Eng) (s : State) (sl : Slot) : e.Keeps s (startPatch s sl e) := by
  unfold startPatch
  dsimp only
  split
  · exact ⟨rfl, rfl⟩
  · split
    · exact Eng.keeps_stop rfl rfl _ _
    · split
      · exact Eng.keeps_stop rfl rfl _ _
      · exact ⟨rfl, rfl⟩

/-- What a command does at issue: it stops at one of its checks, or takes what it reads into its progress. -/
theorem Eng.keeps_startEng (e : Eng) (s : State) (core : Nat) (sl : Slot) : e.Keeps s (startEng s core sl e) := by
  unfold startEng
  split
  case h_1 | h_2 | h_3 | h_6 | h_8 | h_10 | h_14 =>
    refine e.keeps_readDesc _ _ _ _ fun x hx => ?_
    dsimp only
    repeat' split
    all_goals exact ⟨by simp, hx⟩
  case h_7 => exact e.keeps_startLaunch s core sl
  case h_11 => exact e.keeps_startPatch s sl
  case h_12 f _ => exact e.keeps_startStap s core sl f
  case h_13 f _ => exact e.keeps_startSmpl s core sl f
  all_goals exact ⟨rfl, rfl⟩

theorem State.commands_storeLocal (s : State) (core : Nat) (sl : Slot) (off n v : Nat) :
    (s.storeLocal core sl off n v).commands = s.commands :=
  s.commands_modCore core (f := fun k => { k with mem := _, poison := _ }) fun _ => rfl

theorem State.commands_seeing (s : State) (core : Nat) (sl : Slot) (ps : List PStore) : (s.seeing core sl ps).commands = s.commands := by
  refine foldl_keeps (P := fun r => r.commands = s.commands) (fun r p hr => ?_) _ _ rfl
  split
  · exact (r.commands_storeLocal _ _ _ _ _).trans hr
  · split
    · split
      · exact hr
      · exact hr
    · exact hr

theorem State.commands_withMemory (s t : State) (core : Nat) : (s.withMemory t core).commands = s.commands := by
  show (s.modCore core _).commands = _
  exact s.commands_modCore core fun _ => rfl

/-- The issue of a command: it stands as it fired and is held no longer, and the commands of every core are as before. -/
theorem State.keeps_issueEng (s : State) (core : Nat) (sl : Slot) (e : Eng) :
    (e.atIssue sl).Keeps s (s.issueEng core sl e) := by
  obtain ⟨n, hn⟩ := s.seenBy_snd sl e
  have hseen : (s.seenBy sl e).2.commands = s.commands := (congrArg State.commands hn :)
  obtain ⟨hcmd, hown⟩ := (e.atIssue sl).keeps_startEng ((s.seenBy sl e).2.seeing core sl (s.seenBy sl e).1) core sl
  exact ⟨(State.commands_withMemory _ _ core).trans (hcmd.trans ((State.commands_seeing _ core sl _).trans hseen)), hown⟩

/-- What holds a command back and what it stands behind. -/
theorem Eng.atIssue_asFired (e : Eng) (sl : Slot) : (e.atIssue sl).asFired = { e.asFired with held := false } := by
  unfold Eng.atIssue
  split <;> rfl

/-- A held command that issues keeps its number and is held no longer. -/
theorem State.issueEng_id (s : State) (core : Nat) (sl : Slot) (e : Eng) :
    (s.issueEng core sl e).2.id = e.id ∧ (s.issueEng core sl e).2.held = false := by
  have h := ((s.keeps_issueEng core sl e).asFired).trans (e.atIssue_asFired sl)
  exact ⟨(congrArg Eng.id h :), (congrArg Eng.held h :)⟩

section
variable {s : State} {core : Nat} {sl : Slot} {e : Eng}

/-- HELD_COMMAND_ISSUE takes the oldest held command that may issue (R318). -/
theorem execHeldCommandIssue_eq (s : State) (core : Nat) : execHeldCommandIssue core s =
    needSome ((s.core core).engs.find? (s.heldMay core)) fun e => needSome (s.slot? core e.slot) fun sl =>
      .next ((s.dropEng core e).issueOrHold core sl e) := by
  refine congrArg (fun p : Eng → Bool => needSome ((s.core core).engs.find? p) fun e => needSome (s.slot? core e.slot) fun sl =>
    .next ((s.dropEng core e).issueOrHold core sl e)) (funext fun x => ?_)
  unfold State.heldMay
  cases s.slot? core x.slot <;> rfl

theorem exec_heldCommandIssue (hfind : (s.core core).engs.find? (s.heldMay core) = some e) (hs : s.slot? core e.slot = some sl) :
    exec (.heldCommandIssue core) s = .next ((s.dropEng core e).issueOrHold core sl e) := by
  show execHeldCommandIssue core s = _
  rw [execHeldCommandIssue_eq, hfind, needSome_some, hs, needSome_some]

/-- A command that may issue joins its core's queue of commands (R318). -/
theorem State.issueOrHold_of_mayIssue (h : s.mayIssue core sl e (s.issueEng core sl e).2 = true) :
    s.issueOrHold core sl e =
      ((s.issueEng core sl e).1.addEng core (s.issueEng core sl e).2).perfEvent core sl.chair 0x08 1 := if_pos h

theorem State.engs_addEng_perfEvent (hc : core < s.cores.length) (x : Eng) (chair ev n : Nat) :
    (((s.addEng core x).perfEvent core chair ev n).core core).engs = (s.core core).engs ++ [x] := by
  rw [State.core_perfEvent _ _ _ _ _ (by simpa [State.addEng] using hc), State.addEng, State.core_modCore _ _ _ hc]

/-- The issue of the oldest held command that may: it stands behind those already on its core, and no memory changes (R211, R318). -/
theorem exec_heldCommandIssue_joins (hfind : (s.core core).engs.find? (s.heldMay core) = some e)
    (hs : s.slot? core e.slot = some sl) : ∃ u, exec (.heldCommandIssue core) s = .next u ∧
      (u.core core).engs = (s.core core).engs.filter (·.id ≠ e.id) ++ [((s.dropEng core e).issueEng core sl e).2] ∧
      s.SameMem u := by
  have hmay := List.find?_some hfind
  simp only [State.heldMay, hs, Option.any_some, Bool.and_eq_true] at hmay
  have hc := State.core_lt_of_slot hs
  have hcd : core < (s.dropEng core e).cores.length := by simpa [State.dropEng] using hc
  obtain ⟨hcmd, -⟩ := (s.dropEng core e).keeps_issueEng core sl e
  obtain ⟨hstill, hhbm⟩ := (s.dropEng core e).still_issueEng core sl e
  refine ⟨_, (exec_heldCommandIssue hfind hs).trans (congrArg _ (State.issueOrHold_of_mayIssue hmay.2)), ?_, ?_⟩
  · rw [State.engs_addEng_perfEvent (State.length_of_commands hcmd ▸ hcd), State.engs_of_commands hcmd, State.dropEng,
      State.core_modCore _ _ _ hc]
  · refine (s.sameMem_modCore core (f := fun k => { k with engs := k.engs.filter (·.id ≠ e.id) }) fun _ => rfl).trans
      ((State.sameMem_of_still hstill hhbm).trans ?_)
    exact (State.sameMem_modCore _ core (f := fun k => { k with engs := k.engs ++ [_] }) fun _ => rfl).trans
      (State.sameMem_perfEvent _ _ _ _ _)

/-! A copy whose descriptor has a reserved field (R211, R212). -/

/-- A field within a field. -/
theorem bits_bits (v : Nat) {a m lo n : Nat} (h : lo + n ≤ m) : bits (bits v a m) lo n = bits v (a + lo) n := by
  obtain ⟨d, rfl⟩ := Nat.exists_eq_add_of_le h
  simp only [bits, Nat.pow_add, Nat.mul_assoc, Nat.mod_mul_right_div_self, Nat.mod_mul_right_mod, Nat.div_div_eq_div_mul]

/-- A doubleword of a descriptor that was read as one value. -/
theorem Eng.dw_dwsOf (e : Eng) (v : Nat) {n i : Nat} (h : i < n) : ({ e with desc := dwsOf v n } : Eng).dw i = bits v (64 * i) 64 := by
  have hlt : bits v (64 * i) 64 < 2 ^ 64 := Nat.mod_lt _ (by decide)
  simpa [Eng.dw, dwsOf, dwOf, List.getD_eq_getElem?_getD, h] using hlt

theorem State.localFail_of_sound {off n : Nat} (h : s.poisonedLocal core sl off n = false) : s.localFail core sl off n = none := by
  have hnil : (sl.localWords off n).filter ((s.core core).poison.contains ·) = [] :=
    List.filter_eq_nil_iff.mpr fun w hw => by simpa using List.any_eq_false.mp h w hw
  simp only [State.localFail, hnil, List.isEmpty_nil, if_true]

theorem Eng.readDesc_of_sound {n : Nat} (h : s.poisonedLocal core sl (e.a.toNat % 2 ^ 64) (8 * n) = false) (k : Eng → EngOut) :
    e.readDesc s core sl n k = k { e with desc := dwsOf (s.readLocal core sl (e.a.toNat % 2 ^ 64) (8 * n)) n } := by
  unfold Eng.readDesc
  dsimp only
  rw [State.localFail_of_sound h]

/-- A copy whose descriptor has a reserved field ends with RESERVED_FIELD (R212). -/
theorem startCopy_reserved (hp : s.poisonedLocal core sl (e.a.toNat % 2 ^ 64) 32 = false)
    (hd : let d := s.readLocal core sl (e.a.toNat % 2 ^ 64) 32
      bits d 196 9 ≠ 0 ∨ bits d 192 2 ≠ 0 ∨ bits d 224 32 = 0) :
    (startCopy s core sl e).2.todo = [] ∧ (startCopy s core sl e).2.status = FC.reservedField ∧
      (startCopy s core sl e).2.count = 0 := by
  have hx := e.dw_dwsOf (s.readLocal core sl (e.a.toNat % 2 ^ 64) 32) (n := 4) (i := 3) (by decide)
  have hdesc := Eng.readDesc_of_sound (n := 4) hp
  rw [startCopy, hdesc]
  generalize s.readLocal core sl (e.a.toNat % 2 ^ 64) (8 * 4) = d at hd hx
  generalize ({ e with desc := dwsOf d 4 } : Eng) = x at hx
  have hmid := bits_bits d (a := 192) (m := 64) (lo := 4) (n := 9) (by decide)
  have hlow := bits_bits d (a := 192) (m := 64) (lo := 0) (n := 2) (by decide)
  have hcount := bits_bits d (a := 192) (m := 64) (lo := 32) (n := 32) (by decide)
  dsimp only
  rw [if_pos]
  · exact ⟨rfl, rfl, rfl⟩
  · rw [Eng.total, hx]
    rcases hd with hd | hd | hd
    · exact .inl fun h => hd (hmid.symm.trans h)
    · exact .inr (.inl fun h => hd (hlow.symm.trans h))
    · exact .inr (.inr (.inl (hcount.trans hd)))

/-- A command that has nothing of its strand to see reads memory as it stands (R211). -/
theorem State.issueEng_of_nothing_seen (h : sl.storesFor e = []) :
    (s.issueEng core sl e).2 = (startEng s core sl (e.atIssue sl)).2 := by
  have hseen : s.seenBy sl e = ([], s) := by
    unfold State.seenBy
    rw [h]
    split <;> rfl
  unfold State.issueEng
  rw [hseen]
  rfl

theorem startEng_copy (h : (∃ f, e.instr = .xcopy f) ∨ ∃ f, e.instr = .xfill f) :
    startEng s core sl (e.atIssue sl) = startCopy s core sl { e with held := false } := by
  obtain ⟨f, hf⟩ | ⟨f, hf⟩ := h <;> simp only [Eng.atIssue, hf, startEng]

theorem State.poisonedLocal_dropEng (hc : core < s.cores.length) (off n : Nat) :
    (s.dropEng core e).poisonedLocal core sl off n = s.poisonedLocal core sl off n := by
  rw [State.poisonedLocal, State.dropEng, State.core_modCore _ _ _ hc]
  rfl

/-- A copy that issues with a reserved field in its descriptor ends there, and nothing is moved (R211, R212). -/
theorem State.issueEng_reserved (hs : s.slot? core e.slot = some sl) (hcopy : (∃ f, e.instr = .xcopy f) ∨ ∃ f, e.instr = .xfill f)
    (hseen : sl.storesFor e = []) (hp : s.poisonedLocal core sl (e.a.toNat % 2 ^ 64) 32 = false)
    (hd : let d := s.readLocal core sl (e.a.toNat % 2 ^ 64) 32
      bits d 196 9 ≠ 0 ∨ bits d 192 2 ≠ 0 ∨ bits d 224 32 = 0) :
    let x := ((s.dropEng core e).issueEng core sl e).2
    x.todo = [] ∧ x.status = FC.reservedField ∧ x.count = 0 := by
  have hc := State.core_lt_of_slot hs
  have hmem : ((s.dropEng core e).core core).mem = (s.core core).mem := by rw [State.dropEng, State.core_modCore _ _ _ hc]
  rw [State.issueEng_of_nothing_seen hseen, startEng_copy hcopy]
  refine startCopy_reserved (e := { e with held := false }) ?_ ?_
  · rw [State.poisonedLocal_dropEng hc]
    exact hp
  · rw [State.readLocal_congr hmem]
    exact hd

end

end Sys2Proof.Machine

/-! PROOFS. What a unit of a command leaves, and its completion (O54). -/

namespace Sys2Proof.Machine
open Sys2Proof

/-! ### A command as it stands after an act -/

/-- After an act that answers `u`, the command of a number stands on its core with a unit less to apply. -/
def Eng.Acts (e : Eng) (core k : Nat) (o : Out) (now : State → Eng → Prop) : Prop :=
  ∃ u x, o = .next u ∧ (u.core core).engs.find? (·.id = e.id) = some x ∧ x.todo = e.todo.erase k ∧ now u x

section
variable {s t : State} {core : Nat} {e x : Eng}

/-- What loads read ahead is given up, and nothing else changes of a core. -/
theorem State.commands_engineActed (s : State) : s.engineActed.commands = s.commands := by
  simp [State.commands, State.engineActed]

theorem State.sameMem_acted (t : State) (core : Nat) (x : Eng) : t.SameMem (t.engineActed.setEng core x) :=
  (t.sameMem_map (fun k => { k with loads := k.loads.map fun l => { l with pre := [] } }) fun _ => rfl).trans
    (State.sameMem_modCore _ core (f := fun k => { k with engs := k.engs.map fun y => if y.id = x.id then x else y }) fun _ => rfl)

/-- A command that is replaced stands in its place. -/
theorem find?_engs_set {l : List Eng} (h : l.find? (·.id = e.id) = some e) (hid : x.id = e.id) :
    (l.map fun y => if y.id = x.id then x else y).find? (·.id = e.id) = some x := by
  induction l with
  | nil => cases h
  | cons y r ih =>
    by_cases hy : y.id = e.id
    · simp [hy, hid]
    · rw [List.find?_cons_of_neg (by simpa using hy)] at h
      simpa [hy, hid] using ih h

/-- A command that has acted, in a state that has the commands it found, stands on its core as the act left it. -/
theorem State.find_acted (hc : core < s.cores.length) (hfind : (s.core core).engs.find? (·.id = e.id) = some e)
    (hcmd : t.commands = s.commands) (hid : x.id = e.id) :
    ((t.engineActed.setEng core x).core core).engs.find? (·.id = e.id) = some x := by
  have hsame : t.engineActed.commands = s.commands := t.commands_engineActed.trans hcmd
  rw [State.setEng, State.core_modCore _ _ _ (State.length_of_commands hsame ▸ hc)]
  dsimp only
  rw [State.engs_of_commands hsame]
  exact find?_engs_set hfind hid

theorem Eng.acts_setEng {k : Nat} (hc : core < s.cores.length) (hfind : (s.core core).engs.find? (·.id = e.id) = some e)
    (hcmd : t.commands = s.commands) (hid : x.id = e.id) (htodo : x.todo = e.todo.erase k) {now : State → Eng → Prop}
    (hnow : now (t.engineActed.setEng core x) x) : e.Acts core k (.next (t.engineActed.setEng core x)) now :=
  ⟨_, x, rfl, State.find_acted hc hfind hcmd hid, htodo, hnow⟩

end

/-! ### A unit of a command (R211, R220) -/

section
variable {s t : State} {core k : Nat} {sl : Slot} {e x : Eng}

/-- A unit of an issued command on a core that may be applied now (R211). -/
structure State.UnitDue (s : State) (core k : Nat) (sl : Slot) (e : Eng) : Prop where
  found : (s.core core).engs.find? (·.id = e.id) = some e
  slot : s.slot? core e.slot = some sl
  held : e.held = false
  left : k ∈ e.todo
  may : s.unitMay core sl e k = true

/-- ENGINE_COMPLETION applies a unit of a command that is not held (R211). -/
theorem State.UnitDue.exec_eq (h : s.UnitDue core k sl e) : exec (.engineCompletion core e.id (.unit k)) s =
    .next ((unitEng s core sl e k).1.engineActed.setEng core (unitEng s core sl e k).2) := by
  show execEngineCompletion core e.id (.unit k) s = _
  unfold execEngineCompletion
  rw [h.found, needSome_some, h.slot, needSome_some]
  exact need_of (by simp [h.held, h.left, h.may]) _

/-- A unit that is applied: the command stands as the unit left it, with one less to apply. -/
theorem State.UnitDue.acts (h : s.UnitDue core k sl e) (hunit : unitEng s core sl e k = (t, x)) (hcmd : t.commands = s.commands)
    (hid : x.id = e.id) (htodo : x.todo = e.todo.erase k) (hstatus : x.status = e.status) {now : State → Prop}
    (hnow : ∀ u, t.SameMem u → now u) :
    e.Acts core k (exec (.engineCompletion core e.id (.unit k)) s) fun u y => y.status = e.status ∧ now u := by
  have hx := h.exec_eq
  rw [hunit] at hx
  exact hx ▸ Eng.acts_setEng (State.core_lt_of_slot h.slot) h.found hcmd hid htodo ⟨hstatus, hnow _ (t.sameMem_acted core x)⟩

/-! #### Copies (R211, R212) -/

theorem State.commands_of_memOnly (h : s.MemOnly t) : t.commands = s.commands :=
  (congrArg State.commands h :)

theorem Eng.commands_writeDst {off n v : Nat} (h : e.writeDst s sl off n v = .ok t) : t.commands = s.commands := by
  unfold Eng.writeDst at h
  split at h
  · split at h
    · cases h
    · cases h
      exact s.commands_storeLocal _ _ _ _ _
  · unfold writeVa at h
    split at h
    · cases h
    · split at h
      · cases h
      · cases h
        exact State.commands_of_memOnly (s.memOnly_writePieces _ _ _)

/-- A copy with one unit more moved. -/
def Eng.moved (e : Eng) (k : Nat) : Eng := { e.did k with count := (e.did k).prefixBytes }

/-- A unit of a copy with no sync word stores its bytes (R211). -/
theorem unitEng_copy (hcopy : (∃ f, e.instr = .xcopy f) ∨ ∃ f, e.instr = .xfill f) (hsync : bit (e.dw 3) 15 = false) {v : Nat}
    (hread : e.readSrc s sl (64 * k) (min 64 (e.total - 64 * k)) = .ok v)
    (hwrite : e.writeDst s sl (64 * k) (min 64 (e.total - 64 * k)) v = .ok t) :
    unitEng s core sl e k = (t, e.moved k) := by
  have hunit : unitEng s core sl e k = unitCopy s core sl e k := by
    obtain ⟨f, hf⟩ | ⟨f, hf⟩ := hcopy <;> simp only [unitEng, hf]
  have hraise : t.raiseFor core sl (e.moved k) = .ok t := if_neg (ne_true_of_eq_false hsync)
  unfold Eng.moved at hraise
  simp only [hunit, unitCopy, hread, hwrite, hraise]
  rfl

/-! #### SYNCI (R213) -/

theorem unitEng_synci {f : FSynci} (hf : e.instr = .synci f) (hp : s.poisonedLocal core sl (e.a.toNat % 2 ^ 64) 16 = false) :
    unitEng s core sl e 0 = (s.storeLocal core sl (e.a.toNat % 2 ^ 64) 16 (e.b.toNat % 2 ^ 40 +
      bits (s.readLocal core sl (e.a.toNat % 2 ^ 64) 8) 40 24 * 2 ^ 40), e.did 0) := by
  simp only [unitEng, hf, unitSynci, State.localFail_of_sound hp]

/-- What a store to one unit of a partition leaves (R280, R303). -/
theorem State.storeLocal_leaves (hc : core < s.cores.length) (hw : s.MemWf) {off n : Nat} (v : Nat)
    (hu : off / 0x4000 = (off + n - 1) / 0x4000) :
    let r := s.storeLocal core sl off n v
    (∀ c, c ≠ core → (r.core c).mem = (s.core c).mem) ∧
      (∀ a, (∀ j < n, a ≠ sl.localAddr (off + j)) → (r.core core).mem.get a = (s.core core).mem.get a) ∧
      ∀ j < n, (r.core core).mem.get (sl.localAddr (off + j)) = BitVec.ofNat 8 (v / 256 ^ j) := by
  intro r
  have hwf := (State.memWf_iff.mp hw).2 core
  have hmem : (r.core core).mem = writeLocalMem (s.core core).mem sl off n v := by
    simp only [r, State.storeLocal]
    rw [State.core_modCore _ _ _ hc]
  refine ⟨fun c hne => ?_, fun a ha => ?_, fun j hj => ?_⟩
  · simp only [r, State.storeLocal]
    rw [State.core_modCore_ne _ _ hne]
  · rw [hmem, get_writeLocalMem_other hwf sl _ ha]
  · rw [hmem, get_writeLocalMem_in hwf sl _ _ _ j hj (sl.localAddr_inj hu)]

/-! #### SCAT (R208) -/

theorem unitEng_scat {f : FScat} {gpa key : Nat} (hf : e.instr = .scat f) (hlost : s.lost key = false)
    (hwalk : walkVa s sl.chair sl.asid (!e.priv) .store (e.laneAddr k) f.w.bytes = .ok (gpa, key)) :
    unitEng s core sl e k = (s.storeGlobal sl.chair gpa key f.w.bytes (bits e.b.toNat (64 * k) (8 * f.w.bytes)),
      { e.did k with count := e.count + 1 }) := by
  simp only [unitEng, hf, unitScatter, scatterOf, hwalk, hlost, Bool.false_eq_true, if_false]

end

/-! ### A command that completes (R177, R220, R320) -/

section
variable {s : State} {core : Nat} {sl : Slot} {e : Eng}

/-- The command is gone, and its entry has taken its word where it still waited: COUNT as the command has it, or free. -/
def Eng.Ends (e : Eng) (core : Nat) (cq : List CqEntry) (o : Out) : Prop :=
  ∃ u n, o = .next u ∧ (u.core core).engs.find? (·.id = e.id) = none ∧ (e.countFree = false → n = e.count) ∧
    (u.core core).cq = modEntry cq e.slot e.cq e.seq fun x => if x.st = .pending then x.complete (complWord n e.status) else x

theorem find?_engs_dropped (l : List Eng) (n : Nat) : (l.filter (·.id ≠ n)).find? (·.id = n) = none := by
  refine List.find?_eq_none.mpr fun x hx => ?_
  simpa using (List.mem_filter.mp hx).2

/-- ENGINE_COMPLETION completes a command that is not held and has no unit left. -/
theorem exec_finish (hfind : (s.core core).engs.find? (·.id = e.id) = some e) (hs : s.slot? core e.slot = some sl)
    (hheld : e.held = false) (htodo : e.todo = []) : exec (.engineCompletion core e.id .finish) s = finish s core sl e := by
  show execEngineCompletion core e.id .finish s = _
  unfold execEngineCompletion
  rw [hfind, needSome_some, hs, needSome_some]
  exact need_of (by simp [hheld, htodo]) _

/-- A command removed is on its core no more, and no completion entry changes. -/
theorem State.dropEng_leaves (hc : core < s.cores.length) :
    ((s.dropEng core e).core core).engs.find? (·.id = e.id) = none ∧ ((s.dropEng core e).core core).cq = (s.core core).cq := by
  rw [State.dropEng, State.core_modCore _ _ _ hc]
  exact ⟨find?_engs_dropped _ _, rfl⟩

theorem State.ends_finishEng (hc : core < s.cores.length) : e.Ends core (s.core core).cq (.next (s.finishEng core e)) := by
  have hends (n : Nat) (r : State) (hr : r.cores = s.cores) :
      (((r.completeCq core e.slot e.cq e.seq (complWord n e.status)).dropEng core e).core core).engs.find? (·.id = e.id) = none ∧
      (((r.completeCq core e.slot e.cq e.seq (complWord n e.status)).dropEng core e).core core).cq =
        modEntry (s.core core).cq e.slot e.cq e.seq fun x => if x.st = .pending then x.complete (complWord n e.status) else x := by
    have hcr : core < r.cores.length := hr ▸ hc
    have hcore : r.core core = s.core core := by rw [State.core, hr, State.core]
    obtain ⟨hgone, hcq⟩ := State.dropEng_leaves (s := r.completeCq core e.slot e.cq e.seq (complWord n e.status)) (e := e)
      (by simpa [State.completeCq] using hcr)
    refine ⟨hgone, hcq.trans ?_⟩
    rw [State.completeCq, State.core_modCore _ _ _ hcr, hcore]
  cases hfree : e.countFree with
  | true =>
    obtain ⟨hgone, hcq⟩ := hends (s.draw (2 ^ 56)).1 (s.draw (2 ^ 56)).2 rfl
    exact ⟨_, _, by rw [State.finishEng, hfree]; rfl, hgone, fun h => absurd (hfree.symm.trans h) (by decide), hcq⟩
  | false =>
    obtain ⟨hgone, hcq⟩ := hends e.count s rfl
    exact ⟨_, _, by rw [State.finishEng, hfree]; rfl, hgone, fun _ => rfl, hcq⟩

end

end Sys2Proof.Machine

/-! PROOFS. SEQC, and the engine commands (O54). -/

namespace Sys2Proof.Machine
open Sys2Proof

section
variable {s : State} {core : Nat} {sl : Slot} {e : Eng}

/-- An invalidation whose steps have ended changes no completion entry but its own (R217, R329). -/
theorem State.ends_dropRoots (hc : core < s.cores.length) (chair : Nat) :
    e.Ends core (s.core core).cq (.next ((s.dropRoots chair e).finishEng core e)) := by
  have hcore : (s.dropRoots chair e).cores.length = s.cores.length ∧ ((s.dropRoots chair e).core core).cq = (s.core core).cq := by
    unfold State.dropRoots
    split
    · refine ⟨by simp, ?_⟩
      rw [State.core_map s _ core]
      rfl
    · exact ⟨rfl, rfl⟩
  have h := State.ends_finishEng (s := s.dropRoots chair e) (e := e) (hcore.1 ▸ hc)
  rwa [hcore.2] at h

/-- A command that is neither a LAUNCH nor an invalidation completes at once. -/
theorem finish_of_plain (hl : ∀ f, e.instr ≠ .launch f) (hr : ∀ f, e.instr ≠ .invr f) (ha : ∀ f, e.instr ≠ .inva f) :
    finish s core sl e = .next (s.finishEng core e) := by
  unfold finish
  split
  · exact absurd ‹_› (hl _)
  · exact absurd ‹_› (hr _)
  · exact absurd ‹_› (ha _)
  · rfl

theorem finish_of_invalidation (h : ∃ f, e.instr = .invr f ∨ e.instr = .inva f) (hdone : s.invDone sl e = true) :
    finish s core sl e = .next ((s.dropRoots sl.chair e).finishEng core e) := by
  obtain ⟨f, hf | hf⟩ := h <;> simp only [finish, hf, hdone, need_true]

theorem finish_of_failed_launch {f : FFar} (hf : e.instr = .launch f) (hst : e.status ≠ 0) :
    finish s core sl e = .next (s.finishEng core e) := by
  simp only [finish, hf, if_pos hst]

theorem finish_of_launched {f : FFar} (hf : e.instr = .launch f) (hst : e.status = 0) (harb : s.atArbiter core sl e = false) :
    finish s core sl e = .next (s.dropEng core e) := by
  simp only [finish, hf, hst, ne_eq, not_true_eq_false, if_false, harb, Bool.not_false, need_true]

end

/-! ### SEQC (R74, R75, R276) -/

section
variable {s t : State} {core : Nat} {sl : Slot} {e x : Eng}

/-- A SEQC on a core that may act on its record, which lies at a key: its step has come, or is past (R74, R273, R278). -/
structure State.SeqcDue (s : State) (core key : Nat) (sl : Slot) (e : Eng) : Prop where
  found : (s.core core).engs.find? (·.id = e.id) = some e
  slot : s.slot? core e.slot = some sl
  seqc : ∃ f, e.instr = .seqc f
  held : e.held = false
  left : 0 ∈ e.todo
  first : (s.core core).seqBefore e = false
  may : s.unitsMay core sl e = true
  keyed : s.seqKey sl.chair (bits (e.dw 0) 0 20) true = .ok key
  come : bits (e.dw 0) 32 32 ≤ s.hbm.read (key + 4) 4

/-- SEQC_RETIRE: a SEQC whose step has come acts on its record (R74, R278). -/
theorem State.SeqcDue.exec_eq {key : Nat} (h : s.SeqcDue core key sl e) (hact : actSeqc s sl.chair key e = (t, x))
    (hid : x.id = e.id) : exec (.seqcRetire core e.id) s = .next (t.engineActed.setEng core x) := by
  obtain ⟨f, hf⟩ := h.seqc
  show execSeqcRetire core e.id s = _
  unfold execSeqcRetire
  dsimp only
  rw [h.found, needSome_some, h.slot, needSome_some, need_of (by simp [hf, h.held, h.left, h.first, h.may]), h.keyed]
  dsimp only
  rw [hact, need_of (decide_eq_true h.come), State.setEng, hid]

/-- A SEQC that has acted has nothing left to do, with COUNT as it acted. -/
theorem State.SeqcDue.acts {key len res : Nat} (h : s.SeqcDue core key sl e) (hact : actSeqc s sl.chair key e = (t, x))
    (hcmd : t.commands = s.commands) (hid : x.id = e.id) (htodo : x.todo = e.todo.erase 0)
    (hcount : x.count / 2 ^ 24 = len ∧ bits x.count 8 8 = res) {now : State → Prop} (hnow : ∀ u, t.SameMem u → now u) :
    e.Acts core 0 (exec (.seqcRetire core e.id) s) fun u y => y.count / 2 ^ 24 = len ∧ bits y.count 8 8 = res ∧ now u := by
  rw [h.exec_eq hact hid]
  exact Eng.acts_setEng (State.core_lt_of_slot h.slot) h.found hcmd hid htodo
    ⟨hcount.1, hcount.2, hnow _ (t.sameMem_acted core x)⟩

/-- The fields of COUNT of a SEQC (R276). -/
theorem seqcCount_fields (len : Nat) (ended : Bool) {res acc : Nat} (hr : res < 256) (ha : acc < 256) :
    seqcCount len ended res acc / 2 ^ 24 = len ∧ bits (seqcCount len ended res acc) 8 8 = res := by
  have he := bnat_lt_two ended
  simp only [seqcCount, bits]
  omega

/-- ACC of a SEQC that accepts no draft. -/
theorem Eng.noneAccepted_lt (e : Eng) : (if e.seqTree then 0xFF else 0) < 256 := by split <;> decide

/-- A SEQC that the table of R74 turns away leaves every byte, and says why. -/
theorem actSeqc_idle {chair key res : Nat} (h : s.seqcIdle key e = some res) :
    actSeqc s chair key e = (s, { e.did 0 with count := seqcCount (s.hbm.read key 4) false res (if e.seqTree then 0xFF else 0) }) := by
  simp only [actSeqc, h]

theorem State.SeqcDue.idle {key res : Nat} (h : s.SeqcDue core key sl e) (hidle : s.seqcIdle key e = some res) (hr : res < 256) :
    e.Acts core 0 (exec (.seqcRetire core e.id) s) fun u y =>
      y.count / 2 ^ 24 = s.hbm.read key 4 ∧ bits y.count 8 8 = res ∧ u.hbm = s.hbm :=
  h.acts (actSeqc_idle hidle) rfl rfl rfl (seqcCount_fields _ _ hr e.noneAccepted_lt) fun _ hu => hu.hbm

/-- A record with a bonus token: LEN and STEP one further, and the token as LAST (R75). -/
def withBonus (m : Memory) (key token : Nat) : Memory :=
  let m' := m.write key 8 (m.read key 4 + 1 + (m.read (key + 4) 4 + 1) % 2 ^ 32 * 2 ^ 32)
  m'.write (key + 32) 8 (m'.read (key + 32) 8 / 2 ^ 18 * 2 ^ 18 + token)

/-- A SEQC that accepts no draft offers its sample alone. -/
theorem Eng.offered_bonus (hdata : e.data = []) (htok : e.token < 2 ^ 18) : e.offered = [e.token] := by
  have hne : e.token ≠ emptyToken := by unfold emptyToken; omega
  simp [Eng.offered, hdata, hne]

/-- What a bonus token alone makes of a record (R74 to R76, R276). -/
theorem actSeqc_bonus {chair key : Nat} (hidle : s.seqcIdle key e = none) (hdata : e.data = []) (htok : e.token < 2 ^ 18)
    (hstop : s.hbm.get (key + 11) = 0) (hlen : s.hbm.read key 4 < 2 ^ 24) :
    actSeqc s chair key e = ({ s with hbm := withBonus s.hbm key e.token },
      { e.did 0 with count := seqcCount (s.hbm.read key 4 + 1) false 0 (if e.seqTree then 0xFF else 0) }) := by
  have hoff := Eng.offered_bonus hdata htok
  have hset : s.stopSet chair key e = none := by simp [State.stopSet, hstop]
  have hne : e.token ≠ emptyToken := by unfold emptyToken; omega
  have hroom : ¬16777216 ≤ s.hbm.read key 4 := by omega
  have hcommit : commitTokens s key [] e = ({ s with hbm := withBonus s.hbm key e.token },
      seqcCount (s.hbm.read key 4 + 1) false 0 (if e.seqTree then 0xFF else 0)) := by
    simp [commitTokens, hdata, hoff, cutAtStop, hroom, hne, withBonus]
  simp only [actSeqc, hidle, hset, Option.bind_none, State.stopTokens, hcommit]

/-- A write of one value is a write of its low and of its high bytes. -/
theorem Memory.write_add (m : Memory) (a n k v : Nat) : m.write a (n + k) v = (m.write a n v).write (a + n) k (v / 256 ^ n) := by
  induction n generalizing m a v with
  | zero => simp [Memory.write]
  | succ n ih =>
    rw [Nat.add_right_comm, Memory.write, ih, Memory.write, Nat.div_div_eq_div_mul, ← Nat.pow_succ', Nat.add_assoc a 1 n,
      Nat.add_comm 1 n]

/-- What a record with a bonus token reads as, and what else it leaves. -/
theorem withBonus_leaves {m : Memory} (hw : m.wf = true) (key : Nat) {token : Nat} (htok : token < 2 ^ 18)
    (hlen : m.read key 4 < 2 ^ 24) :
    (withBonus m key token).read key 4 = m.read key 4 + 1 ∧
      (withBonus m key token).read (key + 4) 4 = (m.read (key + 4) 4 + 1) % 2 ^ 32 ∧
      (withBonus m key token).read (key + 32) 8 % 2 ^ 18 = token ∧
      ∀ a, a < key ∨ key + 40 ≤ a → (withBonus m key token).get a = m.get a := by
  have hstep : (m.read (key + 4) 4 + 1) % 2 ^ 32 < 2 ^ 32 := Nat.mod_lt _ (by decide)
  unfold withBonus
  dsimp only
  generalize m.read key 4 = len at hlen ⊢
  generalize (m.read (key + 4) 4 + 1) % 2 ^ 32 = step at hstep ⊢
  have hcut := m.write_add key 4 4 (len + 1 + step * 2 ^ 32)
  have hlow := Memory.write_wf hw key 4 (len + 1 + step * 2 ^ 32)
  have hcount := Memory.write_wf hw key 8 (len + 1 + step * 2 ^ 32)
  generalize hlast : (m.write key 8 (len + 1 + step * 2 ^ 32)).read (key + 32) 8 / 2 ^ 18 * 2 ^ 18 + token = last
  refine ⟨?_, ?_, ?_, fun a ha => ?_⟩
  · rw [Memory.read_write_other hcount _ (.inl (by omega)), hcut, Memory.read_write_other hlow _ (.inl (by omega)),
      Memory.read_write hw]
    omega
  · rw [Memory.read_write_other hcount _ (.inl (by omega)), hcut, Memory.read_write hlow]
    omega
  · rw [Memory.read_write hcount]
    omega
  · rw [Memory.get_write_other hcount _ (by omega), Memory.get_write_other hw _ (by omega)]

/-- A record whose step the SEQC's has passed turns it away (R74). -/
theorem State.seqcIdle_past {key : Nat} (h : bits (e.dw 0) 32 32 < s.hbm.read (key + 4) 4) : s.seqcIdle key e = some 1 := if_pos h

/-- A record at the step of the SEQC turns it away by its flags alone (R74). -/
theorem State.seqcIdle_at {key : Nat} (h : s.hbm.read (key + 4) 4 = bits (e.dw 0) 32 32) : s.seqcIdle key e =
    if bit (s.hbm.get (key + 8)).toNat 0 then some 2 else if bit (s.hbm.get (key + 8)).toNat 1 then some 3 else none :=
  if_neg (by omega)

theorem State.SeqcDue.bonus {key : Nat} (h : s.SeqcDue core key sl e) (hidle : s.seqcIdle key e = none) (hdata : e.data = [])
    (htok : e.token < 2 ^ 18) (hstop : s.hbm.get (key + 11) = 0) (hlen : s.hbm.read key 4 < 2 ^ 24) (hw : s.MemWf) :
    e.Acts core 0 (exec (.seqcRetire core e.id) s) fun u y =>
      y.count / 2 ^ 24 = s.hbm.read key 4 + 1 ∧ bits y.count 8 8 = 0 ∧ u.hbm.read key 4 = s.hbm.read key 4 + 1 ∧
        u.hbm.read (key + 4) 4 = (s.hbm.read (key + 4) 4 + 1) % 2 ^ 32 ∧ u.hbm.read (key + 32) 8 % 2 ^ 18 = e.token ∧
        ∀ a, a < key ∨ key + 40 ≤ a → u.hbm.get a = s.hbm.get a := by
  refine h.acts (actSeqc_bonus hidle hdata htok hstop hlen) rfl rfl rfl
    (seqcCount_fields _ _ (by decide) e.noneAccepted_lt) fun u hu => ?_
  have hbonus : u.hbm = withBonus s.hbm key e.token := hu.hbm
  rw [hbonus]
  exact withBonus_leaves hw.1 key htok hlen

end

/-! ### The statement -/

section
variable {s : State} {core : Nat} {sl : Slot} {e : Eng}

/-- The units of copies, of SYNCI and of SCAT, as they are applied (R208, R211 to R213). -/
theorem State.UnitDue.stores {k : Nat} (h : s.UnitDue core k sl e) :
    let acts (also : State → Prop) : Prop :=
      e.Acts core k (exec (.engineCompletion core e.id (.unit k)) s) fun u x => x.status = e.status ∧ also u
    ((∃ f, e.instr = .xcopy f) ∨ (∃ f, e.instr = .xfill f) → bit (e.dw 3) 15 = false →
      ∀ v t, e.readSrc s sl (64 * k) (min 64 (e.total - 64 * k)) = .ok v →
        e.writeDst s sl (64 * k) (min 64 (e.total - 64 * k)) v = .ok t → acts t.MemAs) ∧
    (∀ f, e.instr = .synci f → k = 0 → s.MemWf → ∀ off, off = e.a.toNat % 2 ^ 64 → off / 0x4000 = (off + 15) / 0x4000 →
      s.poisonedLocal core sl off 16 = false →
      acts fun u => u.hbm = s.hbm ∧ (∀ c, c ≠ core → (u.core c).mem = (s.core c).mem) ∧
        (∀ a, (∀ j < 16, a ≠ sl.localAddr (off + j)) → (u.core core).mem.get a = (s.core core).mem.get a) ∧
        ∀ j < 16, (u.core core).mem.get (sl.localAddr (off + j)) =
          BitVec.ofNat 8 ((e.b.toNat % 2 ^ 40 + bits (s.readLocal core sl off 8) 40 24 * 2 ^ 40) / 256 ^ j)) ∧
    (∀ f gpa key, e.instr = .scat f → s.MemWf → s.lost key = false →
      walkVa s sl.chair sl.asid (!e.priv) .store (e.laneAddr k) f.w.bytes = .ok (gpa, key) →
      acts fun u => (∀ c, (u.core c).mem = (s.core c).mem) ∧
        (∀ a, a < key ∨ key + f.w.bytes ≤ a → u.hbm.get a = s.hbm.get a) ∧
        ∀ j < f.w.bytes, u.hbm.get (key + j) = (s.chair sl.chair).keepHold (gpa + j) (s.hbm.get (key + j))
          (BitVec.ofNat 8 (bits e.b.toNat (64 * k) (8 * f.w.bytes) / 256 ^ j))) := by
  refine ⟨fun hcopy hsync v t hread hwrite => ?copy, fun f hf h0 hw off hoff hunit hp => ?synci,
    fun f gpa key hf hw hlost hwalk => ?scat⟩
  case copy =>
    exact h.acts (unitEng_copy hcopy hsync hread hwrite) (Eng.commands_writeDst hwrite) rfl rfl rfl fun u hu => hu.memAs
  case synci =>
    subst h0 hoff
    obtain ⟨hother, hrest, hbytes⟩ := State.storeLocal_leaves (State.core_lt_of_slot h.slot) hw (sl := sl) (n := 16)
      (e.b.toNat % 2 ^ 40 + bits (s.readLocal core sl (e.a.toNat % 2 ^ 64) 8) 40 24 * 2 ^ 40) hunit
    refine h.acts (unitEng_synci hf hp) (s.commands_storeLocal _ _ _ _ _) rfl rfl rfl
      fun u hu => ⟨hu.hbm, fun c hc => (hu.mem c).trans (hother c hc), fun a ha => ?_, fun j hj => ?_⟩
    · rw [hu.mem]
      exact hrest a ha
    · rw [hu.mem]
      exact hbytes j hj
  case scat =>
    obtain ⟨hbytes, hrest⟩ := State.stored_storeGlobal hw sl.chair gpa key f.w.bytes (bits e.b.toNat (64 * k) (8 * f.w.bytes))
    exact h.acts (unitEng_scat hf hlost hwalk) rfl rfl rfl rfl
      fun u hu => ⟨hu.mem, fun a ha => by rw [hu.hbm, hrest a ha], fun j hj => by rw [hu.hbm, hbytes j hj]⟩

/-- How a command with no unit left completes (R177, R217, R220). -/
theorem Eng.ends_of_finish (hfind : (s.core core).engs.find? (·.id = e.id) = some e) (hs : s.slot? core e.slot = some sl)
    (hheld : e.held = false) (htodo : e.todo = []) :
    let o := exec (.engineCompletion core e.id .finish) s
    ((∀ f, e.instr ≠ .launch f) → (∀ f, e.instr ≠ .invr f) → (∀ f, e.instr ≠ .inva f) → e.Ends core (s.core core).cq o) ∧
    ((∃ f, e.instr = .invr f ∨ e.instr = .inva f) → s.invDone sl e = true → e.Ends core (s.core core).cq o) ∧
    ∀ f, e.instr = .launch f → (e.status ≠ 0 → e.Ends core (s.core core).cq o) ∧
      (e.status = 0 → s.atArbiter core sl e = false → ∃ u, o = .next u ∧
        (u.core core).engs.find? (·.id = e.id) = none ∧ (u.core core).cq = (s.core core).cq) := by
  have hc := State.core_lt_of_slot hs
  have ho := exec_finish hfind hs hheld htodo
  refine ⟨fun hl hr ha => ?_, fun h hdone => ?_, fun f hf => ⟨fun hst => ?_, fun hst harb => ?_⟩⟩
  · rw [ho, finish_of_plain hl hr ha]
    exact State.ends_finishEng hc
  · rw [ho, finish_of_invalidation h hdone]
    exact State.ends_dropRoots hc sl.chair
  · rw [ho, finish_of_failed_launch hf hst]
    exact State.ends_finishEng hc
  · exact ⟨_, ho.trans (finish_of_launched hf hst harb), State.dropEng_leaves hc⟩

end

/-- Settles O54: a command that issues, a unit that is applied, a command that completes, and SEQC, each by its own rule. -/
theorem enginesRunTheirCommands : Obligations.EnginesRunTheirCommands := by
  intro s core sl e hfind hs now copy
  refine ⟨fun hmay => ?issue, fun k hheld hk hmay => State.UnitDue.stores ⟨hfind, hs, hheld, hk, hmay⟩,
    fun hheld htodo => Eng.ends_of_finish hfind hs hheld htodo, fun f key hf hheld htodo hfirst hmay hkey hcome => ?seqc⟩
  case issue =>
    obtain ⟨u, hu, hengs, hmem⟩ := exec_heldCommandIssue_joins hmay hs
    obtain ⟨hid, hheld⟩ := (s.dropEng core e).issueEng_id core sl e
    exact ⟨u, _, hu, hengs, hid, hheld, hmem.hbm, hmem.mem core,
      fun hcopy hseen hp hd => State.issueEng_reserved hs hcopy hseen hp hd⟩
  case seqc =>
    have hdue : s.SeqcDue core key sl e := ⟨hfind, hs, ⟨f, hf⟩, hheld, htodo, hfirst, hmay, hkey, hcome⟩
    refine ⟨fun h => hdue.idle (State.seqcIdle_past h) (by decide), fun h hdone => hdue.idle ?_ (by decide),
      fun h hdone hhold => hdue.idle ?_ (by decide),
      fun h hdone hhold hdata htok hstop hlen hw => hdue.bonus ?_ hdata htok hstop hlen hw⟩
    · rw [State.seqcIdle_at h, if_pos hdone]
    · rw [State.seqcIdle_at h, if_neg (ne_true_of_eq_false hdone), if_pos hhold]
    · rw [State.seqcIdle_at h, if_neg (ne_true_of_eq_false hdone), if_neg (ne_true_of_eq_false hhold)]

end Sys2Proof.Machine

/-! PROOFS. Service writes to a chair's block (O57). -/

namespace Sys2Proof.Machine
open Sys2Proof

/-! ### Fields of a word (R299, R340) -/

/-- A field of a word that is cut above it. -/
theorem bits_mod_two_pow (w : Nat) {m lo n : Nat} (h : lo + n ≤ m) : bits (w % 2 ^ m) lo n = bits w lo n := by
  obtain ⟨d, rfl⟩ := Nat.exists_eq_add_of_le h
  rw [bits, bits, Nat.pow_add, Nat.pow_add, Nat.mul_assoc, Nat.mod_mul_right_div_self, Nat.mod_mul_right_mod]

theorem bits_ofNat (w : Nat) {m lo n : Nat} (h : lo + n ≤ m) : bits (BitVec.ofNat m w).toNat lo n = bits w lo n := by
  rw [BitVec.toNat_ofNat, bits_mod_two_pow w h]

/-- A bit that is put is the bit of the word. -/
theorem bit_putField (w i : Nat) (b : Bool) : bit (putField w i 1 (bnat b)) i = b := by
  have hlow : w % 2 ^ i < 2 ^ i := Nat.mod_lt _ (Nat.two_pow_pos i)
  have hsplit : putField w i 1 (bnat b) = 2 ^ i * (2 * (w / 2 ^ (i + 1)) + bnat b) + w % 2 ^ i := by
    have hb := Nat.mod_eq_of_lt (bnat_lt_two b)
    simp only [putField, hb, Nat.pow_succ]
    ring
  have hbits : bits (putField w i 1 (bnat b)) i 1 = bnat b := by
    rw [hsplit, bits, Nat.mul_add_div (Nat.two_pow_pos i), Nat.div_eq_of_lt hlow]
    have := bnat_lt_two b
    omega
  rw [bit, hbits]
  cases b <;> rfl

/-- A word of the bits of another from `lo` on, below `hi`, with the other's low bits: the two fields are the other's. -/
theorem keepBits_fields {v lo hi n k : Nat} (hv : v < 2 ^ 64) (hhi : hi = lo + n) (hle : hi ≤ 64) (hk : k ≤ lo) :
    bits (BitVec.ofNat 64 (keepBits v lo hi + v % 2 ^ k)).toNat lo n = bits v lo n ∧
      bits (BitVec.ofNat 64 (keepBits v lo hi + v % 2 ^ k)).toNat 0 k = v % 2 ^ k := by
  obtain ⟨-, hfield⟩ := keepBits_field v lo hi n hv hhi hle
  have hlow : v % 2 ^ k < 2 ^ lo := (Nat.mod_lt _ (Nat.two_pow_pos k)).trans_le (Nat.pow_le_pow_right (by decide) hk)
  have hkeep : keepBits v lo hi = 2 ^ lo * bits v lo n := by
    rw [← hfield, keepBits, Nat.mul_div_cancel _ (Nat.two_pow_pos lo), Nat.mul_comm]
  obtain ⟨d, rfl⟩ := Nat.exists_eq_add_of_le hk
  constructor
  · rw [bits_ofNat _ (by omega), hkeep, bits, Nat.mul_add_div (Nat.two_pow_pos _), Nat.div_eq_of_lt hlow, Nat.add_zero, bits,
      Nat.mod_mod]
  · rw [bits_ofNat _ (by omega), hkeep, bits, Nat.pow_zero, Nat.div_one, Nat.pow_add, Nat.mul_assoc, Nat.mul_add_mod, Nat.mod_mod]

/-! ### Writes to a chair's block (R293, R299, R300, R322) -/

/-- An act of the service changes one chair alone, as it is said, and no launch and no memory of a core. -/
def State.ServiceWrites (s : State) (n : Nat) (e : Instr) (now : Chair → Prop) : Prop :=
  ∃ u, exec e s = .next u ∧ now (u.chair n) ∧ (∀ m, m ≠ n → u.chair m = s.chair m) ∧ u.launches = s.launches ∧
    ∀ k, (u.core k).mem = (s.core k).mem

section
variable {s : State} {n : Nat}

theorem State.serviceWrites_of {t : State} (hn : n < s.chairs.length) {e : Instr} (f : Chair → Chair) (hx : exec e s = .next t)
    (hs : (s.modChair n f).Same t) {now : Chair → Prop} (hnow : now (f (s.chair n))) : s.ServiceWrites n e now := by
  obtain ⟨u, hu, hchair, hrest⟩ := writes_of hn f hx hs
  exact ⟨u, hu, by rwa [hchair], hrest⟩

/-- CHCTL of a chair replaced. -/
def Chair.withCtl (c : Chair) (x : Nat) : Chair := { c with chctl := BitVec.ofNat 64 x }

theorem Chair.withCtl_fields (c : Chair) {x : Nat} (hx : x < 2 ^ 64) : (c.withCtl x).primax = bits x 0 3 ∧
    (c.withCtl x).en = bit x 16 ∧ (c.withCtl x).nctx = bits x 4 5 ∧ (c.withCtl x).rst = bit x 31 := by
  have h : (c.withCtl x).chctl.toNat = x := by rw [Chair.withCtl, BitVec.toNat_ofNat, Nat.mod_eq_of_lt hx]
  exact ⟨by rw [Chair.primax, h], by rw [Chair.en, h], by rw [Chair.nctx, h], by rw [Chair.rst, h]⟩

/-- EN takes its value, and beside it only the queues' status words change (R300, R322, R379). -/
theorem exec_chairEnableWrite (hn : n < s.chairs.length) {en : Bool} (hen : en = false ∨ LifeCycle.chairs s.lcs = true) :
    ∃ t, exec (.chairEnableWrite n en) s = .next t ∧
      (s.modChair n fun c => c.withCtl (putField c.chctl.toNat 16 1 (bnat en))).Same t := by
  have hneed : (decide (n < s.chairs.length) && (!en || LifeCycle.chairs s.lcs)) = true := by
    rcases hen with h | h <;> simp [hn, h]
  show ∃ t, execChairEnableWrite n en s = _ ∧ _
  unfold execChairEnableWrite
  rw [need_of hneed]
  dsimp only
  split
  · exact ⟨_, rfl, same_foldl (fun r k => same_setQueueStatus r n k 3 none) _ _⟩
  · split
    · exact ⟨_, rfl, .rfl' _⟩
    · refine ⟨_, rfl, same_foldl (fun r k => ?_) _ _⟩
      split
      · exact .rfl' r
      · split
        · split
          · exact same_setQueueStatus r n k 0 none
          · exact .rfl' r
        · exact .rfl' r

theorem chairEnableWrite_writes (hn : n < s.chairs.length) {en : Bool} (hen : en = false ∨ LifeCycle.chairs s.lcs = true) :
    s.ServiceWrites n (.chairEnableWrite n en) fun d => d = { s.chair n with chctl := d.chctl } ∧ d.en = en ∧
      d.primax = (s.chair n).primax ∧ d.nctx = (s.chair n).nctx ∧ d.rst = (s.chair n).rst := by
  obtain ⟨t, ht, hsame⟩ := exec_chairEnableWrite hn hen
  obtain ⟨hlt, hbit, hpri, hnctx, hrst⟩ := en_field (s.chair n).chctl.toNat (s.chair n).chctl.isLt en
  obtain ⟨fpri, fen, fnctx, frst⟩ := (s.chair n).withCtl_fields hlt
  exact State.serviceWrites_of hn _ ht hsame ⟨rfl, fen.trans hbit, fpri.trans hpri, fnctx.trans hnctx, frst.trans hrst⟩

/-! #### PRIMAX (R293) -/

/-- A slot as a chair's PRIMAX leaves it. -/
def Slot.under (sl : Slot) (chair primax : Nat) : Slot := if sl.chair = chair then sl.clampPri primax else sl

/-- The package after a chair's PRIMAX is written. -/
def State.withPrimax (s : State) (chair primax : Nat) : State :=
  { s.modChair chair fun c => c.withCtl (putField c.chctl.toNat 0 3 primax) with
    cores := s.cores.map fun (k : Core) => { k with slots := k.slots.map fun o => o.map (·.under chair primax) },
    saves := s.saves.map fun (x : SaveImage) => { x with body := x.body.under chair primax } }

theorem exec_primaxWrite (hn : n < s.chairs.length) (p : BitVec 3) :
    exec (.primaxWrite n p) s = .next (s.withPrimax n p.toNat) := need_of (decide_eq_true hn) _

theorem State.core_withPrimax (s : State) (n p k : Nat) : (s.withPrimax n p).core k =
    { s.core k with slots := (s.core k).slots.map fun o => o.map (·.under n p) } :=
  State.core_map s (f := fun k => { k with slots := k.slots.map fun o => o.map (·.under n p) }) rfl k

theorem State.slot_withPrimax (s : State) (n p k i : Nat) :
    (s.withPrimax n p).slot? k i = (s.slot? k i).map (·.under n p) := by
  rw [State.slot?, State.core_withPrimax]
  exact List.getD_map _ none (Option.map fun x : Slot => x.under n p)

theorem primaxWrite_writes (hn : n < s.chairs.length) (p : BitVec 3) :
    s.ServiceWrites n (.primaxWrite n p) fun d => d = { s.chair n with chctl := d.chctl } ∧ d.primax = p.toNat ∧
      d.en = (s.chair n).en ∧ d.nctx = (s.chair n).nctx ∧ d.rst = (s.chair n).rst := by
  obtain ⟨hlt, hpri, hen, hnctx, hrst⟩ := pri_field (s.chair n).chctl.toNat p.toNat (s.chair n).chctl.isLt p.isLt
  obtain ⟨fpri, fen, fnctx, frst⟩ := (s.chair n).withCtl_fields hlt
  have hchair : (s.withPrimax n p.toNat).chair n = (s.chair n).withCtl (putField (s.chair n).chctl.toNat 0 3 p.toNat) :=
    State.chair_modChair_same (fun c => c.withCtl (putField c.chctl.toNat 0 3 p.toNat)) hn
  refine ⟨_, exec_primaxWrite hn p, ?_, fun m hm => chair_modChair_ne s _ hm, rfl, fun k => by rw [State.core_withPrimax]⟩
  rw [hchair]
  exact ⟨rfl, fpri.trans hpri, fen.trans hen, fnctx.trans hnctx, frst.trans hrst⟩

/-! #### Grants (R300, R340) -/

/-- A bit of a bitmap that is set is set, and no other byte changes. -/
theorem Memory.get_setBitmap {m : Memory} (hw : m.wf = true) (base g : Nat) (on : Bool) :
    let m' := m.set (base + g / 8) (BitVec.ofNat 8 (putField (m.get (base + g / 8)).toNat (g % 8) 1 (bnat on)))
    bit (m'.get (base + g / 8)).toNat (g % 8) = on ∧ ∀ a, a ≠ base + g / 8 → m'.get a = m.get a := by
  refine ⟨?_, fun a ha => Memory.get_set_other hw _ ha⟩
  rw [Memory.get_set_same hw, bit, bits_ofNat _ (by omega)]
  exact bit_putField _ _ on

theorem exec_grantWrite_probe (hn : n < s.chairs.length) {g : Nat} (hg : g < 4096) (on : Bool) :
    exec (.grantWrite n (.probe g) on) s = .next (s.setBitmap (s.chair n).chprb.toNat g on) :=
  (need_of (decide_eq_true hn) _).trans (need_of (decide_eq_true hg) _)

theorem exec_grantWrite_policy (hn : n < s.chairs.length) {g : Nat} (hg : g < 256) (on : Bool) :
    exec (.grantWrite n (.policy g) on) s = .next (s.setBitmap (s.chair n).chpol.toNat g on) :=
  (need_of (decide_eq_true hn) _).trans (need_of (decide_eq_true hg) _)

theorem grantWrite_steer_writes (hn : n < s.chairs.length) (on : Bool) :
    s.ServiceWrites n (.grantWrite n .steer on) fun d => d = { s.chair n with chgrant := d.chgrant } ∧ d.chgrant.toNat = bnat on := by
  have hx : exec (.grantWrite n .steer on) s = .next (s.modChair n fun c => { c with chgrant := BitVec.ofNat 64 (bnat on) }) :=
    need_of (decide_eq_true hn) _
  refine State.serviceWrites_of hn _ hx (.rfl' _) ⟨rfl, ?_⟩
  cases on <;> rfl

/-! #### A command queue's place (R322) -/

/-- A chair with a queue placed anew: nothing of it is read. -/
def Chair.placed (c : Chair) (q : Nat) (v : BitVec 64) : Chair :=
  { c with chcq := c.chcq.set q (BitVec.ofNat 64 (keepBits v.toNat 12 52 + v.toNat % 32)), qs := c.qs.set q .reset }

theorem exec_chcqWrite (hn : n < s.chairs.length) {q : Nat} (hq : q < 4) (v : BitVec 64) :
    ∃ t, exec (.chcqWrite n q v) s = .next t ∧ (s.modChair n (Chair.placed · q v)).Same t := by
  show ∃ t, execChcqWrite n q v s = _ ∧ _
  unfold execChcqWrite
  rw [need_of (by simp [hn, hq])]
  dsimp only
  split
  · exact ⟨_, rfl, .rfl' _⟩
  · exact ⟨_, rfl, ((same_gpaTry _ _ _ _ _).trans (same_gpaTry _ _ _ _ _)).trans (same_gpaTry _ _ _ _ _)⟩

/-- Where a queue placed anew lies, and how many entries it has. -/
theorem Chair.queue?_placed (c : Chair) {q : Nat} (hq : q < c.chcq.length) (v : BitVec 64) : (c.placed q v).queue? q =
    if 6 ≤ v.toNat % 32 ∧ v.toNat % 32 ≤ 16 then some (bits v.toNat 12 40 * 0x1000, v.toNat % 32) else none := by
  obtain ⟨hbase, hlg⟩ := keepBits_fields (lo := 12) (hi := 52) (n := 40) (k := 5) v.isLt rfl (by decide) (by decide)
  have hword : (c.placed q v).chcq.getD q 0 = BitVec.ofNat 64 (keepBits v.toNat 12 52 + v.toNat % 2 ^ 5) := by
    simp [Chair.placed, List.getD_eq_getElem?_getD, hq]
  simp only [Chair.queue?, hword, hbase, hlg]
  rfl

theorem chcqWrite_writes (hn : n < s.chairs.length) {q : Nat} (hq : q < 4) (hlen : q < (s.chair n).chcq.length) (v : BitVec 64) :
    s.ServiceWrites n (.chcqWrite n q v) fun d => d = { s.chair n with chcq := d.chcq, qs := d.qs } ∧ d.queue? q =
      if 6 ≤ v.toNat % 32 ∧ v.toNat % 32 ≤ 16 then some (bits v.toNat 12 40 * 0x1000, v.toNat % 32) else none := by
  obtain ⟨t, ht, hsame⟩ := exec_chcqWrite hn hq v
  exact State.serviceWrites_of hn _ ht hsame ⟨rfl, (s.chair n).queue?_placed hlen v⟩

/-! #### The registers of the block (R70, R293, R299, R374) -/

/-- NCTX as a write of CHCTL leaves it (R293, log entry 54). -/
def Chair.nctxAfter (c : Chair) (v : Nat) : Nat := if 1 ≤ bits v 4 5 ∧ bits v 4 5 ≤ 16 then bits v 4 5 else c.nctx

/-- CHCTL as a write of it leaves it: NCTX, and RST where the write sets it. -/
def Chair.ctlAfter (c : Chair) (v : Nat) : Nat :=
  let x := putField c.chctl.toNat 4 5 (c.nctxAfter v)
  if bit v 31 then putField x 31 1 1 else x

theorem Chair.nctxAfter_lt (c : Chair) (v : Nat) : c.nctxAfter v < 32 := by
  unfold Chair.nctxAfter
  split
  · exact Nat.mod_lt _ (by decide)
  · exact Nat.mod_lt _ (by decide)

/-- The write of a register of the block at an offset. -/
def State.RegisterWrites (s : State) (n off : Nat) (v : BitVec 64) (now : Chair → Prop) : Prop :=
  s.ServiceWrites n (.serviceRegisterWrite n off v) now

theorem exec_serviceRegisterWrite_ctl (hn : n < s.chairs.length) (v : BitVec 64) :
    ∃ t, exec (.serviceRegisterWrite n 0x000 v) s = .next t ∧
      (s.modChair n fun c => c.withCtl ((s.chair n).ctlAfter v.toNat)).Same t := by
  let t0 := s.modChair n fun c => c.withCtl ((s.chair n).ctlAfter v.toNat)
  have hx : exec (.serviceRegisterWrite n 0x000 v) s =
      if bit v.toNat 31 ∧ !(s.chair n).rst then .next (t0.stopQueues n) else .next t0 := need_of (decide_eq_true hn) _
  rw [hx]
  split
  · exact ⟨_, rfl, same_foldl (fun r k => same_setQueueStatus r n k 3 none) _ _⟩
  · exact ⟨_, rfl, .rfl' _⟩

theorem ctlWrite_writes (hn : n < s.chairs.length) (v : BitVec 64) :
    s.RegisterWrites n 0x000 v fun d => d = { s.chair n with chctl := d.chctl } ∧
      d.primax = (s.chair n).primax ∧ d.en = (s.chair n).en ∧
      (1 ≤ bits v.toNat 4 5 → bits v.toNat 4 5 ≤ 16 → d.nctx = bits v.toNat 4 5) ∧ d.rst = ((s.chair n).rst || bit v.toNat 31) := by
  obtain ⟨t, ht, hsame⟩ := exec_serviceRegisterWrite_ctl hn v
  obtain ⟨hlt, hpri, hen, hnctx, hrst⟩ := rst_field (s.chair n).chctl.toNat v.toNat _ (s.chair n).chctl.isLt
    ((s.chair n).nctxAfter_lt v.toNat)
  obtain ⟨fpri, fen, fnctx, frst⟩ := (s.chair n).withCtl_fields hlt
  exact State.serviceWrites_of hn _ ht hsame ⟨rfl, fpri.trans hpri, fen.trans hen,
    fun h1 h16 => (fnctx.trans hnctx).trans (if_pos ⟨h1, h16⟩), frst.trans hrst⟩

/-- A register whose write changes the block, and of the rest at most memory. -/
theorem State.registerWrites (hn : n < s.chairs.length) {off : Nat} {v : BitVec 64} {t : State} (f : Chair → Chair)
    (h : execServiceRegisterWrite n off v s = need (decide (n < s.chairs.length)) (.next t)) (hs : (s.modChair n f).Same t)
    {now : Chair → Prop} (hnow : now (f (s.chair n))) : s.RegisterWrites n off v now :=
  have hx : exec (.serviceRegisterWrite n off v) s = .next t := h.trans (need_of (decide_eq_true hn) _)
  State.serviceWrites_of hn f hx hs hnow

/-- A register of a base from bit `lo` on, with an enable at bit 0. -/
theorem baseWord_fields (v : BitVec 64) {lo hi n : Nat} (hhi : hi = lo + n) (hle : hi ≤ 64) (hlo : 1 ≤ lo) :
    bits (BitVec.ofNat 64 (keepBits v.toNat lo hi + v.toNat % 2)).toNat lo n = bits v.toNat lo n ∧
      bit (BitVec.ofNat 64 (keepBits v.toNat lo hi + v.toNat % 2)).toNat 0 = bit v.toNat 0 := by
  obtain ⟨hbase, hbit⟩ := keepBits_fields (k := 1) v.isLt hhi hle hlo
  exact ⟨hbase, bit_eq_iff (hbit.trans (by rw [bits, Nat.pow_zero, Nat.div_one]))⟩

/-- The descriptor of a ring without its reserved bits places the same ring (R324). -/
theorem ringOf_kept (v : BitVec 64) : ringOf (BitVec.ofNat 64 (keepBits v.toNat 12 64 + v.toNat % 16)) = ringOf v := by
  obtain ⟨hbase, hlg⟩ := keepBits_fields (lo := 12) (hi := 64) (n := 52) (k := 4) v.isLt rfl (by decide) (by decide)
  have hv : bits v.toNat 0 4 = v.toNat % 2 ^ 4 := by rw [bits, Nat.pow_zero, Nat.div_one]
  have hkept : v.toNat % 16 = v.toNat % 2 ^ 4 := rfl
  rw [ringOf, hkept, hbase, hlg, ← hv]
  rfl

theorem chs2Write_writes (hn : n < s.chairs.length) (v : BitVec 64) : s.RegisterWrites n 0x008 v fun d =>
    d = { s.chair n with chs2 := d.chs2 } ∧ bits d.chs2.toNat 12 40 = bits v.toNat 12 40 ∧ bit d.chs2.toNat 0 = bit v.toNat 0 :=
  State.registerWrites hn (fun c => { c with chs2 := BitVec.ofNat 64 (keepBits v.toNat 12 52 + v.toNat % 2) }) rfl
    (.rfl' _) ⟨rfl, baseWord_fields v rfl (by decide) (by decide)⟩

theorem chseqbWrite_writes (hn : n < s.chairs.length) (v : BitVec 64) : s.RegisterWrites n 0x010 v fun d =>
    d = { s.chair n with chseqb := d.chseqb } ∧ bits d.chseqb.toNat 12 40 = bits v.toNat 12 40 := by
  refine State.registerWrites hn (fun c => { c with chseqb := BitVec.ofNat 64 (keepBits v.toNat 12 52) }) rfl (.rfl' _) ⟨rfl, ?_⟩
  have hbase := (keepBits_fields (lo := 12) (hi := 52) (n := 40) (k := 0) v.isLt rfl (by decide) (by decide)).1
  rwa [Nat.pow_zero, Nat.mod_one, Nat.add_zero] at hbase

theorem chseqnWrite_writes (hn : n < s.chairs.length) {v : BitVec 64} (hle : v.toNat ≤ 2 ^ 20) : s.RegisterWrites n 0x018 v fun d =>
    d = { s.chair n with chseqn := d.chseqn } ∧ d.chseqn = v := by
  refine State.registerWrites hn (fun c => { c with chseqn := BitVec.ofNat 64 (min (v.toNat % 2 ^ 21) (2 ^ 20)) }) rfl (.rfl' _)
    ⟨rfl, ?_⟩
  have hmin : min (v.toNat % 2 ^ 21) (2 ^ 20) = v.toNat := by omega
  rw [hmin, BitVec.ofNat_toNat, BitVec.setWidth_eq]

theorem chprbWrite_writes (hn : n < s.chairs.length) (v : BitVec 64) : s.RegisterWrites n 0x028 v fun d =>
    d = { s.chair n with chprb := v } :=
  State.registerWrites hn (fun c => { c with chprb := BitVec.ofNat 64 v.toNat }) rfl (.rfl' _)
    (by rw [BitVec.ofNat_toNat, BitVec.setWidth_eq])

theorem chpolWrite_writes (hn : n < s.chairs.length) (v : BitVec 64) : s.RegisterWrites n 0x030 v fun d =>
    d = { s.chair n with chpol := v } :=
  State.registerWrites hn (fun c => { c with chpol := BitVec.ofNat 64 v.toNat }) rfl (.rfl' _)
    (by rw [BitVec.ofNat_toNat, BitVec.setWidth_eq])

theorem chtqWrite_writes (hn : n < s.chairs.length) (v : BitVec 64) : s.RegisterWrites n 0x038 v fun d =>
    d = { s.chair n with chtq := d.chtq, trapSent := false } ∧ ringOf d.chtq = ringOf v :=
  State.registerWrites hn
    (fun c => { c with chtq := BitVec.ofNat 64 (keepBits v.toNat 12 64 + v.toNat % 16), trapSent := false }) rfl
    (same_placeRing _ _) ⟨rfl, ringOf_kept v⟩

theorem chfqWrite_writes (hn : n < s.chairs.length) (v : BitVec 64) : s.RegisterWrites n 0x040 v fun d =>
    d = { s.chair n with chfq := d.chfq } ∧ ringOf d.chfq = ringOf v :=
  State.registerWrites hn (fun c => { c with chfq := BitVec.ofNat 64 (keepBits v.toNat 12 64 + v.toNat % 16) }) rfl
    (same_placeRing _ _) ⟨rfl, ringOf_kept v⟩

theorem chstopWrite_writes (hn : n < s.chairs.length) (v : BitVec 64) : s.RegisterWrites n 0x048 v fun d =>
    d = { s.chair n with chstop := d.chstop } ∧ bits d.chstop.toNat 14 38 = bits v.toNat 14 38 ∧
      bit d.chstop.toNat 0 = bit v.toNat 0 :=
  State.registerWrites hn (fun c => { c with chstop := BitVec.ofNat 64 (keepBits v.toNat 14 52 + v.toNat % 2) }) rfl
    (.rfl' _) ⟨rfl, baseWord_fields v rfl (by decide) (by decide)⟩

theorem asidWrite_writes (hn : n < s.chairs.length) {j : Nat} (hj : j < 16) (v : BitVec 64) :
    s.RegisterWrites n (0x100 + 8 * j) v fun d =>
      d = { s.chair n with chasid := (s.chair n).chasid.set j (BitVec.ofNat 64 (v.toNat % 2 ^ 17)) } := by
  have hoff : 0x100 ≤ 0x100 + 8 * j ∧ 0x100 + 8 * j < 0x180 ∧ (0x100 + 8 * j) % 8 = 0 ∧ (0x100 + 8 * j - 0x100) / 8 = j := by omega
  have hx : execServiceRegisterWrite n (0x100 + 8 * j) v s = need (decide (n < s.chairs.length))
      (.next (s.modChair n fun c => { c with chasid := c.chasid.set j (BitVec.ofNat 64 (v.toNat % 2 ^ 17)) })) := by
    unfold execServiceRegisterWrite
    dsimp only
    split
    case h_10 => exact congrArg (need _) ((need_of (by simp [hoff]) _).trans (by rw [hoff.2.2.2]))
    all_goals omega
  exact State.registerWrites hn _ hx (.rfl' _) rfl

end

end Sys2Proof.Machine

/-! PROOFS. The other writes of the service, frames, and the service's writes (O57). -/

namespace Sys2Proof.Machine
open Sys2Proof

section
variable {s : State} {n : Nat}

/-! ### Counters (R350, R352) -/

theorem exec_errorCounterWrite_core {k : Nat} (hk : k < s.cores.length) (f : ErrField) (v : BitVec 16) {x : ErrUnit} {i : Nat}
    (hx : exec (.errorCounterWrite x f v) s = need (decide (k < s.cores.length)) (.next (s.modErr k i (·.write f v.toNat)))) :
    ∃ u, exec (.errorCounterWrite x f v) s = .next u ∧ (u.core k).errs = (s.core k).errs.modify i (·.write f v.toNat) :=
  ⟨_, hx.trans (need_of (decide_eq_true hk) _), congrArg Core.errs (State.core_modCore s k _ hk)⟩

theorem exec_errorCounterWrite_slice {k : Nat} (hk : k < 128) (f : ErrField) (v : BitVec 16) :
    exec (.errorCounterWrite (.slice k) f v) s = .next { s with sliceErrs := s.sliceErrs.modify k (·.write f v.toNat) } :=
  need_of (decide_eq_true hk) _

theorem exec_errorCounterWrite_stack {m : Nat} (hm : m < 8) (f : ErrField) (v : BitVec 16) :
    exec (.errorCounterWrite (.stack m) f v) s = .next { s with stackErrs := s.stackErrs.modify m (·.write f v.toNat) } :=
  need_of (decide_eq_true hm) _

/-- A performance counter of a core with its count, or its control, as a service write leaves it. -/
def Perf.written (p : Perf) (cnt : Bool) (v : BitVec 64) : Perf :=
  if cnt then { p with cnt := BitVec.ofNat 64 (v.toNat % 2 ^ 49) } else { p with ctl := BitVec.ofNat 64 (v.toNat % 2 ^ 16) }

theorem exec_perfCounterWrite {k i : Nat} (hk : k < s.cores.length) (hi : i < 4) (cnt : Bool) (v : BitVec 64) :
    ∃ u, exec (.perfCounterWrite k i cnt v) s = .next u ∧ (u.core k).perf = (s.core k).perf.modify i (·.written cnt v) :=
  ⟨_, need_of (by simp [hk, hi]) _, congrArg Core.perf (State.core_modCore s k _ hk)⟩

/-! ### HOLD of a sequence record (R70) -/

theorem exec_holdClear (hw : s.MemWf) {q key : Nat} {p : Perm} (hq : q < (s.chair n).seqCount)
    (hkey : stage2 s n ((s.chair n).seqAddr q) = .ok (key, p)) :
    ∃ u, exec (.holdClear n q) s = .next u ∧ u = { s with hbm := u.hbm } ∧ u.hbm.get (key + 8) = s.hbm.get (key + 8) &&& 0xFD ∧
      ∀ a, a ≠ key + 8 → u.hbm.get a = s.hbm.get a := by
  refine ⟨{ s with hbm := s.hbm.set (key + 8) (s.hbm.get (key + 8) &&& 0xFD) }, ?_, rfl, Memory.get_set_same hw.1 _ _,
    fun a ha => Memory.get_set_other hw.1 _ ha⟩
  show execHoldClear n q s = _
  rw [execHoldClear, need_of (decide_eq_true hq), hkey]

/-! ### The second stage, and frames (R302, R312, R332) -/

theorem exec_secondStageTableWrite (hn : n < s.chairs.length) {hpa : Nat} {v : BitVec 64} (hcarve : inCarve hpa 8 = true)
    (halign : hpa % 8 = 0)
    (hmay : localLeaf s v.toNat = false ∨
      localLeaf s (s.hbm.read hpa 8) = true ∧ bits (s.hbm.read hpa 8) 12 28 = bits v.toNat 12 28 ∨
      ∀ size ∈ [2 ^ 30, 2 ^ 21], s.mayHand n hpa (bits v.toNat 12 28 * 0x1000) size = true) :
    exec (.secondStageTableWrite n hpa v) s = .next (s.hpaWrite hpa 8 v.toNat) := by
  refine (need_of (by simp [hcarve, halign, hn]) _).trans (need_of ?_ _)
  rcases hmay with hplain | ⟨hleaf, hsame⟩ | hhand
  · simp [hplain]
  · simp [hleaf, hsame]
  · have hsize (b : Bool) : (if b then 2 ^ 30 else 2 ^ 21) ∈ [2 ^ 30, 2 ^ 21] := by cases b <;> simp
    rw [hhand _ (hsize _), Bool.or_true]

theorem runAct_wipe {a : Nat} (hboot : s.boot = .running) (halign : a % 2 ^ 21 = 0) (hbelow : a < 0x9E00000000)
    (hinv : s.invalidating = false) (hbusy : s.frameBusy a = false)
    (hheld : ∀ m, m < s.chairs.length → s.holdsFrame m none a (2 ^ 21) = false) :
    runAct (.wipe a) s = .next { s with
      hbm := zeroBytes s.hbm a (2 ^ 21)
      poison := s.poison.filter fun w => !(decide (a ≤ 8 * w) && decide (8 * w < a + 2 ^ 21)) } := by
  have hnone : ((List.range s.chairs.length).all fun c => !s.holdsFrame c none a (2 ^ 21)) = true := by
    simpa [List.all_eq_true] using hheld
  refine (need_of (decide_eq_true hboot) _).trans (need_of ?_ _)
  rw [decide_eq_true halign, decide_eq_true hbelow, hinv, hbusy, hnone]
  rfl

/-! ### A range that the service loads (R335) -/

theorem loadRange_next {k : Nat} {r : RangeEntry} {u : State} (h : loadRange k r s = .next u) :
    (u.core k).ranges = addRange (s.core k).ranges r ∧ r.slot = none ∧ ∀ i, i < r.len / 4096 →
      ∃ e, stage1 s k r.chair r.asid (r.va + 4096 * i) = .ok e ∧ e.perm = r.perm ∧
        e.gpa + (r.va + 4096 * i - e.va) = r.gpa + 4096 * i := by
  obtain ⟨hcond, hnext⟩ := need_next h
  simp only [Bool.and_eq_true, decide_eq_true_eq, Option.isNone_iff_eq_none, List.all_eq_true, List.mem_range] at hcond
  obtain ⟨⟨⟨⟨⟨⟨⟨hcore, hslot⟩, -⟩, -⟩, -⟩, -⟩, -⟩, hpages⟩ := hcond
  refine ⟨?_, hslot, fun i hi => ?_⟩
  · rw [← next_inj hnext, State.core_modCore s k _ hcore]
  · have hpage := hpages i hi
    split at hpage
    · rename_i e he
      simp only [Bool.and_eq_true, decide_eq_true_eq] at hpage
      exact ⟨e, he, hpage.2, hpage.1⟩
    · cases hpage

end

/-- Settles O57: each write of the service, and its wipe and its load of a range, by the rule of its own field. -/
theorem serviceWritesTakeEffect : Obligations.ServiceWritesTakeEffect := by
  intro s n hn
  refine ⟨fun en hen => chairEnableWrite_writes hn hen, fun p => ⟨primaxWrite_writes hn p, ?primax⟩, fun g on hw hg => ?probe,
    fun g on hw hg => ?policy, fun on => grantWrite_steer_writes hn on, fun q v hq hlen => chcqWrite_writes hn hq hlen v,
    fun v => ctlWrite_writes hn v, fun v => chs2Write_writes hn v, fun v => chseqbWrite_writes hn v,
    fun v hle => chseqnWrite_writes hn hle, fun v => chprbWrite_writes hn v, fun v => chpolWrite_writes hn v,
    fun v => chtqWrite_writes hn v, fun v => chfqWrite_writes hn v, fun v => chstopWrite_writes hn v,
    fun j v hj => asidWrite_writes hn hj v, fun f v => ?errs, fun k i v hk hi => ?perf,
    fun q key p hw hq hkey => exec_holdClear hw hq hkey, fun hpa v hw hcarve halign hmay => ?stage2,
    fun a hw hboot halign hbelow hinv hbusy hheld => ?wipe, fun k r u h => loadRange_next (need_next h).2⟩
  case primax =>
    refine ⟨_, exec_primaxWrite hn p, fun k i sl hsl => ?_⟩
    rw [State.slot_withPrimax, hsl]
    rfl
  case probe => exact ⟨_, exec_grantWrite_probe hn hg on, rfl, Memory.get_setBitmap hw.1 _ g on⟩
  case policy => exact ⟨_, exec_grantWrite_policy hn hg on, rfl, Memory.get_setBitmap hw.1 _ g on⟩
  case errs =>
    refine ⟨(·.write f v.toNat), ?_, ?_, ?_, ?_, ?_,
      fun k hk => ⟨exec_errorCounterWrite_core hk f v rfl, exec_errorCounterWrite_core hk f v rfl,
        exec_errorCounterWrite_core hk f v rfl⟩,
      fun k hk => exec_errorCounterWrite_slice hk f v, fun m hm => exec_errorCounterWrite_stack hm f v⟩
    all_goals rintro rfl; rfl
  case perf => exact ⟨exec_perfCounterWrite hk hi true v, exec_perfCounterWrite hk hi false v⟩
  case stage2 =>
    exact ⟨_, exec_secondStageTableWrite hn hcarve halign hmay, rfl, Memory.read_write_dw hw.1 _ v.isLt,
      fun a ha => Memory.get_write_other hw.1 _ ha⟩
  case wipe =>
    refine ⟨_, runAct_wipe hboot halign hbelow hinv hbusy hheld, rfl, fun b => get_zeroBytes _ _ _ b, fun w => ?_⟩
    simp only [List.mem_filter, Bool.not_eq_true', Bool.and_eq_false_iff, decide_eq_false_iff_not, Nat.not_le, Nat.not_lt]

end Sys2Proof.Machine
